-- ==== Sys2Proof/Word.lean ====
section
/-!
DEFINITION. The words of the machine and the finite map that its sparse parts are held in.
-/
namespace Sys2Proof

/-- A byte. -/
abbrev Byte := BitVec 8

/-- A finite map from numbers, as a list of pairs whose numbers strictly rise. -/
abbrev Map (α : Type) := List (Nat × α)

end Sys2Proof
end

