-- ==== Sys2Proof/Syntax.lean ====
section
/-!
DEFINITION. The commands of the CZ-9640: one constructor per row of the table of operations and events. An operand
is what the surroundings decide (a measured value, data that arrive, a verdict of cryptography, the unit an event
happens at); everything else is in the state.
-/
namespace Sys2Proof

/-- The kind of memory an address names, TGT of a leaf. (R583) -/
inductive Space where
  | stack
  | host
  | pool
  deriving DecidableEq, Repr

/-- A fault record; DETAIL is its 32 bytes. (R752) -/
structure FaultRec where
  /-- CODE (R752) -/
  code : Nat := 0
  /-- SEV (R752) -/
  sev : Nat := 0
  /-- CONTAIN (R752) -/
  contain : Nat := 0
  /-- FN with FN_VALID (R752) -/
  fn : Option Nat := none
  /-- CONTEXT with CTX_VALID (R752) -/
  ctx : Option Nat := none
  /-- DKIND (R753) -/
  dkind : Nat := 0
  /-- TICK (R752) -/
  tick : BitVec 64 := 0
  /-- CMD_ID (R752) -/
  cmdId : BitVec 32 := 0
  /-- REPEAT (R752) -/
  rept : Nat := 1
  /-- SEQ (R752) -/
  seq : BitVec 64 := 0
  /-- DETAIL (R753) -/
  detail : List (BitVec 8) := []
  deriving DecidableEq, Repr

/-- A namespace a controller reports. (R222) -/
structure Namespace where
  /-- identifier (R222) -/
  nsid : Nat := 0
  /-- 4,096 data bytes and at least 8 metadata bytes (R222) -/
  lbaOk : Bool := false
  /-- size in blocks (R187) -/
  blocks : Nat := 0
  deriving DecidableEq, Repr

/-- Names a group slot: logical Hearth, Burner, slot. (R360) -/
structure GroupRef where
  /-- logical Hearth (R329) -/
  hearth : Nat := 0
  /-- Burner (R341) -/
  burner : Nat := 0
  /-- slot (R347) -/
  slot : Nat := 0
  deriving DecidableEq, Repr

/-- A Route frame (header fields and payload). (R717) -/
structure Frame where
  /-- TYPE (R717) -/
  type : Nat := 0
  /-- CHANNEL, with its reserved bits (R717) -/
  channel : Nat := 0
  /-- EPOCH (R717) -/
  epoch : BitVec 32 := 0
  /-- SEQ (R717) -/
  seq : BitVec 32 := 0
  /-- OFFSET (R717) -/
  offset : BitVec 32 := 0
  /-- LSEQ (R717) -/
  lseq : BitVec 64 := 0
  /-- ARG (R717) -/
  arg : BitVec 32 := 0
  /-- OP (R717) -/
  op : BitVec 16 := 0
  /-- KIND (R717) -/
  kind : Nat := 0
  /-- byte 31 (R717) -/
  rsv : Nat := 0
  /-- payload (LENGTH is its length) (R717) -/
  payload : List (BitVec 8) := []
  deriving DecidableEq, Repr

/-- One row of the table of operations and events. -/
inductive Instr where
  /-- ISLAND_POWER_UP (R822): The Warden island powers up and the ROM chooses and runs a verified Warden firmware slot, or stays in recovery. -/
  | islandPowerUp (sigA : Bool) (sigB : Bool)
  /-- WARDEN_RESET (R849): WRD_RESET_N held low or a firmware activation resets the Warden island only, and the Warden raises 0x0902. -/
  | wardenReset (sigA : Bool) (sigB : Bool)
  /-- WARDEN_WATCHDOG_EXPIRY (R766): The Warden firmware watchdog expires and the Warden restarts within 2 s, keeping the management sink queue. -/
  | wardenWatchdogExpiry (sigA : Bool) (sigB : Bool)
  /-- FIRMWARE_SECURITY_FUSE (R830): Firmware that has run 60 s without a watchdog expiry raises the fused firmware security level to its SECURITY_VER. -/
  | firmwareSecurityFuse
  /-- RTC_TICK (R959): The real-time clock counts on while the island is powered. -/
  | rtcTick
  /-- CZ_RESET_ASSERT (R849): CZ_RESET_N held low for at least 10 us cold-resets every unit except the Warden island. -/
  | czResetAssert
  /-- CZ_RESET_RELEASE (R846): Release of CZ_RESET_N with every rail within limits moves the part from Off to Kindling and starts the start-up sequence. -/
  | czResetRelease (sigA : Bool) (sigB : Bool)
  /-- STACK_DRAM_TRAINED (R836): Stack DRAM training completes and row repair is applied from the sparing map, or a failing stack raises 0x0338. -/
  | stackDramTrained (stack : Nat) (ok : Bool)
  /-- KINDLING_EMBER_TEST (R781): The Ember Test run on all physical Hearths during Kindling completes, retiring failed Hearths. -/
  | kindlingEmberTest (failed : List Nat)
  /-- KINDLING_KNOWN_ANSWER_TESTS (R836): The known-answer tests of every listed unit complete during Kindling, entering Quenched on failure. -/
  | kindlingKnownAnswerTests (failed : Option Nat) (seed : Nat)
  /-- CELLAR_ENUMERATION (R221): The Cellar enumerates and numbers up to 16 NVMe controllers behind its root port. -/
  | cellarEnumeration (ctrls : List (List Namespace × Nat))
  /-- KINDLING_END (R22): Kindling ends at the boundary that begins tick 0, the configuration path closes and the part enters its START_STATE and presents the host link. -/
  | kindlingEnd (rate0 : Nat) (width0 : Nat) (rate1 : Nat) (width1 : Nat)
  /-- RAIL_TRIP (R921): A compute rail outside its limits for 1 us stops both compute dies and puts the part in Off without a fault. -/
  | railTrip
  /-- COMPUTE_RAILS_POWER_DOWN (R926): The board lowers the compute rails and the part enters Off, losing stack, Depot and Ledger contents. -/
  | computeRailsPowerDown
  /-- PORT0_CONVENTIONAL_RESET (R849): PERST# or Hot Reset on port 0 resets every host function and retrains port 0. -/
  | port0ConventionalReset (hot : Bool) (rate : Nat) (width : Nat)
  /-- PORT1_CONVENTIONAL_RESET (R849): PERST# or Hot Reset on port 1 retrains port 1 and reissues die 1's requests in flight. -/
  | port1ConventionalReset (hot : Bool) (rate : Nat) (width : Nat)
  /-- FUNCTION_RESET (R690): A function reset tears down the function's contexts, disables its ring and later deregisters its Recipes and tables. -/
  | functionReset (fn : Nat) (vfEnable : Bool)
  /-- THROT_IN_ASSERT (R939): THROT_IN_N going low steps the Hearth clock level to H4 within 10 us. -/
  | throtInAssert
  /-- DIE_TEMP_SAMPLE (R945): Each die's temperature is sampled every 10 us and a die at TJ_HOT steps the Hearth clock one level slower. -/
  | dieTempSample (die : Nat) (temp : Int)
  /-- POWER_SAMPLE (R922): Package power is sampled every 10 us and an average above 1,600 W over 100 us steps the Hearth clock one level slower. -/
  | powerSample (power : Nat) (throtHigh : Bool)
  /-- TICK_BOUNDARY (R45): The tick unit places a boundary and TICK_NUM increments by one. -/
  | tickBoundary
  /-- SPAN_EXPIRY (R675): A BULK or UPKEEP command not committed at the end of its span is killed and answered EXPIRED. -/
  | spanExpiry
  /-- GUARD_BAND_START (R958): At the guard band caravan commands not yet dispatched are withdrawn. -/
  | guardBandStart
  /-- CARAVAN_CLOSE (R957): Assembly ends or the admission window expires and the caravan closes, moving admitted FILED waybills to RUNNING. -/
  | caravanClose
  /-- TICK_FRAME_RECEIVE (R78): A follower receives a tick frame and tests it for sync, CRC, window and interval. -/
  | tickFrameReceive (frame : Nat) (edge : Nat)
  /-- HOLDOVER_ENTRY (R82): Two missing expected frames or a quarantined Route source put the follower in holdover and raise 0x0240. -/
  | holdoverEntry
  /-- HOLDOVER_EXPIRED (R83): After 4,096 ticks in holdover the follower sets HOLDOVER_EXPIRED and raises 0x0243 once. -/
  | holdoverExpired
  /-- DOORBELL (R627): A write to STK_DOORBELL updates PROD and PENDING or raises 0x0106. -/
  | doorbell (fn : Nat) (v : Nat)
  /-- RING_ENABLE (R626): A write to STK_RING_CFG that sets EN from 0 to 1 clears CONS and PROD. -/
  | ringEnable (fn : Nat) (v : Nat)
  /-- RING_IDLE_RECHECK (R632): After clearing PENDING the Stoker compares CONS and PROD again in the next cycle and resumes fetching. -/
  | ringIdleRecheck (fn : Nat)
  /-- MANIFEST_FETCH (R630): The Stoker reads a ring entry and acts on it when its sequence tag matches. -/
  | manifestFetch (fn : Nat)
  /-- TAG_WAIT_REREAD (R631): An entry whose tag does not match is read again every 0.25 us. -/
  | tagWaitReread (fn : Nat)
  /-- TAG_STOP (R631): After 8 us without a matching tag the Stoker sets STOPPED_TAG and stops fetching from the ring. -/
  | tagStop (fn : Nat)
  /-- ADMISSION_RESUME (R635): A held manifest is taken once the engine queue, filing rate or translation store has room. -/
  | admissionResume (fn : Nat)
  /-- DELEGATE (R643): A Delegate entry's body manifests are translated, read and admitted as if on the ring. -/
  | delegate (fn : Nat)
  /-- ADMIT (R99): An Admit files a waybill with its deadline, writes its handle, or answers it at once with a fallback. -/
  | admitCmd (cid : Nat) (idx : Nat)
  /-- ANSWER (R105): An Answer copies host bytes into a FILED waybill's result buffer and answers it ANSWERED_BY_HOST. -/
  | answer (cid : Nat)
  /-- ABANDON (R106): An Abandon answers a FILED waybill ABANDONED or sets ABANDON_REQ on a RUNNING one. -/
  | abandon (cid : Nat)
  /-- FENCE_COMMAND (R619): A Fence commits when every earlier command of its context has committed and its writes are acknowledged. -/
  | fenceCommand (cid : Nat)
  /-- CLEAR_NUMERIC_STATUS (R162): Clear Numeric Status clears the context's numeric status record at its commit. -/
  | clearNumericStatus (cid : Nat)
  /-- LOOKUP (R232): A Lookup resolves bags through the Tally and the Serais gather, pool and rescale them into F16 outputs. -/
  | lookup (cid : Nat)
  /-- UPDATE (R290): An Update merges bag gradients into pending entries of the rows' home Serais. -/
  | update (cid : Nat)
  /-- REPLACE_ROWS (R285): Replace Rows stages new rows and makes them visible at commit or at the next boundary. -/
  | replaceRows (cid : Nat)
  /-- READ_ROWS (R289): Read Rows writes each named row and its state as the home Serai holds it. -/
  | readRows (cid : Nat)
  /-- LAUNCH (R335): A Launch is checked by the dispatcher and its blocks of groups are placed on Hearths. -/
  | launch (cid : Nat)
  /-- SELECT (R490): Select writes each request's top K candidates in rank order with padding. -/
  | select (cid : Nat)
  /-- SAMPLE (R493): Sample chooses one candidate of each request from its top K with the keyed draw. -/
  | sample (cid : Nat)
  /-- COPY (R562): A Copy moves data between memory and flash in pieces handed to Drovers. -/
  | copy (cid : Nat) (errs : List Nat)
  /-- READ_LOAD_COUNTS (R317): Read Load Counts writes one record of per-shard counts and optionally resets them. -/
  | readLoadCounts (cid : Nat)
  /-- LARDER_REFRESH (R213): Larder Refresh fills and evicts Larder slots for a switch of the remap buffer. -/
  | larderRefresh (cid : Nat)
  /-- LARDER_FILL_RESUME (R215): A fill waiting on an EVICTING slot copies its row once the slot is FREE. -/
  | larderFillResume (table : Nat)
  /-- LARDER_WRITEBACK_COMPLETE (R219): A dirty evicted slot's flash block write-back completes and the slot becomes FREE. -/
  | larderWritebackComplete (table : Nat) (key : Nat)
  /-- RECALIBRATE_ROWS (R313): Recalibrate Rows re-encodes a shard range under the new scale extent and advances the watermark. -/
  | recalibrateRows (cid : Nat)
  /-- MIGRATE_SHARD (R320): Migrate Shard copies a shard's stack rows and state to a new home. -/
  | migrateShard (cid : Nat)
  /-- MIGRATION_HANDOVER_COMPLETE (R322): After the handover the old home stops using the old extents and increments SRI_MIG_RELEASED. -/
  | migrationHandoverComplete (table : Nat)
  /-- REHOME_SPAN (R605): Rehome Span copies a remote span to a new span through the home Serai. -/
  | rehomeSpan (cid : Nat)
  /-- ROUTE_EXCHANGE (R739): A Route Exchange sends and receives all-to-all data on the named ports. -/
  | routeExchange (cid : Nat)
  /-- ROUTE_REDUCE (R742): A Route Reduce performs a ring reduce-scatter and all-gather of an F16 vector. -/
  | routeReduce (cid : Nat)
  /-- ROUTE_OPERATION_START (R723): An operation first in (EPOCH, OP) order on every named port takes its SEQ and sends START. -/
  | routeOperationStart (cid : Nat)
  /-- LOAD_ROUTE_KEY_PIN (R710): Load Route Key with ACTION PIN pins a partner chain digest for a port. -/
  | loadRouteKeyPin (cid : Nat)
  /-- LOAD_ROUTE_KEY_UNPIN (R710): Load Route Key with ACTION UNPIN removes a port's pin. -/
  | loadRouteKeyUnpin (cid : Nat)
  /-- LOAD_ROUTE_KEY_REKEY (R710): Load Route Key with ACTION REKEY runs SPDM KEY_UPDATE on an UP encrypted port. -/
  | loadRouteKeyRekey (cid : Nat)
  /-- REGISTER_TABLE (R187): Register Table checks a descriptor and registers the table from the next boundary. -/
  | registerTable (cid : Nat)
  /-- DEREGISTER_TABLE (R189): Deregister Table removes an unnamed table from the next boundary. -/
  | deregisterTable (cid : Nat)
  /-- REGISTER_OPTIMISER (R301): Register Optimiser puts an optimiser record in effect for a table from the next boundary. -/
  | registerOptimiser (cid : Nat)
  /-- REGISTER_RECIPE (R656): Register Recipe checks a Recipe record and copies it into the Recipe store. -/
  | registerRecipe (cid : Nat)
  /-- DEREGISTER_RECIPE (R666): Deregister Recipe frees a Recipe slot from the next boundary. -/
  | deregisterRecipe (cid : Nat)
  /-- INVALIDATE_TRANSLATIONS (R597): Invalidate Translations drops cached and held translations of a context's range. -/
  | invalidateTranslations (cid : Nat)
  /-- CREATE_CONTEXT (R654): Create Context takes the lowest free device context number for a local slot. -/
  | createContext (cid : Nat)
  /-- DESTROY_CONTEXT (R655): Destroy Context tears down a context, deregisters its Recipes and frees its slot once drained. -/
  | destroyContext (cid : Nat)
  /-- DEBUG_HALT (R372): Debug Halt stops named groups at their next instruction boundary. -/
  | debugHalt (cid : Nat)
  /-- DEBUG_STEP (R374): Debug Step issues one instruction of a HALTED group and waits for its retirement. -/
  | debugStep (cid : Nat)
  /-- DEBUG_RESUME (R375): Debug Resume returns named HALTED groups to READY or STALLED. -/
  | debugResume (cid : Nat)
  /-- DEBUG_READ_GROUP (R376): Debug Read Group writes a group's state and registers. -/
  | debugReadGroup (cid : Nat)
  /-- REPLAY_INJECT (R814): Replay Inject copies a capture record's input and files a waybill with the recorded RUN_KEY in Banked. -/
  | replayInject (cid : Nat) (idx : Nat)
  /-- WAYBILL_COMMIT (R112): The Ledger commits a waybill in the first cycle in which every command of its Recipe has finished. -/
  | waybillCommit (wb : Nat)
  /-- COMMAND_COMMIT (R548): A BULK, UPKEEP or control command reaches its commit point and its effects become visible. -/
  | commandCommit (cid : Nat)
  /-- STREAM_SUCCESSOR_FILE (R511): The Ledger files a stream step's successor, or ends the stream, after the step commits. -/
  | streamSuccessorFile (wb : Nat) (idx : Nat)
  /-- COMPLETION_COUNTER_ADVANCE (R678): After acknowledgement the Stoker writes a completion record and advances the context's counter. -/
  | completionCounterAdvance (ctx : Nat)
  /-- WAYBILL_DRAIN_COMPLETE (R116): A DRAINING waybill whose engines and writes are released becomes FREE. -/
  | waybillDrainComplete (wb : Nat)
  /-- EXTENSION_READ_POISON (R113): A poisoned waybill extension read answers the waybill WAYBILL_LOST and raises 0x0205. -/
  | extensionReadPoison (wb : Nat)
  /-- LEDGER_ENTRY_ECC_ERROR (R119): An uncorrectable error in one core-entry copy is repaired from the other, or both lost enters Quenched. -/
  | ledgerEntryEccError (idx : Nat) (copyA : Nat) (copyB : Nat)
  /-- LEDGER_LOCKSTEP_MISMATCH (R121): Differing Ledger copies raise 0x0201 and the part enters Quenched. -/
  | ledgerLockstepMismatch
  /-- CAPTURE_CONFIG (R129): A write to LDG_CAP_CFG configures capture and setting EN from 0 to 1 clears LDG_CAP_HEAD. -/
  | captureConfig (fn : Nat) (v : Nat)
  /-- PREEMPTION (R672): A block of a class below its quantity unplaced for 1 us pre-empts the latest PREEMPTIBLE command. -/
  | preemption (cid : Nat)
  /-- BLOCK_PLACE (R340): The dispatcher places a block of groups on an eligible Hearth where it fits. -/
  | blockPlace (cid : Nat)
  /-- SPLIT_DRAIN_MARK (R346): A block waiting 20 us for a split marks one Hearth draining for a split change. -/
  | splitDrainMark (cid : Nat)
  /-- HEARTH_MOVE (R332): A draining logical Hearth moves to the spare once its physical Hearth holds no resident group. -/
  | hearthMove (hearth : Nat)
  /-- EMBER_TEST_COMPLETE (R782): An Ember Test ends; a passing Hearth becomes spare and a failing one is retired with 0x0420. -/
  | emberTestComplete (quarter : Nat) (fail : Bool)
  /-- EMBER_OVERDUE (R784): A physical Hearth 4 s without an Ember pass raises 0x0422. -/
  | emberOverdue (phys : Nat)
  /-- KNOWN_ANSWER_TEST (R777): A unit runs its known-answer test at least every 1 ms and a mismatch raises its self-check fault. -/
  | knownAnswerTest (unit : Nat) (inst : Nat) (pass : Bool)
  /-- GROUP_SELF_WAIT (R366): A group without a progress event for the watch interval raises 0x0402. -/
  | groupSelfWait (g : GroupRef)
  /-- SMOV (R392): Scalar move. -/
  | smov (g : GroupRef)
  /-- SMOVI (R392): Scalar move of a sign-extended immediate. -/
  | smovi (g : GroupRef)
  /-- SMOVHI (R392): Scalar move of an immediate into the high half. -/
  | smovhi (g : GroupRef)
  /-- SADD (R392): Scalar add. -/
  | sadd (g : GroupRef)
  /-- SADDI (R392): Scalar add immediate. -/
  | saddi (g : GroupRef)
  /-- SSUB (R392): Scalar subtract. -/
  | ssub (g : GroupRef)
  /-- SAND (R392): Scalar AND. -/
  | sand (g : GroupRef)
  /-- SOR (R392): Scalar OR. -/
  | sor (g : GroupRef)
  /-- SXOR (R392): Scalar XOR. -/
  | sxor (g : GroupRef)
  /-- SANDN (R392): Scalar AND with complement. -/
  | sandn (g : GroupRef)
  /-- SSHL (R392): Scalar shift left. -/
  | sshl (g : GroupRef)
  /-- SSHR (R392): Scalar logical shift right. -/
  | sshr (g : GroupRef)
  /-- SSAR (R392): Scalar arithmetic shift right. -/
  | ssar (g : GroupRef)
  /-- SMUL (R392): Scalar multiply, low 64 bits. -/
  | smul (g : GroupRef)
  /-- SPOPC (R392): Scalar population count. -/
  | spopc (g : GroupRef)
  /-- SFF1 (R392): Scalar index of lowest set bit. -/
  | sff1 (g : GroupRef)
  /-- SEXEC_GET (R392): Reads the execution mask into a scalar register. -/
  | sexecGet (g : GroupRef)
  /-- SEXEC_SET (R392): Writes the execution mask from a scalar register. -/
  | sexecSet (g : GroupRef)
  /-- SRD (R387): Reads a special register. -/
  | srd (g : GroupRef)
  /-- SFLRD (R392): Reads the group flag register. -/
  | sflrd (g : GroupRef)
  /-- SCMP (R392): Scalar compare by COND. -/
  | scmp (g : GroupRef)
  /-- BR (R392): Conditional relative branch for the group. -/
  | br (g : GroupRef)
  /-- JMP (R392): Jump to a scalar address. -/
  | jmp (g : GroupRef)
  /-- CALL (R392): Saves the return address and branches. -/
  | call (g : GroupRef)
  /-- VADD (R394): Vector integer add. -/
  | vadd (g : GroupRef)
  /-- VSUB (R394): Vector integer subtract. -/
  | vsub (g : GroupRef)
  /-- VMUL (R394): Vector integer multiply, low 32 bits. -/
  | vmul (g : GroupRef)
  /-- VMULHI_S (R394): Vector signed multiply, high 32 bits. -/
  | vmulhiS (g : GroupRef)
  /-- VMULHI_U (R394): Vector unsigned multiply, high 32 bits. -/
  | vmulhiU (g : GroupRef)
  /-- VMAD (R394): Vector integer multiply-add. -/
  | vmad (g : GroupRef)
  /-- VAND (R394): Vector AND. -/
  | vand (g : GroupRef)
  /-- VOR (R394): Vector OR. -/
  | vor (g : GroupRef)
  /-- VXOR (R394): Vector XOR. -/
  | vxor (g : GroupRef)
  /-- VSHL (R394): Vector shift left. -/
  | vshl (g : GroupRef)
  /-- VSHR (R394): Vector logical shift right. -/
  | vshr (g : GroupRef)
  /-- VSAR (R394): Vector arithmetic shift right. -/
  | vsar (g : GroupRef)
  /-- VMIN_S (R394): Vector signed minimum. -/
  | vminS (g : GroupRef)
  /-- VMAX_S (R394): Vector signed maximum. -/
  | vmaxS (g : GroupRef)
  /-- VMIN_U (R394): Vector unsigned minimum. -/
  | vminU (g : GroupRef)
  /-- VMAX_U (R394): Vector unsigned maximum. -/
  | vmaxU (g : GroupRef)
  /-- VABS (R394): Vector absolute value. -/
  | vabs (g : GroupRef)
  /-- VCLZ (R394): Vector count leading zeros. -/
  | vclz (g : GroupRef)
  /-- VPOPC (R394): Vector population count. -/
  | vpopc (g : GroupRef)
  /-- VCMP_S (R394): Vector signed compare into a scalar mask. -/
  | vcmpS (g : GroupRef)
  /-- VCMP_U (R394): Vector unsigned compare into a scalar mask. -/
  | vcmpU (g : GroupRef)
  /-- VSEL (R394): Vector select by a scalar mask. -/
  | vsel (g : GroupRef)
  /-- VMOV (R394): Vector move. -/
  | vmov (g : GroupRef)
  /-- VLANE (R394): Writes each thread's number. -/
  | vlane (g : GroupRef)
  /-- FADD (R395): Vector float add, correctly rounded. -/
  | fadd (g : GroupRef)
  /-- FSUB (R395): Vector float subtract. -/
  | fsub (g : GroupRef)
  /-- FMUL (R395): Vector float multiply. -/
  | fmul (g : GroupRef)
  /-- FFMA (R395): Vector fused multiply-add. -/
  | ffma (g : GroupRef)
  /-- FDIV (R395): Vector float divide. -/
  | fdiv (g : GroupRef)
  /-- FSQRT (R395): Vector float square root. -/
  | fsqrt (g : GroupRef)
  /-- FMIN (R396): Vector float minimum. -/
  | fmin (g : GroupRef)
  /-- FMAX (R396): Vector float maximum. -/
  | fmax (g : GroupRef)
  /-- FABS (R395): Clears the sign bit. -/
  | fabs (g : GroupRef)
  /-- FNEG (R395): Flips the sign bit. -/
  | fneg (g : GroupRef)
  /-- FRCP (R395): Approximate reciprocal. -/
  | frcp (g : GroupRef)
  /-- FRSQ (R395): Approximate reciprocal square root. -/
  | frsq (g : GroupRef)
  /-- FEXP2 (R395): Approximate base-2 exponential. -/
  | fexp2 (g : GroupRef)
  /-- FLOG2 (R395): Approximate base-2 logarithm. -/
  | flog2 (g : GroupRef)
  /-- FCMP (R395): Vector float compare into a scalar mask. -/
  | fcmp (g : GroupRef)
  /-- CVT (R398): Converts between formats under R141. -/
  | cvt (g : GroupRef)
  /-- CVT_I2F (R397): Converts a signed integer to F32 or F16. -/
  | cvtI2f (g : GroupRef)
  /-- CVT_F2I (R397): Converts F32 or F16 to a signed integer. -/
  | cvtF2i (g : GroupRef)
  /-- VRAND (R399): Writes a keyed generator output per thread. -/
  | vrand (g : GroupRef)
  /-- VSHFL (R400): Cross-lane shuffle. -/
  | vshfl (g : GroupRef)
  /-- VRDLANE (R400): Reads one lane into a scalar register. -/
  | vrdlane (g : GroupRef)
  /-- LD (R401): Loads from a Device Address per active thread. -/
  | ld (g : GroupRef)
  /-- ST (R401): Stores to a Device Address per active thread. -/
  | st (g : GroupRef)
  /-- PREF (R408): Prefetches lines into the L1 or the Depot without faulting. -/
  | pref (g : GroupRef)
  /-- LDS (R409): Loads from local store. -/
  | lds (g : GroupRef)
  /-- STS (R409): Stores to local store. -/
  | sts (g : GroupRef)
  /-- ATOM_ADD (R412): Depot atomic add. -/
  | atomAdd (g : GroupRef)
  /-- ATOM_AND (R412): Depot atomic AND. -/
  | atomAnd (g : GroupRef)
  /-- ATOM_OR (R412): Depot atomic OR. -/
  | atomOr (g : GroupRef)
  /-- ATOM_XOR (R412): Depot atomic XOR. -/
  | atomXor (g : GroupRef)
  /-- ATOM_MIN_S (R412): Depot atomic signed minimum. -/
  | atomMinS (g : GroupRef)
  /-- ATOM_MAX_S (R412): Depot atomic signed maximum. -/
  | atomMaxS (g : GroupRef)
  /-- ATOM_MIN_U (R412): Depot atomic unsigned minimum. -/
  | atomMinU (g : GroupRef)
  /-- ATOM_MAX_U (R412): Depot atomic unsigned maximum. -/
  | atomMaxU (g : GroupRef)
  /-- ATOM_EXCH (R412): Depot atomic exchange. -/
  | atomExch (g : GroupRef)
  /-- ATOM_CAS (R412): Depot atomic compare-and-swap. -/
  | atomCas (g : GroupRef)
  /-- ATOM_FADD (R412): Depot atomic F32 add. -/
  | atomFadd (g : GroupRef)
  /-- FENCE (R418): Orders the group's earlier accesses ahead of later ones at its scope. -/
  | fence (g : GroupRef)
  /-- BAR (R420): Holds the group until every group of its block reaches its BAR. -/
  | bar (g : GroupRef)
  /-- BAR_RELEASE (R420): Groups waiting at BAR resume once every non-DONE group of the block has reached it. -/
  | barRelease (g : GroupRef)
  /-- GBIND (R422): Requests binding of the Grates of GMASK to the group. -/
  | gbind (g : GroupRef)
  /-- GBIND_GRANT (R422): A waiting bind is granted when its Grates are free, in issue order. -/
  | gbindGrant (hearth : Nat)
  /-- GFREE (R451): Releases held Grates once their earlier FLUEs have accumulated. -/
  | gfree (g : GroupRef)
  /-- GWLD (R425): Loads a weight tile into the named Grates' load registers. -/
  | gwld (g : GroupRef)
  /-- FLUE (R426): Streams an activation tile through the Flue into the named Grates. -/
  | flue (g : GroupRef)
  /-- FLUE_STREAM_START (R449): A FLUE begins streaming when the Flue, the weights and a replay entry are free. -/
  | flueStreamStart (hearth : Nat)
  /-- TILE_CHECK (R455): A product tile's checksum check completes and a passing product is applied to the accumulator. -/
  | tileCheck (hearth : Nat) (idx : Nat) (grate : Nat) (fail : Option Nat)
  /-- GRATE_RERUN (R459): A failed tile re-runs on the partner Grate in the next Flue slot. -/
  | grateRerun (hearth : Nat) (idx : Nat) (grate : Nat)
  /-- GRATE_STATE_ECC_ERROR (R468): A Grate ECC error is corrected, or uncorrectable raises 0x0504 with teardown. -/
  | grateStateEccError (hearth : Nat) (grate : Nat) (correctable : Bool)
  /-- GRD (R427): Reads one Grate's accumulator tile to registers. -/
  | grd (g : GroupRef)
  /-- TADD (R476): Trivet tile add. -/
  | tadd (g : GroupRef)
  /-- TSUB (R476): Trivet tile subtract. -/
  | tsub (g : GroupRef)
  /-- TMUL (R476): Trivet tile multiply. -/
  | tmul (g : GroupRef)
  /-- TMAX (R476): Trivet tile maximum. -/
  | tmax (g : GroupRef)
  /-- TMIN (R476): Trivet tile minimum. -/
  | tmin (g : GroupRef)
  /-- TRELU (R476): Trivet tile ReLU. -/
  | trelu (g : GroupRef)
  /-- TEXP2 (R476): Trivet tile base-2 exponential. -/
  | texp2 (g : GroupRef)
  /-- TRIVET_TILE_START (R481): The Trivet starts a tile whose operand transfer has ended and returns its result. -/
  | trivetTileStart (hearth : Nat) (burner : Nat)
  /-- TRIVET_PARITY_ERROR (R483): A Trivet parity error raises 0x0A10 and tears down the issuing context. -/
  | trivetParityError (hearth : Nat) (burner : Nat)
  /-- NOP (R430): No effect. -/
  | nop (g : GroupRef)
  /-- EXIT (R354): Ends the group and, for the command's last group on the Hearth, writes back and invalidates its L1 lines. -/
  | exit (g : GroupRef)
  /-- BRK (R431): Breakpoint: halts the group with 0x040C in a debug context, or faults 0x0406. -/
  | brk (g : GroupRef)
  /-- FLCLR (R430): Clears selected group flags. -/
  | flclr (g : GroupRef)
  /-- REFERENCE_INTAKE (R239): A Serai's Index Intake accepts row references and serves Hold hits at once. -/
  | referenceIntake (serai : Nat) (input : Nat) (n : Nat)
  /-- INTAKE_STALL_RELEASE (R240): A stalled Intake input resumes when accumulator elements free. -/
  | intakeStallRelease (serai : Nat) (input : Nat)
  /-- WINDOW_CLOSE (R244): A Combiner window closes when full, after 4,096 cycles or idle, and its keys are queued to fetch. -/
  | windowClose (serai : Nat)
  /-- ROW_FETCH_COMPLETE (R255): A row read arrives and is pooled into every live consumer's accumulator. -/
  | rowFetchComplete (serai : Nat) (table : Nat) (row : Option Nat) (bad : Option Nat) (replace : Option Nat) (residueOk : Bool)
  /-- PARTIAL_SUM_RECEIVE (R257): The owner receives a non-owner Serai's partial sum and adds it. -/
  | partialSumReceive (idx : Nat) (bad : Option Nat) (residueOk : Bool)
  /-- LATE_ROW_TIMEOUT (R227): After LATE_US without the flash row the Serai pools the default row instead. -/
  | lateRowTimeout (serai : Nat) (table : Nat) (row : Nat)
  /-- FLASH_READ_COMPLETE (R224): A Cellar block read completes and its rows are delivered, or an error raises 0x0C01 or 0x0C02. -/
  | flashReadComplete (ctrl : Nat) (nsid : Nat) (lba : Nat) (error : Bool)
  /-- FLASH_CONTROLLER_LOST (R226): A controller fatal or silent for 100 ms raises 0x0C03 and its flash extents go offline. -/
  | flashControllerLost (ctrl : Nat)
  /-- OVERLAY_WRITEBACK (R280): A VISIBLE overlay entry's write to the tier completes and the entry is freed. -/
  | overlayWriteback (serai : Nat) (table : Nat) (row : Nat)
  /-- OVERLAY_STAGE_RESUME (R281): A staging that waited for overlay space proceeds when space frees. -/
  | overlayStageResume (serai : Nat)
  /-- MERGE_INTAKE_RESUME (R295): Update intake waiting for accumulator elements resumes when they free. -/
  | mergeIntakeResume (serai : Nat)
  /-- SERAI_APPLY (R299): The home Serai applies a row of the apply set with the table's optimiser. -/
  | seraiApply (serai : Nat) (table : Nat) (row : Nat)
  /-- ACL_CONFIG (R328): A write to SRI_ACL_CFG configures logging and setting EN from 0 to 1 clears SRI_ACL_HEAD. -/
  | aclConfig (fn : Nat) (v : Nat)
  /-- PAGE_WALK_COMPLETE (R586): A page table walk completes with a translation or a fault. -/
  | pageWalkComplete (hearth : Nat) (ctx : Nat) (da : Nat) (parity : Bool)
  /-- ATS_TRANSLATION_COMPLETION (R587): An ATS translation completion arrives and is cached or refuses the access. -/
  | atsTranslationCompletion (fn : Nat) (addr : Nat) (target : Nat) (read : Bool) (write : Bool)
  /-- ATS_INVALIDATE_REQUEST (R598): The part accepts an ATS Invalidate Request for a function's translations. -/
  | atsInvalidateRequest (fn : Nat) (addr : Nat) (len : Nat) (same : Bool)
  /-- INVALIDATION_COMPLETE (R599): An invalidation completes once caches are dropped, held translations redone and requests finished. -/
  | invalidationComplete (idx : Nat)
  /-- HOST_STACK_READ (R612): A host CXL.mem read of stack memory returns the committed value. -/
  | hostStackRead (port : Nat) (off : Nat) (len : Nat)
  /-- HOST_STACK_WRITE (R612): A host CXL.mem write updates memory and the committed Depot copy, or is dropped for a table extent. -/
  | hostStackWrite (port : Nat) (fn : Nat) (off : Nat) (data : List Byte) (poisoned : Bool)
  /-- HOST_SNOOP (R536): The Depot answers a host snoop from its committed copy. -/
  | hostSnoop (addr : Nat) (own : Bool)
  /-- PORT1_LINK_LOST (R620): Port 1 down for 100 ms raises 0x0721 and its traffic is rerouted to port 0. -/
  | port1LinkLost
  /-- PORT0_LINK_LOST (R621): Port 0 down for 100 ms raises 0x0722 and the part enters Quenched. -/
  | port0LinkLost
  /-- CAUSEWAY_FLIT_FAIL (R40): A Causeway flit failing CRC is replayed, and 16 failed replays raise 0x0611 and Quenched. -/
  | causewayFlitFail (replays : Nat)
  /-- DEPOT_EVICTION (R541): The Depot evicts a provisional copy to memory or to the spill area. -/
  | depotEviction (space : Space) (addr : Nat) (prov : Option Nat)
  /-- CONFLICT_WAIT_RELEASE (R543): An access waiting on another unit's provisional copy proceeds after that unit commits or is discarded. -/
  | conflictWaitRelease
  /-- WC_BUFFER_DRAIN (R527): A combining buffer entry drains when full, at a FENCE, at command end or after 64 idle cycles. -/
  | wcBufferDrain (hearth : Nat) (idx : Nat)
  /-- MERGING_BUFFER_DRAIN (R531): The merging buffer drains its entries in allocation order. -/
  | mergingBufferDrain (die : Nat)
  /-- CACHE_PARITY_ERROR (R557): A read finding a parity error refetches or discards the line and may tear down a context. -/
  | cacheParityError (kind : Nat) (h : Nat) (idx : Nat) (loc : Nat) (prov : Option Nat)
  /-- STACK_ECC_ERROR (R767): A stack access error is corrected with 0x0630 or poisoned with 0x0631. -/
  | stackEccError (addr : Nat) (chan : Nat) (bank : Nat) (row : Nat) (correctable : Bool) (lane : Option Nat)
  /-- POISON_CONSUMED (R769): A consumer reading poisoned data raises its fault and its context is torn down. -/
  | poisonConsumed (cid : Nat) (addr : Nat)
  /-- SIEVE_ECC_ERROR (R500): A Sieve storage error is corrected or raises 0x0A02 and abandons the request. -/
  | sieveEccError (die : Nat) (cid : Nat) (correctable : Bool)
  /-- STACK_TEMP_SAMPLE (R572): A Damper samples its stack temperature every 10 us and raises the throttle level or enters Quenched at THR_CRIT. -/
  | stackTempSample (stack : Nat) (temp : Int)
  /-- FAULT_REPORT (R752): The Fault Collector receives a unit's fault report and makes one record for both sinks. -/
  | faultReport (r : FaultRec)
  /-- QUENCH_ENTRY (R842): A Quenched fault stops commits and engines, puts stacks in self-refresh and stops the host sink. -/
  | quenchEntry
  /-- HOST_SINK_WRITE (R757): The Collector writes a record to its context or function log and advances the count. -/
  | hostSinkWrite
  /-- MSIX_HOLDOFF_EXPIRY (R759): At the end of a holdoff one message is sent for records that arrived during it. -/
  | msixHoldoffExpiry (fn : Nat) (vec : Nat)
  /-- COALESCE_FLUSH (R755): 1 ms after a delivery the Collector delivers one record for held repeats. -/
  | coalesceFlush
  /-- CPER_FORWARD (R764): The Warden takes a record from the management queue and forwards it as a CPER entry. -/
  | cperForward
  /-- PLDM_EVENT_RESEND (R867): An unacknowledged PlatformEventMessage is resent every 250 ms up to four times. -/
  | pldmEventResend (acked : Bool)
  /-- MAILBOX_OVERRUN (R854): GO written while BUSY is 1 sets OVERRUN. -/
  | mailboxOverrun (fn : Nat)
  /-- GET_INFO (R859): Returns serial, versions, state, personality, slot and fused levels. -/
  | getInfo (src : Option Nat) (req : List Byte)
  /-- ENTER_BANKED (R839): Requests a move to Banked at the next boundary. -/
  | enterBanked (src : Option Nat) (req : List Byte)
  /-- LEAVE_BANKED (R839): Requests a move to Service at the next boundary. -/
  | leaveBanked (src : Option Nat) (req : List Byte)
  /-- READ_ERROR_LOG (R858): Returns up to 15 error-log records from a given SEQ. -/
  | readErrorLog (src : Option Nat) (req : List Byte)
  /-- READ_SPARING_LOG (R858): Returns up to 31 sparing-log entries from a given LSEQ. -/
  | readSparingLog (src : Option Nat) (req : List Byte)
  /-- CHIMNEY_CONFIG (R796): Accepts one Chimney counter or trace configuration block. -/
  | chimneyConfig (src : Option Nat) (req : List Byte)
  /-- STAGE_BEGIN (R861): Opens a staging session and erases the staging area. -/
  | stageBegin (src : Option Nat) (req : List Byte)
  /-- STAGE_DATA (R861): Writes bytes into the staging area. -/
  | stageData (src : Option Nat) (req : List Byte)
  /-- STAGE_COMMIT (R861): Checks staged bytes, writes them to the older slot and closes the session. -/
  | stageCommit (src : Option Nat) (req : List Byte) (sig : Bool)
  /-- COLD_RESET (R858): A COLD_RESET request, permitted in Banked and Quenched, cold-resets the part after its answer. -/
  | coldReset (src : Option Nat) (req : List Byte) (sigA : Bool) (sigB : Bool)
  /-- SET_RTC (R959): Sets the Warden real-time clock. -/
  | setRtc (src : Option Nat) (req : List Byte)
  /-- MCTP_CONTROL (R863): MCTP control messages for endpoint discovery and ID assignment. -/
  | mctpControl (assign : Option Nat)
  /-- PLDM_SET_EVENT_RECEIVER (R867): Names the receiver of CPER PlatformEventMessages. -/
  | pldmSetEventReceiver (receiver : Option Nat)
  /-- PLDM_SENSOR_READ (R867): Returns a PLDM Type 2 sensor reading taken from the Chimney. -/
  | pldmSensorRead (sensor : Nat) (railCurrent : Nat)
  /-- PLDM_FIRMWARE_UPDATE (R868): PLDM Type 5 firmware update of Warden firmware or the Kindling Image. -/
  | pldmFirmwareUpdate (image : Bool) (data : List Byte) (sig : Bool) (activate : Bool)
  /-- SPDM_GET_MEASUREMENTS (R869): The SPDM responder returns the measurement digests. -/
  | spdmGetMeasurements (idx : Nat)
  /-- BAR_ACCESS_DROPPED (R907): An unaligned or wrongly sized BAR access is dropped and counted in GLB_BAD_ACCESS. -/
  | barAccessDropped (fn : Nat) (isRead : Bool)
  /-- LATCHING_LO_READ (R89): A read of the LO register of a counter pair latches the high half into its HI register for the reading function. -/
  | latchingLoRead (fn : Nat) (bar : Nat) (off : Nat) (wide : Bool)
  /-- REGISTER_WRITE (R12): A write to a register without its own row acts on its fields by their access codes. -/
  | registerWrite (fn : Nat) (bar : Nat) (off : Nat) (v : Nat) (wide : Bool)
  /-- FUNCTION_LOG_CONFIG (R791): A write to FLT_FN_LOG_CFG configures the function log and setting EN clears FLT_FN_LOG_CNT. -/
  | functionLogConfig (fn : Nat) (v : Nat)
  /-- ROUTE_TRAINING_START (R705): A Route port starts equalisation training at Kindling, requalification or recovery. -/
  | routeTrainingStart (port : Nat)
  /-- ROUTE_TRAINING_COMPLETE (R705): Training completes and the active lane sets are chosen. -/
  | routeTrainingComplete (port : Nat) (rxBad : Nat) (txBad : Nat)
  /-- ROUTE_BRINGUP_TIMEOUT (R705): A bring-up step not done in time leaves the port DOWN to retry after 1 s. -/
  | routeBringupTimeout (port : Nat)
  /-- FEC_LOCK (R713): FEC lock moves the port from DOWN to AUTH and HELLO frames are sent. -/
  | fecLock (port : Nat) (nonce : Nat)
  /-- HELLO (R706): A HELLO frame is received and the round trip and SPDM roles are decided. -/
  | helloFrame (port : Nat) (f : Frame) (trailer : Bool) (serial : Nat) (nonce : Nat) (enc : Bool) (rtt : Nat) (again : Nat)
  /-- SPDM (R707): An SPDM message frame drives the session setup or key update. -/
  | spdmFrame (port : Nat) (f : Frame) (trailer : Bool) (update : Bool) (final : Bool) (ok : Bool) (digest : List Byte)
  /-- QUARANTINE_HOLD_END (R715): The quarantine hold ends and the port returns to DOWN. -/
  | quarantineHoldEnd (port : Nat)
  /-- DATA (R719): A DATA frame is accepted in LSEQ order, checked and written for its operation. -/
  | dataFrame (port : Nat) (f : Frame) (trailer : Bool)
  /-- START (R726): A partner's START frame is held or compared with the local operation's START. -/
  | startFrame (port : Nat) (f : Frame) (trailer : Bool)
  /-- DONE (R728): A DONE frame arrives and the operation finishes when DONE has arrived on every link. -/
  | doneFrame (port : Nat) (f : Frame) (trailer : Bool)
  /-- ABORT (R730): An ABORT frame discards the operation's data and restarts or fails it. -/
  | abortFrame (port : Nat) (f : Frame) (trailer : Bool)
  /-- CREDIT (R720): A CREDIT frame returns DATA credit to the sender. -/
  | creditFrame (port : Nat) (f : Frame) (trailer : Bool)
  /-- NAK (R719): A NAK frame makes the sender resend from the named LSEQ. -/
  | nakFrame (port : Nat) (f : Frame) (trailer : Bool)
  /-- CONTROL_TICK (R701): A TICK CONTROL frame gives a Route tick source its reference edge. -/
  | controlTick (port : Nat) (f : Frame) (trailer : Bool) (edge : Nat)
  /-- CONTROL_KEEPALIVE (R700): A KEEPALIVE CONTROL frame is received. -/
  | controlKeepalive (port : Nat) (f : Frame) (trailer : Bool)
  /-- CONTROL_LANE (R697): A LANE CONTROL frame agrees a switch of a lane's traffic to the spare. -/
  | controlLane (port : Nat) (f : Frame) (trailer : Bool) (lane : Nat)
  /-- KEEPALIVE_SEND (R700): A port that has sent no frame for 10 us sends a KEEPALIVE frame. -/
  | keepaliveSend (port : Nat)
  /-- ROUTE_LANE_FAIL (R697): A receive lane losing lock or exceeding its error ratio asks for the spare, or halves the link or goes SUSPECT. -/
  | routeLaneFail (port : Nat) (lane : Nat)
  /-- AUTO_KEY_UPDATE (R712): After 2^31 frames under one key the port runs KEY_UPDATE. -/
  | autoKeyUpdate (port : Nat)
  /-- LOST_RECORD_EMIT (R804): Once the trace buffer has room after drops the Chimney emits a LOST record. -/
  | lostRecordEmit (die : Nat)
  /-- TRACE_FRAME_SEND (R810): The trace output sends a 512-byte frame back to back, full or not. -/
  | traceFrameSend
  /-- TRACE_HOST_EXPORT (R806): The Chimney writes a trace record to the host ring and advances CHM_HOST_CNT. -/
  | traceHostExport
  /-- BX_Q_TAIL_WRITE (R882): A write to BX_Q_TAIL makes queue entries pending. -/
  | bxQTailWrite (v : Nat)
  /-- BX_QUEUE_IDLE_RECHECK (R883): With no pending entry the part compares HEAD and TAIL again the next cycle. -/
  | bxQueueIdleRecheck
  /-- BX_QUEUE_ENABLE (R885): A write to BX_CTRL.Q_EN enables the queue, clearing HEAD and TAIL, or stops it after the running command. -/
  | bxQueueEnable (v : Nat)
  /-- BX_SOFT_RESET (R902): SOFT_RESET or FLR kills the running command, undefines every table and resets the BX-3 window. -/
  | bxSoftReset (v : Nat) (flr : Bool)
  /-- BX_RESUME (R898): A write of RESUME clears HALTED and lets commands run again. -/
  | bxResume (v : Nat)
  /-- BX_STATUS_READ (R879): A read of BX_STATUS returns its RC bits and clears those that read 1. -/
  | bxStatusRead
  /-- BX_NOP (R886): BX-3 NOP command. -/
  | bxNop (failed : Bool)
  /-- DEFINE_TABLE (R886): Defines a BX-3 table in device memory. -/
  | defineTable (failed : Bool)
  /-- UNDEFINE_TABLE (R886): Undefines a BX-3 table. -/
  | undefineTable (failed : Bool)
  /-- ROW_WRITE (R889): Replaces rows through their home Serais, visible at completion. -/
  | rowWrite (failed : Bool)
  /-- LOOKUP_POOL (R892): Pools bags of Q8 rows with 32-bit saturation and writes F32 outputs. -/
  | lookupPool (failed : Bool)
  /-- DENSE (R895): Computes an unfused F32 dense layer with optional ReLU on the Burners. -/
  | dense (failed : Bool)
  /-- BX_COPY (R886): BX-3 COPY of bytes from source to destination. -/
  | bxCopy (failed : Bool)
  /-- BX_COMMAND_COMPLETE (R884): A BX-3 command completes when its writes are acknowledged, advancing BX_Q_HEAD and BX_DONE_COUNT. -/
  | bxCommandComplete
  /-- PERST_RELEASE (R850): Deassertion of PERST# on a host link port lets the port train and starts its counting of time toward the 100 ms link-loss limit. -/
  | perstRelease (port : Nat) (rate : Nat) (width : Nat)
  deriving DecidableEq, Repr

end Sys2Proof
end

