-- ==== Sys2Proof/Decode.lean ====
section
/-!
DEFINITION. The commands that words spell. No row of the table of operations and events has bits of its own, so no word
spells a command; the 64-bit instruction words of the Hearths (R382) are read by Machine/Operands.lean.
-/
namespace Sys2Proof

/-- The command that a word of the table spells: none, since the table gives no row any bits. -/
def decodeTableWord (_nbits _w : Nat) : Option Instr := none

end Sys2Proof
end

