-- ==== Sys2Proof/Machine/State.lean ====
section
/-!
DEFINITION. The state of the CZ-9640, as plain data, and its value at reset. Each field names the rule that gives it.
A map lists only the entries that differ from what its reader takes for an unlisted one.
-/
namespace Sys2Proof.Machine

/-- The five device states. (R835) -/
inductive DevState where
  | off
  | kindling
  | service
  | banked
  | quenched
  deriving DecidableEq, Repr

/-- The states of a waybill. (R111) -/
inductive WbState where
  | free
  | filed
  | running
  | committed
  | answering
  | draining
  deriving DecidableEq, Repr

/-- Where a command stands between admission and its answer (the model's own bookkeeping of R112, R548, R661). (R351) -/
inductive CmdState where
  | admitted
  | running
  | finished
  | withdrawn
  deriving DecidableEq, Repr

/-- The states of a group. (R351) -/
inductive GrpState where
  | unplaced
  | ready
  | stalled
  | halted
  | done
  deriving DecidableEq, Repr

/-- The states of an overlay entry. (R279) -/
inductive OvState where
  | staged
  | pending
  | visible
  deriving DecidableEq, Repr

/-- The states of a Larder slot. (R212) -/
inductive SlotState where
  | free
  | mapped
  | filled
  | evicting
  deriving DecidableEq, Repr

/-- The states of a Route port. (R713) -/
inductive PortState where
  | disabled
  | down
  | auth
  | up
  | suspect
  | quarantined
  deriving DecidableEq, Repr

/-- A translated address: the kind of memory and the address in it. (R583) -/
structure PA where
  /-- target kind (R583) -/
  space : Space := .stack
  /-- LPA, host or pool address (R583) -/
  addr : Nat := 0
  deriving DecidableEq, Repr

/-- One translated page: an entry of a translation set, a held translation or a cached one. (R590) -/
structure PageTr where
  /-- first Device Address of the page (R590) -/
  da : Nat := 0
  /-- page bytes (R582) -/
  size : Nat := 4096
  /-- target kind (R583) -/
  space : Space := .stack
  /-- first target address (R583) -/
  target : Nat := 0
  /-- region attribute (R526) -/
  attr : Nat := 0
  /-- W of the leaf (R583) -/
  writable : Bool := false
  deriving DecidableEq, Repr

/-- The lands a command can drive or observe. (R918) -/
structure Pins where
  /-- every compute rail within its limits (R921) -/
  railsOk : Bool := false
  /-- CZ_RESET_N released (R925) -/
  czResetN : Bool := false
  /-- PERST# of port 0 asserted (R848) -/
  perst0 : Bool := true
  /-- PERST# of port 1 asserted (R925) -/
  perst1 : Bool := true
  /-- CLR_PERST_N released to the drives (R951) -/
  clrPerstN : Bool := false
  /-- THROT_IN_N high (R944) -/
  throtInN : Bool := true
  /-- THERMTRIP_N high (R946) -/
  thermtripN : Bool := true
  /-- the compute dies' clocks are stopped by a trip (R921) -/
  clocksStopped : Bool := false
  deriving DecidableEq, Repr

/-- The device fuses. (R820) -/
structure Fuses where
  /-- ordering code: false CZ-9640-N, true CZ-9640-NS (R1) -/
  orderingNS : Bool := false
  /-- 0 A0, 1 A1 (R1) -/
  stepping : Nat := 0
  /-- device serial (R859) -/
  serial : BitVec 64 := 0
  /-- fused image SECURITY_VER (R829) -/
  imageSec : Nat := 0
  /-- fused firmware SECURITY_VER (R829) -/
  firmwareSec : Nat := 0
  deriving DecidableEq, Repr

/-- One entry of the FUNCTIONS section. (R832) -/
structure FnPolicy where
  /-- Damper partition (R568) -/
  partition : Nat := 0
  /-- permitted classes (R653) -/
  classMask : Nat := 0
  /-- contexts permitted (R653) -/
  maxContexts : Nat := 0
  deriving DecidableEq, Repr

/-- The Route policy of one port. (R702) -/
structure RoutePolicy where
  /-- ENABLE (R702) -/
  enable : Bool := false
  /-- MEDIUM: KR (R702) -/
  kr : Bool := false
  /-- SPARE_PRESENT (R702) -/
  sparePresent : Bool := false
  /-- ALLOW_HALF (R702) -/
  allowHalf : Bool := false
  /-- ENC: REQUIRED (R702) -/
  encRequired : Bool := false
  /-- REQUALIFY_S (R702) -/
  requalifyS : Nat := 0
  deriving DecidableEq, Repr

/-- The slots and thermal settings of the DAMPER section for one stack. (R566) -/
structure DamperSlots where
  /-- READ_SLOTS (R566) -/
  read : Nat := 0
  /-- WRITE_SLOTS (R566) -/
  write : Nat := 0
  /-- REMOTE_SLOTS (R566) -/
  remote : Nat := 0
  deriving DecidableEq, Repr

/-- The Kindling Image settings loaded into the units. (R832) -/
structure Image where
  /-- settings have been loaded (R846) -/
  loaded : Bool := false
  /-- IMAGE_VER (R825) -/
  imageVer : BitVec 32 := 0
  /-- PERIOD_10US of TICK (R832) -/
  period10us : Nat := 0
  /-- SOURCE of TICK (R832) -/
  tickSource : Nat := 0
  /-- ROUTE_PORT of TICK (R832) -/
  tickPort : Nat := 0
  /-- TICK_OUT_EN of TICK (R832) -/
  tickOut : Bool := false
  /-- COMP_NS of TICK (R832) -/
  compNs : Nat := 0
  /-- SECURITY_VER (R825) -/
  securityVer : Nat := 0
  /-- PERSONALITY: BX-3 (R2) -/
  bx3 : Bool := false
  /-- START_STATE: Banked (R832) -/
  startBanked : Bool := false
  /-- SUBSYS_VENDOR (R832) -/
  subsysVendor : BitVec 16 := 0
  /-- SUBSYS_ID (R832) -/
  subsysId : BitVec 16 := 0
  /-- TOTAL_VFS (R832) -/
  totalVfs : Nat := 0
  /-- SMBUS_ADDR (R832) -/
  smbusAddr : Nat := 0
  /-- MCTP_EID (R832) -/
  mctpEid : Nat := 0
  /-- MGMT_ADDR (R832) -/
  mgmtAddr : List (BitVec 8) := []
  /-- MGMT_PREFIX (R832) -/
  mgmtPrefix : Nat := 0
  /-- plan[e] (R60) -/
  plan : List Nat := []
  /-- share[c][e] at 8c + e (R62) -/
  shares : List Nat := []
  /-- FUNCTIONS entries (R832) -/
  fnPolicy : List FnPolicy := []
  /-- slots per stack (R566) -/
  damper : List DamperSlots := []
  /-- MIN per partition (R568) -/
  partMin : List Nat := []
  /-- MAX per partition (R568) -/
  partMax : List Nat := []
  /-- THR_1, THR_2, THR_3, THR_CRIT (R573) -/
  thr : List Nat := []
  /-- kind of each table class (R196) -/
  tableKinds : List Nat := []
  /-- policy per port (R702) -/
  route : List RoutePolicy := []
  /-- ROOT_DIGEST (R702) -/
  rootDigest : List (BitVec 8) := []
  /-- EMBER_PERIOD_MS (R788) -/
  emberPeriodMs : Nat := 0
  /-- LANE_CE_MAX (R788) -/
  laneCeMax : Nat := 0
  /-- LANE_CRC_MAX (R788) -/
  laneCrcMax : Nat := 0
  /-- ROW_CE_MAX (R788) -/
  rowCeMax : Nat := 0
  /-- SRAM_MAX (R788) -/
  sramMax : Nat := 0
  deriving DecidableEq, Repr

/-- A sparing-log entry. (R789) -/
structure SparingEntry where
  /-- LSEQ (R789) -/
  lseq : BitVec 32 := 0
  /-- RESOURCE (R789) -/
  resource : Nat := 0
  /-- ACTION (R789) -/
  action : Nat := 0
  /-- INSTANCE (R789) -/
  inst : Nat := 0
  /-- FROM (R789) -/
  fromLoc : Nat := 0
  /-- TO (R789) -/
  toLoc : Nat := 0
  /-- TICK (R789) -/
  tick : BitVec 64 := 0
  /-- CODE (R789) -/
  code : Nat := 0
  deriving DecidableEq, Repr

/-- The Mailbox of one host function. (R852) -/
structure Mailbox where
  /-- TAG of WRD_MBX_CTRL (R853) -/
  tag : BitVec 16 := 0
  /-- RSP_TAG (R855) -/
  rspTag : BitVec 16 := 0
  /-- RESTARTED (R856) -/
  restarted : Bool := false
  /-- OVERRUN (R854) -/
  overrun : Bool := false
  /-- DONE (R855) -/
  done : Bool := false
  /-- BUSY (R853) -/
  busy : Bool := false
  /-- WRD_MBX_REQ_n (R852) -/
  req : Map (BitVec 32) := []
  /-- WRD_MBX_RSP_n (R852) -/
  rsp : Map (BitVec 32) := []
  /-- copy of the request taken at GO (R853) -/
  inFlight : List (BitVec 32) := []
  /-- copy of TAG taken at GO (R853) -/
  inFlightTag : BitVec 16 := 0
  deriving DecidableEq, Repr

/-- A response block, as sent over MCTP or written to a Mailbox. (R852) -/
structure MgmtRsp where
  /-- CODE (R852) -/
  code : Nat := 0
  /-- STATUS (R860) -/
  status : Nat := 0
  /-- VAL0 (R852) -/
  val0 : BitVec 32 := 0
  /-- VAL1 (R852) -/
  val1 : BitVec 32 := 0
  /-- DATA (R852) -/
  data : List (BitVec 8) := []
  deriving DecidableEq, Repr

/-- A posted state request: who asked, and which state. (R838) -/
structure StateReq where
  /-- Banked (true) or Service (false) (R839) -/
  toBanked : Bool := false
  /-- the asking function; none for the management network (R839) -/
  fn : Option Nat := none
  /-- its TAG (R855) -/
  tag : BitVec 16 := 0
  /-- the Warden restarted: the request stands and is not answered (R856) -/
  lost : Bool := false
  deriving DecidableEq, Repr

/-- An open staging session. (R861) -/
structure Staging where
  /-- component: image (true) or firmware (R858) -/
  image : Bool := false
  /-- total length (R858) -/
  len : Nat := 0
  /-- opened over PLDM (R868) -/
  pldm : Bool := false
  deriving DecidableEq, Repr

/-- The Warden island. (R820) -/
structure Warden where
  /-- the island rail lies within its limits (R821) -/
  powered : Bool := false
  /-- the ROM stays in recovery (R822) -/
  recovery : Bool := false
  /-- firmware runs (R822) -/
  running : Bool := false
  /-- firmware slot in use: A (false) or B (R822) -/
  fwSlotB : Bool := false
  /-- FW_VER of the running firmware (R828) -/
  fwVer : BitVec 32 := 0
  /-- SECURITY_VER of the running firmware (R828) -/
  fwSec : Nat := 0
  /-- seconds since 1 January 2000 00:00:00 UTC (R959) -/
  rtc : Nat := 0
  /-- the 64 MiB QSPI flash, canonical cells; an unlisted byte reads 0 (R824) -/
  qspi : List (Nat × BitVec 8) := []
  /-- image slot in use: none, A (false), B (true) (R859) -/
  imageSlot : Option Bool := none
  /-- refusal reason (R834) -/
  refusal : Nat := 0
  /-- forwarded records kept, newest last, at most 4,096 (R763) -/
  errorLog : List FaultRec := []
  /-- sparing log, at most 16,384 (R790) -/
  sparingLog : List SparingEntry := []
  /-- next LSEQ (R789) -/
  nextLseq : BitVec 32 := 0
  /-- 0x0903 raised in this Kindling (R790) -/
  sparingFullRaised : Bool := false
  /-- sparing map applied at the last Kindling (R833) -/
  mapApplied : List SparingEntry := []
  /-- open session (R861) -/
  staging : Option Staging := none
  /-- posted state request (R838) -/
  stateReq : Option StateReq := none
  /-- PLDM event receiver (endpoint) (R867) -/
  eventReceiver : Option Nat := none
  /-- unacknowledged PlatformEventMessage (R867) -/
  unacked : Option FaultRec := none
  /-- resends of it so far (R867) -/
  resends : Nat := 0
  /-- endpoint ID assigned on I3C/SMBus (R863) -/
  eidI3c : Nat := 0
  /-- responses sent over MCTP (R866) -/
  mgmtOut : List MgmtRsp := []
  /-- CPER records sent, newest first (R764) -/
  cperOut : List (List (BitVec 8)) := []
  /-- signed bytes of the running firmware (R869) -/
  fwSigned : List (BitVec 8) := []
  /-- signed bytes of the Kindling Image in use (R869) -/
  imgSigned : List (BitVec 8) := []
  /-- SHA-384 digest last answered to GET_MEASUREMENTS (R869) -/
  digest : List (BitVec 8) := []
  /-- value last answered to a sensor read (R867) -/
  sensor : Int := 0
  /-- a Warden reset follows the answered STAGE_COMMIT (R862) -/
  activate : Bool := false
  deriving DecidableEq, Repr

/-- The tick unit (TCK_). (R41) -/
structure TickUnit where
  /-- TICK_NUM (R44) -/
  num : BitVec 64 := 0
  /-- Stoker cycles since the boundary (TCK_PHASE) (R46) -/
  phase : Nat := 0
  /-- ADMIT_100NS (R46) -/
  admit100 : Nat := 0
  /-- TICK_OUT_EN (R77) -/
  outEn : Bool := false
  /-- ROUTE_PORT (R42) -/
  routePort : Nat := 0
  /-- SOURCE (R42) -/
  source : Nat := 0
  /-- PERIOD_10US (R41) -/
  period10us : Nat := 0
  /-- COMP_NS (R80) -/
  compNs : BitVec 16 := 0
  /-- PHASE_ERR_NS (R81) -/
  phaseErr : BitVec 16 := 0
  /-- CRC_ERRORS, saturating at 255 (R78) -/
  crcErrors : Nat := 0
  /-- HOLDOVER_EXPIRED (R83) -/
  holdoverExpired : Bool := false
  /-- PERIOD_MISMATCH (R78) -/
  periodMismatch : Bool := false
  /-- NUM_MISMATCH (R86) -/
  numMismatch : Bool := false
  /-- HOLDOVER (R82) -/
  holdover : Bool := false
  /-- LOCKED (R80) -/
  locked : Bool := false
  /-- reference edge of the last valid frame, in ns of `time` (R79) -/
  lastEdge : Option Nat := none
  /-- consecutive valid frames (R80) -/
  goodRun : Nat := 0
  /-- consecutive expected frames missing or invalid (R82) -/
  missed : Nat := 0
  /-- ticks in holdover (R83) -/
  holdoverTicks : Nat := 0
  /-- 0x0243 raised in this holdover (R83) -/
  expiryRaised : Bool := false
  /-- SOURCE_LOST (R77) -/
  sourceLost : Bool := false
  /-- in a run of mismatching frames (R86) -/
  mismatchRun : Bool := false
  /-- last intervals between consecutive valid frames, newest first, at most 1,024 (R78) -/
  intervals : List Nat := []
  /-- change of the next tick's length in ns (R81) -/
  correction : Int := 0
  /-- NUM of the next valid frame is loaded (R85) -/
  loadPending : Bool := false
  /-- frames sent on TICK_OUT, newest first (R77) -/
  framesOut : List (BitVec 96) := []
  /-- tick at which the device state began (GLB_STATE_TICK) (R914) -/
  stateTick : BitVec 64 := 0
  deriving DecidableEq, Repr

/-- The Caravan Assembler (CVN_). (R66) -/
structure Caravan where
  /-- CLOSED_BY_WINDOW (R67) -/
  closedByWindow : Bool := false
  /-- CLOSE_100NS (R67) -/
  close100 : Nat := 0
  /-- ADMITTED (R67) -/
  admittedN : Nat := 0
  /-- CVN_KILLS (R50) -/
  kills : BitVec 32 := 0
  /-- CVN_READMITS (R70) -/
  readmits : BitVec 32 := 0
  /-- CVN_FALLBACKS (R74) -/
  fallbacks : BitVec 32 := 0
  /-- CVN_WITHDRAWN (R958) -/
  withdrawn : BitVec 32 := 0
  /-- CVN_RES_SEL.RESOURCE (R909) -/
  resSel : Nat := 0
  /-- cap[e] (R60) -/
  cap : List Nat := []
  /-- waybills of the snapshot, in the order of R59 (R58) -/
  snapshot : List Nat := []
  /-- assembly runs (R66) -/
  assembling : Bool := false
  /-- waybills of each real-time class not yet examined, in the order of R59 (R66) -/
  heads : List (List Nat) := []
  /-- pass 1 or 2 (R66) -/
  asmPass : Nat := 1
  /-- class under examination (R66) -/
  asmClass : Nat := 0
  /-- examinations made (R67) -/
  examined : Nat := 0
  /-- waybills admitted, newest first (R66) -/
  chosen : List Nat := []
  /-- spare[e] of pass 2 (R66) -/
  spareCap : List Nat := []
  /-- tick-bound commands killed at the last boundary (R802) -/
  killedNow : Nat := 0
  /-- used[c][e] of pass 1 at 8c + e (R66) -/
  used : List Nat := []
  deriving DecidableEq, Repr

/-- The STREAM field of a waybill extension. (R506) -/
structure StreamExt where
  /-- SFLAGS.STREAM (R506) -/
  isStream : Bool := false
  /-- TOKENS_DONE (R506) -/
  tokensDone : Nat := 0
  /-- STEP_NUM (R506) -/
  stepNum : Nat := 0
  /-- MAX_TOKENS (R506) -/
  maxTokens : Nat := 0
  /-- PER_STEP (R506) -/
  perStep : Nat := 0
  /-- KV_ADDR (R506) -/
  kvAddr : BitVec 64 := 0
  /-- KV_BYTES (R506) -/
  kvBytes : Nat := 0
  /-- FIRST_HANDLE (R506) -/
  firstHandle : BitVec 32 := 0
  deriving DecidableEq, Repr

/-- What a replayed waybill takes from its capture record. (R814) -/
structure Replay where
  /-- recorded RUN_KEY (R815) -/
  runKey : BitVec 64 := 0
  /-- NO_VERSION_CHECK (R817) -/
  noVersionCheck : Bool := false
  /-- recorded table versions (R817) -/
  versions : List (Nat × Nat) := []
  deriving DecidableEq, Repr

/-- A waybill: core entry, extension and the run's own state. (R95) -/
structure Waybill where
  /-- STATE (R111) -/
  st : WbState := .free
  /-- CLASS (R95) -/
  cls : Nat := 0
  /-- KILL_COUNT (R95) -/
  killCount : Nat := 0
  /-- CONTEXT (R95) -/
  ctx : Nat := 0
  /-- RECIPE_SLOT (R95) -/
  recipe : Nat := 0
  /-- ITEMS_M1 (R95) -/
  itemsM1 : Nat := 0
  /-- L, the last admissible tick (the entry's LAST_TICK is its bits 23:0) (R56) -/
  lastTick : Int := 0
  /-- REUSE (R91) -/
  reuse : BitVec 12 := 0
  /-- FILE_SEQ (R95) -/
  fileSeq : BitVec 32 := 0
  /-- ABANDON_REQ (R106) -/
  abandonReq : Bool := false
  /-- CAPTURE (R122) -/
  capture : Bool := false
  /-- INPUT_ADDR (R97) -/
  inputAddr : BitVec 64 := 0
  /-- RESULT_ADDR (R97) -/
  resultAddr : BitVec 64 := 0
  /-- INPUT_LEN (R97) -/
  inputLen : Nat := 0
  /-- RESULT_LEN (R97) -/
  resultLen : Nat := 0
  /-- USER_TAG (R97) -/
  userTag : BitVec 64 := 0
  /-- FILED_TICK (R97) -/
  filedTick : BitVec 64 := 0
  /-- FILE_OFFSET_NS (R97) -/
  fileOffset : Nat := 0
  /-- DEADLINE_US (R97) -/
  deadlineUs : Nat := 0
  /-- FIRST_RUN_TICK once run (R97) -/
  firstRun : Option (BitVec 32) := none
  /-- LAST_RUN_TICK (R97) -/
  lastRun : BitVec 32 := 0
  /-- HANDLE_ADDR (R97) -/
  handleAddr : BitVec 64 := 0
  /-- RUN_KEY (R98) -/
  runKey : BitVec 64 := 0
  /-- CMD_ID (R97) -/
  cmdId : BitVec 32 := 0
  /-- FUNCTION (R97) -/
  fn : Nat := 0
  /-- STREAM (R506) -/
  stream : StreamExt := {}
  /-- translation set (R651) -/
  tset : List PageTr := []
  /-- Fence-On-Complete in force (R640) -/
  foc : Bool := false
  /-- scratch lane (R664) -/
  lane : Option Nat := none
  /-- killed and returned (R59) -/
  readmitted : Bool := false
  /-- table versions at the boundary of the run (R276) -/
  runVersions : List (Nat × Nat) := []
  /-- MIXED_VERSION (R277) -/
  mixed : Bool := false
  /-- END_CAUSE (R514) -/
  endCause : Nat := 0
  /-- PRODUCED of the committed step (R510) -/
  produced : Nat := 0
  /-- a successor is to be filed (R511) -/
  successorDue : Bool := false
  /-- set for a replayed waybill (R814) -/
  replay : Option Replay := none
  deriving DecidableEq, Repr

/-- The Ledger (LDG_). Both core-entry copies hold `wb` (R117). (R90) -/
structure Ledger where
  /-- entries not FREE, by index (R90) -/
  wb : Map Waybill := []
  /-- reuse counts, by index (R91) -/
  reuse : Map (BitVec 12) := []
  /-- next FILE_SEQ (R95) -/
  fileSeq : BitVec 32 := 0
  /-- KEY_SEED (R174) -/
  keySeed : BitVec 64 := 0
  /-- j (R174) -/
  keyCount : BitVec 64 := 0
  /-- LDG_FULL_REFUSALS (R114) -/
  fullRefusals : BitVec 32 := 0
  /-- REPAIRED, saturating (R119) -/
  eccRepaired : Nat := 0
  /-- CORRECTED, saturating (R118) -/
  eccCorrected : Nat := 0
  /-- LDG_CAP_BASE (R129) -/
  capBase : BitVec 64 := 0
  /-- LOG2_SIZE (R129) -/
  capLog2 : Nat := 24
  /-- ALL (R122) -/
  capAll : Bool := false
  /-- MODE: STOP (R127) -/
  capStop : Bool := false
  /-- EN (R122) -/
  capEn : Bool := false
  /-- LDG_CAP_HEAD.OFFSET_64B (R127) -/
  capHead : Nat := 0
  /-- LDG_CAP_TAIL.OFFSET_64B (R127) -/
  capTail : Nat := 0
  /-- LDG_CAP_DROPS (R127) -/
  capDrops : BitVec 32 := 0
  /-- LDG_STREAM_ENDS (R514) -/
  streamEnds : BitVec 32 := 0
  deriving DecidableEq, Repr

/-- First non-finite element of a command. (R159) -/
structure NfPos where
  /-- output number (R159) -/
  out : Nat := 0
  /-- row (R159) -/
  row : Nat := 0
  /-- column (R159) -/
  col : Nat := 0
  deriving DecidableEq, Repr

/-- A manifest admitted and not yet answered, or a command of a running waybill. (R637) -/
structure Cmd where
  /-- host function (R636) -/
  fn : Nat := 0
  /-- CONTEXT (R637) -/
  ctx : Nat := 0
  /-- OPCODE (R638) -/
  opcode : Nat := 0
  /-- CLASS (R637) -/
  cls : Nat := 0
  /-- the 128 bytes of the manifest as formed (R637) -/
  bytes : List (BitVec 8) := []
  /-- CMD_ID (R636) -/
  cmdId : BitVec 32 := 0
  /-- generator key (R172) -/
  key : BitVec 64 := 0
  /-- where it stands (R646) -/
  st : CmdState := .admitted
  /-- the waybill it belongs to (R112) -/
  waybill : Option Nat := none
  /-- index in the Recipe (R661) -/
  idx : Nat := 0
  /-- from a delegated body (R644) -/
  fromBody : Bool := false
  /-- first tick after its span; 0 before its dispatch (R49) -/
  spanEnd : Nat := 0
  /-- PREEMPTIBLE (R637) -/
  preemptible : Bool := false
  /-- Fence-On-Complete in force (R640) -/
  foc : Bool := false
  /-- pre-emptions (R679) -/
  kills : Nat := 0
  /-- translation set (R590) -/
  tset : List PageTr := []
  /-- elements converted or rescaled (R165) -/
  elems : Nat := 0
  /-- those that set CL (R165) -/
  clipped : Nat := 0
  /-- runs wide (R167) -/
  wide : Bool := false
  /-- flags for the numeric status record (R158) -/
  flags : BitVec 7 := 0
  /-- first non-finite element (R159) -/
  nf : Option NfPos := none
  /-- DEFAULTED (R229) -/
  defaulted : Bool := false
  /-- MIXED_VERSION (R277) -/
  mixed : Bool := false
  /-- cannot reach its commit point (containment Failed) (R749) -/
  failed : Bool := false
  /-- dispatch order (R672) -/
  issued : Nat := 0
  /-- bags or requests not yet delivered (R237) -/
  bagsLeft : Nat := 0
  /-- histogram counts by bin (R163) -/
  hists : List (Nat × Nat) := []
  deriving DecidableEq, Repr

/-- An answer decided and not yet recorded. (R677) -/
structure Answer where
  /-- context (R677) -/
  ctx : Nat := 0
  /-- host function (R636) -/
  fn : Nat := 0
  /-- CMD_ID (R679) -/
  cmdId : BitVec 32 := 0
  /-- OUTCOME (R679) -/
  outcome : Nat := 0
  /-- KILLS (R679) -/
  kills : Nat := 0
  /-- FLAGS (R679) -/
  flags : Nat := 0
  /-- END (R679) -/
  endCause : Nat := 0
  /-- HANDLE (R679) -/
  handle : BitVec 32 := 0
  /-- FAULT (R679) -/
  fault : Nat := 0
  /-- USER_TAG (R679) -/
  userTag : BitVec 64 := 0
  /-- TOKENS_DONE (R679) -/
  tokensDone : Nat := 0
  /-- the waybill it frees (R113) -/
  waybill : Option Nat := none
  /-- flags to OR into the numeric status record (R161) -/
  nsrFlags : BitVec 7 := 0
  /-- first non-finite position: Recipe index and place (R161) -/
  nsrNf : Option (Nat × NfPos) := none
  /-- wide re-runs to add (R168) -/
  nsrWide : Nat := 0
  /-- Clear Numeric Status (R162) -/
  nsrClear : Bool := false
  /-- TICK_NUM of the commit (R160) -/
  tick : BitVec 64 := 0
  deriving DecidableEq, Repr

/-- The part's copy of a context's numeric status record. (R160) -/
structure Nsr where
  /-- SEQ (R160) -/
  seq : BitVec 32 := 0
  /-- FLAGS (R160) -/
  flags : BitVec 7 := 0
  /-- FIRST_OUT, FIRST_ROW, FIRST_COL (R160) -/
  first : NfPos := {}
  /-- FIRST_CMD_IDX (R160) -/
  cmdIdx : Nat := 0
  /-- FIRST_TICK (R160) -/
  tick : BitVec 64 := 0
  /-- FIRST_CMD_ID (R160) -/
  cmdId : BitVec 32 := 0
  /-- WIDE_RERUNS (R160) -/
  wide : Nat := 0
  deriving DecidableEq, Repr

/-- A device context. (R652) -/
structure Ctx where
  /-- owning function (R652) -/
  fn : Nat := 0
  /-- LOCAL (R652) -/
  slot : Nat := 0
  /-- CATTR.DEBUG (R652) -/
  debug : Bool := false
  /-- CLASS_MASK (R652) -/
  classMask : Nat := 0
  /-- PT_ROOT address (R652) -/
  ptRoot : Nat := 0
  /-- PT_ROOT TGT: host memory (R652) -/
  ptHost : Bool := false
  /-- CPL_ADDR (R652) -/
  cplAddr : BitVec 64 := 0
  /-- CPL_LOG2 (R652) -/
  cplLog2 : Nat := 0
  /-- FLOG_LOG2 (R652) -/
  flogLog2 : Nat := 0
  /-- FLOG_ADDR (R652) -/
  flogAddr : BitVec 64 := 0
  /-- NSR_ADDR (R652) -/
  nsrAddr : BitVec 64 := 0
  /-- torn down (R687) -/
  dead : Bool := false
  /-- a Destroy Context waits for its draining (R655) -/
  destroying : Bool := false
  /-- numeric status (R160) -/
  nsr : Nsr := {}
  deriving DecidableEq, Repr

/-- One local context slot of a function. (R654) -/
structure LocalSlot where
  /-- VALID of STK_CTX_NUM_n (R654) -/
  valid : Bool := false
  /-- CONTEXT of STK_CTX_NUM_n (R654) -/
  ctx : Nat := 0
  /-- COUNT of STK_CPL_CNT_n (R677) -/
  count : BitVec 48 := 0
  /-- RECORD_LOST (R683) -/
  recordLost : Bool := false
  /-- DEAD (R687) -/
  dead : Bool := false
  /-- FLT_CTX_CNT_n (R757) -/
  fltCnt : BitVec 32 := 0
  deriving DecidableEq, Repr

/-- One host function: ring, registers of its BAR2 page, counters, log, Mailbox. (R624) -/
structure Fn where
  /-- STK_RING_BASE (R624) -/
  ringBase : BitVec 64 := 0
  /-- LOG2_SIZE (R624) -/
  ringLog2 : Nat := 8
  /-- EN (R626) -/
  en : Bool := false
  /-- CONS (R626) -/
  cons : BitVec 32 := 0
  /-- PROD (R626) -/
  prod : BitVec 32 := 0
  /-- PENDING (R627) -/
  pend : Bool := false
  /-- TAG_WAIT (R631) -/
  tagWait : Bool := false
  /-- STOPPED_TAG (R631) -/
  stopped : Bool := false
  /-- DOORBELL_ERR (R627) -/
  dbErr : Bool := false
  /-- the second comparison is due (R632) -/
  recheck : Bool := false
  /-- manifests yielded since EN rose, modulo 2^27 (R636) -/
  count : Nat := 0
  /-- a manifest the Stoker holds for room (R635) -/
  held : Option Cmd := none
  /-- body manifests read and not yet admitted (R643) -/
  body : List (List (BitVec 8)) := []
  /-- CONTEXT of the Delegate entry (R643) -/
  bodyCtx : Nat := 0
  /-- STK_FN_CNT (R652) -/
  fnCnt : BitVec 32 := 0
  /-- STK_FN_LAST.LOCAL (R647) -/
  lastLocal : Nat := 0
  /-- STK_FN_LAST.FAULT (R647) -/
  lastFault : Nat := 0
  /-- STK_FETCHED (R692) -/
  fetched : BitVec 32 := 0
  /-- STK_REFUSED (R692) -/
  refused : BitVec 32 := 0
  /-- STK_TAG_WAITS (R631) -/
  tagWaits : BitVec 32 := 0
  /-- STK_TAG_STOPS (R631) -/
  tagStops : BitVec 32 := 0
  /-- STK_DEAD_SKIPS (R646) -/
  deadSkips : BitVec 32 := 0
  /-- STK_PREEMPTS (R673) -/
  preempts : BitVec 32 := 0
  /-- STK_EXPIRED (R675) -/
  expired : BitVec 32 := 0
  /-- STK_RECORDS_LOST (R683) -/
  recordsLost : BitVec 32 := 0
  /-- local slots 0 to 511 (R652) -/
  slots : Map LocalSlot := []
  /-- deregistration of a function reset waits for its waybills (R690) -/
  resetDue : Bool := false
  deriving DecidableEq, Repr

/-- The function's fault log, MSI-X and summary registers. (R791) -/
structure FnLog where
  /-- FLT_FN_LOG_BASE (R791) -/
  base : BitVec 64 := 0
  /-- LOG2_SIZE (R791) -/
  log2 : Nat := 6
  /-- EN (R791) -/
  en : Bool := false
  /-- FLT_FN_LOG_CNT (R757) -/
  cnt : BitVec 32 := 0
  /-- HOLDOFF_US (R759) -/
  holdoffUs : BitVec 8 := 8
  /-- per vector: a message was sent and its holdoff runs (R759) -/
  inHoldoff : List Bool := [false, false, false, false]
  /-- per vector: a record arrived in the holdoff (R759) -/
  msgDue : List Bool := [false, false, false, false]
  /-- HOST_LOST (R758) -/
  hostLost : Bool := false
  /-- TEARDOWNS, saturating at 255 (R913) -/
  teardowns : Nat := 0
  /-- GLB_SEV_COUNT by SEV, saturating (R916) -/
  sev : List Nat := [0, 0, 0, 0]
  /-- GLB_BAD_ACCESS (R907) -/
  badAccess : BitVec 32 := 0
  /-- Mailbox (R852) -/
  mbx : Mailbox := {}
  /-- high-half latches of the function, by BAR0 offset of the HI register (R910) -/
  latch : Map (BitVec 32) := []
  deriving DecidableEq, Repr

/-- A table entry of a Recipe. (R658) -/
structure TableUse where
  /-- TABLE_ID (R658) -/
  table : Nat := 0
  /-- LATE_POLICY (R227) -/
  policy : Nat := 0
  /-- LATE_US (R227) -/
  lateUs : Nat := 0
  deriving DecidableEq, Repr

/-- A command template of a Recipe. (R659) -/
structure Template where
  /-- the 128-byte manifest (R659) -/
  bytes : List (BitVec 8) := []
  /-- RELOC (R659) -/
  reloc : Nat := 0
  /-- AFTER (R659) -/
  after : Nat := 0
  /-- CLIP_THRESH (R659) -/
  clipThresh : Nat := 0
  /-- WIDE_FROM (R659) -/
  wideFrom : Nat := 0
  /-- PATCH0_OFF, PATCH1_OFF (R659) -/
  patchOff : List Nat := []
  /-- PATCH0_PER_ITEM, PATCH1_PER_ITEM (R659) -/
  patchPer : List Nat := []
  /-- PATCH0_BASE, PATCH1_BASE (R659) -/
  patchBase : List Nat := []
  /-- WIDE_ARG_ADDR (R659) -/
  wideArg : BitVec 64 := 0
  deriving DecidableEq, Repr

/-- A Recipe in the Recipe store. (R656) -/
structure Recipe where
  /-- owning context (R656) -/
  ctx : Nat := 0
  /-- in effect (R656) -/
  effective : Bool := false
  /-- deregistered at the next boundary (R666) -/
  leaving : Bool := false
  /-- RFLAGS.STREAM (R657) -/
  stream : Bool := false
  /-- FALLBACK_COPY (R657) -/
  copyMode : Bool := false
  /-- RERUN_LIMIT (R657) -/
  rerun : Nat := 0
  /-- SCRATCH_LANES (R657) -/
  lanes : Nat := 0
  /-- FALLBACK_LEN (R657) -/
  fbLen : Nat := 0
  /-- SCRATCH_BYTES (R657) -/
  scratchBytes : Nat := 0
  /-- FALLBACK_ADDR (R657) -/
  fbAddr : BitVec 64 := 0
  /-- SCRATCH_ADDR (R657) -/
  scratchAddr : BitVec 64 := 0
  /-- COST_BASE (R657) -/
  costBase : List Nat := []
  /-- COST_ITEM (R657) -/
  costItem : List Nat := []
  /-- table entries (R658) -/
  tables : List TableUse := []
  /-- templates (R659) -/
  cmds : List Template := []
  /-- RECORD_LEN (R656) -/
  recLen : Nat := 0
  /-- held translations of scratch extent and fallback block (R663) -/
  held : List PageTr := []
  deriving DecidableEq, Repr

/-- The Stoker (STK_) beyond the functions' own registers. (R623) -/
structure Stoker where
  /-- STK_FN_SEL (R909) -/
  fnSel : Nat := 0
  /-- manifests and commands outstanding, by the model's command number (R646) -/
  cmds : Map Cmd := []
  /-- next command number (R636) -/
  nextCid : Nat := 1
  /-- answers in answer order (R681) -/
  answers : List Answer := []
  /-- Recipe store, by slot (R656) -/
  recipes : Map Recipe := []
  /-- contexts, by device context number (R654) -/
  ctxs : Map Ctx := []
  /-- next dispatch number (R672) -/
  issueSeq : Nat := 0
  deriving DecidableEq, Repr

/-- A shard entry and its held state. (R194) -/
structure Shard where
  /-- STACK_BASE as a Device Address (R194) -/
  stackBase : Nat := 0
  /-- REMOTE_BASE (R194) -/
  remoteBase : Nat := 0
  /-- LARDER_BASE (R194) -/
  larderBase : Nat := 0
  /-- START_LBA (R194) -/
  startLba : Nat := 0
  /-- STACK_ROWS (R194) -/
  stackRows : Nat := 0
  /-- REMOTE_ROWS (R194) -/
  remoteRows : Nat := 0
  /-- HOME (R194) -/
  home : Nat := 0
  /-- CONTROLLER (R194) -/
  controller : Nat := 0
  /-- NSID (R194) -/
  nsid : Nat := 0
  /-- rows of the shard (R192) -/
  rows : Nat := 0
  /-- every row invalid (R191) -/
  offline : Bool := false
  /-- flash rows invalid (R226) -/
  flashOffline : Bool := false
  /-- becomes offline at the next boundary (R191) -/
  offlineDue : Bool := false
  /-- its flash extent goes offline at the next boundary (R226) -/
  flashDue : Bool := false
  /-- STATE_STACK_BASE (R303) -/
  stateStack : Nat := 0
  /-- STATE_REMOTE_BASE (R303) -/
  stateRemote : Nat := 0
  /-- held translations of the stack extent a migration moved it to (R322) -/
  moved : List PageTr := []
  /-- held translations that serve its stack state (R303) -/
  stHeld : List PageTr := []
  /-- spans rehomed: OLD_SPAN and the NEW_SPAN that holds its pages (R607) -/
  spans : List (Nat × Nat) := []
  /-- REFS (R317) -/
  refs : BitVec 64 := 0
  /-- FETCHES (R317) -/
  fetches : BitVec 64 := 0
  /-- APPLIED (R317) -/
  applied : BitVec 64 := 0
  deriving DecidableEq, Repr

/-- An optimiser record. (R302) -/
structure Optimiser where
  /-- KIND (R302) -/
  kind : Nat := 0
  /-- RMODE (R302) -/
  rmode : Nat := 0
  /-- LR (R302) -/
  lr : BitVec 32 := 0
  /-- BETA1 (R302) -/
  beta1 : BitVec 32 := 0
  /-- BETA2 (R302) -/
  beta2 : BitVec 32 := 0
  /-- EPS (R302) -/
  eps : BitVec 32 := 0
  /-- OPT_KEY (R302) -/
  key : BitVec 64 := 0
  /-- STATE_STACK_BASE and STATE_REMOTE_BASE per shard (R302) -/
  states : List (Nat × Nat) := []
  /-- held translations of the state extents (R303) -/
  held : List PageTr := []
  deriving DecidableEq, Repr

/-- A Larder slot. (R212) -/
structure LSlot where
  /-- tag (R212) -/
  row : Nat := 0
  /-- state (R212) -/
  st : SlotState := .free
  /-- dirty (R218) -/
  dirty : Bool := false
  deriving DecidableEq, Repr

/-- A committed Larder Refresh waiting for its boundary, or one filling. (R213) -/
structure Refresh where
  /-- the command (R213) -/
  cid : Nat := 0
  /-- TARGET is buffer B (R213) -/
  toB : Bool := false
  /-- fills left to copy: row, slot key (R213) -/
  fills : List (Nat × Nat) := []
  /-- slot keys filled (R215) -/
  filled : List Nat := []
  /-- slot keys to evict (R213) -/
  evicts : List Nat := []
  /-- committed (R217) -/
  committed : Bool := false
  deriving DecidableEq, Repr

/-- An open recalibration. (R311) -/
structure Recal where
  /-- NEW_SCALE_ADDR (R311) -/
  newScale : Nat := 0
  /-- watermark per shard (R313) -/
  marks : List Nat := []
  /-- translations of the new extent (R312) -/
  held : List PageTr := []
  /-- its commands started and not committed (R312) -/
  cids : List Nat := []
  deriving DecidableEq, Repr

/-- An open migration. (R318) -/
structure Mig where
  /-- the command (R318) -/
  cid : Nat := 0
  /-- SHARD (R318) -/
  shard : Nat := 0
  /-- NEW_HOME (R318) -/
  newHome : Nat := 0
  /-- NEW_STACK_BASE (R318) -/
  newStack : Nat := 0
  /-- NEW_STATE_BASE (R318) -/
  newState : Nat := 0
  /-- home before the migration (R322) -/
  oldHome : Nat := 0
  /-- committed, switches at the next boundary (R321) -/
  committed : Bool := false
  /-- references go to the new home, the handover is not complete (R321) -/
  handing : Bool := false
  /-- translations of the new extents (R319) -/
  held : List PageTr := []
  deriving DecidableEq, Repr

/-- A Rehome Span whose switch waits. (R604) -/
structure SpanMove where
  /-- the command (R604) -/
  cid : Nat := 0
  /-- SHARD (R604) -/
  shard : Nat := 0
  /-- OLD_SPAN (R604) -/
  oldSpan : Nat := 0
  /-- NEW_SPAN's translation (R606) -/
  newTrs : List PageTr := []
  /-- NEW_SPAN (R604) -/
  newSpan : Nat := 0
  /-- committed (R606) -/
  committed : Bool := false
  deriving DecidableEq, Repr

/-- A registered table. (R186) -/
structure Table where
  /-- owning function (R180) -/
  fn : Nat := 0
  /-- registering context (R187) -/
  ctx : Nat := 0
  /-- deregistration committed (R189) -/
  leaving : Bool := false
  /-- FORMAT (R186) -/
  format : Nat := 0
  /-- ROW_GRANULES (R186) -/
  granules : Nat := 0
  /-- TABLE_CLASS (R186) -/
  tclass : Nat := 0
  /-- TICK_ALIGNED (R186) -/
  aligned : Bool := false
  /-- INDEX_MODE (R186) -/
  mode : Nat := 0
  /-- SHARD_SHIFT (R186) -/
  shift : Nat := 0
  /-- LOG2_BUCKETS (R186) -/
  log2Buckets : Nat := 0
  /-- CLIP_THRESH (R186) -/
  clipThresh : Nat := 0
  /-- LARDER_SLOTS (R186) -/
  larderSlots : Nat := 0
  /-- ROWS_M1 (R186) -/
  rowsM1 : Nat := 0
  /-- HASH_A (R186) -/
  hashA : BitVec 64 := 0
  /-- HASH_B (R186) -/
  hashB : BitVec 64 := 0
  /-- SCALE_ADDR (R186) -/
  scaleAddr : Nat := 0
  /-- held translations of a scale extent that a recalibration brought (R315) -/
  scaleHeld : List PageTr := []
  /-- DEFAULT_ADDR (R186) -/
  defAddr : Nat := 0
  /-- MAP_ADDR_A (R186) -/
  mapA : Nat := 0
  /-- MAP_ADDR_B (R186) -/
  mapB : Nat := 0
  /-- the Serais' copy of the default row (R183) -/
  defaultRow : List (BitVec 8) := []
  /-- shard entries (R194) -/
  shards : List Shard := []
  /-- held translations of every extent (R191) -/
  held : List PageTr := []
  /-- buffer B is active (R210) -/
  activeB : Bool := false
  /-- table version, 48 bits (R273) -/
  version : Nat := 0
  /-- its version just after the last boundary (R276) -/
  bver : Nat := 0
  /-- optimiser record in effect (R301) -/
  opt : Option Optimiser := none
  /-- record that takes effect at the next boundary (R301) -/
  optDue : Option Optimiser := none
  /-- Larder slots, by shard x 2^23 + slot (R212) -/
  slots : Map LSlot := []
  /-- refresh in progress or committed (R213) -/
  refresh : Option Refresh := none
  deriving DecidableEq, Repr

/-- A table's counts and open operations. (R169) -/
structure TableRt where
  /-- TLY_MISSING (R207) -/
  missing : BitVec 32 := 0
  /-- TLY_OUT_OF_RANGE (R207) -/
  outOfRange : BitVec 32 := 0
  /-- TLY_INVALID (R207) -/
  invalid : BitVec 32 := 0
  /-- TLY_LARDER_HITS (R204) -/
  larderHits : BitVec 32 := 0
  /-- open recalibration (R312) -/
  recal : Option Recal := none
  /-- open migration (R319) -/
  mig : Option Mig := none
  /-- span moves (R606) -/
  moves : List SpanMove := []
  /-- TICKS (R317) -/
  loadTicks : BitVec 64 := 0
  /-- element count of the tick (R169) -/
  elems : Nat := 0
  /-- clipped count of the tick (R169) -/
  clipped : Nat := 0
  /-- tick of the last 0x0321 (R170) -/
  lastClipTick : Option Nat := none
  /-- counts of commands not yet committed: command, kind 0 to 3, count (R207) -/
  pendingCounts : List (Nat × Nat × Nat) := []
  deriving DecidableEq, Repr

/-- The Tally (TLY_) and the table registry. (R200) -/
structure Tally where
  /-- TLY_TBL_SEL (R909) -/
  tblSel : Nat := 0
  /-- tables whose registration has taken effect, by identifier (R179) -/
  tables : Map Table := []
  /-- tables registered and not yet in effect (R188) -/
  fresh : Map Table := []
  /-- their run-time counts, by identifier (R169) -/
  rt : Map TableRt := []
  deriving DecidableEq, Repr

/-- The Combiner key of a reference: table and row, or DEFAULT. (R241) -/
structure Key where
  /-- table identifier (R241) -/
  table : Nat := 0
  /-- row; none is the DEFAULT marker (R241) -/
  row : Option Nat := none
  deriving DecidableEq, Repr

/-- A row reference on its way to a Serai. (R239) -/
structure Ref where
  /-- key (R241) -/
  key : Key := {}
  /-- Larder slot of a Larder reference (R204) -/
  slot : Option Nat := none
  /-- command (R239) -/
  cid : Nat := 0
  /-- bag (R239) -/
  bag : Nat := 0
  /-- weight in a WSUM bag (R239) -/
  weight : Int := 0
  /-- reference of an Update (R293) -/
  update : Bool := false
  /-- Tally instance (input) it arrives on (R240) -/
  input : Nat := 0
  deriving DecidableEq, Repr

/-- A consumer record. (R243) -/
structure Rec where
  /-- command (R243) -/
  cid : Nat := 0
  /-- bag (R243) -/
  bag : Nat := 0
  /-- multiplicity (R243) -/
  mult : Nat := 0
  /-- weight sum (R243) -/
  wsum : Int := 0
  /-- record marked dead (R265) -/
  dead : Bool := false
  /-- record of an Update (R293) -/
  update : Bool := false
  deriving DecidableEq, Repr

/-- An entry of the Combiner content table, or a key queued or being fetched. (R241) -/
structure Entry where
  /-- key (R241) -/
  key : Key := {}
  /-- Larder slot named by its first reference (R204) -/
  slot : Option Nat := none
  /-- consumer records (R243) -/
  recs : List Rec := []
  /-- copies that failed the CRC (R779) -/
  tries : Nat := 0
  /-- waits for a flash row (R227) -/
  late : Bool := false
  deriving DecidableEq, Repr

/-- The open window of a Combiner. (R242) -/
structure Window where
  /-- entries in order of first reference (R242) -/
  entries : List Entry := []
  deriving DecidableEq, Repr

/-- A row buffer of the Hold. (R245) -/
structure Held where
  /-- key (R246) -/
  key : Key := {}
  /-- row bytes (R245) -/
  data : List (BitVec 8) := []
  deriving DecidableEq, Repr

/-- A bag's accumulator on one Serai. (R240) -/
structure BagAcc where
  /-- command (R240) -/
  cid : Nat := 0
  /-- bag (R240) -/
  bag : Nat := 0
  /-- exact sums, one per element (R255) -/
  sums : List Int := []
  /-- elements with a term that has no integer image (R259) -/
  bad : List Bool := []
  /-- references of the bag not yet pooled on this Serai (R240) -/
  left : Nat := 0
  /-- owner Serai (R238) -/
  owner : Nat := 0
  /-- partial sums still to arrive (at the owner) (R257) -/
  partials : Nat := 0
  /-- exact sum of the partials received (R257) -/
  recv : List Int := []
  /-- elements that saturated (R258) -/
  clipped : List Bool := []
  /-- a row of the old extent was pooled (R314) -/
  old : Bool := false
  /-- a row of the new extent was pooled (R314) -/
  fresh : Bool := false
  deriving DecidableEq, Repr

/-- A bag in progress. (R233) -/
structure BagInfo where
  /-- command (R233) -/
  cid : Nat := 0
  /-- bag (R233) -/
  bag : Nat := 0
  /-- TABLE_ID (R233) -/
  table : Nat := 0
  /-- POOL (R233) -/
  pool : Nat := 0
  /-- ID_COUNT (R233) -/
  idCount : Nat := 0
  /-- owner Serai (R238) -/
  owner : Nat := 0
  /-- output (or gradient) address (R237) -/
  outAddr : BitVec 64 := 0
  /-- WEXP (R234) -/
  wexp : Int := 0
  /-- other Serais that pool for the bag (R257) -/
  others : Nat := 0
  /-- the scale entries the command read, old extent (R146) -/
  scales : List Nat := []
  /-- those of an open recalibration (R314) -/
  newScales : List Nat := []
  deriving DecidableEq, Repr

/-- A partial sum in transit. (R257) -/
structure Partial where
  /-- command (R257) -/
  cid : Nat := 0
  /-- bag (R257) -/
  bag : Nat := 0
  /-- owner (R257) -/
  owner : Nat := 0
  /-- elements, saturated to 48 bits (R257) -/
  sums : List Int := []
  /-- elements without an image (R259) -/
  bad : List Bool := []
  /-- elements that saturated (R258) -/
  clipped : List Bool := []
  /-- rows of the old extent were pooled (R314) -/
  old : Bool := false
  /-- rows of the new extent were pooled (R314) -/
  fresh : Bool := false
  /-- copies that failed the CRC (R779) -/
  tries : Nat := 0
  deriving DecidableEq, Repr

/-- An overlay entry. (R278) -/
structure Overlay where
  /-- table (R278) -/
  table : Nat := 0
  /-- row (R278) -/
  row : Nat := 0
  /-- row bytes (R278) -/
  data : List (BitVec 8) := []
  /-- optimiser state bytes; empty when the entry does not carry them (R278) -/
  state : List (BitVec 8) := []
  /-- state (R279) -/
  st : OvState := .staged
  /-- command that staged it (R279) -/
  cid : Nat := 0
  /-- age (R280) -/
  order : Nat := 0
  /-- DISCARD_GRAD (R282) -/
  discardGrad : Bool := false
  /-- RESET_STATE (R282) -/
  resetState : Bool := false
  /-- watermark set in the visibility cycle (recalibration) (R313) -/
  mark : Option Nat := none
  /-- its data came from poisoned memory (R768) -/
  poison : Bool := false
  /-- its state came from poisoned memory (R768) -/
  stPoison : Bool := false
  deriving DecidableEq, Repr

/-- A pending or merge entry. (R294) -/
structure Merge where
  /-- table (R294) -/
  table : Nat := 0
  /-- row (R294) -/
  row : Nat := 0
  /-- command of a pending entry; none for a merge entry (R294) -/
  cid : Option Nat := none
  /-- signed 96-bit accumulators (R294) -/
  acc : List Int := []
  /-- additions that saturated, counted at commit (R294) -/
  sats : Nat := 0
  /-- version that the apply's boundary creates (apply set) (R308) -/
  version : Nat := 0
  /-- tick whose boundary formed the set (R299) -/
  tick : Nat := 0
  deriving DecidableEq, Repr

/-- A staging that waits for overlay space. (R281) -/
structure StageWait where
  /-- command (R281) -/
  cid : Nat := 0
  /-- the entry (R281) -/
  entry : Overlay := {}
  deriving DecidableEq, Repr

/-- The access-counter log of one Serai. (R324) -/
structure Acl where
  /-- SRI_ACL_BASE (R326) -/
  base : BitVec 64 := 0
  /-- EPOCH_LOG2 (R325) -/
  epochLog2 : Nat := 10
  /-- HOT_THRESH (R325) -/
  hotThresh : Nat := 1024
  /-- LOG2_SIZE (R327) -/
  log2Size : Nat := 20
  /-- EN (R328) -/
  en : Bool := false
  /-- SRI_ACL_HEAD (R327) -/
  head : Nat := 0
  /-- SRI_ACL_TAIL (R327) -/
  tail : Nat := 0
  /-- SRI_ACL_DROPS (R327) -/
  drops : BitVec 32 := 0
  /-- the 65,536 counters, by hash of the span (R324) -/
  counters : Map Nat := []
  /-- counters stopped until the epoch ends (R325) -/
  stopped : List Nat := []
  /-- ticks of the running epoch (R325) -/
  epochTicks : Nat := 0
  deriving DecidableEq, Repr

/-- One Serai. (R239) -/
structure Serai where
  /-- references sent by the Tally and not yet accepted (R239) -/
  inq : List Ref := []
  /-- stalled inputs (R240) -/
  stalled : List Bool := [false, false]
  /-- open window (R242) -/
  window : Option Window := none
  /-- keys queued or being fetched (R244) -/
  fetchq : List Entry := []
  /-- the Hold (R245) -/
  hold : List Held := []
  /-- accumulators in use (R240) -/
  accs : List BagAcc := []
  /-- overlay entries (R278) -/
  overlay : List Overlay := []
  /-- next age (R280) -/
  ovSeq : Nat := 0
  /-- stagings that wait (R281) -/
  stageWait : List StageWait := []
  /-- pending and merge entries (R294) -/
  merges : List Merge := []
  /-- apply set of the last boundary, not yet applied (R296) -/
  applySet : List Merge := []
  /-- Update references that wait (R295) -/
  mergeWait : List Ref := []
  /-- SRI_LANES.ACTIVE (R267) -/
  lanes : BitVec 17 := 0xFFFF
  /-- lanes that serve another lane's channels: failed lane, serving lane (R786) -/
  laneMap : List (Nat × Nat) := []
  /-- strikes: lane, time (R786) -/
  laneStrikes : List (Nat × Nat) := []
  /-- access-counter log (R324) -/
  acl : Acl := {}
  deriving DecidableEq, Repr

/-- The counters of one Serai. (R267) -/
structure SeraiCnt where
  /-- SRI_REFS (R267) -/
  refs : BitVec 64 := 0
  /-- SRI_FETCHES (R267) -/
  fetches : BitVec 64 := 0
  /-- SRI_MERGED (R267) -/
  merged : BitVec 64 := 0
  /-- SRI_HOLD_HITS (R267) -/
  holdHits : BitVec 64 := 0
  /-- SRI_DROPPED (R267) -/
  dropped : BitVec 64 := 0
  /-- SRI_WINDOWS (R267) -/
  windows : BitVec 32 := 0
  /-- SRI_WINDOWS_FULL (R267) -/
  windowsFull : BitVec 32 := 0
  /-- SRI_POOL_SAT (R267) -/
  poolSat : BitVec 32 := 0
  /-- SRI_PARTIALS (R267) -/
  partials : BitVec 32 := 0
  /-- SRI_POISON (R267) -/
  poison : BitVec 32 := 0
  /-- SRI_APPLIED (R299) -/
  applied : BitVec 64 := 0
  /-- SRI_STAGE_WAITS (R281) -/
  stageWaits : BitVec 32 := 0
  /-- SRI_MERGE_WAITS (R295) -/
  mergeWaits : BitVec 32 := 0
  /-- SRI_MERGE_SAT (R294) -/
  mergeSat : BitVec 32 := 0
  /-- SRI_FLASH_DISCARDS (R218) -/
  flashDiscards : BitVec 32 := 0
  /-- SRI_MIG_RELEASED (R322) -/
  migReleased : BitVec 32 := 0
  /-- SRI_POISON_DROPS (R300) -/
  poisonDrops : BitVec 32 := 0
  /-- SRI_REFUSED_WRITES (R270) -/
  refusedWrites : BitVec 32 := 0
  /-- Larder tag misses (R212) -/
  tagMisses : BitVec 32 := 0
  deriving DecidableEq, Repr

/-- The eight Serais and their selectors. (R267) -/
structure Serais where
  /-- SRI_SEL (R909) -/
  sel : Nat := 0
  /-- SRI_TBL_SEL (R909) -/
  tblSel : Nat := 0
  /-- Serai 0 to 7 (R239) -/
  units : Map Serai := []
  /-- their counters (R267) -/
  cnts : Map SeraiCnt := []
  /-- bags in progress (R233) -/
  bags : List BagInfo := []
  /-- partial sums in transit (R257) -/
  partials : List Partial := []
  deriving DecidableEq, Repr

/-- An enumerated NVMe controller. (R221) -/
structure Nvme where
  /-- its namespaces (R222) -/
  spaces : List Namespace := []
  /-- queue pairs it granted (R220) -/
  pairs : Nat := 0
  deriving DecidableEq, Repr

/-- A block read outstanding or waiting. (R224) -/
structure FlashRead where
  /-- controller (R224) -/
  ctrl : Nat := 0
  /-- namespace (R224) -/
  nsid : Nat := 0
  /-- block (R224) -/
  lba : Nat := 0
  /-- Serai and key of each waiting row (R224) -/
  waiters : List (Nat × Key) := []
  deriving DecidableEq, Repr

/-- A stored flash block. (R222) -/
structure FlashBlk where
  /-- controller (R222) -/
  ctrl : Nat := 0
  /-- namespace (R222) -/
  nsid : Nat := 0
  /-- block (R222) -/
  lba : Nat := 0
  /-- data bytes; a missing byte is 0 (R222) -/
  data : List (BitVec 8) := []
  /-- written from poisoned data, so that its CRC does not match (R564) -/
  poisoned : Bool := false
  deriving DecidableEq, Repr

/-- The Cellar (CLR_). (R220) -/
structure Cellar where
  /-- PRESENT (R221) -/
  present : BitVec 16 := 0
  /-- OFFLINE (R226) -/
  offline : BitVec 16 := 0
  /-- controllers (R221) -/
  ctrls : Map Nvme := []
  /-- blocks written; an unlisted block holds zeros (R222) -/
  blocks : List FlashBlk := []
  /-- reads (R224) -/
  reads : List FlashRead := []
  /-- CLR_READS (R224) -/
  nReads : BitVec 32 := 0
  /-- CLR_LATE_DEFAULTS (R229) -/
  lateDefaults : BitVec 32 := 0
  /-- CLR_READ_ERRORS (R225) -/
  readErrors : BitVec 32 := 0
  /-- CLR_CRC_ERRORS (R225) -/
  crcErrors : BitVec 32 := 0
  deriving DecidableEq, Repr

/-- A resident group. (R351) -/
structure Group where
  /-- state (R351) -/
  st : GrpState := .ready
  /-- Launch command (R335) -/
  cid : Nat := 0
  /-- block number (R337) -/
  block : Nat := 0
  /-- group in the block (R337) -/
  group : Nat := 0
  /-- REGS (R335) -/
  regs : Nat := 0
  /-- program counter (R337) -/
  pc : BitVec 64 := 0
  /-- execution mask (R337) -/
  exec : BitVec 64 := BitVec.allOnes 64
  /-- scalar registers S1 to S15; S0 reads 0 (R385) -/
  sregs : Map (BitVec 64) := []
  /-- vector registers by number, the 64 threads' values each; an unlisted one holds zeros (R384) -/
  vregs : Map (List (BitVec 32)) := []
  /-- group flag register (R154) -/
  flags : BitVec 7 := 0
  /-- waits at BAR (R420) -/
  atBar : Bool := false
  /-- waits in GBIND for these Grates (R422) -/
  binding : Option (BitVec 4) := none
  /-- Grates held (R422) -/
  bound : BitVec 4 := 0
  /-- placement order (R352) -/
  age : Nat := 0
  /-- time since which it is READY without issue (R353) -/
  readyAt : Nat := 0
  /-- time at which it became HALTED (R366) -/
  haltedAt : Nat := 0
  /-- time of its last progress event (R366) -/
  progressAt : Nat := 0
  /-- a Debug Step runs its instruction (R374) -/
  stepping : Bool := false
  deriving DecidableEq, Repr

/-- A placed block. (R345) -/
structure Block where
  /-- Launch command (R335) -/
  cid : Nat := 0
  /-- number (R337) -/
  block : Nat := 0
  /-- logical Hearth (R338) -/
  hearth : Nat := 0
  /-- local store bytes (R345) -/
  lsBytes : Nat := 0
  /-- local store contents; an unlisted byte reads 0 (R345) -/
  ls : List (Nat × BitVec 8) := []
  /-- groups not DONE (R345) -/
  left : Nat := 0
  deriving DecidableEq, Repr

/-- A Launch being placed. (R338) -/
structure LaunchSt where
  /-- next block to place (R338) -/
  next : Nat := 0
  /-- blocks placed and not finished (R534) -/
  live : Nat := 0
  /-- unplaced groups a Debug Halt named: block, group (R373) -/
  halts : List (Nat × Nat) := []
  /-- a Debug Halt named every group (R373) -/
  haltAll : Bool := false
  deriving DecidableEq, Repr

/-- A line of an L1. (R532) -/
structure L1Line where
  /-- command whose group filled it (R532) -/
  cid : Nat := 0
  /-- line address (R524) -/
  pa : PA := {}
  /-- 128 bytes (R523) -/
  data : List (BitVec 8) := []
  /-- dirty bytes (R526) -/
  dirty : List Bool := []
  /-- line of the instruction cache (R532) -/
  instr : Bool := false
  /-- poison mark (R768) -/
  poison : Bool := false
  deriving DecidableEq, Repr

/-- An entry of a combining buffer. (R527) -/
structure WcEntry where
  /-- command (R527) -/
  cid : Nat := 0
  /-- group that wrote it (R527) -/
  grp : GroupRef := {}
  /-- line address (R527) -/
  pa : PA := {}
  /-- bytes written, by offset (R527) -/
  bytes : List (Nat × BitVec 8) := []
  deriving DecidableEq, Repr

/-- A logical Grate's state. (R446) -/
structure Grate where
  /-- group that holds it (R422) -/
  bound : Option GroupRef := none
  /-- load register: 1,024 widened elements, F16 or F32 patterns; empty when no GWLD since the bind (R446) -/
  loadReg : List (BitVec 32) := []
  /-- format of the weights (R424) -/
  loadF32 : Bool := false
  /-- accumulator tile; empty when undefined since the bind (R443) -/
  acc : List (BitVec 32) := []
  deriving DecidableEq, Repr

/-- A FLUE queued, streaming or being checked. (R448) -/
structure FlueOp where
  /-- group (R448) -/
  grp : GroupRef := {}
  /-- command (R461) -/
  cid : Nat := 0
  /-- Grates named (R448) -/
  mask : BitVec 4 := 0
  /-- ACC (R443) -/
  accum : Bool := false
  /-- F32 operands (R448) -/
  f32 : Bool := false
  /-- widened activation tile (R450) -/
  act : List (BitVec 32) := []
  /-- widened weight tile per Grate 0 to 3, once taken (R450) -/
  wts : List (List (BitVec 32)) := []
  /-- weights taken (R449) -/
  streaming : Bool := false
  /-- runs of the tile per Grate (R463) -/
  runs : List Nat := [0, 0, 0, 0]
  /-- runs begun: 4 x logical Grate + physical Grate, newest first (R459) -/
  tried : List Nat := []
  /-- logical Grates whose tile waits for a re-run (R459) -/
  failedG : List Nat := []
  /-- Grates whose product is applied (R443) -/
  doneG : BitVec 4 := 0
  deriving DecidableEq, Repr

/-- A Trivet tile in transfer or in the lanes. (R481) -/
structure TrvOp where
  /-- group (R481) -/
  grp : GroupRef := {}
  /-- command (R483) -/
  cid : Nat := 0
  /-- VBASE (R429) -/
  vbase : Nat := 0
  /-- result elements (R476) -/
  res : List (BitVec 16) := []
  /-- flags of the tile (R477) -/
  flags : BitVec 7 := 0
  deriving DecidableEq, Repr

/-- A logical Hearth. (R343) -/
structure Hearth where
  /-- PHYSICAL (R379) -/
  phys : Nat := 0
  /-- IN_SERVICE (R379) -/
  inService : Bool := false
  /-- DRAIN (R379) -/
  drain : Nat := 0
  /-- SPLIT (R343) -/
  split : Nat := 0
  /-- HTH_ISSUED (R379) -/
  issued : BitVec 64 := 0
  /-- HTH_PLACED (R379) -/
  placed : BitVec 32 := 0
  /-- HTH_PROMOTED (R379) -/
  promoted : BitVec 32 := 0
  /-- HTH_SELF_WAIT (R379) -/
  selfWait : BitVec 32 := 0
  /-- HTH_DIVERGENT (R379) -/
  divergent : BitVec 32 := 0
  /-- GRT_TILES (R471) -/
  tiles : BitVec 64 := 0
  /-- GRT_MISMATCH (R471) -/
  mismatch : BitVec 32 := 0
  /-- GRT_RERUN (R471) -/
  rerun : BitVec 32 := 0
  /-- GRT_UNVERIFIABLE (R471) -/
  unverifiable : BitVec 32 := 0
  /-- GRT_UNCHECKED (R471) -/
  unchecked : BitVec 32 := 0
  /-- GRT_ECC_CORRECTED (R471) -/
  eccCorrected : BitVec 32 := 0
  /-- GRT_DEGRADED_SLOTS (R471) -/
  degradedSlots : BitVec 32 := 0
  /-- TRV_TILES (R502) -/
  trvTiles : BitVec 64 := 0
  /-- TRV_PARITY (R502) -/
  trvParity : BitVec 32 := 0
  /-- logical Grates (R433) -/
  grates : List Grate := [{}, {}, {}, {}]
  /-- FLUEs in issue order (R448) -/
  flue : List FlueOp := []
  /-- waiting GBINDs in issue order (R422) -/
  binds : List GroupRef := []
  /-- Trivet tiles in order (R481) -/
  trv : List TrvOp := []
  /-- L1 lines, most recently used first (R524) -/
  l1 : List L1Line := []
  /-- combining buffer (R527) -/
  wc : List WcEntry := []
  /-- Hearth TLB: context and page, newest first (R589) -/
  tlb : List (Nat × PageTr) := []
  deriving DecidableEq, Repr

/-- A physical Hearth. (R331) -/
structure PhysHearth where
  /-- retired (R782) -/
  retired : Bool := false
  /-- retired physical Grates (R462) -/
  grRetired : BitVec 4 := 0
  /-- last first strike of each physical Grate: Grate, time (R462) -/
  strikes : List (Nat × Nat) := []
  /-- tick of its last Ember pass (R782) -/
  lastPassTick : BitVec 64 := 0
  /-- time of its last Ember pass (R784) -/
  lastPassAt : Nat := 0
  deriving DecidableEq, Repr

/-- The rotation of one quarter. (R780) -/
structure Quarter where
  /-- spare physical Hearth (R331) -/
  spare : Option Nat := none
  /-- logical Hearth being rotated (R332) -/
  rotating : Option Nat := none
  /-- tests in place (R783) -/
  inPlace : Bool := false
  /-- physical Hearth under test (R781) -/
  testing : Option Nat := none
  /-- LAST_TESTED (R791) -/
  lastTested : Option Nat := none
  /-- FAILS (R791) -/
  fails : Nat := 0
  /-- k, rotations scheduled (R780) -/
  nextRot : Nat := 0
  /-- next logical position in ascending order (R780) -/
  nextLog : Nat := 0
  /-- logical Hearth moving for a retired Grate (R465) -/
  grateMove : Option Nat := none
  deriving DecidableEq, Repr

/-- The Hearths (HTH_, GRT_, TRV_) and their dispatcher. (R329) -/
structure Hearths where
  /-- HTH_SEL (R909) -/
  sel : Nat := 0
  /-- GRT_SEL (R909) -/
  grtSel : Nat := 0
  /-- TRV_SEL (R909) -/
  trvSel : Nat := 0
  /-- logical Hearths 0 to 159 (R329) -/
  logical : Map Hearth := []
  /-- physical Hearths 0 to 167 (R331) -/
  phys : Map PhysHearth := []
  /-- quarters 0 to 7 (R780) -/
  quarters : Map Quarter := []
  /-- resident groups, by 48 x Hearth + 12 x Burner + slot (R351) -/
  groups : Map Group := []
  /-- placed blocks (R345) -/
  blocks : List Block := []
  /-- Launches dispatched, by command number (R338) -/
  launches : Map LaunchSt := []
  /-- GRT_IN_SERVICE.GRATES (R471) -/
  gratesLoaded : Nat := 0
  /-- next placement number (R352) -/
  nextAge : Nat := 0
  /-- the model's own counter for free values (DESIGN CHOICE, assumption 5) (R178) -/
  freeCount : Nat := 0
  deriving DecidableEq, Repr

/-- The Sieve of one die. (R502) -/
structure SieveDie where
  /-- SVE_REQUESTS (R502) -/
  requests : BitVec 64 := 0
  /-- SVE_CANDIDATES (R502) -/
  candidates : BitVec 64 := 0
  /-- SVE_PADDED (R502) -/
  padded : BitVec 32 := 0
  /-- SVE_NAN (R502) -/
  nan : BitVec 32 := 0
  /-- SVE_MASKED (R502) -/
  masked : BitVec 32 := 0
  /-- SVE_ECC_CORRECTED (R502) -/
  ecc : BitVec 32 := 0
  deriving DecidableEq, Repr

/-- The Sieves (SVE_). (R497) -/
structure Sieves where
  /-- SVE_SEL (R909) -/
  sel : Nat := 0
  /-- die 0 (R497) -/
  die0 : SieveDie := {}
  /-- die 1 (R497) -/
  die1 : SieveDie := {}
  deriving DecidableEq, Repr

/-- A provisional copy of a Depot line. (R537) -/
structure Prov where
  /-- commit unit: the waybill ... (R537) -/
  waybill : Option Nat := none
  /-- ... or the command when `waybill` is none (R537) -/
  cid : Nat := 0
  /-- 128 bytes (R537) -/
  data : List (BitVec 8) := []
  /-- an atomic has changed it (R541) -/
  atomic : Bool := false
  /-- written to memory at an eviction (R541) -/
  written : Bool := false
  /-- in the spill area (R541) -/
  spilled : Bool := false
  /-- poison mark (R557) -/
  poison : Bool := false
  /-- its region is WT (R526) -/
  through : Bool := false
  deriving DecidableEq, Repr

/-- A Depot line. (R536) -/
structure DLine where
  /-- line address (R524) -/
  pa : PA := {}
  /-- committed copy; empty when the Depot holds none (R537) -/
  data : List (BitVec 8) := []
  /-- committed copy is dirty (R557) -/
  dirty : Bool := false
  /-- context of the last writer (R557) -/
  owner : Option Nat := none
  /-- poison mark (R768) -/
  poison : Bool := false
  /-- committed copy is in the spill area (R541) -/
  spilled : Bool := false
  /-- provisional copies (R537) -/
  provs : List Prov := []
  /-- line of a STREAM region (R524) -/
  stream : Bool := false
  deriving DecidableEq, Repr

/-- An entry of a merging buffer. (R530) -/
structure MergeEnt where
  /-- line address (R530) -/
  pa : PA := {}
  /-- bytes written, by offset (R530) -/
  bytes : List (Nat × BitVec 8) := []
  deriving DecidableEq, Repr

/-- The counters of one Depot slice. (R578) -/
structure SliceCnt where
  /-- DPT_HITS (R578) -/
  hits : BitVec 64 := 0
  /-- DPT_MISSES (R578) -/
  misses : BitVec 64 := 0
  /-- DPT_CONFLICT_WAITS (R543) -/
  conflictWaits : BitVec 32 := 0
  /-- DPT_PARITY_REFETCH (R557) -/
  refetch : BitVec 32 := 0
  /-- DPT_PARITY_LOST (R557) -/
  lost : BitVec 32 := 0
  deriving DecidableEq, Repr

/-- The Depot (DPT_) and the merging buffers. (R536) -/
structure Depot where
  /-- DPT_SEL (R909) -/
  sel : Nat := 0
  /-- lines held (R536) -/
  lines : List DLine := []
  /-- slice 0 (R578) -/
  slice0 : SliceCnt := {}
  /-- slice 1 (R578) -/
  slice1 : SliceCnt := {}
  /-- groups waiting on another unit's provisional copy (R543) -/
  waits : List GroupRef := []
  /-- merging buffer of die 0, oldest first (R529) -/
  merge0 : List MergeEnt := []
  /-- merging buffer of die 1 (R529) -/
  merge1 : List MergeEnt := []
  deriving DecidableEq, Repr

/-- The Damper of one stack. (R570) -/
structure StackDmp where
  /-- LEVEL (R574) -/
  level : Nat := 0
  /-- TEMP (R572) -/
  temp : BitVec 16 := 0
  /-- consecutive samples below THR_L - 3 degrees (R574) -/
  below : Nat := 0
  /-- DMP_RAISES (R577) -/
  raises : BitVec 32 := 0
  /-- DMP_PART_CAPPED by partition (R569) -/
  capped : Map (BitVec 32) := []
  deriving DecidableEq, Repr

/-- The Dampers (DMP_). (R565) -/
structure Dampers where
  /-- DMP_SEL (R909) -/
  sel : Nat := 0
  /-- DMP_PART_SEL (R909) -/
  partSel : Nat := 0
  /-- stacks 0 to 7 (R565) -/
  perStack : Map StackDmp := []
  deriving DecidableEq, Repr

/-- The Drovers (DRV_). (R559) -/
structure Drovers where
  /-- DRV_IN_SERVICE (R578) -/
  inService : BitVec 16 := 0xFFFF
  /-- DRV_BYTES (R578) -/
  bytes : BitVec 64 := 0
  /-- DRV_FLASH_WRITES (R578) -/
  flashWrites : BitVec 32 := 0
  /-- DRV_POISONED (R578) -/
  poisoned : BitVec 32 := 0
  deriving DecidableEq, Repr

/-- Power, die temperatures and the Hearth clock level. (R922) -/
structure Power where
  /-- Hearth clock level 0 to 5 (R937) -/
  hlevel : Nat := 1
  /-- Hearth clock cycles since cold reset, times 1,200 (R387) -/
  hclk : Nat := 0
  /-- last sample (R922) -/
  powerW : Nat := 0
  /-- average over the latest 100 us (R939) -/
  avg100us : Nat := 0
  /-- sum of samples in the tick (R938) -/
  tickEnergy : Nat := 0
  /-- samples in the tick (R938) -/
  tickSamples : Nat := 0
  /-- a die reached 85 degrees in the tick (R938) -/
  hotTick : Bool := false
  /-- consecutive samples meeting the raise conditions (R940) -/
  calmSamples : Nat := 0
  /-- temperature of die 0 in 1/256 degrees (R945) -/
  dieTemp0 : Int := 0
  /-- temperature of die 1 (R945) -/
  dieTemp1 : Int := 0
  /-- power samples of the latest 1 ms, newest first, at most 100 (R939) -/
  recent : List Nat := []
  /-- time of the last step for a hot die, while one is at TJ_HOT (R939) -/
  hotStepAt : Option Nat := none
  /-- time of the last step for package power, while its average exceeds the limit (R939) -/
  powerStepAt : Option Nat := none
  deriving DecidableEq, Repr

/-- A host link port. (R622) -/
structure LinkPort where
  /-- UP (R622) -/
  up : Bool := false
  /-- RATE (R622) -/
  rate : Nat := 0
  /-- WIDTH (R622) -/
  width : Nat := 0
  /-- REROUTED (R620) -/
  rerouted : Bool := false
  /-- its loss has been raised (R620) -/
  lost : Bool := false
  deriving DecidableEq, Repr

/-- An ATS completion held in a port's cache. (R587) -/
structure AtsEntry where
  /-- function (PASID) (R610) -/
  fn : Nat := 0
  /-- untranslated link page (R587) -/
  addr : Nat := 0
  /-- translated page (R587) -/
  target : Nat := 0
  /-- read permission (R587) -/
  read : Bool := false
  /-- write permission (R587) -/
  write : Bool := false
  deriving DecidableEq, Repr

/-- An invalidation accepted and not complete. (R599) -/
structure Inval where
  /-- contexts in range (R597) -/
  ctxs : List Nat := []
  /-- first Device Address or link address (R597) -/
  first : Nat := 0
  /-- bytes (R597) -/
  len : Nat := 0
  /-- an ATS Invalidate Request (addresses are link addresses) (R598) -/
  ats : Bool := false
  /-- the command, when a manifest asked (R597) -/
  cid : Option Nat := none
  /-- the function of an ATS request (R598) -/
  fn : Nat := 0
  deriving DecidableEq, Repr

/-- A walk cache entry: a non-leaf entry of levels 4 to 1. (R589) -/
structure WalkEnt where
  /-- context, as 512 x function + local slot (R589) -/
  key : Nat := 0
  /-- level (R589) -/
  level : Nat := 0
  /-- Device Address above the entry's reach (R589) -/
  index : Nat := 0
  /-- where the next table lies: TGT (R586) -/
  space : Space := .stack
  /-- where the next table lies: ADDR (R586) -/
  addr : Nat := 0
  deriving DecidableEq, Repr

/-- Address translation (XLT_) and the host link ports. (R589) -/
structure Xlt where
  /-- XLT_STORE_WAITS (R593) -/
  storeWaits : BitVec 32 := 0
  /-- XLT_INVALS (R599) -/
  invals : BitVec 32 := 0
  /-- XLT_INVAL_TEARDOWNS (R600) -/
  invalTeardowns : BitVec 32 := 0
  /-- XLT_REHOMED (R606) -/
  rehomed : BitVec 32 := 0
  /-- XLT_PARITY (R589) -/
  parity : BitVec 32 := 0
  /-- invalidations pending (XLT_INVAL_PENDING) (R599) -/
  pendingInv : List Inval := []
  /-- XLT_WALKS (R589) -/
  walks : BitVec 64 := 0
  /-- XLT_ATS_REQS (R587) -/
  atsReqs : BitVec 64 := 0
  /-- shared translation cache of die 0 (R589) -/
  stc0 : List (Nat × PageTr) := []
  /-- shared translation cache of die 1 (R589) -/
  stc1 : List (Nat × PageTr) := []
  /-- walk cache of die 0 (R589) -/
  wc0 : List WalkEnt := []
  /-- walk cache of die 1 (R589) -/
  wc1 : List WalkEnt := []
  /-- ATS caches (R589) -/
  ats : List AtsEntry := []
  /-- port 0 (R622) -/
  port0 : LinkPort := {}
  /-- port 1 (R622) -/
  port1 : LinkPort := {}
  /-- Invalidate Completions sent: function, address (R599) -/
  invalDone : List (Nat × Nat) := []
  deriving DecidableEq, Repr

/-- A channel of a port. (R722) -/
structure Chan where
  /-- EPOCH (R722) -/
  epoch : BitVec 32 := 0
  /-- NEXT_SEQ (R722) -/
  nextSeq : BitVec 32 := 0
  /-- a partner's START held (R726) -/
  heldStart : Option Frame := none
  /-- its DATA frames held (R726) -/
  heldData : List Frame := []
  /-- SEQ of a link kept after a kill until DONE or ABORT (R732) -/
  orphan : Option (BitVec 32) := none
  deriving DecidableEq, Repr

/-- A Route port. (R713) -/
structure RPort where
  /-- STATE (R713) -/
  st : PortState := .disabled
  /-- ENCRYPTED (R709) -/
  encrypted : Bool := false
  /-- pinned digest (R710) -/
  pin : Option (List (BitVec 8)) := none
  /-- REQUESTER (R706) -/
  requester : Bool := false
  /-- RX_LANES (R697) -/
  rxLanes : BitVec 9 := 0
  /-- TX_LANES (R697) -/
  txLanes : BitVec 9 := 0
  /-- QUARANTINES, saturating at 255 (R715) -/
  quarantines : Nat := 0
  /-- REASON (R714) -/
  reason : Nat := 0
  /-- partner serial (R713) -/
  partner : BitVec 64 := 0
  /-- digest of the partner's chain (R708) -/
  partnerDigest : List (BitVec 8) := []
  /-- ONE_WAY_NS (R701) -/
  delayNs : BitVec 16 := 0
  /-- time at which the hold ends; none while held until cold reset (R715) -/
  holdEnd : Option Nat := none
  /-- nonce of our last HELLO (R705) -/
  nonce : BitVec 64 := 0
  /-- a KEY_UPDATE runs (R710) -/
  rekeying : Bool := false
  /-- runs on four lanes (R698) -/
  half : Bool := false
  /-- recovery attempts (R713) -/
  attempts : Nat := 0
  /-- bring-up: 0 not begun, 1 training, 2 trained, 3 HELLO, 4 SPDM (R705) -/
  stage : Nat := 0
  /-- time at which it became SUSPECT (R713) -/
  suspectAt : Nat := 0
  /-- the partner's ENC setting: REQUIRED (R705) -/
  partnerEnc : Bool := false
  /-- round trip of the HELLO exchange in ns (R701) -/
  rtt : Nat := 0
  /-- boundaries without a valid frame (R713) -/
  silent : Nat := 0
  /-- a valid frame since the boundary (R713) -/
  gotFrame : Bool := false
  /-- trailer failures within the tick (R713) -/
  trailerTick : Nat := 0
  /-- next LSEQ to send (R719) -/
  txLseq : BitVec 64 := 0
  /-- next LSEQ expected (R719) -/
  rxLseq : BitVec 64 := 0
  /-- the last 128 frames sent, newest first (R719) -/
  sent : List Frame := []
  /-- frames given to the link, newest first (R700) -/
  outbox : List Frame := []
  /-- DATA frames sent since UP (R720) -/
  dataSent : BitVec 32 := 0
  /-- last cumulative count received (R720) -/
  creditGot : BitVec 32 := 0
  /-- DATA frames received since UP (R720) -/
  dataGot : BitVec 32 := 0
  /-- DATA frames freed since UP (R720) -/
  dataFreed : BitVec 32 := 0
  /-- frames sent under the current key (R712) -/
  keyTx : Nat := 0
  /-- frames received under the current key (R712) -/
  keyRx : Nat := 0
  /-- times of recent frames that are not DATA (R721) -/
  burst : List Nat := []
  /-- channels 0 to 15 (R722) -/
  chans : Map Chan := []
  deriving DecidableEq, Repr

/-- The counters of one Route port. (R747) -/
structure RPortCnt where
  /-- RTE_REPLAYS (R747) -/
  replays : BitVec 32 := 0
  /-- RTE_TRAILER_FAILS (R747) -/
  trailerFails : BitVec 32 := 0
  /-- RTE_STALE (R747) -/
  stale : BitVec 32 := 0
  /-- RTE_CREDIT_STALLS (R747) -/
  creditStalls : BitVec 32 := 0
  /-- RTE_ABORTS_TX (R747) -/
  abortsTx : BitVec 32 := 0
  /-- RTE_ABORTS_RX (R747) -/
  abortsRx : BitVec 32 := 0
  /-- RTE_MISMATCH (R747) -/
  mismatch : BitVec 32 := 0
  /-- RTE_LANE_SWAPS (R747) -/
  laneSwaps : BitVec 32 := 0
  /-- RTE_TX_BYTES (R747) -/
  txBytes : BitVec 64 := 0
  /-- RTE_RX_BYTES (R747) -/
  rxBytes : BitVec 64 := 0
  deriving DecidableEq, Repr

/-- A link of an operation. (R726) -/
structure RLink where
  /-- port (R722) -/
  port : Nat := 0
  /-- SEQ taken (R723) -/
  seq : BitVec 32 := 0
  /-- bytes to send (R726) -/
  sendTotal : Nat := 0
  /-- bytes expected (most, for an exchange) (R727) -/
  expect : Nat := 0
  /-- bytes received (R721) -/
  got : Nat := 0
  /-- partner's TOTAL in bytes (R727) -/
  total : Option Nat := none
  /-- bytes received (R730) -/
  data : List (BitVec 8) := []
  /-- DONE sent (R728) -/
  doneSent : Bool := false
  /-- DONE received (R728) -/
  doneGot : Bool := false
  /-- where received bytes go (R739) -/
  recvAddr : BitVec 64 := 0
  /-- where the bytes to send lie (R739) -/
  sendAddr : BitVec 64 := 0
  /-- bytes sent (R720) -/
  sent : Nat := 0
  /-- bytes queued to send (R742) -/
  queue : List (BitVec 8) := []
  /-- its next DATA frame waits for credit (R720) -/
  stalled : Bool := false
  deriving DecidableEq, Repr

/-- A Route operation. (R722) -/
structure ROp where
  /-- command (R722) -/
  cid : Nat := 0
  /-- KIND (R722) -/
  reduce : Bool := false
  /-- CHANNEL (R722) -/
  channel : Nat := 0
  /-- EPOCH (R722) -/
  epoch : BitVec 32 := 0
  /-- OP (R722) -/
  op : BitVec 16 := 0
  /-- started (R723) -/
  started : Bool := false
  /-- dispatch order (R723) -/
  order : Nat := 0
  /-- links (R722) -/
  links : List RLink := []
  /-- chunks taken from the previous member (reduce) (R742) -/
  step : Nat := 0
  /-- put back first in its channels' order (R730) -/
  first : Bool := false
  deriving DecidableEq, Repr

/-- The Routes (RTE_). (R693) -/
structure Routes where
  /-- RTE_SEL (R909) -/
  sel : Nat := 0
  /-- RTE_CHAN_SEL (R909) -/
  chanSel : Nat := 0
  /-- ports 0 to 7 (R693) -/
  ports : Map RPort := []
  /-- their counters (R747) -/
  cnts : Map RPortCnt := []
  /-- operations (R722) -/
  ops : List ROp := []
  /-- next dispatch order (R723) -/
  nextOrder : Nat := 0
  deriving DecidableEq, Repr

/-- A recent delivery of the coalescer. (R755) -/
structure Coal where
  /-- the record delivered (R755) -/
  delivered : FaultRec := {}
  /-- time of the delivery (R755) -/
  since : Nat := 0
  /-- repeats held (R755) -/
  held : Nat := 0
  /-- first repeat held (R755) -/
  first : Option FaultRec := none
  deriving DecidableEq, Repr

/-- The Fault Collector (FLT_). (R748) -/
structure Faults where
  /-- SEQ of the next record (R752) -/
  nextSeq : BitVec 64 := 0
  /-- host sink queue, oldest first (R761) -/
  hostq : List FaultRec := []
  /-- management sink queue, oldest first (R763) -/
  mgmtq : List FaultRec := []
  /-- FLT_HOST_LOST (R758) -/
  hostLost : BitVec 32 := 0
  /-- FLT_MGMT_LOST (R27) -/
  mgmtLost : BitVec 32 := 0
  /-- FLT_HOST_WRITE_FAILS (R758) -/
  writeFails : BitVec 32 := 0
  /-- FLT_COALESCED (R755) -/
  coalesced : BitVec 32 := 0
  /-- FLT_SPARING (R786) -/
  sparing : BitVec 32 := 0
  /-- deliveries of the last 1 ms (R755) -/
  coal : List Coal := []
  /-- FLT_EMBER_SEL (R909) -/
  emberSel : Nat := 0
  /-- the host sink is stopped (R762) -/
  hostStopped : Bool := false
  /-- QUENCH_CODE (R913) -/
  quenchCode : Nat := 0
  /-- time of entry to Quenched (R765) -/
  quenchAt : Nat := 0
  /-- code of a Quenched fault received and not yet in force (R842) -/
  quenchDue : Option Nat := none
  /-- MSI-X messages sent: function, vector, newest first (R759) -/
  msix : List (Nat × Nat) := []
  /-- tick of each unit's last passed known-answer test (R777) -/
  knownPass : Map (BitVec 64) := []
  /-- corrections: stack row key, time (R786) -/
  ceRows : List (Nat × Nat) := []
  /-- DRAM rows remapped: row key, spare (R787) -/
  sparedRows : List (Nat × Nat) := []
  /-- SRAM locations and their events (R786) -/
  sramHits : List (Nat × Nat) := []
  /-- Depot or L1 ways disabled for their set (R786) -/
  disabledWays : List Nat := []
  deriving DecidableEq, Repr

/-- A Chimney counter configuration. (R796) -/
structure CtrCfg where
  /-- EVENT (R796) -/
  event : Nat := 0
  /-- INSTANCE (R796) -/
  inst : Nat := 0
  /-- CONTEXT (R796) -/
  ctx : Nat := 0
  /-- ANY (R796) -/
  any : Bool := false
  /-- CLASS_MASK (R796) -/
  classMask : Nat := 0
  deriving DecidableEq, Repr

/-- A trace destination. (R805) -/
structure Dest where
  /-- ENABLE (R805) -/
  en : Bool := false
  /-- PLACE_LOG2 (R805) -/
  placeLog2 : Nat := 0
  /-- KIND_MASK (R805) -/
  kindMask : BitVec 16 := 0
  /-- CONTEXT (R805) -/
  ctx : Nat := 0
  /-- ANY of CONTEXT (R805) -/
  ctxAny : Bool := false
  /-- FUNCTION (R805) -/
  fn : Nat := 0
  /-- ANY of FUNCTION (R805) -/
  fnAny : Bool := false
  /-- RING_BASE (R805) -/
  base : BitVec 64 := 0
  /-- RING_LOG2 (R805) -/
  log2 : Nat := 0
  /-- RATE_MBS (R805) -/
  rate : Nat := 0
  deriving DecidableEq, Repr

/-- A trace record. (R801) -/
structure TraceRec where
  /-- KIND (R801) -/
  kind : Nat := 0
  /-- SRC (R801) -/
  die : Nat := 0
  /-- CONTEXT (R801) -/
  ctx : Nat := 65535
  /-- function of the context, for the FUNCTION filter (R805) -/
  fn : Nat := 0
  /-- TSEQ (R803) -/
  tseq : BitVec 32 := 0
  /-- TICK (R801) -/
  tick : BitVec 64 := 0
  /-- NS (R801) -/
  ns : Nat := 0
  /-- CMD_ID (R801) -/
  cmdId : BitVec 32 := 0
  /-- PAYLOAD (R802) -/
  payload : BitVec 64 := 0
  deriving DecidableEq, Repr

/-- The Chimney (CHM_). (R792) -/
structure Chimney where
  /-- counter configurations (R796) -/
  cfg : Map CtrCfg := []
  /-- counters (R796) -/
  val : Map (BitVec 64) := []
  /-- snapshot (R799) -/
  snap : Map (BitVec 64) := []
  /-- CHM_SNAP_TICK (R799) -/
  snapTick : BitVec 64 := 0
  /-- accepted counter blocks (R793) -/
  dueCtr : List (Nat × CtrCfg) := []
  /-- accepted trace blocks (R793) -/
  dueDest : List (Nat × Dest) := []
  /-- trace output (R805) -/
  port : Dest := {}
  /-- host ring (R805) -/
  ring : Dest := {}
  /-- staged for the trace output, oldest first (R804) -/
  portq : List TraceRec := []
  /-- staged for the host ring (R804) -/
  ringq : List TraceRec := []
  /-- next TSEQ (R803) -/
  tseq : BitVec 32 := 0
  /-- CHM_DROPS (R804) -/
  drops : BitVec 32 := 0
  /-- records dropped since the last LOST record (R804) -/
  lostNow : Nat := 0
  /-- CHM_HOST_DROPS (R807) -/
  hostDrops : BitVec 32 := 0
  /-- CHM_HOST_CNT (R806) -/
  hostCnt : BitVec 32 := 0
  /-- CHM_FRAMES (R809) -/
  frames : BitVec 32 := 0
  /-- HOST_STOPPED (R808) -/
  hostStopped : Bool := false
  /-- bytes exported in the running 1 ms (R807) -/
  ringUsed : Nat := 0
  /-- time at which that 1 ms began (R807) -/
  ringSince : Nat := 0
  /-- frames sent, newest first (R809) -/
  frameOut : List (List (BitVec 8)) := []
  deriving DecidableEq, Repr

/-- A BX-3 table. (R886) -/
structure BxTable where
  /-- row count (R886) -/
  rows : Nat := 0
  /-- device offset (R886) -/
  base : Nat := 0
  /-- row size (R886) -/
  rowBytes : Nat := 0
  /-- SCALE (R886) -/
  scale : BitVec 32 := 0
  deriving DecidableEq, Repr

/-- The BX-3 window. (R870) -/
structure Bx where
  /-- Q_EN (R885) -/
  qEn : Bool := false
  /-- IRQ_EN (R901) -/
  irqEn : Bool := false
  /-- HALTED (R898) -/
  halted : Bool := false
  /-- FATAL (R900) -/
  fatal : Bool := false
  /-- Q_EMPTY (R879) -/
  qEmpty : Bool := false
  /-- OOR (R891) -/
  oor : Bool := false
  /-- CMD_ERR (R898) -/
  cmdErr : Bool := false
  /-- ERR_CODE (R898) -/
  errCode : Nat := 0
  /-- SLOT (R898) -/
  errSlot : Nat := 0
  /-- FAULT (R898) -/
  errFault : Nat := 0
  /-- BX_Q_BASE (R881) -/
  qBase : BitVec 64 := 0
  /-- BX_Q_TAIL (R881) -/
  tail : Nat := 0
  /-- BX_Q_HEAD (R884) -/
  head : Nat := 0
  /-- BX_DONE_COUNT (R884) -/
  done : BitVec 32 := 0
  /-- BX_OOR_COUNT (R891) -/
  oorCount : BitVec 32 := 0
  /-- BX_SAT_COUNT (R893) -/
  satCount : BitVec 32 := 0
  /-- defined tables (R886) -/
  tables : Map BxTable := []
  /-- entry read and not yet complete (R882) -/
  taken : Option (List (BitVec 8)) := none
  /-- its work is done, its writes issued (R884) -/
  ran : Bool := false
  /-- error code of the running command, 0 for none (R898) -/
  failing : Nat := 0
  /-- its Native fault code (R899) -/
  failFault : Nat := 0
  /-- second comparison due (R883) -/
  recheck : Bool := false
  /-- MSI-X messages sent (R901) -/
  irqs : Nat := 0
  /-- outputs of the running command, by address operand, visible at its completion (R889) -/
  staged : List (Nat × List (BitVec 8)) := []
  /-- entries read when first pending: slot and bytes (R882) -/
  entries : List (Nat × List (BitVec 8)) := []
  deriving DecidableEq, Repr

/-- Memories, each in the one canonical form. (R523) -/
structure Mem where
  /-- stack memory by LPA; an unlisted byte reads 0 (R34) -/
  stack : List (Nat × BitVec 8) := []
  /-- host memory; an unlisted byte reads 0 (R583) -/
  host : List (Nat × BitVec 8) := []
  /-- fabric pool; an unlisted byte reads 0 (R198) -/
  pool : List (Nat × BitVec 8) := []
  /-- poisoned 64-byte units of stack memory (R767) -/
  stackPoison : List Nat := []
  /-- poisoned 64-byte units of host memory (R768) -/
  hostPoison : List Nat := []
  /-- poisoned 64-byte units of the pool (R768) -/
  poolPoison : List Nat := []
  /-- the stacks are in self-refresh (R842) -/
  stackRefresh : Bool := false
  deriving DecidableEq, Repr

/-- What the last access returned (the model's own window on the host link). (R908) -/
structure BusOut where
  /-- value returned by the last BAR read (R908) -/
  readValue : BitVec 64 := 0
  /-- bytes returned by the last CXL.mem read or snoop (R612) -/
  hdmData : List (BitVec 8) := []
  /-- they carried poison (R768) -/
  hdmPoison : Bool := false
  deriving DecidableEq, Repr

/-- Progress of the start-up sequence in Kindling (the model's own bookkeeping of the order of R836). (R836) -/
structure Boot where
  /-- an image slot passed the checks (R834) -/
  imageOk : Bool := false
  /-- the host link has been presented (R845) -/
  presented : Bool := false
  /-- time at which Kindling ended (R780) -/
  ended : Nat := 0
  /-- time of the last cold reset (R765) -/
  since : Nat := 0
  /-- stacks whose training has ended (R836) -/
  trained : List Nat := []
  /-- stacks that failed training (R836) -/
  failedStacks : List Nat := []
  /-- the Ember Test of every physical Hearth has ended (R781) -/
  emberDone : Bool := false
  /-- the known-answer tests have passed (R836) -/
  katDone : Bool := false
  /-- the Cellar has been enumerated (R221) -/
  cellarDone : Bool := false
  /-- image settings loaded and KEY_SEED drawn (R703) -/
  seed : Bool := false
  /-- sparing map loaded (R833) -/
  mapLoaded : Bool := false
  /-- SPARING_BASE entries of the image read (R833) -/
  base : List SparingEntry := []
  deriving DecidableEq, Repr

/-- The whole machine; every unit the spec names, and the queue of waiting commands. (R23) -/
structure State where
  /-- the waiting commands, first in, first out (R17) -/
  pending : List Instr := []
  /-- device state (R835) -/
  dev : DevState := .off
  /-- Stoker clock cycles since power-up (the model's clock, assumption 1) (R11) -/
  time : Nat := 0
  /-- lands (R918) -/
  pins : Pins := {}
  /-- fuses (R820) -/
  fuses : Fuses := {}
  /-- Kindling Image settings in force (R832) -/
  img : Image := {}
  /-- start-up progress (R836) -/
  boot : Boot := {}
  /-- Warden island (R820) -/
  warden : Warden := {}
  /-- tick unit (R41) -/
  tck : TickUnit := {}
  /-- Caravan Assembler (R66) -/
  cvn : Caravan := {}
  /-- Ledger (R90) -/
  ldg : Ledger := {}
  /-- Stoker (R623) -/
  stk : Stoker := {}
  /-- host functions 0 to 31, by number; an unlisted function is at reset (R624) -/
  fns : Map Fn := []
  /-- fault logs and summary registers of the functions, by number; unlisted is at reset (R791) -/
  logs : Map FnLog := []
  /-- Tally and table registry (R200) -/
  tally : Tally := {}
  /-- Serais (R239) -/
  serais : Serais := {}
  /-- Cellar (R220) -/
  cellar : Cellar := {}
  /-- Hearths and dispatcher (R329) -/
  hearths : Hearths := {}
  /-- Sieves (R497) -/
  sieves : Sieves := {}
  /-- Depot (R536) -/
  depot : Depot := {}
  /-- Dampers (R565) -/
  dampers : Dampers := {}
  /-- Drovers (R559) -/
  drovers : Drovers := {}
  /-- power and clock level (R922) -/
  power : Power := {}
  /-- translation and host link ports (R589) -/
  xlt : Xlt := {}
  /-- Routes (R693) -/
  routes : Routes := {}
  /-- Fault Collector (R748) -/
  flt : Faults := {}
  /-- Chimney (R792) -/
  chm : Chimney := {}
  /-- BX-3 window (R870) -/
  bx : Bx := {}
  /-- memories (R523) -/
  mem : Mem := {}
  /-- last value returned to the host (R908) -/
  bus : BusOut := {}
  deriving DecidableEq, Repr

/-- Why a step stops with a fault. -/
inductive Fault where
  /-- Raised by HOST_STACK_READ and HOST_STACK_WRITE when they name a byte outside the range that the
  port exposes: R611 gives those addresses no memory (safe: the address does not exist). -/
  | hdmOutOfRange
  deriving DecidableEq, Repr

/-- Why a step refuses. -/
inductive Refusal where
  /-- Raised by a command that has no meaning yet (safe). -/
  | notModelled (mnemonic : String)
  deriving DecidableEq, Repr

/-- The part right after power is applied to nothing but its fuses and flash: Off, the queue empty, every register at
its Reset value (R15), and every other field at the value its line of INVENTORY.md names. -/
def State.reset : State := {}

end Sys2Proof.Machine
end

