-- ==== Sys2Proof/Machine/Ops.lean ====
section
/-!
DEFINITION. Named operations shared by every meaning: finite maps, byte strings, memory cells, one update function
per unit of the state, the Chimney's counters and trace (R796 to R804) and the Fault Collector's intake (R748 to R755).
-/
namespace Sys2Proof.Machine

/-! ### Finite maps -/

/-- The entry of a key. -/
def mapGet {α : Type} : Map α → Nat → Option α
  | [], _ => none
  | (a, v) :: t, k => if a = k then some v else mapGet t k

/-- The entry of a key, or a default. -/
def mapGetD {α : Type} (m : Map α) (k : Nat) (d : α) : α := (mapGet m k).getD d

/-- The map with one entry written, its keys still rising. -/
def mapSet {α : Type} : Map α → Nat → α → Map α
  | [], k, v => [(k, v)]
  | (a, w) :: t, k, v =>
    if k < a then (k, v) :: (a, w) :: t else if k = a then (k, v) :: t else (a, w) :: mapSet t k v

/-- The map without a key. -/
def mapErase {α : Type} (m : Map α) (k : Nat) : Map α := m.filter fun p => p.1 ≠ k

/-- The map with the entry of a key changed, when it is there. -/
def mapAdj {α : Type} (m : Map α) (k : Nat) (f : α → α) : Map α := m.map fun p => if p.1 = k then (p.1, f p.2) else p

/-- The map with the entry of a key changed, a default taken when it is not there. -/
def mapMod {α : Type} (m : Map α) (k : Nat) (d : α) (f : α → α) : Map α := mapSet m k (f (mapGetD m k d))

/-- The values of a map. -/
def mapVals {α : Type} (m : Map α) : List α := m.map (·.2)

/-- The keys of a map strictly rise. -/
def mapWf {α : Type} (m : Map α) : Bool := (m.map (·.1)).Pairwise (· < ·)

/-- Element n of a list of numbers, 0 beyond its end. -/
def nth (l : List Nat) (n : Nat) : Nat := l.getD n 0

/-- Write element n of a list of numbers, growing it with zeros. -/
def setNth (l : List Nat) (n v : Nat) : List Nat :=
  if n < l.length then l.set n v else l ++ List.replicate (n - l.length) 0 ++ [v]

/-- Ceiling division. -/
def ceilDiv (a b : Nat) : Nat := (a + b - 1) / b

/-- The n-bit two's complement reading of a number (R16). -/
def toS (n v : Nat) : Int := if v % 2 ^ n < 2 ^ (n - 1) then ((v % 2 ^ n : Nat) : Int) else ((v % 2 ^ n : Nat) : Int) - 2 ^ n

/-- The n-bit pattern of an integer. -/
def ofS (n : Nat) (v : Int) : Nat := (v % 2 ^ n).toNat

/-- satN of R16. -/
def satS (n : Nat) (v : Int) : Int := max (-(2 ^ (n - 1))) (min (2 ^ (n - 1) - 1) v)

/-- One bit of a number. -/
def bit (v n : Nat) : Bool := v.testBit n

/-- Bits hi:lo of a number (R9). -/
def bits (v hi lo : Nat) : Nat := v / 2 ^ lo % 2 ^ (hi + 1 - lo)

/-- 1 for true. -/
def b2n (b : Bool) : Nat := if b then 1 else 0

/-- A counter that saturates. -/
def satAdd (limit a b : Nat) : Nat := min limit (a + b)

/-! ### Byte strings (R8) -/

/-- The little-endian number of a byte string. -/
def leNat : List Byte → Nat
  | [] => 0
  | b :: t => b.toNat + 256 * leNat t

/-- The n little-endian bytes of a number. -/
def toLe : Nat → Nat → List Byte
  | 0, _ => []
  | n + 1, v => BitVec.ofNat 8 v :: toLe n (v / 256)

/-- The field of n bytes at an offset. -/
def fld (bs : List Byte) (off n : Nat) : Nat := leNat ((bs.drop off).take n)

/-- A byte string cut or zero-padded to n bytes. -/
def padTo (n : Nat) (bs : List Byte) : List Byte := bs.take n ++ List.replicate (n - bs.length) 0

/-- A byte string with other bytes laid over it at an offset. -/
def overlay (bs : List Byte) (off : Nat) (new : List Byte) : List Byte :=
  padTo off bs ++ new ++ bs.drop (off + new.length)

/-- Every byte of a range is 0. -/
def zeroIn (bs : List Byte) (off n : Nat) : Bool := ((bs.drop off).take n).all (· == 0)

/-- A bit-reflected CRC of 32 bits, one byte. -/
def crcByte (poly : BitVec 32) : Nat → BitVec 32 → BitVec 32
  | 0, c => c
  | n + 1, c => crcByte poly n (if c.getLsbD 0 then (c >>> 1) ^^^ poly else c >>> 1)

/-- CRC-32C of a byte string. -/
def crc32c (bs : List Byte) : BitVec 32 :=
  ~~~ (bs.foldl (fun c b => crcByte 0x82F63B78#32 8 (c ^^^ b.zeroExtend 32)) 0xFFFFFFFF#32)

/-- One step of the CRC-16 of R77, most significant bit first. -/
def crc16Bit (c : BitVec 16) (b : Bool) : BitVec 16 :=
  if c.getLsbD 15 != b then (c <<< 1) ^^^ 0x1021#16 else c <<< 1

/-- CRC-16 with polynomial 0x1021 and initial value 0xFFFF over the low n bits of a number, highest first (R77). -/
def crc16 : Nat → Nat → BitVec 16
  | 0, _ => 0xFFFF#16
  | n + 1, v => crc16Bit (crc16 n (v / 2)) (v.testBit 0)

/-! ### Memory cells -/

/-- The byte at an address; an unlisted byte reads 0 (assumption 3). -/
def cellGet : List Host.Cell → Nat → Byte
  | [], _ => 0
  | (a, b) :: t, k => if a = k then b else cellGet t k

/-- Write one byte; writing 0 removes the entry, so that the form stays canonical. -/
def cellSet : List Host.Cell → Nat → Byte → List Host.Cell
  | [], k, b => if b = 0 then [] else [(k, b)]
  | (a, c) :: t, k, b =>
    if k < a then (if b = 0 then (a, c) :: t else (k, b) :: (a, c) :: t)
    else if k = a then (if b = 0 then t else (k, b) :: t)
    else (a, c) :: cellSet t k b

/-- n bytes from an address. -/
def cellsGet (m : List Host.Cell) : Nat → Nat → List Byte
  | _, 0 => []
  | a, n + 1 => cellGet m a :: cellsGet m (a + 1) n

/-- Write bytes from an address. -/
def cellsSet (m : List Host.Cell) : Nat → List Byte → List Host.Cell
  | _, [] => m
  | a, b :: t => cellsSet (cellSet m a b) (a + 1) t

/-- The canonical form: addresses strictly rising, no entry equal to 0. -/
def cellsWf (m : List Host.Cell) : Bool := decide ((m.map (·.1)).Pairwise (· < ·)) && m.all (·.2 != 0)

/-- The canonical form of every memory of the machine. -/
def State.memWf (s : State) : Bool :=
  cellsWf s.mem.stack && cellsWf s.mem.host && cellsWf s.mem.pool && cellsWf s.warden.qspi

/-! ### One update per unit -/

/-- Change the field tck. -/
def State.mTck (s : State) (g : TickUnit → TickUnit) : State := { s with tck := g s.tck }
/-- Change the field cvn. -/
def State.mCvn (s : State) (g : Caravan → Caravan) : State := { s with cvn := g s.cvn }
/-- Change the field ldg. -/
def State.mLdg (s : State) (g : Ledger → Ledger) : State := { s with ldg := g s.ldg }
/-- Change the field stk. -/
def State.mStk (s : State) (g : Stoker → Stoker) : State := { s with stk := g s.stk }
/-- Change the field tally. -/
def State.mTally (s : State) (g : Tally → Tally) : State := { s with tally := g s.tally }
/-- Change the field serais. -/
def State.mSerais (s : State) (g : Serais → Serais) : State := { s with serais := g s.serais }
/-- Change the field cellar. -/
def State.mCellar (s : State) (g : Cellar → Cellar) : State := { s with cellar := g s.cellar }
/-- Change the field hearths. -/
def State.mHearths (s : State) (g : Hearths → Hearths) : State := { s with hearths := g s.hearths }
/-- Change the field sieves. -/
def State.mSieves (s : State) (g : Sieves → Sieves) : State := { s with sieves := g s.sieves }
/-- Change the field depot. -/
def State.mDepot (s : State) (g : Depot → Depot) : State := { s with depot := g s.depot }
/-- Change the field dampers. -/
def State.mDampers (s : State) (g : Dampers → Dampers) : State := { s with dampers := g s.dampers }
/-- Change the field drovers. -/
def State.mDrovers (s : State) (g : Drovers → Drovers) : State := { s with drovers := g s.drovers }
/-- Change the field power. -/
def State.mPower (s : State) (g : Power → Power) : State := { s with power := g s.power }
/-- Change the field xlt. -/
def State.mXlt (s : State) (g : Xlt → Xlt) : State := { s with xlt := g s.xlt }
/-- Change the field routes. -/
def State.mRoutes (s : State) (g : Routes → Routes) : State := { s with routes := g s.routes }
/-- Change the field flt. -/
def State.mFlt (s : State) (g : Faults → Faults) : State := { s with flt := g s.flt }
/-- Change the field chm. -/
def State.mChm (s : State) (g : Chimney → Chimney) : State := { s with chm := g s.chm }
/-- Change the field bx. -/
def State.mBx (s : State) (g : Bx → Bx) : State := { s with bx := g s.bx }
/-- Change the field mem. -/
def State.mMem (s : State) (g : Mem → Mem) : State := { s with mem := g s.mem }
/-- Change the field bus. -/
def State.mBus (s : State) (g : BusOut → BusOut) : State := { s with bus := g s.bus }
/-- Change the field pins. -/
def State.mPins (s : State) (g : Pins → Pins) : State := { s with pins := g s.pins }
/-- Change the field fuses. -/
def State.mFuses (s : State) (g : Fuses → Fuses) : State := { s with fuses := g s.fuses }
/-- Change the field img. -/
def State.mImg (s : State) (g : Image → Image) : State := { s with img := g s.img }
/-- Change the field boot. -/
def State.mBoot (s : State) (g : Boot → Boot) : State := { s with boot := g s.boot }
/-- Change the field warden. -/
def State.mWarden (s : State) (g : Warden → Warden) : State := { s with warden := g s.warden }
/-- Change a host function. -/
def State.mFn (s : State) (f : Nat) (g : Fn → Fn) : State := { s with fns := mapMod s.fns f {} g }
/-- Change a function's log and summary. -/
def State.mLog (s : State) (f : Nat) (g : FnLog → FnLog) : State := { s with logs := mapMod s.logs f {} g }
/-- A host function's registers. -/
def State.fn (s : State) (f : Nat) : Fn := mapGetD s.fns f {}
/-- A function's log and summary. -/
def State.log (s : State) (f : Nat) : FnLog := mapGetD s.logs f {}
/-- A device context. -/
def State.ctx? (s : State) (c : Nat) : Option Ctx := mapGet s.stk.ctxs c
/-- The function that owns a context, 0 when there is none. -/
def State.fnOf (s : State) (c : Nat) : Nat := ((s.ctx? c).map (·.fn)).getD 0
/-- A command by the model's number. -/
def State.cmd? (s : State) (cid : Nat) : Option Cmd := mapGet s.stk.cmds cid
/-- Change a command, when it is there. -/
def State.mCmd (s : State) (cid : Nat) (f : Cmd → Cmd) : State := s.mStk fun k => { k with cmds := mapAdj k.cmds cid f }
/-- A waybill by index. -/
def State.wb? (s : State) (i : Nat) : Option Waybill := mapGet s.ldg.wb i
/-- Change a waybill, when it is there. -/
def State.mWb (s : State) (i : Nat) (f : Waybill → Waybill) : State := s.mLdg fun l => { l with wb := mapAdj l.wb i f }
/-- Change a Serai. -/
def State.mSerai (s : State) (q : Nat) (f : Serai → Serai) : State :=
  s.mSerais fun u => { u with units := mapMod u.units q {} f }
/-- Change the counters of a Serai. -/
def State.mSeraiCnt (s : State) (q : Nat) (f : SeraiCnt → SeraiCnt) : State :=
  s.mSerais fun u => { u with cnts := mapMod u.cnts q {} f }
/-- A Serai. -/
def State.serai (s : State) (q : Nat) : Serai := mapGetD s.serais.units q {}
/-- Change a logical Hearth. -/
def State.mHearth (s : State) (h : Nat) (f : Hearth → Hearth) : State :=
  s.mHearths fun u => { u with logical := mapMod u.logical h {} f }
/-- A logical Hearth. -/
def State.hearth (s : State) (h : Nat) : Hearth := mapGetD s.hearths.logical h {}
/-- Change a table, when it is registered. -/
def State.mTable (s : State) (t : Nat) (f : Table → Table) : State := s.mTally fun y => { y with tables := mapAdj y.tables t f }
/-- A registered table. -/
def State.table? (s : State) (t : Nat) : Option Table := mapGet s.tally.tables t
/-- Change the run-time part of a table. -/
def State.mRt (s : State) (t : Nat) (f : TableRt → TableRt) : State := s.mTally fun y => { y with rt := mapMod y.rt t {} f }
/-- The run-time part of a table. -/
def State.rt (s : State) (t : Nat) : TableRt := mapGetD s.tally.rt t {}
/-- Change a Route port. -/
def State.mPort (s : State) (p : Nat) (f : RPort → RPort) : State := s.mRoutes fun r => { r with ports := mapMod r.ports p {} f }
/-- A Route port. -/
def State.port (s : State) (p : Nat) : RPort := mapGetD s.routes.ports p {}
/-- Change the counters of a Route port. -/
def State.mPortCnt (s : State) (p : Nat) (f : RPortCnt → RPortCnt) : State :=
  s.mRoutes fun r => { r with cnts := mapMod r.cnts p {} f }

/-! ### The device state -/

/-- The encoding of the device state in R765, 0 for Off (R836). -/
def DevState.code : DevState → Nat
  | .off => 0 | .kindling => 1 | .service => 2 | .banked => 3 | .quenched => 4

/-- Serving or Banked, with no Quenched fault received: engines and the Stoker run (R835, R842). -/
def State.live (s : State) : Bool := (s.dev == .service || s.dev == .banked) && s.flt.quenchDue.isNone

/-- The host link has been presented and BAR accesses act fully (R844). -/
def State.hostOn (s : State) : Bool := s.dev == .service || s.dev == .banked

/-- Nanoseconds since the boundary, TCK_PHASE.NS_IN_TICK (R56): 5/6 ns for each Stoker cycle (R11). -/
def State.nsInTick (s : State) : Nat := s.tck.phase * 5 / 6

/-- Stoker cycles in a millisecond. -/
def cyclesPerMs : Nat := 1200000

/-- The tick period T in ns (R41). -/
def State.periodNs (s : State) : Nat := s.tck.period10us * 10000

/-- The admission window A in ns (R46). -/
def State.admitNs (s : State) : Nat := max 2000 (min 20000 (s.periodNs / 50))

/-! ### The Chimney's counters and trace -/

/-- A configured counter counts an event of an instance, for a context and class (R796, R798). -/
def CtrCfg.takes (c : CtrCfg) (event inst : Nat) (ctx : Option Nat) (cls : Nat) : Bool :=
  c.event == event && event != 0 && (c.inst == 0xFF || c.inst == inst) &&
  (match ctx with
   | none => c.any
   | some x => (c.any || c.ctx == x) && bit c.classMask cls)

/-- Count an event (R796 to R798). -/
def State.count (s : State) (event inst : Nat) (ctx : Option Nat) (cls n : Nat) : State :=
  s.mChm fun c => { c with
    val := c.cfg.foldl (fun v p =>
      if p.2.takes event inst ctx cls then mapMod v p.1 0 (· + BitVec.ofNat 64 n) else v) c.val }

/-- A record passes the filters of a destination (R805). -/
def Dest.takes (d : Dest) (r : TraceRec) : Bool :=
  d.en && d.kindMask.getLsbD r.kind &&
  (r.ctx == 0xFFFF || ((d.ctxAny || d.ctx == r.ctx) && (d.fnAny || d.fn == r.fn))) &&
  (r.kind != 4 || r.payload.toNat % 2 ^ 24 % 2 ^ d.placeLog2 == 0)

/-- Room in a die's staging buffer of 4,096 records (R804). -/
def Chimney.room (c : Chimney) (die : Nat) : Bool :=
  max (c.portq.filter (·.die == die)).length (c.ringq.filter (·.die == die)).length < 4096

/-- Emit a trace record (R801 to R805). -/
def State.trace (s : State) (kind die : Nat) (ctx : Option Nat) (cmdId : BitVec 32) (payload : Nat) : State :=
  s.mChm fun c =>
    if c.room die then
      let r : TraceRec := {
        kind := kind, die := die, ctx := ctx.getD 0xFFFF, fn := (ctx.map s.fnOf).getD 0
        tseq := c.tseq, tick := s.tck.num, ns := s.nsInTick, cmdId := cmdId, payload := BitVec.ofNat 64 payload }
      { c with tseq := c.tseq + 1,
               portq := if c.port.takes r then c.portq ++ [r] else c.portq,
               ringq := if c.ring.takes r && !c.hostStopped then c.ringq ++ [r] else c.ringq }
    else { c with drops := c.drops + 1, lostNow := c.lostNow + 1 }

/-! ### Faults -/

/-- Codes of severity Recoverable (R751). -/
def sevR : List Nat := [0x10D, 0x205, 0x334, 0x335, 0x336, 0x337, 0x351, 0x420, 0x421, 0x422, 0x503, 0x504, 0x602,
  0x608, 0x631, 0x632, 0x634, 0x715, 0x721, 0x802, 0x803, 0x902, 0x903, 0xA02, 0xA10, 0xC01, 0xC02, 0xC03]
/-- Codes of severity Fatal (R751). -/
def sevF : List Nat := [0x110, 0x201, 0x203, 0x210, 0x338, 0x611, 0x622, 0x640, 0x722, 0x901, 0xA03, 0xB10]
/-- Codes of severity Corrected (R751). -/
def sevC : List Nat := [0x202, 0x350, 0x501, 0x502, 0x601, 0x630, 0x633, 0x801]

/-- The severity of a code (R750, R751). -/
def faultSev (code : Nat) : Nat :=
  if sevR.contains code then 0 else if sevF.contains code then 1 else if sevC.contains code then 2 else 3

/-- Codes of containment Refused (R751). -/
def conRefused : List Nat := [0x101, 0x102, 0x104, 0x105, 0x107, 0x108, 0x109, 0x10B, 0x10C, 0x204, 0x206, 0x207, 0x301,
  0x302, 0x303, 0x304, 0x311, 0x343, 0x344, 0x345, 0x408, 0x701, 0x702, 0x703, 0x717, 0x730, 0x809]
/-- Codes of containment Function (R751). -/
def conFunction : List Nat := [0x103, 0x106, 0x10D]
/-- Codes of containment Failed (R751). -/
def conFailed : List Nat := [0x205, 0x336, 0x337, 0x803, 0x804, 0x805, 0x806, 0x807]
/-- Codes of containment Teardown (R751); 0x0713 and 0x0714 at run time. -/
def conTeardown : List Nat := [0x334, 0x341, 0x342, 0x401, 0x402, 0x403, 0x404, 0x405, 0x406, 0x407, 0x409, 0x40A, 0x40B,
  0x503, 0x504, 0x602, 0x603, 0x607, 0x632, 0x706, 0x710, 0x711, 0x712, 0x713, 0x714, 0x715, 0x808, 0xA01, 0xA02,
  0xA10, 0xB01, 0xB02]

/-- The containment of a code (R749, R751). -/
def faultContain (code : Nat) : Nat :=
  if conRefused.contains code then 1 else if conFunction.contains code then 2
  else if conFailed.contains code then 3 else if conTeardown.contains code then 4
  else if sevF.contains code then 5 else 0

/-- The detail kind of a code (R753); a caller that reports 0x0632 or 0x0713 to 0x0715 from a Hearth sets 1 itself. -/
def faultKind (code : Nat) : Nat :=
  if (0x401 ≤ code ∧ code ≤ 0x40C ∧ code ≠ 0x408) ∨ (0x710 ≤ code ∧ code ≤ 0x712) then 1
  else if code ∈ [0x601, 0x602, 0x603, 0x630, 0x631, 0x632, 0x701, 0x702, 0x703, 0x706, 0x713, 0x714, 0x715, 0x341] then 2
  else if 0x501 ≤ code ∧ code ≤ 0x504 then 3
  else if 0x801 ≤ code ∧ code ≤ 0x809 then 4
  else if code ∈ [0x110, 0x210, 0x338, 0x420, 0x608, 0x640, 0xA03, 0xB10] then 6
  else if code ∈ [0x350, 0x351, 0x421, 0x633, 0x634, 0x903] then 7
  else if 0x301 ≤ code ∧ code ≤ 0x345 then 5
  else if code = 0x408 then 1
  else 0

/-- DETAIL of kind HEARTH; a level of 8 or more says that no walk was made (R595, R753). -/
def detHearth (pc mask addr hearth burner slot group block : Nat) (level : Option Nat) : List Byte :=
  toLe 8 pc ++ toLe 8 mask ++ toLe 8 addr ++ toLe 1 hearth ++
  toLe 1 (burner % 4 + (match level with | some l => if l < 8 then l * 16 + 128 else 0 | none => 0)) ++
  toLe 1 slot ++ toLe 1 group ++ toLe 3 block ++ [0]
/-- DETAIL of kind ADDRESS (R753). -/
def detAddr (addr kind level stack chan bank row : Nat) : List Byte :=
  toLe 8 addr ++ toLe 1 kind ++ toLe 1 level ++ toLe 1 stack ++ toLe 1 chan ++ toLe 1 bank ++ [0, 0, 0] ++ toLe 4 row ++
  List.replicate 12 0
/-- DETAIL of kind GRATE (R753). -/
def detGrate (hearth phys grate row runs : Nat) : List Byte :=
  padTo 32 (toLe 1 hearth ++ toLe 1 phys ++ toLe 1 grate ++ toLe 1 row ++ toLe 1 runs)
/-- DETAIL of kind ROUTE (R753). -/
def detRoute (port reason chan lane epoch seq serial : Nat) : List Byte :=
  padTo 32 (toLe 1 port ++ toLe 1 reason ++ toLe 1 chan ++ toLe 1 lane ++ toLe 4 epoch ++ toLe 4 seq ++ toLe 8 serial)
/-- DETAIL of kind TABLE (R753). -/
def detTable (table serai lane shard row version : Nat) : List Byte :=
  padTo 32 (toLe 2 table ++ toLe 1 serai ++ toLe 1 lane ++ toLe 2 shard ++ [0, 0] ++ toLe 5 row ++ [0, 0, 0] ++ toLe 6 version)
/-- DETAIL of kind WINDOW (R753). -/
def detWindow (unit logical last fail : Nat) : List Byte :=
  toLe 2 unit ++ toLe 2 logical ++ [0, 0, 0, 0] ++ toLe 8 last ++ toLe 8 fail ++ List.replicate 8 0
/-- DETAIL of kind SPARE (R753). -/
def detSpare (resource inst fromLoc toLoc inUse : Nat) : List Byte :=
  padTo 32 (toLe 1 resource ++ [0] ++ toLe 2 inst ++ toLe 4 fromLoc ++ toLe 4 toLoc ++ toLe 4 inUse)

/-- The 64 bytes of a fault record (R752). -/
def faultBytes (r : FaultRec) : List Byte :=
  toLe 2 r.code ++ toLe 1 r.sev ++ toLe 1 r.contain ++
  toLe 1 (r.fn.getD 0 + b2n r.ctx.isSome * 64 + b2n r.fn.isSome * 128) ++ toLe 1 r.dkind ++ toLe 2 (r.ctx.getD 0) ++
  toLe 8 r.tick.toNat ++ toLe 4 r.cmdId.toNat ++ toLe 4 r.rept ++ toLe 8 r.seq.toNat ++ padTo 32 r.detail

/-- Put a made record into both sinks' queues, each by itself (R26, R27, R761 to R763), and trace it. -/
def State.makeRecord (s : State) (r : FaultRec) : State :=
  let r := { r with seq := s.flt.nextSeq }
  let s := s.mFlt fun f => { f with
    nextSeq := f.nextSeq + 1
    hostq := if f.hostStopped then f.hostq else if f.hostq.length < 256 then f.hostq ++ [r] else f.hostq
    hostLost := if !f.hostStopped && 256 ≤ f.hostq.length then f.hostLost + 1 else f.hostLost
    mgmtq := if f.mgmtq.length < 1024 then f.mgmtq ++ [r] else f.mgmtq
    mgmtLost := if f.mgmtq.length < 1024 then f.mgmtLost else f.mgmtLost + 1
    quenchDue := if r.contain == 5 && f.quenchDue.isNone && (s.dev == .kindling || s.dev == .service || s.dev == .banked)
      then some r.code else f.quenchDue }
  s.trace 7 0 r.ctx r.cmdId (r.code % 65536 + r.contain % 8 * 65536 + r.seq.toNat % 2 ^ 32 * 2 ^ 32)

/-- A record that R755 coalesces. -/
def coalesces (r : FaultRec) : Bool := r.contain == 0 && (r.sev == 2 || r.sev == 3)

/-- A delivery of the last 1 ms that a record repeats (R755). -/
def Coal.matches (c : Coal) (now : Nat) (r : FaultRec) : Bool :=
  c.delivered.code == r.code && c.delivered.fn == r.fn && c.delivered.ctx == r.ctx &&
  c.delivered.detail.take 4 == r.detail.take 4 && decide (now < c.since + cyclesPerMs)

/-- The Collector's intake of a complete report: hold a repeat, or make its record (R754, R755). -/
def State.intake (s : State) (r : FaultRec) : State :=
  if coalesces r then
    if s.flt.coal.any (·.matches s.time r) then
      s.mFlt fun f => { f with
        coalesced := f.coalesced + 1
        coal := f.coal.map fun c => if c.matches s.time r then { c with held := c.held + 1, first := some (c.first.getD r) } else c }
    else
      (s.makeRecord r).mFlt fun f => { f with
        coal := (f.coal.filter fun c => !(c.delivered.code == r.code && c.delivered.fn == r.fn && c.delivered.ctx == r.ctx &&
          c.delivered.detail.take 4 == r.detail.take 4 && c.held == 0)) ++ [{ delivered := r, since := s.time }] }
  else s.makeRecord r

/-- Report a fault with a containment: severity, detail kind, owner and tick are filled in (R24, R750 to R753). -/
def State.raiseAs (s : State) (contain : Nat) (r : FaultRec) : State :=
  s.intake { r with
    sev := faultSev r.code, contain := contain, tick := s.tck.num
    fn := match r.fn with | some f => some f | none => r.ctx.map s.fnOf
    dkind := if r.dkind = 0 then faultKind r.code else r.dkind
    detail := padTo 32 r.detail }

/-- Report a fault with the containment of R751. -/
def State.raise (s : State) (r : FaultRec) : State := s.raiseAs (faultContain r.code) r

/-- Make a sparing-log entry, or raise 0x0903 once per Kindling when the log is full (R789, R790). -/
def State.spare (s : State) (e : SparingEntry) : State :=
  let s := s.mFlt fun f => { f with sparing := f.sparing + 1 }
  if s.warden.sparingLog.length < 16384 then
    s.mWarden fun w => { w with sparingLog := w.sparingLog ++ [{ e with lseq := w.nextLseq, tick := s.tck.num }], nextLseq := w.nextLseq + 1 }
  else if s.warden.sparingFullRaised then s
  else (s.mWarden fun w => { w with sparingFullRaised := true }).raise
    { code := 0x903, detail := detSpare e.resource e.inst e.fromLoc e.toLoc 0 }

end Sys2Proof.Machine
end

