-- ==== Sys2Proof/Machine/Memory.lean ====
section
/-!
DEFINITION. Memory below translation: the three memories with their poison (R767 to R771), the Depot with committed and
provisional copies (R536 to R544), and the merging buffers (R529 to R531).
-/
namespace Sys2Proof.Machine

/-- The cells of one kind of memory. -/
def Mem.cells (m : Mem) : Space → List Host.Cell
  | .stack => m.stack | .host => m.host | .pool => m.pool

/-- The poisoned 64-byte units of one kind of memory. -/
def Mem.poison (m : Mem) : Space → List Nat
  | .stack => m.stackPoison | .host => m.hostPoison | .pool => m.poolPoison

/-- Replace the cells and the poison of one kind of memory. -/
def Mem.put (m : Mem) (sp : Space) (c : List Host.Cell) (p : List Nat) : Mem :=
  match sp with
  | .stack => { m with stack := c, stackPoison := p }
  | .host => { m with host := c, hostPoison := p }
  | .pool => { m with pool := c, poolPoison := p }

/-- A place some bytes further on. -/
def PA.plus (p : PA) (n : Nat) : PA := { p with addr := p.addr + n }

/-- The 128-byte line of a place (R38). -/
def PA.line (p : PA) : PA := { p with addr := p.addr - p.addr % 128 }

/-- The Depot slice of a place (R38). -/
def sliceOf (p : PA) : Nat :=
  let a := p.addr
  (a / 2 ^ 7 % 2 + a / 2 ^ 13 % 2 + a / 2 ^ 19 % 2 + a / 2 ^ 25 % 2 + a / 2 ^ 31 % 2 + a / 2 ^ 37 % 2) % 2

/-- The stack of a local physical address (R34). -/
def stackOf (p : PA) : Nat := p.addr / 2 ^ 37

/-- The first addresses of the 64-byte units that n bytes from an address touch. -/
def units64 (a n : Nat) : List Nat :=
  if n = 0 then [] else (List.range ((a + n - 1) / 64 + 1 - a / 64)).map fun i => (a / 64 + i) * 64

/-- Bytes of memory, no cache consulted. -/
def State.memRead (s : State) (p : PA) (n : Nat) : List Byte := cellsGet (s.mem.cells p.space) p.addr n

/-- Some byte of a range lies in a poisoned unit of memory (R767). -/
def State.memPoisoned (s : State) (p : PA) (n : Nat) : Bool :=
  (units64 p.addr n).any fun u => (s.mem.poison p.space).contains u

/-- Write memory: a write of whole units clears their poison, a poisoned write sets it, a part write leaves it
(R768, R771). -/
def State.memWrite (s : State) (p : PA) (bs : List Byte) (poisoned : Bool) : State :=
  s.mMem fun m =>
    let us := units64 p.addr bs.length
    let whole := us.filter fun u => decide (p.addr ≤ u ∧ u + 64 ≤ p.addr + bs.length)
    let old := m.poison p.space
    let pz := if poisoned then old ++ us.filter (fun u => !old.contains u) else old.filter fun u => !whole.contains u
    m.put p.space (cellsSet (m.cells p.space) p.addr bs) pz

/-- Count the memory traffic of an access in the Chimney: stack slots of 64 bytes, or bytes on a port of the host link
(R797, events 0x08 to 0x0A). -/
def State.touch (s : State) (ctx : Option Nat) (cls die : Nat) (p : PA) (n : Nat) (write : Bool) : State :=
  match p.space with
  | .stack => s.count 0x08 (stackOf p) ctx cls (units64 p.addr n).length
  | _ => s.count (if write then 0x0A else 0x09) die ctx cls n

/-! ### The Depot -/

/-- A commit unit: the waybill, or the command itself (R537). -/
abbrev CUnit := Option Nat × Nat

/-- The commit unit of a command. -/
def unitOf (cid : Nat) (c : Cmd) : CUnit := (c.waybill, if c.waybill.isSome then 0 else cid)

/-- The commit unit of a provisional copy. -/
def Prov.unit (p : Prov) : CUnit := (p.waybill, if p.waybill.isSome then 0 else p.cid)

/-- The Depot's entry for the line of a place. -/
def State.dline? (s : State) (p : PA) : Option DLine := s.depot.lines.find? (·.pa == p.line)

/-- A unit's provisional copy in a line. -/
def DLine.prov? (l : DLine) (u : CUnit) : Option Prov := l.provs.find? (·.unit == u)

/-- The byte a unit sees: its provisional copy, else the committed copy, else memory (R538). -/
def State.viewByte (s : State) (u : CUnit) (p : PA) : Byte :=
  match s.dline? p with
  | none => cellGet (s.mem.cells p.space) p.addr
  | some l =>
    match l.prov? u with
    | some v => v.data.getD (p.addr % 128) 0
    | none => if l.data.isEmpty then cellGet (s.mem.cells p.space) p.addr else l.data.getD (p.addr % 128) 0

/-- The bytes a unit sees. -/
def State.view (s : State) (u : CUnit) (p : PA) (n : Nat) : List Byte := (List.range n).map fun i => s.viewByte u (p.plus i)

/-- The unit that no command is: it sees committed copies only. -/
def noUnit : CUnit := (none, 0)

/-- The committed bytes of a place (R612). -/
def State.committed (s : State) (p : PA) (n : Nat) : List Byte := s.view noUnit p n

/-- What a unit reads at a place is poisoned. -/
def State.viewPoisoned (s : State) (u : CUnit) (p : PA) (n : Nat) : Bool :=
  (List.range ((p.addr % 128 + n + 127) / 128)).any fun i =>
    let q := p.line.plus (128 * i)
    match s.dline? q with
    | none => (units64 q.addr 128).any fun x => decide (p.addr < x + 64 ∧ x < p.addr + n) && (s.mem.poison p.space).contains x
    | some l =>
      match l.prov? u with
      | some v => v.poison
      | none =>
        if l.data.isEmpty then
          (units64 q.addr 128).any fun x => decide (p.addr < x + 64 ∧ x < p.addr + n) && (s.mem.poison p.space).contains x
        else l.poison

/-- Bytes cut at line ends: the address and bytes of each piece. -/
def pieces : Nat → Nat → List Byte → List (Nat × List Byte)
  | 0, _, _ => []
  | k + 1, a, bs =>
    if bs.isEmpty then [] else
      let n := 128 - a % 128
      (a, bs.take n) :: pieces k (a + n) (bs.drop n)

/-- Put a line into the Depot, in place of the one it held. -/
def Depot.putLine (d : Depot) (l : DLine) : Depot :=
  { d with lines := if d.lines.any (·.pa == l.pa) then d.lines.map (fun x => if x.pa == l.pa then l else x) else l :: d.lines }

/-- Drop lines that hold nothing. -/
def Depot.tidy (d : Depot) : Depot := { d with lines := d.lines.filter fun l => !(l.data.isEmpty && l.provs.isEmpty) }

/-- The line of a place, empty when the Depot does not hold it. -/
def State.dline (s : State) (p : PA) : DLine := (s.dline? p).getD { pa := p.line }

/-- Count a hit or a miss of a slice (R578, R797). -/
def State.depotHit (s : State) (ctx : Option Nat) (cls : Nat) (p : PA) : State :=
  let hit := (s.dline? p).isSome
  let bump (c : SliceCnt) : SliceCnt := if hit then { c with hits := c.hits + 1 } else { c with misses := c.misses + 1 }
  let s := s.mDepot fun d => if sliceOf p = 0 then { d with slice0 := bump d.slice0 } else { d with slice1 := bump d.slice1 }
  s.count (if hit then 0x06 else 0x07) (sliceOf p) ctx cls 1

/-- Allocate the line of a place with its committed value from memory (R526). -/
def State.depotAlloc (s : State) (p : PA) (stream : Bool) : State :=
  match s.dline? p with
  | some l =>
    if l.data.isEmpty then s.mDepot (·.putLine { l with data := s.memRead p.line 128, poison := s.memPoisoned p.line 128 }) else s
  | none => s.mDepot (·.putLine { pa := p.line, data := s.memRead p.line 128, poison := s.memPoisoned p.line 128, stream := stream })

/-- Another unit holds a provisional copy of a line of the range (R543). -/
def State.conflicts (s : State) (u : CUnit) (p : PA) (n : Nat) : Bool :=
  (List.range ((p.addr % 128 + n + 127) / 128)).any fun i =>
    match s.dline? (p.line.plus (128 * i)) with
    | none => false
    | some l => l.provs.any (·.unit != u)

/-- Count a conflict wait (R543). -/
def State.conflictWait (s : State) (p : PA) : State :=
  let bump (c : SliceCnt) : SliceCnt := { c with conflictWaits := c.conflictWaits + 1 }
  s.mDepot fun d => if sliceOf p = 0 then { d with slice0 := bump d.slice0 } else { d with slice1 := bump d.slice1 }

/-- Write one piece into a unit's provisional copy, made from what the unit sees (R537). -/
def State.storeProv (s : State) (u : CUnit) (a : Nat × List Byte) (sp : Space) (atomic poisoned through stream : Bool) : State :=
  let p : PA := { space := sp, addr := a.1 }
  let l := s.dline p
  let old := l.prov? u
  let base : Prov := old.getD { waybill := u.1, cid := u.2, data := s.view u p.line 128, poison := s.viewPoisoned u p.line 128 }
  let v := { base with data := overlay base.data (a.1 % 128) a.2, atomic := base.atomic || atomic, poison := base.poison || poisoned,
                       written := false, spilled := false, through := base.through || through }
  let provs := if old.isSome then l.provs.map (fun x => if x.unit == u then v else x) else l.provs ++ [v]
  s.mDepot (·.putLine { l with provs := provs, stream := l.stream || stream })

/-- Write one piece into the committed copy, allocated first; WT also writes memory (R526, R552). -/
def State.storeCommitted (s : State) (ctx : Option Nat) (a : Nat × List Byte) (sp : Space) (through poisoned stream : Bool) : State :=
  let p : PA := { space := sp, addr := a.1 }
  let s := s.depotAlloc p stream
  let l := s.dline p
  let s := s.mDepot (·.putLine { l with
    data := overlay l.data (a.1 % 128) a.2, dirty := l.dirty || !through, owner := ctx, poison := l.poison || poisoned })
  if through then s.memWrite p a.2 poisoned else s

/-- A store of a unit's bytes below the L1, as the region attribute and the device state give (R526, R537, R552). -/
def State.store (s : State) (u : CUnit) (ctx : Option Nat) (attr : Nat) (p : PA) (bs : List Byte) (atomic poisoned : Bool) : State :=
  if attr = 2 ∨ attr = 3 then s.memWrite p bs poisoned
  else if s.dev == .service then
    (pieces bs.length p.addr bs).foldl (fun s a => s.storeProv u a p.space atomic poisoned (attr == 1) (attr == 4)) s
  else
    (pieces bs.length p.addr bs).foldl (fun s a => s.storeCommitted ctx a p.space (attr == 1) poisoned (attr == 4)) s

/-- A line at its unit's commit: the provisional copy becomes the committed one; a copy that an eviction wrote to memory
leaves the line to memory (R539, R541). -/
def DLine.commit (l : DLine) (u : CUnit) (ctx : Option Nat) : DLine :=
  match l.prov? u with
  | none => l
  | some v =>
    let rest := l.provs.filter (·.unit != u)
    if v.written then { l with data := [], dirty := false, spilled := false, provs := rest }
    else { l with data := v.data, dirty := true, owner := ctx, poison := v.poison, spilled := v.spilled, provs := rest }

/-- A line at its unit's discard (R540, R541). -/
def DLine.discard (l : DLine) (u : CUnit) : DLine :=
  match l.prov? u with
  | none => l
  | some v =>
    let rest := l.provs.filter (·.unit != u)
    if v.written then { l with data := [], dirty := false, spilled := false, provs := rest } else { l with provs := rest }

/-- A line of a WT region is written through to memory once it is committed (R526). -/
def State.writeCommitted (s : State) (l : DLine) : State :=
  (s.memWrite l.pa l.data l.poison).mDepot fun d => { d with lines := d.lines.map fun x => if x.pa == l.pa then { x with dirty := false } else x }

/-- The Depot at a unit's commit (R539). -/
def State.commitUnit (s : State) (u : CUnit) (ctx : Option Nat) : State :=
  let wt := (s.depot.lines.filter fun l => match l.prov? u with | some v => v.through && !v.written | none => false).map (·.pa)
  let s := s.mDepot fun d => Depot.tidy { d with lines := d.lines.map fun l => l.commit u ctx }
  (s.depot.lines.filter fun l => wt.contains l.pa).foldl State.writeCommitted s

/-- The Depot at a unit's discard (R540). -/
def State.discardUnit (s : State) (u : CUnit) : State :=
  s.mDepot fun d => Depot.tidy { d with lines := d.lines.map fun l => l.discard u }

/-- Write a dirty committed copy of a line back and drop the copy. -/
def State.dropCommitted (s : State) (p : PA) : State :=
  match s.dline? p with
  | none => s
  | some l =>
    let s := if l.dirty && !l.data.isEmpty then s.memWrite l.pa l.data l.poison else s
    s.mDepot fun d => (d.putLine { l with data := [], dirty := false, poison := false, spilled := false }).tidy

/-- The lines that n bytes from a place touch. -/
def linesOf (p : PA) (n : Nat) : List PA :=
  if n = 0 then [] else (List.range ((p.addr + n - 1) / 128 + 1 - p.addr / 128)).map fun i => p.line.plus (128 * i)

/-- A direct write of memory that invalidates the committed Depot copies of its lines (R529, R563). -/
def State.writeThrough (s : State) (p : PA) (bs : List Byte) (poisoned : Bool) : State :=
  ((linesOf p bs.length).foldl State.dropCommitted s).memWrite p bs poisoned

/-! ### The merging buffers -/

/-- Drain one entry: its bytes go to memory, whole units lose their poison (R531, R771). -/
def State.drainEntry (s : State) (e : MergeEnt) : State :=
  let s := e.bytes.foldl (fun s b => s.memWrite (e.pa.plus b.1) [b.2] false) s
  let whole := [0, 64].filter fun h => (List.range 64).all fun i => e.bytes.any (·.1 == h + i)
  s.mMem fun m => m.put e.pa.space (m.cells e.pa.space) ((m.poison e.pa.space).filter fun u => !(whole.map (e.pa.addr + ·)).contains u)

/-- The merging buffer of a die. -/
def Depot.mergeBuf (d : Depot) (die : Nat) : List MergeEnt := if die = 0 then d.merge0 else d.merge1

/-- Replace the merging buffer of a die. -/
def Depot.setMergeBuf (d : Depot) (die : Nat) (b : List MergeEnt) : Depot := if die = 0 then { d with merge0 := b } else { d with merge1 := b }

/-- Drain the oldest entry of a die's merging buffer (R531). -/
def State.drainOldest (s : State) (die : Nat) : State :=
  match s.depot.mergeBuf die with
  | [] => s
  | e :: rest => (s.drainEntry e).mDepot (·.setMergeBuf die rest)

/-- Drain a die's merging buffer, at most n entries. -/
def State.drainMerging (s : State) (die : Nat) : Nat → State
  | 0 => s
  | n + 1 => (s.drainOldest die).drainMerging die n

/-- One piece of a merging write: it merges into the newest entry when that holds its line, else takes a new entry; a
full buffer drains its oldest entry first (R530). The write invalidates the Depot copy of its line (R529). -/
def State.mergePiece (s : State) (die : Nat) (sp : Space) (a : Nat × List Byte) : State :=
  let p : PA := { space := sp, addr := a.1 }
  let s := s.dropCommitted p
  let b := s.depot.mergeBuf die
  let new := (List.range a.2.length).map fun i => (a.1 % 128 + i, a.2.getD i 0)
  let put (l : List (Nat × Byte)) := new.foldl (fun l x => mapSet l x.1 x.2) l
  match b.getLast? with
  | some e =>
    if e.pa == p.line then s.mDepot (·.setMergeBuf die (b.dropLast ++ [{ e with bytes := put e.bytes }]))
    else
      let s := if 64 ≤ b.length then s.drainOldest die else s
      s.mDepot fun d => d.setMergeBuf die (d.mergeBuf die ++ [{ pa := p.line, bytes := put [] }])
  | none => s.mDepot fun d => d.setMergeBuf die [{ pa := p.line, bytes := put [] }]

/-- A write of the merging path (R529). -/
def State.mergeWrite (s : State) (die : Nat) (p : PA) (bs : List Byte) : State :=
  (pieces bs.length p.addr bs).foldl (fun s a => s.mergePiece die p.space a) s

end Sys2Proof.Machine
end

