-- ==== Sys2Proof/Machine/Translate.lean ====
section
/-!
DEFINITION. Device Addresses and their translation (R579 to R596): the walk, ATS, translation sets built at admission, and
reads and writes by Device Address.
-/
namespace Sys2Proof.Machine

/-- Bytes of a stack's window that can be mapped (R35). -/
def mappable : Nat := 0x1640000000

/-- Bytes of the pool window (R198). -/
def poolBytes : Nat := 16000000000000

/-- A range lies wholly in one stack's mappable window (R35). -/
def inStackWindow (a n : Nat) : Bool := decide (a < 2 ^ 40 ∧ a % 2 ^ 37 + n ≤ mappable)

/-- The page bytes of a leaf at a level (R582). -/
def pageSize (level : Nat) : Nat := 2 ^ (12 + 9 * level)

/-- An entry with V = 1 is malformed at a level (R584). -/
def pteBad (level e : Nat) : Bool :=
  let leaf := bit e 1
  let tgt := bits e 8 7
  let addr := bits e 63 12 * 4096
  bits e 11 9 != 0 || tgt == 3 || decide (4 < bits e 6 4) ||
  (leaf && 3 ≤ level) || (!leaf && level == 0) ||
  (!leaf && (tgt == 2 || bits e 6 4 != 0 || bit e 2 || bit e 3)) ||
  (bit e 3 && level != 0) ||
  (leaf && (addr % pageSize level != 0 ||
    (tgt == 0 && !inStackWindow addr (pageSize level)) ||
    (tgt == 2 && decide (poolBytes < addr + pageSize level))))

/-- The kind of memory that TGT names (R583). -/
def tgtSpace (n : Nat) : Space := if n = 0 then .stack else if n = 1 then .host else .pool

/-- The page that a leaf entry maps; a C64 entry maps its 64 KiB run (R583, R585). -/
def leafPage (level e da : Nat) : PageTr :=
  let addr := bits e 63 12 * 4096
  if bit e 3 then
    { da := da / 65536 * 65536, size := 65536, space := tgtSpace (bits e 8 7), target := addr - da / 4096 % 16 * 4096,
      attr := bits e 6 4, writable := bit e 2 }
  else
    { da := da / pageSize level * pageSize level, size := pageSize level, space := tgtSpace (bits e 8 7), target := addr,
      attr := bits e 6 4, writable := bit e 2 }

/-- The walk cache of a die. -/
def Xlt.wc (x : Xlt) (die : Nat) : List WalkEnt := if die = 0 then x.wc0 else x.wc1

/-- The context's tag in the walk caches (R589). -/
def Ctx.key (c : Ctx) : Nat := 512 * c.fn + c.slot

/-- The walk from a table down the levels left, with the non-leaf entries it used; a cached entry is not read again. An error carries the
fault code and the level at which the walk stopped (R582 to R586, R589, R592). -/
def State.walkFrom (s : State) (die key da : Nat) : List Nat → Space → Nat → List WalkEnt → Except (Nat × Nat) (PageTr × List WalkEnt)
  | [], _, _, _ => .error (0x711, 0)
  | lv :: rest, sp, table, seen =>
    match (s.xlt.wc die).find? fun e => e.key == key && e.level == lv && e.index == da / 2 ^ (12 + 9 * lv) with
    | some e => s.walkFrom die key da rest e.space e.addr (e :: seen)
    | none =>
      let p : PA := { space := sp, addr := table + 8 * (da / 2 ^ (12 + 9 * lv) % (if lv = 4 then 16 else 512)) }
      if s.memPoisoned p 8 then .error (0x715, lv)
      else
        let e := leNat (s.memRead p 8)
        if !bit e 0 then .error (0x711, lv)
        else if pteBad lv e then .error (0x713, lv)
        else if bit e 1 then .ok (leafPage lv e da, seen)
        else
          let w : WalkEnt := { key := key, level := lv, index := da / 2 ^ (12 + 9 * lv), space := tgtSpace (bits e 8 7), addr := bits e 63 12 * 4096 }
          s.walkFrom die key da rest w.space w.addr (w :: seen)

/-- A walk through a context's page tables on a die, with the non-leaf entries used (R580, R582). -/
def State.walkAll (s : State) (die : Nat) (c : Ctx) (da : Nat) : Except (Nat × Nat) (PageTr × List WalkEnt) :=
  if 2 ^ 52 ≤ da then .error (0x710, 0xFF)
  else if da < 4096 then .error (0x711, 0xFF)
  else s.walkFrom die c.key da [4, 3, 2, 1, 0] (if c.ptHost then .host else .stack) c.ptRoot []

/-- A walk through a context's page tables on a die. -/
def State.walk (s : State) (die : Nat) (c : Ctx) (da : Nat) : Except (Nat × Nat) PageTr :=
  match s.walkAll die c da with
  | .ok r => .ok r.1
  | .error e => .error e

/-- Keep the non-leaf entries that a walk used in the die's walk cache of 4,096 entries (R589). -/
def State.keepWalk (s : State) (die : Nat) (c : Ctx) (da : Nat) : State :=
  match s.walkAll die c da with
  | .error _ => s
  | .ok r => s.mXlt fun x =>
    let l := (r.2 ++ (x.wc die).filter fun e => !r.2.contains e).take 4096
    if die = 0 then { x with wc0 := l } else { x with wc1 := l }

/-- A completion held in an ATS cache refuses an access to the range of link addresses (R587). -/
def State.atsRefuses (s : State) (fn : Nat) (sp : Space) (a n : Nat) (write : Bool) : Bool :=
  sp != .stack && s.xlt.ats.any fun e =>
    e.fn == fn && decide (e.addr < a + n ∧ a < e.addr + 4096) && (!e.read || (write && !e.write))

/-- The place a page maps a Device Address to; a cached completion of ATS moves a link address (R587, assumption 7). -/
def State.place (s : State) (fn : Nat) (t : PageTr) (da : Nat) : PA :=
  let a := t.target + (da - t.da)
  if t.space == .stack then { space := .stack, addr := a }
  else match s.xlt.ats.find? fun e => e.fn == fn && e.addr == a / 4096 * 4096 with
    | some e => { space := t.space, addr := e.target + a % 4096 }
    | none => { space := t.space, addr := a }

/-- The page of a set that holds a Device Address. -/
def findTr (set : List PageTr) (da : Nat) : Option PageTr := set.find? fun t => decide (t.da ≤ da ∧ da < t.da + t.size)

/-- The fault of a page at admission (R591). -/
def admCode (code : Nat) : Nat := if code = 0x711 ∨ code = 0x710 then 0x701 else code

/-- Entries a translation set may hold (R593). -/
def setLimit : Nat := 65536

/-- Translate the pages of one range into a set of at most `lim` pages, in ascending order; an error carries the fault code and the page's Device
Address (R590, R591, R593). -/
def State.trPages (s : State) (lim : Nat) (c : Ctx) (out : Bool) (stop : Nat) : Nat → List PageTr → Nat → Except (Nat × Nat) (List PageTr)
  | 0, set, _ => .ok set
  | k + 1, set, da =>
    if stop ≤ da then .ok set
    else match findTr set da with
      | some t => if out && !t.writable then .error (0x702, da / 4096 * 4096) else s.trPages lim c out stop k set (t.da + t.size)
      | none =>
        match s.walk (c.fn % 2) c da with
        | .error e => .error (admCode e.1, da / 4096 * 4096)
        | .ok t =>
          if out && !t.writable then .error (0x702, da / 4096 * 4096)
          else if s.atsRefuses c.fn t.space (t.target + (da - t.da)) 4096 out then .error (0x714, da / 4096 * 4096)
          else if lim ≤ set.length then .error (0x703, da / 4096 * 4096)
          else s.trPages lim c out stop k (set ++ [t]) (t.da + t.size)

/-- A range of Device Addresses named for pre-translation (R590). -/
abbrev Range := Nat × Nat × Bool

/-- Translate ranges in operand order; an empty range adds nothing. -/
def State.trRanges (s : State) (lim : Nat) (c : Ctx) : List Range → List PageTr → Except (Nat × Nat) (List PageTr)
  | [], set => .ok set
  | (da, n, out) :: rest, set =>
    match s.trPages lim c out (da + n) (n / 4096 + 2) set da with
    | .error e => .error e
    | .ok set => s.trRanges lim c rest set

/-- Count walks, and ATS requests for pages of the link, and keep the entries the walks used (R589, R622). -/
def State.countWalks (s : State) (die : Nat) (c : Ctx) (set : List PageTr) : State :=
  set.foldl (fun s t => s.keepWalk die c t.da) (s.mXlt fun x => { x with
    walks := x.walks + BitVec.ofNat 64 set.length
    atsReqs := x.atsReqs + BitVec.ofNat 64 (set.filter (·.space != .stack)).length })

/-- The pieces of a translated range: each page's place and byte count, none when a page is missing. -/
def State.spanPieces (s : State) (fn : Nat) (set : List PageTr) : Nat → Nat → Nat → Option (List (PA × Nat))
  | 0, _, n => if n = 0 then some [] else none
  | k + 1, da, n =>
    if n = 0 then some []
    else match findTr set da with
      | none => none
      | some t =>
        let m := min n (t.da + t.size - da)
        match s.spanPieces fn set k (da + m) (n - m) with
        | none => none
        | some r => some ((s.place fn t da, m) :: r)

/-- The pieces of a range with fuel for every page. -/
def State.pieces (s : State) (fn : Nat) (set : List PageTr) (da n : Nat) : Option (List (PA × Nat)) :=
  s.spanPieces fn set (n / 4096 + 2) da n

/-- Read by Device Address through a set as a unit sees it; none when a page is missing. -/
def State.readSet (s : State) (u : CUnit) (fn : Nat) (set : List PageTr) (da n : Nat) : Option (List Byte) :=
  (s.pieces fn set da n).map fun ps => ps.flatMap fun x => s.view u x.1 x.2

/-- Some byte of the range is poisoned as a unit sees it. -/
def State.poisonSet (s : State) (u : CUnit) (fn : Nat) (set : List PageTr) (da n : Nat) : Bool :=
  match s.pieces fn set da n with
  | none => false
  | some ps => ps.any fun x => s.viewPoisoned u x.1 x.2

/-- Write by Device Address through a set, below the L1. -/
def State.writeSet (s : State) (u : CUnit) (ctx : Option Nat) (fn : Nat) (set : List PageTr) : Nat → Nat → List Byte → State
  | 0, _, _ => s
  | k + 1, da, bs =>
    if bs.isEmpty then s
    else match findTr set da with
      | none => s
      | some t =>
        let m := min bs.length (t.da + t.size - da)
        (s.store u ctx t.attr (s.place fn t da) (bs.take m) false false).writeSet u ctx fn set k (da + m) (bs.drop m)

/-- A command reads bytes of its translation set (R594). -/
def State.cmdRead (s : State) (cid : Nat) (c : Cmd) (da n : Nat) : List Byte :=
  (s.readSet (unitOf cid c) c.fn c.tset da n).getD (List.replicate n 0)

/-- A command's bytes are poisoned. -/
def State.cmdPoison (s : State) (cid : Nat) (c : Cmd) (da n : Nat) : Bool := s.poisonSet (unitOf cid c) c.fn c.tset da n

/-- A command writes an output through its translation set (R594, R537). -/
def State.cmdWrite (s : State) (cid : Nat) (c : Cmd) (da : Nat) (bs : List Byte) : State :=
  s.writeSet (unitOf cid c) (some c.ctx) c.fn c.tset (bs.length / 4096 + 2) da bs

/-- An output of a command waits on another unit's provisional copy (R543). -/
def State.cmdConflict (s : State) (cid : Nat) (c : Cmd) (da n : Nat) : Bool :=
  match s.pieces c.fn c.tset da n with
  | none => false
  | some ps => s.dev == .service && ps.any fun x => s.conflicts (unitOf cid c) x.1 x.2

/-- A context's own translation of a short range at its use (R654): the pages, none when the write or read cannot be
made (R683, R758). -/
def State.ctxPages (s : State) (c : Ctx) (da n : Nat) (write : Bool) : Option (List PageTr) :=
  match s.trPages 65536 c write (da + n) (n / 4096 + 2) [] da with
  | .ok set => some set
  | .error _ => none

/-- Write merging bytes by Device Address through the pages found. -/
def State.mergeSet (s : State) (die fn : Nat) (set : List PageTr) : Nat → Nat → List Byte → State
  | 0, _, _ => s
  | k + 1, da, bs =>
    if bs.isEmpty then s
    else match findTr set da with
      | none => s
      | some t =>
        let m := min bs.length (t.da + t.size - da)
        (s.mergeWrite die (s.place fn t da) (bs.take m)).mergeSet die fn set k (da + m) (bs.drop m)

/-- A record write of the merging path through the context's own translation; none when it cannot be made. -/
def State.ctxWrite (s : State) (die : Nat) (c : Ctx) (da : Nat) (bs : List Byte) : Option State :=
  (s.ctxPages c da bs.length true).map fun set =>
    (s.mergeSet die c.fn set (bs.length / 4096 + 2) da bs).countWalks (c.fn % 2) c set

/-- The die of the Stoker half that serves a function (R30). -/
def fnDie (fn : Nat) : Nat := fn % 2

/-- Host bytes at an untranslated address of a function of port 0 (R610, R624). -/
def State.hostRead (s : State) (a n : Nat) : List Byte := s.view noUnit { space := .host, addr := a } n

end Sys2Proof.Machine
end

