-- ==== Sys2Proof/Machine/Commands.lean ====
section
/-!
DEFINITION. What every command shares: its work in the engines and how a kill drops it (R53 to R55, R265, R535, R540,
R732), answers and fallbacks (R74, R677 to R681), teardown of a context (R687), and waybill bookkeeping (R91, R113).
-/
namespace Sys2Proof.Machine

/-! ### Route frames -/

/-- A port whose link carries frames: AUTH, UP, and SUSPECT once FEC has locked again (R705, R713, R714). -/
def RPort.linked (q : RPort) : Bool := q.st == .auth || q.st == .up || (q.st == .suspect && decide (3 ≤ q.stage))

/-- Give a frame to the link of a port: it takes the next LSEQ and is kept among the last 128 (R719); a port without a link
sends nothing. -/
def State.sendFrame (s : State) (p : Nat) (f : Frame) : State :=
  if (s.port p).linked then
    (s.mPort p fun q =>
      let f := { f with lseq := q.txLseq }
      { q with txLseq := q.txLseq + 1, sent := (f :: q.sent).take 128, outbox := f :: q.outbox, keyTx := q.keyTx + 1 }).mPortCnt p
      fun c => { c with txBytes := c.txBytes + BitVec.ofNat 64 f.payload.length }
  else s

/-- Change a channel of a port. -/
def State.mChan (s : State) (p ch : Nat) (f : Chan → Chan) : State :=
  s.mPort p fun q => { q with chans := mapMod q.chans ch {} f }

/-- Send ABORT on a link with a reason (R717, R729). -/
def State.sendAbort (s : State) (o : ROp) (l : RLink) (reason : Nat) : State :=
  if (s.port l.port).linked then
    (s.sendFrame l.port { type := 4, channel := o.channel, epoch := o.epoch, seq := l.seq, arg := BitVec.ofNat 32 reason, op := o.op }).mPortCnt
      l.port fun c => { c with abortsTx := c.abortsTx + 1 }
  else s

/-- Leave a link: without our DONE an ABORT goes out and NEXT_SEQ steps; with it the link is kept until the partner's
DONE or ABORT (R729, R731, R732). -/
def State.leaveLink (s : State) (o : ROp) (l : RLink) (reason : Nat) : State :=
  if !o.started then s
  else if l.doneSent then
    if l.doneGot then s else s.mChan l.port o.channel fun c => { c with orphan := some l.seq }
  else
    (s.sendAbort o l reason).mChan l.port o.channel fun c => { c with nextSeq := l.seq + 1 }

/-- A killed command's Route operation (R732). -/
def State.routeDrop (s : State) (cid : Nat) : State :=
  let mine := s.routes.ops.filter (·.cid == cid)
  let s := mine.foldl (fun s o => o.links.foldl (fun s l => s.leaveLink o l 1) s) s
  s.mRoutes fun r => { r with ops := r.ops.filter (·.cid != cid) }

/-! ### Work of a command in the engines -/

/-- The key of a group slot in the map of groups. -/
def gkey (g : GroupRef) : Nat := 48 * g.hearth + 12 * g.burner + g.slot

/-- The Hearths without a command's groups, blocks, lines and tiles; its Grates are released (R55, R423, R469, R535). -/
def Hearths.drop (u : Hearths) (cid : Nat) : Hearths :=
  let mine (g : GroupRef) : Bool := ((mapGet u.groups (gkey g)).map (·.cid == cid)).getD false
  { u with
    launches := mapErase u.launches cid
    groups := u.groups.filter (·.2.cid != cid)
    blocks := u.blocks.filter (·.cid != cid)
    logical := u.logical.map fun p => (p.1, { p.2 with
      flue := p.2.flue.filter (·.cid != cid)
      trv := p.2.trv.filter (·.cid != cid)
      binds := p.2.binds.filter fun g => !mine g
      l1 := p.2.l1.filter (·.cid != cid)
      wc := p.2.wc.filter (·.cid != cid)
      grates := p.2.grates.map fun g => match g.bound with | some r => if mine r then {} else g | none => g }) }

/-- Mark a command's records dead (R265). -/
def Entry.kill (e : Entry) (cid : Nat) : Entry := { e with recs := e.recs.map fun r => if r.cid == cid then { r with dead := true } else r }

/-- A Serai without a command's work (R55, R265, R285, R294). -/
def Serai.drop (u : Serai) (cid : Nat) : Serai :=
  { u with
    inq := u.inq.filter (·.cid != cid)
    window := u.window.map fun w => { w with entries := w.entries.map fun e => e.kill cid }
    fetchq := u.fetchq.map fun e => e.kill cid
    accs := u.accs.filter (·.cid != cid)
    overlay := u.overlay.filter fun o => !(o.cid == cid && o.st == .staged)
    stageWait := u.stageWait.filter (·.cid != cid)
    merges := u.merges.filter fun m => m.cid != some cid
    mergeWait := u.mergeWait.filter (·.cid != cid) }

/-- The table operations that a killed command had open and not committed (R55, R213, R323, R606). -/
def Table.drop (t : Table) (cid : Nat) : Table :=
  match t.refresh with
  | some r =>
    if r.cid == cid && !r.committed then
      { t with refresh := none, slots := t.slots.filter fun p => !r.filled.contains p.1 }
    else t
  | none => t

/-- The run-time part of a table without a killed command's open operations. -/
def TableRt.drop (t : TableRt) (cid : Nat) : TableRt :=
  { t with
    mig := match t.mig with | some m => if m.cid == cid && !m.committed then none else some m | none => none
    recal := match t.recal with
      | some r =>
        let left := r.cids.filter (· != cid)
        if r.cids.contains cid && left.isEmpty && r.marks.all (· == 0) then none else some { r with cids := left }
      | none => none
    moves := t.moves.filter fun m => !(m.cid == cid && !m.committed)
    pendingCounts := t.pendingCounts.filter (·.1 != cid) }

/-- Every engine lets go of a command's work (R53). -/
def State.dropWork (s : State) (cid : Nat) : State :=
  let s := s.routeDrop cid
  let s := s.mHearths (·.drop cid)
  let s := s.mSerais fun u => { u with
    units := u.units.map fun p => (p.1, p.2.drop cid)
    bags := u.bags.filter (·.cid != cid)
    partials := u.partials.filter (·.cid != cid) }
  s.mTally fun y => { y with
    tables := y.tables.map fun p => (p.1, p.2.drop cid)
    rt := y.rt.map fun p => (p.1, p.2.drop cid) }

/-! ### Answers -/

/-- A command's handle in trace and record: its waybill's, else 0 (R91). -/
def State.handle (s : State) (i : Nat) : Nat :=
  ((mapGetD s.ldg.reuse i 0).toNat % 4096) * 2 ^ 20 + i

/-- The handle a command's trace records carry (R802). -/
def State.cmdHandle (s : State) (c : Cmd) : Nat := match c.waybill with | some i => s.handle i | none => 0

/-- Kill a command: its work ends, the kill is counted and traced, its table and record are left (R50, R54, R802).
`cause` is 0 boundary, 1 pre-emption, 2 teardown, 3 expiry. -/
def State.killCmd (s : State) (cid cause : Nat) : State :=
  match s.cmd? cid with
  | none => s
  | some c =>
    let s := s.dropWork cid
    let s := if cause = 2 then s else s.count 0x0F 0xFF (some c.ctx) c.cls 1
    let s := s.trace 6 (fnDie c.fn) (some c.ctx) c.cmdId (s.cmdHandle c + cause * 2 ^ 32)
    if c.waybill.isSome then s else s.discardUnit (unitOf cid c)

/-- The command leaves the part. -/
def State.eraseCmd (s : State) (cid : Nat) : State := s.mStk fun k => { k with cmds := mapErase k.cmds cid }

/-- Put an answer in answer order (R681). -/
def State.pushAnswer (s : State) (a : Answer) : State := s.mStk fun k => { k with answers := k.answers ++ [a] }

/-- The answer of a manifest that is no waybill's (R679). -/
def cmdAnswer (c : Cmd) (outcome fault : Nat) : Answer :=
  { ctx := c.ctx, fn := c.fn, cmdId := c.cmdId, outcome := outcome, kills := min 15 c.kills
    flags := b2n c.defaulted + b2n c.mixed * 2 + b2n c.wide * 4 + b2n c.foc * 8, fault := fault
    userTag := if c.opcode = 1 then BitVec.ofNat 64 (fld c.bytes 80 8) else 0 }

/-- Answer a command that is not a waybill's and let it go. -/
def State.answerCmd (s : State) (cid : Nat) (c : Cmd) (outcome fault : Nat) : State :=
  (s.pushAnswer (cmdAnswer c outcome fault)).eraseCmd cid

/-- Refuse a manifest with a fault against its context (R647). -/
def State.refuse (s : State) (cid : Nat) (c : Cmd) (r : FaultRec) : State :=
  let s := s.raiseAs 1 { r with ctx := some c.ctx, fn := some c.fn, cmdId := c.cmdId }
  let s := s.mFn c.fn fun f => { f with refused := f.refused + 1 }
  s.answerCmd cid c 0xB r.code

/-- Refuse a Function manifest: its fault stands in STK_FN_LAST (R647, R652). -/
def State.refuseFn (s : State) (cid : Nat) (c : Cmd) (slot code : Nat) : State :=
  let s := s.raiseAs 1 { code := code, fn := some c.fn, cmdId := c.cmdId }
  (s.mFn c.fn fun f => { f with refused := f.refused + 1, fnCnt := f.fnCnt + 1, lastLocal := slot, lastFault := code }).eraseCmd cid

/-- A Function manifest took effect (R652, R654). -/
def State.answerFn (s : State) (cid : Nat) (c : Cmd) (slot : Nat) : State :=
  (s.mFn c.fn fun f => { f with fnCnt := f.fnCnt + 1, lastLocal := slot, lastFault := 0 }).eraseCmd cid

/-! ### Waybills -/

/-- The commands of a waybill. -/
def State.cmdsOf (s : State) (i : Nat) : List (Nat × Cmd) := s.stk.cmds.filter fun p => p.2.waybill == some i

/-- Kill every command of a waybill and discard its provisional copies (R50, R540). -/
def State.killRun (s : State) (i cause : Nat) : State :=
  let ids := (s.cmdsOf i).map (·.1)
  let s := ids.foldl (fun s cid => (s.killCmd cid cause).eraseCmd cid) s
  s.discardUnit (some i, 0)

/-- A waybill's entry becomes FREE and its reuse count steps (R91, R113). -/
def State.freeWb (s : State) (i : Nat) : State :=
  s.mLdg fun l => { l with wb := mapErase l.wb i, reuse := mapMod l.reuse i 0 (· + 1) }

/-- The completion flags of a waybill's answer (R679). -/
def wbFlags (w : Waybill) (defaulted wide : Bool) : Nat :=
  b2n defaulted + b2n w.mixed * 2 + b2n wide * 4 + b2n w.foc * 8 + b2n w.stream.isStream * 16

/-- The answer of a waybill that is not answered by its commit; a stream step so answered ends its stream (R514). -/
def wbAnswer (w : Waybill) (i handle outcome cause fault : Nat) : Answer :=
  { ctx := w.ctx, fn := w.fn, cmdId := w.cmdId, outcome := outcome, kills := w.killCount, flags := wbFlags w false false
    endCause := if w.stream.isStream then cause else 0, handle := BitVec.ofNat 32 handle, fault := fault
    userTag := w.userTag, tokensDone := if w.stream.isStream then w.stream.tokensDone else 0, waybill := some i }

/-- Answer a waybill other than by commit: ANSWERING until its counter has advanced (R113, R514). -/
def State.answerWb (s : State) (i : Nat) (w : Waybill) (outcome cause fault : Nat) : State :=
  let s := s.mWb i fun x => { x with st := .answering, lane := none }
  let s := if w.stream.isStream && cause == 6 then s.mLdg fun l => { l with streamEnds := l.streamEnds + 1 } else s
  s.pushAnswer (wbAnswer w i (s.handle i) outcome cause fault)

/-- A Recipe by slot. -/
def State.recipe? (s : State) (slot : Nat) : Option Recipe := mapGet s.stk.recipes slot

/-- The bytes of a Recipe's fallback block, through its held translations (R663). -/
def State.fallbackBytes (s : State) (fn : Nat) (r : Recipe) : List Byte :=
  (s.readSet noUnit fn r.held r.fbAddr.toNat r.fbLen).getD (List.replicate r.fbLen 0)

/-- Write a fallback block to the start of a result buffer through the merging path (R74, R529); a stream step's
fallback writes nothing (R515). -/
def State.fallbackWrite (s : State) (w : Waybill) : State :=
  match s.recipe? w.recipe with
  | none => s
  | some r =>
    if r.copyMode && !w.stream.isStream then
      s.mergeSet (fnDie w.fn) w.fn w.tset (r.fbLen / 4096 + 2) w.resultAddr.toNat (s.fallbackBytes w.fn r)
    else s

/-- Answer a waybill with its Recipe's fallback (R74). -/
def State.fallback (s : State) (i : Nat) (w : Waybill) (outcome : Nat) : State :=
  let s := s.mCvn fun c => { c with fallbacks := c.fallbacks + 1 }
  let s := s.count 0x10 0xFF (some w.ctx) w.cls 1
  (s.fallbackWrite w).answerWb i w outcome 6 0

/-- A killed waybill at the boundary that begins tick `t`: re-admitted, or answered under R70, R71 and R113. -/
def State.afterKill (s : State) (i : Nat) (t : Nat) : State :=
  match s.wb? i with
  | none => s
  | some w =>
    let w := { w with killCount := w.killCount + 1, lane := none, readmitted := true, mixed := false }
    let s := s.mWb i fun _ => w
    let limit := ((s.recipe? w.recipe).map (·.rerun)).getD 0
    if w.abandonReq then s.answerWb i w 6 3 0
    else if (t : Int) ≤ w.lastTick ∧ w.killCount ≤ limit then
      (s.mWb i fun x => { x with st := .filed }).mCvn fun c => { c with readmits := c.readmits + 1 }
    else s.fallback i w (if w.lastTick < (t : Int) then 2 else 3)

/-! ### Teardown -/

/-- Tear a context down (R687): DEAD is set, its commands are killed, its waybills drain, its unrecorded answers go. -/
def State.teardown (s : State) (ctx : Nat) : State :=
  match s.ctx? ctx with
  | none => s
  | some c =>
    if c.dead then s
    else
      let s := s.mStk fun k => { k with
        ctxs := mapAdj k.ctxs ctx fun x => { x with dead := true }
        answers := k.answers.filter (·.ctx != ctx) }
      let s := s.mFn c.fn fun f => { f with slots := mapAdj f.slots c.slot fun l => { l with dead := true } }
      let s := s.mLog c.fn fun l => { l with teardowns := satAdd 255 l.teardowns 1 }
      let mine := s.stk.cmds.filter fun p => p.2.ctx == ctx && (p.2.opcode != 0x26 && p.2.opcode != 0x27)
      let s := mine.foldl (fun s p => (s.killCmd p.1 2).eraseCmd p.1) s
      let wbs := s.ldg.wb.filter (·.2.ctx == ctx)
      let s := wbs.foldl (fun s p => s.discardUnit (some p.1, 0)) s
      s.mLdg fun l => { l with wb := l.wb.map fun p => if p.2.ctx == ctx then (p.1, { p.2 with st := .draining, lane := none }) else p }

/-- Raise a fault of containment Teardown and tear the context down (R749). -/
def State.tear (s : State) (ctx : Nat) (r : FaultRec) : State := (s.raiseAs 4 { r with ctx := some ctx }).teardown ctx

/-- Raise a fault against a command, kill it and tear its context down. -/
def State.tearCmd (s : State) (c : Cmd) (r : FaultRec) : State := s.tear c.ctx { r with cmdId := c.cmdId }

/-! ### Fields of manifests -/

/-- An operand field of a command (R8). -/
def Cmd.arg (c : Cmd) (off n : Nat) : Nat := fld c.bytes off n

/-- Every operand byte outside the listed ranges (offset, length) is 0. -/
def zeroExcept (bs : List Byte) (ranges : List (Nat × Nat)) : Bool :=
  (List.range 96).all fun i => ranges.any (fun r => decide (r.1 ≤ 32 + i ∧ 32 + i < r.1 + r.2)) || bs.getD (32 + i) 0 == 0

/-- The kind of an opcode (R638): 0 wrapper, 1 admission, 2 control, 3 engine, 4 function; none when undefined. -/
def opKind (op : Nat) : Option Nat :=
  if op = 0 then some 0 else if op = 1 then some 1
  else if op ∈ [2, 3, 4, 5, 0x1A, 0x20, 0x21, 0x22, 0x23, 0x24, 0x25, 0x28, 0x29, 0x2A, 0x2B, 0x2C] then some 2
  else if (0x08 ≤ op ∧ op ≤ 0x14) ∨ op = 0x18 ∨ op = 0x19 then some 3
  else if op = 0x26 ∨ op = 0x27 then some 4 else none

/-- A privileged opcode (R638). -/
def opPriv (op : Nat) : Bool := (0x12 ≤ op && op ≤ 0x14) || op == 0x1A || (0x20 ≤ op && op ≤ 0x2C)

/-- The command may act: Service or Banked, live context, not yet acting. A row that names a command acts on it only then
(assumption 2). -/
def State.ready? (s : State) (cid op : Nat) (st : CmdState) : Option Cmd :=
  if s.live then
    match s.cmd? cid with
    | some c => if c.opcode == op && c.st == st then some c else none
    | none => none
  else none

end Sys2Proof.Machine
end

