-- ==== Sys2Proof/Machine/Collector.lean ====
section
/-!
DEFINITION. The Fault Collector's sinks (R756 to R766), the entry to Quenched (R842), the Warden's forwarding of records
(R763 to R765, R867) and the Chimney's outputs (R804 to R810).
-/
namespace Sys2Proof.Machine

/-- The codes of R751; no other code is raised. -/
def knownFaults : List Nat := sevR ++ sevF ++ sevC ++ conRefused ++ conFunction ++ conFailed ++ conTeardown ++
  [0x10A, 0x208, 0x240, 0x242, 0x243, 0x244, 0x305, 0x321, 0x40C, 0x621]

/-! ### The host sink -/

/-- Send an MSI-X message, or leave it due while the vector's holdoff runs (R759). -/
def State.msix (s : State) (f v : Nat) (atOnce : Bool) : State :=
  let l := s.log f
  if l.inHoldoff.getD v false && !atOnce then s.mLog f fun l => { l with msgDue := l.msgDue.set v true }
  else (s.mLog f fun l => { l with inHoldoff := l.inHoldoff.set v (l.holdoffUs != 0) }).mFlt fun t => { t with msix := (f, v) :: t.msix }

/-- Write a record to a function's log, or discard it (R757, R758). -/
def State.logFn (s : State) (f : Nat) (r : FaultRec) (atOnce : Bool) : State :=
  let l := s.log f
  if l.en && s.xlt.port0.up then
    let s := s.mergeWrite 0 { space := .host, addr := l.base.toNat + 64 * (l.cnt.toNat % 2 ^ l.log2) } (faultBytes r)
    (s.mLog f fun l => { l with cnt := l.cnt + 1 }).msix f 1 atOnce
  else (s.mFlt fun t => { t with hostLost := t.hostLost + 1 }).mLog f fun l => { l with hostLost := true }

/-- Write a record to its context's log; when that write cannot be made the count still advances and the record goes to
the function log (R756 to R758). -/
def State.logCtx (s : State) (c : Ctx) (r : FaultRec) (atOnce : Bool) : State :=
  let cnt := ((mapGet (s.fn c.fn).slots c.slot).map (·.fltCnt)).getD 0
  let bump (s : State) : State := s.mFn c.fn fun f => { f with slots := mapAdj f.slots c.slot fun x => { x with fltCnt := x.fltCnt + 1 } }
  match s.ctxWrite 0 c (c.flogAddr.toNat + 64 * (cnt.toNat % 2 ^ c.flogLog2)) (faultBytes r) with
  | some s' => (bump s').msix c.fn 0 atOnce
  | none => ((bump s).mFlt fun t => { t with writeFails := t.writeFails + 1 }).logFn c.fn r atOnce

/-- The function whose log a record is for (R756). -/
def State.recFn (s : State) (r : FaultRec) : Nat :=
  match r.ctx with
  | some c => match s.ctx? c with | some x => x.fn | none => r.fn.getD 0
  | none => r.fn.getD 0

/-- Take a record for its log, counted once by severity (R756, R916). -/
def State.sinkRecord (s : State) (r : FaultRec) (atOnce : Bool) : State :=
  let s := s.mLog (s.recFn r) fun l => { l with sev := setNth l.sev r.sev (satAdd 255 (nth l.sev r.sev) 1) }
  match r.ctx with
  | some c => match s.ctx? c with
    | some x => s.logCtx x r atOnce
    | none => s.logFn (r.fn.getD 0) r atOnce
  | none => s.logFn (r.fn.getD 0) r atOnce

/-- HOST_SINK_WRITE (R757): the oldest record of the host sink queue goes to its log. -/
def execHostSinkWrite (s : State) : Host.Outcome State Fault Refusal :=
  match s.flt.hostq with
  | [] => .next s
  | r :: rest => if s.flt.hostStopped then .next s else .next ((s.mFlt fun f => { f with hostq := rest }).sinkRecord r false)

/-- MSIX_HOLDOFF_EXPIRY (R759): one message for the records that arrived during the holdoff. -/
def execMsixHoldoffExpiry (fn vec : Nat) (s : State) : Host.Outcome State Fault Refusal :=
  let l := s.log fn
  if l.inHoldoff.getD vec false then
    if l.msgDue.getD vec false then
      .next ((s.mLog fn fun l => { l with msgDue := l.msgDue.set vec false }).mFlt fun t => { t with msix := (fn, vec) :: t.msix })
    else .next (s.mLog fn fun l => { l with inHoldoff := l.inHoldoff.set vec false })
  else .next s

/-- One delivery whose 1 ms has passed: held repeats become one record, which is a delivery in its turn (R755). -/
def State.flushCoal (s : State) (c : Coal) : State :=
  if s.time < c.since + cyclesPerMs then s.mFlt fun f => { f with coal := f.coal ++ [c] }
  else match c.first with
    | none => s
    | some r =>
      (s.makeRecord { r with rept := c.held }).mFlt fun f => { f with coal := f.coal ++ [{ delivered := r, since := s.time }] }

/-- COALESCE_FLUSH (R755). -/
def execCoalesceFlush (s : State) : Host.Outcome State Fault Refusal :=
  .next (s.flt.coal.foldl State.flushCoal (s.mFlt fun f => { f with coal := [] }))

/-- FAULT_REPORT (R752): one record for both sinks, and the teardown that the code's containment orders (R749). -/
def execFaultReport (r : FaultRec) (s : State) : Host.Outcome State Fault Refusal :=
  if s.dev == .off || !knownFaults.contains r.code then .next s
  else
    let s := s.raise r
    match r.ctx with
    | some c => .next (if faultContain r.code = 4 then s.teardown c else s)
    | none => .next s

/-! ### Quenched -/

/-- The Chimney's snapshot (R799, R800). -/
def State.snapshot (s : State) : State := s.mChm fun c => { c with snap := c.val, snapTick := s.tck.num }

/-- A response block of the Warden (R852). -/
def rspOk (code status : Nat) : MgmtRsp := { code := code, status := status }

/-- The words of a response (R852). -/
def MgmtRsp.bytes (r : MgmtRsp) : List Byte :=
  toLe 2 r.code ++ toLe 1 r.status ++ [0] ++ toLe 4 r.val0.toNat ++ toLe 4 r.val1.toNat ++ toLe 4 r.data.length ++ r.data

/-- The Warden's answer to a request of a function's Mailbox or of the management network (R855, R866). -/
def State.respond (s : State) (fn : Option Nat) (tag : BitVec 16) (r : MgmtRsp) : State :=
  match fn with
  | none => s.mWarden fun w => { w with mgmtOut := r :: w.mgmtOut }
  | some f =>
    let bs := r.bytes
    s.mLog f fun l => { l with mbx := { l.mbx with
      rsp := (List.range ((bs.length + 3) / 4)).foldl (fun m i => mapSet m i (BitVec.ofNat 32 (fld bs (4 * i) 4))) []
      rspTag := tag, busy := false, done := true, inFlight := [] } }

/-- A posted state request is withdrawn when the part enters Quenched (R839). -/
def State.withdrawRequest (s : State) : State :=
  match s.warden.stateReq with
  | none => s
  | some q => (s.mWarden fun w => { w with stateReq := none }).respond q.fn q.tag (rspOk (if q.toBanked then 2 else 3) 4)

/-- The entry to Quenched (R842, R762, R800, R808): commits and engines stop, the stacks enter self-refresh, the Route
transmitters go off, the host sink writes what it holds when the link has been presented and stops; BX_STATUS.FATAL is set (R900, R901). -/
def State.enterQuenched (s : State) (code : Nat) : State :=
  let presented := s.hostOn && s.xlt.port0.up
  let q := s.flt.hostq
  let s := s.mFlt fun f => { f with hostq := [], quenchDue := none, quenchCode := code, quenchAt := s.time }
  let s := if presented then q.foldl (fun s r => s.sinkRecord r true) s else s
  let s := if presented then (s.drainMerging 0 64).drainMerging 1 64 else s
  let s := s.mFlt fun f => { f with hostStopped := true }
  let s := s.mTck fun t => { t with stateTick := t.num }
  let s := s.mMem fun m => { m with stackRefresh := true }
  let s := s.mHearths fun h => { h with groups := [], blocks := [], launches := [] }
  let s := s.mSerais fun u => { u with bags := [], partials := [], units := u.units.map fun p => (p.1, { p.2 with inq := [], window := none, fetchq := [], accs := [] }) }
  let s := s.mRoutes fun r => { r with ops := [], ports := r.ports.map fun p => (p.1, { p.2 with st := .down }) }
  let s := (s.snapshot).mChm fun c => { c with hostStopped := true }
  let s := s.mBx fun b => { b with fatal := s.img.bx3, irqs := if s.img.bx3 && b.irqEn then b.irqs + 1 else b.irqs }
  ({ s with dev := .quenched }).withdrawRequest

/-- QUENCH_ENTRY (R842): a received fault of containment Quenched takes effect. -/
def execQuenchEntry (s : State) : Host.Outcome State Fault Refusal :=
  match s.flt.quenchDue with
  | none => .next s
  | some code => .next (s.enterQuenched code)

/-! ### The management sink -/

/-- Two binary-coded decimal digits. -/
def bcd (n : Nat) : Nat := n / 10 % 10 * 16 + n % 10

/-- The year and day of the year from days since 1 January 2000, at most `k` years on. -/
def yearOf : Nat → Nat → Nat → Nat × Nat
  | 0, y, d => (y, d)
  | k + 1, y, d =>
    let n := if y % 4 = 0 ∧ (y % 100 ≠ 0 ∨ y % 400 = 0) then 366 else 365
    if d < n then (y, d) else yearOf k (y + 1) (d - n)

/-- The month and day from a list of month lengths. -/
def monthOf : List Nat → Nat → Nat → Nat × Nat
  | [], m, d => (m, d + 1)
  | n :: t, m, d => if d < n then (m, d + 1) else monthOf t (m + 1) (d - n)

/-- The 8-byte time stamp of a CPER record from seconds since 1 January 2000: BCD seconds, minutes, hours, a precision
byte, day, month, year, century (PRESUMED from UEFI 2.10, assumption 15). -/
def cperTime (sec : Nat) : List Byte :=
  let (y, d) := yearOf (sec / 31536000 + 1) 2000 (sec / 86400)
  let leap := y % 4 = 0 ∧ (y % 100 ≠ 0 ∨ y % 400 = 0)
  let (m, dd) := monthOf [31, if leap then 29 else 28, 31, 30, 31, 30, 31, 31, 30, 31, 30, 31] 1 d
  toLe 1 (bcd (sec % 60)) ++ toLe 1 (bcd (sec / 60 % 60)) ++ toLe 1 (bcd (sec / 3600 % 24)) ++ [0] ++
  toLe 1 (bcd dd) ++ toLe 1 (bcd m) ++ toLe 1 (bcd (y % 100)) ++ toLe 1 (bcd (y / 100))

/-- The UEFI byte order of a GUID given as its five groups. -/
def guid (a b c : Nat) (d : List Byte) : List Byte := toLe 4 a ++ toLe 2 b ++ toLe 2 c ++ d

/-- The creator of R764. -/
def guidCreator : List Byte := guid 0x2E81F4C7 0x0D59 0x4A6B [0xB3, 0xE2, 0x58, 0xA7, 0xC9, 0x1D, 0x0F, 0x6E]
/-- The section and notification type of R764. -/
def guidNynalin : List Byte := guid 0x7C2A9E41 0x3B6D 0x4F08 [0x9A, 0x57, 0xE1, 0xC4, 0xD0, 0x6B, 0x8F, 0x23]

/-- The ASCII code of an upper-case hexadecimal digit. -/
def hexDigit (n : Nat) : Byte := BitVec.ofNat 8 (if n < 10 then 48 + n else 55 + n)

/-- "CZ-9640 " and twelve hexadecimal digits of the serial (R764). -/
def fruText (serial : Nat) : List Byte :=
  [0x43, 0x5A, 0x2D, 0x39, 0x36, 0x34, 0x30, 0x20] ++
  (List.range 12).map fun i => hexDigit (serial / 16 ^ (11 - i) % 16)

/-- Milliseconds of Stoker cycles. -/
def msOf (cycles : Nat) : Nat := cycles / cyclesPerMs

/-- The Nynalin section (R765). -/
def State.nynalin (s : State) (r : FaultRec) : List Byte :=
  padTo 128 (toLe 2 1 ++ toLe 1 s.dev.code ++ toLe 1 (b2n s.img.bx3) ++ toLe 4 s.flt.mgmtLost.toNat ++ toLe 8 s.fuses.serial.toNat ++
    toLe 8 (msOf (s.time - s.boot.since)) ++ toLe 8 (if s.dev == .quenched then msOf (s.time - s.flt.quenchAt) else 0) ++
    faultBytes r ++ toLe 4 s.warden.fwVer.toNat ++ toLe 4 s.img.imageVer.toNat)

/-- The 328 bytes of a CPER record (R764; header and descriptor layout PRESUMED from UEFI 2.10, assumption 15). -/
def State.cper (s : State) (r : FaultRec) : List Byte :=
  [0x43, 0x50, 0x45, 0x52] ++ toLe 2 0x0101 ++ toLe 4 0xFFFFFFFF ++ toLe 2 1 ++ toLe 4 r.sev ++ toLe 4 2 ++ toLe 4 328 ++
  cperTime s.warden.rtc ++ List.replicate 32 0 ++ guidCreator ++ guidNynalin ++ toLe 8 r.seq.toNat ++ List.replicate 24 0 ++
  toLe 4 200 ++ toLe 4 128 ++ toLe 2 0 ++ [2, 0] ++ toLe 4 0 ++ guidNynalin ++ List.replicate 16 0 ++ toLe 4 r.sev ++
  fruText s.fuses.serial.toNat ++ s.nynalin r

/-- Send a CPER record as a PlatformEventMessage (R867). -/
def State.sendCper (s : State) (r : FaultRec) : State := s.mWarden fun w => { w with cperOut := s.cper r :: w.cperOut }

/-- CPER_FORWARD (R763, R764): the oldest record of the management sink queue joins the error log and goes to the receiver. -/
def execCperForward (s : State) : Host.Outcome State Fault Refusal :=
  match s.flt.mgmtq with
  | [] => .next s
  | r :: rest =>
    if s.warden.running then
      let s := s.mFlt fun f => { f with mgmtq := rest }
      let s := s.mWarden fun w => { w with errorLog := (w.errorLog ++ [r]).drop (w.errorLog.length + 1 - 4096) }
      match s.warden.eventReceiver with
      | none => .next s
      | some _ => .next ((s.sendCper r).mWarden fun w => { w with unacked := some r, resends := 0 })
    else .next s

/-- PLDM_EVENT_RESEND (R867): 250 ms after a message the Warden sends it again unless it has been acknowledged, at most
four times. -/
def execPldmEventResend (acked : Bool) (s : State) : Host.Outcome State Fault Refusal :=
  match s.warden.unacked with
  | none => .next s
  | some r =>
    if acked || 4 ≤ s.warden.resends then .next (s.mWarden fun w => { w with unacked := none })
    else .next ((s.sendCper r).mWarden fun w => { w with resends := w.resends + 1 })

/-! ### The Chimney's outputs -/

/-- The 32 bytes of a trace record (R801). -/
def TraceRec.bytes (r : TraceRec) : List Byte :=
  toLe 1 r.kind ++ toLe 1 r.die ++ toLe 2 r.ctx ++ toLe 4 r.tseq.toNat ++ toLe 8 r.tick.toNat ++ toLe 4 r.ns ++
  toLe 4 r.cmdId.toNat ++ toLe 8 r.payload.toNat

/-- LOST_RECORD_EMIT (R804): once a die's buffer has room, one LOST record for what was dropped. -/
def execLostRecordEmit (die : Nat) (s : State) : Host.Outcome State Fault Refusal :=
  if s.chm.lostNow ≠ 0 ∧ s.chm.room die then
    let n := s.chm.lostNow
    .next ((s.mChm fun c => { c with lostNow := 0 }).trace 9 die none 0 n)
  else .next s

/-- The 512 bytes of a trace output frame (R809). -/
def frameBytes (n : Nat) (rs : List TraceRec) : List Byte :=
  let body := padTo 496 (toLe 4 0xC4A596E3 ++ toLe 2 n ++ toLe 1 rs.length ++ List.replicate 9 0 ++ rs.flatMap TraceRec.bytes)
  body ++ toLe 4 (crc32c body).toNat ++ List.replicate 12 0

/-- TRACE_FRAME_SEND (R810): one frame with up to 15 records, sent full or not, in every state but Off. -/
def execTraceFrameSend (s : State) : Host.Outcome State Fault Refusal :=
  if s.dev == .off then .next s
  else .next (s.mChm fun c => { c with
    frameOut := frameBytes c.frames.toNat (c.portq.take 15) :: c.frameOut
    portq := c.portq.drop 15, frames := c.frames + 1 })

/-- TRACE_HOST_EXPORT (R806, R807): the oldest staged record goes to the host ring, or is dropped when it would exceed
RATE_MBS over the running 1 ms. -/
def execTraceHostExport (s : State) : Host.Outcome State Fault Refusal :=
  match s.chm.ringq with
  | [] => .next s
  | r :: rest =>
    if s.chm.hostStopped || !s.hostOn then .next s
    else
      let fresh := decide (s.chm.ringSince + cyclesPerMs ≤ s.time)
      let used := if fresh then 0 else s.chm.ringUsed
      let s := s.mChm fun c => { c with ringq := rest, ringUsed := used, ringSince := if fresh then s.time else c.ringSince }
      if s.chm.ring.rate * 1000 < used + 32 then .next (s.mChm fun c => { c with hostDrops := c.hostDrops + 1 })
      else
        let a := s.chm.ring.base.toNat + 32 * (s.chm.hostCnt.toNat % 2 ^ s.chm.ring.log2)
        .next ((s.writeThrough { space := .host, addr := a } r.bytes false).mChm fun c => { c with hostCnt := c.hostCnt + 1, ringUsed := used + 32 })

end Sys2Proof.Machine
end

