-- ==== Sys2Proof/Machine/Control.lean ====
section
/-!
DEFINITION. What control commands share (R641, R647): the order among the control commands of a context, refusal for a
translation (R591, R592), reads through the context's own tables, and the commit of a command that needs no engine.
-/
namespace Sys2Proof.Machine

/-- A control command that may take effect: every earlier control command of its context has committed (R641). -/
def State.ctl? (s : State) (cid op : Nat) : Option (Cmd × Ctx) :=
  match s.ready? cid op .admitted with
  | none => none
  | some c =>
    match s.ctx? c.ctx with
    | none => none
    | some x =>
      if x.dead || s.stk.cmds.any (fun p => decide (p.1 < cid) && p.2.ctx == c.ctx && opKind p.2.opcode == some 2) then none
      else some (c, x)

/-- The detail of a fault at a Device Address met at admission (R753). -/
def detDa (da : Nat) : List Byte := detAddr da 0 0xFF 0xFF 0 0 0

/-- The level at which the walk for a page ended, 0xFF where none was made (R595, R753). -/
def State.walkLevel (s : State) (c : Cmd) (code da : Nat) : Nat :=
  if code = 0x703 then 0xFF
  else match s.ctx? c.ctx with
    | none => 0xFF
    | some x => match s.walk (c.fn % 2) x da with
      | .error e => e.2
      | .ok t => if t.size = 2 ^ 30 then 2 else if t.size = 2 ^ 21 then 1 else 0

/-- DETAIL of a page that does not translate at admission (R591, R753). -/
def State.detWalk (s : State) (c : Cmd) (e : Nat × Nat) : List Byte := detAddr e.2 0 (s.walkLevel c e.1 e.2) 0xFF 0 0 0

/-- Refuse a command for a page that does not translate; poisoned table data also tear the context down (R591, R592). -/
def State.refuseTr (s : State) (cid : Nat) (c : Cmd) (e : Nat × Nat) : State :=
  if e.1 = 0x715 then
    let s := s.mFn c.fn fun f => { f with refused := f.refused + 1 }
    (s.eraseCmd cid).tearCmd c { code := 0x715, dkind := 2, detail := s.detWalk c e }
  else s.refuse cid c { code := e.1, dkind := 2, detail := s.detWalk c e }

/-- Read bytes through a context's page tables: the bytes and whether they are poisoned, or the page that fails. -/
def State.ctxRead (s : State) (x : Ctx) (da n : Nat) : Except (Nat × Nat) (List Byte × Bool) :=
  match s.trRanges setLimit x [(da, n, false)] [] with
  | .error e => .error e
  | .ok set => .ok ((s.readSet noUnit x.fn set da n).getD [], s.poisonSet noUnit x.fn set da n)

/-- Count a commit (R797). -/
def State.countCommit (s : State) (c : Cmd) : State := s.count 0x0E 0xFF (some c.ctx) c.cls 1

/-- A control command takes effect and commits: it is answered COMMITTED (R677). -/
def State.commitCtl (s : State) (cid : Nat) (c : Cmd) : State := (s.countCommit c).answerCmd cid c 0 0

end Sys2Proof.Machine
end

