-- ==== Sys2Proof/Machine/Random.lean ====
section
/-!
DEFINITION. The counter-based generator of R171 to R174.
-/
namespace Sys2Proof.Machine

/-- The bijection stir (R171). -/
def stir (x : BitVec 64) : BitVec 64 :=
  let x := (x ^^^ (x >>> 31)) * 0x9C4F2B6DE71A3585#64
  let x := (x ^^^ (x >>> 29)) * 0xC2B571E90D63A4F7#64
  x ^^^ (x >>> 32)

/-- The generator's output for one element (R171). -/
def gen (key : BitVec 64) (tensor step : Nat) (element : BitVec 64) : BitVec 64 :=
  stir (stir (key ^^^ BitVec.ofNat 64 (tensor % 2 ^ 16 * 2 ^ 32 + step % 2 ^ 32)) ^^^ element)

/-- The element input of a plane and a position (R172). -/
def elementOf (plane pos : Nat) : BitVec 64 := BitVec.ofNat 64 (plane * 2 ^ 56) ||| BitVec.ofNat 64 pos

/-- The 16 bits of stochastic rounding (R173). -/
def roundBits (r : BitVec 64) : Nat := r.toNat / 2 ^ 48

/-- A uniform draw of 24 bits (R173). -/
def drawBits (r : BitVec 64) : Nat := r.toNat / 2 ^ 40

end Sys2Proof.Machine
end

