-- ==== Sys2Proof/Machine/Caravan.lean ====
section
/-!
DEFINITION. The tick's windows and budget (R46, R60 to R64, R436, R576, R942), the Caravan Assembler (R58 to R68, R94,
R664, R837, R957), the commands of a waybill (R660 to R662), and kills at a boundary (R50, R675).
-/
namespace Sys2Proof.Machine

/-! ### Capacity -/

/-- The Hearth and Depot clock of a level, in MHz (R937). -/
def hearthMHz (level : Nat) : Nat := [2000, 1900, 1700, 1500, 1200].getD level 800

/-- The throttle level of a stack (R574). -/
def State.throttle (s : State) (q : Nat) : Nat := (mapGetD s.dampers.perStack q {}).level

/-- Logical Hearths in service. -/
def State.inService (s : State) : List (Nat × Hearth) := s.hearths.logical.filter (·.2.inService)

/-- Set bits of a number of w bits. -/
def popCount (w v : Nat) : Nat := ((List.range w).filter fun i => v.testBit i).length

/-- Physical Grates in service of the Hearth that a logical Hearth runs on. -/
def State.gratesUp (s : State) (h : Hearth) : Nat := 4 - popCount 4 (mapGetD s.hearths.phys h.phys {}).grRetired.toNat

/-- The Grate count of a Hearth with g Grates in service (R436). -/
def grateCount (g : Nat) : Nat := if g = 0 then 0 else 4 / (5 - g)

/-- Four times rate[e], per second (R60, R200, R250, R436, R497, R559, R576, R699, R942). -/
def State.rate4 (s : State) (e : Nat) : Nat :=
  let clk := hearthMHz s.power.hlevel * 1000000
  let qs := List.range 8
  match e with
  | 0 => (s.inService.map fun h => 4 * clk * (4 - s.throttle (h.1 / 20))).sum
  | 1 => (s.inService.map fun h => grateCount (s.gratesUp h.2) * clk * (4 - s.throttle (h.1 / 20))).sum
  | 2 => (qs.map fun q => popCount 17 (s.serai q).lanes.toNat * 180000000000 * (4 - s.throttle q)).sum
  | 3 => (qs.map fun q => 2000000000000 * (4 - s.throttle q)).sum
  | 4 => 4 * 230400000000
  | 5 => 4 * 307200000000
  | 6 => (qs.map fun p => if (s.port p).st = .up then (if (s.port p).half then 2 else 4) * 195000000000 else 0).sum
  | _ => 4 * 76800000000 * popCount 16 s.drovers.inService.toNat

/-- The execution window E in ns (R46). -/
def State.execNs (s : State) : Nat := s.periodNs - s.admitNs - s.periodNs / 100 * 8

/-- cap[e] (R60). -/
def State.capOf (s : State) (e : Nat) : Nat := s.rate4 e * s.execNs * nth s.img.plan e / (4 * 128 * 1000000000)

/-- share[c][e] (R62). -/
def State.share (s : State) (c e : Nat) : Nat := nth s.img.shares (8 * c + e)

/-- reserved[c][e] (R64). -/
def State.reserved (s : State) (c e : Nat) : Nat := nth s.cvn.cap e * s.share c e / 64

/-! ### The snapshot -/

/-- Waybills in flight: RUNNING or COMMITTED (R94). -/
def Ledger.inflight (l : Ledger) : Nat := (l.wb.filter fun p => p.2.st == .running || p.2.st == .committed).length

/-- The order of R59 within a class: L, then re-admitted first, then filing order (R96). -/
def wbBefore (a b : Nat × Waybill) : Bool :=
  if a.2.lastTick ≠ b.2.lastTick then decide (a.2.lastTick < b.2.lastTick)
  else if a.2.readmitted ≠ b.2.readmitted then a.2.readmitted
  else decide (toS 32 (a.2.fileSeq - b.2.fileSeq).toNat < 0)

/-- Insert a waybill in the order of R59. -/
def insertWb (x : Nat × Waybill) : List (Nat × Waybill) → List (Nat × Waybill)
  | [] => [x]
  | y :: t => if wbBefore x y then x :: y :: t else y :: insertWb x t

/-- The waybills of a snapshot at the boundary that begins tick t (R58). -/
def State.due (s : State) (t : Nat) : List (Nat × Waybill) :=
  s.ldg.wb.filter fun p => p.2.st == .filed && decide ((t : Int) ≤ p.2.lastTick)

/-- Take the snapshot and begin assembly (R58, R60, R66); in Banked only replayed waybills are considered (R837). -/
def State.beginAssembly (s : State) : State :=
  let due := s.due s.tck.num.toNat
  let cap := (List.range 8).map s.capOf
  let cls (c : Nat) := ((due.filter fun p => p.2.cls == c && (s.dev != .banked || p.2.replay.isSome)).foldl (fun l x => insertWb x l) []).map (·.1)
  s.mCvn fun v => { v with
    cap := cap, snapshot := due.map (·.1), assembling := true, heads := (List.range 4).map cls, asmPass := 1, asmClass := 0
    examined := 0, chosen := [], used := List.replicate 32 0, spareCap := [] }

/-! ### Assembly -/

/-- cost(w, e) (R61). -/
def State.cost (s : State) (w : Waybill) (e : Nat) : Nat :=
  match s.recipe? w.recipe with
  | none => 0
  | some r => nth r.costBase e + nth r.costItem e * (w.itemsM1 + 1)

/-- A free lane of a waybill's Recipe is left besides those already chosen (R664). -/
def State.laneFits (s : State) (w : Waybill) : Bool :=
  match s.recipe? w.recipe with
  | none => false
  | some r =>
    r.lanes == 0 ||
      decide ((s.ldg.wb.filter fun p => p.2.recipe == w.recipe && p.2.lane.isSome).length +
        (s.cvn.chosen.filter fun i => ((s.wb? i).map (·.recipe)) == some w.recipe).length < r.lanes)

/-- One more sample fits in flight and in a lane (R94, R664). -/
def State.roomFor (s : State) (w : Waybill) : Bool :=
  decide (s.ldg.inflight + s.cvn.chosen.length < 131072) && s.laneFits w

/-- fits_reserved of pass 1 (R66). -/
def State.fitsReserved (s : State) (w : Waybill) (c : Nat) : Bool :=
  (List.range 8).all (fun e => decide (nth s.cvn.used (8 * c + e) + s.cost w e ≤ s.reserved c e)) && s.roomFor w

/-- Fits the spare capacity of pass 2 (R66). -/
def State.fitsSpare (s : State) (w : Waybill) : Bool :=
  (List.range 8).all (fun e => decide (s.cost w e ≤ nth s.cvn.spareCap e)) && s.roomFor w

/-- spare[e] at the start of pass 2 (R66). -/
def State.spareOf (s : State) (e : Nat) : Nat :=
  let r (c : Nat) := s.reserved c e
  nth s.cvn.cap e - ((List.range 6).map r).sum + ((List.range 4).map fun c => r c - nth s.cvn.used (8 * c + e)).sum

/-- Take the first waybill of the class under examination off its list. -/
def Caravan.takeHead (v : Caravan) (rest : List Nat) : Caravan :=
  { v with heads := v.heads.set v.asmClass rest, examined := v.examined + 1 }

/-- One examination, or one step of the loops of R66. -/
def State.asmStep (s : State) : State :=
  let v := s.cvn
  if !v.assembling then s
  else if 4 ≤ v.asmClass then
    if v.asmPass = 1 then s.mCvn fun v => { v with asmPass := 2, asmClass := 0, spareCap := (List.range 8).map s.spareOf }
    else s.mCvn fun v => { v with assembling := false }
  else match v.heads.getD v.asmClass [] with
    | [] => s.mCvn fun v => { v with asmClass := v.asmClass + 1 }
    | i :: rest =>
      match s.wb? i with
      | none => s.mCvn (·.takeHead rest)
      | some w =>
        if w.st != .filed then s.mCvn (·.takeHead rest)
        else if v.asmPass = 1 then
          if s.fitsReserved w v.asmClass then
            s.mCvn fun v => { v.takeHead rest with
              chosen := i :: v.chosen
              used := (List.range 8).foldl (fun u e => setNth u (8 * v.asmClass + e) (nth u (8 * v.asmClass + e) + s.cost w e)) v.used }
          else s.mCvn fun v => { v with asmClass := v.asmClass + 1, examined := v.examined + 1 }
        else if s.fitsSpare w then
          s.mCvn fun v => { v.takeHead rest with
            chosen := i :: v.chosen, spareCap := (List.range 8).map fun e => nth v.spareCap e - s.cost w e }
        else s.mCvn fun v => { v with asmClass := v.asmClass + 1, examined := v.examined + 1 }

/-- Examinations the admission window allows: two per Stoker clock cycle (R67). -/
def State.asmLimit (s : State) : Nat := s.admitNs * 6 / 5 * 2

/-- Assemble until assembly ends or the window's examinations are used up (R67). -/
def State.assemble (s : State) : Nat → State
  | 0 => s
  | k + 1 => if s.cvn.assembling && decide (s.cvn.examined < s.asmLimit) then s.asmStep.assemble k else s

/-! ### The commands of a waybill -/

/-- Selector of operand quadword q of a template (R659). -/
def Template.sel (t : Template) (q : Nat) : Nat := t.reloc / 4 ^ q % 4

/-- A quadword of a template relocated (R660): `lane0` is the scratch address at the lane. -/
def Template.quad (t : Template) (q : Nat) (input result lane0 : Nat) : Nat :=
  let v := fld t.bytes (32 + 8 * q) 8
  (v + (match t.sel q with | 1 => input | 2 => result | 3 => lane0 | _ => 0)) % 2 ^ 64

/-- The manifest of a command of a waybill (R660). -/
def Template.form (t : Template) (input result lane0 items : Nat) : List Byte :=
  let body := (List.range 12).flatMap fun q => toLe 8 (t.quad q input result lane0)
  (List.range 2).foldl (fun bs p =>
    if nth t.patchOff p = 0 then bs else overlay bs (nth t.patchOff p) (toLe 4 (nth t.patchBase p + nth t.patchPer p * items)))
    (t.bytes.take 32 ++ body)

/-- The scratch address of a lane (R660). -/
def Recipe.laneAddr (r : Recipe) (lane : Nat) : Nat := r.scratchAddr.toNat + lane * r.scratchBytes

/-- The commands of a waybill at the lane it holds, in Recipe order. -/
def waybillCmds (w : Waybill) (r : Recipe) : List Cmd :=
  (List.range r.cmds.length).map fun k =>
    let t := r.cmds.getD k {}
    { fn := w.fn, ctx := w.ctx, opcode := fld t.bytes 2 1, cls := w.cls
      bytes := t.form w.inputAddr.toNat w.resultAddr.toNat (r.laneAddr (w.lane.getD 0)) (w.itemsM1 + 1)
      cmdId := w.cmdId, key := w.runKey, idx := k, foc := w.foc, tset := w.tset ++ r.held }

/-- Put the commands of a waybill into the part (R660, R661). -/
def State.startWb (s : State) (i : Nat) (w : Waybill) : State :=
  match s.recipe? w.recipe with
  | none => s
  | some r => (waybillCmds w r).foldl (fun s c =>
      s.mStk fun k => { k with cmds := mapSet k.cmds k.nextCid { c with waybill := some i }, nextCid := k.nextCid + 1 }) s

/-- A finished command is to run once more, wide: its clip count exceeds its threshold (R166, R168). -/
def wideDue (t : Template) (c : Cmd) : Bool := t.clipThresh != 0 && !c.wide && decide (t.clipThresh * c.elems < c.clipped * 65536)

/-- A Fence of a context that was admitted before command number `cid` waits to commit (R619). -/
def State.fenced (s : State) (cid ctx : Nat) : Bool := s.stk.cmds.any fun p => decide (p.1 < cid) && p.2.ctx == ctx && p.2.opcode == 4

/-- Dispatch a command outside a waybill, unless an earlier Fence of its context waits: its span counts from this tick (R49, R619). -/
def State.dispatched (s : State) (cid : Nat) (c : Cmd) : Cmd :=
  if s.fenced cid c.ctx then c else { c with spanEnd := s.tck.num.toNat + fld c.bytes 7 1 + 1 }

/-- Dispatch what a Fence of a context held back (R619). -/
def State.dispatchHeld (s : State) (ctx : Nat) : State :=
  s.mStk fun k => { k with cmds := k.cmds.map fun p =>
    (p.1, if p.2.ctx == ctx && p.2.waybill.isNone && opKind p.2.opcode == some 3 && p.2.spanEnd == 0 then s.dispatched p.1 p.2 else p.2) }

/-- A command may start: one of a waybill when every command it follows has finished and is not to run wide (R661, R167), another
one when no earlier Fence of its context waits (R619). -/
def State.orderOk (s : State) (cid : Nat) (c : Cmd) : Bool :=
  match c.waybill with
  | none => !s.fenced cid c.ctx
  | some i =>
    match (s.wb? i).bind fun w => s.recipe? w.recipe with
    | none => false
    | some r =>
      let after := (r.cmds.getD c.idx {}).after
      (s.cmdsOf i).all fun p => !(decide (p.2.idx < c.idx) && after.testBit (c.idx - 1 - p.2.idx)) ||
        (p.2.st == .finished && !wideDue (r.cmds.getD p.2.idx {}) p.2)

/-! ### The close -/

/-- The lowest free lane of a Recipe (R664). -/
def State.freeLane (s : State) (slot : Nat) (r : Recipe) : Option Nat :=
  if r.lanes = 0 then none
  else (List.range r.lanes).find? fun n => !s.ldg.wb.any fun p => p.2.recipe == slot && p.2.lane == some n

/-- An admitted waybill moves to RUNNING when it is still FILED (R98, R113, R815, R817, R957). -/
def State.join (s : State) (i : Nat) : State :=
  match s.wb? i with
  | none => s
  | some w =>
    match s.recipe? w.recipe with
    | none => s
    | some r =>
      if w.st != .filed then s
      else
        let ran := BitVec.ofNat 32 (s.tck.num.toNat - w.filedTick.toNat)
        let vers := r.tables.map fun t => (t.table, ((s.table? t.table).map (·.bver)).getD 0)
        let bad := match w.replay with
          | none => false
          | some p => !p.noVersionCheck && p.versions.any fun v => ((s.table? v.1).map (·.bver)) != some v.2
        let w := { w with
          st := .running, firstRun := some (w.firstRun.getD ran), lastRun := ran, lane := s.freeLane w.recipe r
          runKey := match w.replay with | some p => p.runKey | none => stir (s.ldg.keySeed + s.ldg.keyCount)
          runVersions := vers, mixed := bad }
        let s := s.mLdg fun l => { l with wb := mapSet l.wb i w, keyCount := if w.replay.isSome then l.keyCount else l.keyCount + 1 }
        let s := s.trace 3 (fnDie w.fn) (some w.ctx) w.cmdId (s.handle i + w.killCount * 2 ^ 32)
        (s.startWb i w).mCvn fun v => { v with admittedN := v.admittedN + 1 }

/-- The Stoker answers a snapshot waybill at its last admissible tick that the caravan did not admit (R68). -/
def State.noCapacity (s : State) (i : Nat) : State :=
  match s.wb? i with
  | none => s
  | some w => if w.st == .filed && w.lastTick == (s.tck.num.toNat : Int) then s.fallback i w 5 else s

/-- CARAVAN_CLOSE (R67, R68, R957): assembly ends, or its window does. -/
def execCaravanClose (s : State) : Host.Outcome State Fault Refusal :=
  if !s.live || s.cvn.heads.isEmpty then .next s
  else
    let s := s.assemble (s.asmLimit + 12)
    let byWindow := s.cvn.assembling
    let used := if byWindow then s.admitNs else (s.cvn.examined + 1) / 2 * 5 / 6
    let picked := s.cvn.chosen.reverse
    let snap := s.cvn.snapshot
    let s := s.mCvn fun v => { v with
      assembling := false, heads := [], chosen := [], snapshot := [], closedByWindow := byWindow, close100 := used / 100, admittedN := 0 }
    let s := picked.foldl State.join s
    .next (snap.foldl State.noCapacity s)

/-- GUARD_BAND_START (R47, R958): caravan commands not yet dispatched are withdrawn. -/
def execGuardBandStart (s : State) : Host.Outcome State Fault Refusal :=
  if !s.live then .next s
  else
    let isIdle (c : Cmd) : Bool := c.waybill.isSome && c.st == .admitted
    let n := (s.stk.cmds.filter fun p => isIdle p.2).length
    .next ((s.mStk fun k => { k with cmds := k.cmds.map fun p => (p.1, if isIdle p.2 then { p.2 with st := .withdrawn } else p.2) }).mCvn
      fun v => { v with withdrawn := v.withdrawn + BitVec.ofNat 32 n })

/-! ### Kills at a boundary -/

/-- Kill a running waybill at the boundary that begins tick t, counting every command of it (R50, R54, R958). -/
def State.boundaryKillWb (s : State) (i t : Nat) : State :=
  let n := (s.cmdsOf i).length
  ((s.killRun i 0).mCvn fun v => { v with kills := v.kills + BitVec.ofNat 32 n, killedNow := v.killedNow + n }).afterKill i t

/-- Kill a command outside a waybill at the end of its span (R50); the kill counts when the command is tick-bound (R48). -/
def State.spanKill (bound : Bool) (s : State) (cid : Nat) : State :=
  match s.cmd? cid with
  | none => s
  | some c =>
    if c.st == .withdrawn then s
    else
      let s := (s.killCmd cid 3).mCmd cid fun x => { x with st := .withdrawn }
      if bound then s.mCvn fun v => { v with kills := v.kills + 1, killedNow := v.killedNow + 1 } else s

/-- Kill a BULK or UPKEEP command if that is not done, and answer it EXPIRED (R675, R841). -/
def State.expire (s : State) (cid : Nat) : State :=
  match s.cmd? cid with
  | none => s
  | some c => ((s.spanKill false cid).answerCmd cid c 0xC 0).mFn c.fn fun f => { f with expired := f.expired + 1 }

/-- The Engine commands outside waybills whose span ends at the boundary that begins tick t, or all of them. -/
def State.spanEnded (s : State) (t : Nat) (all : Bool) : List Nat :=
  (s.stk.cmds.filter fun p => p.2.waybill.isNone && opKind p.2.opcode == some 3 && (all || decide (p.2.spanEnd ≠ 0 ∧ p.2.spanEnd ≤ t))).map (·.1)

/-- SPAN_EXPIRY (R49, R675): commands whose span has ended are answered EXPIRED. -/
def execSpanExpiry (s : State) : Host.Outcome State Fault Refusal :=
  if s.live then .next ((s.spanEnded s.tck.num.toNat false).foldl State.expire s) else .next s

end Sys2Proof.Machine
end

