-- ==== Sys2Proof/Machine/Operands.lean ====
section
/-!
DEFINITION. The 64-bit instruction word (R380 to R383): its fields, which encodings are defined, and the registers that
an instruction names; the scalar and vector registers of a group (R384 to R388).
-/
namespace Sys2Proof.Machine

/-! ### Fields (R381, R382) -/

/-- CLASS. -/
def wCls (w : Nat) : Nat := w % 16
/-- FUNC. -/
def wFunc (w : Nat) : Nat := bits w 11 4
/-- Z: masked lanes become 0 (R388). -/
def wZ (w : Nat) : Bool := bit w 12
/-- SB: operand B is a scalar register. -/
def wSb (w : Nat) : Bool := bit w 13
/-- VD, and VBASE of format G. -/
def wVd (w : Nat) : Nat := bits w 23 16
/-- VA. -/
def wVa (w : Nat) : Nat := bits w 31 24
/-- VB of format V. -/
def wVb (w : Nat) : Nat := bits w 39 32
/-- VC of format V, VB of format A and VAUX of format G. -/
def wVc (w : Nat) : Nat := bits w 47 40
/-- VC of format A. -/
def wAc (w : Nat) : Nat := bits w 55 48
/-- RMODE. -/
def wRmode (w : Nat) : Nat := bits w 49 48
/-- FMT of format V. -/
def wFmt (w : Nat) : Nat := bits w 52 50
/-- IMM32 or OFFS of format B. -/
def wImm (w : Nat) : Nat := bits w 63 32
/-- SD of format S, SA of format B. -/
def wS0 (w : Nat) : Nat := bits w 19 16
/-- SA of format S, SB of format B. -/
def wS1 (w : Nat) : Nat := bits w 23 20
/-- SB of format S, COND of format B, GMASK of format G. -/
def wS2 (w : Nat) : Nat := bits w 27 24
/-- SBASE. -/
def wSbase (w : Nat) : Nat := bits w 35 32
/-- MODE. -/
def wMode (w : Nat) : Bool := bit w 36
/-- SIZE. -/
def wSize (w : Nat) : Nat := bits w 39 37
/-- CH. -/
def wCh (w : Nat) : Nat := bits w 41 40
/-- SX. -/
def wSx (w : Nat) : Bool := bit w 42
/-- OFFS of format M, signed. -/
def wOffs (w : Nat) : Int := toS 20 (bits w 63 44)
/-- W of format A. -/
def wWide (w : Nat) : Bool := bit w 37
/-- RET of format A. -/
def wRet (w : Nat) : Bool := bit w 38
/-- SA of format G. -/
def wGsa (w : Nat) : Nat := bits w 31 28
/-- FMT of format G. -/
def wGfmt (w : Nat) : Nat := bits w 34 32
/-- ACC. -/
def wAcc (w : Nat) : Bool := bit w 35
/-- OUTFMT: F16. -/
def wOut16 (w : Nat) : Bool := bit w 36
/-- BCAST. -/
def wBcast (w : Nat) : Nat := bits w 49 48
/-- P of class 0x5 (R397). -/
def wP (w : Nat) : Nat := bits w 43 40
/-- SRCFMT of class 0x5. -/
def wSrc (w : Nat) : Nat := bits w 46 44

/-! ### Which encodings are defined (R382, R383, R392 to R430) -/

/-- The mask of bits hi:lo. -/
def span (hi lo : Nat) : Nat := (2 ^ (hi + 1 - lo) - 1) * 2 ^ lo

/-- One operation: CLASS, FUNC, the bits of 63:16 that it uses, and whether it has an operand B. -/
structure Enc where
  /-- CLASS -/
  cls : Nat
  /-- FUNC -/
  func : Nat
  /-- bits used -/
  used : Nat
  /-- takes an operand B from VB -/
  hasB : Bool := false
  deriving DecidableEq, Repr

/-- Bits of SD and SA. -/
def kDA : Nat := span 23 16
/-- Bits of SD, SA and SB. -/
def kDAB : Nat := span 27 16
/-- Bits of IMM32. -/
def kImm : Nat := span 63 32
/-- Bits of VD and VA. -/
def kV2 : Nat := span 31 16
/-- Bits of VD, VA and VB. -/
def kV3 : Nat := span 39 16
/-- Bits of VD, VA, VB and VC. -/
def kV4 : Nat := span 47 16

/-- Rows of one class whose FUNC codes rise from a first one. -/
def encRows (cls first : Nat) (l : List (Nat × Bool)) : List Enc :=
  (List.range l.length).map fun i => { cls := cls, func := first + i, used := (l.getD i (0, false)).1, hasB := (l.getD i (0, false)).2 }

/-- Scalar and control operations (R392). -/
def encScalar : List Enc :=
  encRows 0 0 ([kDA, span 19 16 + kImm, kDA + kImm, kDAB, kDA + kImm, kDAB, kDAB, kDAB, kDAB, kDAB, kDAB, kDAB, kDAB, kDAB, kDA, kDA,
    span 19 16, span 23 20, span 19 16 + span 39 32, span 19 16, kDAB + span 35 32].map fun m => (m, false)) ++
  encRows 1 0 ([kDAB + kImm, span 19 16, span 23 20 + kImm].map fun m => (m, false))

/-- Vector integer operations: class 0x2, and class 0x4 with IMM32 as operand B (R394). -/
def encVector : List Enc :=
  encRows 2 0 (List.replicate 5 (kV3, true) ++ [(kV4, true)] ++ List.replicate 10 (kV3, true) ++ List.replicate 3 (kV2, false) ++
    List.replicate 3 (kV4, true) ++ [(kV2, false), (span 23 16, false)]) ++
  encRows 4 0 (List.replicate 16 (kV2 + kImm, false) ++ List.replicate 3 (kV2, false) ++ List.replicate 2 (kV2 + kImm, false))

/-- Vector float, conversion and cross-lane operations (R395 to R400). -/
def encFloat : List Enc :=
  let rf := span 52 48
  let f := span 52 50
  encRows 3 0 [(kV3 + rf, true), (kV3 + rf, true), (kV3 + rf, true), (kV4 + rf, true), (kV3 + rf, true), (kV2 + rf, false), (kV3 + f, true),
    (kV3 + f, true), (kV2 + f, false), (kV2 + f, false), (kV2 + rf, false), (kV2 + rf, false), (kV2 + rf, false), (kV2 + rf, false),
    (kV4 + f, true)] ++
  encRows 5 0 ([span 46 16 + rf, kV2 + rf, span 46 16 + span 49 48, span 23 16 + span 43 32].map fun m => (m, false)) ++
  encRows 6 0 [(kV3, true), (kV2 + span 35 32, false)]

/-- Memory, local store and atomic operations (R401 to R416). -/
def encMemory : List Enc :=
  encRows 7 0 ([span 42 16 + span 63 44, span 41 16 + span 63 44, span 36 24 + span 41 40 + span 63 44].map fun m => (m, false)) ++
  encRows 8 0 ([span 39 16 + span 42 42 + span 63 44, span 39 16 + span 63 44].map fun m => (m, false)) ++
  encRows 9 0 (List.replicate 9 (span 38 16 + span 47 40, false) ++ [(span 38 16 + span 55 40, false), (span 36 16 + span 38 38 + span 47 40, false)])

/-- Tile, sync and system operations (R417 to R430). -/
def encTile : List Enc :=
  encRows 10 0 ([span 27 24, span 27 24, span 34 16, span 35 16, span 27 16 + span 36 36].map fun m => (m, false)) ++
  encRows 11 0 ((List.replicate 5 (span 23 16 + span 34 32 + span 49 40) ++ List.replicate 2 (span 23 16 + span 34 32)).map fun m => (m, false)) ++
  encRows 12 0 ([span 17 16, 0].map fun m => (m, false)) ++
  encRows 13 0 ([0, 0, span 47 32, span 38 32].map fun m => (m, false))

/-- Every operation of the instruction set. -/
def encTable : List Enc := encScalar ++ encVector ++ encFloat ++ encMemory ++ encTile

/-- The operation of a word, when CLASS and FUNC name one. -/
def encOf (w : Nat) : Option Enc := encTable.find? fun e => e.cls == wCls w && e.func == wFunc w

/-- The values that an operation's own table allows its fields. -/
def fieldsOk (w : Nat) : Bool :=
  let f := wFunc w
  match wCls w with
  | 0 => (f != 0x12 || decide (bits w 39 32 ≤ 0x0D)) && (f != 0x14 || decide (bits w 35 32 ≤ 7))
  | 1 => f != 0 || decide (wS2 w ≤ 7)
  | 2 => (if f = 0x13 ∨ f = 0x14 then decide (wVd w < 16 ∧ wVc w < 6) else true) && (f != 0x15 || decide (wVc w < 16))
  | 3 => decide (wFmt w < 2) && (if f = 0x0E then decide (wVd w < 16 ∧ wVc w < 6) else true) && wRmode w != 3
  | 4 => if f = 0x13 ∨ f = 0x14 then decide (wVd w < 16) else true
  | 5 =>
    let src := wSrc w
    let dst := wFmt w
    wRmode w != 3 && (f == 3 || wRmode w == 1 || wVb w == 0) &&
    (match f with
      | 0 => decide (src ≤ 4 ∧ dst ≤ 4) && (decide (src < 2) || (dst == 1 && wRmode w == 0))
      | 1 => decide (dst < 2)
      | 2 => decide (src < 2)
      | _ => true)
  | 6 => f == 0 || decide (wVd w < 16)
  | 7 => decide (wCh w < 3) && (wMode w || wSbase w == 0) && decide (wSize w < 5) && (!wSx w || decide (wSize w < 2))
  | 8 => wMode w && decide (wSize w < 5) && (!wSx w || decide (wSize w < 2))
  | 9 => (wMode w || wSbase w == 0) && (wRet w || wVd w == 0)
  | 10 => (if f = 2 ∨ f = 3 then decide (wGfmt w ≤ 4 ∧ (2 ≤ wGfmt w ∨ wGsa w = 0)) else true) &&
      (f != 4 || wS2 w ∈ [1, 2, 4, 8])
  | 11 => wGfmt w == 1 && wBcast w != 3
  | _ => true

/-- The encoding is defined and every field that it does not use is 0 (R381 to R383). -/
def legal (w : Nat) : Bool :=
  match encOf w with
  | none => false
  | some e =>
    bits w 15 14 == 0 && (w / 65536 * 65536 &&& e.used) == w / 65536 * 65536 && (!wSb w || (e.hasB && decide (wVb w < 16))) && fieldsOk w

/-! ### Registers that an instruction names (R384) -/

/-- Registers of an access of a size code (R401). -/
def sizeRegs (size : Nat) : Nat := if size = 3 then 2 else if size = 4 then 4 else 1

/-- Registers of a tile in a format (R421). -/
def tileRegs (fmt : Nat) : Nat := if fmt = 0 then 16 else if fmt = 1 then 8 else if fmt = 4 then 2 else 4

/-- A run of n registers. -/
def run (base n : Nat) : List Nat := (List.range n).map (base + ·)

/-- The vector registers that a defined instruction reads or writes. -/
def regsOf (w : Nat) : List Nat :=
  let f := wFunc w
  let b := if (((encOf w).map (·.hasB)).getD false) && !wSb w then [wVb w] else []
  match wCls w with
  | 2 => (if f = 0x17 then [] else [wVa w]) ++ b ++ (if f = 5 then [wVc w] else []) ++ (if f = 0x13 ∨ f = 0x14 then [] else [wVd w])
  | 3 => [wVa w] ++ b ++ (if f = 3 then [wVc w] else []) ++ (if f = 0x0E then [] else [wVd w])
  | 4 => [wVa w] ++ (if f = 0x13 ∨ f = 0x14 then [] else [wVd w])
  | 5 => (if f = 3 then [] else [wVa w]) ++ (if f = 3 ∨ (wRmode w = 1 ∧ f ≠ 1) then run (wVb w) 2 else []) ++ [wVd w]
  | 6 => [wVa w] ++ b ++ (if f = 0 then [wVd w] else [])
  | 7 => run (wVa w) (if wMode w then 1 else 2) ++ (if f = 2 then [] else run (wVd w) (sizeRegs (wSize w)))
  | 8 => [wVa w] ++ run (wVd w) (sizeRegs (wSize w))
  | 9 =>
    let n := if wWide w then 2 else 1
    run (wVa w) (if wMode w then 1 else 2) ++ run (wVc w) n ++ (if f = 9 then run (wAc w) n else []) ++ (if wRet w then run (wVd w) n else [])
  | 10 => if f = 2 ∨ f = 3 then run (wVd w) (tileRegs (wGfmt w)) else if f = 4 then run (wVd w) (if wOut16 w then 8 else 16) else []
  | 11 => run (wVd w) 8 ++ (if f < 5 then run (wVc w) (if wBcast w = 2 then 1 else 8) else [])
  | _ => []

/-! ### The registers of a group (R384 to R388) -/

/-- A scalar register; S0 reads 0 (R385). -/
def Group.sget (g : Group) (n : Nat) : Nat := if n = 0 then 0 else (mapGetD g.sregs n 0).toNat

/-- Write a scalar register; writes to S0 are discarded (R385). -/
def Group.sset (g : Group) (n v : Nat) : Group := if n = 0 then g else { g with sregs := mapSet g.sregs n (BitVec.ofNat 64 v) }

/-- A vector register, the values of its 64 threads. -/
def Group.vget (g : Group) (n : Nat) : List Nat := (mapGetD g.vregs n (List.replicate 64 0)).map (·.toNat)

/-- The value of a vector register in one thread. -/
def Group.vat (g : Group) (n t : Nat) : Nat := ((mapGetD g.vregs n []).getD t 0).toNat

/-- Write a vector register's active threads; the others keep their values or become 0 (R388). -/
def Group.vset (g : Group) (z : Bool) (n : Nat) (f : Nat → Nat) : Group :=
  let old := mapGetD g.vregs n []
  { g with vregs := mapSet g.vregs n ((List.range 64).map fun t =>
      if g.exec.getLsbD t then BitVec.ofNat 32 (f t) else if z then 0 else old.getD t 0) }

/-- Write all 64 threads of a vector register. -/
def Group.vsetAll (g : Group) (n : Nat) (f : Nat → Nat) : Group :=
  { g with vregs := mapSet g.vregs n ((List.range 64).map fun t => BitVec.ofNat 32 (f t)) }

/-- The active threads, in ascending order (R355). -/
def Group.active (g : Group) : List Nat := (List.range 64).filter fun t => g.exec.getLsbD t

/-- Operand B of a thread: a scalar register's low half, or VB (R381). -/
def Group.opB (g : Group) (w t : Nat) : Nat := if wSb w then g.sget (bits w 35 32) % 2 ^ 32 else g.vat (wVb w) t

/-- The mask of a list of threads. -/
def threadMask (l : List Nat) : Nat := (l.map (2 ^ ·)).sum

/-- The effective address of a thread (R402, R413). -/
def Group.addr (g : Group) (w t : Nat) (offs : Int) : Nat :=
  if wMode w then ofS 64 ((g.sget (wSbase w) : Int) + toS 32 (g.vat (wVa w) t) + offs)
  else ofS 64 (((g.vat (wVa w + 1) t * 2 ^ 32 + g.vat (wVa w) t : Nat) : Int) + offs)

/-- The local store address of a thread, signed (R409). -/
def Group.lsAddr (g : Group) (w t : Nat) : Int := toS 64 (g.sget (wSbase w)) + toS 32 (g.vat (wVa w) t) + wOffs w

end Sys2Proof.Machine
end

