-- ==== Sys2Proof/Machine/Flags.lean ====
section
/-!
DEFINITION. The group flag register (R154 to R157): the bits are those of Machine/Numerics.lean.
-/
namespace Sys2Proof.Machine

/-- OR the flags of an instruction's active lanes into the group flag register (R155). -/
def Group.orFlags (g : Group) (fl : Nat) : Group := { g with flags := g.flags ||| BitVec.ofNat 7 fl }

/-- The OR of the flags of several lanes. -/
def orAll (l : List Nat) : Nat := l.foldl (· ||| ·) 0

/-- Clear the flags that a mask names (R155, R430). -/
def Group.clearFlags (g : Group) (m : Nat) : Group := { g with flags := g.flags &&& ~~~ BitVec.ofNat 7 m }

end Sys2Proof.Machine
end

