-- ==== Sys2Proof/Config.lean ====
section
/-!
DEFINITION. The free values: constants without a body, so that no proof can see what they are.
-/
namespace Sys2Proof

/-- SHA-384 digest of the Warden's mask ROM (R869, assumption 24). -/
opaque Config.romDigest : List Byte

/-- A free value (assumption 5), of any use, by a plain counter. -/
opaque Config.freeValue : Nat → BitVec 64

/-- How far an approximated function lies from the correctly rounded result, 0 to 4 for -2 to 2 units in the last place,
by function, format and operand (R178, assumption 5). -/
opaque Config.approxStep : Nat → Nat → Nat → Fin 5

/-- The counter of a Serai's access log that a span addresses, by tier and span (R324, assumption 5). -/
opaque Config.aclHash : Nat → Nat → Fin 65536

end Sys2Proof
end

