-- ==== Sys2Proof/Machine/Numerics.lean ====
section
/-!
DEFINITION. Number formats, rounding, conversions, the Rescale operation and the arithmetic flags (R130 to R149, R154,
R956), and the approximated functions within the bound of R178. A result is a pair: the bit pattern and the flags.
-/
namespace Sys2Proof.Machine

/-! ### Flags (R154) -/

/-- Invalid operation. -/
def flNV : Nat := 1
/-- Division by zero. -/
def flDZ : Nat := 2
/-- Overflow. -/
def flOF : Nat := 4
/-- Underflow. -/
def flUF : Nat := 8
/-- Inexact. -/
def flNX : Nat := 16
/-- Clipped. -/
def flCL : Nat := 32
/-- Non-finite output. -/
def flNF : Nat := 64

/-- One flag when a condition holds. -/
def flIf (c : Bool) (f : Nat) : Nat := if c then f else 0

/-! ### Values and patterns -/

/-- What a pattern stands for: a finite magnitude m · 2^e with its sign, an infinity, or a NaN. -/
inductive FVal where
  | fin (neg : Bool) (m : Nat) (e : Int)
  | inf (neg : Bool)
  | nan (signalling : Bool)
  deriving DecidableEq, Repr

/-- A binary format: exponent bits, fraction bits, bias, the largest exponent field of a finite value. -/
structure FFmt where
  /-- format code (R130) -/
  code : Nat
  /-- exponent bits -/
  eb : Nat
  /-- fraction bits -/
  mb : Nat
  /-- bias -/
  bias : Int
  /-- largest exponent field of a finite value -/
  top : Nat
  deriving DecidableEq, Repr

/-- The formats of R130 and R135; a code of an integer format is not asked. -/
def ffmt (code : Nat) : FFmt :=
  if code = 0 then ⟨0, 8, 23, 127, 254⟩ else if code = 1 then ⟨1, 5, 10, 15, 30⟩ else ⟨2, 4, 3, 7, 15⟩

/-- The sign bit. -/
def FFmt.sbit (f : FFmt) : Nat := 2 ^ (f.eb + f.mb)

/-- The canonical NaN (R133). -/
def FFmt.qnan (f : FFmt) : Nat := if f.code = 0 then 0x7FC00000 else if f.code = 1 then 0x7E00 else 0x80

/-- An infinity. -/
def FFmt.infBits (f : FFmt) (neg : Bool) : Nat := (if neg then f.sbit else 0) + (2 ^ f.eb - 1) * 2 ^ f.mb

/-- The largest finite value. -/
def FFmt.maxBits (f : FFmt) (neg : Bool) : Nat := (if neg then f.sbit else 0) + f.top * 2 ^ f.mb + (2 ^ f.mb - 1)

/-- Read a pattern (R132, R135). -/
def FFmt.dec (f : FFmt) (v : Nat) : FVal :=
  let neg := v.testBit (f.eb + f.mb)
  let e := v / 2 ^ f.mb % 2 ^ f.eb
  let m := v % 2 ^ f.mb
  if f.code = 2 ∧ v % 256 = 0x80 then .nan false
  else if f.top < e then (if m = 0 then .inf neg else .nan (!m.testBit (f.mb - 1)))
  else if e = 0 then .fin neg m (1 - f.bias - f.mb)
  else .fin neg (m + 2 ^ f.mb) (e - f.bias - f.mb)

/-- The bits of a format code's elements. -/
def fmtBits (code : Nat) : Nat := if code = 0 then 32 else if code = 1 then 16 else if code = 4 then 4 else 8

/-- The integer value of a Q8 or Q4 element (R136, R137). -/
def qval (code v : Nat) : Int := if code = 4 then toS 4 v else toS 8 v

/-- Read an element of any format (R130). -/
def fdec (code v : Nat) : FVal :=
  if code = 3 ∨ code = 4 then .fin (decide (qval code v < 0)) (qval code v).natAbs 0 else (ffmt code).dec v

/-- An element that is a NaN or an infinity (R159). -/
def nonfinite (code v : Nat) : Bool := match fdec code v with | .fin _ _ _ => false | _ => true

/-! ### Rounding (R138 to R140) -/

/-- How a result is rounded: RMODE and bits 63:48 of the generator output. -/
structure Rnd where
  /-- RMODE (R138) -/
  mode : Nat := 0
  /-- bits 63:48 of r (R140) -/
  draw : Nat := 0
  deriving DecidableEq, Repr

/-- Round to nearest, ties to even. -/
def rne : Rnd := {}

/-- A magnitude m rounded to a multiple of 2^sh: the multiple and whether it is inexact (R138, R140). -/
def roundSh (r : Rnd) (m sh : Nat) : Nat × Bool :=
  let n := m / 2 ^ sh
  let rem := m % 2 ^ sh
  if rem = 0 then (n, false)
  else
    let up := match r.mode with
      | 0 => decide (2 ^ sh < 2 * rem) || (decide (2 ^ sh = 2 * rem) && n % 2 == 1)
      | 1 => decide (r.draw < rem * 65536 / 2 ^ sh)
      | _ => false
    (if up then n + 1 else n, true)

/-- A magnitude m · 2^e rounded to a multiple of 2^q. -/
def roundAt (r : Rnd) (m : Nat) (e q : Int) : Nat × Bool :=
  if q ≤ e then (m * 2 ^ (e - q).toNat, false) else roundSh r m (q - e).toNat

/-- Round a value into a format (R139, R141, R154, R956): `conv` selects the rule of UF for conversions. -/
def FFmt.round (f : FFmt) (r : Rnd) (conv neg : Bool) (m : Nat) (e : Int) : Nat × Nat :=
  let sgn := if neg then f.sbit else 0
  let zero := if f.code = 2 then 0 else sgn
  if m = 0 then (zero, 0)
  else
    let emin : Int := 1 - f.bias
    let k : Int := m.log2 + e
    let q : Int := max k emin - f.mb
    let (n, nx) := roundAt r m e q
    let big := decide (2 ^ (f.mb + 1) ≤ n)
    let n := if big then n / 2 else n
    let q := if big then q + 1 else q
    let fl := flIf nx flNX
    let fl := fl + flIf (!conv && nx && decide (k < emin) &&
      decide (k + (if 2 ^ (f.mb + 1) ≤ (roundAt r m e (k - f.mb)).1 then 1 else 0) < emin)) flUF
    if n = 0 then (zero, fl)
    else
      let ef : Int := if 2 ^ f.mb ≤ n then q + f.mb + f.bias else 0
      if (f.top : Int) < ef then
        if f.code = 2 then (sgn + 0x7F, fl ||| flCL ||| flNX)
        else if r.mode = 2 then (f.maxBits neg, fl ||| flOF ||| flNX) else (f.infBits neg, fl ||| flOF ||| flNX)
      else (sgn + ef.toNat * 2 ^ f.mb + n % 2 ^ f.mb, fl + flIf (conv && nx && decide (n < 2 ^ f.mb)) flUF)

/-- Round a value to an integer of a range: the integer, whether inexact, whether it saturated. -/
def roundInt (r : Rnd) (neg : Bool) (m : Nat) (e lo hi : Int) : Int × Bool × Bool :=
  let (n, nx) := roundAt r m e 0
  let v : Int := if neg then -(n : Int) else n
  if v < lo then (lo, nx, true) else if hi < v then (hi, nx, true) else (v, nx, false)

/-- Convert a value to a Q8 or Q4 element (R141, R956). -/
def toQ (code : Nat) (r : Rnd) : FVal → Nat × Nat
  | .nan _ => (0, flNV)
  | .inf neg => (ofS (fmtBits code) (if neg then -(2 ^ (fmtBits code - 1)) else 2 ^ (fmtBits code - 1) - 1), flCL ||| flNX)
  | .fin neg m e =>
    let (v, nx, sat) := roundInt r neg m e (-(2 ^ (fmtBits code - 1))) (2 ^ (fmtBits code - 1) - 1)
    (ofS (fmtBits code) v, flIf sat (flCL ||| flNX) ||| flIf nx flNX)

/-- A NaN's flag when it is signalling (R134). -/
def sigFlag : FVal → Nat
  | .nan true => flNV
  | _ => 0

/-- Convert an F16 or F32 pattern to a format, with block exponent k for a narrow one (R141). -/
def convF (src v dst : Nat) (r : Rnd) (k : Int) : Nat × Nat :=
  let x := (ffmt src).dec v
  if dst = 3 ∨ dst = 4 then
    match x with
    | .fin neg m e => toQ dst r (.fin neg m (e - k))
    | y => let t := toQ dst r y; (t.1, t.2 ||| sigFlag x)
  else
    match x with
    | .fin neg m e => (ffmt dst).round r true neg m (if dst = 2 then e - k else e)
    | .inf neg => if dst = 2 then ((if neg then 0xFF else 0x7F), flCL ||| flNX) else ((ffmt dst).infBits neg, 0)
    | .nan _ => ((ffmt dst).qnan, (if dst = 2 then flNV else 0) ||| sigFlag x)

/-! ### Integer images and Rescale (R144 to R149) -/

/-- A scale entry (R144). -/
structure Scale where
  /-- M -/
  m : Int := 1
  /-- S -/
  s : Nat := 0
  /-- E -/
  e : Int := 0
  deriving DecidableEq, Repr

/-- Read a scale entry. -/
def Scale.ofNat (v : Nat) : Scale := { m := toS 32 (v % 2 ^ 32), s := v / 2 ^ 32 % 64, e := toS 8 (v / 2 ^ 40 % 256) }

/-- The 8 bytes of a scale entry, as a number. -/
def Scale.toNat (x : Scale) : Nat := ofS 32 x.m + x.s * 2 ^ 32 + ofS 8 x.e * 2 ^ 40

/-- The integer image of an element, none for a NaN or an infinity (R145). -/
def image (code v : Nat) : Option Int :=
  match fdec code v with
  | .fin neg m e =>
    let n : Nat := m * 2 ^ (e + (if code = 2 then 9 else if code = 1 then 24 else 0)).toNat
    some (if neg then -(n : Int) else n)
  | _ => none

/-- Floor of a signed number by 2^n, n of either sign. -/
def shiftR (v : Int) (n : Int) : Int := if 0 ≤ n then v / 2 ^ n.toNat else v * 2 ^ (-n).toNat

/-- The exact product rounded by R147 before its saturation. -/
def rescaleY (acc m s : Int) : Int := shiftR (acc * m + (if 0 < s then 2 ^ (s - 1).toNat else 0)) s

/-- y · 2^e rounded to F16, never an infinity (R147 to R149). -/
def rescaleOut (y e : Int) : Nat × Nat :=
  if y = 0 then (0, 0)
  else
    let t := (ffmt 1).round rne true (decide (y < 0)) y.natAbs e
    if t.2 / 4 % 2 = 1 then ((ffmt 1).maxBits (decide (y < 0)), (t.2 - flOF) ||| flCL) else t

/-- The Rescale operation (R147 to R149). -/
def rescale (acc : Int) (x : Scale) : Nat × Nat :=
  let y := rescaleY acc x.m x.s
  let z := satS 32 y
  let t := rescaleOut z x.e
  (t.1, t.2 ||| flIf (z != y) (flCL ||| flNX))

/-- The decoded F16 value of an element (R141, R145); an F16 element is itself. -/
def decodeElem (code v : Nat) (x : Scale) : Nat × Nat :=
  if code = 1 then (v, 0)
  else match image code v with
    | some i => rescale i x
    | none => (0x7E00, 0)

/-! ### Correctly rounded arithmetic (R395, R476) -/

/-- The exact sum of two finite values; a zero sum is negative only when both are (IEEE 754). -/
def addFin (f : FFmt) (r : Rnd) (na : Bool) (ma : Nat) (ea : Int) (nb : Bool) (mb : Nat) (eb : Int) : Nat × Nat :=
  let e := min ea eb
  let a : Int := (if na then -(ma : Int) else ma) * 2 ^ (ea - e).toNat
  let b : Int := (if nb then -(mb : Int) else mb) * 2 ^ (eb - e).toNat
  f.round r false (decide (a + b < 0) || (a + b == 0 && na && nb)) (a + b).natAbs e

/-- x + y. -/
def addV (f : FFmt) (r : Rnd) (x y : FVal) : Nat × Nat :=
  match x, y with
  | .nan _, _ => (f.qnan, sigFlag x ||| sigFlag y)
  | _, .nan _ => (f.qnan, sigFlag x ||| sigFlag y)
  | .inf a, .inf b => if a == b then (f.infBits a, 0) else (f.qnan, flNV)
  | .inf a, _ => (f.infBits a, 0)
  | _, .inf b => (f.infBits b, 0)
  | .fin na ma ea, .fin nb mb eb => addFin f r na ma ea nb mb eb

/-- The value with its sign turned. -/
def negV : FVal → FVal
  | .fin n m e => .fin (!n) m e
  | .inf n => .inf (!n)
  | x => x

/-- The exact product, and NV for zero times infinity. -/
def mulV (x y : FVal) : FVal × Nat :=
  match x, y with
  | .nan _, _ => (.nan false, sigFlag x ||| sigFlag y)
  | _, .nan _ => (.nan false, sigFlag x ||| sigFlag y)
  | .inf a, .inf b => (.inf (a != b), 0)
  | .inf a, .fin b m _ => if m = 0 then (.nan false, flNV) else (.inf (a != b), 0)
  | .fin a m _, .inf b => if m = 0 then (.nan false, flNV) else (.inf (a != b), 0)
  | .fin na ma ea, .fin nb mb eb => (.fin (na != nb) (ma * mb) (ea + eb), 0)

/-- Round a value. -/
def roundV (f : FFmt) (r : Rnd) : FVal → Nat × Nat
  | .fin n m e => f.round r false n m e
  | .inf n => (f.infBits n, 0)
  | .nan _ => (f.qnan, 0)

/-- A quotient of magnitudes with a sticky lowest bit, as m · 2^e. -/
def quot (ma : Nat) (ea : Int) (mb : Nat) (eb : Int) : Nat × Int :=
  let k := 240 + mb.log2
  (2 * (ma * 2 ^ k / mb) + (if ma * 2 ^ k % mb = 0 then 0 else 1), ea - eb - k - 1)

/-- x / y. -/
def divV (f : FFmt) (r : Rnd) (x y : FVal) : Nat × Nat :=
  match x, y with
  | .nan _, _ => (f.qnan, sigFlag x ||| sigFlag y)
  | _, .nan _ => (f.qnan, sigFlag x ||| sigFlag y)
  | .inf _, .inf _ => (f.qnan, flNV)
  | .inf a, .fin b _ _ => (f.infBits (a != b), 0)
  | .fin a _ _, .inf b => f.round r false (a != b) 0 0
  | .fin na ma ea, .fin nb mb eb =>
    if mb = 0 then (if ma = 0 then (f.qnan, flNV) else (f.infBits (na != nb), flDZ))
    else
      let (m, e) := quot ma ea mb eb
      f.round r false (na != nb) m e

/-- The integer square root, bit by bit from bit n - 1. -/
def isqrt (v : Nat) : Nat → Nat → Nat
  | 0, a => a
  | n + 1, a => if (a + 2 ^ n) * (a + 2 ^ n) ≤ v then isqrt v n (a + 2 ^ n) else isqrt v n a

/-- A square root with a sticky lowest bit. -/
def sqrtM (m : Nat) (e : Int) : Nat × Int :=
  let k : Nat := 240 + (e % 2).toNat
  let v := m * 2 ^ k
  let s := isqrt v (v.log2 / 2 + 1) 0
  (2 * s + (if s * s = v then 0 else 1), (e - k) / 2 - 1)

/-- The square root. -/
def sqrtV (f : FFmt) (r : Rnd) (x : FVal) : Nat × Nat :=
  match x with
  | .nan _ => (f.qnan, sigFlag x)
  | .inf n => if n then (f.qnan, flNV) else (f.infBits false, 0)
  | .fin n m e =>
    if m = 0 then f.round r false n 0 0
    else if n then (f.qnan, flNV)
    else
      let (a, b) := sqrtM m e
      f.round r false false a b

/-- x + y on patterns. -/
def fadd (code : Nat) (r : Rnd) (a b : Nat) : Nat × Nat := addV (ffmt code) r ((ffmt code).dec a) ((ffmt code).dec b)
/-- x - y on patterns. -/
def fsub (code : Nat) (r : Rnd) (a b : Nat) : Nat × Nat := addV (ffmt code) r ((ffmt code).dec a) (negV ((ffmt code).dec b))
/-- x · y on patterns. -/
def fmul (code : Nat) (r : Rnd) (a b : Nat) : Nat × Nat :=
  let p := mulV ((ffmt code).dec a) ((ffmt code).dec b)
  let t := roundV (ffmt code) r p.1
  (t.1, t.2 ||| p.2)
/-- x · y + z rounded once, on patterns. -/
def ffma (code : Nat) (r : Rnd) (a b c : Nat) : Nat × Nat :=
  let p := mulV ((ffmt code).dec a) ((ffmt code).dec b)
  let z := (ffmt code).dec c
  let t := addV (ffmt code) r p.1 z
  (t.1, t.2 ||| (match z with | .nan _ => sigFlag ((ffmt code).dec a) ||| sigFlag ((ffmt code).dec b) ||| sigFlag z | _ => p.2))
/-- x / y on patterns. -/
def fdiv (code : Nat) (r : Rnd) (a b : Nat) : Nat × Nat := divV (ffmt code) r ((ffmt code).dec a) ((ffmt code).dec b)
/-- The square root of a pattern. -/
def fsqrt (code : Nat) (r : Rnd) (a : Nat) : Nat × Nat := sqrtV (ffmt code) r ((ffmt code).dec a)

/-- An order of finite values and infinities, -0 below +0: a number that rises with the value. -/
def FFmt.ord (f : FFmt) (v : Nat) : Int :=
  let w := v % f.sbit
  if v.testBit (f.eb + f.mb) then -(w : Int) - 1 else w

/-- A value is a NaN. -/
def FVal.isNan : FVal → Bool
  | .nan _ => true
  | _ => false

/-- FMIN and FMAX (R396). -/
def fminmax (code : Nat) (wantMax : Bool) (a b : Nat) : Nat × Nat :=
  let f := ffmt code
  let x := f.dec a
  let y := f.dec b
  let fl := sigFlag x ||| sigFlag y
  if x.isNan && y.isNan then (f.qnan, fl)
  else if x.isNan then (b, fl)
  else if y.isNan then (a, fl)
  else if wantMax then ((if f.ord b ≤ f.ord a then a else b), fl)
  else ((if f.ord a ≤ f.ord b then a else b), fl)

/-- A compare of R394 by its code, on an order. -/
def cmpHolds (cond : Nat) (a b : Int) : Bool :=
  match cond with
  | 0 => a == b
  | 1 => a != b
  | 2 => decide (a < b)
  | 3 => decide (a ≤ b)
  | 4 => decide (b < a)
  | _ => decide (b ≤ a)

/-- An order of values in which the two zeros are equal. -/
def FFmt.ordZ (f : FFmt) (v : Nat) : Int := if v % f.sbit = 0 then 0 else f.ord v

/-- FCMP: with a NaN only NE holds (R395). -/
def fcmp (code cond a b : Nat) : Bool × Nat :=
  let f := ffmt code
  let x := f.dec a
  let y := f.dec b
  let fl := sigFlag x ||| sigFlag y
  if x.isNan || y.isNan then (cond == 1, fl) else (cmpHolds cond (f.ordZ a) (f.ordZ b), fl)

/-- A pattern converted to a signed 32-bit integer (R141). -/
def f2i (code : Nat) (r : Rnd) (a : Nat) : Nat × Nat :=
  match (ffmt code).dec a with
  | .nan _ => (0, flNV)
  | .inf n => ((if n then 0x80000000 else 0x7FFFFFFF), flNV)
  | .fin n m e =>
    let (v, nx, sat) := roundInt r n m e (-(2 ^ 31)) (2 ^ 31 - 1)
    (ofS 32 v, if sat then flNV else flIf nx flNX)

/-- A signed 32-bit integer converted to F32 or F16 (R141). -/
def i2f (code : Nat) (r : Rnd) (a : Nat) : Nat × Nat :=
  (ffmt code).round r true (decide (toS 32 a < 0)) (toS 32 a).natAbs 0

/-! ### Approximated functions (R178, R496; assumption 5) -/

/-- ln 2 · 2^160, rounded down. -/
def ln2Fix : Nat := 1013035739299659071135698605846798551586536899366

/-- The terms t^k / k! of the exponential from a term on, in 160-bit fixed point. -/
def expTerms (t : Nat) : Nat → Nat → Nat → Nat
  | 0, _, _ => 0
  | n + 1, k, term => term + expTerms t n (k + 1) (term * t / 2 ^ 160 / k)

/-- 2^(F / 2^160) in 160-bit fixed point. -/
def exp2Frac (fr : Nat) : Nat := expTerms (fr * ln2Fix / 2 ^ 160) 60 1 (2 ^ 160)

/-- The bits of log2 of y / 2^256 in [1, 2), n of them. -/
def log2Bits : Nat → Nat → Nat
  | 0, _ => 0
  | n + 1, y =>
    let q := y * y / 2 ^ 256
    if 2 ^ 257 ≤ q then 2 ^ n + log2Bits n (q / 2) else log2Bits n q

/-- floor(x · 2^160) of a value. -/
def fix160 (neg : Bool) (m : Nat) (e : Int) : Int := shiftR (if neg then -(m : Int) else m) (-(e + 160))

/-- 2^x correctly rounded. -/
def exp2Cr (f : FFmt) (neg : Bool) (m : Nat) (e : Int) : Nat × Nat :=
  if m = 0 then f.round rne false false 1 0
  else
    let big := decide (9 < (m.log2 : Int) + e)
    let x : Int := if big then (if neg then -400 * 2 ^ 160 else 400 * 2 ^ 160) else fix160 neg m e
    let whole : Int := x / 2 ^ 160
    let fr := (x % 2 ^ 160).toNat
    if decide (0 ≤ e) || decide (m % 2 ^ (-e).toNat = 0) then f.round rne false false 1 whole
    else f.round rne false false (2 * exp2Frac fr + 1) (whole - 161)

/-- log2 x correctly rounded, x > 0. -/
def log2Cr (f : FFmt) (m : Nat) (e : Int) : Nat × Nat :=
  let k : Int := m.log2 + e
  if m = 2 ^ m.log2 then f.round rne false (decide (k < 0)) k.natAbs 0
  else
    let fr : Int := log2Bits 180 (m * 2 ^ 256 / 2 ^ m.log2)
    let v : Int := (k * 2 ^ 180 + fr) * 2 + 1
    f.round rne false (decide (v < 0)) v.natAbs (-181)

/-- A correctly rounded finite result moved by at most two units in the last place, as the device delivers it; its flags
follow the value delivered. -/
def approxMove (f : FFmt) (op x : Nat) (t : Nat × Nat) : Nat × Nat :=
  let step := (Config.approxStep op f.code x).val
  let mag := t.1 % f.sbit
  let moved := min (f.infBits false) (mag + step - 2)
  let out := t.1 - mag + moved
  let nx := t.2 / 16 % 2 = 1 || moved != mag
  (out, flIf nx flNX ||| flIf (moved == f.infBits false) flOF ||| flIf (nx && decide (moved < 2 ^ f.mb)) flUF)

/-- A special result stays as it is, and so does an overflow to infinity. -/
def approxFin (f : FFmt) (op x : Nat) (keep : Bool) (t : Nat × Nat) : Nat × Nat :=
  if keep || t.1 % f.sbit == f.infBits false then t else approxMove f op x t

/-- FRCP. -/
def frcp (code x : Nat) : Nat × Nat :=
  let f := ffmt code
  match f.dec x with
  | .fin n m e => if m = 0 then (f.infBits n, flDZ) else approxFin f 0 x false (divV f rne (.fin false 1 0) (.fin n m e))
  | y => divV f rne (.fin false 1 0) y

/-- FRSQ. -/
def frsq (code x : Nat) : Nat × Nat :=
  let f := ffmt code
  match f.dec x with
  | .nan s => (f.qnan, flIf s flNV)
  | .inf n => if n then (f.qnan, flNV) else (0, 0)
  | .fin n m e =>
    if m = 0 then (f.infBits n, flDZ)
    else if n then (f.qnan, flNV)
    else
      let (qm, qe) := quot 1 0 m e
      let (a, b) := sqrtM qm qe
      approxFin f 1 x false (f.round rne false false (if qm % 2 = 1 then a ||| 1 else a) b)

/-- FEXP2; for F32 exact at an integer whose power is normal (R496). -/
def fexp2 (code x : Nat) : Nat × Nat :=
  let f := ffmt code
  match f.dec x with
  | .nan s => (f.qnan, flIf s flNV)
  | .inf n => if n then (0, 0) else (f.infBits false, 0)
  | .fin n m e =>
    let t := exp2Cr f n m e
    approxFin f 2 x (code == 0 && t.2 == 0 && decide (2 ^ f.mb ≤ t.1)) t

/-- FLOG2. -/
def flog2 (code x : Nat) : Nat × Nat :=
  let f := ffmt code
  match f.dec x with
  | .nan s => (f.qnan, flIf s flNV)
  | .inf n => if n then (f.qnan, flNV) else (f.infBits false, 0)
  | .fin n m e =>
    if m = 0 then (f.infBits true, flDZ)
    else if n then (f.qnan, flNV)
    else approxFin f 3 x false (log2Cr f m e)

/-! ### The exponent histogram (R163) -/

/-- The bin of a pattern of F32 or F16. -/
def histBin (code v : Nat) : Nat :=
  match fdec code v with
  | .fin _ m e =>
    if m = 0 then 0
    else
      let ex : Int := m.log2 + e
      if ex ≤ -21 then 1 else if 16 ≤ ex then 38 else (ex + 22).toNat
  | _ => 39

/-- Count the elements of an output into the exponent histogram of its command (R163, R164). -/
def countBins (h : List (Nat × Nat)) (code : Nat) (vs : List Nat) : List (Nat × Nat) :=
  vs.foldl (fun h v => mapMod h (histBin code v) 0 fun n => satAdd 0xFFFFFFFF n 1) h

end Sys2Proof.Machine
end

