-- ==== Sys2Proof/Machine/Tables.lean ====
section
/-!
DEFINITION. Embedding tables (R179 to R231): rows and shards, tiers, the home Serai's reads and writes of a row, the Larder,
Register Table and Deregister Table, the Tally's resolution of identifiers, and the boundary's part in them.
-/
namespace Sys2Proof.Machine

/-! ### Rows and shards -/

/-- Elements of a row of g granules (R181). -/
def rowElems (fmt g : Nat) : Nat := if fmt = 4 then 64 * g else if fmt = 1 then 16 * g else 32 * g

/-- Bytes of a row (R181). -/
def Table.rowBytes (t : Table) : Nat := 32 * t.granules

/-- Elements of a row (R181). -/
def Table.elems (t : Table) : Nat := rowElems t.format t.granules

/-- Bytes of a row's optimiser state (R305). -/
def strideOf (kind elems : Nat) : Nat := if kind = 1 then 2 * elems else if kind = 2 then 32 else if kind = 3 then 2 * elems + 32 else 0

/-- STATE_STRIDE of a table (R305). -/
def Table.stride (t : Table) : Nat := match t.opt with | some o => strideOf o.kind t.elems | none => 0

/-- The shard of a row (R192). -/
def Table.shardOf (t : Table) (r : Nat) : Nat := r / 2 ^ t.shift % t.shards.length

/-- The local index of a row in its shard (R192). -/
def Table.localOf (t : Table) (r : Nat) : Nat := r / 2 ^ t.shift / t.shards.length * 2 ^ t.shift + r % 2 ^ t.shift

/-- The row of a shard's local index. -/
def Table.rowOf (t : Table) (sh l : Nat) : Nat := (l / 2 ^ t.shift * t.shards.length + sh) * 2 ^ t.shift + l % 2 ^ t.shift

/-- Rows of shard s of n among `rows` (R192). -/
def shardRows (rows n shift s : Nat) : Nat :=
  let part := rows % (n * 2 ^ shift)
  rows / (n * 2 ^ shift) * 2 ^ shift + min (2 ^ shift) (part - s * 2 ^ shift)

/-- A shard of a table. -/
def Table.shard (t : Table) (s : Nat) : Shard := t.shards.getD s {}

/-- Change a shard of a table. -/
def Table.mShard (t : Table) (s : Nat) (f : Shard → Shard) : Table := { t with shards := t.shards.set s (f (t.shard s)) }

/-- The home Serai of a row (R192). -/
def Table.home (t : Table) (r : Nat) : Nat := (t.shard (t.shardOf r)).home

/-- Element i of bytes in a format (R137). -/
def elemAt (fmt : Nat) (bs : List Byte) (i : Nat) : Nat :=
  if fmt = 0 then fld bs (4 * i) 4 else if fmt = 1 then fld bs (2 * i) 2
  else if fmt = 4 then (bs.getD (i / 2) 0).toNat / (if i % 2 = 0 then 1 else 16) % 16 else (bs.getD i 0).toNat

/-- The first n elements of bytes. -/
def elemsOf (fmt : Nat) (bs : List Byte) (n : Nat) : List Nat := (List.range n).map (elemAt fmt bs)

/-- Bytes of Q4 elements. -/
def packQ4 : List Nat → List Byte
  | [] => []
  | [a] => [BitVec.ofNat 8 (a % 16)]
  | a :: b :: t => BitVec.ofNat 8 (a % 16 + b % 16 * 16) :: packQ4 t

/-- Bytes of elements. -/
def packElems (fmt : Nat) (vs : List Nat) : List Byte :=
  if fmt = 4 then packQ4 vs else vs.flatMap fun v => toLe (fmtBits fmt / 8) v

/-! ### Reads and writes of extents -/

/-- Bytes of a registered extent as its home Serai holds them. -/
def State.tblRead (s : State) (t : Table) (da n : Nat) : List Byte := (s.readSet noUnit t.fn t.held da n).getD (List.replicate n 0)

/-- Poison in a registered extent. -/
def State.tblPoison (s : State) (t : Table) (da n : Nat) : Bool := s.poisonSet noUnit t.fn t.held da n

/-- Write pieces of memory in order. -/
def State.writePieces (s : State) (poisoned : Bool) : List (PA × Nat) → List Byte → State
  | [], _ => s
  | (p, n) :: rest, bs => (s.writeThrough p (bs.take n) poisoned).writePieces poisoned rest (bs.drop n)

/-- Write bytes of a registered extent, poisoned or not (R268, R768). -/
def State.tblWriteP (s : State) (t : Table) (da : Nat) (bs : List Byte) (poisoned : Bool) : State :=
  match s.pieces t.fn t.held da bs.length with
  | some ps => s.writePieces poisoned ps bs
  | none => s

/-- Write bytes of a registered extent. -/
def State.tblWrite (s : State) (t : Table) (da : Nat) (bs : List Byte) : State := s.tblWriteP t da bs false

/-- The table with other translations, where a later command brought them. -/
def Table.via (t : Table) (set : List PageTr) : Table := if set.isEmpty then t else { t with held := set }

/-- The table as its translations serve a local index's row (R191, R322). -/
def Table.viaRow (t : Table) (sh : Shard) (l : Nat) : Table := if l < sh.stackRows then t.via sh.moved else t

/-- The table as its translations serve a local index's optimiser state (R303, R322). -/
def Table.viaState (t : Table) (sh : Shard) (l : Nat) : Table :=
  { t with held := if l < sh.stackRows then sh.stHeld else (t.opt.map (·.held)).getD [] }

/-- The extents of the registration that are still in use, by Device Address and length (R270, R315, R322). -/
def Table.inUse (t : Table) : List (Nat × Nat) :=
  (if t.scaleHeld.isEmpty then [(t.scaleAddr, t.elems / 16 * 8)] else []) ++ [(t.defAddr, t.rowBytes)] ++
  (if t.mode = 2 then [(t.mapA, 64 * 2 ^ t.log2Buckets), (t.mapB, 64 * 2 ^ t.log2Buckets)] else []) ++
  t.shards.flatMap fun h => [(h.stackBase, if h.moved.isEmpty then h.stackRows * t.rowBytes else 0),
    (h.remoteBase, h.remoteRows * t.rowBytes), (h.larderBase, t.larderSlots * t.rowBytes)]

/-- The pages that only the home Serais may write (R270). -/
def Table.guardSet (t : Table) : List PageTr :=
  (t.held.filter fun p => t.inUse.any fun e => decide (p.da < e.1 + e.2 ∧ e.1 < p.da + p.size)) ++
  t.scaleHeld ++ (t.opt.map (·.held)).getD [] ++ t.shards.flatMap fun h => h.moved ++ h.stHeld

/-- The registered table whose pages a range of stack memory touches (R270). -/
def State.guardedBy (s : State) (p : PA) (n : Nat) : Option Nat :=
  if p.space == .stack then
    (s.tally.tables.find? fun x => x.2.guardSet.any fun t => t.space == .stack && decide (t.target < p.addr + n ∧ p.addr < t.target + t.size)).map (·.1)
  else none

/-- The scale entries of an extent of the table's width (R182). -/
def State.scalesAt (s : State) (t : Table) (da : Nat) : List Scale :=
  let bs := s.tblRead t da (t.elems / 16 * 8)
  (List.range (t.elems / 16)).map fun b => Scale.ofNat (fld bs (8 * b) 8)

/-- A local index lies below its shard's recalibration watermark (R314). -/
def State.belowMark (s : State) (tid sh l : Nat) : Option Recal :=
  match (s.rt tid).recal with
  | some r => if l < nth r.marks sh then some r else none
  | none => none

/-- The scale entries that decode a row, none for F16 (R182, R314). -/
def State.rowScales (s : State) (tid : Nat) (t : Table) (row : Nat) : List Scale :=
  if t.format = 1 then []
  else match s.belowMark tid (t.shardOf row) (t.localOf row) with
    | some r => s.scalesAt (t.via r.held) r.newScale
    | none => s.scalesAt (t.via t.scaleHeld) t.scaleAddr

/-- Where a local index lies in memory: its Device Address, none in the flash tier (R197). -/
def Table.rowDa (t : Table) (sh : Shard) (l : Nat) : Option Nat :=
  if l < sh.stackRows then some (sh.stackBase + l * t.rowBytes)
  else if l < sh.stackRows + sh.remoteRows then some (sh.remoteBase + (l - sh.stackRows) * t.rowBytes)
  else none

/-- Where a local index's optimiser state lies (R303). -/
def Table.stateDa (t : Table) (sh : Shard) (l : Nat) : Nat :=
  if l < sh.stackRows then sh.stateStack + l * t.stride else sh.stateRemote + (l - sh.stackRows) * t.stride

/-- The block and byte offset of a flash row (R199). -/
def Table.flashAt (t : Table) (sh : Shard) (l : Nat) : Nat × Nat :=
  let i := l - sh.stackRows - sh.remoteRows
  let k := 4096 / t.rowBytes
  (sh.startLba + i / k, i % k * t.rowBytes)

/-- The data bytes of a flash block (R222). -/
def State.blockData (s : State) (ctrl nsid lba : Nat) : List Byte :=
  match s.cellar.blocks.find? fun b => b.ctrl == ctrl && b.nsid == nsid && b.lba == lba with
  | some b => padTo 4096 b.data
  | none => List.replicate 4096 0

/-- Write a flash block with its CRC, which does not match poisoned data (R222, R564). -/
def State.blockWrite (s : State) (ctrl nsid lba : Nat) (data : List Byte) (poisoned : Bool) : State :=
  s.mCellar fun c => { c with blocks :=
    { ctrl := ctrl, nsid := nsid, lba := lba, data := data, poisoned := poisoned } ::
      (c.blocks.filter fun b => !(b.ctrl == ctrl && b.nsid == nsid && b.lba == lba)) }

/-! ### The Larder -/

/-- The key of a slot in the map of slots. -/
def slotKey (sh slot : Nat) : Nat := sh * 2 ^ 23 + slot

/-- The Device Address of a slot (R208). -/
def Table.slotDa (t : Table) (sh slot : Nat) : Nat := (t.shard sh).larderBase + slot * t.rowBytes

/-- The slot that holds a row: its key and record (R212, R216). -/
def Table.slotOf (t : Table) (row : Nat) : Option (Nat × LSlot) :=
  t.slots.find? fun p => p.2.row == row && p.1 / 2 ^ 23 == t.shardOf row && p.2.st != .free

/-- The bucket of a row (R209). -/
def Table.bucket (t : Table) (row : Nat) : Nat := row * 0x9E3779B97F4A7C15 % 2 ^ 64 / 2 ^ (64 - t.log2Buckets)

/-- The active remap buffer names a slot for a row (R204, R209, R210). -/
def State.remap (s : State) (t : Table) (row : Nat) : Option Nat :=
  let bs := s.tblRead t ((if t.activeB then t.mapB else t.mapA) + 64 * t.bucket row) 64
  ((List.range 8).map fun i => fld bs (8 * i) 8).find? (fun e => bit e 63 && e % 2 ^ 40 == row) |>.map fun e => e / 2 ^ 40 % 2 ^ 23

/-! ### A row as its home Serai holds it -/

/-- The newest VISIBLE overlay entry of a row that meets a condition (R280). -/
def State.visibleWith (s : State) (t : Table) (tid row : Nat) (p : Overlay → Bool) : Option Overlay :=
  ((s.serai (t.home row)).overlay.filter fun o => o.table == tid && o.row == row && o.st == .visible && p o).foldl
    (fun b o => match b with
      | none => some o
      | some x => if x.order < o.order then some o else some x) none

/-- The newest VISIBLE overlay entry of a row (R280). -/
def State.visibleOf (s : State) (t : Table) (tid row : Nat) : Option Overlay := s.visibleWith t tid row fun _ => true

/-- A row's bytes: the newest VISIBLE entry, else its Larder slot, else its tier (R280, R212). -/
def State.rowNow (s : State) (tid : Nat) (t : Table) (row : Nat) : List Byte :=
  match s.visibleOf t tid row with
  | some o => o.data
  | none =>
    let si := t.shardOf row
    match t.slotOf row with
    | some p => s.tblRead t (t.slotDa si (p.1 % 2 ^ 23)) t.rowBytes
    | none =>
      match t.rowDa (t.shard si) (t.localOf row) with
      | some da => s.tblRead (t.viaRow (t.shard si) (t.localOf row)) da t.rowBytes
      | none =>
        let a := t.flashAt (t.shard si) (t.localOf row)
        ((s.blockData (t.shard si).controller (t.shard si).nsid a.1).drop a.2).take t.rowBytes

/-- What a read of a row returns is poisoned. -/
def State.rowPoisoned (s : State) (tid : Nat) (t : Table) (row : Nat) : Bool :=
  match s.visibleOf t tid row with
  | some o => o.poison
  | none =>
    let si := t.shardOf row
    match t.slotOf row with
    | some p => s.tblPoison t (t.slotDa si (p.1 % 2 ^ 23)) t.rowBytes
    | none => match t.rowDa (t.shard si) (t.localOf row) with
      | some da => s.tblPoison (t.viaRow (t.shard si) (t.localOf row)) da t.rowBytes
      | none => false

/-- A row's optimiser state bytes: the newest VISIBLE entry's that carries state, else memory. -/
def State.stateNow (s : State) (tid : Nat) (t : Table) (row : Nat) : List Byte :=
  let sh := t.shard (t.shardOf row)
  match s.visibleWith t tid row (fun o => !o.state.isEmpty) with
  | some o => o.state
  | none => s.tblRead (t.viaState sh (t.localOf row)) (t.stateDa sh (t.localOf row)) t.stride

/-- A row's optimiser state is poisoned. -/
def State.statePoisoned (s : State) (tid : Nat) (t : Table) (row : Nat) : Bool :=
  let sh := t.shard (t.shardOf row)
  match s.visibleWith t tid row (fun o => !o.state.isEmpty) with
  | some o => o.stPoison
  | none => s.tblPoison (t.viaState sh (t.localOf row)) (t.stateDa sh (t.localOf row)) t.stride

/-- The copies that an open migration keeps of a stack row and its state (R320). -/
def State.migCopy (s : State) (tid : Nat) (t : Table) (row : Nat) (data st : List Byte) (poisoned stPoisoned : Bool) : State :=
  match (s.rt tid).mig with
  | none => s
  | some m =>
    let l := t.localOf row
    if m.handing || m.shard != t.shardOf row || decide ((t.shard m.shard).stackRows ≤ l) then s
    else
      let t' := { t with held := m.held }
      let s := s.tblWriteP t' (m.newStack + l * t.rowBytes) data poisoned
      if st.isEmpty then s else s.tblWriteP t' (m.newState + l * t.stride) st stPoisoned

/-- The bytes of a span that a Rehome Span moves (R604). -/
def spanBytes : Nat := 2 ^ 21

/-- The copies that open moves keep of the remote bytes written at a Device Address (R605). -/
def State.spanCopy (s : State) (tid : Nat) (t : Table) (da : Nat) (data : List Byte) (poisoned : Bool) : State :=
  (s.rt tid).moves.foldl (fun s m =>
    let lo := max da m.oldSpan
    let hi := min (da + data.length) (m.oldSpan + spanBytes)
    if lo < hi then s.tblWriteP { t with held := m.newTrs } lo ((data.drop (lo - da)).take (hi - lo)) poisoned else s) s

/-- Apply a change to a row: its slot, its tier, its state, and the copies of a migration; a change to a flash row without
a slot is discarded (R216, R218, R320). -/
def State.applyRow (s : State) (tid : Nat) (t : Table) (row : Nat) (data st : List Byte) (poisoned stPoisoned : Bool) : State :=
  let si := t.shardOf row
  let sh := t.shard si
  let l := t.localOf row
  let slot := t.slotOf row
  let s := match slot with
    | some p => s.tblWriteP t (t.slotDa si (p.1 % 2 ^ 23)) data poisoned
    | none => s
  let s := match t.rowDa sh l with
    | some da =>
      let s := s.tblWriteP (t.viaRow sh l) da data poisoned
      if l < sh.stackRows then s else s.spanCopy tid t da data poisoned
    | none =>
      match slot with
      | some p => s.mTable tid fun t => { t with slots := mapAdj t.slots p.1 fun x => { x with dirty := true } }
      | none => s.mSeraiCnt sh.home fun c => { c with flashDiscards := c.flashDiscards + 1 }
  let s := if st.isEmpty then s else s.tblWriteP (t.viaState sh l) (t.stateDa sh l) st stPoisoned
  s.migCopy tid t row data st poisoned stPoisoned

/-- The default row as the Serais hold it is decoded with the table's scale extent (R183). -/
def Table.isFlash (t : Table) (row : Nat) : Bool := (t.rowDa (t.shard (t.shardOf row)) (t.localOf row)).isNone

/-- A change to a row would be discarded: a flash row with no MAPPED or FILLED slot (R218, R288). -/
def Table.noPlace (t : Table) (row : Nat) : Bool :=
  t.isFlash row && (match t.slotOf row with | some p => p.2.st == .evicting | none => true)

/-! ### Register Table and Deregister Table -/

/-- DETAIL of a fault about a table, with the version of the registered table (R753). -/
def State.detTid (s : State) (tid : Nat) : List Byte := detTable tid 0xFF 0xFF 0 0 (((s.table? tid).map (·.version)).getD 0)

/-- The table that a descriptor describes (R186, R192, R194). -/
def Table.ofDesc (d : List Byte) (fn ctx : Nat) : Table :=
  let n := fld d 6 2 + 1
  let rows := fld d 16 8 + 1
  { fn := fn, ctx := ctx, format := fld d 2 1, granules := fld d 3 1, tclass := fld d 4 1 % 16, aligned := bit (fld d 4 1) 4
    mode := fld d 5 1, shift := fld d 8 1, log2Buckets := fld d 9 1, clipThresh := fld d 10 2, larderSlots := fld d 12 4
    rowsM1 := fld d 16 8, hashA := BitVec.ofNat 64 (fld d 24 8), hashB := BitVec.ofNat 64 (fld d 32 8), scaleAddr := fld d 40 8
    mapA := fld d 56 8, mapB := fld d 64 8, defAddr := fld d 48 8
    shards := (List.range n).map fun i =>
      let e := (d.drop (128 + 64 * i)).take 64
      { stackBase := fld e 0 8, remoteBase := fld e 8 8, larderBase := fld e 16 8, startLba := fld e 24 8, stackRows := fld e 32 5
        remoteRows := fld e 37 5, home := fld e 42 1, controller := fld e 43 1, nsid := fld e 44 4, rows := shardRows rows n (fld d 8 1) i } }

/-- Reserved bits of a descriptor are 0 (R186, R194). -/
def descReserved (d : List Byte) (n : Nat) : Bool :=
  decide (fld d 2 1 < 8 ∧ fld d 4 1 < 32 ∧ fld d 5 1 < 4 ∧ fld d 6 2 < 1024 ∧ fld d 12 4 < 2 ^ 23 ∧ fld d 16 8 < 2 ^ 40) &&
  zeroIn d 72 56 &&
  (List.range n).all fun i =>
    let e := (d.drop (128 + 64 * i)).take 64
    decide (fld e 42 1 < 8 ∧ fld e 43 1 < 16) && zeroIn e 48 16

/-- The kind that the image gives a table class: 1 POOL, 2 STACK_TAIL, 0 undefined (R196, R832). -/
def State.classKind (s : State) (c : Nat) : Nat := nth s.img.tableKinds c

/-- A shard obeys its class's kind and its fields their rules (R187, R194, R197). -/
def Table.shardOk (t : Table) (pool : Bool) (h : Shard) : Bool :=
  decide (1 ≤ h.rows) && (h.stackRows != 0 || h.stackBase == 0) && (h.remoteRows != 0 || h.remoteBase == 0) &&
  (t.larderSlots != 0 || h.larderBase == 0) && (!pool || (h.stackRows == 0 && decide (h.rows ≤ h.remoteRows)))

/-- The checks of R187 that raise 0x0301, of a table whose descriptor has its length. -/
def Table.formatOk (t : Table) (kind : Nat) : Bool :=
  decide (1 ≤ t.format ∧ t.format ≤ 4 ∧ 1 ≤ t.granules ∧ t.granules ≤ 128 ∧ t.mode < 3 ∧ t.shift ≤ 40) &&
  (t.format != 1 || t.scaleAddr == 0) && (kind == 1 || kind == 2) &&
  (if t.mode = 1 then t.hashA.toNat % 2 == 1 else t.hashA == 0) &&
  (if t.mode = 2 then decide (4 ≤ t.log2Buckets ∧ t.log2Buckets ≤ 24) else t.log2Buckets == 0 && t.larderSlots == 0) &&
  decide ((t.shards.length - 1) * 2 ^ t.shift ≤ t.rowsM1) &&
  t.shards.all (t.shardOk (kind == 1))

/-- An extent of a table: Device Address, bytes, and where it must lie: the window of a stack, any stack, or a kind of memory. -/
structure Extent where
  /-- first Device Address -/
  da : Nat
  /-- bytes -/
  len : Nat
  /-- kind of memory, when one is asked (R195, R197, R303) -/
  space : Option Space
  /-- the stack, when one is named (R195) -/
  stack : Option Nat
  deriving DecidableEq, Repr

/-- The extents of a table (R195, R197, R208, R209). -/
def Table.extents (t : Table) (pool : Bool) (defAddr : Nat) : List Extent :=
  let any : Option Space := some .stack
  (if t.format = 1 then [] else [⟨t.scaleAddr, t.elems / 16 * 8, any, none⟩]) ++ [⟨defAddr, t.rowBytes, any, none⟩] ++
  (if t.mode = 2 then [⟨t.mapA, 64 * 2 ^ t.log2Buckets, any, none⟩, ⟨t.mapB, 64 * 2 ^ t.log2Buckets, any, none⟩] else []) ++
  t.shards.flatMap fun h => [⟨h.stackBase, h.stackRows * t.rowBytes, any, some h.home⟩,
    ⟨h.remoteBase, h.remoteRows * t.rowBytes, some (if pool then .pool else .host), none⟩,
    ⟨h.larderBase, t.larderSlots * t.rowBytes, any, some h.home⟩]

/-- An extent translates wholly to where it must lie. -/
def State.extentOk (s : State) (fn : Nat) (set : List PageTr) (e : Extent) : Bool :=
  match s.pieces fn set e.da e.len with
  | none => false
  | some ps => ps.all fun p => (match e.space with | some k => p.1.space == k | none => true) &&
      (match e.stack with | some k => p.1.space == .stack && stackOf p.1 == k | none => true)

/-- Translate extents into a held set of any size, and check where they lie; an error carries the fault code (R187, R191). -/
def State.holdExtents (s : State) (x : Ctx) (es : List Extent) (code : Nat) : Except Nat (List PageTr) :=
  match s.trRanges (2 ^ 52) x (es.map fun e => (e.da, e.len, false)) [] with
  | .error e => .error (if e.1 = 0x715 then 0x715 else code)
  | .ok set => if es.all (s.extentOk x.fn set) then .ok set else .error code

/-- The flash condition of R187. -/
def State.flashOk (s : State) (t : Table) (h : Shard) : Bool :=
  decide (h.rows ≤ h.stackRows + h.remoteRows) ||
    (h.nsid != 0 && s.cellar.present.getLsbD h.controller && !s.cellar.offline.getLsbD h.controller &&
      (match mapGet s.cellar.ctrls h.controller with
       | none => false
       | some v => v.spaces.any fun n => n.nsid == h.nsid && n.lbaOk && decide ((t.flashAt h (h.rows - 1)).1 < n.blocks)))

/-- The table that counts as registered under an identifier for the checks of control commands (R188). -/
def State.regTable? (s : State) (tid : Nat) : Option Table :=
  match mapGet s.tally.fresh tid with
  | some t => some t
  | none => match s.table? tid with
    | some t => if t.leaving then none else some t
    | none => none

/-- Change the table that counts as registered under an identifier. -/
def State.mReg (s : State) (tid : Nat) (f : Table → Table) : State :=
  match mapGet s.tally.fresh tid with
  | some _ => s.mTally fun y => { y with fresh := mapAdj y.fresh tid f }
  | none => s.mTable tid f

/-- What Register Table finds: a page that does not translate, or the identifier with a fault code or the table to
register (R187). -/
def State.checkTable (s : State) (c : Cmd) (x : Ctx) : Except (Nat × Nat) (Nat × Except Nat Table) :=
  let da := c.arg 32 8
  let len := c.arg 40 4
  match s.ctxRead x da 128 with
  | .error e => .error e
  | .ok (h, p0) =>
    let tid := fld h 0 2
    if (s.regTable? tid).isSome then .ok (tid, .error 0x303)
    else if len ≠ 128 + 64 * (fld h 6 2 % 1024 + 1) then .ok (tid, .error 0x301)
    else match s.ctxRead x da len with
      | .error e => .error e
      | .ok (d, p1) =>
        let t := Table.ofDesc d c.fn c.ctx
        let kind := s.classKind t.tclass
        if p0 || p1 || !descReserved d t.shards.length || !t.formatOk kind then .ok (tid, .error 0x301)
        else match s.holdExtents x (t.extents (kind == 1) (fld d 48 8)) 0x302 with
          | .error e => .ok (tid, .error e)
          | .ok set =>
            if t.shards.all (s.flashOk t) then
              let t := { t with held := set }
              .ok (tid, .ok { t with defaultRow := s.tblRead t (fld d 48 8) t.rowBytes })
            else .ok (tid, .error 0x302)

/-- REGISTER_TABLE (R187, R188). -/
def execRegisterTable (cid : Nat) (s : State) : Host.Outcome State Fault Refusal :=
  match s.ctl? cid 0x20 with
  | none => .next s
  | some (c, x) =>
    match s.checkTable c x with
    | .error e => .next (s.refuseTr cid c e)
    | .ok (tid, .error code) =>
      if code = 0x715 then .next (s.refuseTr cid c (0x715, c.arg 32 8))
      else .next (s.refuse cid c { code := code, detail := detTable tid 0xFF 0xFF 0 0 0 })
    | .ok (tid, .ok t) => .next ((s.mTally fun y => { y with fresh := mapSet y.fresh tid t }).commitCtl cid c)

/-- The table that TABLE_ID names among the tables registered to a command's function (R188). -/
def State.fnTable (s : State) (c : Cmd) (tid : Nat) : Option Table :=
  match s.regTable? tid with
  | some t => if t.fn == c.fn then some t else none
  | none => none

/-- The table that a command may read or change: its registration has taken effect and its function owns it (R236, R283). -/
def State.usable (s : State) (c : Cmd) (tid : Nat) : Option Table :=
  match s.table? tid with
  | some t => if t.fn == c.fn then some t else none
  | none => none

/-- A registered table leaves at the next boundary; one that is not yet in effect leaves at once (R188, R189). -/
def State.leaveTable (s : State) (tid : Nat) : State :=
  s.mTally fun y =>
    if (mapGet y.fresh tid).isSome then { y with fresh := mapErase y.fresh tid }
    else { y with tables := mapAdj y.tables tid fun t => { t with leaving := true } }

/-- DEREGISTER_TABLE (R189). -/
def execDeregisterTable (cid : Nat) (s : State) : Host.Outcome State Fault Refusal :=
  match s.ctl? cid 0x21 with
  | none => .next s
  | some (c, _) =>
    let tid := c.arg 32 2
    match s.fnTable c tid with
    | none => .next (s.refuse cid c { code := 0x301, detail := s.detTid tid })
    | some _ =>
      if s.stk.recipes.any fun r => r.2.tables.any (·.table == tid) then .next (s.refuse cid c { code := 0x304, detail := s.detTid tid })
      else .next ((s.leaveTable tid).commitCtl cid c)

/-- The part of a boundary that belongs to one table: marks and records that were due (R191, R226, R301). -/
def Table.dueNow (t : Table) : Table :=
  let shards := t.shards.map fun h => { h with
    offline := h.offline || h.offlineDue, offlineDue := false, flashOffline := h.flashOffline || h.flashDue, flashDue := false }
  match t.optDue with
  | none => { t with shards := shards }
  | some o => { t with
      opt := some o, optDue := none
      shards := (List.range shards.length).map fun i =>
        let st := o.states.getD i (0, 0)
        { shards.getD i {} with stateStack := st.1, stateRemote := st.2, stHeld := o.held } }

/-- A table's registrations at a boundary: tables and records take effect, deregistered tables go (R188, R189, R231, R301). -/
def State.tablesBoundary (s : State) : State :=
  let gone := (s.tally.tables.filter (·.2.leaving)).map (·.1)
  let s := s.mSerais fun u => { u with units := u.units.map fun p => (p.1, { p.2 with
    overlay := p.2.overlay.filter fun o => !gone.contains o.table
    merges := p.2.merges.filter fun m => !gone.contains m.table
    applySet := p.2.applySet.filter fun m => !gone.contains m.table
    hold := p.2.hold.filter fun h => !gone.contains h.key.table }) }
  s.mTally fun y =>
    let kept := y.tables.filter fun p => !p.2.leaving
    { y with
      tables := (y.fresh.foldl (fun m p => mapSet m p.1 p.2) kept).map fun p => (p.1, p.2.dueNow)
      fresh := []
      rt := y.rt.filter fun p => !gone.contains p.1 && (mapGet y.fresh p.1).isNone }

/-! ### The Tally (R200 to R207) -/

/-- What an identifier resolves to. -/
inductive Resolved where
  /-- a row, with the slot that the remap buffer names (R204) -/
  | row (r : Nat) (slot : Option Nat)
  /-- a default reference; 0 MISSING, 1 OUT_OF_RANGE, 2 INVALID (R201, R202, R205) -/
  | dflt (why : Nat)
  deriving DecidableEq, Repr

/-- A row is invalid (R205). -/
def Table.invalid (t : Table) (row : Nat) : Bool :=
  let sh := t.shard (t.shardOf row)
  sh.offline || (sh.flashOffline && t.isFlash row)

/-- Resolve a raw identifier (R201 to R205). -/
def State.resolve (s : State) (t : Table) (x : Nat) : Resolved :=
  if x = 0xFFFFFFFFFFFFFFFF then .dflt 0
  else if t.mode = 1 then
    let h := (t.hashA.toNat * x + t.hashB.toNat) % 2 ^ 64
    let r := h * (t.rowsM1 + 1) / 2 ^ 64
    if t.invalid r then .dflt 2 else .row r none
  else if t.rowsM1 < x then .dflt 1
  else if t.invalid x then .dflt 2
  else .row x (if t.mode = 2 then s.remap t x else none)

/-- Add counts of a command to a table's pending counts (R207). -/
def State.addCount (s : State) (tid cid kind n : Nat) : State :=
  if n = 0 then s else s.mRt tid fun r => { r with pendingCounts := (cid, kind, n) :: r.pendingCounts }

/-- At a command's commit its identifier counts join the table's (R207). -/
def TableRt.commitCounts (r : TableRt) (cid : Nat) : TableRt :=
  let sum (k : Nat) : BitVec 32 := BitVec.ofNat 32 ((r.pendingCounts.filter fun p => p.1 == cid && p.2.1 == k).map (·.2.2)).sum
  { r with missing := r.missing + sum 0, outOfRange := r.outOfRange + sum 1, invalid := r.invalid + sum 2
           elems := r.elems + (sum 4).toNat, clipped := r.clipped + (sum 5).toNat
           pendingCounts := r.pendingCounts.filter (·.1 != cid) }

/-! ### Larder Refresh (R213 to R219) -/

/-- Operand bytes of Larder Refresh outside its fields are 0 and the fields lie in range (R646). -/
def larderFmt (c : Cmd) : Bool := zeroExcept c.bytes [(32, 3), (40, 16)] && decide (c.arg 34 1 < 2)

/-- The list of a Larder Refresh: row and slot of each entry (R213). -/
def State.larderList (s : State) (cid : Nat) (c : Cmd) : List (Nat × Nat) :=
  let n := c.arg 48 4 + c.arg 52 4
  let bs := s.cmdRead cid c (c.arg 40 8) (16 * n)
  (List.range n).map fun i => (fld bs (16 * i) 8, fld bs (16 * i + 8) 4)

/-- The checks of R214 on the table that TABLE_ID names. -/
def Table.refreshOk (t : Table) (toB : Bool) (fills evicts : List (Nat × Nat)) : Bool :=
  t.activeB != toB && (fills ++ evicts).all (fun e => decide (e.2 < t.larderSlots ∧ e.1 ≤ t.rowsM1)) &&
  (fills.all fun e => match mapGet t.slots (slotKey (t.shardOf e.1) e.2) with | some v => v.st == .evicting || v.st == .free | none => true) &&
  evicts.all fun e => match mapGet t.slots (slotKey (t.shardOf e.1) e.2) with | some v => v.st == .mapped && v.row == e.1 | none => false

/-- The row bytes that a fill copies from the row's tier, as a gather sees the row (R215). -/
def State.fillSlot (s : State) (tid : Nat) (row key : Nat) : State :=
  match s.table? tid with
  | none => s
  | some t =>
    let s := s.tblWrite t (t.slotDa (key / 2 ^ 23) (key % 2 ^ 23)) (s.rowNow tid t row)
    s.mTable tid fun t => { t with
      slots := mapSet t.slots key { row := row, st := .filled }
      refresh := t.refresh.map fun r => { r with filled := r.filled ++ [key] } }

/-- Copy the fills whose slots are FREE; the others wait (R215). -/
def State.runFills (s : State) (tid : Nat) : State :=
  match (s.table? tid).bind (·.refresh) with
  | none => s
  | some r =>
    let t := (s.table? tid).getD {}
    let can (f : Nat × Nat) : Bool := (mapGet t.slots f.2).isNone
    let s := (r.fills.filter can).foldl (fun s f => s.fillSlot tid f.1 f.2) s
    let rest := r.fills.filter fun f => !can f
    let s := s.mTable tid fun t => { t with refresh := t.refresh.map fun r => { r with fills := rest } }
    if rest.isEmpty then s.mCmd r.cid fun c => { c with st := .finished } else s

/-- Refuse an Engine command at dispatch (R648). -/
def State.refuseEngine (s : State) (cid : Nat) (c : Cmd) (tid code : Nat) : State :=
  s.refuse cid c { code := code, detail := s.detTid tid }

/-- LARDER_REFRESH (R213, R214, R648): one refresh of a table runs at a time; another waits. -/
def execLarderRefresh (cid : Nat) (s : State) : Host.Outcome State Fault Refusal :=
  match s.ready? cid 0x11 .admitted with
  | none => .next s
  | some c =>
    if !s.orderOk cid c then .next s
    else
      let tid := c.arg 32 2
      let list := s.larderList cid c
      let fills := list.take (c.arg 48 4)
      let evicts := list.drop (c.arg 48 4)
      match s.usable c tid with
      | none => .next (s.refuseEngine cid c tid 0x311)
      | some t =>
        if t.refresh.isSome then .next s
        else if t.mode != 2 || !t.refreshOk (bit (c.arg 34 1) 0) fills evicts || s.cmdPoison cid c (c.arg 40 8) (16 * list.length) then
          .next (s.refuseEngine cid c tid 0x311)
        else
          let s := s.mCmd cid fun c => { c with st := .running }
          let s := s.mTable tid fun t => { t with refresh := some {
            cid := cid, toB := bit (c.arg 34 1) 0, fills := fills.map fun e => (e.1, slotKey (t.shardOf e.1) e.2)
            evicts := evicts.map fun e => slotKey (t.shardOf e.1) e.2 } }
          .next (s.runFills tid)

/-- LARDER_FILL_RESUME (R215): a fill whose slot has become FREE is copied. -/
def execLarderFillResume (table : Nat) (s : State) : Host.Outcome State Fault Refusal :=
  if s.live then .next (s.runFills table) else .next s

/-- LARDER_WRITEBACK_COMPLETE (R219): the row is in its flash block and the slot becomes FREE. -/
def execLarderWritebackComplete (table key : Nat) (s : State) : Host.Outcome State Fault Refusal :=
  match s.live, s.table? table with
  | true, some t =>
    match mapGet t.slots key with
    | none => .next s
    | some v =>
      if v.st != .evicting then .next s
      else
        let sh := t.shard (key / 2 ^ 23)
        let a := t.flashAt sh (t.localOf v.row)
        let data := s.tblRead t (t.slotDa (key / 2 ^ 23) (key % 2 ^ 23)) t.rowBytes
        let s := s.blockWrite sh.controller sh.nsid a.1 (overlay (s.blockData sh.controller sh.nsid a.1) a.2 data) false
        .next (s.mTable table fun t => { t with slots := mapErase t.slots key })
  | _, _ => .next s

/-- The Larder at a boundary: a committed refresh switches the buffer (R217). -/
def Table.larderSwitch (t : Table) : Table :=
  match t.refresh with
  | some r =>
    if r.committed then
      let up := t.slots.map fun p => if r.filled.contains p.1 then (p.1, { p.2 with st := .mapped }) else p
      { t with
        activeB := r.toB, refresh := none
        slots := (up.map fun p => if r.evicts.contains p.1 && p.2.dirty then (p.1, { p.2 with st := .evicting }) else p).filter
          fun p => !(r.evicts.contains p.1 && !p.2.dirty) }
    else t
  | none => t

/-! ### The Cellar -/

/-- FLASH_CONTROLLER_LOST (R226). -/
def execFlashControllerLost (ctrl : Nat) (s : State) : Host.Outcome State Fault Refusal :=
  if !s.live || !s.cellar.present.getLsbD ctrl || s.cellar.offline.getLsbD ctrl then .next s
  else
    let s := s.mCellar fun c => { c with offline := c.offline ||| BitVec.ofNat 16 (2 ^ ctrl) }
    let lose (p : Nat × Table) : Nat × Table :=
      (p.1, { p.2 with shards := p.2.shards.map fun h => if h.controller == ctrl then { h with flashDue := true } else h })
    let s := s.mTally fun y => { y with tables := y.tables.map lose, fresh := y.fresh.map lose }
    .next (s.raise { code := 0xC03 })

/-! ### The clip check (R169, R170) -/

/-- Add elements and clipped elements to a table's counts of the tick (R169). -/
def State.addClip (s : State) (tid elems clipped : Nat) : State :=
  s.mRt tid fun r => { r with elems := r.elems + elems, clipped := r.clipped + clipped }

/-- The clip check of one table for the tick that ends as tick t begins (R170). -/
def State.clipCheck (s : State) (tid t : Nat) : State :=
  match s.table? tid with
  | none => s
  | some b =>
    let r := s.rt tid
    let hit := b.clipThresh != 0 && decide (b.clipThresh * r.elems < r.clipped * 65536) &&
      (match r.lastClipTick with | some x => decide (x + 1024 ≤ t - 1) | none => true)
    let s := s.mRt tid fun r => { r with elems := 0, clipped := 0, lastClipTick := if hit then some (t - 1) else r.lastClipTick }
    if hit then s.raise { code := 0x321, fn := some b.fn, detail := detTable tid 0xFF 0xFF 0 0 b.version } else s

end Sys2Proof.Machine
end

