-- ==== Sys2Proof/Machine/HearthMemory.lean ====
section
/-!
DEFINITION. Memory as a Hearth reaches it: run-time translation (R588, R589, R595), the L1 and instruction cache (R524 to R526,
R532 to R535), the combining buffer (R527), and loads and stores by region attribute and cache hint (R407, R526).
-/
namespace Sys2Proof.Machine

/-! ### Run-time translation -/

/-- The die of a logical Hearth (R30). -/
def hearthDie (h : Nat) : Nat := h / 80

/-- The shared translation cache of a die. -/
def Xlt.stc (x : Xlt) (die : Nat) : List (Nat × PageTr) := if die = 0 then x.stc0 else x.stc1

/-- Replace the shared translation cache of a die. -/
def Xlt.setStc (x : Xlt) (die : Nat) (l : List (Nat × PageTr)) : Xlt := if die = 0 then { x with stc0 := l } else { x with stc1 := l }

/-- The page of a context in a cache. -/
def findCtxTr (l : List (Nat × PageTr)) (ctx da : Nat) : Option PageTr :=
  (l.find? fun p => p.1 == ctx && decide (p.2.da ≤ da ∧ da < p.2.da + p.2.size)).map (·.2)

/-- The level of a leaf of a page size (R582). -/
def levelOf (size : Nat) : Nat := if size = 2 ^ 30 then 2 else if size = 2 ^ 21 then 1 else 0

/-- Cache a translation in a die's shared cache of 16,384 entries (R589). -/
def State.putStc (s : State) (die ctx : Nat) (t : PageTr) : State :=
  s.mXlt fun x => x.setStc die (((ctx, t) :: x.stc die).take 16384)

/-- Cache a translation in a Hearth's TLB of 512 entries (R589). -/
def State.putTlb (s : State) (h ctx : Nat) (t : PageTr) : State := s.mHearth h fun u => { u with tlb := ((ctx, t) :: u.tlb).take 512 }

/-- Translate an address of a context on a Hearth: the TLB, then the die's cache, then a walk (R595). -/
def State.runTr (s : State) (h : Nat) (ctx : Nat) (c : Ctx) (da : Nat) : Except (Nat × Nat) PageTr × State :=
  if 2 ^ 52 ≤ da then (.error (0x710, 0xFF), s)
  else match findCtxTr (s.hearth h).tlb ctx da with
    | some t => (.ok t, s)
    | none => match findCtxTr (s.xlt.stc (hearthDie h)) ctx da with
      | some t => (.ok t, s.putTlb h ctx t)
      | none => match s.walk (hearthDie h) c da with
        | .error e => (.error e, s.mXlt fun x => { x with walks := x.walks + 1 })
        | .ok t => (.ok t, ((s.countWalks (hearthDie h) c [t]).putStc (hearthDie h) ctx t).putTlb h ctx t)

/-- The fault of an access to a translated page: refused by the host, or a store to a read-only page (R587, R588). -/
def State.pageFault (s : State) (fn : Nat) (t : PageTr) (da n : Nat) (write : Bool) : Option (Nat × Nat) :=
  if write && !t.writable then some (0x712, levelOf t.size)
  else if s.atsRefuses fn t.space (t.target + (da - t.da)) n write then some (0x714, levelOf t.size)
  else none

/-! ### The L1 -/

/-- Bytes of L1 under a split (R343). -/
def l1Bytes (split : Nat) : Nat := 524288 - 131072 * split

/-- Bytes of local store under a split (R343). -/
def lsBytes (split : Nat) : Nat := 131072 * split

/-- A command's L1 or instruction-cache line of a place (R532). -/
def Hearth.line? (u : Hearth) (cid : Nat) (instr : Bool) (p : PA) : Option L1Line :=
  u.l1.find? fun l => l.cid == cid && l.instr == instr && l.pa == p.line

/-- The dirty runs of a line: offset and bytes of each. -/
def L1Line.runs (l : L1Line) : List (Nat × List Byte) :=
  (List.range 128).foldr (fun i acc =>
    if l.dirty.getD i false then
      match acc with
      | (o, bs) :: rest => if o = i + 1 then (i, l.data.getD i 0 :: bs) :: rest else (i, [l.data.getD i 0]) :: acc
      | [] => [(i, [l.data.getD i 0])]
    else acc) []

/-- A line has dirty bytes. -/
def L1Line.isDirty (l : L1Line) : Bool := l.dirty.any id

/-- The unit and context of a command, none when it has gone. -/
def State.unitCtx (s : State) (cid : Nat) : CUnit × Option Nat :=
  match s.cmd? cid with | some c => (unitOf cid c, some c.ctx) | none => (noUnit, none)

/-- Write a line's dirty bytes to the Depot for its command (R526, R534). -/
def State.writeLine (s : State) (l : L1Line) : State :=
  let u := s.unitCtx l.cid
  l.runs.foldl (fun s r => s.store u.1 u.2 0 (l.pa.plus r.1) r.2 false l.poison) s

/-- A line's write to the Depot would wait on another unit's provisional copy (R543). -/
def State.lineConflict (s : State) (l : L1Line) : Bool := s.dev == .service && l.isDirty && s.conflicts (s.unitCtx l.cid).1 l.pa 128

/-- The L1 set of a place (R524), and its instruction-cache set (R523). -/
def lineSet (split : Nat) (instr : Bool) (p : PA) : Nat := p.addr / 128 % (if instr then 256 else l1Bytes split / 512)

/-- Put a line first in a Hearth's L1, without the copy it replaces; a full set gives up its least recently used line, which is written
to the Depot when dirty; an instruction line never is (R523, R524, R526). -/
def State.putLine (s : State) (h : Nat) (l : L1Line) : State :=
  let u := s.hearth h
  let same (x : L1Line) : Bool := x.cid == l.cid && x.instr == l.instr && x.pa == l.pa
  let inSet (x : L1Line) : Bool := x.instr == l.instr && lineSet u.split x.instr x.pa == lineSet u.split l.instr l.pa
  let rest := u.l1.filter fun x => !same x
  let ways := if l.instr then 2 else 4
  if (rest.filter inSet).length < ways then s.mHearth h fun u => { u with l1 := l :: rest }
  else match (rest.filter inSet).getLast? with
    | none => s.mHearth h fun u => { u with l1 := l :: rest }
    | some v => (if v.isDirty && !l.instr then s.writeLine v else s).mHearth h fun u => { u with l1 := l :: rest.erase v }

/-- Read a line below the L1 as a command sees it, allocating it in the Depot unless a hint says not to (R407, R526). -/
def State.fillLine (s : State) (h cid : Nat) (c : Cmd) (p : PA) (instr depot stream : Bool) : L1Line × State :=
  let u := unitOf cid c
  let data := s.view u p.line 128
  let bad := s.viewPoisoned u p.line 128
  let s := s.depotHit (some c.ctx) c.cls p
  let s := if (s.dline? p).isSome then s else s.touch (some c.ctx) c.cls (hearthDie h) p.line 128 false
  let s := if depot then s.depotAlloc p stream else s
  ({ cid := cid, pa := p.line, data := data, dirty := List.replicate 128 false, poison := bad, instr := instr }, s)

/-- The line of a place in a Hearth's L1, filled when it is not there. -/
def State.l1Line (s : State) (h cid : Nat) (c : Cmd) (p : PA) (instr : Bool) : L1Line × State :=
  match (s.hearth h).line? cid instr p with
  | some l => (l, s.putLine h l)
  | none => let f := s.fillLine h cid c p instr true false; (f.1, f.2.putLine h f.1)

/-- Drop a command's lines of one place from a Hearth's L1, dirty bytes written first (R547). -/
def State.dropLine (s : State) (h cid : Nat) (p : PA) : State :=
  match (s.hearth h).line? cid false p with
  | none => s
  | some l => (s.writeLine l).mHearth h fun u => { u with l1 := u.l1.erase l }

/-- Write every dirty line of a command on a Hearth to the Depot and invalidate its lines (R534, R553, R554). -/
def State.flushL1 (s : State) (h cid : Nat) : State :=
  let s := ((s.hearth h).l1.filter fun l => l.cid == cid && l.isDirty).foldl State.writeLine s
  s.mHearth h fun u => { u with l1 := u.l1.filter (·.cid != cid) }

/-- Some dirty line of a command on a Hearth would wait (R543). -/
def State.flushConflict (s : State) (h cid : Nat) : Bool := (s.hearth h).l1.any fun l => l.cid == cid && s.lineConflict l

/-! ### The combining buffer (R527) -/

/-- Write an entry's bytes to memory, with byte enables. -/
def State.drainWc (s : State) (e : WcEntry) : State := e.bytes.foldl (fun s b => s.memWrite (e.pa.plus b.1) [b.2] false) s

/-- Drain the entries of a Hearth's combining buffer that meet a condition. -/
def State.drainWcWhere (s : State) (h : Nat) (p : WcEntry → Bool) : State :=
  let s' := ((s.hearth h).wc.filter p).foldl State.drainWc s
  s'.mHearth h fun u => { u with wc := u.wc.filter fun e => !p e }

/-- One piece of a WC store: it joins its line's entry, else takes one; a full buffer drains its oldest entry, and a full entry
drains (R527). -/
def State.wcPiece (s : State) (g : GroupRef) (cid : Nat) (sp : Space) (a : Nat × List Byte) : State :=
  let p : PA := { space := sp, addr := a.1 }
  let isIt (e : WcEntry) : Bool := e.pa == p.line && e.cid == cid && e.grp == g
  let new := (List.range a.2.length).map fun i => (a.1 % 128 + i, a.2.getD i 0)
  let put (l : List (Nat × Byte)) : List (Nat × Byte) := new.foldl (fun l x => mapSet l x.1 x.2) l
  let b := (s.hearth g.hearth).wc
  let s :=
    if b.any isIt then s.mHearth g.hearth fun u => { u with wc := u.wc.map fun e => if isIt e then { e with bytes := put e.bytes } else e }
    else
      let s := match b with
        | e :: rest => if 16 ≤ b.length then (s.drainWc e).mHearth g.hearth fun u => { u with wc := rest } else s
        | [] => s
      s.mHearth g.hearth fun u => { u with wc := u.wc ++ [{ cid := cid, grp := g, pa := p.line, bytes := put [] }] }
  s.drainWcWhere g.hearth fun e => isIt e && decide (128 ≤ e.bytes.length)

/-! ### Loads and stores -/

/-- What a load finds: bytes, whether they are poisoned, and the state with its caches changed. -/
structure Loaded where
  /-- bytes -/
  data : List Byte
  /-- poisoned -/
  bad : Bool
  /-- state -/
  st : State

/-- A load of n bytes at a place, by attribute and hint (R407, R526). The bytes never cross a line. -/
def State.load (s : State) (g : GroupRef) (cid : Nat) (c : Cmd) (attr ch : Nat) (p : PA) (n : Nat) : Loaded :=
  let h := g.hearth
  let cut (l : L1Line) : List Byte := (l.data.drop (p.addr % 128)).take n
  if attr = 2 ∨ attr = 3 then
    let s := s.drainWcWhere h fun e => e.pa == p.line && e.cid == cid
    ⟨s.memRead p n, s.memPoisoned p n, s.touch (some c.ctx) c.cls (hearthDie h) p n false⟩
  else if attr = 4 then
    let f := s.fillLine h cid c p false (ch != 2) true
    ⟨cut f.1, s.viewPoisoned (unitOf cid c) p n, f.2⟩
  else match (s.hearth h).line? cid false p with
    | some l => ⟨cut l, l.poison, s.putLine h l⟩
    | none =>
      if ch = 0 then let f := s.l1Line h cid c p false; ⟨cut f.1, f.1.poison, f.2⟩
      else let f := s.fillLine h cid c p false (ch == 1) false; ⟨cut f.1, s.viewPoisoned (unitOf cid c) p n, f.2⟩

/-- A store goes to the Depot, or past it when the hint bypasses a Depot that does not hold the line (R407). -/
def State.storeBelow (s : State) (cid : Nat) (c : Cmd) (attr ch : Nat) (p : PA) (bs : List Byte) : State :=
  if ch = 2 && (s.dline? p).isNone then s.memWrite p bs false
  else s.store (unitOf cid c) (some c.ctx) attr p bs false false

/-- Lay bytes over a line; dirty when they are not passed on. -/
def L1Line.lay (l : L1Line) (off : Nat) (bs : List Byte) (makeDirty : Bool) : L1Line :=
  { l with
    data := overlay l.data off bs
    dirty := if makeDirty then (List.range 128).map fun i => l.dirty.getD i false || decide (off ≤ i ∧ i < off + bs.length) else l.dirty }

/-- A store of bytes at a place, by attribute and hint (R407, R526). The bytes never cross a line. -/
def State.hstore (s : State) (g : GroupRef) (cid : Nat) (c : Cmd) (attr ch : Nat) (p : PA) (bs : List Byte) : State :=
  let h := g.hearth
  let off := p.addr % 128
  match attr with
  | 0 =>
    match (s.hearth h).line? cid false p with
    | some l => s.putLine h (l.lay off bs true)
    | none => if ch = 0 then let f := s.l1Line h cid c p false; f.2.putLine h (f.1.lay off bs true) else s.storeBelow cid c 0 ch p bs
  | 1 =>
    let s := match (s.hearth h).line? cid false p with | some l => s.putLine h (l.lay off bs false) | none => s
    s.storeBelow cid c 1 ch p bs
  | 2 => (s.touch (some c.ctx) c.cls (hearthDie h) p bs.length true).wcPiece g cid p.space (p.addr, bs)
  | 3 => (s.touch (some c.ctx) c.cls (hearthDie h) p bs.length true).memWrite p bs false
  | _ => s.storeBelow cid c 4 ch p bs

/-- A store reaches the Depot at once, where it may wait on another unit's provisional copy (R543). -/
def State.hstoreWaits (s : State) (h cid : Nat) (c : Cmd) (attr ch : Nat) (p : PA) (n : Nat) : Bool :=
  s.dev == .service && (attr == 1 || attr == 4 || (attr == 0 && ch != 0 && ((s.hearth h).line? cid false p).isNone)) &&
    s.conflicts (unitOf cid c) p n

end Sys2Proof.Machine
end

