-- ==== Sys2Proof/Machine/Hearth.lean ====
section
/-!
DEFINITION. The Hearth dispatcher: Launch and its checks (R335, R336), placement of blocks (R337 to R348, R668 to R673), the end of a
group (R354, R423, R534), draining and moves of logical Hearths (R331 to R333, R346), the Ember Test rotation (R780 to R784) and
the self-wait watch (R365 to R367).
-/
namespace Sys2Proof.Machine

/-! ### Operands of Launch (R335) -/

/-- CODE_ADDR. -/
def lnCode (c : Cmd) : Nat := c.arg 32 8
/-- ARG_ADDR. -/
def lnArg (c : Cmd) : Nat := c.arg 40 8
/-- ARG_LEN. -/
def lnArgLen (c : Cmd) : Nat := c.arg 48 4
/-- BLOCKS_M1 + 1. -/
def lnBlocks (c : Cmd) : Nat := c.arg 52 4 % 2 ^ 24 + 1
/-- GROUPS_PER_BLOCK. -/
def lnGpb (c : Cmd) : Nat := c.arg 56 1
/-- REGS. -/
def lnRegs (c : Cmd) : Nat := c.arg 57 1
/-- SPLIT. -/
def lnSplit (c : Cmd) : Nat := c.arg 58 1
/-- RESIDENT_ALL. -/
def lnResident (c : Cmd) : Bool := bit (c.arg 59 1) 0
/-- WATCH. -/
def lnWatch (c : Cmd) : Nat := c.arg 59 1 / 16
/-- LS_BYTES. -/
def lnLs (c : Cmd) : Nat := c.arg 60 4
/-- QUARTER_MASK. -/
def lnQuarters (c : Cmd) : Nat := c.arg 64 1
/-- MAX_HEARTHS. -/
def lnMax (c : Cmd) : Nat := c.arg 66 2
/-- CODE_LEN. -/
def lnCodeLen (c : Cmd) : Nat := c.arg 68 4

/-- The ranges that the Stoker pre-translates for a Launch. -/
def launchRanges (c : Cmd) : List Range := [(lnCode c, lnCodeLen c % 2 ^ 24, false), (lnArg c, lnArgLen c % 2 ^ 13, false)]

/-- Blocks of a command that an empty Hearth holds (R347, R348). -/
def blocksPerHearth (c : Cmd) : Nat :=
  let byGroups := 4 * min 12 (128 / lnRegs c) / lnGpb c
  min byGroups (if lnLs c = 0 then byGroups else lsBytes (lnSplit c) / lnLs c)

/-- Logical Hearths in service in the quarters of a mask. -/
def State.upIn (s : State) (mask : Nat) : Nat := (s.inService.filter fun p => bit mask (p.1 / 20)).length

/-- The checks of R336. -/
def State.launchOk (s : State) (c : Cmd) : Bool :=
  zeroExcept c.bytes [(32, 33), (66, 6)] && decide (lnArgLen c ≤ 4096 ∧ c.arg 52 4 < 2 ^ 24 ∧ 1 ≤ lnGpb c ∧ lnGpb c ≤ 48 ∧
    1 ≤ lnRegs c ∧ lnRegs c ≤ 32 ∧ lnSplit c < 4 ∧ bits (c.arg 59 1) 3 1 = 0 ∧ 1 ≤ lnMax c ∧ lnMax c ≤ 160 ∧
    256 ≤ lnCodeLen c ∧ lnCodeLen c < 2 ^ 24 ∧ lnCode c % 256 = 0 ∧ lnLs c % 2048 = 0 ∧ lnLs c ≤ lsBytes (lnSplit c) ∧
    lnGpb c ≤ 4 * min 12 (128 / lnRegs c) ∧ 0 < s.upIn (lnQuarters c)) &&
  (s.dev != .service || lnWatch c == 0) &&
  (!lnResident c || decide (lnBlocks c ≤ blocksPerHearth c * min (lnMax c) (s.upIn (lnQuarters c))))

/-- The manifest that a Launch of a waybill runs with: the wide argument block when it or a command it names ran wide (R662). -/
def State.launchBytes (s : State) (c : Cmd) : List Byte :=
  match c.waybill with
  | none => c.bytes
  | some i =>
    match (s.wb? i).bind fun w => s.recipe? w.recipe with
    | none => c.bytes
    | some r =>
      let t := r.cmds.getD c.idx {}
      let named := (s.cmdsOf i).any fun p => decide (p.2.idx < c.idx) && bit t.wideFrom (c.idx - 1 - p.2.idx) && p.2.wide
      if t.wideArg != 0 && (c.wide || named) then overlay c.bytes 40 (toLe 8 t.wideArg.toNat) else c.bytes

/-- LAUNCH (R335, R336): the dispatcher checks the command and takes it; a failed check tears the context down with 0x0407. -/
def execLaunch (cid : Nat) (s : State) : Host.Outcome State Fault Refusal :=
  match s.ready? cid 0x0C .admitted with
  | none => .next s
  | some c =>
    if !s.orderOk cid c then .next s
    else
      let c := { c with bytes := s.launchBytes c }
      if !s.launchOk c then .next (s.tearCmd c { code := 0x407 })
      else
        let n := s.stk.issueSeq
        let s := s.mStk fun k => { k with issueSeq := n + 1 }
        let s := s.mCmd cid fun x => { x with st := .running, bytes := c.bytes, issued := n }
        .next (s.mHearths fun u => { u with launches := mapMod u.launches cid {} id })

/-! ### Occupancy -/

/-- The groups on a logical Hearth, with their keys. -/
def State.groupsOn (s : State) (h : Nat) : List (Nat × Group) := s.hearths.groups.filter fun p => p.1 / 48 == h

/-- The groups on one Burner. -/
def State.groupsAt (s : State) (h b : Nat) : List (Nat × Group) := s.hearths.groups.filter fun p => p.1 / 12 == 4 * h + b

/-- Free group slots and free register units of each Burner (R347). -/
def State.burners (s : State) (h : Nat) : List (Nat × Nat) :=
  (List.range 4).map fun b => (12 - (s.groupsAt h b).length, 128 - ((s.groupsAt h b).map (·.2.regs)).sum)

/-- Local store bytes that the blocks on a Hearth hold (R345). -/
def State.lsUsed (s : State) (h : Nat) : Nat := ((s.hearths.blocks.filter (·.hearth == h)).map (·.lsBytes)).sum

/-- DRAIN of a Hearth: a split drain ends when the Hearth is empty (R346, R379). -/
def State.drainOf (s : State) (h : Nat) : Nat :=
  if (s.hearth h).drain = 1 ∧ (s.groupsOn h).isEmpty then 0 else (s.hearth h).drain

/-- The Burner that takes the next group: a free slot, enough units, the most free units, then the lowest number (R341). -/
def pickBurner (regs : Nat) (bs : List (Nat × Nat)) : Option Nat :=
  (List.range bs.length).foldl (fun best b =>
    let x := bs.getD b (0, 0)
    if x.1 = 0 ∨ x.2 < regs then best
    else match best with
      | none => some b
      | some y => if (bs.getD y (0, 0)).2 < x.2 then some b else best) none

/-- The Burners of the n groups of a block, in group order (R341). -/
def assignGroups (regs : Nat) : Nat → List (Nat × Nat) → Option (List Nat)
  | 0, _ => some []
  | n + 1, bs =>
    match pickBurner regs bs with
    | none => none
    | some b =>
      let x := bs.getD b (0, 0)
      (assignGroups regs n (bs.set b (x.1 - 1, x.2 - regs))).map (b :: ·)

/-- A Hearth is eligible for a command (R340). -/
def State.eligible (s : State) (c : Cmd) (h : Nat) : Bool :=
  (s.hearth h).inService && bit (lnQuarters c) (h / 20) && s.drainOf h == 0 &&
    ((s.groupsOn h).isEmpty || (s.hearth h).split == lnSplit c)

/-- The Burners of a block on a Hearth where it fits (R341). -/
def State.fitOn (s : State) (c : Cmd) (h : Nat) : Option (List Nat) :=
  if s.eligible c h && decide (s.lsUsed h + lnLs c ≤ lsBytes (lnSplit c)) then assignGroups (lnRegs c) (lnGpb c) (s.burners h) else none

/-- The Hearths that hold groups of a command. -/
def State.hearthsOf (s : State) (cid : Nat) : List Nat :=
  (List.range 160).filter fun h => (s.groupsOn h).any (·.2.cid == cid)

/-- Where the next block of a command goes (R340). -/
def State.choose (s : State) (cid : Nat) (c : Cmd) : Option (Nat × List Nat) :=
  let hold := s.hearthsOf cid
  let at? (h : Nat) : Option (Nat × List Nat) := (s.fitOn c h).map fun b => (h, b)
  match hold.findSome? at? with
  | some r => some r
  | none =>
    if lnMax c ≤ hold.length then none
    else (List.range 160).foldl (fun best h =>
      match at? h with
      | none => best
      | some r => match best with
        | none => some r
        | some b => if (s.groupsOn h).length < (s.groupsOn b.1).length then some r else best) none

/-! ### Placement -/

/-- The lowest free slot of a Burner. -/
def State.freeSlot (s : State) (h b : Nat) : Nat :=
  ((List.range 12).find? fun n => (mapGet s.hearths.groups (48 * h + 12 * b + n)).isNone).getD 0

/-- A new group's state (R337, R386). -/
def newGroup (cid : Nat) (c : Cmd) (block group age now : Nat) (halted : Bool) : Group :=
  let g : Group := {
    st := if halted then .halted else .ready, cid := cid, block := block, group := group, regs := lnRegs c, pc := BitVec.ofNat 64 (lnCode c)
    age := age, readyAt := now, haltedAt := now, progressAt := now }
  (((g.sset 1 (lnArg c)).sset 2 block).sset 3 group).sset 4 (lnArgLen c)

/-- Place one group in the lowest free slot of its Burner (R351). -/
def State.placeGroup (s : State) (cid : Nat) (c : Cmd) (l : LaunchSt) (h block group b : Nat) : State :=
  let k := 48 * h + 12 * b + s.freeSlot h b
  let g := newGroup cid c block group s.hearths.nextAge s.time (l.haltAll || l.halts.contains (block, group))
  s.mHearths fun u => { u with groups := mapSet u.groups k g, nextAge := u.nextAge + 1 }

/-- Place the next block of a command on a Hearth (R338, R344, R345, R802). -/
def State.placeBlock (s : State) (cid : Nat) (c : Cmd) (l : LaunchSt) (h : Nat) (bs : List Nat) : State :=
  let block := l.next
  let split := lnSplit c
  let s := s.mHearth h fun u => { u with split := split, placed := u.placed + 1, drain := if u.drain = 1 then 0 else u.drain }
  let s := s.mHearths fun u => { u with
    blocks := u.blocks ++ [{ cid := cid, block := block, hearth := h, lsBytes := lnLs c, left := lnGpb c }]
    launches := mapSet u.launches cid { l with next := block + 1, live := l.live + 1 } }
  let s := (List.range bs.length).foldl (fun s i => s.placeGroup cid c l h block i (bs.getD i 0)) s
  s.trace 4 (hearthDie h) (some c.ctx) c.cmdId
    (block + h * 2 ^ 24 + (s.hearth h).phys * 2 ^ 32 + split * 2 ^ 40 + lnGpb c * 2 ^ 48)

/-- Place up to n further blocks; none when one of them does not fit. -/
def State.placeMany (s : State) (cid : Nat) (c : Cmd) : Nat → Option State
  | 0 => some s
  | n + 1 =>
    match mapGet s.hearths.launches cid, s.choose cid c with
    | some l, some (h, bs) => (s.placeBlock cid c l h bs).placeMany cid c n
    | _, _ => none

/-- The reserved quantity of a class in resident groups (R670). -/
def State.groupShare (s : State) (cls : Nat) : Nat := s.share cls 0 * 48 * s.inService.length / 64

/-- Resident groups of a class (R670). -/
def State.groupUse (s : State) (cls : Nat) : Nat :=
  (s.hearths.groups.filter fun p => ((s.cmd? p.2.cid).map (·.cls)).getD 8 == cls).length

/-- A block of a command may be placed at all (R670). -/
def State.mayPlace (s : State) (c : Cmd) : Bool := decide (c.cls < 4) || c.preemptible || decide (s.groupUse c.cls < s.groupShare c.cls)

/-- The order of R668: classes below their quantity first, then RT0 to RT3, UPKEEP, BULK. -/
def State.classRank (s : State) (cls : Nat) : Nat :=
  (if s.groupUse cls < s.groupShare cls then 0 else 8) + (if cls = 5 then 4 else if cls = 4 then 5 else cls)

/-- The state with the next block of a Launch placed, or with RESIDENT_ALL every block (R338, R339). -/
def State.tryPlace (s : State) (cid : Nat) : Option State :=
  match s.cmd? cid, mapGet s.hearths.launches cid with
  | some c, some l =>
    if c.st == .running && decide (l.next < lnBlocks c) && s.mayPlace c then
      s.placeMany cid c (if lnResident c then lnBlocks c - l.next else 1)
    else none
  | _, _ => none

/-- BLOCK_PLACE (R338 to R341, R668): the dispatcher places a block of the command, unless one of a class that goes first has work
that fits. -/
def execBlockPlace (cid : Nat) (s : State) : Host.Outcome State Fault Refusal :=
  match s.live, s.tryPlace cid, s.cmd? cid with
  | true, some t, some c =>
    let first := s.hearths.launches.any fun p =>
      match s.cmd? p.1 with
      | some d => decide (s.classRank d.cls < s.classRank c.cls) && (s.tryPlace p.1).isSome
      | none => false
    .next (if first then s else t)
  | _, _, _ => .next s

/-- SPLIT_DRAIN_MARK (R346): a block that has waited 20 µs because every Hearth that could take it has another split in force. -/
def execSplitDrainMark (cid : Nat) (s : State) : Host.Outcome State Fault Refusal :=
  match s.ready? cid 0x0C .running, mapGet s.hearths.launches cid with
  | some c, some l =>
    let may := (List.range 160).filter fun h => (s.hearth h).inService && bit (lnQuarters c) (h / 20) && s.drainOf h == 0
    let none1 := may.all fun h => !s.eligible c h
    if decide (lnBlocks c ≤ l.next) || !none1 then .next s
    else match may.foldl (fun best h => match best with
        | none => some h
        | some b => if (s.groupsOn h).length < (s.groupsOn b).length then some h else best) none with
      | none => .next s
      | some h => .next (s.mHearth h fun u => { u with drain := 1 })
  | _, _ => .next s

/-- A command as it stands before its first dispatch, its work undone (R673). -/
def Cmd.again (c : Cmd) : Cmd :=
  { c with st := .admitted, elems := 0, clipped := 0, flags := 0, nf := none, defaulted := false, mixed := false, bagsLeft := 0, hists := [] }

/-- PREEMPTION (R672, R673): a block of the command has waited 1 µs; the most recently dispatched pre-emptible command of a class above
its quantity is killed and dispatched again from its start. -/
def execPreemption (cid : Nat) (s : State) : Host.Outcome State Fault Refusal :=
  match s.ready? cid 0x0C .running, mapGet s.hearths.launches cid with
  | some c, some l =>
    if decide (lnBlocks c ≤ l.next) || !decide (s.groupUse c.cls < s.groupShare c.cls) || (s.tryPlace cid).isSome then .next s
    else
      let victims := s.stk.cmds.filter fun p =>
        p.2.preemptible && (p.2.cls == 4 || p.2.cls == 5) && decide (s.groupShare p.2.cls < s.groupUse p.2.cls) &&
          s.hearths.groups.any (·.2.cid == p.1)
      match victims.foldl (fun best p => match best with
          | none => some p
          | some (b : Nat × Cmd) => if b.2.issued < p.2.issued then some p else best) none with
      | none => .next s
      | some v =>
        let s := (s.killCmd v.1 1).mCmd v.1 fun x => { x.again with kills := x.kills + 1 }
        .next (s.mFn v.2.fn fun f => { f with preempts := f.preempts + 1 })
  | _, _ => .next s

/-! ### The end of a group -/

/-- Change a group, when it is there. -/
def State.mGroup (s : State) (r : GroupRef) (f : Group → Group) : State :=
  s.mHearths fun u => { u with groups := mapAdj u.groups (gkey r) f }

/-- The group of a slot. -/
def State.group? (s : State) (r : GroupRef) : Option Group := mapGet s.hearths.groups (gkey r)

/-- The group and slot of a key. -/
def refOfKey (k : Nat) : GroupRef := { hearth := k / 48, burner := k / 12 % 4, slot := k % 12 }

/-- This group is the last of its command on its Hearth. -/
def State.lastOn (s : State) (r : GroupRef) (g : Group) : Bool :=
  ((s.groupsOn r.hearth).filter fun p => p.2.cid == g.cid).length == 1

/-- Release what a group holds on its Hearth: Grates, waiting binds and tiles (R423, R469). -/
def Hearth.release (u : Hearth) (r : GroupRef) : Hearth :=
  { u with
    flue := u.flue.filter (·.grp != r)
    trv := u.trv.filter (·.grp != r)
    binds := u.binds.filter (· != r)
    grates := u.grates.map fun g => if g.bound == some r then {} else g }

/-- A block without one of its groups; its local store is freed with the last (R345). -/
def Hearths.leaveBlock (u : Hearths) (cid block : Nat) : Hearths :=
  let isIt (b : Block) : Bool := b.cid == cid && b.block == block
  let last := u.blocks.any fun b => isIt b && decide (b.left ≤ 1)
  { u with
    blocks := if last then u.blocks.filter fun b => !isIt b else u.blocks.map fun b => if isIt b then { b with left := b.left - 1 } else b
    launches := if last then mapAdj u.launches cid fun l => { l with live := l.live - 1 } else u.launches }

/-- A Launch whose blocks have all been placed and have ended has finished its work (R534). -/
def State.launchEnd (s : State) (cid : Nat) : State :=
  match s.cmd? cid, mapGet s.hearths.launches cid with
  | some c, some l =>
    if lnBlocks c ≤ l.next ∧ l.live = 0 then
      (s.mHearths fun u => { u with launches := mapErase u.launches cid }).mCmd cid fun c => { c with st := .finished }
    else s
  | _, _ => s

/-- A group reaches DONE by EXIT; its flags join its command's (R158, R354, R423, R534). -/
def State.endGroup (s : State) (r : GroupRef) (g : Group) : State :=
  let last := s.lastOn r g
  let s := s.drainWcWhere r.hearth fun e => e.grp == r || (last && e.cid == g.cid)
  let s := s.mHearth r.hearth fun u => u.release r
  let s := if last then s.flushL1 r.hearth g.cid else s
  let s := s.mHearths fun u => { (u.leaveBlock g.cid g.block) with groups := mapErase u.groups (gkey r) }
  (s.mCmd g.cid fun c => { c with flags := c.flags ||| g.flags }).launchEnd g.cid

/-! ### Precise faults (R358 to R360) -/

/-- DETAIL of a fault of a group (R753). -/
def groupDetail (r : GroupRef) (g : Group) (mask addr : Nat) (level : Option Nat) : List Byte :=
  detHearth g.pc.toNat mask addr r.hearth r.burner r.slot g.group g.block level

/-- A fault of a group: its record, and the teardown of its context. -/
def State.groupFault (s : State) (r : GroupRef) (g : Group) (code mask addr : Nat) (level : Option Nat) : State :=
  match s.cmd? g.cid with
  | none => s
  | some c =>
    let s := if code = 0x401 then s.mHearth r.hearth fun u => { u with divergent := u.divergent + 1 } else s
    let s := if code = 0x402 then s.mHearth r.hearth fun u => { u with selfWait := u.selfWait + 1 } else s
    s.tearCmd c { code := code, dkind := 1, detail := groupDetail r g mask addr level }

/-- The watch interval of a command in Stoker cycles (R367). -/
def State.watchCycles (s : State) (c : Cmd) : Nat := if s.dev == .service then cyclesPerMs else 2 ^ lnWatch c * cyclesPerMs

/-- GROUP_SELF_WAIT (R366): a group that is not HALTED has gone its watch interval without a progress event. -/
def execGroupSelfWait (g : GroupRef) (s : State) : Host.Outcome State Fault Refusal :=
  match s.live, s.group? g with
  | true, some x =>
    match s.cmd? x.cid with
    | none => .next s
    | some c =>
      if x.st != .halted && decide (x.progressAt + s.watchCycles c ≤ s.time) then .next (s.groupFault g x 0x402 0 0 none)
      else .next s
  | _, _ => .next s

/-! ### Moves of logical Hearths and the Ember Test -/

/-- Change a quarter. -/
def State.mQuarter (s : State) (q : Nat) (f : Quarter → Quarter) : State :=
  s.mHearths fun u => { u with quarters := mapMod u.quarters q {} f }

/-- A quarter. -/
def State.quarter (s : State) (q : Nat) : Quarter := mapGetD s.hearths.quarters q {}

/-- A physical Hearth. -/
def State.phys (s : State) (p : Nat) : PhysHearth := mapGetD s.hearths.phys p {}

/-- Change a physical Hearth. -/
def State.mPhys (s : State) (p : Nat) (f : PhysHearth → PhysHearth) : State :=
  s.mHearths fun u => { u with phys := mapMod u.phys p {} f }

/-- A MOVE record (R802). -/
def State.traceMove (s : State) (h left taken : Nat) : State := s.trace 8 (hearthDie h) none 0 (h + left * 2 ^ 8 + taken * 2 ^ 16)

/-- A logical Hearth leaves service (R333). -/
def State.outOfService (s : State) (h : Nat) : State :=
  (s.mHearth h fun u => { u with inService := false, drain := 0 }).traceMove h (s.hearth h).phys 0xFF

/-- HEARTH_MOVE (R331, R332, R465, R781, R783): a draining logical Hearth whose physical Hearth has emptied moves to the quarter's spare,
or goes out of service for a test in place. The vacated Hearth becomes the spare and is tested, unless a Grate retirement moved it. -/
def execHearthMove (hearth : Nat) (s : State) : Host.Outcome State Fault Refusal :=
  let q := hearth / 20
  let u := s.quarter q
  let old := (s.hearth hearth).phys
  if !s.live || (s.hearth hearth).drain != 2 || !(s.groupsOn hearth).isEmpty || u.testing.isSome then .next s
  else if u.grateMove == some hearth then
    match u.spare with
    | none => .next ((s.mHearth hearth fun x => { x with drain := 0 }).mQuarter q fun u => { u with grateMove := none })
    | some p =>
      let s := s.mHearth hearth fun x => { x with phys := p, drain := 0 }
      .next ((s.mQuarter q fun u => { u with grateMove := none, spare := none }).traceMove hearth old p)
  else if u.rotating == some hearth then
    match u.spare with
    | some p =>
      let s := s.mHearth hearth fun x => { x with phys := p, drain := 0 }
      .next ((s.mQuarter q fun u => { u with spare := some old, testing := some old, inPlace := false }).traceMove hearth old p)
    | none => .next ((s.outOfService hearth).mQuarter q fun u => { u with testing := some old, inPlace := true })
  else .next s

/-- EMBER_TEST_COMPLETE (R781 to R783): the test in a quarter ends. -/
def execEmberTestComplete (quarter : Nat) (fail : Bool) (s : State) : Host.Outcome State Fault Refusal :=
  let u := s.quarter quarter
  match s.live, u.testing with
  | true, some p =>
    let h := u.rotating.getD 0xFFFF
    let s := s.mQuarter quarter fun u => { u with
      testing := none, rotating := none, inPlace := false, lastTested := some p, spare := if fail && !u.inPlace then none else u.spare
      fails := if fail then satAdd 255 u.fails 1 else u.fails }
    if !fail then
      let s := s.mPhys p fun x => { x with lastPassTick := s.tck.num, lastPassAt := s.time }
      .next (if u.inPlace then (s.mHearth h fun x => { x with inService := true }).traceMove h 0xFF p else s)
    else
      let s := s.mPhys p fun x => { x with retired := true }
      let s := s.raise { code := 0x420, detail := detWindow p h (s.phys p).lastPassTick.toNat s.tck.num.toNat }
      let s := s.spare { resource := 1, action := 1, inst := p, fromLoc := p, toLoc := 0xFFFFFFFF, code := 0x420 }
      .next (if u.inPlace then
        (s.raise { code := 0x421, detail := detSpare 1 p p 0xFFFFFFFF 1 }).spare
          { resource := 1, action := 2, inst := p, fromLoc := p, toLoc := 0xFFFFFFFF, code := 0x421 }
      else s)
  | _, _ => .next s

/-- EMBER_OVERDUE (R784): a physical Hearth in service has gone 4 s without a pass. -/
def execEmberOverdue (phys : Nat) (s : State) : Host.Outcome State Fault Refusal :=
  match s.live, s.inService.find? fun p => p.2.phys == phys with
  | true, some _ =>
    if (s.phys phys).lastPassAt + 4000 * cyclesPerMs ≤ s.time then
      .next (s.raise { code := 0x422 })
    else .next s
  | _, _ => .next s

/-- The self-check fault of a unit: 0 Stoker, 1 Caravan Assembler, 2 Tally, 3 Sieve, 4 Serai, 5 Damper, 6 Drover (R751, R777). -/
def selfCheckCode (unit : Nat) : Nat := [0x110, 0x210, 0xB10, 0xA03, 0x338, 0x640, 0x608].getD unit 0x110

/-- KNOWN_ANSWER_TEST (R777, R786): a unit's test passes, or raises its self-check fault; a Drover then goes out of service. -/
def execKnownAnswerTest (unit inst : Nat) (pass : Bool) (s : State) : Host.Outcome State Fault Refusal :=
  if !s.live then .next s
  else if pass then .next (s.mFlt fun f => { f with knownPass := mapSet f.knownPass (16 * unit + inst) s.tck.num })
  else
    let last := (mapGetD s.flt.knownPass (16 * unit + inst) 0).toNat
    let s := s.raise { code := selfCheckCode unit, detail := detWindow inst 0xFFFF last s.tck.num.toNat }
    .next (if unit = 6 then
      (s.mDrovers fun d => { d with inService := d.inService &&& ~~~ BitVec.ofNat 16 (2 ^ inst) }).spare
        { resource := 7, action := 2, inst := inst, fromLoc := inst, toLoc := 0xFFFFFFFF, code := 0x608 }
    else s)

end Sys2Proof.Machine
end

