-- ==== Sys2Proof/Machine/Issue.lean ====
section
/-!
DEFINITION. The issue of one instruction of a group (R351 to R360, R380 to R384): fetch, the checks in order, the body of the
instruction, and its retirement. Every Hearth instruction is one call of `State.isaStep`.
-/
namespace Sys2Proof.Machine

/-- What an instruction's body is given: the group with its program counter at the next instruction, its command and the word. -/
structure Issue where
  /-- group slot -/
  r : GroupRef
  /-- the group, its program counter already advanced -/
  g : Group
  /-- its command -/
  c : Cmd
  /-- the context of the command -/
  x : Ctx
  /-- instruction word -/
  w : Nat
  /-- the state -/
  s : State

/-- What an instruction does. -/
inductive Did where
  /-- It retires: the group's new registers, and the rest of the state. -/
  | retire (g : Group) (s : State)
  /-- It has issued and retires by a later event. -/
  | hold (g : Group) (s : State)
  /-- It faults (R358): code, mask of faulting threads, address, level of the walk. -/
  | fault (code mask addr : Nat) (level : Option Nat)
  /-- It cannot issue; the state has counted what the wait counts. -/
  | wait (s : State)
  /-- The group has ended. -/
  | gone (s : State)

/-- An instruction that changes only the group. -/
def Issue.ret (i : Issue) (g : Group) : Did := .retire g i.s

/-- The group at an issue: resident, free to issue, its command running (R351, R374). -/
def State.canIssue (s : State) (r : GroupRef) : Option (Group × Cmd × Ctx) :=
  if !s.live then none
  else match s.group? r with
    | none => none
    | some g =>
      let free := g.st == .ready || g.st == .stalled || (g.st == .halted && g.stepping && (s.hearth r.hearth).trv.all (·.grp != r))
      if !free || g.atBar || g.binding.isSome then none
      else match s.cmd? g.cid with
        | none => none
        | some c => match s.ctx? c.ctx with
          | none => none
          | some x => if c.st == .running then some (g, c, x) else none

/-- The instruction at the program counter, through the instruction cache: the word, whether it is poisoned, and the state; none when it
lies outside the code range or is not aligned (R335, R359, R380). -/
def State.fetchWord (s : State) (r : GroupRef) (g : Group) (c : Cmd) : Option (Nat × Bool × State) :=
  let pc := g.pc.toNat
  if pc % 8 != 0 || decide (pc < lnCode c) || decide (lnCode c + lnCodeLen c < pc + 8) then none
  else match findTr c.tset pc with
    | none => none
    | some t =>
      let p := s.place c.fn t pc
      let l := s.l1Line r.hearth g.cid c p true
      some (leNat ((l.1.data.drop (p.addr % 128)).take 8), l.1.poison, l.2)

/-- The debug command that steps a group. -/
def State.stepCmd (s : State) (g : Group) : Option Nat :=
  match s.cmd? g.cid with
  | none => none
  | some c => (s.stk.cmds.find? fun p => p.2.opcode == 0x29 && p.2.st == .running && p.2.ctx == c.ctx &&
      p.2.arg 32 4 == c.cmdId.toNat && p.2.arg 36 4 == g.block && p.2.arg 40 1 == g.group).map (·.1)

/-- The work of the Debug Step that steps a group is done (R374). -/
def State.stepDone (s : State) (g : Group) : State :=
  if g.stepping then
    match s.stepCmd g with
    | some cid => s.mCmd cid fun c => { c with st := .finished }
    | none => s
  else s

/-- A group whose instruction retires is READY, or HALTED again after a Debug Step (R351, R374). -/
def Group.rest (g : Group) (now : Nat) : Group :=
  { g with
    st := if g.stepping || g.st == .halted then .halted else .ready, stepping := false, readyAt := now
    haltedAt := if g.stepping then now else g.haltedAt }

/-- A group's instruction retires. -/
def State.retireGroup (s : State) (r : GroupRef) (g : Group) : State := (s.stepDone g).mGroup r fun _ => g.rest s.time

/-- Hearth clock cycles that have passed since an instant, at the level in force (R353). -/
def State.hearthCycles (s : State) (since : Nat) : Nat := (s.time - since) * hearthMHz s.power.hlevel / 1200

/-- An issue that R353 forced: the group waited 256 cycles and an older READY group stands on its Burner. -/
def State.promoted (s : State) (r : GroupRef) (g : Group) : Bool :=
  g.st == .ready && decide (256 ≤ s.hearthCycles g.readyAt) &&
    (s.groupsAt r.hearth r.burner).any fun p => p.2.st == .ready && decide (p.2.age < g.age)

/-- Count an issued instruction (R379, R797). -/
def State.countIssue (s : State) (r : GroupRef) (c : Cmd) (forced : Bool) : State :=
  (s.mHearth r.hearth fun u => { u with issued := u.issued + 1, promoted := if forced then u.promoted + 1 else u.promoted }).count
    1 r.hearth (some c.ctx) c.cls 1

/-- A group whose next instruction waits is STALLED (R351). -/
def State.stallGroup (s : State) (r : GroupRef) : State := s.mGroup r fun g => { g with st := if g.st == .halted then .halted else .stalled }

/-- Registers of outstanding Trivet results of a group (R390). -/
def State.trvRegs (s : State) (r : GroupRef) : List Nat :=
  ((s.hearth r.hearth).trv.filter (·.grp == r)).flatMap fun o => run o.vbase 8

/-- Issue the instruction at a group's program counter when it is one of the row's (R358, R359, R382, R384): an undefined one raises 0x0403,
a register beyond the allocation 0x0404, a group-wide one under a partial mask 0x0401. -/
def State.isaStep (s : State) (r : GroupRef) (codes : List (Nat × Nat)) (body : Issue → Did) : State :=
  match s.canIssue r with
  | none => s
  | some (g, c, x) =>
    match s.fetchWord r g c with
    | none => s.groupFault r g 0x403 0 0 none
    | some (w, bad, s1) =>
      if bad then s1.tearCmd c { code := 0x632, dkind := 1, detail := groupDetail r g 0 g.pc.toNat none }
      else if !legal w then s1.groupFault r g 0x403 0 0 none
      else if !codes.contains (wCls w, wFunc w) then s
      else
        let regs := regsOf w
        if regs.any fun n => decide (g.regs * 8 ≤ n) then s1.groupFault r g 0x404 g.exec.toNat 0 none
        else if (wCls w = 10 ∨ wCls w = 11) ∧ g.exec ≠ BitVec.allOnes 64 then s1.groupFault r g 0x401 g.exec.toNat 0 none
        else if regs.any fun n => (s.trvRegs r).contains n then s.stallGroup r
        else
          let forced := s.promoted r g
          match body { r := r, g := { g with pc := g.pc + 8 }, c := c, x := x, w := w, s := s1 } with
          | .retire g' s2 => (s2.countIssue r c forced).retireGroup r g'
          | .hold g' s2 => (s2.countIssue r c forced).mGroup r fun _ => { g' with st := if g'.st == .halted then .halted else .stalled }
          | .fault code mask addr level => s1.groupFault r g code mask addr level
          | .wait s2 => s2.stallGroup r
          | .gone s2 => s2.countIssue r c forced

/-- A progress event of a group (R365). -/
def Group.progress (g : Group) (now : Nat) : Group := { g with progressAt := now }

end Sys2Proof.Machine
end

