-- ==== Sys2Proof/Machine/Debug.lean ====
section
/-!
DEFINITION. The debug commands: Debug Halt, Debug Step, Debug Resume and Debug Read Group (R368 to R378, R389).
-/
namespace Sys2Proof.Machine

/-- TARGET_CMD. -/
def dbTarget (c : Cmd) : Nat := c.arg 32 4
/-- BLOCK. -/
def dbBlock (c : Cmd) : Nat := c.arg 36 4
/-- GROUP. -/
def dbGroup (c : Cmd) : Nat := c.arg 40 1
/-- SCOPE. -/
def dbScope (c : Cmd) : Nat := c.arg 41 1
/-- OUT_ADDR. -/
def dbOut (c : Cmd) : Nat := c.arg 48 8

/-- The operand bytes of a debug command obey R369. -/
def debugFmt (c : Cmd) : Bool :=
  zeroExcept c.bytes [(32, 10), (48, 8)] && decide (dbBlock c < 2 ^ 24 ∧ dbGroup c < 64 ∧ dbScope c < 3) &&
    (c.opcode == 0x28 || c.opcode == 0x2A || dbScope c == 0)

/-- Bytes of the result (R371, R376). -/
def debugOutLen (op : Nat) : Nat := if op = 0x2B then 65792 else 16

/-- The ranges of a debug command (R376). -/
def debugRanges (c : Cmd) : List Range := [(dbOut c, debugOutLen c.opcode, true)]

/-- The Launches of the context that carry the target's command identifier. -/
def State.debugTargets (s : State) (c : Cmd) : List (Nat × Cmd) :=
  s.stk.cmds.filter fun p => p.2.opcode == 0x0C && p.2.ctx == c.ctx && p.2.cmdId.toNat == dbTarget c

/-- A debug command names a group of one of its targets. -/
def debugNames (c : Cmd) (block group : Nat) : Bool :=
  dbScope c == 2 || (block == dbBlock c && (dbScope c == 1 || group == dbGroup c))

/-- A debug command names a resident group. -/
def State.debugNamed (s : State) (c : Cmd) (g : Group) : Bool :=
  (s.debugTargets c).any (fun p => p.1 == g.cid) && debugNames c g.block g.group

/-- The resident groups that a debug command names. -/
def State.debugGroups (s : State) (c : Cmd) : List (Nat × Group) := s.hearths.groups.filter fun p => s.debugNamed c p.2

/-- Change the groups that a debug command names and a condition picks. -/
def State.mDebugGroups (s : State) (c : Cmd) (p : Group → Bool) (f : Group → Group) : State :=
  s.mHearths fun u => { u with groups := u.groups.map fun x => if s.debugNamed c x.2 && p x.2 then (x.1, f x.2) else x }

/-- How many groups a debug command names. -/
def State.debugTotal (s : State) (c : Cmd) : Nat :=
  if dbScope c = 0 then 1
  else ((s.debugTargets c).map fun p =>
    if dbScope c = 2 then lnBlocks p.2 * lnGpb p.2 else if dbBlock c < lnBlocks p.2 then lnGpb p.2 else 0).sum

/-- The next block that a Launch places. -/
def State.nextBlock (s : State) (cid : Nat) : Nat := ((mapGet s.hearths.launches cid).map (·.next)).getD 0

/-- How many named groups of one Launch are UNPLACED. -/
def State.debugUnplaced (s : State) (c : Cmd) (p : Nat × Cmd) : Nat :=
  let next := s.nextBlock p.1
  if p.2.st == .finished then 0
  else if dbScope c = 2 then (lnBlocks p.2 - next) * lnGpb p.2
  else if next ≤ dbBlock c ∧ dbBlock c < lnBlocks p.2 then
    (if dbScope c = 1 then lnGpb p.2 else if dbGroup c < lnGpb p.2 then 1 else 0)
  else 0

/-- A Launch with the unplaced groups that a Debug Halt names noted. -/
def LaunchSt.note (l : LaunchSt) (c : Cmd) (gpb : Nat) : LaunchSt :=
  if dbScope c = 2 then { l with haltAll := true }
  else if dbScope c = 1 then { l with halts := l.halts ++ (List.range gpb).map fun g => (dbBlock c, g) }
  else { l with halts := (dbBlock c, dbGroup c) :: l.halts }

/-- Note the unplaced groups that a Debug Halt names, so that they are HALTED at placement (R373). -/
def State.noteHalts (s : State) (c : Cmd) (p : Nat × Cmd) : State :=
  if s.debugUnplaced c p = 0 then s
  else s.mHearths fun u => { u with launches := mapMod u.launches p.1 {} fun l => l.note c (lnGpb p.2) }

/-- What a debug command does before it acts: its order among the control commands, the debug attribute (R368) and its result's
translation; the final state when one of them decides it. -/
def State.debugBegin (s : State) (cid op : Nat) : Except State Cmd :=
  match s.ctl? cid op with
  | none => .error s
  | some (c, x) =>
    if !x.debug then .error (s.refuse cid c { code := 0x408, dkind := 1 })
    else match s.trRanges setLimit x (debugRanges c) [] with
      | .error e => .error (s.refuseTr cid c e)
      | .ok set =>
        let c := { c with tset := set }
        if s.cmdConflict cid c (dbOut c) (debugOutLen op) then .error s else .ok c

/-- Write a result and commit (R370, R371). -/
def State.debugCommit (s : State) (cid : Nat) (c : Cmd) (bs : List Byte) : State :=
  ((s.cmdWrite cid c (dbOut c) bs).commitUnit (unitOf cid c) (some c.ctx)).commitCtl cid c

/-- The 16-byte result of R371. -/
def State.debugResult (s : State) (acted notFound : Nat) : List Byte := toLe 4 acted ++ toLe 4 notFound ++ toLe 8 s.tck.num.toNat

/-- DEBUG_HALT (R372, R373, R377): every named group stands at an instruction boundary and halts; unplaced ones halt when placed. -/
def execDebugHalt (cid : Nat) (s : State) : Host.Outcome State Fault Refusal :=
  match s.debugBegin cid 0x28 with
  | .error t => .next t
  | .ok c =>
    let hit := (s.debugGroups c).filter fun p => p.2.st == .ready || p.2.st == .stalled
    let ts := s.debugTargets c
    let acted := hit.length + (ts.map (s.debugUnplaced c)).sum
    let total := s.debugTotal c
    let t := s.mDebugGroups c (fun g => g.st == .ready || g.st == .stalled) fun g => { g with st := .halted, haltedAt := s.time }
    let t := ts.foldl (fun t p => t.noteHalts c p) t
    .next (t.debugCommit cid c (s.debugResult acted (total - acted)))

/-- The HALTED group that a command of scope 0 names. -/
def State.debugHalted (s : State) (c : Cmd) : Option (Nat × Group) := (s.debugGroups c).find? fun p => p.2.st == .halted

/-- DEBUG_STEP (R374, R377): it lets a HALTED group issue one instruction; a second DEBUG_STEP, when that has retired or the group is gone,
writes the result and commits. -/
def execDebugStep (cid : Nat) (s : State) : Host.Outcome State Fault Refusal :=
  match s.ready? cid 0x29 .finished, s.ready? cid 0x29 .running with
  | some c, _ => .next (if s.cmdConflict cid c (dbOut c) 16 then s else s.debugCommit cid c (s.debugResult 1 0))
  | none, some c =>
    let wait := (s.debugGroups c).any fun p => p.2.stepping
    .next (if wait || s.cmdConflict cid c (dbOut c) 16 then s else s.debugCommit cid c (s.debugResult 0 1))
  | none, none =>
    match s.debugBegin cid 0x29 with
    | .error t => .next t
    | .ok c =>
      match s.debugHalted c with
      | none => .next (s.debugCommit cid c (s.debugResult 0 1))
      | some p =>
        .next ((s.mCmd cid fun x => { x with st := .running, tset := c.tset }).mGroup (refOfKey p.1) fun g => { g with stepping := true })

/-- DEBUG_RESUME (R366, R375): each named HALTED group resumes; time spent HALTED does not count for the watch. -/
def execDebugResume (cid : Nat) (s : State) : Host.Outcome State Fault Refusal :=
  match s.debugBegin cid 0x2A with
  | .error t => .next t
  | .ok c =>
    let hit := (s.debugGroups c).filter fun p => p.2.st == .halted
    let t := s.mDebugGroups c (fun g => g.st == .halted) fun g => { g with
      st := if g.atBar || g.binding.isSome then .stalled else .ready
      readyAt := s.time, progressAt := g.progressAt + (s.time - g.haltedAt) }
    .next (t.debugCommit cid c (s.debugResult hit.length (s.debugTotal c - hit.length)))

/-- Code of a group's state (R351). -/
def GrpState.code : GrpState → Nat | .unplaced => 0 | .ready => 1 | .stalled => 2 | .halted => 3 | .done => 4

/-- Bytes 0 to 63 of the record of a resident group (R376). -/
def State.groupHead (s : State) (r : GroupRef) (g : Group) : List Byte :=
  padTo 64 (toLe 8 g.pc.toNat ++ toLe 8 g.exec.toNat ++ toLe 1 g.st.code ++ toLe 1 g.regs ++ toLe 1 r.burner ++ toLe 1 r.slot ++
    toLe 2 r.hearth ++ toLe 1 g.flags.toNat ++ [0] ++ toLe 3 g.block ++ [0] ++ toLe 1 g.group ++ [0, 0, 0] ++ toLe 8 s.tck.num.toNat)

/-- The scalar state (R389). -/
def Group.scalarBytes (g : Group) : List Byte :=
  padTo 192 ((List.range 16).flatMap (fun n => toLe 8 (g.sget n)) ++ toLe 1 g.bound.toNat ++
    toLe 1 (b2n g.atBar + b2n g.binding.isSome * 2))

/-- The vector registers (R376). -/
def Group.vectorBytes (g : Group) : List Byte :=
  (List.range (g.regs * 8)).flatMap fun n => (List.range 64).flatMap fun t => toLe 4 (g.vat n t)

/-- Bytes 0 to 63 for a group that is not resident: the spec gives its state, the command's values and the tick; the place, counter and
registers that it does not have are free values (assumption 5). -/
def State.absentHead (s : State) (c : Cmd) (st : Nat) : List Byte :=
  let free (i n : Nat) : List Byte := toLe n (Config.freeValue (s.hearths.freeCount + i)).toNat
  padTo 64 (free 0 8 ++ free 1 8 ++ toLe 1 st ++ free 2 1 ++ free 3 1 ++ free 4 1 ++ free 5 2 ++ free 6 1 ++ [0] ++ toLe 3 (dbBlock c) ++ [0] ++
    toLe 1 (dbGroup c) ++ [0, 0, 0] ++ toLe 8 s.tck.num.toNat)

/-- DEBUG_READ_GROUP (R376, R389): the whole record of a HALTED group, else its first 64 bytes. -/
def execDebugReadGroup (cid : Nat) (s : State) : Host.Outcome State Fault Refusal :=
  match s.debugBegin cid 0x2B with
  | .error t => .next t
  | .ok c =>
    match s.debugGroups c with
    | p :: _ =>
      let head := s.groupHead (refOfKey p.1) p.2
      .next (s.debugCommit cid c (if p.2.st == .halted then head ++ p.2.scalarBytes ++ p.2.vectorBytes else head))
    | [] =>
      let unplaced := (s.debugTargets c).any fun p => s.debugUnplaced c p != 0
      let t := s.mHearths fun u => { u with freeCount := u.freeCount + 7 }
      .next (t.debugCommit cid c (s.absentHead c (if unplaced then 0 else 0xFF)))

end Sys2Proof.Machine
end

