-- ==== Sys2Proof/Machine/HostLink.lean ====
section
/-!
DEFINITION. The host link (R586 to R589, R597 to R613, R620, R621, R40): completed walks and ATS completions, invalidations, host accesses
to stack memory, snoops, lost links, and Rehome Span (R604 to R608).
-/
namespace Sys2Proof.Machine

/-! ### Walks and ATS completions -/

/-- A cached translation of an address is dropped (R589). -/
def State.dropTr (s : State) (h ctx : Nat) (c : Ctx) (da : Nat) : State :=
  let keep (p : Nat × PageTr) : Bool := !(p.1 == ctx && decide (p.2.da ≤ da ∧ da < p.2.da + p.2.size))
  let s := s.mHearth h fun u => { u with tlb := u.tlb.filter keep }
  s.mXlt fun x =>
    let x := x.setStc (hearthDie h) ((x.stc (hearthDie h)).filter keep)
    let w := (x.wc (hearthDie h)).filter fun e => !(e.key == c.key && e.index == da / 2 ^ (12 + 9 * e.level))
    if hearthDie h = 0 then { x with wc0 := w } else { x with wc1 := w }

/-- PAGE_WALK_COMPLETE (R582 to R589, R595): a Hearth's translation of an address of a context completes and is cached; with `parity` the
cached entry had a parity error and is fetched again. A walk that fails caches nothing: its fault is the access's. -/
def execPageWalkComplete (hearth ctx da : Nat) (parity : Bool) (s : State) : Host.Outcome State Fault Refusal :=
  match s.live && (s.hearth hearth).inService, s.ctx? ctx with
  | true, some c =>
    let s := if parity then (s.dropTr hearth ctx c da).mXlt fun x => { x with parity := x.parity + 1 } else s
    .next (s.runTr hearth ctx c da).2
  | _, _ => .next s

/-- ATS_TRANSLATION_COMPLETION (R587): the completion is cached; one that withholds a permission refuses the accesses that need it. -/
def execAtsTranslationCompletion (fn addr target : Nat) (read write : Bool) (s : State) : Host.Outcome State Fault Refusal :=
  if !s.live then .next s
  else
    let a := addr / 4096 * 4096
    let e : AtsEntry := { fn := fn, addr := a, target := target / 4096 * 4096, read := read, write := write }
    .next (s.mXlt fun x => { x with ats := (e :: x.ats.filter fun o => !(o.fn == fn && o.addr == a)).take 16384 })

/-! ### Invalidation -/

/-- Two ranges share a byte. -/
def meets (a n b m : Nat) : Bool := decide (a < b + m ∧ b < a + n)

/-- Cached translations of contexts whose page a test covers are dropped, with every walk cache entry of those contexts (R599). -/
def State.dropCaches (s : State) (ctxs : List Nat) (hit : PageTr → Bool) : State :=
  let keep (p : Nat × PageTr) : Bool := !(ctxs.contains p.1 && hit p.2)
  let keys := ctxs.filterMap fun n => (s.ctx? n).map Ctx.key
  let s := s.mHearths fun u => { u with logical := u.logical.map fun p => (p.1, { p.2 with tlb := p.2.tlb.filter keep }) }
  s.mXlt fun x => { x with
    stc0 := x.stc0.filter keep, stc1 := x.stc1.filter keep
    wc0 := x.wc0.filter fun e => !keys.contains e.key, wc1 := x.wc1.filter fun e => !keys.contains e.key }

/-- A held page translates again to the same target address, TGT, ATTR and W (R600). -/
def State.samePage (s : State) (c : Ctx) (t : PageTr) : Bool :=
  match s.trPages (2 ^ 52) c false (t.da + t.size) (t.size / 4096 + 2) [] t.da with
  | .error _ => false
  | .ok set => set.all fun n => n.space == t.space && n.attr == t.attr && n.writable == t.writable &&
      decide (n.target + (max n.da t.da - n.da) = t.target + (max n.da t.da - t.da))

/-- The pages that the translation sets of a context hold: its commands', its waybills' and its Recipes' (R599, R663). -/
def State.heldOf (s : State) (ctx : Nat) : List PageTr :=
  (s.stk.cmds.filter fun p => p.2.ctx == ctx).flatMap (·.2.tset) ++ (s.ldg.wb.filter fun p => p.2.ctx == ctx).flatMap (·.2.tset) ++
  (s.stk.recipes.filter fun p => p.2.ctx == ctx).flatMap (·.2.held)

/-- A context loses a held translation (R600). -/
def State.heldChanged (s : State) (ctx da : Nat) : State :=
  (s.tear ctx { code := 0x706, detail := detDa da }).mXlt fun x => { x with invalTeardowns := x.invalTeardowns + 1 }

/-- Every held page in range of the contexts is translated again; a context with one that changed is torn down (R599, R600). -/
def State.redoHeld (s : State) (ctxs : List Nat) (hit : PageTr → Bool) (same : Ctx → PageTr → Bool) : State :=
  ctxs.foldl (fun s n =>
    match s.ctx? n with
    | none => s
    | some c =>
      if c.dead then s
      else match (s.heldOf n).find? fun t => hit t && !same c t with
        | some t => s.heldChanged n t.da
        | none => s) s

/-- The Device Addresses of a shard's remote extent: what a Rehome Span has moved lies at its new span (R607). -/
def Table.remoteRanges (t : Table) (h : Shard) : List (Nat × Nat) :=
  let n := h.remoteRows * t.rowBytes
  let cuts := h.spans.map (·.1)
  let pieces := (List.range (n / spanBytes + 2)).map fun i =>
    let a := max h.remoteBase ((h.remoteBase / spanBytes + i) * spanBytes)
    let b := min (h.remoteBase + n) ((h.remoteBase / spanBytes + i + 1) * spanBytes)
    (a, b - a)
  (pieces.filter fun p => p.2 != 0 && !cuts.contains (p.1 / spanBytes * spanBytes)) ++ h.spans.map fun p => (p.2, spanBytes)

/-- The Device Addresses of the extents of a shard alone (R194, R303). -/
def Table.shardRanges (t : Table) (h : Shard) : List (Nat × Nat) :=
  [(h.stackBase, h.stackRows * t.rowBytes), (h.larderBase, t.larderSlots * t.rowBytes), (h.stateStack, h.stackRows * t.stride),
   (h.stateRemote, h.remoteRows * t.stride)] ++ t.remoteRanges h

/-- The Device Addresses of the extents that every shard uses. -/
def Table.sharedRanges (t : Table) : List (Nat × Nat) :=
  [(t.scaleAddr, t.elems / 16 * 8), (t.defAddr, t.rowBytes)] ++
  if t.mode = 2 then [(t.mapA, 64 * 2 ^ t.log2Buckets), (t.mapB, 64 * 2 ^ t.log2Buckets)] else []

/-- A registered table after an invalidation: its affected shards go offline at the next boundary; whether any is affected (R191). -/
def Table.invalidated (t : Table) (hit : Nat → Nat → Bool) : Table × Bool :=
  let any (l : List (Nat × Nat)) : Bool := l.any fun e => e.2 != 0 && hit e.1 e.2
  let all := any t.sharedRanges
  let shards := t.shards.map fun h => if all || any (t.shardRanges h) then { h with offlineDue := true } else h
  ({ t with shards := shards }, all || t.shards.any fun h => any (t.shardRanges h))

/-- The tables whose extents an invalidation covers: 0x0305 for each (R191). -/
def State.invalidateTables (s : State) (mine : Table → Bool) (hit : Table → Nat → Nat → Bool) : State :=
  (s.tally.tables.map (·.1)).foldl (fun s tid =>
    match s.table? tid with
    | none => s
    | some t =>
      let r := t.invalidated (hit t)
      if mine t && r.2 then (s.mTable tid fun _ => r.1).raise { code := 0x305, fn := some t.fn, detail := s.detTid tid } else s) s

/-- INVALIDATE_TRANSLATIONS (R597, R599, R600, R602): the effect in the cycle of acceptance; INVALIDATION_COMPLETE commits the command. -/
def execInvalidateTranslations (cid : Nat) (s : State) : Host.Outcome State Fault Refusal :=
  match s.ctl? cid 0x25 with
  | none => .next s
  | some (c, _) =>
    let all := bit (c.arg 34 1) 0
    let start := c.arg 40 8
    let len := c.arg 48 8
    let owned := (s.stk.ctxs.filter fun p => p.2.fn == c.fn).map (·.1)
    let ctxs := if all then owned else owned.filter (· == c.arg 32 2)
    if (!all && ctxs.isEmpty) || start % 4096 != 0 || len % 4096 != 0 then .next (s.refuse cid c { code := 0x717 })
    else
      let n := if len = 0 then 2 ^ 64 else len
      let a := if len = 0 then 0 else start
      let hit (t : PageTr) : Bool := meets t.da t.size a n
      let s := s.dropCaches ctxs hit
      let s := s.mCmd cid fun c => { c with st := .running }
      let s := s.redoHeld ctxs hit s.samePage
      let s := s.invalidateTables (fun t => ctxs.contains t.ctx) fun _ da m => meets da m a n
      .next (s.mXlt fun x => { x with pendingInv := x.pendingInv ++ [{ ctxs := ctxs, first := a, len := n, cid := some cid }] })

/-- A range of a table's extents has a page whose link address lies in a range (R598). -/
def State.linkHit (s : State) (t : Table) (a n da m : Nat) : Bool :=
  match s.pieces t.fn t.held da m with
  | none => false
  | some _ => t.held.any fun p => p.space != .stack && meets p.da p.size da m &&
      (let lo := max p.da da; let hi := min (p.da + p.size) (da + m); meets (p.target + (lo - p.da)) (hi - lo) a n)

/-- ATS_INVALIDATE_REQUEST (R598 to R600): of a function's link addresses; `same` says whether what the part holds translates again to the
same addresses. -/
def execAtsInvalidateRequest (fn addr len : Nat) (same : Bool) (s : State) : Host.Outcome State Fault Refusal :=
  if !s.live || decide (32 ≤ (s.xlt.pendingInv.filter fun v => v.ats && v.fn == fn).length) then .next s
  else
    let ctxs := (s.stk.ctxs.filter fun p => p.2.fn == fn).map (·.1)
    let hit (t : PageTr) : Bool := t.space != .stack && meets t.target t.size addr len
    let s := s.dropCaches ctxs hit
    let s := s.mXlt fun x => { x with ats := x.ats.filter fun e => !(e.fn == fn && meets e.addr 4096 addr len) }
    let s := s.redoHeld ctxs hit fun _ _ => same
    let s := s.invalidateTables (fun t => t.fn == fn) fun t da m => s.linkHit t addr len da m
    .next (s.mXlt fun x => { x with pendingInv := x.pendingInv ++ [{ ctxs := ctxs, first := addr, len := len, ats := true, fn := fn }] })

/-- INVALIDATION_COMPLETE (R599): the command commits, or the Invalidate Completion goes out. -/
def execInvalidationComplete (idx : Nat) (s : State) : Host.Outcome State Fault Refusal :=
  match s.live, s.xlt.pendingInv[idx]? with
  | true, some v =>
    let s := s.mXlt fun x => { x with pendingInv := x.pendingInv.eraseIdx idx, invals := x.invals + 1 }
    match v.cid with
    | none => .next (s.mXlt fun x => { x with invalDone := (v.fn, v.first) :: x.invalDone })
    | some cid => match s.cmd? cid with
      | some c => .next (s.commitCtl cid c)
      | none => .next s
  | _, _ => .next s

/-! ### Host accesses to stack memory -/

/-- Bytes of the HDM range of a port (R611). -/
def hdmBytes : Nat := 4 * mappable

/-- The LPA of a byte of a port's HDM range (R611). -/
def hdmAddr (port off : Nat) : Nat := (4 * port + off / mappable) * 2 ^ 37 + off % mappable

/-- The bytes of an HDM range as places in stack memory. -/
def hdmPlaces (port off n : Nat) : List PA := (List.range n).map fun i => { space := .stack, addr := hdmAddr port (off + i) }

/-- A link port of the part. -/
def Xlt.port (x : Xlt) (p : Nat) : LinkPort := if p = 0 then x.port0 else x.port1

/-- The HDM range of a port can be reached (R620, R844, R871). -/
def State.hdmOn (s : State) (p : Nat) : Bool :=
  s.hostOn && !s.img.bx3 && s.flt.quenchDue.isNone && decide (p < 2) && (s.xlt.port p).up && !(s.xlt.port p).rerouted

/-- HOST_STACK_READ (R611, R612, R768): the committed value, with its poison indication. -/
def execHostStackRead (port off len : Nat) (s : State) : Host.Outcome State Fault Refusal :=
  if !s.hdmOn port then .next s
  else if hdmBytes < off + len then .fault .hdmOutOfRange
  else
    let ps := hdmPlaces port off len
    .next (s.mBus fun b => { b with hdmData := ps.map (s.viewByte noUnit), hdmPoison := ps.any fun p => s.viewPoisoned noUnit p 1 })

/-- A host write of bytes of one line: memory and the committed Depot copy (R612); a write of all 64 bytes of a unit clears its poison (R771). -/
def State.hostPiece (s : State) (a : Nat × List Byte) (poisoned : Bool) : State :=
  let p : PA := { space := .stack, addr := a.1 }
  let s := s.memWrite p a.2 poisoned
  match s.dline? p with
  | none => s
  | some l => if l.data.isEmpty then s else s.mDepot (·.putLine { l with data := overlay l.data (a.1 % 128) a.2, poison := l.poison || poisoned })

/-- HOST_STACK_WRITE (R270, R611, R612): a write to a registered table's extents is dropped with 0x0341 against the host function `fn`. -/
def execHostStackWrite (port fn off : Nat) (data : List Byte) (poisoned : Bool) (s : State) : Host.Outcome State Fault Refusal :=
  if !s.hdmOn port then .next s
  else if hdmBytes < off + data.length then .fault .hdmOutOfRange
  else
    let p : PA := { space := .stack, addr := hdmAddr port off }
    let ps := (pieces data.length off data).map fun a => (hdmAddr port a.1, a.2)
    match ps.findSome? fun a => s.guardedBy { space := .stack, addr := a.1 } a.2.length with
    | some tid =>
      let home := ((s.table? tid).map fun t => (t.shard 0).home).getD 0
      .next ((s.mSeraiCnt home fun u => { u with refusedWrites := u.refusedWrites + 1 }).raiseAs 0
        { code := 0x341, fn := some fn, detail := detAddr p.addr 1 0xFF (stackOf p) 0 0 0 })
    | none => .next (ps.foldl (fun s a => s.hostPiece a poisoned) s)

/-- HOST_SNOOP (R536): the Depot answers with the committed copy of a host line; a snoop for ownership takes the copy, a modified one
with its data. -/
def execHostSnoop (addr : Nat) (own : Bool) (s : State) : Host.Outcome State Fault Refusal :=
  if !s.live then .next s
  else
    let p : PA := { space := .host, addr := addr / 128 * 128 }
    let data := match s.dline? p with | some l => l.data | none => []
    let s := s.mBus fun b => { b with hdmData := data, hdmPoison := match s.dline? p with | some l => l.poison && !l.data.isEmpty | none => false }
    .next (if own then s.dropCommitted p else s)

/-! ### Lost links -/

/-- PORT1_LINK_LOST (R620, R871): die 1's requests go over port 0, and the HDM range of port 1 is unreachable until cold reset. -/
def execPort1LinkLost (s : State) : Host.Outcome State Fault Refusal :=
  if !s.live || s.img.bx3 || s.pins.perst1 || s.xlt.port1.lost then .next s
  else .next ((s.mXlt fun x => { x with port1 := { x.port1 with up := false, lost := true, rerouted := true } }).raise { code := 0x721 })

/-- PORT0_LINK_LOST (R621): Quenched. -/
def execPort0LinkLost (s : State) : Host.Outcome State Fault Refusal :=
  if !s.live || s.pins.perst0 || s.xlt.port0.lost then .next s
  else .next ((s.mXlt fun x => { x with port0 := { x.port0 with up := false, lost := true } }).raise { code := 0x722 })

/-- CAUSEWAY_FLIT_FAIL (R40): a flit fails its CRC for the time numbered `replays`; after 16 failed replays the link is lost. -/
def execCausewayFlitFail (replays : Nat) (s : State) : Host.Outcome State Fault Refusal :=
  if s.dev == .off || decide (replays < 16) then .next s else .next (s.raise { code := 0x611 })

/-! ### Rehome Span (R604 to R608) -/

/-- Operand bytes of Rehome Span outside its fields are 0 (R646). -/
def rehomeFmt (c : Cmd) : Bool := zeroExcept c.bytes [(32, 4), (40, 16)]

/-- A piece of memory shares a byte with one of a list. -/
def hitsPieces (ps : List (PA × Nat)) (q : PA × Nat) : Bool := ps.any fun p => p.1.space == q.1.space && meets p.1.addr p.2 q.1.addr q.2

/-- Pieces of memory overlap an extent of a table. -/
def State.overTable (s : State) (t : Table) (ps : List (PA × Nat)) : Bool :=
  (t.inUse.any fun e => match s.pieces t.fn t.held e.1 e.2 with | some qs => qs.any (hitsPieces ps) | none => false) ||
  (t.scaleHeld ++ (t.opt.map (·.held)).getD [] ++ t.shards.flatMap fun h => h.moved ++ h.stHeld).any fun p => hitsPieces ps ({ space := p.space, addr := p.target }, p.size)

/-- The move that a Rehome Span may make (R604). -/
def State.rehomeOk (s : State) (cid : Nat) (c : Cmd) (x : Ctx) (t : Table) : Option SpanMove :=
  let si := c.arg 34 2
  let old := c.arg 40 8
  let new := c.arg 48 8
  let h := t.shard si
  let rt := s.rt (c.arg 32 2)
  if t.shards.length ≤ si ∨ old % spanBytes ≠ 0 ∨ new % spanBytes ≠ 0 ∨ old < h.remoteBase ∨ h.remoteBase + h.remoteRows * t.rowBytes ≤ old ∨
     rt.mig.isSome ∨ rt.recal.isSome then none
  else match s.trRanges (2 ^ 52) x [(new, spanBytes, true)] [], findTr t.held old with
    | .ok set, some o =>
      match s.pieces x.fn set new spanBytes with
      | none => none
      | some ps =>
        if set.all (·.space == o.space) && !s.tally.tables.any (fun y => s.overTable y.2 ps) && !s.tally.fresh.any (fun y => s.overTable y.2 ps) then
          some { cid := cid, shard := si, oldSpan := old, newSpan := new, newTrs := ps.foldl (fun (l : List PageTr) p =>
            l ++ [{ da := old + (l.map (·.size)).sum, size := p.2, space := p.1.space, target := p.1.addr, attr := o.attr, writable := true }]) [] }
        else none
    | _, _ => none

/-- Bytes of a span that lie in the shard's remote extent. -/
def Table.spanLen (t : Table) (h : Shard) (old : Nat) : Nat := min spanBytes (h.remoteBase + h.remoteRows * t.rowBytes - old)

/-- REHOME_SPAN (R604, R605): the home Serai copies the span; later changes go to both copies. -/
def execRehomeSpan (cid : Nat) (s : State) : Host.Outcome State Fault Refusal :=
  match s.ready? cid 0x14 .admitted with
  | none => .next s
  | some c =>
    let tid := c.arg 32 2
    if !s.orderOk cid c then .next s
    else match s.usable c tid, s.ctx? c.ctx with
    | some t, some x =>
      match s.rehomeOk cid c x t with
      | none => .next (s.refuseEngine cid c tid 0x730)
      | some m =>
        let n := t.spanLen (t.shard m.shard) m.oldSpan
        let s := s.mRt tid fun r => { r with moves := r.moves ++ [m] }
        let t' := { t with held := m.newTrs }
        let s := (List.range (n / 64 + 1)).foldl (fun s i =>
          let a := m.oldSpan + 64 * i
          let k := min 64 (n - 64 * i)
          if k = 0 then s else s.tblWriteP t' a (s.tblRead t a k) (s.tblPoison t a k)) s
        .next (s.mCmd cid fun c => { c with st := .finished })
    | _, _ => .next (s.refuseEngine cid c tid 0x730)

/-- A page without a range of Device Addresses: what lies before and after it. -/
def PageTr.cut (t : PageTr) (a n : Nat) : List PageTr :=
  if !meets t.da t.size a n then [t]
  else
    (if t.da < a then [{ t with size := a - t.da }] else []) ++
    (if a + n < t.da + t.size then [{ t with da := a + n, size := t.da + t.size - (a + n), target := t.target + (a + n - t.da) }] else [])

/-- The committed moves of a table switch at a boundary (R606, R607). -/
def State.spanSwitch (s : State) (tid : Nat) : State :=
  (s.rt tid).moves.foldl (fun s m =>
    if !m.committed then s
    else
      let s := s.mTable tid fun t => { t.mShard m.shard (fun h => { h with
          spans := (m.oldSpan, m.newSpan) :: h.spans.filter (·.1 != m.oldSpan) }) with
        held := m.newTrs ++ t.held.flatMap fun p => p.cut m.oldSpan spanBytes }
      (s.mXlt fun x => { x with rehomed := x.rehomed + 1 }).mRt tid fun r => { r with moves := r.moves.filter fun y => y.oldSpan != m.oldSpan }) s

end Sys2Proof.Machine
end

