-- ==== Sys2Proof/Machine/Sparing.lean ====
section
/-!
DEFINITION. Sparing of a Serai's fetch lanes (R786).
-/
namespace Sys2Proof.Machine

/-- Stoker cycles in a second. -/
def cyclesPerS : Nat := 1200000000

/-- The first active lane after a failed one, in ascending order modulo 16 (R786). -/
def nextLane (lanes : BitVec 17) (lane : Nat) : Option Nat :=
  ((List.range 16).map fun i => (lane + 1 + i) % 16).find? fun n => lanes.getLsbD n && n != lane

/-- A fetch lane fails: lane 16 takes its channels, or the next lane does (R786). -/
def State.laneFail (s : State) (q lane : Nat) : State :=
  let u := s.serai q
  if !u.lanes.getLsbD lane then s
  else
    let spareFree := !u.lanes.getLsbD 16 && !u.laneMap.any (·.2 == 16)
    let off := u.lanes &&& ~~~ (BitVec.ofNat 17 (2 ^ lane))
    let dst := if spareFree then some 16 else nextLane off lane
    let code := if spareFree then 0x350 else 0x351
    let s := s.mSerai q fun u => { u with
      lanes := if spareFree then off ||| 0x10000 else off
      laneMap := match dst with | some n => u.laneMap ++ [(lane, n)] | none => u.laneMap
      laneStrikes := u.laneStrikes.filter (·.1 != lane) }
    let toLoc := match dst with | some n => n | none => 0xFFFFFFFF
    (s.spare { resource := 3, action := if spareFree then 0 else 2, inst := q, fromLoc := lane, toLoc := toLoc, code := code }).raise
      { code := code, detail := detSpare 3 q lane toLoc 1 }

/-- Count a strike against a lane; the lane fails at its limit within 1 s (R779, R786). -/
def State.laneStrike (s : State) (q lane limit : Nat) : State :=
  let s := s.mSerai q fun u => { u with laneStrikes := (lane, s.time) :: u.laneStrikes.filter fun p => decide (s.time < p.2 + cyclesPerS) }
  if limit ≠ 0 ∧ limit ≤ ((s.serai q).laneStrikes.filter (·.1 == lane)).length then s.laneFail q lane else s

end Sys2Proof.Machine
end

