-- ==== Sys2Proof/Machine/Lookup.lean ====
section
/-!
DEFINITION. Serai Lookup (R232 to R267): the checks and the Tally's part, the Intake, the Combiner, the Hold, fetches,
pooling, partial sums, the Rescale Unit, late rows (R224 to R229) and the access-counter log (R324 to R328).
-/
namespace Sys2Proof.Machine

/-! ### Operands -/

/-- BAG_COUNT. -/
def lkBags (c : Cmd) : Nat := c.arg 40 4
/-- ID_TOTAL. -/
def lkIds (c : Cmd) : Nat := c.arg 44 4
/-- OUT_STRIDE or GRAD_STRIDE. -/
def lkStride (c : Cmd) : Nat := c.arg 72 4
/-- WEXP. -/
def lkWexp (c : Cmd) : Int := toS 8 (c.arg 76 1)

/-- The ranges of a Lookup, or of an Update, whose gradients are an input (R235, R290). -/
def lookupRanges (c : Cmd) (update : Bool) : List Range :=
  let n := lkBags c % 2 ^ 21
  let ids := lkIds c % 2 ^ 28
  [(c.arg 32 8, 16 * n, false), (c.arg 48 8, 8 * ids, false)] ++
  (if c.arg 56 8 = 0 then [] else [(c.arg 56 8, 2 * ids, false)]) ++ [(c.arg 64 8, lkStride c * n, !update)]

/-- Operands of a Lookup lie in range and its reserved bytes are 0 (R236). -/
def lookupFmt (c : Cmd) : Bool :=
  decide (1 ≤ lkBags c ∧ lkBags c ≤ 1048576 ∧ 1 ≤ lkIds c ∧ lkIds c ≤ 268435455 ∧ lkStride c % 64 = 0 ∧ 64 ≤ lkStride c ∧
    lkStride c ≤ 16384 ∧ -32 ≤ lkWexp c ∧ lkWexp c ≤ 31) && zeroExcept c.bytes [(32, 45)]

/-- A bag descriptor (R233). -/
structure BagDesc where
  /-- TABLE_ID -/
  table : Nat
  /-- POOL, with its reserved bits -/
  pool : Nat
  /-- ID_COUNT, with its reserved bits -/
  count : Nat
  /-- ID_OFFSET, with its reserved bits -/
  off : Nat
  /-- byte 3 -/
  rsv : Nat
  deriving DecidableEq, Repr

/-- Read a bag descriptor (R233). -/
def BagDesc.ofBytes (bs : List Byte) : BagDesc := ⟨fld bs 0 2, fld bs 2 1, fld bs 4 4, fld bs 8 8, fld bs 3 1⟩

/-- The bag descriptors of a command. -/
def State.bagDescs (s : State) (cid : Nat) (c : Cmd) : List BagDesc :=
  let bs := s.cmdRead cid c (c.arg 32 8) (16 * lkBags c)
  (List.range (lkBags c)).map fun b => BagDesc.ofBytes ((bs.drop (16 * b)).take 16)

/-- The checks of R236 on one descriptor that raise 0x0B01. -/
def State.bagOk (s : State) (c : Cmd) (d : BagDesc) : Bool :=
  d.rsv == 0 && decide (d.pool < 3 ∧ d.count < 2 ^ 20 ∧ d.off < 2 ^ 28 ∧ d.off + d.count ≤ lkIds c) &&
  (d.pool != 2 || c.arg 56 8 != 0) &&
  (match s.usable c d.table with | some t => decide (2 * t.elems ≤ lkStride c) | none => true)

/-- The bag list, the identifiers or the weights of a command are poisoned (R769): the first such Device Address. -/
def State.lookupPoison (s : State) (cid : Nat) (c : Cmd) (update : Bool) : Option Nat :=
  (lookupRanges c update).find? (fun r => !r.2.2 && s.cmdPoison cid c r.1 r.2.1) |>.map (·.1)

/-- The fault that the checks of R236 and R291 find, in the table's order. -/
def State.lookupFault (s : State) (cid : Nat) (c : Cmd) (update : Bool) : Option FaultRec :=
  if !lookupFmt c then some { code := 0xB01 }
  else match s.lookupPoison cid c update with
    | some da => some { code := 0x632, dkind := 2, detail := detDa da }
    | none =>
      let ds := s.bagDescs cid c
      if !ds.all (s.bagOk c) then some { code := 0xB01 }
      else if !ds.all (fun d => (s.usable c d.table).isSome) then some { code := 0xB02 }
      else if update then
        let bad (d : BagDesc) : Bool := lkWexp c != 0 || ((s.usable c d.table).bind (·.opt)).isNone
        match ds.find? bad with
        | some d => some { code := 0x342, detail := s.detTid d.table }
        | none => if lkWexp c != 0 then some { code := 0x342 } else none
      else none

/-! ### The Tally's part of a command (R206, R237, R238) -/

/-- The Serai a resolved identifier goes to (R206, R238). -/
def Table.serves (t : Table) (owner : Nat) : Resolved → Nat
  | .row r _ => t.home r
  | .dflt _ => owner

/-- The owner Serai of a bag (R238). -/
def Table.ownerOf (t : Table) (rs : List Resolved) : Nat :=
  match rs.find? fun r => match r with | .row _ _ => true | .dflt _ => false with
  | some (.row r _) => t.home r
  | _ => (t.shard 0).home

/-- The reference of a resolved identifier. -/
def refOf (cid b tid : Nat) (update : Bool) (r : Resolved) (w : Int) : Ref :=
  match r with
  | .row x slot => { key := { table := tid, row := some x }, slot := slot, cid := cid, bag := b, weight := w, update := update, input := b % 2 }
  | .dflt _ => { key := { table := tid, row := none }, cid := cid, bag := b, weight := w, update := update, input := b % 2 }

/-- Identifiers that resolve to a default reference for a reason. -/
def dfltCount (rs : List Resolved) (k : Nat) : Nat := (rs.filter (· == .dflt k)).length

/-- Resolve a bag and send its references to their Serais (R201 to R207, R237). A default reference of an Update contributes
nothing (R292). The owner's record counts the Serais whose partial sums it will add. -/
def State.sendBag (s : State) (cid : Nat) (c : Cmd) (update : Bool) (b : Nat) (d : BagDesc) : State :=
  match s.usable c d.table with
  | none => s
  | some t =>
    let ids := s.cmdRead cid c (c.arg 48 8 + 8 * d.off) (8 * d.count)
    let rs := (List.range d.count).map fun j => s.resolve t (fld ids (8 * j) 8)
    let ws := if d.pool = 2 then
        let w := s.cmdRead cid c (c.arg 56 8 + 2 * d.off) (2 * d.count)
        (List.range d.count).map fun j => toS 16 (fld w (2 * j) 2)
      else List.replicate d.count 0
    let owner := t.ownerOf rs
    let sent := (rs.zip ws).filter fun p => !update || (match p.1 with | .row _ _ => true | .dflt _ => false)
    let refsFor (q : Nat) : List Ref := (sent.filter fun p => t.serves owner p.1 == q).map fun p => refOf cid b d.table update p.1 p.2
    let s := ((s.addCount d.table cid 0 (dfltCount rs 0)).addCount d.table cid 1 (dfltCount rs 1)).addCount d.table cid 2 (dfltCount rs 2)
    let hits := (rs.filter fun r => match r with | .row _ (some _) => true | _ => false).length
    let s := s.mRt d.table fun r => { r with larderHits := r.larderHits + BitVec.ofNat 32 hits }
    let qs := (List.range 8).filter fun q => !(refsFor q).isEmpty
    let s := qs.foldl (fun s q => s.mSerai q fun u => { u with inq := u.inq ++ refsFor q }) s
    let info : BagInfo := {
      cid := cid, bag := b, table := d.table, pool := d.pool, idCount := d.count, owner := owner
      outAddr := BitVec.ofNat 64 (c.arg 64 8 + b * lkStride c), wexp := if d.pool = 2 then lkWexp c else 0
      others := (qs.filter (· != owner)).length
      scales := if t.format = 1 then [] else (s.scalesAt (t.via t.scaleHeld) t.scaleAddr).map Scale.toNat
      newScales := match (s.rt d.table).recal with | some r => (s.scalesAt (t.via r.held) r.newScale).map Scale.toNat | none => [] }
    let s := s.mSerais fun u => { u with bags := u.bags ++ [info] }
    if update then s.mCmd cid fun c => { c with bagsLeft := c.bagsLeft + sent.length }
    else s.mCmd cid fun c => { c with bagsLeft := c.bagsLeft + 1 }

/-! ### The Rescale Unit (R260, R261) -/

/-- Round a quotient of magnitudes to nearest, ties to even. -/
def roundDiv (a d : Nat) : Nat :=
  let q := a / d
  let r := a % d
  if d < 2 * r ∨ (d = 2 * r ∧ q % 2 = 1) then q + 1 else q

/-- The multiplier and shift of a MEAN bag of d identifiers (R260). -/
def meanScale (x : Scale) (d : Nat) : Int × Nat :=
  let u := ((List.range (64 - x.s)).reverse.find? fun u => decide (roundDiv (x.m.natAbs * 2 ^ u) d ≤ 2 ^ 31 - 1)).getD 0
  let m : Int := roundDiv (x.m.natAbs * 2 ^ u) d
  (if x.m < 0 then -m else m, x.s + u)

/-- y at the least shift k from a start at which it needs no saturation, and that shift. -/
def fitShift (p : Int) : Nat → Nat → Int × Nat
  | 0, k => (rescaleY p 1 k, k)
  | n + 1, k => if (rescaleY p 1 k).natAbs ≤ 2 ^ 31 - 1 then (rescaleY p 1 k, k) else fitShift p n (k + 1)

/-- One output element (R260). -/
def poolElem (acc : Int) (x : Scale) (pool d : Nat) (wexp : Int) : Nat × Nat :=
  let ms := if pool = 1 ∧ 1 < d then meanScale x d else (x.m, x.s)
  let e := x.e + wexp
  let y := fitShift (acc * ms.1) 128 x.s
  rescaleOut y.1 (e + y.2 - ms.2)

/-- The scale entry of an element of a bag (R260). -/
def BagInfo.scaleAt (b : BagInfo) (fresh : Bool) (i : Nat) : Scale :=
  let l := if fresh then b.newScales else b.scales
  if l.isEmpty then { m := 1, s := 0, e := -24 } else Scale.ofNat (nth l (i / 16))

/-! ### Pooling -/

/-- A record's factor (R255). -/
def BagInfo.factor (b : BagInfo) (r : Rec) : Int := if b.pool = 2 then r.wsum else r.mult

/-- A bag in progress. -/
def State.bagInfo? (s : State) (cid bag : Nat) : Option BagInfo := s.serais.bags.find? fun b => b.cid == cid && b.bag == bag

/-- A bag's accumulator on a Serai. -/
def State.acc? (s : State) (q cid bag : Nat) : Option BagAcc := (s.serai q).accs.find? fun a => a.cid == cid && a.bag == bag

/-- Change a bag's accumulator. -/
def State.mAcc (s : State) (q cid bag : Nat) (f : BagAcc → BagAcc) : State :=
  s.mSerai q fun u => { u with accs := u.accs.map fun a => if a.cid == cid && a.bag == bag then f a else a }

/-- Free a bag's accumulator. -/
def State.freeAcc (s : State) (q cid bag : Nat) : State :=
  s.mSerai q fun u => { u with accs := u.accs.filter fun a => !(a.cid == cid && a.bag == bag) }

/-- Saturate to 48 bits (R255). -/
def sat48 (l : List Int) : List Int := l.map (satS 48)

/-- Which elements a saturation changes (R258). -/
def satChanged (l : List Int) : List Bool := l.map fun v => satS 48 v != v

/-- Elements true in either list. -/
def orL (a b : List Bool) : List Bool := (List.range (max a.length b.length)).map fun i => a.getD i false || b.getD i false

/-- Add element by element; a missing element is 0. -/
def addL (a b : List Int) : List Int := (List.range (max a.length b.length)).map fun i => a.getD i 0 + b.getD i 0

/-- The first NaN of a list of output elements. -/
def firstBad (l : List Bool) : Option Nat := (List.range l.length).find? fun i => l.getD i false

/-- The earlier of two positions of a command's outputs (R159). -/
def NfPos.first (a : Option NfPos) (b : NfPos) : NfPos :=
  match a with
  | none => b
  | some x =>
    if decide (x.out < b.out) || (x.out == b.out && (decide (x.row < b.row) || (x.row == b.row && decide (x.col ≤ b.col)))) then x else b

/-- Finish one unit of a command's work; at the last one its work is finished. -/
def State.bagDone (s : State) (cid n : Nat) : State :=
  s.mCmd cid fun c => { c with bagsLeft := c.bagsLeft - n, st := if c.bagsLeft ≤ n then .finished else c.st }

/-- The output elements of a complete bag: bits, flags; a bag that mixes rows of two scale extents has no stated sum
(R260, R259, R314; assumption 5). -/
def bagOut (b : BagInfo) (a : BagAcc) (sums : List Int) (free : Nat) : List (Nat × Nat) :=
  (List.range sums.length).map fun i =>
    if a.bad.getD i false then (0x7E00, flNV ||| flNF)
    else if a.old && a.fresh then ((Config.freeValue (free + i)).toNat % 2 ^ 16, 0)
    else poolElem (sums.getD i 0) (b.scaleAt a.fresh i) b.pool b.idCount b.wexp

/-- The owner completes a bag: residue check, Rescale, output (R257 to R263, R778). An output that meets another unit's
provisional copy waits (R543). -/
def State.finishBag (s : State) (q : Nat) (b : BagInfo) (a : BagAcc) (residueOk : Bool) : State :=
  match s.cmd? b.cid with
  | none => s.freeAcc q b.cid b.bag
  | some c =>
    if !residueOk then
      ((s.raise { code := 0x337, ctx := some c.ctx, cmdId := c.cmdId, detail := detTable b.table q 0xFF 0 0 (((s.table? b.table).map (·.version)).getD 0) }).freeAcc q b.cid b.bag).mCmd b.cid
        fun c => { c with failed := true }
    else
      let own := sat48 a.sums
      let total := addL own a.recv
      let sums := sat48 total
      let sat := orL (satChanged a.sums) (satChanged total)
      let out := bagOut b a sums s.hearths.freeCount
      let bytes := packElems 1 (out.map (·.1))
      if s.cmdConflict b.cid c b.outAddr.toNat bytes.length then s
      else
        let clip := orL (orL sat a.clipped) (out.map fun o => o.2 / 32 % 2 == 1)
        let nClip := (clip.filter id).length
        let fl := (out.map (·.2)).foldl (· ||| ·) 0 ||| flIf (decide (0 < nClip)) flCL
        let fl := fl % 2 + fl / 32 % 2 * 32 + fl / 64 % 2 * 64
        let nf := (firstBad (out.map fun o => nonfinite 1 o.1)).map fun i => NfPos.first c.nf { out := 0, row := b.bag, col := i }
        let s := s.cmdWrite b.cid c b.outAddr.toNat bytes
        let s := s.mCmd b.cid fun c => { c with
          elems := c.elems + out.length, clipped := c.clipped + nClip, flags := c.flags ||| BitVec.ofNat 7 fl
          hists := countBins c.hists 1 (out.map (·.1))
          nf := match nf with | some p => some p | none => c.nf }
        let s := (s.addCount b.table b.cid 4 out.length).addCount b.table b.cid 5 nClip
        let s := s.mSeraiCnt q fun k => { k with poolSat := k.poolSat + BitVec.ofNat 32 ((sat.filter id).length) }
        let s := if a.old && a.fresh then s.mHearths fun h => { h with freeCount := h.freeCount + out.length } else s
        let s := (s.freeAcc q b.cid b.bag).mSerais fun u => { u with bags := u.bags.filter fun x => !(x.cid == b.cid && x.bag == b.bag) }
        s.bagDone b.cid 1

/-- What follows when a bag may be complete on a Serai: the owner finishes it, another Serai sends its partial sum (R257). -/
def State.bagStep (s : State) (q cid bag : Nat) (residueOk : Bool) : State :=
  match s.bagInfo? cid bag, s.acc? q cid bag with
  | some b, some a =>
    if a.left ≠ 0 then s
    else if q = b.owner then (if a.partials = 0 then s.finishBag q b a residueOk else s)
    else
      let sat := satChanged a.sums
      let s := s.mSeraiCnt q fun k => { k with partials := k.partials + 1, poolSat := k.poolSat + BitVec.ofNat 32 ((sat.filter id).length) }
      (s.freeAcc q cid bag).mSerais fun u => { u with partials := u.partials ++
        [{ cid := cid, bag := bag, owner := b.owner, sums := sat48 a.sums, bad := a.bad, clipped := sat, old := a.old, fresh := a.fresh }] }
  | _, _ => s

/-- A gather reads a table whose version has changed since the boundary (R277). -/
def State.noteMixed (s : State) (cid : Nat) (t : Table) : State :=
  if !t.aligned && t.version != t.bver then s.mCmd cid fun c => { c with mixed := true } else s

/-- Add a row into the accumulator of a consumer record (R255, R259). -/
def State.poolRec (s : State) (q : Nat) (t : Table) (imgs : List (Option Int)) (fresh : Bool) (residueOk : Bool) (r : Rec) : State :=
  match s.bagInfo? r.cid r.bag with
  | none => s
  | some b =>
    let k := b.factor r
    let s := s.mAcc q r.cid r.bag fun a => { a with
      sums := (List.range imgs.length).map fun i => a.sums.getD i 0 + (imgs.getD i none).getD 0 * k
      bad := (List.range imgs.length).map fun i => a.bad.getD i false || (imgs.getD i none).isNone
      left := a.left - r.mult, old := a.old || !fresh, fresh := a.fresh || fresh }
    (s.noteMixed r.cid t).bagStep q r.cid r.bag residueOk

/-- The integer images of a row's elements (R145). -/
def rowImages (t : Table) (data : List Byte) : List (Option Int) := (elemsOf t.format data t.elems).map (image t.format)

/-- Pool a row into live records. -/
def State.poolAll (s : State) (q : Nat) (t : Table) (data : List Byte) (fresh residueOk : Bool) (rs : List Rec) : State :=
  let imgs := rowImages t data
  (rs.filter fun r => !r.dead && !r.update).foldl (State.poolRec · q t imgs fresh residueOk) s

/-- A key's row is decoded with the new extent of an open recalibration (R314). -/
def State.keyFresh (s : State) (k : Key) (t : Table) : Bool :=
  match k.row with
  | none => false
  | some r => (s.belowMark k.table (t.shardOf r) (t.localOf r)).isSome

/-! ### Gradients (R293, R294) -/

/-- Add into a 96-bit accumulator: the sum and whether it saturated. -/
def sat96 (a b : Int) : Int × Bool := (satS 96 (a + b), satS 96 (a + b) != a + b)

/-- Accumulators with terms added: the sums and how many elements saturated (R294). -/
def mergeAdd (acc terms : List Int) : List Int × Nat :=
  let l := (List.range (max acc.length terms.length)).map fun i => sat96 (acc.getD i 0) (terms.getD i 0)
  (l.map (·.1), (l.filter (·.2)).length)

/-- Merge an Update's record into the command's pending entry for the row (R293, R294). -/
def State.mergeRec (s : State) (q : Nat) (k : Key) (t : Table) (r : Rec) : State :=
  match s.cmd? r.cid, s.bagInfo? r.cid r.bag, k.row with
  | some c, some b, some row =>
    let g := elemsOf 1 (s.cmdRead r.cid c b.outAddr.toNat (2 * t.elems)) t.elems
    let bad := g.any (nonfinite 1)
    let terms := g.map fun v => (image 1 v).getD 0 * b.factor r
    let old := ((s.serai q).merges.find? fun m => m.cid == some r.cid && m.table == k.table && m.row == row).getD { table := k.table, row := row, cid := some r.cid }
    let sum := mergeAdd old.acc terms
    let put (m : Merge) : Merge :=
      if m.cid == some r.cid && m.table == k.table && m.row == row then { m with acc := sum.1, sats := m.sats + sum.2 } else m
    let s := s.mSerai q fun u => { u with merges := u.merges.map put }
    let s := s.mSeraiCnt q fun n => { n with mergeSat := n.mergeSat + BitVec.ofNat 32 sum.2 }
    let s := s.mCmd r.cid fun c => { c with flags := c.flags ||| BitVec.ofNat 7 (flIf bad flNV ||| flIf (decide (0 < sum.2)) flCL) }
    s.bagDone r.cid r.mult
  | _, _, _ => s

/-! ### The access-counter log (R324 to R328) -/

/-- Write a record of the log, or count a drop (R326, R327). -/
def State.aclRecord (s : State) (q : Nat) (rec : List Byte) : State :=
  let a := (s.serai q).acl
  let n := 2 ^ (a.log2Size - 5)
  if (a.head + 1) % n = a.tail % n then s.mSerai q fun u => { u with acl := { u.acl with drops := u.acl.drops + 1 } }
  else
    (s.writeThrough { space := .stack, addr := a.base.toNat + 32 * (a.head % n) } rec false).mSerai q
      fun u => { u with acl := { u.acl with head := (a.head + 1) % n } }

/-- Count a remote or flash row read in its span's counter (R324 to R326). -/
def State.aclCount (s : State) (q tid : Nat) (t : Table) (row : Nat) : State :=
  let si := t.shardOf row
  let l := t.localOf row
  let sh := t.shard si
  if l < sh.stackRows then s
  else
    let (tier, span) : Nat × Nat := match t.rowDa sh l with
      | some da => (match findTr t.held da with | some p => if p.space == .pool then 0 else 1 | none => 1, da / 2 ^ 21 * 2 ^ 21)
      | none => (2, (t.flashAt sh l).1 / 512 * 512)
    let k := (Config.aclHash tier span).val
    let a := (s.serai q).acl
    if a.stopped.contains k then s
    else
      let n := mapGetD a.counters k 0 + 1
      let s := s.mSerai q fun u => { u with acl := { u.acl with counters := mapSet u.acl.counters k n } }
      if a.en && decide (a.hotThresh ≤ n) then
        (s.aclRecord q (toLe 8 span ++ toLe 2 tid ++ toLe 2 si ++ toLe 4 n ++ toLe 8 s.tck.num.toNat ++ toLe 5 l ++ toLe 1 tier ++ [0, 0x80])).mSerai q
          fun u => { u with acl := { u.acl with stopped := k :: u.acl.stopped } }
      else s

/-! ### Windows -/

/-- The late-row policy of a command for a table (R227, R658). -/
def State.latePolicy (s : State) (cid tid : Nat) : Nat × Nat :=
  match (s.cmd? cid).bind fun c => (c.waybill.bind s.wb?).bind fun w => s.recipe? w.recipe with
  | some r => match r.tables.find? (·.table == tid) with | some u => (u.policy, u.lateUs) | none => (0, 0)
  | none => (0, 0)

/-- A key's row waits for a flash read: it lies in flash and no MAPPED slot holds it (R227, R219). -/
def Table.late (t : Table) (row : Nat) : Bool :=
  t.isFlash row && (match t.slotOf row with | some p => p.2.st == .filled | none => true)

/-- Default rows take the place of late ones: counted, and the commands marked (R229). -/
def State.useDefault (s : State) (q : Nat) (t : Table) (residueOk : Bool) (rs : List Rec) : State :=
  let live := rs.filter fun r => !r.dead && !r.update
  let s := live.foldl (fun s r => s.mCmd r.cid fun c => { c with defaulted := true }) s
  let s := s.mCellar fun c => { c with lateDefaults := c.lateDefaults + BitVec.ofNat 32 live.length }
  s.poolAll q t t.defaultRow false residueOk live

/-- Ask the Cellar for the block of a flash row; one read serves every row of a block (R224). -/
def State.flashAsk (s : State) (q tid : Nat) (t : Table) (row : Nat) : State :=
  let sh := t.shard (t.shardOf row)
  let lba := (t.flashAt sh (t.localOf row)).1
  let isIt (r : FlashRead) : Bool := r.ctrl == sh.controller && r.nsid == sh.nsid && r.lba == lba
  let w : Nat × Key := (q, { table := tid, row := some row })
  s.mCellar fun c =>
    if c.reads.any isIt then { c with reads := c.reads.map fun r => if isIt r then { r with waiters := r.waiters ++ [w] } else r }
    else { c with reads := c.reads ++ [{ ctrl := sh.controller, nsid := sh.nsid, lba := lba, waiters := [w] }], nReads := c.nReads + 1 }

/-- A row read is issued: the Serai, its shard and the Chimney count it, charged to the first record (R266, R316, R324). -/
def State.countFetch (s : State) (q : Nat) (e : Entry) (t : Table) : State :=
  let s := s.mSeraiCnt q fun k => { k with fetches := k.fetches + 1 }
  let c := (e.recs.head?.bind fun r => s.cmd? r.cid)
  let s := s.count 0x05 q (c.map (·.ctx)) ((c.map (·.cls)).getD 0) 1
  match e.key.row with
  | none => s
  | some row =>
    let si := t.shardOf row
    let s := s.mTable e.key.table fun t => t.mShard si fun h => { h with fetches := h.fetches + 1 }
    let miss : Bool := match e.slot with
      | some j => (match mapGet t.slots (slotKey si j) with | some v => !(v.row == row && v.st == .mapped) | none => true)
      | none => false
    let s := if miss then s.mSeraiCnt q fun k => { k with tagMisses := k.tagMisses + 1 } else s
    if (t.slotOf row).isSome then s else s.aclCount q e.key.table t row

/-- Queue a key of a closed window to the Fetch Units; a late row follows its records' policies (R227, R244). -/
def State.queueKey (s : State) (q : Nat) (t : Table) (e : Entry) : State :=
  let late := match e.key.row with | some r => t.late r | none => false
  if late then
    let now (r : Rec) : Bool := (s.latePolicy r.cid e.key.table).1 == 2
    let rest := e.recs.filter fun r => !now r
    let s := s.useDefault q t true (e.recs.filter now)
    if rest.all (·.dead) then s
    else
      let s := s.countFetch q { e with recs := rest } t
      let s := match e.key.row with | some r => s.flashAsk q e.key.table t r | none => s
      s.mSerai q fun u => { u with fetchq := u.fetchq ++ [{ e with recs := rest, late := true }] }
  else (s.countFetch q e t).mSerai q fun u => { u with fetchq := u.fetchq ++ [e] }

/-- Dispose of one key at window close (R244). -/
def State.disposeKey (s : State) (q : Nat) (e : Entry) : State :=
  match s.table? e.key.table with
  | none => s
  | some t =>
    let s := (e.recs.filter fun r => r.update && !r.dead).foldl (fun s r => s.mergeRec q e.key t r) s
    let e := { e with recs := e.recs.filter fun r => !r.update }
    if e.recs.isEmpty then s
    else match (s.serai q).hold.find? (·.key == e.key) with
      | some h => s.poolAll q t h.data (s.keyFresh e.key t) true e.recs
      | none => if e.recs.all (·.dead) then s else s.queueKey q t e

/-- Close the open window of a Serai (R242, R244). -/
def State.closeWindow (s : State) (q : Nat) (full : Bool) : State :=
  match (s.serai q).window with
  | none => s
  | some w =>
    let s := s.mSerai q fun u => { u with window := none }
    let s := s.mSeraiCnt q fun k => { k with windows := k.windows + 1, windowsFull := if full then k.windowsFull + 1 else k.windowsFull }
    w.entries.foldl (State.disposeKey · q) s

/-- WINDOW_CLOSE (R242, R244): the limit of 4,096 cycles or the idle rule has come due. -/
def execWindowClose (serai : Nat) (s : State) : Host.Outcome State Fault Refusal :=
  if s.live then .next (s.closeWindow serai false) else .next s

/-- Merge a reference into an entry's latest record, or append a record (R243): the entry, and whether it merged. -/
def Entry.take (e : Entry) (r : Ref) : Entry × Bool :=
  match e.recs.getLast? with
  | some x =>
    if x.cid == r.cid && x.bag == r.bag && x.update == r.update && !x.dead then
      ({ e with recs := e.recs.dropLast ++ [{ x with mult := x.mult + 1, wsum := x.wsum + r.weight }] }, true)
    else ({ e with recs := e.recs ++ [{ cid := r.cid, bag := r.bag, mult := 1, wsum := r.weight, update := r.update }] }, false)
  | none => ({ e with recs := [{ cid := r.cid, bag := r.bag, mult := 1, wsum := r.weight, update := r.update }] }, false)

/-- Enter a reference in the open window; a full content table closes it first (R242, R243). -/
def State.enterWindow (s : State) (q : Nat) (r : Ref) : State :=
  let fresh : Entry := ({ key := r.key, slot := r.slot : Entry }.take r).1
  match (s.serai q).window with
  | none => s.mSerai q fun u => { u with window := some { entries := [fresh] } }
  | some w =>
    match w.entries.find? (·.key == r.key) with
    | some e =>
      let x := e.take r
      let s := s.mSerai q fun u => { u with window := some { entries := w.entries.map fun y => if y.key == r.key then x.1 else y } }
      if x.2 then s.mSeraiCnt q fun k => { k with merged := k.merged + 1 } else s
    | none =>
      if 65536 ≤ w.entries.length then (s.closeWindow q true).mSerai q fun u => { u with window := some { entries := [fresh] } }
      else s.mSerai q fun u => { u with window := some { entries := w.entries ++ [fresh] } }

/-! ### The Index Intake (R239, R240, R246, R295) -/

/-- Accumulator elements in use by bags (R240). -/
def Serai.accUsed (u : Serai) : Nat := (u.accs.map (·.sums.length)).sum

/-- Accumulator elements in use by pending and merge entries, applies waiting included (R295). -/
def Serai.mergeUsed (u : Serai) : Nat := (u.merges.map (·.acc.length)).sum + (u.applySet.map (·.acc.length)).sum

/-- A reference that would wait: its bag has no accumulator and too few elements are free (R240). -/
def State.intakeFull (s : State) (q : Nat) (r : Ref) (t : Table) : Bool :=
  !r.update && (s.acc? q r.cid r.bag).isNone && decide (1048576 < (s.serai q).accUsed + t.elems)

/-- An Update reference that would wait for accumulator elements (R295). -/
def State.mergeFull (s : State) (q : Nat) (r : Ref) (t : Table) : Bool :=
  r.update && !((s.serai q).merges.any fun m => m.cid == some r.cid && m.table == r.key.table && some m.row == r.key.row) &&
    decide (16777216 < (s.serai q).mergeUsed + t.elems)

/-- Allocate a bag's accumulator at its first reference (R240). -/
def State.allocAcc (s : State) (q : Nat) (r : Ref) (t : Table) : State :=
  match s.bagInfo? r.cid r.bag, s.acc? q r.cid r.bag with
  | some b, none =>
    let left := ((s.serai q).inq.filter fun x => x.cid == r.cid && x.bag == r.bag).length
    s.mSerai q fun u => { u with accs := u.accs ++ [{
      cid := r.cid, bag := r.bag, sums := List.replicate t.elems 0, bad := List.replicate t.elems false, left := left, owner := b.owner
      partials := if q = b.owner then b.others else 0 }] }
  | _, _ => s

/-- Allocate the pending entry of an Update's row (R294, R295). -/
def State.allocMerge (s : State) (q : Nat) (r : Ref) (t : Table) : State :=
  match r.key.row with
  | none => s
  | some row =>
    if (s.serai q).merges.any fun m => m.cid == some r.cid && m.table == r.key.table && m.row == row then s
    else s.mSerai q fun u => { u with merges := u.merges ++ [{ table := r.key.table, row := row, cid := some r.cid, acc := List.replicate t.elems 0 }] }

/-- Accept one reference: count it, allocate for it, serve it from the Hold or enter it in the window (R239, R246). -/
def State.acceptRef (s : State) (q : Nat) (t : Table) (r : Ref) : State :=
  let c := s.cmd? r.cid
  let s := s.mSeraiCnt q fun k => { k with refs := k.refs + 1 }
  let s := s.count 0x04 q (c.map (·.ctx)) ((c.map (·.cls)).getD 0) 1
  let s := match r.key.row with
    | some row => s.mTable r.key.table fun t => t.mShard (t.shardOf row) fun h => { h with refs := h.refs + 1 }
    | none => s
  let s := if r.update then s.allocMerge q r t else s.allocAcc q r t
  match (s.serai q).hold.find? (·.key == r.key), r.update with
  | some h, false =>
    let s := s.mSeraiCnt q fun k => { k with holdHits := k.holdHits + 1 }
    s.poolAll q t h.data (s.keyFresh r.key t) true [{ cid := r.cid, bag := r.bag, mult := 1, wsum := r.weight }]
  | _, _ => s.enterWindow q r

/-- Take the oldest reference of an input off its queue. -/
def Serai.pop (u : Serai) (r : Ref) : Serai := { u with inq := u.inq.erase r }

/-- Accept up to n references of one input; a reference that finds too few elements stalls the input (R239, R240, R295). -/
def State.intake1 (s : State) (q input : Nat) : Nat → State
  | 0 => s
  | n + 1 =>
    if (s.serai q).stalled.getD input false then s
    else match (s.serai q).inq.find? (·.input == input) with
      | none => s
      | some r =>
        match s.table? r.key.table with
        | none => (s.mSerai q (·.pop r)).intake1 q input n
        | some t =>
          if s.intakeFull q r t then s.mSerai q fun u => { u with stalled := u.stalled.set input true }
          else if r.update && (!(s.serai q).mergeWait.isEmpty || s.mergeFull q r t) then
            (((s.mSerai q (·.pop r)).mSerai q fun u => { u with mergeWait := u.mergeWait ++ [r] }).mSeraiCnt q
              fun k => { k with mergeWaits := k.mergeWaits + 1 }).intake1 q input n
          else ((s.acceptRef q t r).mSerai q (·.pop r)).intake1 q input n

/-- REFERENCE_INTAKE (R239): one Serai clock cycle of one input, at most 32 references. -/
def execReferenceIntake (serai input n : Nat) (s : State) : Host.Outcome State Fault Refusal :=
  if s.live then .next (s.intake1 serai input (min n 32)) else .next s

/-- INTAKE_STALL_RELEASE (R240): the input resumes when enough elements are free for its next reference. -/
def execIntakeStallRelease (serai input : Nat) (s : State) : Host.Outcome State Fault Refusal :=
  if !s.live then .next s
  else
    let go := match (s.serai serai).inq.find? (·.input == input) with
      | none => true
      | some r => match s.table? r.key.table with | some t => !s.intakeFull serai r t | none => true
    if go then .next (s.mSerai serai fun u => { u with stalled := u.stalled.set input false }) else .next s

/-- Accept Update references that waited, while elements are free (R295). -/
def State.resumeMerges (s : State) (q : Nat) : Nat → State
  | 0 => s
  | n + 1 =>
    match (s.serai q).mergeWait with
    | [] => s
    | r :: rest =>
      match s.table? r.key.table with
      | none => (s.mSerai q fun u => { u with mergeWait := rest }).resumeMerges q n
      | some t =>
        if s.mergeFull q r t then s
        else ((s.mSerai q fun u => { u with mergeWait := rest }).acceptRef q t r).resumeMerges q n

/-- MERGE_INTAKE_RESUME (R295). -/
def execMergeIntakeResume (serai : Nat) (s : State) : Host.Outcome State Fault Refusal :=
  if s.live then .next (s.resumeMerges serai (s.serai serai).mergeWait.length) else .next s

/-! ### Fetches (R245, R254, R255, R779) -/

/-- Keep a fetched row in the Hold; when it is full an entry may give way (R245). -/
def State.holdCopy (s : State) (q : Nat) (k : Key) (data : List Byte) (replace : Option Nat) : State :=
  s.mSerai q fun u =>
    let h : Held := { key := k, data := data }
    if u.hold.any (·.key == k) then u
    else if u.hold.length < 512 then { u with hold := u.hold ++ [h] }
    else match replace with
      | some i => { u with hold := u.hold.set i h }
      | none => u

/-- Deliver a row to an entry's live records (R245, R247, R255, R265). -/
def State.deliver (s : State) (q : Nat) (t : Table) (e : Entry) (data : List Byte) (replace : Option Nat) (residueOk : Bool) : State :=
  let live := e.recs.filter fun r => !r.dead
  if live.isEmpty then s.mSeraiCnt q fun k => { k with dropped := k.dropped + 1 }
  else
    let s := if 64 ≤ (e.recs.map (·.mult)).sum then s.holdCopy q e.key data replace else s
    s.poolAll q t data (s.keyFresh e.key t) residueOk live

/-- The contexts of an entry's live records, each with the command of its first record. -/
def State.entryCtxs (s : State) (e : Entry) : List Cmd :=
  ((e.recs.filter fun r => !r.dead).filterMap fun r => s.cmd? r.cid).foldl
    (fun l c => if l.any (·.ctx == c.ctx) then l else l ++ [c]) []

/-- A poisoned row tears down every consuming context (R254). -/
def State.rowPoison (s : State) (q : Nat) (t : Table) (e : Entry) (row : Nat) : State :=
  let s := s.mSeraiCnt q fun k => { k with poison := k.poison + 1 }
  (s.entryCtxs e).foldl (fun s c => s.tearCmd c { code := 0x334, detail := detTable e.key.table q 0xFF (t.shardOf row) row t.version }) s

/-- The commands waiting on data whose copies fail the CRC cannot commit (R779). -/
def State.crcFail (s : State) (tid q lane : Nat) (cids : List Nat) : State :=
  let det := detTable tid q lane 0 0 (((s.table? tid).map (·.version)).getD 0)
  let s := match cids.head?.bind s.cmd? with
    | some c => s.raise { code := 0x336, ctx := some c.ctx, cmdId := c.cmdId, detail := det }
    | none => s.raise { code := 0x336, detail := det }
  cids.foldl (fun s cid => s.mCmd cid fun c => { c with failed := true }) s

/-- Remove the first queued entry of a key that waits, or does not wait, for flash. -/
def Serai.dropFetch (u : Serai) (k : Key) (late : Bool) : Serai :=
  match u.fetchq.find? fun e => e.key == k && e.late == late with
  | some e => { u with fetchq := u.fetchq.erase e }
  | none => u

/-- A row waits for its apply, or its shard for a handover (R297, R321). -/
def State.rowBusy (s : State) (tid : Nat) (t : Table) (row : Nat) : Bool :=
  ((s.serai (t.home row)).applySet.any fun m => m.table == tid && m.row == row) ||
  (match (s.rt tid).mig with | some m => m.handing && m.shard == t.shardOf row | none => false)

/-- ROW_FETCH_COMPLETE (R255, R254, R779): a row read of the stack or remote tier, or of the default row, arrives. `bad` is the
lane of a copy that fails its CRC. -/
def execRowFetchComplete (serai table : Nat) (row bad replace : Option Nat) (residueOk : Bool) (s : State) :
    Host.Outcome State Fault Refusal :=
  let k : Key := { table := table, row := row }
  match s.live, s.table? table, (s.serai serai).fetchq.find? fun e => e.key == k && !e.late with
  | true, some t, some e =>
    if (match row with | some r => s.rowBusy table t r | none => false) then .next s
    else match bad with
    | some lane =>
      let s := s.laneStrike serai lane s.img.laneCrcMax
      if e.tries = 0 then
        .next (s.mSerai serai fun u => { u with fetchq := u.fetchq.map fun x => if x == e then { x with tries := 1 } else x })
      else
        .next ((s.mSerai serai (·.dropFetch k false)).crcFail table serai lane ((e.recs.filter fun r => !r.dead).map (·.cid)).dedup)
    | none =>
      let s' := s.mSerai serai (·.dropFetch k false)
      match row with
      | none => .next (s'.deliver serai t e t.defaultRow replace residueOk)
      | some r =>
        if s.rowPoisoned table t r then .next (s'.rowPoison serai t e r)
        else .next (s'.deliver serai t e (s.rowNow table t r) replace residueOk)
  | _, _, _ => .next s

/-- PARTIAL_SUM_RECEIVE (R257, R779): the owner adds a partial sum. `bad` is the lane of a copy that fails its CRC. -/
def execPartialSumReceive (idx : Nat) (bad : Option Nat) (residueOk : Bool) (s : State) : Host.Outcome State Fault Refusal :=
  match s.live, s.serais.partials[idx]? with
  | true, some p =>
    let drop (s : State) : State := s.mSerais fun u => { u with partials := u.partials.eraseIdx idx }
    match bad with
    | some lane =>
      let s := s.laneStrike p.owner lane s.img.laneCrcMax
      if p.tries = 0 then .next (s.mSerais fun u => { u with partials := u.partials.set idx { p with tries := 1 } })
      else .next ((drop s).crcFail (((s.bagInfo? p.cid p.bag).map (·.table)).getD 0) p.owner lane [p.cid])
    | none =>
      match s.acc? p.owner p.cid p.bag with
      | none => .next (if (s.bagInfo? p.cid p.bag).isNone then drop s else s)
      | some _ =>
        let s := (drop s).mAcc p.owner p.cid p.bag fun a => { a with
          recv := addL a.recv p.sums, bad := orL a.bad p.bad, clipped := orL a.clipped p.clipped, partials := a.partials - 1
          old := a.old || p.old, fresh := a.fresh || p.fresh }
        .next (s.bagStep p.owner p.cid p.bag residueOk)
  | _, _ => .next s

/-! ### Late rows (R224 to R229) -/

/-- LATE_ROW_TIMEOUT (R227): records under DEFAULT_AFTER take the default row. -/
def execLateRowTimeout (serai table row : Nat) (s : State) : Host.Outcome State Fault Refusal :=
  let k : Key := { table := table, row := some row }
  match s.live, s.table? table, (s.serai serai).fetchq.find? fun e => e.key == k && e.late with
  | true, some t, some e =>
    let after (r : Rec) : Bool := (s.latePolicy r.cid table).1 == 1
    let s := s.mSerai serai fun u => { u with fetchq := u.fetchq.map fun x => if x == e then { x with recs := x.recs.filter fun r => !after r } else x }
    .next (s.useDefault serai t true (e.recs.filter after))
  | _, _, _ => .next s

/-- Every waiting entry of a key on a Serai. -/
def Serai.lateEntries (u : Serai) (k : Key) : List Entry := u.fetchq.filter fun e => e.key == k && e.late

/-- A block read ends for one waiter: its rows are delivered, or the waiting records take their default row (R224, R225). -/
def State.flashWaiter (s : State) (ok : Bool) (w : Nat × Key) : State :=
  match s.table? w.2.table, w.2.row with
  | some t, some row =>
    let es := (s.serai w.1).lateEntries w.2
    let s := s.mSerai w.1 fun u => { u with fetchq := u.fetchq.filter fun e => !(e.key == w.2 && e.late) }
    es.foldl (fun s e => if ok then s.deliver w.1 t e (s.rowNow w.2.table t row) none true else s.useDefault w.1 t true e.recs) s
  | _, _ => s

/-- FLASH_READ_COMPLETE (R224, R225): `error` is an NVMe error status; a block that was written poisoned fails its CRC. -/
def execFlashReadComplete (ctrl nsid lba : Nat) (error : Bool) (s : State) : Host.Outcome State Fault Refusal :=
  match s.live, s.cellar.reads.find? fun r => r.ctrl == ctrl && r.nsid == nsid && r.lba == lba with
  | true, some r =>
    let s := s.mCellar fun c => { c with reads := c.reads.erase r }
    let poisoned := s.cellar.blocks.any fun b => b.ctrl == ctrl && b.nsid == nsid && b.lba == lba && b.poisoned
    let s :=
      if error then (s.mCellar fun c => { c with readErrors := c.readErrors + 1 }).raise { code := 0xC01 }
      else if poisoned then (s.mCellar fun c => { c with crcErrors := c.crcErrors + 1 }).raise { code := 0xC02 }
      else s
    .next (r.waiters.foldl (State.flashWaiter · (!error && !poisoned)) s)
  | _, _ => .next s

/-! ### The row of the command -/

/-- LOOKUP (R232, R236): the Tally checks the command and sends its references; a failed check tears the context down. -/
def execLookup (cid : Nat) (s : State) : Host.Outcome State Fault Refusal :=
  match s.ready? cid 0x08 .admitted with
  | none => .next s
  | some c =>
    if !s.orderOk cid c then .next s
    else match s.lookupFault cid c false with
      | some r => .next (s.tearCmd c r)
      | none =>
        let ds := s.bagDescs cid c
        let s := s.mCmd cid fun c => { c with st := .running }
        let s := (List.range ds.length).foldl (fun s b => s.sendBag cid c false b (ds.getD b ⟨0, 0, 0, 0, 0⟩)) s
        let empty := s.serais.bags.filter fun b => b.cid == cid && b.idCount == 0
        .next (empty.foldl (fun s b =>
          match s.table? b.table with
          | none => s
          | some t =>
            let a : BagAcc := { cid := cid, bag := b.bag, sums := List.replicate t.elems 0, bad := List.replicate t.elems false, owner := b.owner }
            (s.mSerai b.owner fun u => { u with accs := u.accs ++ [a] }).bagStep b.owner cid b.bag true) s)

/-- ACL_CONFIG (R327, R328, R906, R954): function 0's write of SRI_ACL_CFG, for the Serai that SRI_SEL selects. -/
def execAclConfig (fn v : Nat) (s : State) : Host.Outcome State Fault Refusal :=
  let fields := decide (1 ≤ v / 256 % 65536 ∧ 16 ≤ v / 4 % 64 ∧ v / 4 % 64 ≤ 30)
  if fn != 0 || !s.live || s.img.bx3 || !fields then .next s
  else .next (s.mSerai s.serais.sel fun u => { u with acl :=
    if u.acl.en then { u.acl with en := bit v 0 }
    else { u.acl with
      epochLog2 := v / 2 ^ 24 % 16, hotThresh := v / 256 % 65536, log2Size := v / 4 % 64, en := bit v 0
      head := if bit v 0 then 0 else u.acl.head } })

/-- The access logs at a boundary: an epoch that ends clears every counter (R325). -/
def Acl.boundary (a : Acl) : Acl :=
  if 2 ^ a.epochLog2 ≤ a.epochTicks + 1 then { a with epochTicks := 0, counters := [], stopped := [] }
  else { a with epochTicks := a.epochTicks + 1 }

end Sys2Proof.Machine
end

