-- ==== Sys2Proof/Machine/RouteOps.lean ====
section
/-!
DEFINITION. Route operations (R722 to R746): their channels, links and order, the data of an exchange and of a ring
reduction, DONE and ABORT, failure, and the states SUSPECT and QUARANTINED of a port (R713 to R715).
-/
namespace Sys2Proof.Machine

/-! ### Operations and links -/

/-- The operation of a command. -/
def State.rop? (s : State) (cid : Nat) : Option ROp := s.routes.ops.find? (·.cid == cid)

/-- Change the operation of a command. -/
def State.mRop (s : State) (cid : Nat) (f : ROp → ROp) : State :=
  s.mRoutes fun r => { r with ops := r.ops.map fun o => if o.cid == cid then f o else o }

/-- Change the link of an operation on a port. -/
def State.mLink (s : State) (cid p : Nat) (f : RLink → RLink) : State :=
  s.mRop cid fun o => { o with links := o.links.map fun l => if l.port == p then f l else l }

/-- The link of an operation on a port. -/
def ROp.link? (o : ROp) (p : Nat) : Option RLink := o.links.find? (·.port == p)

/-- A channel of a port. -/
def RPort.chan (q : RPort) (ch : Nat) : Chan := mapGetD q.chans ch {}

/-- The policy of a port (R702). -/
def State.routePolicy (s : State) (p : Nat) : RoutePolicy := s.img.route.getD p {}

/-- DETAIL of a Route fault of a port. -/
def State.detPort (s : State) (p reason chan lane epoch seq : Nat) : List Byte :=
  detRoute p reason chan lane epoch seq (s.port p).partner.toNat

/-- The DETAIL of a fault of an operation on a port. -/
def State.detOp (s : State) (o : ROp) (l : RLink) : List Byte := s.detPort l.port 0 o.channel 0xFF o.epoch.toNat l.seq.toNat

/-! ### Failure (R731) -/

/-- An operation leaves the Routes: each started link ends by ABORT, or is kept when DONE has gone out; its command cannot
commit any more (R729, R731). -/
def State.dropOp (s : State) (o : ROp) : State :=
  let s := o.links.foldl (fun s l => s.leaveLink o l 3) s
  (s.mRoutes fun r => { r with ops := r.ops.filter (·.cid != o.cid) }).mCmd o.cid fun c => { c with failed := true }

/-- An operation fails with a fault against its command's context (R731). -/
def State.failOp (s : State) (o : ROp) (code : Nat) (detail : List Byte) : State :=
  let s := s.dropOp o
  match s.cmd? o.cid with
  | none => s
  | some c => s.raise { code := code, ctx := some c.ctx, cmdId := c.cmdId, detail := detail }

/-- Every operation that names a port fails (R713, R714). -/
def State.failPort (s : State) (p code reason : Nat) : State :=
  (s.routes.ops.filter fun o => (o.link? p).isSome).foldl (fun s o =>
    s.failOp o code (s.detPort p reason o.channel 0xFF o.epoch.toNat (((o.link? p).map (·.seq.toNat)).getD 0))) s

/-! ### SUSPECT and QUARANTINED -/

/-- The Route port is the tick source (R42). -/
def State.routeSource (s : State) (p : Nat) : Bool := s.tck.source == 2 && s.tck.routePort == p

/-- The hold of the k-th quarantine in seconds; none when it lasts until cold reset (R715). -/
def holdSeconds (requalify k : Nat) : Option Nat := if requalify = 0 then none else some (min 3600 (requalify * 2 ^ (k - 1)))

/-- A port goes QUARANTINED with a reason (R713 to R715); as the tick source its follower enters holdover (R714). -/
def State.quarantine (s : State) (p reason : Nat) : State :=
  let k := satAdd 255 (s.port p).quarantines 1
  let s := s.mPort p fun q => { q with
    st := .quarantined, stage := 0, reason := reason, quarantines := k, encrypted := false, rekeying := false
    holdEnd := (holdSeconds (s.routePolicy p).requalifyS k).map fun n => s.time + n * cyclesPerS }
  let s := s.raiseAs 0 { code := 0x804, detail := s.detPort p reason 0xFF 0xFF 0 0 }
  (s.failPort p 0x804 reason).mTck fun t => if t.source == 2 && t.routePort == p then { t with missed := 2 } else t

/-- A port goes SUSPECT (R713). -/
def State.suspect (s : State) (p : Nat) : State :=
  let s := s.mPort p fun q => { q with st := .suspect, stage := 0, suspectAt := s.time, attempts := 0, encrypted := false, rekeying := false }
  let s := s.raiseAs 0 { code := 0x803, detail := s.detPort p 0 0xFF 0xFF 0 0 }
  s.failPort p 0x803 0

/-! ### Sending -/

/-- Send one DATA frame of a link with at most 2,048 bytes (R717, R720). -/
def State.sendData (s : State) (o : ROp) (l : RLink) : State :=
  let bs := l.queue.take 2048
  let s := s.sendFrame l.port { type := 1, channel := o.channel, epoch := o.epoch, seq := l.seq, offset := BitVec.ofNat 32 (l.sent / 32), payload := bs }
  let s := s.mPort l.port fun q => { q with dataSent := q.dataSent + 1 }
  let s := s.mLink o.cid l.port fun l => { l with queue := l.queue.drop 2048, sent := l.sent + bs.length, stalled := false }
  match s.cmd? o.cid with
  | some c => s.count 0x0B l.port (some c.ctx) c.cls bs.length
  | none => s

/-- A port has credit for one more DATA frame (R720). -/
def RPort.credit (q : RPort) : Bool := decide ((q.dataSent - q.creditGot).toNat < 256)

/-- Send what a link has queued while there is credit; each wait for credit is counted (R720). -/
def State.pumpLink (s : State) (cid p : Nat) : Nat → State
  | 0 => s
  | k + 1 =>
    match s.rop? cid with
    | none => s
    | some o =>
      match o.link? p with
      | none => s
      | some l =>
        if l.queue.isEmpty || !o.started then s
        else if (s.port p).credit then (s.sendData o l).pumpLink cid p k
        else if l.stalled then s
        else (s.mLink cid p fun l => { l with stalled := true }).mPortCnt p fun c => { c with creditStalls := c.creditStalls + 1 }

/-- Send what every link of an operation has queued. -/
def State.pumpOp (s : State) (cid : Nat) : State :=
  match s.rop? cid with
  | none => s
  | some o => o.links.foldl (fun s l => s.pumpLink cid l.port (l.queue.length / 2048 + 2)) s

/-! ### The ring reduction (R741 to R744) -/

/-- SRC_ADDR. -/
def rdSrc (c : Cmd) : Nat := c.arg 32 8
/-- DST_ADDR. -/
def rdDst (c : Cmd) : Nat := c.arg 40 8
/-- ELEMENTS. -/
def rdN (c : Cmd) : Nat := c.arg 48 4
/-- PREV_PORT. -/
def rdPrev (c : Cmd) : Nat := bits (c.arg 53 1) 2 0
/-- NEXT_PORT. -/
def rdNext (c : Cmd) : Nat := bits (c.arg 53 1) 6 4
/-- RING_SIZE. -/
def rdP (c : Cmd) : Nat := c.arg 54 2
/-- RANK. -/
def rdRank (c : Cmd) : Nat := c.arg 56 2

/-- The elements of a chunk: first and count (R742). -/
def rdChunk (c : Cmd) (k : Nat) : Nat × Nat :=
  let cs := 16 * ceilDiv (rdN c) (16 * rdP c)
  let a := min (k * cs) (rdN c)
  (a, min ((k + 1) * cs) (rdN c) - a)

/-- The chunk that the n-th receive takes: P − 1 of the reduce-scatter, then P − 1 of the all-gather (R742). -/
def rdRecv (c : Cmd) (n : Nat) : Nat :=
  let p := rdP c
  if n < p - 1 then (rdRank c + 2 * p - n - 1) % p else (rdRank c + 2 * p - (n - (p - 1))) % p

/-- The chunks sent in order (R742). -/
def rdSent (c : Cmd) : List Nat :=
  let p := rdP c
  rdRank c :: ((List.range (p - 2)).map (rdRecv c) ++ [(rdRank c + 1) % p] ++ (List.range (p - 2)).map fun s => rdRecv c (p - 1 + s))

/-- Bytes of chunks. -/
def rdBytes (c : Cmd) (l : List Nat) : Nat := (l.map fun k => 2 * (rdChunk c k).2).sum

/-- Bytes received in all. -/
def rdExpect (c : Cmd) : Nat := rdBytes c ((List.range (2 * rdP c - 2)).map (rdRecv c))

/-- add16 (R743). -/
def add16 (a b : Nat) : Nat := (convF 0 (fadd 0 rne (convF 1 a 0 rne 0).1 (convF 1 b 0 rne 0).1).1 1 rne 0).1

/-- add16 over the elements of two byte strings. -/
def addChunks (a b : List Byte) : List Byte :=
  (List.range (a.length / 2)).flatMap fun i => toLe 2 (add16 (fld a (2 * i) 2) (fld b (2 * i) 2))

/-- The bytes of a chunk of SRC. -/
def State.srcChunk (s : State) (cid : Nat) (c : Cmd) (k : Nat) : List Byte :=
  s.cmdRead cid c (rdSrc c + 2 * (rdChunk c k).1) (2 * (rdChunk c k).2)

/-- Where the n-th received chunk begins in the bytes received. -/
def rdOffset (c : Cmd) (n : Nat) : Nat := rdBytes c ((List.range n).map (rdRecv c))

/-- The value that the n-th receive gives: a sum in the reduce-scatter, a chunk of DST in the all-gather (R742). -/
def State.rdValue (s : State) (cid : Nat) (c : Cmd) (data : List Byte) (n : Nat) : List Byte :=
  let k := rdRecv c n
  let x := (data.drop (rdOffset c n)).take (2 * (rdChunk c k).2)
  if n < rdP c - 1 then addChunks x (s.srcChunk cid c k) else x

/-- Chunks complete in the bytes received are taken in order and what they cause to be sent is queued on NEXT_PORT (R742). -/
def State.rdTake (s : State) (cid : Nat) (c : Cmd) : Nat → State
  | 0 => s
  | k + 1 =>
    match s.rop? cid with
    | none => s
    | some o =>
      match o.link? (rdPrev c) with
      | none => s
      | some l =>
        if o.step < 2 * rdP c - 2 ∧ rdOffset c (o.step + 1) ≤ l.got then
          let v := s.rdValue cid c l.data o.step
          let s := s.mRop cid fun o => { o with step := o.step + 1 }
          let s := if o.step = 2 * rdP c - 3 then s else s.mLink cid (rdNext c) fun l => { l with queue := l.queue ++ v }
          s.rdTake cid c k
        else s

/-- The result vector from the bytes received (R742). -/
def State.rdResult (s : State) (cid : Nat) (c : Cmd) (data : List Byte) : List Byte :=
  (List.range (rdP c)).flatMap fun k =>
    match ((List.range (rdP c)).map (rdP c - 2 + ·)).find? fun n => rdRecv c n == k with
    | some n => s.rdValue cid c data n
    | none => []

/-- The result of a reduction is written; NF and the histogram of R159 and R163 apply to it (R744). -/
def State.writeReduce (s : State) (cid : Nat) (c : Cmd) (o : ROp) : State :=
  let out := s.rdResult cid c ((o.link? (rdPrev c)).map (·.data) |>.getD [])
  let vs := (List.range (rdN c)).map fun i => fld out (2 * i) 2
  let nf := (List.range vs.length).find? fun i => nonfinite 1 (vs.getD i 0)
  (s.cmdWrite cid c (rdDst c) out).mCmd cid fun c => { c with
    hists := countBins c.hists 1 vs
    flags := if nf.isSome then c.flags ||| BitVec.ofNat 7 flNF else c.flags
    nf := match c.nf, nf with | none, some i => some { out := 0, row := 0, col := i } | x, _ => x }

/-! ### The exchange (R736 to R740) -/

/-- COUNT_ADDR. -/
def exCount (c : Cmd) : Nat := c.arg 56 8

/-- The received bytes and the counts of an exchange are written (R739). -/
def State.writeExchange (s : State) (cid : Nat) (c : Cmd) (o : ROp) : State :=
  o.links.foldl (fun s l => (s.cmdWrite cid c l.recvAddr.toNat l.data).cmdWrite cid c (exCount c + 4 * l.port) (toLe 4 l.got)) s

/-! ### The end of an operation (R728) -/

/-- The writes of an operation: their addresses and lengths. -/
def ROp.writes (o : ROp) (c : Cmd) : List (Nat × Nat) :=
  if o.reduce then [(rdDst c, 2 * rdN c)] else o.links.flatMap fun l => [(l.recvAddr.toNat, l.got), (exCount c + 4 * l.port, 4)]

/-- Every byte of an operation has been sent and received on all of its links. -/
def ROp.allMoved (o : ROp) : Bool := o.links.all fun l => l.queue.isEmpty && l.sent == l.sendTotal && l.total == some l.got

/-- Both DONEs have passed on a link: NEXT_SEQ steps (R728). -/
def State.linkDone (s : State) (o : ROp) (l : RLink) : State := s.mChan l.port o.channel fun c => { c with nextSeq := l.seq + 1 }

/-- What remains once bytes have moved: the writes, which may wait on another unit's copies (R543), DONE on every link, and the
end when DONE has arrived on every link (R728). -/
def State.advanceOp (s : State) (cid : Nat) : State :=
  match s.rop? cid, s.cmd? cid with
  | some o, some c =>
    if !o.started then s
    else
      let sent := o.links.all (·.doneSent)
      if !sent && (!o.allMoved || (o.reduce && o.step != 2 * rdP c - 2) || (o.writes c).any fun w => s.cmdConflict cid c w.1 w.2) then s
      else
        let s := if sent then s else
          let s := if o.reduce then s.writeReduce cid c o else s.writeExchange cid c o
          let s := o.links.foldl (fun s l => s.sendFrame l.port { type := 3, channel := o.channel, epoch := o.epoch, seq := l.seq, op := o.op }) s
          let s := o.links.foldl (fun s l => if l.doneGot then s.linkDone o l else s) s
          s.mRop cid fun o => { o with links := o.links.map fun l => { l with doneSent := true } }
        if o.links.all (·.doneGot) then
          (s.mRoutes fun r => { r with ops := r.ops.filter (·.cid != cid) }).mCmd cid fun c => { c with st := .finished }
        else s
  | _, _ => s

/-- Received bytes are used, queued bytes are sent, and the operation ends when it can. -/
def State.runOp (s : State) (cid : Nat) : State :=
  match s.rop? cid, s.cmd? cid with
  | some o, some c => ((if o.reduce then s.rdTake cid c (2 * rdP c) else s).pumpOp cid).advanceOp cid
  | _, _ => s

/-! ### Received DATA and START -/

/-- DATA frames are freed: the count goes back in a CREDIT frame (R720). -/
def State.freeData (s : State) (p n : Nat) : State :=
  if n = 0 then s
  else
    let s := s.mPort p fun q => { q with dataFreed := q.dataFreed + BitVec.ofNat 32 n }
    s.sendFrame p { type := 5, arg := (s.port p).dataFreed }

/-- Count a stale frame (R721). -/
def State.stale (s : State) (p : Nat) : State := s.mPortCnt p fun c => { c with stale := c.stale + 1 }

/-- The started operation and link that a frame's channel, epoch and sequence number name on a port. -/
def State.current? (s : State) (p : Nat) (f : Frame) : Option (ROp × RLink) :=
  (s.routes.ops.filter fun o => o.started && o.channel == f.channel && o.epoch == f.epoch).findSome? fun o =>
    match o.link? p with
    | some l => if l.seq == f.seq then some (o, l) else none
    | none => none

/-- DATA of the current operation: in order and within TOTAL, else PROTOCOL (R721). -/
def State.takeData (s : State) (p : Nat) (o : ROp) (l : RLink) (f : Frame) : State :=
  if f.offset.toNat * 32 ≠ l.got ∨ l.total.getD 0 < l.got + f.payload.length then s.quarantine p 4
  else
    let s := s.mLink o.cid p fun l => { l with got := l.got + f.payload.length, data := l.data ++ f.payload }
    (s.freeData p 1).runOp o.cid

/-- The partner's START meets the local one (R727, R740). -/
def State.meetStart (s : State) (p : Nat) (o : ROp) (l : RLink) (f : Frame) : State :=
  let total := f.arg.toNat * 32
  if f.kind ≠ b2n o.reduce ∨ f.op ≠ o.op ∨ (if o.reduce then total ≠ l.expect else l.expect < total) then
    let s := (s.sendAbort o l 2).mPortCnt p fun c => { c with mismatch := c.mismatch + 1 }
    let s := s.mChan p o.channel fun c => { c with nextSeq := l.seq + 1 }
    s.failOp { o with links := o.links.filter (·.port != p) } 0x807 (s.detOp o l)
  else (s.mLink o.cid p fun l => { l with total := some total }).runOp o.cid

/-- A held START and its held DATA frames reach the operation that has started (R726). -/
def State.deliverHeld (s : State) (cid p : Nat) : State :=
  match s.rop? cid with
  | none => s
  | some o =>
    match o.link? p with
    | none => s
    | some l =>
      let ch := (s.port p).chan o.channel
      match ch.heldStart with
      | none => s
      | some f =>
        if f.epoch ≠ o.epoch ∨ f.seq ≠ l.seq then s
        else
          let s := s.mChan p o.channel fun c => { c with heldStart := none, heldData := [] }
          let s := s.meetStart p o l f
          ch.heldData.foldl (fun s d =>
            match s.current? p d with
            | some (o, l) => s.takeData p o l d
            | none => if (s.port p).st == .up then (s.stale p).freeData p 1 else s) s

/-! ### Starting (R723 to R726) -/

/-- An operation goes before another in a channel's order (R723, R730). -/
def ROp.before (a b : ROp) : Bool :=
  let key (o : ROp) : List Nat := [b2n (!o.first), o.epoch.toNat, o.op.toNat, o.order]
  decide (key a < key b)

/-- An operation is first on every port it names, and each channel is free (R722, R723). -/
def State.firstEverywhere (s : State) (o : ROp) : Bool :=
  o.links.all fun l =>
    ((s.port l.port).chan o.channel).orphan.isNone &&
    s.routes.ops.all fun x => x.cid == o.cid || x.channel != o.channel || (x.link? l.port).isNone || (!x.started && o.before x)

/-- A link takes its sequence number, the channel a higher epoch; a held START of a lower epoch has become stale (R721, R723, R724). -/
def State.takeSeq (s : State) (o : ROp) (l : RLink) : State :=
  let ch := (s.port l.port).chan o.channel
  let raise := decide (ch.epoch < o.epoch)
  let s := if raise then s.mChan l.port o.channel fun c => { c with epoch := o.epoch, nextSeq := 0 } else s
  let old := raise && (match ch.heldStart with | some f => decide (f.epoch < o.epoch) | none => false)
  let s := if old then ((s.mChan l.port o.channel fun c => { c with heldStart := none, heldData := [] }).stale l.port).freeData l.port ch.heldData.length else s
  s.mLink o.cid l.port fun x => { x with
    seq := ((s.port l.port).chan o.channel).nextSeq, sent := 0, got := 0, data := [], total := none, queue := []
    doneSent := false, doneGot := false, stalled := false }

/-- START of a link (R726). -/
def State.sendStart (s : State) (o : ROp) (l : RLink) : State :=
  s.sendFrame l.port { type := 2, channel := o.channel, epoch := o.epoch, seq := l.seq, arg := BitVec.ofNat 32 (l.sendTotal / 32), op := o.op, kind := b2n o.reduce }

/-- The bytes that a link queues at the start. -/
def State.firstBytes (s : State) (cid : Nat) (c : Cmd) (o : ROp) (l : RLink) : List Byte :=
  if o.reduce then (if l.port = rdNext c then s.srcChunk cid c (rdRank c) else [])
  else s.cmdRead cid c l.sendAddr.toNat l.sendTotal

/-- Poisoned bytes that an operation would transmit (R769). -/
def State.opPoison (s : State) (cid : Nat) (c : Cmd) (o : ROp) : Option Nat :=
  if o.reduce then (if s.cmdPoison cid c (rdSrc c) (2 * rdN c) then some (rdSrc c) else none)
  else (o.links.find? fun l => s.cmdPoison cid c l.sendAddr.toNat l.sendTotal).map (·.sendAddr.toNat)

/-- An operation starts on all of its links. -/
def State.startOp (s : State) (cid : Nat) (c : Cmd) (o : ROp) : State :=
  let s := o.links.foldl (fun s l => s.takeSeq o l) s
  let s := s.mRop cid fun o => { o with started := true, first := false, step := 0 }
  match s.rop? cid with
  | none => s
  | some o =>
    let s := o.links.foldl (fun s l => (s.sendStart o l).mLink cid l.port fun x => { x with queue := s.firstBytes cid c o l }) s
    match s.opPoison cid c o with
    | some da => (s.dropOp o).tearCmd c { code := 0x632, detail := detDa da }
    | none => (o.links.foldl (fun s l => s.deliverHeld cid l.port) s).runOp cid

/-- ROUTE_OPERATION_START (R723 to R726): an operation that is first on every port it names fails when one is not UP or has a
higher epoch, else it starts. -/
def execRouteOperationStart (cid : Nat) (s : State) : Host.Outcome State Fault Refusal :=
  match s.live, s.rop? cid, s.cmd? cid with
  | true, some o, some c =>
    if o.started || !s.firstEverywhere o then .next s
    else match o.links.find? fun l => (s.port l.port).st != .up with
      | some l => .next (s.failOp o 0x805 (s.detOp o l))
      | none =>
        match o.links.find? fun l => decide (o.epoch < ((s.port l.port).chan o.channel).epoch) with
        | some l => .next (s.failOp o 0x806 (s.detOp o l))
        | none => .next (s.startOp cid c o)
  | _, _, _ => .next s

/-! ### Dispatch (R746) -/

/-- The ports of PORT_MASK. -/
def exPorts (c : Cmd) : List Nat := (List.range 8).filter fun p => bit (c.arg 40 1) p

/-- The entry of a port in the list (R737). -/
def State.exEntry (s : State) (cid : Nat) (c : Cmd) (p : Nat) : List Byte := s.cmdRead cid c (c.arg 32 8 + 32 * p) 32

/-- An entry's reserved fields are 0 and its lengths are multiples of 32. -/
def entryOk (e : List Byte) : Bool := zeroIn e 12 4 && zeroIn e 28 4 && fld e 8 4 % 32 == 0 && fld e 24 4 % 32 == 0

/-- The checks of R746 for an exchange. -/
def State.exOk (s : State) (cid : Nat) (c : Cmd) : Bool :=
  zeroExcept c.bytes [(32, 10), (44, 6), (56, 8)] && decide (c.arg 41 1 < 16 ∧ c.arg 40 1 ≠ 0) &&
  (List.range 8).all (fun p => entryOk (s.exEntry cid c p)) && (exPorts c).all fun p => (s.routePolicy p).enable

/-- The links of an exchange. -/
def State.exLinks (s : State) (cid : Nat) (c : Cmd) : List RLink :=
  (exPorts c).map fun p =>
    let e := s.exEntry cid c p
    { port := p, sendTotal := fld e 8 4, expect := fld e 24 4, recvAddr := BitVec.ofNat 64 (fld e 16 8), sendAddr := BitVec.ofNat 64 (fld e 0 8) }

/-- The checks of R746 for a reduction. -/
def State.rdOk (s : State) (c : Cmd) : Bool :=
  zeroExcept c.bytes [(32, 26), (60, 6)] && decide (c.arg 52 1 < 16) && !bit (c.arg 53 1) 3 && !bit (c.arg 53 1) 7 &&
  decide (rdN c % 16 = 0 ∧ 16 ≤ rdN c ∧ rdN c ≤ 2 ^ 30 ∧ 2 ≤ rdP c ∧ rdP c ≤ 256 ∧ rdRank c < rdP c) &&
  ((rdPrev c == rdNext c) == (rdP c == 2)) && (s.routePolicy (rdPrev c)).enable && (s.routePolicy (rdNext c)).enable

/-- The links of a reduction. -/
def rdLinks (c : Cmd) : List RLink :=
  let n := rdBytes c (rdSent c)
  if rdPrev c = rdNext c then [{ port := rdNext c, sendTotal := n, expect := rdExpect c }]
  else [{ port := rdNext c, sendTotal := n }, { port := rdPrev c, expect := rdExpect c }]

/-- An operation is queued for its channel (R722). -/
def State.queueOp (s : State) (cid : Nat) (o : ROp) : State :=
  (s.mRoutes fun r => { r with ops := r.ops ++ [{ o with order := r.nextOrder }], nextOrder := r.nextOrder + 1 }).mCmd cid fun c => { c with st := .running }

/-- ROUTE_EXCHANGE (R736 to R740, R746). -/
def execRouteExchange (cid : Nat) (s : State) : Host.Outcome State Fault Refusal :=
  match s.ready? cid 0x18 .admitted with
  | none => .next s
  | some c =>
    if !s.orderOk cid c then .next s
    else if !s.exOk cid c then .next (s.tearCmd c { code := 0x808 })
    else .next (s.queueOp cid { cid := cid, channel := c.arg 41 1, epoch := BitVec.ofNat 32 (c.arg 44 4), op := BitVec.ofNat 16 (c.arg 48 2), links := s.exLinks cid c })

/-- ROUTE_REDUCE (R741 to R746). -/
def execRouteReduce (cid : Nat) (s : State) : Host.Outcome State Fault Refusal :=
  match s.ready? cid 0x19 .admitted with
  | none => .next s
  | some c =>
    if !s.orderOk cid c then .next s
    else if !s.rdOk c then .next (s.tearCmd c { code := 0x808 })
    else .next (s.queueOp cid { cid := cid, reduce := true, channel := c.arg 52 1, epoch := BitVec.ofNat 32 (c.arg 60 4), op := BitVec.ofNat 16 (c.arg 64 2), links := rdLinks c })

/-- The ranges of an exchange: the list, each send range, each receive range and the counts (R738). -/
def exRanges (c : Cmd) (entry : Nat → List Byte) : List Range :=
  (c.arg 32 8, 256, false) :: ((exPorts c).map (fun p => (fld (entry p) 0 8, fld (entry p) 8 4, false)) ++
    (exPorts c).map (fun p => (fld (entry p) 16 8, fld (entry p) 24 4, true)) ++ [(exCount c, 32, true)])

/-- The ranges of a reduction (R741). -/
def rdRanges (c : Cmd) : List Range := [(rdSrc c, 2 * rdN c, false), (rdDst c, 2 * rdN c, true)]

end Sys2Proof.Machine
end

