-- ==== Sys2Proof/Machine/MemorySteps.lean ====
section
/-!
DEFINITION. Events of the memory system: Depot evictions (R541, R542), conflict waits (R543), buffer drains (R527, R531), parity and ECC
errors (R557, R558, R767, R786), poison (R769), stack temperature (R572 to R577), and the Drovers' Copy (R559 to R564).
-/
namespace Sys2Proof.Machine

/-! ### The Depot -/

/-- Lines in the spill area of a die: 32 MiB on each of its stacks (R541, R578). -/
def State.spillUsed (s : State) (die : Nat) : Nat :=
  ((s.depot.lines.filter fun l => sliceOf l.pa == die).map fun l => b2n l.spilled + (l.provs.filter (·.spilled)).length).sum

/-- The context of a provisional copy's unit. -/
def State.unitOwner (s : State) (v : Prov) : Option Nat :=
  match v.waybill with
  | some i => (s.wb? i).map (·.ctx)
  | none => (s.cmd? v.cid).map (·.ctx)

/-- DEPOT_EVICTION (R541, R542): of a committed copy, or of the provisional copy at an index. -/
def execDepotEviction (space : Space) (addr : Nat) (prov : Option Nat) (s : State) : Host.Outcome State Fault Refusal :=
  let p : PA := { space := space, addr := addr }
  match s.dline? p with
  | none => .next s
  | some l =>
    let full := decide (1048576 ≤ s.spillUsed (sliceOf p))
    match prov with
    | none =>
      if l.provs.any (·.written) then
        if l.spilled || l.data.isEmpty then .next s
        else if full then
          match (l.provs.find? (·.written)).bind s.unitOwner with
          | some ctx => .next (s.tear ctx { code := 0x603, detail := detAddr p.line.addr 1 0xFF (stackOf p) 0 0 0 })
          | none => .next s
        else .next (s.mDepot (·.putLine { l with spilled := true }))
      else .next (s.dropCommitted p)
    | some n =>
      match l.provs[n]? with
      | none => .next s
      | some v =>
        if v.spilled || v.written then .next s
        else if v.atomic then
          if full then
            match s.unitOwner v with
            | some ctx => .next (s.tear ctx { code := 0x603, detail := detAddr p.line.addr 1 0xFF (stackOf p) 0 0 0 })
            | none => .next s
          else .next (s.mDepot (·.putLine { l with provs := l.provs.set n { v with spilled := true } }))
        else
          let kept := if l.data.isEmpty then s.memRead p.line 128 else l.data
          let bad := if l.data.isEmpty then s.memPoisoned p.line 128 else l.poison
          let s := s.memWrite p.line v.data v.poison
          .next (s.mDepot (·.putLine { l with data := kept, poison := bad, provs := l.provs.set n { v with written := true } }))

/-- CONFLICT_WAIT_RELEASE (R543, R544): waiting groups issue again and waiting bags are delivered. -/
def execConflictWaitRelease (s : State) : Host.Outcome State Fault Refusal :=
  if !s.live then .next s
  else
    let t := s.depot.waits.foldl (fun t r => t.mGroup r fun g => { g with
      st := if g.st == .stalled && !g.atBar && g.binding.isNone then .ready else g.st, readyAt := s.time }) s
    let t := t.mDepot fun d => { d with waits := [] }
    let t := (List.range 8).foldl (fun t q => ((t.serai q).accs.filter fun a => a.left == 0 && a.owner == q).foldl
      (fun t a => t.bagStep q a.cid a.bag true) t) t
    .next (t.routes.ops.foldl (fun t o => t.advanceOp o.cid) t)

/-- WC_BUFFER_DRAIN (R527): an entry of a combining buffer drains. -/
def execWcBufferDrain (hearth idx : Nat) (s : State) : Host.Outcome State Fault Refusal :=
  match s.live, (s.hearth hearth).wc[idx]? with
  | true, some e => .next (s.drainWcWhere hearth fun x => x == e)
  | _, _ => .next s

/-- MERGING_BUFFER_DRAIN (R531): the oldest entry of a die's merging buffer drains. -/
def execMergingBufferDrain (die : Nat) (s : State) : Host.Outcome State Fault Refusal :=
  if s.live then .next (s.drainOldest die) else .next s

/-! ### Parity and ECC -/

/-- Count an event of an SRAM location; at its limit a Depot or L1 way is disabled (R786). -/
def State.sramEvent (s : State) (loc : Nat) (way : Bool) : State :=
  let n := mapGetD s.flt.sramHits loc 0 + 1
  let s := s.mFlt fun f => { f with sramHits := mapSet f.sramHits loc n }
  if way && decide (s.img.sramMax ≤ n) && s.img.sramMax != 0 && !s.flt.disabledWays.contains loc then
    (s.mFlt fun f => { f with disabledWays := f.disabledWays ++ [loc] }).spare
      { resource := 6, action := 2, inst := 0, fromLoc := loc, toLoc := 0xFFFFFFFF, code := 0 }
  else s

/-- Count a fault of R557 in the slice of a line (R578). -/
def State.parityCount (s : State) (p : PA) (lost : Bool) : State :=
  let bump (c : SliceCnt) : SliceCnt := if lost then { c with lost := c.lost + 1 } else { c with refetch := c.refetch + 1 }
  s.mDepot fun d => if sliceOf p = 0 then { d with slice0 := bump d.slice0 } else { d with slice1 := bump d.slice1 }

/-- DETAIL of a fault at a place. -/
def detPa (p : PA) : List Byte :=
  detAddr p.addr (if p.space == .stack then 1 else 2) 0xFF (if p.space == .stack then stackOf p else 0xFF) 0 0 0

/-- 0x0601: a line is fetched again (R557). -/
def State.refetched (s : State) (p : PA) : State := (s.parityCount p false).raise { code := 0x601, detail := detPa p }

/-- 0x0602: data are lost; a context is torn down when it exists (R557). -/
def State.dataLost (s : State) (p : PA) (ctx : Option Nat) : State :=
  let s := s.parityCount p true
  let r : FaultRec := { code := 0x602, detail := detPa p }
  match ctx with
  | some x => if (s.ctx? x).isSome then s.tear x r else s.raiseAs 0 r
  | none => s.raiseAs 0 r

/-- CACHE_PARITY_ERROR (R557, R558): kind 0 is line `idx` of the L1 and instruction cache of Hearth `h`, kind 1 line `idx` of the Depot, its
provisional copy `prov` or its committed copy, kind 2 a word of the local store of block `idx`; `loc` names the SRAM location. -/
def execCacheParityError (kind h idx loc : Nat) (prov : Option Nat) (s : State) : Host.Outcome State Fault Refusal :=
  if !s.live then .next s
  else
    match kind with
    | 0 =>
      match (s.hearth h).l1[idx]? with
      | none => .next s
      | some l =>
        let t := (s.sramEvent loc true).mHearth h fun u => { u with l1 := u.l1.erase l }
        .next (if l.instr || !l.isDirty then t.refetched l.pa else t.dataLost l.pa ((s.cmd? l.cid).map (·.ctx)))
    | 1 =>
      match s.depot.lines[idx]? with
      | none => .next s
      | some l =>
        let t := s.sramEvent loc true
        match prov with
        | some n =>
          match l.provs[n]? with
          | none => .next s
          | some v => .next ((t.mDepot fun d => (d.putLine { l with provs := l.provs.eraseIdx n }).tidy).dataLost l.pa (s.unitOwner v))
        | none =>
          if l.data.isEmpty then .next s
          else
            let gone (t : State) : State := t.mDepot fun d => (d.putLine { l with data := [], dirty := false, poison := false, spilled := false }).tidy
            .next (if l.dirty then (gone (t.memWrite l.pa l.data true)).dataLost l.pa l.owner else (gone t).refetched l.pa)
    | _ =>
      match s.hearths.blocks[idx]? with
      | none => .next s
      | some b => .next ((s.sramEvent loc false).dataLost {} ((s.cmd? b.cid).map (·.ctx)))

/-- The key of a DRAM row; its low 32 bits, bank and row, are the FROM of a sparing-log entry (assumption 43). -/
def rowKey (stack chan bank row : Nat) : Nat := ((stack * 64 + chan) * 256 + bank) * 2 ^ 24 + row % 2 ^ 24

/-- Remap a DRAM row to one of its channel's 64 spares (R786, R787). -/
def State.remapRow (s : State) (stack chan key : Nat) : State :=
  if (mapGet s.flt.sparedRows key).isSome then s
  else
    let used := (s.flt.sparedRows.filter fun r => r.1 / 2 ^ 32 == stack * 64 + chan).length
    let code := if used < 64 then 0x633 else 0x634
    let dst := if used < 64 then used else 0xFFFFFFFF
    let inst := stack + chan * 256
    let s := if used < 64 then s.mFlt fun f => { f with sparedRows := mapSet f.sparedRows key used } else s
    (s.spare { resource := 5, action := if used < 64 then 0 else 2, inst := inst, fromLoc := key % 2 ^ 32, toLoc := dst, code := code }).raise
      { code := code, detail := detSpare 5 inst (key % 2 ^ 32) dst (min 64 (used + 1)) }

/-- STACK_ECC_ERROR (R767, R786): a correction, or an uncorrectable error that poisons the 64-byte unit; `lane` is the Serai lane that met
it. -/
def execStackEccError (addr chan bank row : Nat) (correctable : Bool) (lane : Option Nat) (s : State) : Host.Outcome State Fault Refusal :=
  if s.dev == .off || !inStackWindow addr 1 then .next s
  else
    let stack := addr / 2 ^ 37
    let key := rowKey stack chan bank row
    let det := detAddr addr 1 0xFF stack chan bank row
    if correctable then
      let s := s.raise { code := 0x630, detail := det }
      let s := s.mFlt fun f => { f with ceRows := (key, s.time) :: f.ceRows.filter fun r => decide (s.time < r.2 + 86400 * cyclesPerS) }
      let s := if s.img.rowCeMax ≠ 0 ∧ s.img.rowCeMax ≤ (s.flt.ceRows.filter (·.1 == key)).length then s.remapRow stack chan key else s
      .next (match lane with | some n => s.laneStrike stack n s.img.laneCeMax | none => s)
    else
      let u := addr / 64 * 64
      let s := s.mMem fun m => { m with stackPoison := if m.stackPoison.contains u then m.stackPoison else m.stackPoison ++ [u] }
      let s := (s.raise { code := 0x631, detail := det }).remapRow stack chan key
      .next (match lane with | some n => s.laneFail stack n | none => s)

/-- POISON_CONSUMED (R769, R770): a unit other than a Hearth consumes poisoned data for a command. -/
def execPoisonConsumed (cid addr : Nat) (s : State) : Host.Outcome State Fault Refusal :=
  match s.live, s.cmd? cid with
  | true, some c =>
    if c.st == .running && s.cmdPoison cid c addr 1 then .next (s.tearCmd c { code := 0x632, detail := detDa addr }) else .next s
  | _, _ => .next s

/-! ### Stack temperature -/

/-- STACK_TEMP_SAMPLE (R572 to R574, R577): a sample in 1/256 °C. -/
def execStackTempSample (stack : Nat) (temp : Int) (s : State) : Host.Outcome State Fault Refusal :=
  if s.dev == .off || !s.img.loaded || decide (8 ≤ stack) then .next s
  else
    let thr (n : Nat) : Int := nth s.img.thr n * 256
    let old := s.throttle stack
    let new := (List.range 4).foldl (fun l n => if 0 < n ∧ thr (n - 1) ≤ temp ∧ l < n then n else l) old
    let cool := old ≠ 0 ∧ temp < thr (old - 1) - 768
    let s := s.mDampers fun d => { d with perStack := mapMod d.perStack stack {} fun x => { x with
      temp := BitVec.ofInt 16 temp, level := new, below := if cool then x.below + 1 else 0
      raises := if old < new then x.raises + 1 else x.raises } }
    let s := if old < new then s.raise { code := 0x621 } else s
    .next (if thr 3 ≤ temp then s.raise { code := 0x622 } else s)

/-! ### Copy -/

/-- LENGTH. -/
def cpLen (c : Cmd) : Nat := c.arg 48 8
/-- SRC_KIND: flash. -/
def cpSrcFlash (c : Cmd) : Bool := bit (c.arg 56 1) 0
/-- DST_KIND: flash. -/
def cpDstFlash (c : Cmd) : Bool := bit (c.arg 56 1) 1

/-- The ranges of a Copy: its memory sides (R561). -/
def copyRanges (c : Cmd) : List Range :=
  (if cpSrcFlash c then [] else [(c.arg 32 8, cpLen c % 2 ^ 36, false)]) ++ (if cpDstFlash c then [] else [(c.arg 40 8, cpLen c % 2 ^ 36, true)])

/-- A flash side names blocks of a usable namespace (R222, R226, R561). -/
def State.flashSide (s : State) (ctrl nsid lba len : Nat) : Bool :=
  len % 4096 == 0 && s.cellar.present.getLsbD ctrl && !s.cellar.offline.getLsbD ctrl &&
    (match mapGet s.cellar.ctrls ctrl with
     | none => false
     | some v => v.spaces.any fun n => n.nsid == nsid && n.lbaOk && decide (lba + len / 4096 ≤ n.blocks))

/-- The first two checks of R561. -/
def State.copyOk (s : State) (c : Cmd) : Bool :=
  zeroExcept c.bytes [(32, 27), (60, 8)] && decide (1 ≤ cpLen c ∧ cpLen c < 2 ^ 36 ∧ c.arg 56 1 < 3 ∧ c.arg 58 1 < 2) &&
  (!cpSrcFlash c || s.flashSide (c.arg 57 1 % 16) (c.arg 60 4) (c.arg 32 8) (cpLen c)) &&
  (!cpDstFlash c || s.flashSide (c.arg 57 1 / 16) (c.arg 64 4) (c.arg 40 8) (cpLen c))

/-- Blocks of a shard's flash extent. -/
def Table.flashBlocks (t : Table) (h : Shard) : Nat :=
  if h.rows ≤ h.stackRows + h.remoteRows then 0 else (t.flashAt h (h.rows - 1)).1 + 1 - h.startLba

/-- The registered table whose flash extent a run of blocks touches (R561). -/
def State.flashGuard (s : State) (ctrl nsid lba n : Nat) : Option Nat :=
  (s.tally.tables.find? fun x => x.2.shards.any fun h => h.controller == ctrl && h.nsid == nsid &&
    decide (h.startLba < lba + n ∧ lba < h.startLba + x.2.flashBlocks h)).map (·.1)

/-- The registered table whose stack pages a Copy writes (R270). -/
def State.copyGuard (s : State) (c : Cmd) : Option Nat :=
  if cpDstFlash c then s.flashGuard (c.arg 57 1 / 16) (c.arg 64 4) (c.arg 40 8) (cpLen c / 4096)
  else match s.pieces c.fn c.tset (c.arg 40 8) (cpLen c) with
    | none => none
    | some ps => ps.findSome? fun x => s.guardedBy x.1 x.2

/-- DETAIL of a refused write of a Copy: the first stack place that a table guards, or the first destination block (R270, R753). -/
def State.copyGuardDet (s : State) (c : Cmd) : List Byte :=
  match (if cpDstFlash c then none else s.pieces c.fn c.tset (c.arg 40 8) (cpLen c)).bind fun ps =>
      ps.find? fun x => (s.guardedBy x.1 x.2).isSome with
  | some x => detAddr x.1.addr 1 0xFF (stackOf x.1) 0 0 0
  | none => detDa (c.arg 40 8)

/-- Write bytes at a Device Address past the Depot, in pieces of 64-byte units of the destination, each poisoned as its source is (R563,
R768). -/
def State.drove (s : State) (c : Cmd) (data : List Byte) (bad : Nat → Nat → Bool) : Nat → Nat → State
  | 0, _ => s
  | k + 1, off =>
    if data.length ≤ off then s
    else
      let da := c.arg 40 8 + off
      let n := min (64 - da % 64) (data.length - off)
      match findTr c.tset da with
      | none => s
      | some t => (s.writeThrough (s.place c.fn t da) ((data.drop off).take n) (bad off n)).drove c data bad k (off + n)

/-- Count the bytes that each Drover in service moves, in pieces of 256 KiB (R562, R797). -/
def State.countDrove (s : State) (c : Cmd) (len : Nat) : State :=
  let up := (List.range 16).filter fun d => s.drovers.inService.getLsbD d
  let s := s.mDrovers fun d => { d with bytes := d.bytes + BitVec.ofNat 64 len }
  (List.range ((len + 262143) / 262144)).foldl (fun s j =>
    s.count 0x0D (nth up (j % up.length)) (some c.ctx) c.cls (min 262144 (len - j * 262144))) s

/-- A flash block read by a Drover fails: reported in `errs`, or its CRC does not match (R225, R564). -/
def State.blockFails (s : State) (ctrl nsid lba : Nat) (errs : List Nat) : Bool :=
  errs.contains lba || s.cellar.blocks.any fun b => b.ctrl == ctrl && b.nsid == nsid && b.lba == lba && b.poisoned

/-- Raise the faults of the failing blocks of a flash source (R225). -/
def State.flashFaults (s : State) (ctrl nsid : Nat) (errs : List Nat) (lbas : List Nat) : State :=
  lbas.foldl (fun s lba =>
    if errs.contains lba then (s.mCellar fun c => { c with readErrors := c.readErrors + 1 }).raise { code := 0xC01 }
    else if s.blockFails ctrl nsid lba [] then (s.mCellar fun c => { c with crcErrors := c.crcErrors + 1 }).raise { code := 0xC02 }
    else s) s

/-- A flash source: its bytes, and the state with its read faults raised. -/
def State.copyFlashIn (s : State) (cid : Nat) (c : Cmd) (errs : List Nat) : State :=
  let ctrl := c.arg 57 1 % 16
  let nsid := c.arg 60 4
  let lbas := run (c.arg 32 8) (cpLen c / 4096)
  let data := lbas.flatMap (s.blockData ctrl nsid)
  let bad (off n : Nat) : Bool := s.blockFails ctrl nsid (c.arg 32 8 + off / 4096) errs || s.blockFails ctrl nsid (c.arg 32 8 + (off + n - 1) / 4096) errs
  let lines := (lbas.filter fun l => s.blockFails ctrl nsid l errs).length * 32
  let s := (s.flashFaults ctrl nsid errs lbas).mCellar fun k => { k with nReads := k.nReads + BitVec.ofNat 32 lbas.length }
  let s := s.mDrovers fun d => { d with poisoned := d.poisoned + BitVec.ofNat 32 lines }
  (s.drove c data bad (cpLen c / 64 + 2) 0).mCmd cid fun c => { c with st := .finished }

/-- A flash destination: each block with its CRC, complemented for poisoned data (R564). -/
def State.copyFlashOut (s : State) (cid : Nat) (c : Cmd) : State :=
  let data := s.cmdRead cid c (c.arg 32 8) (cpLen c)
  let n := cpLen c / 4096
  let s := (List.range n).foldl (fun s j =>
    let bad := s.cmdPoison cid c (c.arg 32 8 + 4096 * j) 4096
    (s.blockWrite (c.arg 57 1 / 16) (c.arg 64 4) (c.arg 40 8 + j) ((data.drop (4096 * j)).take 4096) bad).mDrovers fun d => { d with
      flashWrites := d.flashWrites + 1, poisoned := if bad then d.poisoned + 1 else d.poisoned }) s
  s.mCmd cid fun c => { c with st := .finished }

/-- A copy from memory to memory (R563, R768). -/
def State.copyMemory (s : State) (cid : Nat) (c : Cmd) : State :=
  let data := s.cmdRead cid c (c.arg 32 8) (cpLen c)
  let bad (off n : Nat) : Bool := s.cmdPoison cid c (c.arg 32 8 + off) n
  (s.drove c data bad (cpLen c / 64 + 2) 0).mCmd cid fun c => { c with st := .finished }

/-- COPY (R560 to R564): checked at dispatch, moved by the Drovers in service; a write to a line with another unit's provisional copy
waits. `errs` are the blocks whose reads the controller reports failed. -/
def execCopy (cid : Nat) (errs : List Nat) (s : State) : Host.Outcome State Fault Refusal :=
  match s.ready? cid 0x0F .admitted with
  | none => .next s
  | some c =>
    if !s.orderOk cid c then .next s
    else if !s.copyOk c then .next (s.tearCmd c { code := 0x607 })
    else match s.copyGuard c with
      | some tid =>
        let home := ((s.table? tid).map fun t => (t.shard 0).home).getD 0
        .next ((s.mSeraiCnt home fun u => { u with refusedWrites := u.refusedWrites + 1 }).tearCmd c
          { code := 0x341, dkind := 2, detail := s.copyGuardDet c })
      | none =>
        if s.drovers.inService == 0 || (!cpDstFlash c && s.cmdConflict cid c (c.arg 40 8) (cpLen c)) then .next s
        else
          let s := s.countDrove c (cpLen c)
          .next (if cpSrcFlash c then s.copyFlashIn cid c errs else if cpDstFlash c then s.copyFlashOut cid c else s.copyMemory cid c)

end Sys2Proof.Machine
end

