-- ==== Sys2Proof/Machine/Sieve.lean ====
section
/-!
DEFINITION. The Sieve: Select and Sample (R484 to R501).
-/
namespace Sys2Proof.Machine

/-- SCORE_ADDR. -/
def svScore (c : Cmd) : Nat := c.arg 32 8
/-- N. -/
def svN (c : Cmd) : Nat := c.arg 40 4 % 2 ^ 24 + 1
/-- K. -/
def svK (c : Cmd) : Nat := c.arg 44 2
/-- SFMT. -/
def svFmt (c : Cmd) : Nat := c.arg 46 1 % 8
/-- ORDER: lowest first. -/
def svLow (c : Cmd) : Bool := bit (c.arg 46 1) 3
/-- MASKED. -/
def svMasked (c : Cmd) : Bool := bit (c.arg 46 1) 4
/-- REQ_COUNT. -/
def svReqs (c : Cmd) : Nat := c.arg 48 4
/-- SCORE_STRIDE. -/
def svStride (c : Cmd) : Nat := c.arg 52 4
/-- OUT_ADDR. -/
def svOut (c : Cmd) : Nat := c.arg 56 8
/-- OUT_STRIDE. -/
def svOutStride (c : Cmd) : Nat := c.arg 64 4
/-- MASK_ADDR. -/
def svMask (c : Cmd) : Nat := c.arg 72 8
/-- MASK_STRIDE. -/
def svMaskStride (c : Cmd) : Nat := c.arg 80 4
/-- INV_TEMP. -/
def svTemp (c : Cmd) : Nat := c.arg 84 4
/-- TOP_P. -/
def svTopP (c : Cmd) : Nat := c.arg 88 4
/-- Bytes of a score. -/
def svElem (c : Cmd) : Nat := if svFmt c = 1 then 2 else 4
/-- Sample, not Select. -/
def svSample (c : Cmd) : Bool := c.opcode == 0x0E
/-- Bytes of a request's records (R485). -/
def svRecBytes (c : Cmd) : Nat := if svSample c then 8 else 8 * svK c
/-- Bytes of a request's mask. -/
def svMaskBytes (c : Cmd) : Nat := (svN c + 7) / 8

/-- The operand ranges for which the chapter names no fault of its own: the multiples of R484. -/
def sieveFmt (c : Cmd) : Bool := svStride c % 64 == 0 && svOutStride c % 8 == 0 && svMaskStride c % 64 == 0

/-- The ranges of a Sieve command (R485). -/
def sieveRanges (c : Cmd) : List Range :=
  (List.range (min (svReqs c) 65536)).flatMap fun q =>
    [(svScore c + q * svStride c, svN c * svElem c, false)] ++
    (if svMasked c then [(svMask c + q * svMaskStride c, svMaskBytes c, false)] else []) ++
    [(svOut c + q * svOutStride c, svRecBytes c, true)]

/-- The checks of R486. -/
def sieveOk (c : Cmd) : Bool :=
  zeroExcept c.bytes ([(32, 15), (48, 20), (72, 12)] ++ if svSample c then [(84, 10), (96, 4)] else []) &&
  decide (c.arg 40 4 < 2 ^ 24 ∧ 1 ≤ svK c ∧ svK c ≤ 4096 ∧ 1 ≤ svReqs c ∧ svReqs c ≤ 65536 ∧ svFmt c < 2 ∧ c.arg 46 1 < 32) &&
  (svReqs c == 1 || (decide (svN c * svElem c ≤ svStride c ∧ svRecBytes c ≤ svOutStride c) &&
    (!svMasked c || decide (svMaskBytes c ≤ svMaskStride c)))) &&
  ((svMask c != 0) == svMasked c) &&
  (!svSample c || (!svLow c && decide (svTemp c < 2 ^ 31) && !nonfinite 0 (svTemp c) && svTopP c % 2 ^ 31 != 0 && decide (svTopP c ≤ 0x3F800000)))

/-- A candidate: index and score as F32. -/
abbrev Cand := Nat × Nat

/-- One score goes strictly before another (R488). -/
def scoreBefore (low : Bool) (a b : Nat) : Bool :=
  if low then decide ((ffmt 0).ordZ a < (ffmt 0).ordZ b) else decide ((ffmt 0).ordZ b < (ffmt 0).ordZ a)

/-- Put a candidate into the ranked list, after those it does not go before (R488). -/
def rankIn (low : Bool) (x : Cand) : List Cand → List Cand
  | [] => [x]
  | y :: t => if scoreBefore low x.2 y.2 then x :: y :: t else y :: rankIn low x t

/-- The scores of request q as F32 patterns, NaN patterns kept (R488). -/
def State.sieveScores (s : State) (cid : Nat) (c : Cmd) (q : Nat) : List Nat :=
  let bs := s.cmdRead cid c (svScore c + q * svStride c) (svN c * svElem c)
  (List.range (svN c)).map fun i =>
    let v := fld bs (i * svElem c) (svElem c)
    if svFmt c = 1 then (convF 1 v 0 rne 0).1 else v

/-- The exclusion mask of request q. -/
def State.sieveMask (s : State) (cid : Nat) (c : Cmd) (q : Nat) : List Bool :=
  if svMasked c then
    let bs := s.cmdRead cid c (svMask c + q * svMaskStride c) (svMaskBytes c)
    (List.range (svN c)).map fun i => (bs.getD (i / 8) 0).getLsbD (i % 8)
  else []

/-- A score is a NaN. -/
def scoreNan (v : Nat) : Bool := ((ffmt 0).dec v).isNan

/-- The top candidates of a request in rank order (R487, R488). -/
def ranked (low : Bool) (k : Nat) (scores : List Nat) (mask : List Bool) : List Cand :=
  (List.range scores.length).foldl (fun l i =>
    let v := scores.getD i 0
    if scoreNan v || mask.getD i false then l else (rankIn low (i, v) l).take k) []

/-- A record (R489). -/
def candBytes (x : Cand) : List Byte := toLe 4 x.1 ++ toLe 4 x.2

/-- The padding record (R489). -/
def padRecord : List Byte := candBytes (0xFFFFFFFF, 0x7FC00000)

/-- a is at least b, as F32 values. -/
def f32Ge (a b : Nat) : Bool := decide ((ffmt 0).ordZ b ≤ (ffmt 0).ordZ a)

/-- The weight of a score (R493). -/
def sampleWeight (temp s0 si : Nat) : Nat :=
  if (ffmt 0).ordZ si = (ffmt 0).ordZ s0 ∨ temp = 0 then 0x3F800000
  else (fexp2 0 (fmul 0 rne (fsub 0 rne si s0).1 temp).1).1

/-- The running sums of a list in F32. -/
def runningSums : Nat → List Nat → List Nat
  | _, [] => []
  | acc, w :: t => let a := (fadd 0 rne acc w).1; a :: runningSums a t

/-- The chosen rank (R493). -/
def sampleRank (temp topP u : Nat) (scores : List Nat) : Nat :=
  let ws := scores.map (sampleWeight temp (scores.headD 0))
  let cs := match ws with | [] => [] | w :: t => w :: runningSums w t
  let lim := (fmul 0 rne topP (cs.getLastD 0)).1
  let kk := (((List.range cs.length).find? fun j => f32Ge (cs.getD j 0) lim).getD (cs.length - 1)) + 1
  let f := ((ffmt 0).round rne true false u (-24)).1
  let t := (fmul 0 rne f (cs.getD (kk - 1) 0)).1
  ((List.range kk).find? fun i => !f32Ge t (cs.getD i 0)).getD (kk - 1)

/-- Change the Sieve of a die. -/
def State.mSieve (s : State) (die : Nat) (f : SieveDie → SieveDie) : State :=
  s.mSieves fun v => if die = 0 then { v with die0 := f v.die0 } else { v with die1 := f v.die1 }

/-- The records of a request and how many of them are padding (R490, R493 to R495). -/
def sieveRecords (c : Cmd) (q : Nat) (top : List Cand) : List Byte × Nat :=
  if svSample c then
    let u := drawBits (gen c.key (c.arg 92 2) (c.arg 96 4) (elementOf 4 q))
    match top with
    | [] => (padRecord, 1)
    | _ => (candBytes (top.getD (sampleRank (svTemp c) (svTopP c) u (top.map (·.2))) (0, 0)), 0)
  else
    let pad := svK c - top.length
    (top.flatMap candBytes ++ (List.replicate pad padRecord).flatten, pad)

/-- Serve one request (R487 to R497). -/
def State.sieveRequest (s : State) (cid : Nat) (c : Cmd) (q : Nat) : State :=
  let scores := s.sieveScores cid c q
  let mask := s.sieveMask cid c q
  let out := sieveRecords c q (ranked (svLow c) (svK c) scores mask)
  let nans := (scores.filter scoreNan).length
  let s := s.cmdWrite cid c (svOut c + q * svOutStride c) out.1
  let s := s.mSieve (q % 2) fun d => { d with
    requests := d.requests + 1, candidates := d.candidates + BitVec.ofNat 64 scores.length, padded := d.padded + BitVec.ofNat 32 out.2
    nan := d.nan + BitVec.ofNat 32 nans, masked := d.masked + BitVec.ofNat 32 ((mask.filter id).length) }
  let s := if nans = 0 then s else s.mCmd cid fun c => { c with flags := c.flags ||| BitVec.ofNat 7 flNV }
  s.count 0x0C (q % 2) (some c.ctx) c.cls scores.length

/-- The first poisoned address that a Sieve command reads (R769). -/
def State.sievePoison (s : State) (cid : Nat) (c : Cmd) : Option Nat :=
  ((sieveRanges c).find? fun r => !r.2.2 && s.cmdPoison cid c r.1 r.2.1).map (·.1)

/-- A Sieve command: its checks, its requests in ascending order, its end (R486, R497). -/
def State.sieveRun (s : State) (cid op : Nat) : State :=
  match s.ready? cid op .admitted with
  | none => s
  | some c =>
    if !s.orderOk cid c then s
    else if !sieveOk c then s.tearCmd c { code := 0xA01 }
    else if (sieveRanges c).any fun r => r.2.2 && s.cmdConflict cid c r.1 r.2.1 then s
    else match s.sievePoison cid c with
      | some da => s.tearCmd c { code := 0x632, detail := detDa da }
      | none =>
        ((List.range (svReqs c)).foldl (fun s q => s.sieveRequest cid c q) s).mCmd cid fun c => { c with st := .finished }

/-- SELECT (R484 to R492). -/
def execSelect (cid : Nat) (s : State) : Host.Outcome State Fault Refusal := .next (s.sieveRun cid 0x0D)

/-- SAMPLE (R484 to R496). -/
def execSample (cid : Nat) (s : State) : Host.Outcome State Fault Refusal := .next (s.sieveRun cid 0x0E)

/-- SIEVE_ECC_ERROR (R500, R501): a corrected error is counted; an uncorrectable one tears the command's context down, unless the command
has been killed. -/
def execSieveEccError (die cid : Nat) (correctable : Bool) (s : State) : Host.Outcome State Fault Refusal :=
  if !s.live then .next s
  else if correctable then .next (s.mSieve die fun d => { d with ecc := d.ecc + 1 })
  else match s.cmd? cid with
    | some c =>
      if (c.opcode == 0x0D || c.opcode == 0x0E) && c.st != .withdrawn then .next (s.tearCmd c { code := 0xA02 })
      else .next (s.raiseAs 0 { code := 0xA02 })
    | none => .next (s.raiseAs 0 { code := 0xA02 })

end Sys2Proof.Machine
end

