-- ==== Sys2Proof/Machine/Update.lean ====
section
/-!
DEFINITION. Serai Update (R268 to R323): the overlay, Replace Rows and Read Rows, gradient updates and their apply, optimisers,
recalibration, load counts and shard migration, and what a commit and a boundary do to a table.
-/
namespace Sys2Proof.Machine

/-! ### The overlay (R278 to R281) -/

/-- Bytes of overlay memory of a Serai (R278). -/
def overlayBytes : Nat := 134217728

/-- Bytes an overlay entry of a table occupies (R278). -/
def State.entryBytes (s : State) (tid : Nat) : Nat := match s.table? tid with | some t => t.rowBytes + t.stride | none => 0

/-- Overlay bytes in use on a Serai (R278). -/
def State.overlayUsed (s : State) (q : Nat) : Nat := ((s.serai q).overlay.map fun o => s.entryBytes o.table).sum

/-- The overlay of a Serai has room for one more entry of a table. -/
def State.overlayRoom (s : State) (q tid : Nat) : Bool := decide (s.overlayUsed q + s.entryBytes tid ≤ overlayBytes)

/-- Put an entry into the overlay of a Serai with the next age. -/
def State.putOverlay (s : State) (q : Nat) (o : Overlay) : State :=
  s.mSerai q fun u => { u with overlay := u.overlay ++ [{ o with order := u.ovSeq }], ovSeq := u.ovSeq + 1 }

/-- Stage a row; a full overlay makes it wait (R281, R285). -/
def State.stageRow (s : State) (q : Nat) (o : Overlay) : State :=
  if (s.serai q).stageWait.isEmpty && s.overlayRoom q o.table then s.putOverlay q o
  else (s.mSerai q fun u => { u with stageWait := u.stageWait ++ [{ cid := o.cid, entry := o }] }).mSeraiCnt q
    fun k => { k with stageWaits := k.stageWaits + 1 }

/-- A command's work is finished when every row is staged (R285). -/
def State.stagedAll (s : State) (cid : Nat) : State :=
  if s.serais.units.any fun p => p.2.stageWait.any (·.cid == cid) then s else s.mCmd cid fun c => { c with st := .finished }

/-- Stage the rows that waited, in order, while there is room (R281). -/
def State.resumeStages (s : State) (q : Nat) : Nat → State
  | 0 => s
  | n + 1 =>
    match (s.serai q).stageWait with
    | [] => s
    | w :: rest =>
      if s.overlayRoom q w.entry.table then
        (((s.putOverlay q w.entry).mSerai q fun u => { u with stageWait := rest }).stagedAll w.cid).resumeStages q n
      else s

/-- OVERLAY_STAGE_RESUME (R281). -/
def execOverlayStageResume (serai : Nat) (s : State) : Host.Outcome State Fault Refusal :=
  if s.live then .next (s.resumeStages serai (s.serai serai).stageWait.length) else .next s

/-- The bytes that VISIBLE entries of a shard's stack rows give the 64-byte unit at a Device Address, when they cover it and none
is poisoned (R287). -/
def State.unitCover (s : State) (tid : Nat) (t : Table) (si u : Nat) : Option (List Byte) :=
  let sh := t.shard si
  let one (a : Nat) : Option Byte :=
    let l := (a - sh.stackBase) / t.rowBytes
    if a < sh.stackBase ∨ sh.stackRows ≤ l then none
    else match s.visibleOf t tid (t.rowOf si l) with
      | some o => if o.poison then none else o.data[(a - sh.stackBase) % t.rowBytes]?
      | none => none
  let bs := (List.range 64).map fun i => one (u + i)
  if bs.all (·.isSome) then some (bs.filterMap id) else none

/-- The shard's handover of a migration is not complete: its new home serves nothing (R321). -/
def State.handingOver (s : State) (tid : Nat) (t : Table) (row : Nat) : Bool :=
  match (s.rt tid).mig with | some m => m.handing && m.shard == t.shardOf row | none => false

/-- Write the unit that a stack row shares with others when their VISIBLE entries cover it (R287). -/
def State.writeUnit (s : State) (tid : Nat) (t : Table) (row u : Nat) : State :=
  let si := t.shardOf row
  match s.unitCover tid t si u with
  | some bs => s.tblWrite (t.viaRow (t.shard si) (t.localOf row)) u bs
  | none => s

/-- OVERLAY_WRITEBACK (R280, R287): the oldest VISIBLE entry of a row goes to its tier and is freed. -/
def execOverlayWriteback (serai table row : Nat) (s : State) : Host.Outcome State Fault Refusal :=
  let old := ((s.serai serai).overlay.filter fun o => o.table == table && o.row == row && o.st == .visible).foldl
    (fun (b : Option Overlay) o => match b with
      | none => some o
      | some x => if o.order < x.order then some o else some x) none
  match s.live, s.table? table, old with
  | true, some t, some o =>
    if s.handingOver table t row then .next s
    else
      let si := t.shardOf row
      let s := s.applyRow table t row o.data o.state o.poison o.stPoison
      let s := match t.rowDa (t.shard si) (t.localOf row) with
        | some da =>
          if t.localOf row < (t.shard si).stackRows && !o.poison then
            (s.writeUnit table t row (da / 64 * 64)).writeUnit table t row ((da + t.rowBytes - 1) / 64 * 64)
          else s
        | none => s
      .next (s.mSerai serai fun u => { u with overlay := u.overlay.erase o })
  | _, _, _ => .next s

/-! ### Visibility (R274, R285, R288, R313) -/

/-- F32 of an exact number m · 2^e (R306). -/
def f32Of (v : Int) (e : Int) : Nat := ((ffmt 0).round rne true (decide (v < 0)) v.natAbs e).1

/-- The scale exponent of an element of a row (R307). -/
def expOf (sc : List Scale) (i : Nat) : Int := (sc.getD (i / 16) {}).e

/-- The block exponent that stores an element (R307). -/
def storeExp (fmt : Nat) (sc : List Scale) (i : Nat) : Int := if fmt = 2 then expOf sc i + 9 else if fmt = 1 then 0 else expOf sc i

/-- The Update Unit's arithmetic in F32 (R306). -/
structure Rule where
  /-- LR -/
  lr : Nat
  /-- BETA1 -/
  b1 : Nat
  /-- BETA2 -/
  b2 : Nat
  /-- EPS -/
  eps : Nat
  deriving DecidableEq, Repr

/-- a + b. -/
def f32Add (a b : Nat) : Nat := (fadd 0 rne a b).1
/-- a − b. -/
def f32Sub (a b : Nat) : Nat := (fsub 0 rne a b).1
/-- a × b. -/
def f32Mul (a b : Nat) : Nat := (fmul 0 rne a b).1
/-- a / b. -/
def f32Div (a b : Nat) : Nat := (fdiv 0 rne a b).1
/-- sqrt(a). -/
def f32Sqrt (a : Nat) : Nat := (fsqrt 0 rne a).1
/-- 1 in F32. -/
def f32One : Nat := 0x3F800000
/-- An F16 pattern widened to F32. -/
def f32Wide (v : Nat) : Nat := (convF 1 v 0 rne 0).1

/-- Σ g_i × g_i, in element order (R306). -/
def sumSq (g : List Nat) : Nat := g.foldl (fun a x => f32Add a (f32Mul x x)) 0

/-- The rules of R305 on F32 patterns: new elements, new m_i, new a or v. `m` are the old m_i, `a` the old a or v. -/
def ruleEval (r : Rule) (kind : Nat) (w g m : List Nat) (a : Nat) : List Nat × List Nat × List Nat :=
  let n := f32Of w.length 0
  let minus (u : List Nat) : List Nat := (w.zip u).map fun p => f32Sub p.1 p.2
  match kind with
  | 0 => (minus (g.map (f32Mul r.lr)), [], [])
  | 1 =>
    let m' := (m.zip g).map fun p => f32Add (f32Mul r.b1 p.1) p.2
    (minus (m'.map (f32Mul r.lr)), m', [])
  | 2 =>
    let a' := f32Add a (f32Div (sumSq g) n)
    let d := f32Add (f32Sqrt a') r.eps
    (minus (g.map fun x => f32Div (f32Mul r.lr x) d), [], [a'])
  | _ =>
    let m' := (m.zip g).map fun p => f32Add (f32Mul r.b1 p.1) (f32Mul (f32Sub f32One r.b1) p.2)
    let v' := f32Add (f32Mul r.b2 a) (f32Div (f32Mul (f32Sub f32One r.b2) (sumSq g)) n)
    let d := f32Add (f32Sqrt v') r.eps
    (minus (m'.map fun x => f32Div (f32Mul r.lr x) d), m', [v'])

/-- The rounding of one stored value of an apply (R308). -/
def applyRnd (o : Optimiser) (tid version plane pos : Nat) : Rnd :=
  { mode := o.rmode, draw := roundBits (gen o.key tid version (elementOf plane pos)) }

/-- Values stored by an apply in a format: patterns and which saturated (R307). -/
def storeAll (fmt : Nat) (sc : List Scale) (rnd : Nat → Rnd) (vs : List Nat) : List (Nat × Bool) :=
  (List.range vs.length).map fun i =>
    let t := convF 0 (vs.getD i 0) fmt (rnd i) (storeExp fmt sc i)
    (t.1, t.2 / 32 % 2 == 1)

/-- What an apply computes for a row: its new bytes, its new state, and how many values were stored and saturated
(R305 to R308). -/
def applyEval (t : Table) (tid row version : Nat) (o : Optimiser) (sc : List Scale) (data st : List Byte) (acc : List Int) :
    List Byte × List Byte × Nat × Nat :=
  let n := t.elems
  let w := (List.range n).map fun i => f32Wide (decodeElem t.format (elemAt t.format data i) (sc.getD (i / 16) {})).1
  let g := (List.range n).map fun i => f32Of (acc.getD i 0) (-24)
  let m := if o.kind = 1 ∨ o.kind = 3 then (List.range n).map fun i => f32Wide (fld st (2 * i) 2) else []
  let a := if o.kind = 2 then f32Wide (fld st 0 2) else if o.kind = 3 then f32Wide (fld st (2 * n) 2) else 0
  let r := ruleEval { lr := o.lr.toNat, b1 := o.beta1.toNat, b2 := o.beta2.toNat, eps := o.eps.toNat } o.kind w g m a
  let vw := storeAll t.format sc (fun i => applyRnd o tid version 0 (row * n + i)) r.1
  let vm := storeAll 1 [] (fun i => applyRnd o tid version 1 (row * n + i)) r.2.1
  let va := storeAll 1 [] (fun _ => applyRnd o tid version 2 (row * n)) r.2.2
  let all := vw ++ vm ++ va
  let st := (overlay st 0 (packElems 1 (vm.map (·.1))))
  let st := if va.isEmpty then st else overlay st (if o.kind = 2 then 0 else 2 * n) (packElems 1 (va.map (·.1)))
  (packElems t.format (vw.map (·.1)), if o.kind = 0 then [] else st, all.length, (all.filter (·.2)).length)

/-- A change to a row drops it from the Hold of its home (R248). -/
def State.dropHold (s : State) (q tid row : Nat) : State :=
  s.mSerai q fun u => { u with hold := u.hold.filter fun h => h.key != { table := tid, row := some row } }

/-- Write an apply's result: into the row's newest VISIBLE entry, else to its tier (R280, R296). -/
def State.applyWrite (s : State) (tid : Nat) (t : Table) (row : Nat) (data st : List Byte) : State :=
  let q := t.home row
  let s := s.dropHold q tid row
  match s.visibleOf t tid row with
  | some o => s.mSerai q fun u => { u with overlay := u.overlay.map fun x =>
      if x == o then { x with data := data, state := if st.isEmpty then x.state else st, stPoison := false } else x }
  | none => s.applyRow tid t row data st false false

/-- Apply one entry of an apply set (R296 to R308, R316). -/
def State.applyOne (s : State) (q : Nat) (m : Merge) : State :=
  let s := s.mSerai q fun u => { u with applySet := u.applySet.erase m }
  match s.table? m.table with
  | none => s
  | some t =>
    match t.opt with
    | none => s
    | some o =>
      let si := t.shardOf m.row
      if t.noPlace m.row then s.mSeraiCnt q fun k => { k with flashDiscards := k.flashDiscards + 1 }
      else if s.rowPoisoned m.table t m.row || (o.kind != 0 && s.statePoisoned m.table t m.row) then
        (s.mSeraiCnt q fun k => { k with poisonDrops := k.poisonDrops + 1 }).raise
          { code := 0x335, fn := some t.fn, detail := detTable m.table q 0xFF si m.row t.version }
      else
        let st := if o.kind = 0 then [] else s.stateNow m.table t m.row
        let r := applyEval t m.table m.row m.version o (s.rowScales m.table t m.row) (s.rowNow m.table t m.row) st m.acc
        let s := s.applyWrite m.table t m.row r.1 r.2.1
        let s := s.addClip m.table r.2.2.1 r.2.2.2
        let s := s.mSeraiCnt q fun k => { k with applied := k.applied + 1 }
        s.mTable m.table fun t => t.mShard si fun h => { h with applied := h.applied + 1 }

/-- The oldest apply of a row that waits on a Serai. -/
def State.applyOf (s : State) (q tid row : Nat) : Option Merge := (s.serai q).applySet.find? fun m => m.table == tid && m.row == row

/-- Every waiting apply of a row is done (R297). -/
def State.applyPending (s : State) (q tid row : Nat) : Nat → State
  | 0 => s
  | n + 1 => match s.applyOf q tid row with
    | none => s
    | some m => (s.applyOne q m).applyPending q tid row n

/-- SERAI_APPLY (R296, R299): a row of the oldest apply set is applied. -/
def execSeraiApply (serai table row : Nat) (s : State) : Host.Outcome State Fault Refusal :=
  match s.live, s.table? table, s.applyOf serai table row with
  | true, some t, some m =>
    if s.handingOver table t row || (s.serai serai).applySet.any (fun x => decide (x.tick < m.tick)) then .next s
    else .next (s.applyOne serai m)
  | _, _, _ => .next s

/-- The watermark of a recalibration moves in the visibility cycle (R313). -/
def TableRt.setMark (r : TableRt) (si : Nat) : Option Nat → TableRt
  | none => r
  | some m => { r with recal := r.recal.map fun x => { x with marks := setNth x.marks si m } }

/-- The visibility cycle of one committed entry; answers whether the row became visible (R285, R288, R313). -/
def State.showEntry (s : State) (o : Overlay) : State × Bool :=
  match s.table? o.table with
  | none => (s, false)
  | some t =>
    let q := t.home o.row
    let s := s.applyPending q o.table o.row ((s.serai q).applySet.length)
    if t.noPlace o.row then (s.mSeraiCnt q fun k => { k with flashDiscards := k.flashDiscards + 1 }, false)
    else
      let s := s.dropHold q o.table o.row
      let s := if o.discardGrad then
          s.mSerai q fun u => { u with merges := u.merges.filter fun m => !(m.cid.isNone && m.table == o.table && m.row == o.row) }
        else s
      let o' : Overlay := { o with st := .visible, state := if o.resetState then List.replicate t.stride 0 else o.state }
      ((s.putOverlay q o').mRt o.table fun r => r.setMark (t.shardOf o.row) o.mark, true)

/-- Make entries visible in order; answers the tables of which a row became visible. -/
def State.showAll (s : State) : List Overlay → State × List Nat
  | [] => (s, [])
  | o :: rest =>
    let a := s.showEntry o
    let b := a.1.showAll rest
    (b.1, if a.2 then o.table :: b.2 else b.2)

/-- The version of tables steps by one (R274, R275). -/
def State.stepVersions (s : State) (tids : List Nat) : State :=
  tids.dedup.foldl (fun s t => s.mTable t fun x => { x with version := x.version + 1 }) s

/-- The entries of every Serai that meet a condition, oldest first on each. -/
def State.overlayWhere (s : State) (p : Overlay → Bool) : List Overlay := s.serais.units.flatMap fun u => u.2.overlay.filter p

/-- Every Serai without the entries that meet a condition. -/
def State.dropOverlay (s : State) (p : Overlay → Bool) : State :=
  s.mSerais fun u => { u with units := u.units.map fun x => (x.1, { x.2 with overlay := x.2.overlay.filter fun o => !p o }) }

/-- A command's staged rows at its commit: visible at once, or PENDING on a TICK_ALIGNED table (R285). -/
def State.commitRows (s : State) (cid : Nat) : State :=
  let mine (o : Overlay) : Bool := o.cid == cid && o.st == .staged
  let isAligned (o : Overlay) : Bool := match s.table? o.table with | some t => t.aligned | none => false
  let es := s.overlayWhere fun o => mine o && !isAligned o
  let s := s.dropOverlay fun o => mine o && !isAligned o
  let a := s.showAll es
  let wait (o : Overlay) : Overlay := if mine o then { o with st := .pending } else o
  (a.1.stepVersions a.2).mSerais fun u => { u with units := u.units.map fun x => (x.1, { x.2 with overlay := x.2.overlay.map wait }) }

/-! ### Replace Rows and Read Rows (R282 to R289) -/

/-- ROW_COUNT. -/
def rwCount (c : Cmd) : Nat := c.arg 36 4

/-- The ranges of Replace Rows and of Read Rows, whose destinations are outputs (R282). -/
def State.rowsRanges (s : State) (c : Cmd) (out : Bool) : List Range :=
  let n := rwCount c % 2 ^ 21
  let t := s.fnTable c (c.arg 32 2)
  [(c.arg 40 8, 8 * n, false), (c.arg 48 8, ((t.map (·.rowBytes)).getD 0) * n, out)] ++
  (if c.arg 56 8 = 0 then [] else [(c.arg 56 8, ((t.map (·.stride)).getD 0) * n, out)])

/-- The row indices of a command (R282). -/
def State.rowList (s : State) (cid : Nat) (c : Cmd) : List Nat :=
  let bs := s.cmdRead cid c (c.arg 40 8) (8 * rwCount c)
  (List.range (rwCount c)).map fun i => fld bs (8 * i) 8 % 2 ^ 40

/-- The checks of R283: the table, when they pass. -/
def State.rowsOk (s : State) (cid : Nat) (c : Cmd) (read : Bool) : Option Table :=
  match s.usable c (c.arg 32 2) with
  | none => none
  | some t =>
    let n := rwCount c
    let fl := c.arg 34 1
    let spans (da len : Nat) : Bool := (s.pieces c.fn c.tset da len).isSome
    if zeroExcept c.bytes [(32, 3), (36, 28)] && decide (1 ≤ n ∧ n ≤ 1048576 ∧ fl < (if read then 1 else 4)) &&
       spans (c.arg 40 8) (8 * n) && (s.rowList cid c).all (fun r => decide (r ≤ t.rowsM1)) &&
       (c.arg 56 8 == 0 || t.stride != 0) && !(bit fl 1 && c.arg 56 8 != 0) && spans (c.arg 48 8) (t.rowBytes * n) &&
       (c.arg 56 8 == 0 || spans (c.arg 56 8) (t.stride * n)) then some t
    else none

/-- The check of R283 fails: the command is killed and its context torn down. -/
def State.rowsBad (s : State) (c : Cmd) : State := s.tearCmd c { code := 0x342, detail := s.detTid (c.arg 32 2) }

/-- Each row of a list with its highest position (R284). -/
def lastPlaces : List Nat → Nat → List (Nat × Nat)
  | [], _ => []
  | r :: rest, i => if rest.contains r then lastPlaces rest (i + 1) else (r, i) :: lastPlaces rest (i + 1)

/-- REPLACE_ROWS (R283 to R285): the rows are staged. -/
def execReplaceRows (cid : Nat) (s : State) : Host.Outcome State Fault Refusal :=
  match s.ready? cid 0x0A .admitted with
  | none => .next s
  | some c =>
    if !s.orderOk cid c then .next s
    else match s.rowsOk cid c false with
      | none => .next (s.rowsBad c)
      | some t =>
        let one (p : Nat × Nat) : Overlay :=
          let da := c.arg 48 8 + p.2 * t.rowBytes
          let sa := c.arg 56 8 + p.2 * t.stride
          { table := c.arg 32 2, row := p.1, data := s.cmdRead cid c da t.rowBytes, poison := s.cmdPoison cid c da t.rowBytes
            state := if c.arg 56 8 = 0 then [] else s.cmdRead cid c sa t.stride
            stPoison := c.arg 56 8 != 0 && s.cmdPoison cid c sa t.stride
            cid := cid, discardGrad := bit (c.arg 34 1) 0, resetState := bit (c.arg 34 1) 1 }
        let es := (lastPlaces (s.rowList cid c) 0).map one
        let s := s.mCmd cid fun c => { c with st := .running }
        .next ((es.foldl (fun s o => s.stageRow (t.home o.row) o) s).stagedAll cid)

/-- READ_ROWS (R283, R289): the rows and their state are written to the destination; it waits for applies, a handover and other
units' provisional copies (R297, R321, R543). -/
def execReadRows (cid : Nat) (s : State) : Host.Outcome State Fault Refusal :=
  match s.ready? cid 0x0B .admitted with
  | none => .next s
  | some c =>
    if !s.orderOk cid c then .next s
    else match s.rowsOk cid c true with
      | none => .next (s.rowsBad c)
      | some t =>
        let tid := c.arg 32 2
        let withSt := c.arg 56 8 != 0
        let rows := s.rowList cid c
        let n := rows.length
        if rows.any (fun r => s.rowBusy tid t r || s.handingOver tid t r) || s.cmdConflict cid c (c.arg 48 8) (t.rowBytes * n) ||
           (withSt && s.cmdConflict cid c (c.arg 56 8) (t.stride * n)) then .next s
        else match rows.find? fun r => s.rowPoisoned tid t r || (withSt && s.statePoisoned tid t r) with
          | some r => .next (s.tearCmd c { code := 0x334, detail := detTable tid (t.home r) 0xFF (t.shardOf r) r t.version })
          | none =>
            let s := s.cmdWrite cid c (c.arg 48 8) (rows.flatMap fun r => s.rowNow tid t r)
            let s := if withSt then s.cmdWrite cid c (c.arg 56 8) (rows.flatMap fun r => s.stateNow tid t r) else s
            .next (s.mCmd cid fun c => { c with st := .finished })

/-! ### Update (R290 to R296) -/

/-- UPDATE (R290 to R293): the Tally checks the command and sends its references; one without references is finished. -/
def execUpdate (cid : Nat) (s : State) : Host.Outcome State Fault Refusal :=
  match s.ready? cid 0x09 .admitted with
  | none => .next s
  | some c =>
    if !s.orderOk cid c then .next s
    else match s.lookupFault cid c true with
      | some r => .next (s.tearCmd c r)
      | none =>
        let ds := s.bagDescs cid c
        let s := s.mCmd cid fun c => { c with st := .running }
        let s := (List.range ds.length).foldl (fun s b => s.sendBag cid c true b (ds.getD b ⟨0, 0, 0, 0, 0⟩)) s
        .next (s.bagDone cid 0)

/-- A pending entry of a command that commits joins the row's merge entry (R294). -/
def State.joinMerge (s : State) (cid : Nat) (m : Merge) : State :=
  match s.table? m.table with
  | none => s
  | some t =>
    let q := t.home m.row
    let isIt (x : Merge) : Bool := x.cid.isNone && x.table == m.table && x.row == m.row
    match (s.serai q).merges.find? isIt with
    | none => (s.mSerai q fun u => { u with merges := u.merges ++ [{ m with cid := none, sats := 0 }] }).addClip m.table m.sats m.sats
    | some x =>
      let sum := mergeAdd x.acc m.acc
      let s := s.mSerai q fun u => { u with merges := u.merges.map fun y => if isIt y then { y with acc := sum.1 } else y }
      let s := s.mSeraiCnt q fun n => { n with mergeSat := n.mergeSat + BitVec.ofNat 32 sum.2 }
      let s := s.mCmd cid fun c => { c with flags := c.flags ||| BitVec.ofNat 7 (flIf (decide (0 < sum.2)) flCL) }
      s.addClip m.table (m.sats + sum.2) (m.sats + sum.2)

/-- The pending entries of a command at its commit (R294). -/
def State.commitMerges (s : State) (cid : Nat) : State :=
  let ms := s.serais.units.flatMap fun u => u.2.merges.filter (·.cid == some cid)
  let s := s.mSerais fun u => { u with units := u.units.map fun x => (x.1, { x.2 with merges := x.2.merges.filter (·.cid != some cid) }) }
  ms.foldl (State.joinMerge · cid) s

/-! ### Register Optimiser (R301 to R304) -/

/-- Reserved operand bytes of Register Optimiser are 0 (R646). -/
def optFmt (c : Cmd) : Bool := zeroExcept c.bytes [(32, 2), (40, 8)]

/-- An F32 pattern is finite. -/
def f32Finite (v : Nat) : Bool := !nonfinite 0 v

/-- A finite F32 pattern lies in [0, 1). -/
def f32Unit (v : Nat) : Bool := v == 0x80000000 || decide (v < f32One)

/-- The fields of a record obey R302 and R304. -/
def optRecOk (d : List Byte) : Bool :=
  decide (fld d 0 1 < 4 ∧ fld d 1 1 < 3) && zeroIn d 2 2 && zeroIn d 20 4 && zeroIn d 40 24 &&
  f32Finite (fld d 4 4) && f32Finite (fld d 8 4) && f32Finite (fld d 12 4) && f32Finite (fld d 16 4) &&
  f32Unit (fld d 8 4) && f32Unit (fld d 12 4) && decide (0 < fld d 16 4 ∧ fld d 16 4 < 2 ^ 31) &&
  (fld d 0 1 != 0 || fld d 32 8 == 0)

/-- Every scale entry has M = 1 and S = 0 (R304, R312). -/
def plainScales (l : List Scale) : Bool := l.all fun x => x.m == 1 && x.s == 0

/-- The extents of optimiser state (R303). -/
def Table.stateExtents (t : Table) (stride : Nat) (sts : List (Nat × Nat)) : List Extent :=
  (List.range t.shards.length).flatMap fun i =>
    let h := t.shard i
    [⟨(sts.getD i (0, 0)).1, h.stackRows * stride, some .stack, some h.home⟩, ⟨(sts.getD i (0, 0)).2, h.remoteRows * stride, none, none⟩]

/-- What Register Optimiser finds: a page that does not translate, or a fault code, or the record (R304). -/
def State.checkOpt (s : State) (c : Cmd) (x : Ctx) : Except (Nat × Nat) (Except Nat Optimiser) :=
  match s.ctxRead x (c.arg 40 8) 64, s.fnTable c (c.arg 32 2) with
  | .error e, _ => .error e
  | .ok _, none => .ok (.error 0x343)
  | .ok (d, bad), some t =>
    let kind := fld d 0 1
    let n := t.shards.length
    let stride := strideOf kind t.elems
    if bad || !optRecOk d || (kind != 0 && t.shards.any fun h => decide (h.stackRows + h.remoteRows < h.rows)) ||
       (t.format != 1 && !plainScales (s.scalesAt (t.via t.scaleHeld) t.scaleAddr)) ||
       (match t.opt with | some o => o.kind != kind | none => false) then .ok (.error 0x343)
    else match s.ctxRead x (fld d 32 8) (if kind = 0 then 0 else 16 * n) with
      | .error e => .error e
      | .ok (l, bad) =>
        let sts := (List.range n).map fun i => (fld l (16 * i) 8, fld l (16 * i + 8) 8)
        if bad then .ok (.error 0x343)
        else match s.holdExtents x (if kind = 0 then [] else t.stateExtents stride sts) 0x343 with
          | .error e => .ok (.error e)
          | .ok set => .ok (.ok {
              kind := kind, rmode := fld d 1 1, lr := BitVec.ofNat 32 (fld d 4 4), beta1 := BitVec.ofNat 32 (fld d 8 4)
              beta2 := BitVec.ofNat 32 (fld d 12 4), eps := BitVec.ofNat 32 (fld d 16 4), key := BitVec.ofNat 64 (fld d 24 8)
              states := if kind = 0 then [] else sts, held := set })

/-- REGISTER_OPTIMISER (R301, R304). -/
def execRegisterOptimiser (cid : Nat) (s : State) : Host.Outcome State Fault Refusal :=
  match s.ctl? cid 0x22 with
  | none => .next s
  | some (c, x) =>
    match s.checkOpt c x with
    | .error e => .next (s.refuseTr cid c e)
    | .ok (.error code) =>
      if code = 0x715 then .next (s.refuseTr cid c (0x715, c.arg 40 8))
      else .next (s.refuse cid c { code := code, detail := s.detTid (c.arg 32 2) })
    | .ok (.ok o) => .next ((s.mReg (c.arg 32 2) fun t => { t with optDue := some o }).commitCtl cid c)

/-! ### Recalibration (R310 to R315) -/

/-- Operand bytes of Recalibrate Rows outside its fields are 0 and COUNT lies in range (R646). -/
def recalFmt (c : Cmd) : Bool :=
  zeroExcept c.bytes [(32, 4), (40, 12), (56, 8)] && decide (1 ≤ c.arg 48 4 ∧ c.arg 48 4 ≤ 1048576 ∧ c.arg 40 8 < 2 ^ 40)

/-- The recalibration that a command may run under R312: the one open, or a new one. -/
def State.recalOk (s : State) (c : Cmd) (x : Ctx) (t : Table) : Option Recal :=
  let rt := s.rt (c.arg 32 2)
  let si := c.arg 34 2
  let sh := t.shard si
  let first := c.arg 40 8
  match s.holdExtents x [⟨c.arg 56 8, t.elems / 16 * 8, some .stack, none⟩] 0x345 with
  | .error _ => none
  | .ok set =>
    let r := rt.recal.getD { newScale := c.arg 56 8, marks := List.replicate t.shards.length 0, held := set }
    if t.format != 1 && decide (si < t.shards.length) && first == nth r.marks si && decide (first + c.arg 48 4 ≤ sh.rows) &&
       r.newScale == c.arg 56 8 && plainScales (s.scalesAt (t.via r.held) r.newScale) &&
       decide (sh.rows ≤ sh.stackRows + sh.remoteRows) && rt.mig.isNone then some r
    else none

/-- Re-encode a row's elements under another extent: new bytes and how many saturated (R313). -/
def recode (t : Table) (old new : List Scale) (data : List Byte) : List Byte × Nat :=
  let es := (List.range t.elems).map fun i =>
    let v := (decodeElem t.format (elemAt t.format data i) (old.getD (i / 16) {})).1
    convF 1 v t.format rne (storeExp t.format new i)
  (packElems t.format (es.map (·.1)), (es.filter fun e => e.2 / 32 % 2 == 1).length)

/-- RECALIBRATE_ROWS (R312, R313): the rows are decoded, converted and staged; it waits for applies of its rows (R297). -/
def execRecalibrateRows (cid : Nat) (s : State) : Host.Outcome State Fault Refusal :=
  match s.ready? cid 0x12 .admitted with
  | none => .next s
  | some c =>
    let tid := c.arg 32 2
    if !s.orderOk cid c then .next s
    else match s.usable c tid, s.ctx? c.ctx with
    | some t, some x =>
      match s.recalOk c x t with
      | none => .next (s.refuseEngine cid c tid 0x345)
      | some r =>
        let si := c.arg 34 2
        let rows := (List.range (c.arg 48 4)).map fun i => t.rowOf si (c.arg 40 8 + i)
        if rows.any fun w => s.rowBusy tid t w then .next s
        else
          let fresh := s.scalesAt (t.via r.held) r.newScale
          let s := s.mRt tid fun y => { y with recal := some { r with cids := r.cids ++ [cid] } }
          let s := s.mCmd cid fun c => { c with st := .running }
          let s := rows.foldl (fun s w =>
            let e := recode t (s.rowScales tid t w) fresh (s.rowNow tid t w)
            let o : Overlay := { table := tid, row := w, data := e.1, cid := cid, poison := s.rowPoisoned tid t w
                                 mark := some (c.arg 40 8 + c.arg 48 4) }
            ((s.addCount tid cid 4 t.elems).addCount tid cid 5 e.2).stageRow (t.home w) o) s
          .next (s.stagedAll cid)
    | _, _ => .next (s.refuseEngine cid c tid 0x345)

/-- At a boundary a recalibration that covers every shard ends: the new extent is the table's (R315). -/
def State.recalSwitch (s : State) (tid : Nat) : State :=
  match s.table? tid, (s.rt tid).recal with
  | some t, some r =>
    if (List.range t.shards.length).all fun i => nth r.marks i == (t.shard i).rows then
      let d := recode t (s.scalesAt (t.via t.scaleHeld) t.scaleAddr) (s.scalesAt (t.via r.held) r.newScale) t.defaultRow
      (s.mTable tid fun t => { t with scaleAddr := r.newScale, scaleHeld := r.held, defaultRow := d.1 }).mRt tid
        fun y => { y with recal := none }
    else s
  | _, _ => s

/-! ### Load counts (R316, R317) -/

/-- Operand bytes of Read Load Counts outside its fields are 0 (R646). -/
def loadFmt (c : Cmd) : Bool := zeroExcept c.bytes [(32, 3), (40, 8)] && decide (c.arg 34 1 < 2)

/-- The range that Read Load Counts writes (R317). -/
def State.loadRanges (s : State) (c : Cmd) : List Range :=
  [(c.arg 40 8, 32 * ((s.fnTable c (c.arg 32 2)).map (·.shards.length)).getD 0, true)]

/-- READ_LOAD_COUNTS (R317): one record per shard; a table that is not the function's has none (assumption 30). -/
def execReadLoadCounts (cid : Nat) (s : State) : Host.Outcome State Fault Refusal :=
  match s.ready? cid 0x10 .admitted with
  | none => .next s
  | some c =>
    if !s.orderOk cid c then .next s
    else match s.usable c (c.arg 32 2) with
      | none => .next (s.mCmd cid fun c => { c with st := .finished })
      | some t =>
        if s.cmdConflict cid c (c.arg 40 8) (32 * t.shards.length) then .next s
        else
          let ticks := (s.rt (c.arg 32 2)).loadTicks
          let bs := t.shards.flatMap fun h => toLe 8 h.refs.toNat ++ toLe 8 h.fetches.toNat ++ toLe 8 h.applied.toNat ++ toLe 8 ticks.toNat
          .next ((s.cmdWrite cid c (c.arg 40 8) bs).mCmd cid fun c => { c with st := .finished })

/-- The counts restart at the commit of a Read Load Counts with RESET (R317). -/
def State.commitLoad (s : State) (c : Cmd) : State :=
  if c.opcode = 0x10 && bit (c.arg 34 1) 0 && (s.usable c (c.arg 32 2)).isSome then
    (s.mTable (c.arg 32 2) fun t => { t with shards := t.shards.map fun h => { h with refs := 0, fetches := 0, applied := 0 } }).mRt
      (c.arg 32 2) fun r => { r with loadTicks := 0 }
  else s

/-! ### Shard migration (R318 to R323) -/

/-- Operand bytes of Migrate Shard outside its fields are 0 (R646). -/
def migFmt (c : Cmd) : Bool := zeroExcept c.bytes [(32, 5), (40, 16)] && decide (c.arg 36 1 < 8)

/-- The migration that a command may run under R319. -/
def State.migOk (s : State) (cid : Nat) (c : Cmd) (x : Ctx) (t : Table) : Option Mig :=
  let si := c.arg 34 2
  let sh := t.shard si
  let home := c.arg 36 1
  let rt := s.rt (c.arg 32 2)
  if t.mode == 2 || decide (t.shards.length ≤ si) || home == sh.home || rt.mig.isSome || rt.recal.isSome ||
     (t.stride == 0 && c.arg 48 8 != 0) then none
  else match s.holdExtents x [⟨c.arg 40 8, sh.stackRows * t.rowBytes, some .stack, some home⟩,
      ⟨c.arg 48 8, sh.stackRows * t.stride, some .stack, some home⟩] 0x344 with
    | .error _ => none
    | .ok set => some { cid := cid, shard := si, newHome := home, newStack := c.arg 40 8, newState := c.arg 48 8, oldHome := sh.home, held := set }

/-- Copy a shard's stack row and its state to the new extents (R320). -/
def State.migRow (s : State) (t : Table) (m : Mig) (l : Nat) : State :=
  let sh := t.shard m.shard
  let new := { t with held := m.held }
  let a := sh.stackBase + l * t.rowBytes
  let b := sh.stateStack + l * t.stride
  let s := s.tblWriteP new (m.newStack + l * t.rowBytes) (s.tblRead (t.viaRow sh l) a t.rowBytes) (s.tblPoison (t.viaRow sh l) a t.rowBytes)
  if t.stride = 0 then s
  else s.tblWriteP new (m.newState + l * t.stride) (s.tblRead (t.viaState sh l) b t.stride) (s.tblPoison (t.viaState sh l) b t.stride)

/-- MIGRATE_SHARD (R319, R320): every row is copied; later changes go to both copies. -/
def execMigrateShard (cid : Nat) (s : State) : Host.Outcome State Fault Refusal :=
  match s.ready? cid 0x13 .admitted with
  | none => .next s
  | some c =>
    let tid := c.arg 32 2
    if !s.orderOk cid c then .next s
    else match s.usable c tid, s.ctx? c.ctx with
    | some t, some x =>
      match s.migOk cid c x t with
      | none => .next (s.refuseEngine cid c tid 0x344)
      | some m =>
        let s := (List.range (t.shard m.shard).stackRows).foldl (fun s l => s.migRow t m l) s
        .next ((s.mRt tid fun r => { r with mig := some m }).mCmd cid fun c => { c with st := .finished })
    | _, _ => .next (s.refuseEngine cid c tid 0x344)

/-- Merge entries of one shard of a table. -/
def Merge.ofShard (tid : Nat) (t : Table) (si : Nat) (m : Merge) : Bool := m.cid.isNone && m.table == tid && t.shardOf m.row == si

/-- At a boundary a committed migration switches the shard: its merge entries and its PENDING and VISIBLE overlay entries go to the
new home (R321). -/
def State.migSwitch (s : State) (tid : Nat) : State :=
  match s.table? tid, (s.rt tid).mig with
  | some t, some m =>
    if !m.committed || m.handing then s
    else
      let u := s.serai m.oldHome
      let mineO (o : Overlay) : Bool := o.table == tid && t.shardOf o.row == m.shard && o.st != .staged
      let mineM := Merge.ofShard tid t m.shard
      let s := s.mSerai m.oldHome fun u => { u with
        overlay := u.overlay.filter fun o => !mineO o
        merges := u.merges.filter fun x => !mineM x
        applySet := u.applySet.filter fun x => !mineM x }
      let s := s.mSerai m.newHome fun v => { v with
        merges := v.merges ++ u.merges.filter mineM, applySet := v.applySet ++ u.applySet.filter mineM }
      let s := (u.overlay.filter mineO).foldl (fun s o => s.putOverlay m.newHome o) s
      let s := s.mTable tid fun t => t.mShard m.shard fun h => { h with
        home := m.newHome, stackBase := m.newStack, stateStack := m.newState, moved := m.held, stHeld := m.held }
      s.mRt tid fun r => { r with mig := some { m with handing := true } }
  | _, _ => s

/-- MIGRATION_HANDOVER_COMPLETE (R321, R322). -/
def execMigrationHandoverComplete (table : Nat) (s : State) : Host.Outcome State Fault Refusal :=
  match s.live, (s.rt table).mig with
  | true, some m =>
    if m.handing then
      .next ((s.mRt table fun r => { r with mig := none }).mSeraiCnt m.oldHome fun k => { k with migReleased := k.migReleased + 1 })
    else .next s
  | _, _ => .next s

/-! ### Commit and boundary -/

/-- What a command's commit does to the tables: its counts, gradients, rows, refresh, migration, recalibration and load counts
(R207, R217, R285, R294, R312, R317, R321). -/
def State.commitTables (s : State) (cid : Nat) (c : Cmd) : State :=
  let s := s.mTally fun y => { y with
    rt := y.rt.map fun p => (p.1, { p.2.commitCounts cid with
      mig := p.2.mig.map fun m => if m.cid == cid then { m with committed := true } else m
      recal := p.2.recal.map fun r => { r with cids := r.cids.filter (· != cid) }
      moves := p.2.moves.map fun m => if m.cid == cid then { m with committed := true } else m })
    tables := y.tables.map fun p => (p.1, { p.2 with refresh := p.2.refresh.map fun r => if r.cid == cid then { r with committed := true } else r }) }
  ((s.commitMerges cid).commitRows cid).commitLoad c

/-- The merge entries of the tick become the apply sets of their tables (R296). -/
def State.formApply (s : State) : State × List Nat :=
  let ver (m : Merge) : Nat := ((s.table? m.table).map fun t => t.version + 1).getD 0
  let tids := s.serais.units.flatMap fun u => (u.2.merges.filter (·.cid.isNone)).map (·.table)
  (s.mSerais fun u => { u with units := u.units.map fun x => (x.1, { x.2 with
    applySet := x.2.applySet ++ (x.2.merges.filter (·.cid.isNone)).map fun m => { m with tick := s.tck.num.toNat, version := ver m }
    merges := x.2.merges.filter (·.cid.isSome) }) }, tids)

/-- The Serais' part of a boundary: PENDING rows become VISIBLE, apply sets form, versions step, recalibrations and migrations
switch, the Holds empty, load counts and access logs step (R245, R275, R285, R296, R315, R317, R321, R325). -/
def State.seraisBoundary (s : State) : State :=
  let isDue (o : Overlay) : Bool := o.st == .pending
  let es := s.overlayWhere isDue
  let a := (s.dropOverlay isDue).showAll es
  let b := a.1.formApply
  let s := b.1.stepVersions (a.2 ++ b.2)
  let tids := s.tally.tables.map (·.1)
  let s := tids.foldl (fun s t => (s.recalSwitch t).migSwitch t) s
  let s := s.mSerais fun u => { u with units := u.units.map fun x => (x.1, { x.2 with hold := [], acl := x.2.acl.boundary }) }
  s.mTally fun y => { y with
    tables := y.tables.map fun p => (p.1, { p.2 with bver := p.2.version })
    rt := tids.foldl (fun m t => mapMod m t {} fun r => { r with loadTicks := r.loadTicks + 1 }) y.rt }

end Sys2Proof.Machine
end

