-- ==== Sys2Proof/Machine/Stoker.lean ====
section
/-!
DEFINITION. The Stoker's rings and admission (R624 to R651, R691, R692): doorbells, fetch and sequence tags, delegated bodies, the
checks of R646, pre-translation and the alias check of ring manifests.
-/
namespace Sys2Proof.Machine

/-! ### The ring registers -/

/-- The BAR2 page of a function answers: the function exists, and the personality is Native (R844, R904, R911). -/
def State.pageOn (s : State) (fn : Nat) : Bool := s.live && !s.img.bx3 && decide (fn ≤ s.img.totalVfs)

/-- DOORBELL (R627, R631): a write of STK_DOORBELL in the function's page. -/
def execDoorbell (fn v : Nat) (s : State) : Host.Outcome State Fault Refusal :=
  let f := s.fn fn
  let v := BitVec.ofNat 32 v
  let ahead := decide ((v - f.prod).toNat < 2 ^ 31)
  if !s.pageOn fn || !f.en then .next s
  else if ahead && decide ((v - f.cons).toNat ≤ 2 ^ f.ringLog2) then
    .next (s.mFn fn fun f => { f with prod := v, pend := true, stopped := false })
  else if !ahead then .next (s.mFn fn fun f => { f with pend := true, stopped := false })
  else .next ((s.mFn fn fun f => { f with dbErr := true }).raise { code := 0x106, fn := some fn })

/-- A ring disabled: CONS, PROD, STK_RING_STATUS and what the Stoker read of it go (R690). -/
def Fn.disable (f : Fn) : Fn :=
  { f with en := false, cons := 0, prod := 0, pend := false, tagWait := false, stopped := false, dbErr := false, recheck := false
           held := none, body := [] }

/-- RING_ENABLE (R626, R692, R954): a write of STK_RING_CFG. LOG2_SIZE is ignored while EN is 1; a value outside 8 to 16 makes the
write ignored as a whole. -/
def execRingEnable (fn v : Nat) (s : State) : Host.Outcome State Fault Refusal :=
  let l := bits v 5 1
  if !s.pageOn fn || decide (l < 8 ∨ 16 < l) then .next s
  else .next (s.mFn fn fun f =>
    if f.en then (if bit v 0 then f else f.disable)
    else if bit v 0 then { f with ringLog2 := l, en := true, cons := 0, prod := 0, count := 0 }
    else { f with ringLog2 := l })

/-! ### The header (R637 to R640) -/

/-- ATTR of a manifest. -/
def mfAttr (bs : List Byte) : Nat := fld bs 6 1

/-- Fence-On-Complete is in force; it has no effect on Control and Function manifests (R640). -/
def mfFoc (bs : List Byte) : Bool :=
  (opKind (fld bs 2 1) == some 1 || opKind (fld bs 2 1) == some 3) &&
  (mfAttr bs % 4 == 1 || (mfAttr bs % 4 == 0 && decide (fld bs 3 1 % 8 < 4)))

/-- A manifest as the Stoker takes it (R636, R637). -/
def cmdOf (fn : Nat) (bs : List Byte) (body : Bool) (cmdId : BitVec 32) : Cmd :=
  { fn := fn, ctx := fld bs 4 2 % 4096, opcode := fld bs 2 1, cls := fld bs 3 1 % 8, bytes := bs, cmdId := cmdId
    key := BitVec.ofNat 64 (fld bs 8 8), fromBody := body, preemptible := bit (mfAttr bs) 3, foc := mfFoc bs }

/-- The header rules of check 4 for a manifest of a kind (R637 to R639, R643); `body` is the CONTEXT of the entry of a body manifest. -/
def headOk (bs : List Byte) (kind : Nat) (body : Option Nat) : Bool :=
  let a := mfAttr bs
  let cls := fld bs 3 1
  let ctx := fld bs 4 2
  kind != 0 && decide (cls < 6 ∧ ctx < 4096 ∧ a < 16) && a % 4 != 3 && !bit a 2 && zeroIn bs 16 8 && zeroIn bs 25 7 &&
  (kind == 3 || (zeroIn bs 7 9 && !bit a 3)) &&
  (match kind with | 1 => true | 3 => decide (4 ≤ cls) | _ => cls == 0) &&
  (kind != 4 || ctx == 0) &&
  (match body with | none => true | some x => fld bs 0 2 == 0 && ctx == x)

/-! ### Operand formats of check 4 -/

/-- The operands of an Admit (R99). -/
def admitFmt (c : Cmd) : Bool :=
  zeroExcept c.bytes [(32, 3), (36, 8), (48, 40)] &&
  decide (c.arg 32 2 < 4096 ∧ c.arg 34 1 < 2 ∧ c.arg 36 4 < 2 ^ 23 ∧ c.arg 40 4 < 2 ^ 24)

/-- The operands of an Answer (R103). -/
def answerFmt (c : Cmd) : Bool := zeroExcept c.bytes [(32, 4), (40, 12)] && decide (1 ≤ c.arg 48 4 ∧ c.arg 48 4 ≤ 4096)

/-- The operands of an Invalidate Translations (R597). -/
def invalFmt (c : Cmd) : Bool := zeroExcept c.bytes [(32, 3), (40, 16)] && decide (c.arg 32 2 < 4096 ∧ c.arg 34 1 < 2)

/-- The operands of a Replay Inject (R811). -/
def replayFmt (c : Cmd) : Bool :=
  zeroExcept c.bytes [(32, 9), (44, 24), (72, 16)] && decide (c.arg 32 8 % 64 = 0 ∧ c.arg 40 1 < 4)

/-- The operand rules of check 4, for opcodes whose chapter names no fault of its own for them (R646). -/
def operandsOk (c : Cmd) : Bool :=
  match c.opcode with
  | 0x01 => admitFmt c
  | 0x02 => answerFmt c
  | 0x03 => zeroExcept c.bytes [(32, 4)]
  | 0x04 => zeroExcept c.bytes []
  | 0x05 => zeroExcept c.bytes []
  | 0x0C => decide (c.arg 48 4 % 2 ^ 13 ≤ 4096)
  | 0x0D => sieveFmt c
  | 0x0E => sieveFmt c
  | 0x10 => loadFmt c
  | 0x11 => larderFmt c
  | 0x12 => recalFmt c
  | 0x13 => migFmt c
  | 0x14 => rehomeFmt c
  | 0x20 => zeroExcept c.bytes [(32, 12)]
  | 0x21 => zeroExcept c.bytes [(32, 2)]
  | 0x22 => optFmt c
  | 0x24 => zeroExcept c.bytes [(32, 2)] && decide (c.arg 32 2 < 4096)
  | 0x25 => invalFmt c
  | 0x27 => zeroExcept c.bytes [(32, 2)] && decide (c.arg 32 2 < 512)
  | 0x28 => debugFmt c
  | 0x29 => debugFmt c
  | 0x2A => debugFmt c
  | 0x2B => debugFmt c
  | 0x2C => replayFmt c
  | _ => true

/-! ### Ranges, pre-translation and the alias check (R590, R593, R649, R650) -/

/-- The ranges that an Engine opcode's chapter names, in operand order; `rd` reads bytes by Device Address (the list of a Route
Exchange, R738). -/
def State.engineRanges (s : State) (c : Cmd) (rd : Nat → Nat → List Byte) : List Range :=
  match c.opcode with
  | 0x08 => lookupRanges c false
  | 0x09 => lookupRanges c true
  | 0x0A => s.rowsRanges c false
  | 0x0B => s.rowsRanges c true
  | 0x0C => launchRanges c
  | 0x0D => sieveRanges c
  | 0x0E => sieveRanges c
  | 0x0F => copyRanges c
  | 0x10 => s.loadRanges c
  | 0x11 => [(c.arg 40 8, 16 * (c.arg 48 4 + c.arg 52 4), false)]
  | 0x18 => exRanges c fun p => rd (c.arg 32 8 + 32 * p) 32
  | 0x19 => rdRanges c
  | _ => []

/-- Bytes read through a context's own page tables, zeros where they do not translate. -/
def State.ctxBytes (s : State) (x : Ctx) (da n : Nat) : List Byte :=
  match s.ctxRead x da n with
  | .ok r => r.1
  | .error _ => List.replicate n 0

/-- Two lists of translated pieces share a byte (R649). -/
def piecesMeet (a b : List (PA × Nat)) : Bool := a.any fun x => b.any fun y => x.1.space == y.1.space && meets x.1.addr x.2 y.1.addr y.2

/-- The target addresses of a range through a set. -/
def State.rangePieces (s : State) (fn : Nat) (set : List PageTr) (r : Range) : List (PA × Nat) := (s.pieces fn set r.1 r.2.1).getD []

/-- An input of one list of ranges overlaps an output of another. -/
def State.inMeetsOut (s : State) (fn : Nat) (set : List PageTr) (ins outs : List Range) : Bool :=
  (ins.filter fun r => !r.2.2).any fun a => (outs.filter (·.2.2)).any fun b => piecesMeet (s.rangePieces fn set a) (s.rangePieces fn set b)

/-- Translation-store entries of a die in use (R593, R594). -/
def State.storeUsed (s : State) (die : Nat) : Nat :=
  ((s.stk.cmds.filter fun p => p.2.waybill.isNone && p.2.opcode != 1 && fnDie p.2.fn == die).map (·.2.tset.length)).sum +
  ((s.ldg.wb.filter fun p => fnDie p.2.fn == die).map (·.2.tset.length)).sum

/-- The translation store of a die takes n more entries (R593). -/
def State.storeRoom (s : State) (die n : Nat) : Bool := decide (s.storeUsed die + n ≤ 2097152)

/-! ### Taking a manifest (R634 to R636, R646, R647) -/

/-- CONS passes the entry once its last manifest is taken (R634). -/
def State.entryDone (s : State) (fn : Nat) : State :=
  s.mFn fn fun f => if f.body.isEmpty && f.held.isNone then { f with cons := f.cons + 1 } else f

/-- An Engine manifest is admitted, and dispatched to its engine's queue when no Fence holds it back (R49, R619). -/
def State.putEngine (s : State) (cid : Nat) (c : Cmd) (x : Ctx) : State :=
  (s.mStk fun k => { k with cmds := mapSet k.cmds cid (s.dispatched cid c) }).countWalks
    (fnDie c.fn) x c.tset

/-- Checks 8 and 9 of an Engine manifest, and its admission; without room in the translation store the Stoker holds it (R590 to R593,
R635, R649). -/
def State.admitEngine (s : State) (cid : Nat) (c : Cmd) (x : Ctx) : State :=
  let rs := s.engineRanges c (s.ctxBytes x)
  match s.trRanges setLimit x rs [] with
  | .error e => s.refuseTr cid c e
  | .ok set =>
    if s.inMeetsOut c.fn set rs rs then s.refuse cid c { code := 0x104 }
    else
      let c := { c with tset := set }
      if s.storeRoom (fnDie c.fn) set.length then s.putEngine cid c x
      else (s.mFn c.fn fun f => { f with held := some c }).mXlt fun x => { x with storeWaits := x.storeWaits + 1 }

/-- Checks 2 and 3 of a manifest of a context (R646): the context when the Stoker goes on, else the state after the skip. -/
def State.ownedCtx (s : State) (c : Cmd) : Except State Ctx :=
  match s.ctx? c.ctx with
  | none => .error (s.raiseAs 2 { code := 0x103, fn := some c.fn, cmdId := c.cmdId })
  | some x =>
    if x.fn ≠ c.fn then .error (s.raiseAs 2 { code := 0x103, fn := some c.fn, cmdId := c.cmdId })
    else if x.dead then .error (s.mFn c.fn fun f => { f with deadSkips := f.deadSkips + 1 })
    else .ok x

/-- Checks 2 to 6, and for an Engine manifest 8 and 9 (R646); a Control, Function or Admission manifest then waits for its own step,
which makes the checks of order 7 to 9. -/
def State.checkManifest (s : State) (cid : Nat) (c : Cmd) (body : Option Nat) : State :=
  let kind := opKind c.opcode
  let ok := (match kind with | none => false | some k => headOk c.bytes k body) && operandsOk c
  if kind = some 4 then
    if !ok then s.refuseFn cid c (c.arg 32 2 % 512) 0x101
    else if body.isSome then s.refuseFn cid c (c.arg 32 2 % 512) 0x102
    else s.mStk fun k => { k with cmds := mapSet k.cmds cid c }
  else match s.ownedCtx c with
    | .error s => s
    | .ok x =>
      if !ok then s.refuse cid c { code := 0x101 }
      else if kind != some 2 && !bit x.classMask c.cls then s.refuse cid c { code := 0x107 }
      else if body.isSome && opPriv c.opcode then s.refuse cid c { code := 0x102 }
      else if kind = some 3 then s.admitEngine cid c x
      else s.mStk fun k => { k with cmds := mapSet k.cmds cid c }

/-- Give the next CMD_ID of a function's ring, and the model's next command number (R636, R692). -/
def State.newManifest (s : State) (fn : Nat) : BitVec 32 × Nat × State :=
  let id := BitVec.ofNat 32 (fn * 2 ^ 27 + (s.fn fn).count % 2 ^ 27)
  (id, s.stk.nextCid, (s.mFn fn fun f => { f with count := (f.count + 1) % 2 ^ 27, fetched := f.fetched + 1 }).mStk fun k =>
    { k with nextCid := k.nextCid + 1 })

/-- Take one manifest. -/
def State.takeManifest (s : State) (fn : Nat) (bs : List Byte) (body : Option Nat) : State :=
  let m := s.newManifest fn
  m.2.2.checkManifest m.2.1 (cmdOf fn bs body.isSome m.1) body

/-- Refuse every manifest of a body: checks 2 and 3 of the entry's context still come first (R645, R646). -/
def State.refuseBody (s : State) (fn : Nat) (bs : List Byte) : Nat → State
  | 0 => s
  | n + 1 =>
    let m := s.newManifest fn
    let c := cmdOf fn bs false m.1
    let s := match m.2.2.ownedCtx c with
      | .error s => s
      | .ok _ => m.2.2.refuse m.2.1 c { code := 0x105 }
    s.refuseBody fn bs n

/-- A Delegate entry obeys R642. -/
def delegateOk (bs : List Byte) : Bool :=
  zeroIn bs 2 2 && decide (fld bs 4 2 < 4096 ∧ fld bs 6 1 = 4 ∧ fld bs 16 8 % 128 = 0) && zeroIn bs 7 9 && zeroIn bs 25 103

/-- The body of a Delegate entry, read once (R643, R645). -/
def State.delegateBody (s : State) (fn : Nat) (bs : List Byte) : Option (List (List Byte)) :=
  let n := fld bs 24 1 + 1
  match s.ctx? (fld bs 4 2 % 4096) with
  | none => none
  | some x =>
    if !delegateOk bs || x.fn != fn || x.dead then none
    else match s.ctxRead x (fld bs 16 8) (128 * n) with
      | .error _ => none
      | .ok (d, poisoned) => if poisoned then none else some ((List.range n).map fun i => (d.drop (128 * i)).take 128)

/-- The entry at CONS: its address in host memory (R624, R626). -/
def Fn.entryAddr (f : Fn) : Nat := f.ringBase.toNat + 128 * (f.cons.toNat % 2 ^ f.ringLog2)

/-- The expected SEQ_TAG of the entry at CONS (R628). -/
def Fn.tag (f : Fn) : Nat := (f.cons.toNat / 2 ^ f.ringLog2 + 1) % 65536

/-- Act on an entry whose tag matches (R630, R634, R642 to R645). -/
def State.takeEntry (s : State) (fn : Nat) (bs : List Byte) : State :=
  let s := s.mFn fn fun f => { f with tagWait := false }
  if bit (mfAttr bs) 2 then
    match s.delegateBody fn bs with
    | none => (s.refuseBody fn bs (fld bs 24 1 + 1)).entryDone fn
    | some l => s.mFn fn fun f => { f with body := l, bodyCtx := fld bs 4 2 % 4096 }
  else (s.takeManifest fn bs none).entryDone fn

/-- Read the entry at CONS: a poisoned entry is skipped (R769); a matching tag is acted on; else the Stoker waits (R630, R631). -/
def State.readEntry (s : State) (fn : Nat) (first : Bool) : State :=
  let f := s.fn fn
  let p : PA := { space := .host, addr := f.entryAddr }
  if s.viewPoisoned noUnit p 128 then
    let m := s.newManifest fn
    ((m.2.2.raise { code := 0x10D, fn := some fn, cmdId := m.1 }).mFn fn fun f => { f with tagWait := false }).entryDone fn
  else
    let bs := s.hostRead f.entryAddr 128
    if fld bs 0 2 = f.tag then s.takeEntry fn bs
    else if first then s.mFn fn fun f => { f with tagWait := true, tagWaits := f.tagWaits + 1 }
    else s

/-- The Stoker may fetch from a ring: enabled, not stopped, nothing held, no body under way (R631, R635). -/
def State.ringFree (s : State) (fn : Nat) : Bool :=
  let f := s.fn fn
  s.pageOn fn && f.en && !f.stopped && f.held.isNone && f.body.isEmpty

/-- MANIFEST_FETCH (R630, R632, R646): the Stoker reads the entry at CONS; with none pending it clears PENDING. -/
def execManifestFetch (fn : Nat) (s : State) : Host.Outcome State Fault Refusal :=
  let f := s.fn fn
  if !s.ringFree fn || f.tagWait then .next s
  else if f.cons = f.prod then .next (s.mFn fn fun f => if f.pend then { f with pend := false, recheck := true } else f)
  else .next (s.readEntry fn true)

/-- RING_IDLE_RECHECK (R632): the comparison of the cycle after PENDING was cleared; fetching resumes when PENDING is 1 or CONS differs
from PROD. -/
def execRingIdleRecheck (fn : Nat) (s : State) : Host.Outcome State Fault Refusal :=
  if s.pageOn fn && (s.fn fn).recheck then
    .next (s.mFn fn fun f => { f with recheck := false, pend := f.pend || decide (f.cons ≠ f.prod) })
  else .next s

/-- TAG_WAIT_REREAD (R631): the entry is read again. -/
def execTagWaitReread (fn : Nat) (s : State) : Host.Outcome State Fault Refusal :=
  if s.ringFree fn && (s.fn fn).tagWait then .next (s.readEntry fn false) else .next s

/-- TAG_STOP (R631): 8 µs without a match. -/
def execTagStop (fn : Nat) (s : State) : Host.Outcome State Fault Refusal :=
  if s.ringFree fn && (s.fn fn).tagWait then
    .next (s.mFn fn fun f => { f with tagWait := false, stopped := true, tagStops := f.tagStops + 1 })
  else .next s

/-- DELEGATE (R643, R644): the next manifest of the body read is taken as if it stood in the ring. -/
def execDelegate (fn : Nat) (s : State) : Host.Outcome State Fault Refusal :=
  let f := s.fn fn
  match f.body with
  | [] => .next s
  | bs :: rest =>
    if !s.pageOn fn || f.held.isSome then .next s
    else .next (((s.mFn fn fun f => { f with body := rest }).takeManifest fn bs (some f.bodyCtx)).entryDone fn)

/-- ADMISSION_RESUME (R593, R635): the translation store takes the manifest that the Stoker holds; one of a context torn down
meanwhile is skipped (R687). -/
def execAdmissionResume (fn : Nat) (s : State) : Host.Outcome State Fault Refusal :=
  match (s.fn fn).held with
  | none => .next s
  | some c =>
    if !s.pageOn fn then .next s
    else
      let free := s.mFn fn fun f => { f with held := none }
      match s.ctx? c.ctx with
      | none => .next (free.entryDone fn)
      | some x =>
        if c.opcode = 1 ∨ c.opcode = 0x2C then
          if x.dead || s.storeRoom (fnDie fn) c.tset.length then .next free else .next s
        else if x.dead then .next ((free.mFn fn fun f => { f with deadSkips := f.deadSkips + 1 }).entryDone fn)
        else if s.storeRoom (fnDie fn) c.tset.length then
          .next (((free.mStk fun k => { k with nextCid := k.nextCid + 1 }).putEngine s.stk.nextCid c x).entryDone fn)
        else .next s

end Sys2Proof.Machine
end

