-- ==== Sys2Proof/Machine/Contexts.lean ====
section
/-!
DEFINITION. Contexts and Recipes (R652 to R667): Create and Destroy Context, the Recipe record and its checks, and the ranges of the
commands that a Recipe forms.
-/
namespace Sys2Proof.Machine

/-! ### Contexts -/

/-- The operands of a Create Context lie in range (R652, R653, R756). -/
def createFmt (c : Cmd) : Bool :=
  zeroExcept c.bytes [(32, 4), (40, 18), (64, 16)] &&
  decide (c.arg 32 2 < 512 ∧ c.arg 34 1 < 2 ∧ c.arg 35 1 < 64 ∧ c.arg 40 8 % 128 < 2 ∧ c.arg 48 8 % 4096 = 0 ∧
    7 ≤ c.arg 56 1 ∧ c.arg 56 1 ≤ 16 ∧ 4 ≤ c.arg 57 1 ∧ c.arg 57 1 ≤ 12 ∧ c.arg 72 8 % 32 = 0)

/-- The contexts of a function. -/
def State.ctxsOf (s : State) (fn : Nat) : List Nat := (s.stk.ctxs.filter (·.2.fn == fn)).map (·.1)

/-- The checks of R653. -/
def State.createOk (s : State) (c : Cmd) : Bool :=
  let p := s.img.fnPolicy.getD c.fn {}
  createFmt c && !((mapGet (s.fn c.fn).slots (c.arg 32 2)).map (·.valid)).getD false &&
  decide ((s.ctxsOf c.fn).length < p.maxContexts ∧ s.stk.ctxs.length < 4096) && c.arg 35 1 &&& p.classMask == c.arg 35 1

/-- The lowest free device context number (R654). -/
def State.freeCtx (s : State) : Option Nat := (List.range 4096).find? fun n => (s.ctx? n).isNone

/-- The context that a Create Context makes (R652). -/
def newCtx (c : Cmd) : Ctx :=
  { fn := c.fn, slot := c.arg 32 2, debug := bit (c.arg 34 1) 0, classMask := c.arg 35 1, ptRoot := c.arg 40 8 / 128 * 128
    ptHost := bit (c.arg 40 8) 0, cplAddr := BitVec.ofNat 64 (c.arg 48 8), cplLog2 := c.arg 56 1, flogLog2 := c.arg 57 1
    flogAddr := BitVec.ofNat 64 (c.arg 64 8), nsrAddr := BitVec.ofNat 64 (c.arg 72 8) }

/-- CREATE_CONTEXT (R652 to R654). -/
def execCreateContext (cid : Nat) (s : State) : Host.Outcome State Fault Refusal :=
  match s.ready? cid 0x26 .admitted with
  | none => .next s
  | some c =>
    match s.createOk c, s.freeCtx with
    | true, some n =>
      let s := s.mStk fun k => { k with ctxs := mapSet k.ctxs n (newCtx c) }
      let s := s.mFn c.fn fun f => { f with slots := mapSet f.slots (c.arg 32 2) { valid := true, ctx := n } }
      .next (s.answerFn cid c (c.arg 32 2))
    | _, _ => .next (s.refuseFn cid c (c.arg 32 2 % 512) 0x10B)

/-- Every waybill and command of a context has left the part (R655). -/
def State.drained (s : State) (ctx : Nat) : Bool :=
  !s.ldg.wb.any (·.2.ctx == ctx) && !s.stk.cmds.any fun p => p.2.ctx == ctx && opKind p.2.opcode != some 4

/-- A context leaves the part: its slot is free, and no cache keeps a translation of it (R655). -/
def State.dropCtx (s : State) (n : Nat) (x : Ctx) : State :=
  let s := s.dropCaches [n] fun _ => true
  let s := s.mStk fun k => { k with ctxs := mapErase k.ctxs n }
  s.mFn x.fn fun f => { f with slots := mapAdj f.slots x.slot fun l => { l with valid := false } }

/-- The Recipes of a context are deregistered: no Admit may name them, and the slot is free at the next boundary (R655, R666). -/
def State.dropRecipes (s : State) (ctx : Nat) : State :=
  s.mStk fun k => { k with recipes := k.recipes.map fun p =>
    (p.1, if p.2.ctx == ctx then { p.2 with leaving := true, effective := false } else p.2) }

/-- DESTROY_CONTEXT (R655, R687): the context is torn down; the command completes once the context has drained. -/
def execDestroyContext (cid : Nat) (s : State) : Host.Outcome State Fault Refusal :=
  if !s.live then .next s
  else match s.cmd? cid with
    | none => .next s
    | some c =>
      let l := mapGetD (s.fn c.fn).slots (c.arg 32 2) {}
      if c.opcode ≠ 0x27 then .next s
      else if !l.valid then .next (s.refuseFn cid c (c.arg 32 2 % 512) 0x10B)
      else
        let s := if c.st == .admitted then
            ((s.teardown l.ctx).dropRecipes l.ctx).mStk fun k => { k with
              ctxs := mapAdj k.ctxs l.ctx fun x => { x with destroying := true }, cmds := mapAdj k.cmds cid fun c => { c with st := .running } }
          else s
        match s.ctx? l.ctx with
        | none => .next s
        | some x => if s.drained l.ctx then .next ((s.dropCtx l.ctx x).answerFn cid c (c.arg 32 2)) else .next s

/-! ### The Recipe record -/

/-- A template and its extension (R659). -/
def Template.ofBytes (bs : List Byte) : Template :=
  { bytes := bs.take 128, reloc := fld bs 128 3, after := fld bs 132 2, clipThresh := fld bs 134 2, wideFrom := fld bs 136 2
    patchOff := [fld bs 138 1, fld bs 139 1], patchPer := [fld bs 140 2, fld bs 142 2], patchBase := [fld bs 144 4, fld bs 148 4]
    wideArg := BitVec.ofNat 64 (fld bs 152 8) }

/-- A Recipe from its record (R657 to R659). -/
def Recipe.ofBytes (bs : List Byte) (ctx : Nat) : Recipe :=
  let nt := fld bs 4 2
  { ctx := ctx, stream := bit (fld bs 0 1) 0, copyMode := bit (fld bs 0 1) 1, rerun := fld bs 1 1 % 8, lanes := fld bs 6 2
    fbLen := fld bs 8 4, scratchBytes := fld bs 12 4, fbAddr := BitVec.ofNat 64 (fld bs 16 8), scratchAddr := BitVec.ofNat 64 (fld bs 24 8)
    costBase := (List.range 8).map fun e => fld bs (32 + 4 * e) 4, costItem := (List.range 8).map fun e => fld bs (64 + 4 * e) 4
    tables := (List.range nt).map fun i => { table := fld bs (128 + 8 * i) 2, policy := fld bs (130 + 8 * i) 1 % 4, lateUs := fld bs (132 + 8 * i) 2 }
    cmds := (List.range (fld bs 2 2)).map fun k => Template.ofBytes ((bs.drop (128 + 8 * nt + 160 * k)).take 160)
    recLen := bs.length }

/-- The length that a record's header gives (R657). -/
def recipeLen (bs : List Byte) : Nat := 128 + 8 * fld bs 4 2 + 160 * fld bs 2 2

/-- The header fields of a record lie in range (R657). -/
def recipeHeadOk (bs : List Byte) (r : Recipe) : Bool :=
  decide (fld bs 0 1 < 4 ∧ fld bs 1 1 < 8 ∧ 1 ≤ fld bs 2 2 ∧ fld bs 2 2 ≤ 256 ∧ fld bs 4 2 ≤ 64 ∧ r.lanes ≤ 8192 ∧ r.scratchBytes % 4096 = 0 ∧
    (r.lanes = 0 → r.scratchBytes = 0)) && zeroIn bs 96 32 &&
  (if r.copyMode then decide (1 ≤ r.fbLen ∧ r.fbLen ≤ 4096) else decide (r.fbLen = 0 ∧ r.fbAddr = 0))

/-- A table entry is well formed and names a table of the function (R658, R665). -/
def State.tableUseOk (s : State) (c : Cmd) (e : List Byte) : Bool :=
  decide (fld e 2 1 < 3 ∧ fld e 4 2 < 4096) && zeroIn e 3 1 && zeroIn e 6 2 && (fld e 2 1 != 1 || fld e 4 2 != 0) &&
  (s.fnTable c (fld e 0 2)).isSome

/-- PATCH_OFF is 0 or a multiple of 4 from 32 to 124 (R659). -/
def patchOk (p : Nat) : Bool := p == 0 || decide (p % 4 = 0 ∧ 32 ≤ p ∧ p ≤ 124)

/-- A template's opcode, header, context and extension (R639, R659, R665); `k` is its index. -/
def templateOk (ctx k : Nat) (bs : List Byte) (t : Template) : Bool :=
  let op := fld bs 2 1
  opKind op == some 3 && !opPriv op && zeroIn bs 0 2 && zeroIn bs 3 1 && fld bs 4 2 == ctx && zeroIn bs 6 18 && zeroIn bs 25 7 &&
  zeroIn bs 131 1 && t.after / 2 ^ k == 0 && t.wideFrom / 2 ^ k == 0 && t.patchOff.all patchOk && (op == 0x0C || t.wideArg == 0)

/-- The commands that each command of a Recipe follows, directly or through a chain (R661). -/
def followed (ts : List Template) : List (List Nat) :=
  (List.range ts.length).foldl (fun acc k =>
    let a := (ts.getD k {}).after
    let near := (List.range k).filter fun i => a.testBit (k - 1 - i)
    acc ++ [(List.range k).filter fun m => near.contains m || near.any fun d => (acc.getD d []).contains m]) []

/-- No input range of a command overlaps an output range of itself, or of a command that it does not follow (R649). -/
def State.recipeOrderOk (s : State) (fn : Nat) (set : List PageTr) (ts : List Template) (per : List (List Range)) : Bool :=
  let fol := followed ts
  (List.range per.length).all fun j => (List.range per.length).all fun i =>
    (fol.getD j []).contains i || !s.inMeetsOut fn set (per.getD j []) (per.getD i [])

/-- The bytes of the scratch extent (R663). -/
def Recipe.scratchLen (r : Recipe) : Nat := r.lanes * r.scratchBytes

/-- A range lies in the Recipe's scratch extent. -/
def Recipe.inScratch (r : Recipe) (g : Range) : Bool :=
  decide (0 < r.lanes ∧ r.scratchAddr.toNat ≤ g.1 ∧ g.1 + g.2.1 ≤ r.scratchAddr.toNat + r.scratchLen)

/-- The ranges of a template's command as formed, its wide argument block among them (R651, R662). -/
def State.templateRanges (s : State) (x : Ctx) (ctx : Nat) (r : Recipe) (t : Template) (bytes : List Byte) : List Range :=
  let c : Cmd := { fn := x.fn, ctx := ctx, opcode := fld bytes 2 1, bytes := bytes }
  s.engineRanges c (fun da n => (s.readSet noUnit x.fn r.held da n).getD (s.ctxBytes x da n)) ++
    (if t.wideArg = 0 then [] else [(t.wideArg.toNat, lnArgLen c % 2 ^ 13, false)])

/-- The translations that a Recipe holds (R663): none when the fallback block is not wholly in the stacks, or the scratch extent is
not wholly mapped and writable. -/
def State.recipeHeld (s : State) (x : Ctx) (r : Recipe) : Option (List PageTr) :=
  match s.trRanges (2 ^ 52) x [(r.fbAddr.toNat, r.fbLen, false)] [] with
  | .error _ => none
  | .ok fb =>
    if !fb.all (·.space == .stack) then none
    else match s.trRanges (2 ^ 52) x [(r.scratchAddr.toNat, r.scratchLen, true)] fb with
      | .error _ => none
      | .ok set => some set

/-- Recipe store in use, in 4 KiB units (R656). -/
def State.recipeUnits (s : State) : Nat := (s.stk.recipes.map fun p => ceilDiv p.2.recLen 4096).sum

/-- The checks of R665 on a record's bytes: the Recipe to store when they pass. -/
def State.recipeOf (s : State) (c : Cmd) (x : Ctx) (bs : List Byte) : Option Recipe :=
  let r := Recipe.ofBytes bs c.ctx
  let nt := fld bs 4 2
  if recipeHeadOk bs r &&
     (List.range nt).all (fun i => s.tableUseOk c ((bs.drop (128 + 8 * i)).take 8)) &&
     (List.range r.cmds.length).all (fun k => templateOk c.ctx k ((bs.drop (128 + 8 * nt + 160 * k)).take 160) (r.cmds.getD k {})) &&
     decide (s.recipeUnits + ceilDiv bs.length 4096 ≤ 16384) then
    match s.recipeHeld x r with
    | none => none
    | some set =>
      let r := { r with held := set }
      let per := r.cmds.map fun t =>
        let t' := { t with patchOff := [0, 0] }
        (s.templateRanges x c.ctx r t (t'.form 0 0 (r.laneAddr 0) 0)).filter r.inScratch
      if s.recipeOrderOk x.fn set r.cmds per then some r else none
  else none

/-- REGISTER_RECIPE (R656, R663, R665): the record is read once; the Recipe takes effect at the next boundary. -/
def execRegisterRecipe (cid : Nat) (s : State) : Host.Outcome State Fault Refusal :=
  match s.ctl? cid 0x23 with
  | none => .next s
  | some (c, x) =>
    let slot := c.arg 32 2
    let n := c.arg 48 4
    let bad := s.refuse cid c { code := 0x109 }
    if !zeroExcept c.bytes [(32, 2), (40, 12)] || decide (4096 ≤ slot) || (s.recipe? slot).isSome || decide (n < 128) then .next bad
    else match s.ctxRead x (c.arg 40 8) 128 with
      | .error e => .next (s.refuseTr cid c e)
      | .ok (h, p0) =>
        if p0 || recipeLen h != n then .next bad
        else match s.ctxRead x (c.arg 40 8) n with
          | .error e => .next (s.refuseTr cid c e)
          | .ok (bs, p1) =>
            if p1 then .next bad
            else match s.recipeOf c x bs with
              | none => .next bad
              | some r =>
                .next (((s.mStk fun k => { k with recipes := mapSet k.recipes slot r }).countWalks (fnDie c.fn) x r.held).commitCtl cid c)

/-- DEREGISTER_RECIPE (R666). -/
def execDeregisterRecipe (cid : Nat) (s : State) : Host.Outcome State Fault Refusal :=
  match s.ctl? cid 0x24 with
  | none => .next s
  | some (c, _) =>
    let slot := c.arg 32 2
    if ((s.recipe? slot).map (·.ctx)) != some c.ctx then .next (s.refuse cid c { code := 0x108 })
    else if s.ldg.wb.any (·.2.recipe == slot) then .next (s.refuse cid c { code := 0x10C })
    else .next ((s.mStk fun k => { k with recipes := mapAdj k.recipes slot fun r => { r with leaving := true } }).commitCtl cid c)

/-- Recipes at a boundary: deregistered ones leave their slots, registered ones take effect (R656, R666). -/
def Stoker.recipesBoundary (k : Stoker) : Stoker :=
  { k with recipes := (k.recipes.filter fun p => !p.2.leaving).map fun p => (p.1, { p.2 with effective := true }) }

end Sys2Proof.Machine
end

