-- ==== Sys2Proof/Machine/Filing.lean ====
section
/-!
DEFINITION. Filing waybills (R56, R57, R90 to R114, R503 to R507, R649, R651): the checks and ranges of an Admit, its stream header,
filing, Replay Inject (R811 to R816), and the commands that act on waybills: Answer, Abandon, Fence, Clear Numeric Status.
-/
namespace Sys2Proof.Machine

/-! ### The waybill that a manifest asks for -/

/-- The waybill of an Admit (R99). -/
def admitOf (c : Cmd) : Waybill :=
  { cls := c.cls, ctx := c.ctx, recipe := c.arg 32 2 % 4096, itemsM1 := c.arg 40 4 % 2 ^ 24, capture := bit (c.arg 34 1) 0
    inputAddr := BitVec.ofNat 64 (c.arg 48 8), resultAddr := BitVec.ofNat 64 (c.arg 64 8), inputLen := c.arg 56 4, resultLen := c.arg 60 4
    userTag := BitVec.ofNat 64 (c.arg 80 8), deadlineUs := c.arg 36 4 % 2 ^ 23, handleAddr := BitVec.ofNat 64 (c.arg 72 8)
    cmdId := c.cmdId, fn := c.fn, foc := c.foc }

/-- The fields of a stream header lie in range and fit the waybill (R504, R505). -/
def State.streamHeadOk (s : State) (w : Waybill) (h : List Byte) : Bool :=
  zeroIn h 6 2 && zeroIn h 20 44 &&
  decide (1 ≤ fld h 0 4 ∧ fld h 0 4 ≤ 16777216 ∧ 1 ≤ fld h 4 2 ∧ fld h 4 2 ≤ 100 ∧ fld h 8 8 % 64 = 0 ∧ fld h 16 4 % 64 = 0 ∧
    128 ≤ fld h 16 4 ∧ w.itemsM1 + 1 = fld h 4 2 ∧ 4 * fld h 0 4 ≤ w.resultLen ∧ 2 * s.periodNs + s.admitNs ≤ w.deadlineUs * 1000)

/-- The target addresses of a range through a context's own tables, when every page translates. -/
def State.ctxPieces (s : State) (x : Ctx) (da n : Nat) : Option (List (PA × Nat)) :=
  match s.trRanges (2 ^ 52) x [(da, n, false)] [] with
  | .error _ => none
  | .ok set => s.pieces x.fn set da n

/-- The STREAM field that a stream header gives step 0 (R505, R506). -/
def State.streamOf (s : State) (x : Ctx) (w : Waybill) (h : List Byte) : Option StreamExt :=
  if !s.streamHeadOk w h then none
  else match s.ctxPieces x (fld h 8 8) (fld h 16 4) with
    | none => none
    | some kv =>
      let input := (s.ctxPieces x w.inputAddr.toNat w.inputLen).getD []
      if kv.all (·.1.space == .stack) && !piecesMeet kv input then
        some { isStream := true, maxTokens := fld h 0 4, perStep := fld h 4 2, kvAddr := BitVec.ofNat 64 (fld h 8 8), kvBytes := fld h 16 4 }
      else none

/-- The commands' ranges of a waybill at lane 0 (R649, R651). -/
def State.waybillRanges (s : State) (x : Ctx) (w : Waybill) (r : Recipe) : List (List Range) :=
  r.cmds.map fun t =>
    s.templateRanges x w.ctx r t (t.form w.inputAddr.toNat w.resultAddr.toNat (r.laneAddr 0) (w.itemsM1 + 1))

/-- The ranges of a waybill's own buffers: input, result, handle slot, and a stream's state extent (R507, R651). -/
def ownRanges (w : Waybill) (inOut : Bool) : List Range :=
  [(w.inputAddr.toNat, w.inputLen, inOut), (w.resultAddr.toNat, w.resultLen, true)] ++
  (if w.handleAddr = 0 then [] else [(w.handleAddr.toNat, 4, true)]) ++
  (if w.stream.isStream then [(w.stream.kvAddr.toNat, w.stream.kvBytes, true)] else [])

/-- The translation set of a waybill (R651); ranges in the scratch extent go through the Recipe's held translations (R663). -/
def State.waybillSet (s : State) (x : Ctx) (w : Waybill) (r : Recipe) (first : List Range) (inOut : Bool) : Except (Nat × Nat) (List PageTr) :=
  s.trRanges setLimit x (first ++ ownRanges w inOut ++ ((s.waybillRanges x w r).flatten.filter fun g => !r.inScratch g)) []

/-- The alias rules of a waybill (R649). -/
def State.waybillAliasOk (s : State) (x : Ctx) (w : Waybill) (r : Recipe) : Bool :=
  let set := w.tset ++ r.held
  let per := s.waybillRanges x w r
  let outs := (per.flatten.filter (·.2.2)) ++ [(w.resultAddr.toNat, w.resultLen, true), (r.scratchAddr.toNat, r.scratchLen, true)]
  let input : Range := (w.inputAddr.toNat, w.inputLen, false)
  let slot : List Range := if w.handleAddr = 0 then [] else [(w.handleAddr.toNat, 4, false)]
  s.recipeOrderOk x.fn set r.cmds per && !s.inMeetsOut x.fn set (input :: slot) outs &&
  !slot.any fun g => piecesMeet (s.rangePieces x.fn set g) (s.rangePieces x.fn set input)

/-- The checks of order 7 to 9 for a waybill: R100, R667, R101, R505, pre-translation and alias; `head` reads its stream header:
none when it is poisoned, an error when its page does not translate. -/
def State.wbChecks (s : State) (x : Ctx) (w : Waybill) (head : Except (Nat × Nat) (Option (List Byte))) (first : List Range) (inOut : Bool) :
    Except (Nat × Nat) Waybill :=
  if 4 ≤ w.cls then .error (0x204, 0)
  else match s.recipe? w.recipe with
    | none => .error (0x108, 0)
    | some r =>
      if !r.effective || r.ctx != w.ctx then .error (0x108, 0)
      else if w.resultLen < r.fbLen then .error (0x206, 0)
      else
        let ext : Except (Nat × Nat) StreamExt :=
          if !r.stream then .ok {}
          else if w.inputLen < 64 then .error (0x207, 0)
          else match head with
            | .error e => .error e
            | .ok none => .error (0x207, 0)
            | .ok (some h) => match s.streamOf x w h with | none => .error (0x207, 0) | some e => .ok e
        match ext with
        | .error e => .error e
        | .ok e =>
          let w := { w with stream := e }
          match s.waybillSet x w r first inOut with
          | .error e => .error e
          | .ok set =>
            let w := { w with tset := set }
            if s.waybillAliasOk x w r then .ok w else .error (0x104, 0)

/-- Refuse a manifest for a code, or for a page that does not translate (R591, R647). -/
def State.refuseCode (s : State) (cid : Nat) (c : Cmd) (e : Nat × Nat) : State :=
  if 0x700 ≤ e.1 ∧ e.1 < 0x720 then s.refuseTr cid c e else s.refuse cid c { code := e.1 }

/-! ### Filing -/

/-- L of R56. -/
def State.lastTickOf (s : State) (w : Waybill) : Int :=
  (s.tck.num.toNat : Int) + ((w.deadlineUs * 1000 : Nat) + (s.nsInTick : Int) - (s.admitNs : Int)) / (s.periodNs : Int) - 1

/-- File a waybill in a free entry: the handle is written, and an unadmissible one is answered at once (R56, R57, R95 to R97, R102,
R113, R802). -/
def State.fileWb (s : State) (i : Nat) (w : Waybill) : State :=
  let h := s.handle i
  let w := { w with
    st := .filed, lastTick := s.lastTickOf w, reuse := mapGetD s.ldg.reuse i 0, fileSeq := s.ldg.fileSeq
    filedTick := s.tck.num, fileOffset := s.nsInTick
    stream := if w.stream.isStream && w.stream.stepNum == 0 then { w.stream with firstHandle := BitVec.ofNat 32 h } else w.stream }
  let s := s.mLdg fun l => { l with wb := mapSet l.wb i w, fileSeq := l.fileSeq + 1 }
  let s := if w.handleAddr = 0 then s else s.mergeSet (fnDie w.fn) w.fn w.tset 2 w.handleAddr.toNat (toLe 4 h)
  let s := s.trace 2 (fnDie w.fn) (some w.ctx) w.cmdId (h + w.cls * 2 ^ 32)
  if w.lastTick < (s.tck.num.toNat : Int) + 1 then s.fallback i w 4 else s

/-- No entry is FREE: the Recipe's fallback answers the manifest (R114, R115). -/
def State.ledgerFull (s : State) (cid : Nat) (c : Cmd) (w : Waybill) : State :=
  let s := s.mLdg fun l => { l with fullRefusals := l.fullRefusals + 1 }
  let s := s.mCvn fun v => { v with fallbacks := v.fallbacks + 1 }
  let s := (s.count 0x10 0xFF (some w.ctx) w.cls 1).fallbackWrite w
  (s.pushAnswer { cmdAnswer c 7 0 with userTag := w.userTag, flags := b2n w.foc * 8 }).eraseCmd cid

/-- The Ledger takes an admitted waybill: the Stoker holds the ring when the translation store lacks room (R593, R635); `i` is the free
entry that the Ledger chooses. -/
def State.takeWb (s : State) (cid : Nat) (c : Cmd) (x : Ctx) (w : Waybill) (i : Nat) (copy : State → State) : State :=
  let f := s.fn c.fn
  if !s.storeRoom (fnDie c.fn) w.tset.length then
    if f.held.isSome then s
    else (s.mFn c.fn fun f => { f with held := some { c with tset := w.tset } }).mXlt fun x => { x with storeWaits := x.storeWaits + 1 }
  else
    let full := decide (1048576 ≤ s.ldg.wb.length)
    if !full && ((s.wb? i).isSome || decide (1048576 ≤ i)) then s
    else
      let s := s.mFn c.fn fun f => { f with held := f.held.filter fun h => h.cmdId != c.cmdId }
      let s := copy (s.countWalks (fnDie c.fn) x w.tset)
      if full then s.ledgerFull cid c w else (s.fileWb i w).eraseCmd cid

/-- The stream header at an address: none when it is poisoned (R505). -/
def State.headAt (s : State) (x : Ctx) (da : Nat) : Except (Nat × Nat) (Option (List Byte)) :=
  match s.ctxRead x da 64 with
  | .error e => .error e
  | .ok (h, p) => .ok (if p then none else some h)

/-- ADMIT (R99 to R102, R113, R646): `idx` is the free entry that the Ledger chooses. -/
def execAdmitCmd (cid idx : Nat) (s : State) : Host.Outcome State Fault Refusal :=
  match s.ready? cid 0x01 .admitted with
  | none => .next s
  | some c =>
    match s.ctx? c.ctx with
    | none => .next s
    | some x =>
      if s.fenced cid c.ctx then .next s
      else
        let w := admitOf c
        match s.wbChecks x w (s.headAt x w.inputAddr.toNat) [] false with
        | .error e => .next (s.refuseCode cid c e)
        | .ok w => .next (s.takeWb cid c x w idx id)

/-! ### Replay Inject -/

/-- The length that a capture record's header gives (R812). -/
def captureLen (h : List Byte) : Nat := 64 + 64 * ceilDiv (8 * fld h 30 2) 64 + 64 * ceilDiv (fld h 48 4) 64

/-- A capture record's header passes the checks of R812 that name no Recipe. -/
def captureOk (h : List Byte) : Bool :=
  fld h 4 2 == 1 && bit (fld h 6 1) 7 && !bit (fld h 7 1) 2 && fld h 0 4 == captureLen h

/-- The Recipe that a replay names, when R812 accepts it. -/
def State.replayRecipe (s : State) (c : Cmd) (h : List Byte) : Option Recipe :=
  match s.recipe? (fld h 40 4 % 4096) with
  | none => none
  | some r =>
    if r.effective && r.ctx == c.ctx && fld h 30 2 == r.tables.length &&
       (if r.stream then c.arg 72 8 != 0 else c.arg 44 4 == 0 && c.arg 72 8 == 0) then some r else none

/-- The input bytes of a replay: the record's, with KV_ADDR written into a stream header (R814). -/
def replayInput (c : Cmd) (r : Recipe) (bs : List Byte) : List Byte :=
  let d := (bs.drop (64 + 64 * ceilDiv (8 * fld bs 30 2) 64)).take (fld bs 48 4)
  if r.stream then overlay d 8 (toLe 8 (c.arg 72 8)) else d

/-- The waybill of a Replay Inject (R814, R815, R817). -/
def replayOf (c : Cmd) (h : List Byte) : Waybill :=
  { cls := fld h 7 1 % 4, ctx := c.ctx, recipe := fld h 40 4 % 4096, itemsM1 := fld h 44 4 % 2 ^ 24, capture := bit (c.arg 40 1) 1
    inputAddr := BitVec.ofNat 64 (c.arg 48 8), resultAddr := BitVec.ofNat 64 (c.arg 56 8), inputLen := fld h 48 4, resultLen := c.arg 64 4
    userTag := BitVec.ofNat 64 (fld h 16 8), deadlineUs := fld h 52 4, handleAddr := BitVec.ofNat 64 (c.arg 80 8)
    cmdId := c.cmdId, fn := c.fn, foc := true
    replay := some { runKey := BitVec.ofNat 64 (fld h 32 8), noVersionCheck := bit (c.arg 40 1) 0
                     versions := (List.range (fld h 30 2)).map fun i => (fld h (64 + 8 * i) 2, fld h (66 + 8 * i) 6) } }

/-- File the waybill of a replay from the whole record. -/
def State.replayFile (s : State) (cid : Nat) (c : Cmd) (x : Ctx) (bs : List Byte) (r : Recipe) (idx : Nat) : State :=
  let w := replayOf c bs
  let input := replayInput c r bs
  match s.wbChecks x w (.ok (some (input.take 64))) [(c.arg 32 8, fld bs 0 4, false)] true with
  | .error e => s.refuseCode cid c e
  | .ok w =>
    let w := { w with stream := if w.stream.isStream then { w.stream with tokensDone := c.arg 44 4 } else w.stream }
    s.takeWb cid c x w idx fun s => s.mergeSet (fnDie c.fn) c.fn w.tset (input.length / 4096 + 2) w.inputAddr.toNat input

/-- REPLAY_INJECT (R811 to R816): `idx` is the free entry that the Ledger chooses. -/
def execReplayInject (cid idx : Nat) (s : State) : Host.Outcome State Fault Refusal :=
  match s.ctl? cid 0x2C with
  | none => .next s
  | some (c, x) =>
    let bad := s.refuse cid c { code := 0x101 }
    if s.dev != .banked then .next bad
    else match s.ctxRead x (c.arg 32 8) 64 with
      | .error e => .next (s.refuseTr cid c e)
      | .ok (h, p0) =>
        if p0 || !captureOk h then .next bad
        else match s.ctxRead x (c.arg 32 8) (fld h 0 4) with
          | .error e => .next (s.refuseTr cid c e)
          | .ok (bs, p1) =>
            if p1 then .next bad
            else match s.replayRecipe c bs with
              | none => .next bad
              | some r => .next (s.replayFile cid c x bs r idx)

/-! ### Commands on waybills -/

/-- The target of an Answer or Abandon that may act (R104). -/
def State.target (s : State) (c : Cmd) : Option (Nat × Waybill) :=
  let i := c.arg 32 4 % 2 ^ 20
  match s.wb? i with
  | none => none
  | some w => if s.handle i == c.arg 32 4 && w.ctx == c.ctx && (c.opcode != 2 || decide (c.arg 48 4 ≤ w.resultLen)) then some (i, w) else none

/-- ANSWER (R103 to R105, R108): the source bytes go to the result buffer of a FILED waybill. -/
def execAnswer (cid : Nat) (s : State) : Host.Outcome State Fault Refusal :=
  match s.ctl? cid 0x02 with
  | none => .next s
  | some (c, x) =>
    match s.ctxRead x (c.arg 40 8) (c.arg 48 4) with
    | .error e => .next (s.refuseTr cid c e)
    | .ok (bs, _) =>
      match s.target c with
      | none => .next (s.answerCmd cid c 0xA 0)
      | some (i, w) =>
        if w.st != .filed then .next (s.answerCmd cid c 0xA 0)
        else
          let s := s.mergeSet (fnDie w.fn) w.fn w.tset (bs.length / 4096 + 2) w.resultAddr.toNat bs
          .next ((s.answerWb i w 9 6 0).commitCtl cid c)

/-- ABANDON (R103, R104, R106, R108). -/
def execAbandon (cid : Nat) (s : State) : Host.Outcome State Fault Refusal :=
  match s.ctl? cid 0x03 with
  | none => .next s
  | some (c, _) =>
    match s.target c with
    | none => .next (s.answerCmd cid c 0xA 0)
    | some (i, w) =>
      if w.st == .filed then .next ((s.answerWb i w 6 3 0).commitCtl cid c)
      else if w.st == .running then .next ((s.mWb i fun w => { w with abandonReq := true }).commitCtl cid c)
      else .next (s.answerCmd cid c 0xA 0)

/-- Manifest b of a ring comes before manifest a, by the counts of their CMD_IDs (R636). -/
def cmdBefore (b a : BitVec 32) : Bool := decide (toS 27 ((b - a).toNat % 2 ^ 27) < 0)

/-- FENCE_COMMAND (R619): it commits once every earlier command of its context is committed or answered; an Admit's waybill is, once it
is neither FILED nor RUNNING. -/
def execFenceCommand (cid : Nat) (s : State) : Host.Outcome State Fault Refusal :=
  match s.ctl? cid 0x04 with
  | none => .next s
  | some (c, _) =>
    let busy := s.stk.cmds.any fun p => decide (p.1 < cid) && p.2.waybill.isNone && p.2.ctx == c.ctx && opKind p.2.opcode != some 4
    let open_ := s.ldg.wb.any fun p => p.2.ctx == c.ctx && (p.2.st == .filed || p.2.st == .running) && cmdBefore p.2.cmdId c.cmdId &&
      !(p.2.stream.isStream && decide (0 < p.2.stream.stepNum))
    if busy || open_ then .next s else .next ((s.commitCtl cid c).dispatchHeld c.ctx)

/-- CLEAR_NUMERIC_STATUS (R162): the clear reaches the record in commit order, before the counter advances. -/
def execClearNumericStatus (cid : Nat) (s : State) : Host.Outcome State Fault Refusal :=
  match s.ctl? cid 0x05 with
  | none => .next s
  | some (c, _) => .next (((s.countCommit c).pushAnswer { cmdAnswer c 0 0 with nsrClear := true, tick := s.tck.num }).eraseCmd cid)

end Sys2Proof.Machine
end

