-- ==== Sys2Proof/Machine/Ledger.lean ====
section
/-!
DEFINITION. Commits and answers: the commit of a waybill with its wide re-runs, stream report and capture record (R112, R122 to R128,
R166 to R168, R510 to R514), commands outside waybills (R548), completion records and numeric status (R160 to R162, R677 to R683),
stream successors (R511 to R513), and the Ledger's own faults (R117 to R121, R113).
-/
namespace Sys2Proof.Machine

/-! ### Streams and capture at a commit -/

/-- The step report of a stream step: tokens produced, END, and whether it was valid (R509, R510). -/
def State.stepReport (s : State) (i : Nat) (w : Waybill) : Nat × Bool × Bool :=
  let r := (s.readSet (some i, 0) w.fn w.tset w.stream.kvAddr.toNat 64).getD (List.replicate 64 0)
  let lim := min w.stream.perStep (w.stream.maxTokens - w.stream.tokensDone)
  let ok := decide (fld r 0 4 ≤ lim) && zeroIn r 5 59
  (if ok then fld r 0 4 else lim, bit (fld r 4 1) 0, ok)

/-- END_CAUSE of a committed step; 0 means that the stream goes on (R512, R514). -/
def endCauseOf (w : Waybill) (produced : Nat) (ended : Bool) : Nat :=
  if ended then 1 else if w.stream.tokensDone + produced = w.stream.maxTokens then 2 else if w.abandonReq then 3 else 0

/-- The bytes of a capture record (R123 to R125). -/
def captureBytes (w : Waybill) (handle outcome tick : Nat) (input : List Byte) : List Byte :=
  let tables := w.runVersions.flatMap fun v => toLe 2 v.1 ++ toLe 6 v.2
  let pad (bs : List Byte) : List Byte := padTo (64 * ceilDiv bs.length 64) bs
  let body := pad tables ++ pad input
  toLe 4 (64 + body.length) ++ toLe 2 1 ++ toLe 1 (outcome % 16 + 128) ++
  toLe 1 (w.cls % 4 + b2n (decide (input.length < w.inputLen)) * 4 + w.killCount % 16 * 16) ++ toLe 8 tick ++ toLe 8 w.userTag.toNat ++
  toLe 4 handle ++ toLe 2 w.ctx ++ toLe 2 w.runVersions.length ++ toLe 8 w.runKey.toNat ++ toLe 4 w.recipe ++ toLe 4 w.itemsM1 ++
  toLe 4 input.length ++ toLe 4 w.deadlineUs ++ toLe 8 w.filedTick.toNat ++ body

/-- A record of n units of 64 bytes at a ring place meets the data between TAIL and HEAD (R127). -/
def captureHits (start n tail head size : Nat) : Bool :=
  tail != head &&
  (if tail < head then decide (start < head ∧ tail < start + n) else decide (start < head ∨ tail < min (start + n) size))

/-- Write the units of a record, each poisoned as its source was (R126, R768). -/
def State.writeUnits (s : State) (a : Nat) (bs : List Byte) (bad : List Nat) : Nat → State
  | 0 => s
  | k + 1 =>
    let i := bs.length / 64 - (k + 1)
    (s.writeThrough { space := .stack, addr := a + 64 * i } ((bs.drop (64 * i)).take 64) (bad.contains i)).writeUnits a bs bad k

/-- Write the capture record of a committing waybill (R122, R126, R127). -/
def State.capture (s : State) (i : Nat) (w : Waybill) (outcome : Nat) : State :=
  if !s.ldg.capEn || !(w.capture || s.ldg.capAll) then s
  else
    let n := min w.inputLen 1048576
    let input := (s.readSet (some i, 0) w.fn w.tset w.inputAddr.toNat n).getD (List.replicate n 0)
    let bs := captureBytes w (s.handle i) outcome s.tck.num.toNat input
    let first := 1 + ceilDiv (8 * w.runVersions.length) 64
    let bad := ((List.range (ceilDiv n 64)).filter fun k =>
      s.poisonSet (some i, 0) w.fn w.tset (w.inputAddr.toNat + 64 * k) (min 64 (n - 64 * k))).map (· + first)
    let size := 2 ^ (s.ldg.capLog2 - 6)
    let units := bs.length / 64
    let start := if size < s.ldg.capHead + units then 0 else s.ldg.capHead
    let next := (start + units) % size
    if s.ldg.capStop && (captureHits start units s.ldg.capTail s.ldg.capHead size || next == s.ldg.capTail) then
      s.mLdg fun l => { l with capDrops := l.capDrops + 1 }
    else (s.writeUnits (s.ldg.capBase.toNat + 64 * start) bs bad units).mLdg fun l => { l with capHead := next }

/-! ### The commit of a waybill -/

/-- The first command whose clip count asks for a wide re-run (R166). -/
def State.wideOf (s : State) (i : Nat) (r : Recipe) : Option (Nat × Cmd) :=
  (s.cmdsOf i).find? fun p => p.2.st == .finished && !p.2.failed && wideDue (r.cmds.getD p.2.idx {}) p.2

/-- Run a command once more, wide (R167, R168). -/
def State.wideRerun (s : State) (cid : Nat) : State := (s.dropWork cid).mCmd cid fun c => { c.again with wide := true }

/-- What a commit does to the tables: a replay's changes are discarded (R816). -/
def State.commitWork (s : State) (w : Waybill) (p : Nat × Cmd) : State :=
  if w.replay.isSome then s.dropWork p.1 else s.commitTables p.1 p.2

/-- The answer of a committed waybill (R113, R158, R161, R168, R514, R679). -/
def commitAnswer (w : Waybill) (i handle outcome produced cause : Nat) (tick : BitVec 64) (cs : List Cmd) : Answer :=
  { ctx := w.ctx, fn := w.fn, cmdId := w.cmdId, outcome := outcome, kills := w.killCount
    flags := b2n (cs.any (·.defaulted)) + b2n (w.mixed || cs.any (·.mixed)) * 2 + b2n (cs.any (·.wide)) * 4 + b2n w.foc * 8 +
      b2n w.stream.isStream * 16
    endCause := cause, handle := BitVec.ofNat 32 handle, userTag := w.userTag
    tokensDone := if w.stream.isStream then w.stream.tokensDone + produced else 0, waybill := some i
    nsrFlags := cs.foldl (fun f c => f ||| c.flags) 0
    nsrNf := (cs.find? (·.nf.isSome)).bind fun c => c.nf.map fun n => (c.idx, n)
    nsrWide := (cs.filter (·.wide)).length, tick := tick }

/-- Commit a waybill: report, tables, provisional copies, capture, and the answer (R112, R122, R510, R539). -/
def State.commitWb (s : State) (i : Nat) (w : Waybill) : State :=
  let rep := s.stepReport i w
  let s := if w.stream.isStream && !rep.2.2 then s.raise { code := 0x208, ctx := some w.ctx, cmdId := w.cmdId } else s
  let s := (s.cmdsOf i).foldl (fun s p => s.commitWork w p) s
  let cs := (s.cmdsOf i).map (·.2)
  let outcome := if w.killCount = 0 then 0 else 1
  let produced := if w.stream.isStream then rep.1 else 0
  let cause := if w.stream.isStream then endCauseOf w produced rep.2.1 else 0
  let s := (cs.foldl State.countCommit s).commitUnit (some i, 0) (some w.ctx)
  let s := s.capture i w outcome
  let s := s.mStk fun k => { k with cmds := k.cmds.filter fun p => p.2.waybill != some i }
  (s.mWb i fun w => { w with
    st := .committed, produced := produced, endCause := cause
    successorDue := w.stream.isStream && w.replay.isNone && cause == 0 }).pushAnswer
      (commitAnswer w i (s.handle i) outcome produced cause s.tck.num cs)

/-- WAYBILL_COMMIT (R112, R166): every command of the Recipe has finished, and none is to run wide. -/
def execWaybillCommit (wb : Nat) (s : State) : Host.Outcome State Fault Refusal :=
  if !s.live then .next s
  else match s.wb? wb with
    | none => .next s
    | some w =>
      match s.recipe? w.recipe with
      | none => .next s
      | some r =>
        if w.st != .running then .next s
        else match s.wideOf wb r with
          | some p => .next (s.wideRerun p.1)
          | none =>
            let cs := s.cmdsOf wb
            if cs.length == r.cmds.length && cs.all (fun p => p.2.st == .finished && !p.2.failed) then .next (s.commitWb wb w) else .next s

/-- COMMAND_COMMIT (R158, R539, R548): a command outside a waybill that has finished its work. -/
def execCommandCommit (cid : Nat) (s : State) : Host.Outcome State Fault Refusal :=
  if !s.live then .next s
  else match s.cmd? cid with
    | none => .next s
    | some c =>
      if c.waybill.isSome || c.st != .finished || c.failed then .next s
      else
        let s := s.commitTables cid c
        let c := (s.cmd? cid).getD c
        let s := (s.countCommit c).commitUnit (unitOf cid c) (some c.ctx)
        .next ((s.pushAnswer { cmdAnswer c 0 0 with
          nsrFlags := c.flags, nsrNf := c.nf.map fun n => (0, n), nsrWide := b2n c.wide, tick := s.tck.num }).eraseCmd cid)

/-! ### Stream successors -/

/-- A stream ends without a successor (R513, R514). -/
def State.endStream (s : State) (i cause : Nat) : State :=
  let s := s.mWb i fun w => { w with successorDue := false, endCause := cause }
  let s := s.mLdg fun l => { l with streamEnds := l.streamEnds + 1 }
  s.mStk fun k => { k with answers := k.answers.map fun a => if a.waybill == some i then { a with endCause := cause } else a }

/-- The successor of a committed step (R511). -/
def successorOf (w : Waybill) : Waybill :=
  { cls := w.cls, ctx := w.ctx, recipe := w.recipe, itemsM1 := w.itemsM1, capture := w.capture, inputAddr := w.inputAddr
    resultAddr := w.resultAddr, inputLen := w.inputLen, resultLen := w.resultLen, userTag := w.userTag, deadlineUs := w.deadlineUs
    handleAddr := w.handleAddr, cmdId := w.cmdId, fn := w.fn, foc := w.foc
    stream := { w.stream with tokensDone := w.stream.tokensDone + w.produced, stepNum := w.stream.stepNum + 1 } }

/-- STREAM_SUCCESSOR_FILE (R511, R513): `idx` is the free entry that the Ledger chooses; without room in the translation store the
filing waits. -/
def execStreamSuccessorFile (wb idx : Nat) (s : State) : Host.Outcome State Fault Refusal :=
  if !s.live then .next s
  else match s.wb? wb with
    | none => .next s
    | some w =>
      match s.ctx? w.ctx, s.recipe? w.recipe with
      | some x, some r =>
        if w.st != .committed || !w.successorDue then .next s
        else if 1048576 ≤ s.ldg.wb.length then .next (s.endStream wb 4)
        else
          let n := successorOf w
          match s.waybillSet x n r [] false with
          | .error _ => .next (s.endStream wb 5)
          | .ok set =>
            if !s.storeRoom (fnDie w.fn) set.length || (s.wb? idx).isSome || decide (1048576 ≤ idx) then .next s
            else .next (((s.countWalks (fnDie w.fn) x set).fileWb idx { n with tset := set }).mWb wb fun w => { w with successorDue := false })
      | _, _ => .next s

/-! ### Completion -/

/-- The 32 bytes of a numeric status record (R160). -/
def Nsr.bytes (n : Nsr) : List Byte :=
  toLe 4 n.seq.toNat ++ toLe 1 n.flags.toNat ++ toLe 1 n.first.out ++ toLe 1 n.cmdIdx ++ [0] ++ toLe 4 n.first.row ++ toLe 4 n.first.col ++
  toLe 8 n.tick.toNat ++ toLe 4 n.cmdId.toNat ++ toLe 4 n.wide

/-- The numeric status that an answer makes of a record; none when it is left unchanged (R161, R162, R168). -/
def Nsr.update (n : Nsr) (a : Answer) : Option Nsr :=
  if a.nsrClear then some { seq := n.seq + 1 }
  else
    let flags := n.flags ||| a.nsrFlags
    let wide := satAdd 0xFFFFFFFF n.wide a.nsrWide
    let fresh := if n.flags.getLsbD 6 then none else a.nsrNf
    if flags = n.flags ∧ wide = n.wide ∧ fresh.isNone then none
    else
      let n := { n with seq := n.seq + 1, flags := flags, wide := wide }
      match fresh with
      | none => some n
      | some (idx, p) => some { n with first := p, cmdIdx := idx, tick := a.tick, cmdId := a.cmdId }

/-- A record of the context could not be written (R683). -/
def State.recordLost (s : State) (ctx : Nat) (x : Ctx) (cmdId : BitVec 32) : State :=
  let s := s.mFn x.fn fun f => { f with
    recordsLost := f.recordsLost + 1, slots := mapAdj f.slots x.slot fun l => { l with recordLost := true } }
  s.raise { code := 0x10A, ctx := some ctx, cmdId := cmdId }

/-- Write a record of a context through the merging path, or report it lost (R678, R683). -/
def State.writeRecord (s : State) (ctx : Nat) (x : Ctx) (da : Nat) (cmdId : BitVec 32) (rec : List Byte) : State :=
  match s.ctxWrite (fnDie x.fn) x da rec with
  | some s => s
  | none => s.recordLost ctx x cmdId

/-- The 32 bytes of a completion record (R679). -/
def Answer.bytes (a : Answer) (seq : Nat) : List Byte :=
  toLe 4 a.cmdId.toNat ++ toLe 1 (a.outcome % 16 + a.kills % 16 * 16) ++ toLe 1 a.flags ++ toLe 1 a.endCause ++ [0] ++
  toLe 4 a.handle.toNat ++ toLe 2 a.fault ++ [0, 0] ++ toLe 8 a.userTag.toNat ++ toLe 4 a.tokensDone ++ toLe 4 seq

/-- The numeric status record of a context before its counter advances (R161). -/
def State.nsrStep (s : State) (ctx : Nat) (x : Ctx) (a : Answer) : State :=
  match x.nsr.update a with
  | none => s
  | some n =>
    (s.mStk fun k => { k with ctxs := mapAdj k.ctxs ctx fun x => { x with nsr := n } }).writeRecord ctx x x.nsrAddr.toNat a.cmdId n.bytes

/-- Record an answer and advance the counter by one (R113, R677, R678, R802). -/
def State.complete (s : State) (ctx : Nat) (x : Ctx) (a : Answer) : State :=
  let s := s.mStk fun k => { k with answers := k.answers.erase a }
  let s := s.nsrStep ctx x a
  let c := ((mapGet (s.fn x.fn).slots x.slot).map (·.count)).getD 0
  let s := s.writeRecord ctx x (x.cplAddr.toNat + 32 * (c.toNat % 2 ^ x.cplLog2)) a.cmdId (a.bytes (c + 1).toNat)
  let s := s.mFn x.fn fun f => { f with slots := mapAdj f.slots x.slot fun l => { l with count := c + 1 } }
  let s := s.trace 5 (fnDie x.fn) (some ctx) a.cmdId (a.handle.toNat + a.outcome % 256 * 2 ^ 32 + a.flags % 256 * 2 ^ 40)
  match a.waybill with
  | none => s
  | some i => s.freeWb i

/-- COMPLETION_COUNTER_ADVANCE (R677, R678, R681): the first answer of a context; a stream step's waits for its successor (R513). -/
def execCompletionCounterAdvance (ctx : Nat) (s : State) : Host.Outcome State Fault Refusal :=
  match s.stk.answers.find? (·.ctx == ctx), s.ctx? ctx with
  | some a, some x =>
    let waits := match a.waybill with | none => false | some i => ((s.wb? i).map (·.successorDue)).getD false
    if !s.live || x.dead || waits then .next s else .next (s.complete ctx x a)
  | _, _ => .next s

/-! ### Draining, loss and the Ledger's faults -/

/-- WAYBILL_DRAIN_COMPLETE (R113, R116): a DRAINING waybill's engines and writes are released. -/
def execWaybillDrainComplete (wb : Nat) (s : State) : Host.Outcome State Fault Refusal :=
  match s.wb? wb with
  | none => .next s
  | some w => if s.live && w.st == .draining then .next (s.freeWb wb) else .next s

/-- EXTENSION_READ_POISON (R113, R514): the waybill is lost; running work is killed, and a DRAINING one stays so. -/
def execExtensionReadPoison (wb : Nat) (s : State) : Host.Outcome State Fault Refusal :=
  match s.wb? wb with
  | none => .next s
  | some w =>
    if !s.live || w.st == .draining then .next s
    else
      let s := s.raise { code := 0x205, ctx := some w.ctx, cmdId := w.cmdId }
      let s := s.killRun wb 2
      let s := s.mStk fun k => { k with answers := k.answers.filter fun a => a.waybill != some wb }
      .next ((s.mWb wb fun w => { w with successorDue := false }).answerWb wb w 8 6 0)

/-- LEDGER_ENTRY_ECC_ERROR (R118 to R120): each copy is clean (0), corrected (1) or uncorrectable (2 or more). -/
def execLedgerEntryEccError (idx copyA copyB : Nat) (s : State) : Host.Outcome State Fault Refusal :=
  if !s.live || decide (1048576 ≤ idx) then .next s
  else
    let s := s.mLdg fun l => { l with eccCorrected := satAdd 0xFFFF l.eccCorrected ((if copyA = 1 then 1 else 0) + (if copyB = 1 then 1 else 0)) }
    if 2 ≤ copyA ∧ 2 ≤ copyB then .next (s.raise { code := 0x203 })
    else if 2 ≤ copyA ∨ 2 ≤ copyB then
      .next ((s.mLdg fun l => { l with eccRepaired := satAdd 0xFFFF l.eccRepaired 1 }).raise { code := 0x202 })
    else .next s

/-- LEDGER_LOCKSTEP_MISMATCH (R117, R121). -/
def execLedgerLockstepMismatch (s : State) : Host.Outcome State Fault Refusal :=
  if s.live then .next (s.raise { code := 0x201 }) else .next s

/-- CAPTURE_CONFIG (R129): a write of LDG_CAP_CFG by function 0; MODE and ALL take it only while EN is 0. -/
def execCaptureConfig (fn v : Nat) (s : State) : Host.Outcome State Fault Refusal :=
  if !s.live || fn != 0 || s.img.bx3 then .next s
  else .next (s.mLdg fun l =>
    if l.capEn then { l with capEn := bit v 0 }
    else { l with capEn := bit v 0, capStop := bit v 1, capAll := bit v 2, capHead := if bit v 0 then 0 else l.capHead })

end Sys2Proof.Machine
end

