-- ==== Sys2Proof/Machine/Tick.lean ====
section
/-!
DEFINITION. The tick frame and the follower (R77 to R87, R701): one frame's tests, locking, phase correction, holdover.
-/
namespace Sys2Proof.Machine

/-- The fields of a tick frame that its CRC covers: NUM, HOLDOVER, SOURCE_LOST and six zeros (R77). -/
def tickBody (num : Nat) (holdover lost : Bool) : Nat := num % 2 ^ 64 * 256 + b2n holdover * 128 + b2n lost * 64

/-- The 96 bits of a tick frame, the first bit sent most significant (R77). -/
def tickFrame (num : Nat) (holdover lost : Bool) : BitVec 96 :=
  let b := tickBody num holdover lost
  BitVec.ofNat 96 (0xD5 * 2 ^ 88 + b * 2 ^ 16 + (crc16 72 b).toNat)

/-- A frame's sync and its CRC are correct (R78). -/
def frameSync (f : Nat) : Bool := f / 2 ^ 88 % 256 == 0xD5
/-- The CRC of a frame is correct. -/
def frameCrc (f : Nat) : Bool := (crc16 72 (f / 2 ^ 16 % 2 ^ 72)).toNat == f % 2 ^ 16
/-- NUM of a frame. -/
def frameNum (f : Nat) : Nat := f / 2 ^ 24 % 2 ^ 64

/-- Time in ns of the model's clock. -/
def State.nowNs (s : State) : Nat := s.time * 5 / 6

/-- The device follows a source (R42). -/
def TickUnit.follower (t : TickUnit) : Bool := t.source == 1 || t.source == 2

/-- Distance of two numbers. -/
def distNat (a b : Nat) : Nat := (a - b) + (b - a)

/-- The reference edge a follower predicts next; each frame missed moves it by T (R79, assumption 25). -/
def State.predicted (s : State) (last : Nat) : Nat := last + (s.tck.missed + 1) * s.periodNs

/-- A measured phase error: this device's boundary less the place that the edge gives it; positive when the boundary was
late (R80, R81). -/
def State.phaseError (s : State) (edge : Nat) : Int :=
  let here : Int := (s.nowNs : Int) - (s.nsInTick : Int)
  let d := here - ((edge : Int) - (s.tck.compNs.toNat : Int))
  if (s.periodNs : Int) < 2 * -d then d + s.periodNs else d

/-- The mean of 1,024 intervals differs from T by more than 0.1 % (R78). -/
def State.meanBad (s : State) (l : List Nat) : Bool :=
  decide (l.length = 1024 ∧ 1024 * s.periodNs < 1000 * distNat l.sum (1024 * s.periodNs))

/-- What NUM of a valid frame does (R85, R86). -/
def State.takeNum (s : State) (num : Nat) : State :=
  if s.tck.loadPending then
    if s.tck.num.toNat < num then s.mTck fun t => { t with num := BitVec.ofNat 64 num, loadPending := false }
    else s.mTck fun t => { t with loadPending := false, numMismatch := true }
  else if s.dev == .service && s.tck.num.toNat != num then
    let s' := s.mTck fun t => { t with numMismatch := true, mismatchRun := true }
    if s.tck.mismatchRun then s' else s'.raise { code := 0x242 }
  else s.mTck fun t => { t with mismatchRun := false }

/-- A period mismatch (R78). -/
def State.periodBad (s : State) : State := (s.mTck fun t => { t with periodMismatch := true }).raise { code := 0x244 }

/-- A frame that is not valid breaks a run of valid ones. -/
def State.badFrame (s : State) : State := s.mTck fun t => { t with goodRun := 0, missed := t.missed + 1 }

/-- A valid frame: lock after four, leave holdover by that rule, measure and correct (R80, R81, R84). -/
def State.goodFrame (s : State) (num edge : Nat) : State :=
  let t := s.tck
  let ivs := match t.lastEdge with | none => [] | some l => ((edge - l) :: t.intervals).take 1024
  let run := t.goodRun + 1
  let locked := t.locked || decide (4 ≤ run)
  let err := s.phaseError edge
  let lim : Int := (s.periodNs / 200 : Nat)
  let s := s.mTck fun t => { t with
    lastEdge := some edge, missed := 0, goodRun := run, intervals := ivs, locked := locked
    holdover := t.holdover && !locked, sourceLost := t.sourceLost && !locked
    phaseErr := BitVec.ofInt 16 (satS 16 err)
    correction := if locked then max (-lim) (min lim (-err)) else 0 }
  let s := s.takeNum num
  if s.meanBad ivs then s.periodBad else s

/-- A follower receives a frame's content at a reference edge (R78, R79). -/
def State.follow (s : State) (sync crc : Bool) (num edge : Nat) : State :=
  if !s.live || !s.tck.follower then s
  else
    let s := if sync && !crc then s.mTck fun t => { t with crcErrors := satAdd 255 t.crcErrors 1 } else s
    if !(sync && crc) then s.badFrame
    else match s.tck.lastEdge with
      | none => s.goodFrame num edge
      | some l =>
        let window := decide (distNat edge (s.predicted l) ≤ 1000)
        let interval := decide (distNat (edge - l) s.periodNs ≤ s.periodNs / 200 + 1000)
        if window && interval then s.goodFrame num edge
        else if window then s.badFrame.periodBad
        else s.badFrame

/-- TICK_FRAME_RECEIVE (R78): a frame on TICK_IN; `edge` is its reference edge in ns. -/
def execTickFrameReceive (frame edge : Nat) (s : State) : Host.Outcome State Fault Refusal :=
  if s.tck.source = 1 then .next (s.follow (frameSync frame) (frameCrc frame) (frameNum frame) edge) else .next s

/-- HOLDOVER_ENTRY (R82): two expected frames missing or invalid, or the designated Route port quarantined. -/
def execHoldoverEntry (s : State) : Host.Outcome State Fault Refusal :=
  if s.live && s.tck.follower && !s.tck.holdover then
    .next ((s.mTck fun t => { t with
      holdover := true, sourceLost := true, locked := false, goodRun := 0, missed := 0, lastEdge := none, holdoverTicks := 0
      expiryRaised := false, correction := 0, intervals := [] }).raise { code := 0x240 })
  else .next s

/-- HOLDOVER_EXPIRED (R83): 4,096 consecutive ticks in holdover, once. -/
def execHoldoverExpired (s : State) : Host.Outcome State Fault Refusal :=
  if s.live && s.tck.holdover && decide (4096 ≤ s.tck.holdoverTicks) && !s.tck.expiryRaised then
    .next ((s.mTck fun t => { t with holdoverExpired := true, expiryRaised := true }).raise { code := 0x243 })
  else .next s

/-- The tick frame a device sends at a boundary (R77). -/
def State.sendTickFrame (s : State) : State :=
  if s.tck.outEn then s.mTck fun t => { t with framesOut := tickFrame t.num.toNat t.holdover t.sourceLost :: t.framesOut } else s

/-- The content of a CONTROL TICK frame's payload (R700): NUM, HOLDOVER and SOURCE_LOST. -/
def State.tickBodyNow (s : State) : Nat := tickBody s.tck.num.toNat s.tck.holdover s.tck.sourceLost

end Sys2Proof.Machine
end

