-- ==== Sys2Proof/Machine/Route.lean ====
section
/-!
DEFINITION. Route ports (R693 to R721): bring-up, authentication, key updates, lanes, and the frames a port receives with
the checks of R719 and R721.
-/
namespace Sys2Proof.Machine

/-- The ports work: the part is in Kindling, Service or Banked (R704). -/
def State.routesOn (s : State) : Bool := s.dev == .kindling || s.live

/-! ### Lanes (R696 to R698) -/

/-- The lanes 0 to 7. -/
def fullLanes : BitVec 9 := 0xFF

/-- The n lowest lanes of a set. -/
def lowLanes (set : BitVec 9) (n : Nat) : BitVec 9 :=
  BitVec.ofNat 9 ((((List.range 9).filter fun i => set.getLsbD i).take n).map (2 ^ ·)).sum

/-- The lanes that training chooses from those that failed: a failed lane is replaced by the spare (R705). -/
def trainLanes (spare : Bool) (failed : Nat) : BitVec 9 :=
  let good := fullLanes &&& ~~~ BitVec.ofNat 9 failed
  if spare && !bit failed 8 && popCount 8 failed = 1 then good ||| 0x100 else good

/-- A sparing-log entry for a lane of a port and its fault (R786, R789). -/
def State.laneSpared (s : State) (p lane : Nat) (dst : Option Nat) (code : Nat) : State :=
  let toLoc := dst.getD 0xFFFFFFFF
  (s.spare { resource := 4, action := if dst.isSome then 0 else 2, inst := p, fromLoc := lane, toLoc := toLoc, code := code }).raise
    { code := code, detail := s.detPort p 0 0xFF lane 0 0 }

/-- A lane set with a lane moved to the spare. -/
def swapLane (set : BitVec 9) (lane : Nat) : BitVec 9 := (set &&& ~~~ BitVec.ofNat 9 (2 ^ lane)) ||| 0x100

/-- The port runs both directions on four good lanes (R698). -/
def RPort.halve (q : RPort) (rxBad txBad : Nat) : RPort := { q with
  half := true
  rxLanes := lowLanes (q.rxLanes &&& ~~~ BitVec.ofNat 9 rxBad) 4
  txLanes := lowLanes (q.txLanes &&& ~~~ BitVec.ofNat 9 txBad) 4 }

/-- The payload of a CONTROL frame: its subtype in byte 0 (R717). -/
def controlFrame (subtype : Nat) (rest : List Byte) : Frame := { type := 7, payload := padTo 32 (toLe 1 subtype ++ rest) }

/-- ROUTE_LANE_FAIL (R697, R698): a receive lane of an UP port fails. -/
def execRouteLaneFail (port lane : Nat) (s : State) : Host.Outcome State Fault Refusal :=
  let q := s.port port
  let pol := s.routePolicy port
  if !s.routesOn || q.st != .up || !q.rxLanes.getLsbD lane then .next s
  else if pol.sparePresent && !q.rxLanes.getLsbD 8 && lane != 8 && !q.half then
    let s := (s.mPort port fun q => { q with rxLanes := swapLane q.rxLanes lane }).mPortCnt port fun c => { c with laneSwaps := c.laneSwaps + 1 }
    .next ((s.sendFrame port (controlFrame 3 (toLe 1 lane))).laneSpared port lane (some 8) 0x801)
  else if pol.allowHalf && !q.half then .next ((s.mPort port fun q => q.halve (2 ^ lane) 0).laneSpared port lane none 0x802)
  else .next (s.suspect port)

/-! ### Bring-up (R705 to R713) -/

/-- The port enters UP: channels and credit start anew, the link delay is kept, and a tick source takes it (R701, R713, R716, R720). -/
def State.enterUp (s : State) (p : Nat) : State :=
  let s := s.mPort p fun q => { q with
    st := .up, stage := 0, attempts := 0, chans := [], dataSent := 0, creditGot := 0, dataGot := 0, dataFreed := 0, silent := 0, gotFrame := true
    burst := [], encrypted := (s.routePolicy p).encRequired && q.partnerEnc, rekeying := false, keyTx := 0, keyRx := 0
    delayNs := BitVec.ofNat 16 ((q.rtt + 1) / 2) }
  if s.routeSource p then s.mTck fun t => { t with compNs := (s.port p).delayNs } else s

/-- A bring-up that fails otherwise than by a check: a port in recovery tries again, at most three times within 2 s, and is then
quarantined; another port stays DOWN (R705, R713). -/
def State.bringupFailed (s : State) (p : Nat) : State :=
  let q := s.port p
  if q.st == .suspect then
    let n := q.attempts + 1
    if 3 ≤ n ∨ q.suspectAt + 2 * cyclesPerS ≤ s.time then s.quarantine p 6
    else s.mPort p fun q => { q with attempts := n, stage := 0 }
  else s.mPort p fun q => { q with st := .down, stage := 0 }

/-- ROUTE_TRAINING_START (R705). -/
def execRouteTrainingStart (port : Nat) (s : State) : Host.Outcome State Fault Refusal :=
  let q := s.port port
  if s.routesOn && (s.routePolicy port).enable && (q.st == .down || q.st == .suspect) && q.stage == 0 && decide (port < 8) then
    .next (s.mPort port fun q => { q with stage := 1, rxLanes := 0, txLanes := 0, half := false })
  else .next s

/-- ROUTE_TRAINING_COMPLETE (R705): `rxBad` and `txBad` are the lanes that failed in each direction. -/
def execRouteTrainingComplete (port rxBad txBad : Nat) (s : State) : Host.Outcome State Fault Refusal :=
  let q := s.port port
  let pol := s.routePolicy port
  let rx := trainLanes pol.sparePresent rxBad
  let tx := trainLanes pol.sparePresent txBad
  if !s.routesOn || q.stage != 1 then .next s
  else if popCount 9 rx.toNat = 8 ∧ popCount 9 tx.toNat = 8 then .next (s.mPort port fun q => { q with stage := 2, rxLanes := rx, txLanes := tx })
  else if pol.allowHalf && decide (4 ≤ popCount 9 rx.toNat ∧ 4 ≤ popCount 9 tx.toNat) then
    .next ((s.mPort port fun q => { q with stage := 2, half := true, rxLanes := lowLanes rx 4, txLanes := lowLanes tx 4 }).raise
      { code := 0x802, detail := s.detPort port 0 0xFF 0xFF 0 0 })
  else .next (s.bringupFailed port)

/-- A HELLO frame: serial, nonce, ENC setting and the partner's echo (R705; the layout of its payload is not given, assumption 31). -/
def State.helloFrame (s : State) (port nonce : Nat) : Frame :=
  { type := 8, payload := padTo 32 (toLe 8 s.fuses.serial.toNat ++ toLe 8 nonce ++ toLe 1 (b2n (s.routePolicy port).encRequired)) }

/-- FEC_LOCK (R713): DOWN to AUTH; both directions number frames from 0 and HELLO is sent with a nonce (R705, R719). -/
def execFecLock (port nonce : Nat) (s : State) : Host.Outcome State Fault Refusal :=
  let q := s.port port
  if !s.routesOn || q.stage != 2 then .next s
  else
    let s := s.mPort port fun q => { q with
      st := if q.st == .suspect then .suspect else .auth, stage := 3, txLseq := 0, rxLseq := 0, sent := [], nonce := BitVec.ofNat 64 nonce }
    .next (s.sendFrame port (s.helloFrame port nonce))

/-- ROUTE_BRINGUP_TIMEOUT (R705): a step was not done by its time; the authentication step counts as a failed check (assumption 31). -/
def execRouteBringupTimeout (port : Nat) (s : State) : Host.Outcome State Fault Refusal :=
  let q := s.port port
  if !s.routesOn || q.stage == 0 then .next s
  else if q.stage == 4 && q.st == .auth then .next (s.quarantine port 1)
  else .next (s.bringupFailed port)

/-- QUARANTINE_HOLD_END (R715). -/
def execQuarantineHoldEnd (port : Nat) (s : State) : Host.Outcome State Fault Refusal :=
  let q := s.port port
  if s.routesOn && q.st == .quarantined && q.holdEnd.isSome then
    .next (s.mPort port fun q => { q with st := .down, stage := 0, holdEnd := none })
  else .next s

/-! ### Frames received (R719, R721) -/

/-- Reserved fields are 0 and the type and length are as R717 and R721 require. -/
def frameOk (f : Frame) : Bool :=
  decide (1 ≤ f.type ∧ f.type ≤ 9 ∧ f.channel < 16) && f.rsv == 0 && f.payload.length % 32 == 0 && decide (f.payload.length ≤ 2048) &&
  (!(2 ≤ f.type && f.type ≤ 6) || f.payload.isEmpty) && (f.type != 7 || decide (f.payload.length ≤ 32))

/-- NAK names the LSEQ expected (R719). -/
def State.sendNak (s : State) (p : Nat) : State := s.sendFrame p { type := 6, arg := (s.port p).rxLseq.setWidth 32 }

/-- The link acceptance of a frame: the next LSEQ with a trailer that passes (R719); more than 1,024 trailer failures within one tick send an
UP port SUSPECT (R713). -/
def State.linkAccept (s : State) (p : Nat) (f : Frame) (trailer : Bool) : State × Bool :=
  let q := s.port p
  if !trailer then
    let s := (s.mPort p fun q => { q with trailerTick := q.trailerTick + 1 }).mPortCnt p fun c => { c with trailerFails := c.trailerFails + 1 }
    (if q.st == .up && decide (1024 < q.trailerTick + 1) then s.suspect p else s.sendNak p, false)
  else if q.rxLseq < f.lseq then (s.sendNak p, false)
  else if f.lseq < q.rxLseq then (s.mPortCnt p fun c => { c with replays := c.replays + 1 }, false)
  else
    ((s.mPort p fun q => { q with rxLseq := q.rxLseq + 1, gotFrame := true, keyRx := q.keyRx + 1 }).mPortCnt p
      fun c => { c with rxBytes := c.rxBytes + BitVec.ofNat 64 f.payload.length }, true)

/-- Frames that are not DATA arrive too fast: more than 64 within 1 µs (R721). -/
def State.burstCheck (s : State) (p : Nat) (f : Frame) : State × Bool :=
  if f.type = 1 then (s, true)
  else
    let b := (s.time :: ((s.port p).burst.filter fun t => decide (s.time < t + 1200))).take 65
    (s.mPort p fun q => { q with burst := b }, decide (b.length ≤ 64))

/-- A frame arrives on an UP port: the acceptance of R719 and the first checks of R721, then what its type does. -/
def State.rxUp (s : State) (p : Nat) (f : Frame) (trailer : Bool) (act : State → State) : State :=
  if !s.routesOn || (s.port p).st != .up then s
  else
    let r := s.linkAccept p f trailer
    if !r.2 then r.1
    else
      let b := r.1.burstCheck p f
      if !frameOk f || !b.2 then b.1.quarantine p 4 else act b.1

/-- A frame names a sequence number below its channel's (R721, R724). -/
def Chan.below (c : Chan) (f : Frame) : Bool := decide (f.epoch < c.epoch ∨ (f.epoch = c.epoch ∧ f.seq < c.nextSeq))

/-- A frame names the sequence number the channel expects next: NEXT_SEQ, or 0 in a higher epoch. -/
def Chan.atNext (c : Chan) (f : Frame) : Bool := if f.epoch = c.epoch then f.seq == c.nextSeq else f.seq == 0

/-- The channel of a frame. -/
def State.chanOf (s : State) (p : Nat) (f : Frame) : Chan := (s.port p).chan f.channel

/-- DATA (R719 to R722, R726, R739, R742); a frame of no valid type is taken here and quarantined. -/
def execDataFrame (port : Nat) (f : Frame) (trailer : Bool) (s : State) : Host.Outcome State Fault Refusal :=
  if 2 ≤ f.type ∧ f.type ≤ 9 then .next s
  else .next (s.rxUp port f trailer fun s =>
    let q := s.port port
    if 256 ≤ (q.dataGot - q.dataFreed).toNat then s.quarantine port 5
    else
      let s := s.mPort port fun q => { q with dataGot := q.dataGot + 1 }
      let ch := s.chanOf port f
      if ch.below f then (s.stale port).freeData port 1
      else if ch.orphan == some f.seq && f.epoch == ch.epoch then s.freeData port 1
      else match s.current? port f with
        | some (o, l) => if l.doneGot then (s.stale port).freeData port 1 else s.takeData port o l f
        | none =>
          match ch.heldStart with
          | some h =>
            if h.epoch == f.epoch && h.seq == f.seq then s.mChan port f.channel fun c => { c with heldData := c.heldData ++ [f] }
            else (s.stale port).freeData port 1
          | none => (s.stale port).freeData port 1)

/-- START (R721, R726, R727). -/
def execStartFrame (port : Nat) (f : Frame) (trailer : Bool) (s : State) : Host.Outcome State Fault Refusal :=
  if f.type ≠ 2 then .next s
  else .next (s.rxUp port f trailer fun s =>
    let ch := s.chanOf port f
    if ch.below f then s.stale port
    else if !ch.atNext f || ch.heldStart.isSome then s.quarantine port 4
    else match s.current? port f with
      | some (o, l) => if l.total.isSome then s.stale port else s.meetStart port o l f
      | none => if ch.orphan == some f.seq && f.epoch == ch.epoch then s else s.mChan port f.channel fun c => { c with heldStart := some f })

/-- DONE (R721, R728). -/
def execDoneFrame (port : Nat) (f : Frame) (trailer : Bool) (s : State) : Host.Outcome State Fault Refusal :=
  if f.type ≠ 3 then .next s
  else .next (s.rxUp port f trailer fun s =>
    let ch := s.chanOf port f
    if ch.below f then s.stale port
    else if ch.orphan == some f.seq && f.epoch == ch.epoch then s.mChan port f.channel fun c => { c with orphan := none, nextSeq := f.seq + 1 }
    else match s.current? port f with
      | none => s.stale port
      | some (o, l) =>
        if l.doneGot then s.stale port
        else if l.total ≠ some l.got then s.quarantine port 4
        else
          let s := s.mLink o.cid port fun l => { l with doneGot := true }
          let s := if l.doneSent then s.linkDone o l else s
          s.advanceOp o.cid)

/-- An operation aborted by a partner: it leaves every link, and starts again or fails by the reason (R730). -/
def State.aborted (s : State) (p : Nat) (o : ROp) (kill : Bool) : State :=
  let s := o.links.foldl (fun s l =>
    let s := if l.doneSent || l.port == p then s else s.sendAbort o l (if kill then 1 else 3)
    if l.doneSent && l.doneGot then s else s.mChan l.port o.channel fun c => { c with nextSeq := l.seq + 1 }) s
  if kill then
    s.mRop o.cid fun o => { o with started := false, first := true, step := 0, links := o.links.map fun l =>
      { l with sent := 0, got := 0, data := [], queue := [], total := none, doneSent := false, doneGot := false, stalled := false } }
  else (s.mRoutes fun r => { r with ops := r.ops.filter (·.cid != o.cid) }).mCmd o.cid fun c => { c with failed := true }

/-- ABORT (R721, R730): of the current operation, of a kept link, or of a START still held. -/
def execAbortFrame (port : Nat) (f : Frame) (trailer : Bool) (s : State) : Host.Outcome State Fault Refusal :=
  if f.type ≠ 4 then .next s
  else .next (s.rxUp port f trailer fun s =>
    let s := s.mPortCnt port fun c => { c with abortsRx := c.abortsRx + 1 }
    let ch := s.chanOf port f
    if ch.below f then s.stale port
    else if ch.orphan == some f.seq && f.epoch == ch.epoch then s.mChan port f.channel fun c => { c with orphan := none, nextSeq := f.seq + 1 }
    else match s.current? port f with
      | some (o, l) => if l.doneGot then s.stale port else
          let s := if l.doneSent then s else s.sendAbort o l (if f.arg.toNat = 1 then 1 else 3)
          s.aborted port o (f.arg.toNat == 1)
      | none =>
        match ch.heldStart with
        | some h =>
          if h.epoch == f.epoch && h.seq == f.seq then
            (s.mChan port f.channel fun c => { c with heldStart := none, heldData := [], epoch := f.epoch, nextSeq := f.seq + 1 }).freeData port ch.heldData.length
          else s.stale port
        | none => s.stale port)

/-- CREDIT (R720, R721): a count that decreases or exceeds the frames sent is a quarantine. -/
def execCreditFrame (port : Nat) (f : Frame) (trailer : Bool) (s : State) : Host.Outcome State Fault Refusal :=
  if f.type ≠ 5 then .next s
  else .next (s.rxUp port f trailer fun s =>
    let q := s.port port
    if (q.dataSent - q.creditGot).toNat < (f.arg - q.creditGot).toNat then s.quarantine port 5
    else
      let s := s.mPort port fun q => { q with creditGot := f.arg }
      (s.routes.ops.filter fun o => (o.link? port).isSome).foldl (fun s o => s.runOp o.cid) s)

/-- Resend the kept frames from a named LSEQ on (R719). -/
def RPort.resend (q : RPort) (lseq : BitVec 32) : RPort :=
  { q with outbox := (q.sent.filter fun f => decide ((f.lseq.setWidth 32 - lseq).toNat < 128)) ++ q.outbox }

/-- NAK (R719): the sender resends from the frame named. -/
def execNakFrame (port : Nat) (f : Frame) (trailer : Bool) (s : State) : Host.Outcome State Fault Refusal :=
  if f.type ≠ 6 then .next s
  else .next (s.rxUp port f trailer fun s => s.mPort port fun q => q.resend f.arg)

/-- The subtype of a CONTROL frame. -/
def ctlSubtype (f : Frame) : Nat := if f.type = 7 then (f.payload.getD 0 0).toNat else 0

/-- CONTROL_TICK (R701): `edge` is the arrival of its first byte in ns. -/
def execControlTick (port : Nat) (f : Frame) (trailer : Bool) (edge : Nat) (s : State) : Host.Outcome State Fault Refusal :=
  if ctlSubtype f ≠ 1 then .next s
  else .next (s.rxUp port f trailer fun s => if s.routeSource port then s.follow true true (fld f.payload 8 8) edge else s)

/-- CONTROL_KEEPALIVE (R700): nothing beyond the acceptance of the frame. -/
def execControlKeepalive (port : Nat) (f : Frame) (trailer : Bool) (s : State) : Host.Outcome State Fault Refusal :=
  if ctlSubtype f ≠ 2 then .next s else .next (s.rxUp port f trailer id)

/-- CONTROL_LANE (R697): the partner's receiver asks for a transmit lane's traffic on the spare. -/
def execControlLane (port : Nat) (f : Frame) (trailer : Bool) (lane : Nat) (s : State) : Host.Outcome State Fault Refusal :=
  if ctlSubtype f ≠ 3 then .next s
  else .next (s.rxUp port f trailer fun s =>
    let q := s.port port
    if q.txLanes.getLsbD lane && !q.txLanes.getLsbD 8 && (s.routePolicy port).sparePresent then
      ((s.mPort port fun q => { q with txLanes := swapLane q.txLanes lane }).mPortCnt port fun c => { c with laneSwaps := c.laneSwaps + 1 }).laneSpared
        port lane (some 8) 0x801
    else s)

/-- KEEPALIVE_SEND (R700): a port that has sent no frame for 10 µs. -/
def execKeepaliveSend (port : Nat) (s : State) : Host.Outcome State Fault Refusal :=
  if s.routesOn && (s.port port).st == .up then .next (s.sendFrame port (controlFrame 2 [])) else .next s

/-- The boundary's part of an UP port (R700, R713): SUSPECT after two boundaries without a valid frame, else a TICK frame. -/
def State.portBoundary (s : State) (p : Nat) : State :=
  let s := s.mPort p fun q => { q with silent := if q.gotFrame then 0 else q.silent + 1, gotFrame := false, trailerTick := 0 }
  if (s.port p).st != .up then s
  else if 2 ≤ (s.port p).silent then s.suspect p
  else s.sendFrame p (controlFrame 1 (List.replicate 7 0 ++ toLe 8 s.tck.num.toNat ++ toLe 1 (b2n s.tck.holdover + 2 * b2n s.tck.sourceLost)))

/-! ### HELLO, SPDM and keys -/

/-- A frame of bring-up arrives on a linked port (R719, R721). -/
def State.rxAuth (s : State) (p : Nat) (f : Frame) (trailer : Bool) (act : State → State) : State :=
  if !s.routesOn || !(s.port p).linked then s
  else
    let r := s.linkAccept p f trailer
    if !r.2 then r.1
    else
      let b := r.1.burstCheck p f
      if (s.port p).st == .up && (!frameOk f || !b.2) then b.1.quarantine p 4 else if !frameOk f then b.1 else act b.1

/-- HELLO (R705, R706): the partner's serial, nonce and ENC setting, the round trip measured; `again` is the nonce for a repeat. -/
def execHelloFrame (port : Nat) (f : Frame) (trailer : Bool) (serial nonce : Nat) (enc : Bool) (rtt again : Nat) (s : State) :
    Host.Outcome State Fault Refusal :=
  if f.type ≠ 8 then .next s
  else .next (s.rxAuth port f trailer fun s =>
    let q := s.port port
    if q.st == .up then s.quarantine port 4
    else if q.stage != 3 then s
    else
      let s := s.mPort port fun q => { q with partner := BitVec.ofNat 64 serial, partnerEnc := enc, rtt := rtt }
      if q.nonce.toNat = nonce then (s.mPort port fun q => { q with nonce := BitVec.ofNat 64 again }).sendFrame port (s.helloFrame port again)
      else s.mPort port fun q => { q with stage := 4, requester := decide (nonce < q.nonce.toNat) })

/-- The end of the session set-up: the checks of R708 and R709, then UP. -/
def State.authEnd (s : State) (p : Nat) (ok : Bool) (digest : List Byte) : State :=
  let s := s.mPort p fun q => { q with partnerDigest := digest }
  let q := s.port p
  if !ok then s.quarantine p 1
  else if q.pin.any (· != digest) then s.quarantine p 2
  else if q.partnerEnc != (s.routePolicy p).encRequired then s.quarantine p 3
  else s.enterUp p

/-- SPDM (R707 to R712): a message of the session set-up, or of a key update (`update`); `final` ends it, `ok` says whether the chain and
the signatures verify, `digest` is that of the partner's chain. -/
def execSpdmFrame (port : Nat) (f : Frame) (trailer update final ok : Bool) (digest : List Byte) (s : State) : Host.Outcome State Fault Refusal :=
  if f.type ≠ 9 then .next s
  else .next (s.rxAuth port f trailer fun s =>
    let q := s.port port
    if q.st == .up then
      if !update then s.quarantine port 4
      else if final then s.mPort port fun q => { q with rekeying := false, keyTx := 0, keyRx := 0 } else s
    else if q.stage == 4 && final then s.authEnd port ok digest
    else s)

/-- A key update begins (R710, R712): its first SPDM message goes out. -/
def State.rekey (s : State) (p : Nat) : State := (s.mPort p fun q => { q with rekeying := true }).sendFrame p { type := 9, payload := List.replicate 32 0 }

/-- AUTO_KEY_UPDATE (R712). -/
def execAutoKeyUpdate (port : Nat) (s : State) : Host.Outcome State Fault Refusal :=
  let q := s.port port
  if s.routesOn && q.st == .up && q.encrypted && !q.rekeying && decide (2 ^ 31 ≤ q.keyTx ∨ 2 ^ 31 ≤ q.keyRx) then .next (s.rekey port) else .next s

/-- PORT of Load Route Key. -/
def lkPort (c : Cmd) : Nat := c.arg 32 1

/-- The checks of R710 that every action shares. -/
def State.routeKeyOk (s : State) (c : Cmd) : Bool :=
  c.fn == 0 && zeroExcept c.bytes [(32, 2), (40, 8)] && decide (lkPort c < 8 ∧ c.arg 33 1 < 3) && (s.routePolicy (lkPort c)).enable

/-- A Load Route Key command with an action: refused, or carried out. -/
def State.loadRouteKey (s : State) (cid : Nat) (mine : Nat → Bool) (act : Cmd → Ctx → State) : State :=
  match s.ctl? cid 0x1A with
  | none => s
  | some (c, x) =>
    if !mine (c.arg 33 1) then s
    else if !s.routeKeyOk c then s.refuse cid c { code := 0x809, detail := s.detPort (lkPort c % 8) 0 0xFF 0xFF 0 0 }
    else act c x

/-- LOAD_ROUTE_KEY_PIN (R710, R711); an undefined ACTION is refused here. -/
def execLoadRouteKeyPin (cid : Nat) (s : State) : Host.Outcome State Fault Refusal :=
  .next (s.loadRouteKey cid (fun a => a != 1 && a != 2) fun c x =>
    match s.ctxRead x (c.arg 40 8) 48 with
    | .error e => s.refuseTr cid c e
    | .ok (bs, _) =>
      let p := lkPort c
      let t := s.mPort p fun q => { q with pin := some bs }
      let t := if (s.port p).st == .up && (s.port p).partnerDigest != bs then t.quarantine p 2 else t
      t.commitCtl cid c)

/-- LOAD_ROUTE_KEY_UNPIN (R710, R711). -/
def execLoadRouteKeyUnpin (cid : Nat) (s : State) : Host.Outcome State Fault Refusal :=
  .next (s.loadRouteKey cid (· == 1) fun c _ => (s.mPort (lkPort c) fun q => { q with pin := none }).commitCtl cid c)

/-- LOAD_ROUTE_KEY_REKEY (R710): refused when the port is not UP or its ENC is OFF. -/
def execLoadRouteKeyRekey (cid : Nat) (s : State) : Host.Outcome State Fault Refusal :=
  .next (s.loadRouteKey cid (· == 2) fun c _ =>
    let p := lkPort c
    if (s.port p).st != .up || !(s.routePolicy p).encRequired then s.refuse cid c { code := 0x809, detail := s.detPort p 0 0xFF 0xFF 0 0 }
    else (s.rekey p).commitCtl cid c)

end Sys2Proof.Machine
end

