-- ==== Sys2Proof/Machine/Boundary.lean ====
section
/-!
DEFINITION. The boundary (R45 to R58) and what takes effect in its cycle: kills, device-state changes (R838 to R841), tables, Recipes,
deregistration of reset functions (R690), throttle and clock levels (R574, R938), Chimney configuration and snapshot (R793, R799),
Route ports, the Ember rotation (R780); and the passing of a Stoker cycle on an empty queue (assumption 1).
-/
namespace Sys2Proof.Machine

/-! ### Kills -/

/-- The waybills that run. -/
def State.runningWbs (s : State) : List Nat := (s.ldg.wb.filter (·.2.st == .running)).map (·.1)

/-- The kills of a boundary that begins tick t (R50, R51). -/
def State.boundaryKills (s : State) (t : Nat) : State :=
  let s := s.runningWbs.foldl (fun s i => s.boundaryKillWb i t) s
  (s.spanEnded t false).foldl (State.spanKill true) s

/-- On leaving Banked, every replayed waybill not yet answered is killed and answered ABANDONED (R818). -/
def State.abandonReplays (s : State) (t : Nat) : State :=
  let open_ := s.ldg.wb.filter fun p => p.2.replay.isSome && (p.2.st == .running || p.2.st == .filed)
  open_.foldl (fun s p =>
    if p.2.st == .running then (s.mWb p.1 fun w => { w with abandonReq := true }).boundaryKillWb p.1 t else s.answerWb p.1 p.2 6 3 0) s

/-- The state that a posted request asks for at this boundary (R838, R839). -/
def State.changeDue (s : State) : Option DevState :=
  match s.warden.stateReq with
  | none => none
  | some q => if q.toBanked && s.dev == .service then some .banked else if !q.toBanked && s.dev == .banked then some .service else none

/-- Answer the request that took effect; one lost in a Warden restart is not answered (R839, R856). -/
def State.answerRequest (s : State) : State :=
  match s.warden.stateReq with
  | none => s
  | some q =>
    let s := s.mWarden fun w => { w with stateReq := none }
    if q.lost then s else s.respond q.fn q.tag (rspOk (if q.toBanked then 2 else 3) 0)

/-- A change of device state in the boundary cycle (R85, R838 to R841). -/
def State.changeState (s : State) (t : Nat) : State :=
  match s.changeDue with
  | none => s
  | some d =>
    let s := if s.dev == .banked then s.abandonReplays t else s
    let s := s.boundaryKills t
    let s := (s.spanEnded t true).foldl State.expire s
    let s := { s with dev := d }
    let s := s.mTck fun k => { k with stateTick := k.num, loadPending := if d == .service then k.follower else k.loadPending }
    s.answerRequest

/-! ### Deregistration of a reset function -/

/-- Every waybill of a function has left the Ledger. -/
def State.fnDrained (s : State) (f : Nat) : Bool := !s.ldg.wb.any (·.2.fn == f)

/-- Deregister the Recipes and tables of a reset function and free its local slots (R690). -/
def State.deregisterFn (s : State) (f : Nat) : State :=
  if !(s.fn f).resetDue || !s.fnDrained f then s
  else
    let mine := s.ctxsOf f
    let s := s.dropCaches mine fun _ => true
    let s := s.mTally fun y => { y with
      fresh := y.fresh.filter (·.2.fn != f)
      tables := y.tables.map fun p => (p.1, if p.2.fn == f then { p.2 with leaving := true } else p.2) }
    let s := s.mStk fun k => { k with
      recipes := k.recipes.filter fun p => !mine.contains p.2.ctx, ctxs := k.ctxs.filter fun p => p.2.fn != f }
    s.mFn f fun x => { x with resetDue := false, slots := x.slots.map fun p => (p.1, { p.2 with valid := false }) }

/-! ### Tables -/

/-- What takes effect in the tables of every Serai and the Tally (R170, R188, R213, R217, R275, R285, R296, R315, R321, R606). -/
def State.tablesStep (s : State) (t : Nat) : State :=
  let s := s.tablesBoundary
  let s := s.mTally fun y => { y with tables := y.tables.map fun p => (p.1, p.2.larderSwitch) }
  let s := s.seraisBoundary
  let ids := s.tally.tables.map (·.1)
  let s := ids.foldl State.spanSwitch s
  ids.foldl (fun s i => s.clipCheck i t) s

/-! ### Power, throttle, clocks -/

/-- The throttle level of a stack falls by one after 1 ms, 100 samples, below its threshold (R572, R574). -/
def StackDmp.fall (x : StackDmp) : StackDmp := if 0 < x.level ∧ 100 ≤ x.below then { x with level := x.level - 1, below := 0 } else x

/-- The Hearth clock level of the tick that begins (R938, R940). -/
def State.nextLevel (s : State) : Nat :=
  let p := s.power
  let base := if p.tickSamples ≠ 0 ∧ p.tickEnergy < 1300 * p.tickSamples ∧ !p.hotTick then 0 else 1
  let calm := decide (100 ≤ p.calmSamples) && s.pins.throtInN
  let kept := if calm then p.hlevel - 1 else p.hlevel
  max base (max kept (if s.pins.throtInN then 0 else 4))

/-- Throttle and clock levels for the new tick (R574, R938). -/
def State.levelsStep (s : State) : State :=
  let s := s.mDampers fun d => { d with perStack := d.perStack.map fun p => (p.1, p.2.fall) }
  s.mPower fun p => { p with hlevel := s.nextLevel, tickEnergy := 0, tickSamples := 0, hotTick := false }

/-! ### Chimney -/

/-- Accepted configuration blocks take effect; a counter block clears its counter, a ring block its export count (R793, R796, R806). -/
def Chimney.takeDue (c : Chimney) : Chimney :=
  let c := c.dueCtr.foldl (fun c p => { c with cfg := mapSet c.cfg p.1 p.2, val := mapSet c.val p.1 0 }) c
  let c := c.dueDest.foldl (fun (c : Chimney) p =>
    if p.1 = 0 then { c with port := p.2 } else { c with ring := p.2, hostCnt := 0, ringUsed := 0 }) c
  { c with dueCtr := [], dueDest := [] }

/-- The TICK record of a boundary (R802). -/
def State.traceTick (s : State) (admitted : Nat) (byWindow : Bool) : State :=
  s.trace 1 0 none 0 (admitted % 2 ^ 21 + b2n byWindow * 2 ^ 24 + s.cvn.killedNow % 2 ^ 32 * 2 ^ 32)

/-! ### The Ember rotation -/

/-- The next logical Hearth in service of a quarter, in ascending order with wrap-around (R780). -/
def State.nextRotation (s : State) (q : Nat) : Option Nat :=
  let k := (mapGetD s.hearths.quarters q {}).nextLog
  let order := (List.range 20).map fun i => 20 * q + (k + i) % 20
  order.find? fun h => (s.hearth h).inService

/-- Schedule the rotation of a quarter when it is due and none is under way (R332, R780). -/
def State.rotate (s : State) (q : Nat) : State :=
  let u := mapGetD s.hearths.quarters q {}
  let due := s.boot.ended + (8 * u.nextRot + q) * s.img.emberPeriodMs * cyclesPerMs / 8
  if s.time < due ∨ u.rotating.isSome ∨ u.grateMove.isSome then s
  else match s.nextRotation q with
    | none => s
    | some h =>
      (s.mHearth h fun x => { x with drain := 2 }).mHearths fun v => { v with
        quarters := mapMod v.quarters q {} fun u => { u with rotating := some h, nextRot := u.nextRot + 1, nextLog := (h % 20 + 1) % 20 } }

/-! ### The boundary -/

/-- The tick number steps; the caravan's counts of the tick that begins start from 0 (R45, R802). -/
def State.startTick (s : State) : State :=
  (s.mTck fun t => { t with
    num := t.num + 1, phase := 0, correction := 0, holdoverTicks := if t.holdover then t.holdoverTicks + 1 else t.holdoverTicks }).mCvn
    fun v => { v with killedNow := 0 }

/-- The kills, or the change of device state with its own kills (R50, R838, R841). -/
def State.killStep (s : State) (t : Nat) : State := if s.changeDue.isSome then s.changeState t else s.boundaryKills t

/-- Recipes and the functions reset (R656, R666, R690). -/
def State.recipesStep (s : State) : State := (((List.range 32).foldl State.deregisterFn s)).mStk Stoker.recipesBoundary

/-- The whole boundary (R45, R47). -/
def State.boundary (s : State) : State :=
  let admitted := s.cvn.admittedN
  let byWindow := s.cvn.closedByWindow
  let s := s.startTick
  let t := s.tck.num.toNat
  let s := (s.killStep t).recipesStep
  let s := (s.tablesStep t).levelsStep
  let s := (s.mChm Chimney.takeDue).snapshot
  let s := s.traceTick admitted byWindow
  let s := s.beginAssembly
  let s := (List.range 8).foldl State.portBoundary s
  let s := (List.range 8).foldl State.rotate s
  s.sendTickFrame

/-- TICK_BOUNDARY (R45): the tick unit places a boundary, in Service and in Banked. -/
def execTickBoundary (s : State) : Host.Outcome State Fault Refusal := if s.live then .next s.boundary else .next s

/-! ### Time -/

/-- One Stoker clock cycle with nothing commanded: the clocks advance, and a Quenched fault received in the cycle before takes effect
(R11, R387, R842). -/
def State.idle (s : State) : State :=
  let s := match s.flt.quenchDue with | none => s | some code => s.enterQuenched code
  let s := { s with time := s.time + 1 }
  let s := if s.dev == .off then s else s.mPower fun p => { p with hclk := p.hclk + hearthMHz p.hlevel }
  if s.live then s.mTck fun t => { t with phase := t.phase + 1 } else s

end Sys2Proof.Machine
end

