-- ==== Sys2Proof/Machine/Image.lean ====
section
/-!
DEFINITION. The flash's slots (R824 to R829), the Kindling Image's sections (R832) with the cases of its refusal (R834),
and SHA-384 for the measurements (R869).
-/
namespace Sys2Proof.Machine

/-! ### Flash -/

/-- A little-endian field of the flash. -/
def flashField (q : List Host.Cell) (a n : Nat) : Nat := leNat (cellsGet q a n)

/-- Every byte of a range of the flash is 0; a canonical list holds no zero. -/
def flashZero (q : List Host.Cell) (a n : Nat) : Bool := q.all fun c => !decide (a ≤ c.1 ∧ c.1 < a + n)

/-- Erase a range of the flash; an erased byte reads 0 (assumption 3). -/
def flashErase (q : List Host.Cell) (a n : Nat) : List Host.Cell := q.filter fun c => !decide (a ≤ c.1 ∧ c.1 < a + n)

/-- Base of a slot (R824): firmware or image, A or B. -/
def slotBase (image b : Bool) : Nat :=
  match image, b with
  | false, false => 0 | false, true => 0x400000 | true, false => 0x800000 | true, true => 0x900000

/-- Bytes of a slot (R824). -/
def slotBytes (image : Bool) : Nat := if image then 0x100000 else 0x400000

/-- The staging area (R824). -/
def stagingBase : Nat := 0x1000000
/-- Its bytes. -/
def stagingBytes : Nat := 0x3000000

/-- SLOT_GEN of a slot (R829). -/
def slotGen (q : List Host.Cell) (image b : Bool) : Nat := flashField q (slotBase image b + slotBytes image - 64) 4

/-- LENGTH of the signed bytes at a base (R825, R828). -/
def signedLen (q : List Host.Cell) (base : Nat) : Nat := flashField q (base + 16) 4

/-- The signature block lies in the slot and its chain is at most 8,192 bytes (R827). -/
def chainOk (q : List Host.Cell) (base : Nat) (image : Bool) : Bool :=
  let len := signedLen q base
  let chain := flashField q (base + len) 4
  decide (chain ≤ 8192) && decide (len + 4 + chain + 96 ≤ slotBytes image - 64)

/-- Entry i of the section directory: type, offset, length (R826). -/
def dirEntry (q : List Host.Cell) (base i : Nat) : Nat × Nat × Nat :=
  let e := base + 64 + 16 * i
  (flashField q e 2, flashField q (e + 4) 4, flashField q (e + 8) 4)

/-- The used directory entries. -/
def dirEntries (q : List Host.Cell) (base : Nat) : List (Nat × Nat × Nat) :=
  (List.range (flashField q (base + 6) 2)).map (dirEntry q base)

/-- The header and directory of an image obey R825 and R826. -/
def imageHeaderOk (q : List Host.Cell) (base : Nat) : Bool :=
  let count := flashField q (base + 6) 2
  let len := signedLen q base
  flashField q base 4 == 0x4C444E4B && flashField q (base + 4) 2 == 1 && decide (8 ≤ count ∧ count ≤ 16) &&
  decide (flashField q (base + 12) 4 ≤ 63) && decide (len ≤ 1040216) && flashZero q (base + 20) 44 &&
  (List.range 16).all (fun i =>
    if count ≤ i then flashZero q (base + 64 + 16 * i) 16
    else
      let e := dirEntry q base i
      e.2.1 % 8 == 0 && decide (e.2.1 + e.2.2 ≤ len) &&
      flashZero q (base + 66 + 16 * i) 2 && flashZero q (base + 76 + 16 * i) 4)

/-- The header of firmware obeys R828. -/
def fwHeaderOk (q : List Host.Cell) (base : Nat) : Bool :=
  flashField q base 4 == 0x5744524E && flashField q (base + 4) 2 == 1 && flashZero q (base + 20) 44

/-- The bytes at a base verify (R829); `sig` is the verdict of the chain and the signature. -/
def verifies (q : List Host.Cell) (base : Nat) (image : Bool) (fused : Nat) (sig : Bool) : Bool :=
  (if image then imageHeaderOk q base else fwHeaderOk q base) && chainOk q base image && sig &&
  decide (fused ≤ flashField q (base + 12) 4)

/-- The slot the Warden uses: the verifying one with the higher SLOT_GEN, A when they are equal (assumption 20). -/
def chooseSlot (q : List Host.Cell) (image : Bool) (fused : Nat) (sigA sigB : Bool) : Option Bool :=
  let a := verifies q (slotBase image false) image fused sigA
  let b := verifies q (slotBase image true) image fused sigB
  if a && b then some (decide (slotGen q image false < slotGen q image true))
  else if a then some false else if b then some true else none

/-! ### The sections of an image -/

/-- A section of a type: its base in the flash and its length. -/
def findSection (q : List Host.Cell) (base type : Nat) : Option (Nat × Nat) :=
  ((dirEntries q base).find? (·.1 == type)).map fun e => (base + e.2.1, e.2.2)

/-- Base of a section that is known to be there. -/
def secBase (q : List Host.Cell) (base type : Nat) : Nat := ((findSection q base type).map (·.1)).getD base

/-- The length that R832 gives a section. -/
def secLenOk (type len : Nat) : Bool :=
  match type with
  | 1 => len == 48 | 2 => len == 16 | 3 => len == 48 | 4 => len == 128 | 5 => len == 56 | 6 => len == 16
  | 7 => len == 112 | 8 => len == 8 | 9 => len % 32 == 0 | _ => false

/-- Byte n of a section. -/
def secByte (q : List Host.Cell) (b n : Nat) : Nat := flashField q (b + n) 1

/-- A sparing-log entry of 32 bytes (R789). -/
def readSparing (q : List Host.Cell) (a : Nat) : SparingEntry := {
  lseq := BitVec.ofNat 32 (flashField q a 4), resource := flashField q (a + 4) 1, action := flashField q (a + 5) 1
  inst := flashField q (a + 6) 2, fromLoc := flashField q (a + 8) 4, toLoc := flashField q (a + 12) 4
  tick := BitVec.ofNat 64 (flashField q (a + 16) 8), code := flashField q (a + 24) 2 }

/-- The bytes of a sparing-log entry (R789). -/
def sparingBytes (e : SparingEntry) : List Byte :=
  toLe 4 e.lseq.toNat ++ toLe 1 e.resource ++ toLe 1 e.action ++ toLe 2 e.inst ++ toLe 4 e.fromLoc ++ toLe 4 e.toLoc ++
  toLe 8 e.tick.toNat ++ toLe 2 e.code ++ List.replicate 6 0

/-- The functions that exist: 0 and 1 to TOTAL_VFS (R834). -/
def existing (q : List Host.Cell) (d : Nat) : List Nat := List.range (min 31 (secByte q d 6) + 1)

/-- Case 0x04 of R834: a field outside its range or a reserved byte not 0. -/
def fieldsBad (q : List Host.Cell) (base : Nat) : Bool :=
  let d := secBase q base 1; let t := secBase q base 2; let f := secBase q base 4; let m := secBase q base 5
  let r := secBase q base 7; let y := secBase q base 8
  let p := findSection q base 9
  !(decide (secByte q d 0 ≤ 1 ∧ secByte q d 1 ≤ 1 ∧ secByte q d 6 ≤ 31 ∧ secByte q d 7 ≤ 127 ∧ 8 ≤ secByte q d 8 ∧
      secByte q d 8 ≤ 254 ∧ secByte q d 32 ≤ 128) && flashZero q (d + 9) 7 && flashZero q (d + 33) 15 &&
    decide (5 ≤ flashField q t 2 ∧ flashField q t 2 ≤ 500 ∧ secByte q t 2 ≤ 2 ∧ secByte q t 3 ≤ 7 ∧ secByte q t 4 ≤ 1) &&
    flashZero q (t + 5) 1 && (List.range 8).all (fun e => decide (1 ≤ secByte q t (8 + e) ∧ secByte q t (8 + e) ≤ 128)) &&
    (existing q d).all (fun n => decide (secByte q f (4 * n) ≤ 7 ∧ flashField q (f + 4 * n + 2) 2 ≤ 512)) &&
    (List.range 8).all (fun n => flashZero q (m + 4 * n + 3) 1) && flashZero q (m + 52) 4 &&
    (List.range 8).all (fun n => (List.range 5).all (fun k => decide (secByte q r (8 * n + k) ≤ 1)) && flashZero q (r + 8 * n + 5) 1 &&
      decide (flashField q (r + 8 * n + 6) 2 ≤ 3600)) &&
    decide (100 ≤ flashField q y 2 ∧ flashField q y 2 ≤ 185 ∧ 1 ≤ flashField q (y + 2) 2 ∧ 1 ≤ secByte q y 4 ∧
      1 ≤ secByte q y 5 ∧ 1 ≤ secByte q y 6) && flashZero q (y + 7) 1 &&
    (match p with
     | none => true
     | some (b, n) => (List.range (n / 32)).all fun i => secByte q (b + 32 * i) 5 == 3 && flashZero q (b + 32 * i + 26) 6))

/-- The refusal reason of R834 for a verifying image at a base, 0 when it is accepted. The first failing case decides; a
partition of an existing function with MAX = 0 is case 0x08 (assumption 21). -/
def imageReason (q : List Host.Cell) (base : Nat) (orderingNS : Bool) : Nat :=
  let es := dirEntries q base
  let d := secBase q base 1; let s := secBase q base 3; let f := secBase q base 4; let m := secBase q base 5
  let c := secBase q base 6
  let share (k e : Nat) := secByte q s (8 * k + e)
  let mn (p : Nat) := secByte q m (32 + 2 * p)
  let mx (p : Nat) := secByte q m (33 + 2 * p)
  let thr (i : Nat) := secByte q m (48 + i)
  if orderingNS && (findSection q base 1).isSome && secByte q d 0 == 1 then 2
  else if !(es.all (fun e => secLenOk e.1 e.2.2) && decide (es.map (·.1)).Nodup &&
      [1, 2, 3, 4, 5, 6, 7, 8].all (fun t => es.any (·.1 == t))) then 3
  else if fieldsBad q base then 4
  else if (List.range 8).any (fun e => decide (64 < ((List.range 6).map (share · e)).sum ∨ share 5 e = 0)) then 5
  else if (List.range 8).any (fun n => let sl := (List.range 3).map (fun k => secByte q m (4 * n + k))
        sl.sum != 64 || sl.any (· < 4)) ||
      decide (64 < ((List.range 8).map mn).sum) || (List.range 8).any (fun p => decide (mx p < mn p)) then 6
  else if !decide (70 ≤ thr 0 ∧ thr 0 < thr 1 ∧ thr 1 < thr 2 ∧ thr 2 ≤ 100 ∧ thr 2 + 1 ≤ thr 3 ∧ thr 3 ≤ 105) then 7
  else if decide (4096 < ((existing q d).map (fun n => flashField q (f + 4 * n + 2) 2)).sum) ||
      (existing q d).any (fun n => mx (secByte q f (4 * n)) == 0 || decide (64 ≤ secByte q f (4 * n + 1))) then 8
  else if (List.range 16).any (fun k => decide (2 < secByte q c k)) then 9
  else 0

/-- The settings of an accepted image (R832). -/
def readImage (q : List Host.Cell) (base : Nat) : Image :=
  let d := secBase q base 1; let t := secBase q base 2; let s := secBase q base 3; let f := secBase q base 4
  let m := secBase q base 5; let c := secBase q base 6; let r := secBase q base 7; let y := secBase q base 8
  { imageVer := BitVec.ofNat 32 (flashField q (base + 8) 4), securityVer := flashField q (base + 12) 4
    bx3 := secByte q d 0 == 1, startBanked := secByte q d 1 == 1
    subsysVendor := BitVec.ofNat 16 (flashField q (d + 2) 2), subsysId := BitVec.ofNat 16 (flashField q (d + 4) 2)
    totalVfs := secByte q d 6, smbusAddr := secByte q d 7, mctpEid := secByte q d 8
    period10us := flashField q t 2, tickSource := secByte q t 2, tickPort := secByte q t 3, tickOut := secByte q t 4 == 1
    compNs := flashField q (t + 6) 2
    mgmtAddr := cellsGet q (d + 16) 16, mgmtPrefix := secByte q d 32
    plan := (List.range 8).map fun e => secByte q t (8 + e)
    shares := (List.range 48).map (secByte q s)
    fnPolicy := (List.range 32).map fun n =>
      { partition := secByte q f (4 * n), classMask := secByte q f (4 * n + 1), maxContexts := flashField q (f + 4 * n + 2) 2 }
    damper := (List.range 8).map fun n =>
      { read := secByte q m (4 * n), write := secByte q m (4 * n + 1), remote := secByte q m (4 * n + 2) }
    partMin := (List.range 8).map fun p => secByte q m (32 + 2 * p)
    partMax := (List.range 8).map fun p => secByte q m (33 + 2 * p)
    thr := (List.range 4).map fun i => secByte q m (48 + i)
    tableKinds := (List.range 16).map (secByte q c)
    route := (List.range 8).map fun n =>
      { enable := secByte q r (8 * n) == 1, kr := secByte q r (8 * n + 1) == 1, sparePresent := secByte q r (8 * n + 2) == 1
        allowHalf := secByte q r (8 * n + 3) == 1, encRequired := secByte q r (8 * n + 4) == 1
        requalifyS := flashField q (r + 8 * n + 6) 2 }
    rootDigest := cellsGet q (r + 64) 48
    emberPeriodMs := flashField q y 2, laneCeMax := flashField q (y + 2) 2, laneCrcMax := secByte q y 4
    rowCeMax := secByte q y 5, sramMax := secByte q y 6 }

/-- The factory sparing entries of an image (R832). -/
def sparingBase (q : List Host.Cell) (base : Nat) : List SparingEntry :=
  match findSection q base 9 with
  | none => []
  | some (b, n) => (List.range (n / 32)).map fun i => readSparing q (b + 32 * i)

/-! ### SHA-384 -/

/-- The largest number whose k-th power is at most n, built from bit b - 1 down. -/
def iroot (k n : Nat) : Nat → Nat → Nat
  | 0, acc => acc
  | b + 1, acc => if (acc + 2 ^ b) ^ k ≤ n then iroot k n b (acc + 2 ^ b) else iroot k n b acc

/-- The first 80 primes. -/
def primes80 : List Nat := [2, 3, 5, 7, 11, 13, 17, 19, 23, 29, 31, 37, 41, 43, 47, 53, 59, 61, 67, 71, 73, 79, 83, 89, 97,
  101, 103, 107, 109, 113, 127, 131, 137, 139, 149, 151, 157, 163, 167, 173, 179, 181, 191, 193, 197, 199, 211, 223, 227,
  229, 233, 239, 241, 251, 257, 263, 269, 271, 277, 281, 283, 293, 307, 311, 313, 317, 331, 337, 347, 349, 353, 359, 367,
  373, 379, 383, 389, 397, 401, 409]

/-- The round constants: fractional bits of cube roots of the primes. -/
def shaK : List (BitVec 64) := primes80.map fun p => BitVec.ofNat 64 (iroot 3 (p * 2 ^ 192) 67 0)

/-- The initial value of SHA-384: fractional bits of square roots of the 9th to 16th primes. -/
def sha384Init : List (BitVec 64) := ((primes80.drop 8).take 8).map fun p => BitVec.ofNat 64 (iroot 2 (p * 2 ^ 128) 68 0)

/-- Append n message-schedule words to the newest-first list of 16 or more. -/
def shaSchedule : Nat → List (BitVec 64) → List (BitVec 64)
  | 0, w => w
  | n + 1, w =>
    let x := w.getD 14 0; let y := w.getD 1 0
    let s0 := x.rotateRight 1 ^^^ x.rotateRight 8 ^^^ (x >>> 7)
    let s1 := y.rotateRight 19 ^^^ y.rotateRight 61 ^^^ (y >>> 6)
    shaSchedule n ((w.getD 15 0 + s0 + w.getD 6 0 + s1) :: w)

/-- One round on the eight working words. -/
def shaRound (v : List (BitVec 64)) (kw : BitVec 64 × BitVec 64) : List (BitVec 64) :=
  match v with
  | [a, b, c, d, e, f, g, h] =>
    let s1 := e.rotateRight 14 ^^^ e.rotateRight 18 ^^^ e.rotateRight 41
    let t1 := h + s1 + ((e &&& f) ^^^ (~~~e &&& g)) + kw.1 + kw.2
    let s0 := a.rotateRight 28 ^^^ a.rotateRight 34 ^^^ a.rotateRight 39
    let t2 := s0 + ((a &&& b) ^^^ (a &&& c) ^^^ (b &&& c))
    [t1 + t2, a, b, c, d + t1, e, f, g]
  | _ => v

/-- A big-endian word of 8 bytes. -/
def beWord (bs : List Byte) : BitVec 64 := BitVec.ofNat 64 (leNat bs.reverse)

/-- One block of 128 bytes. -/
def shaBlock (h : List (BitVec 64)) (block : List Byte) : List (BitVec 64) :=
  let w := (shaSchedule 64 ((List.range 16).map fun i => beWord ((block.drop (8 * i)).take 8)).reverse).reverse
  List.zipWith (· + ·) h ((List.zip shaK w).foldl shaRound h)

/-- The blocks of a padded message. -/
def shaBlocks : Nat → List (BitVec 64) → List Byte → List (BitVec 64)
  | 0, h, _ => h
  | n + 1, h, bs => shaBlocks n (shaBlock h (bs.take 128)) (bs.drop 128)

/-- SHA-384 of a byte string. -/
def sha384 (bs : List Byte) : List Byte :=
  let n := bs.length
  let pad := (239 - n % 128) % 128
  let msg := bs ++ [0x80] ++ List.replicate pad 0 ++ (toLe 16 (8 * n)).reverse
  ((shaBlocks (msg.length / 128) sha384Init msg).flatMap fun w => (toLe 8 w.toNat).reverse).take 48

end Sys2Proof.Machine
end

