-- ==== Sys2Proof/Machine/Warden.lean ====
section
/-!
DEFINITION. The Warden: its island and resets (R820 to R823, R849, R856, R959), the requests of the Mailbox and of the
management network (R852 to R862, R866), PLDM (R867, R868) and SPDM (R869).
-/
namespace Sys2Proof.Machine

/-! ### The island -/

/-- The ROM chooses a firmware slot and runs it, or stays in recovery (R822); what the last run held is gone, a request in
flight is lost and a posted state request stands without an answer (R856). -/
def State.wardenRestart (s : State) (sigA sigB : Bool) : State :=
  let q := s.warden.qspi
  let slot := chooseSlot q false s.fuses.firmwareSec sigA sigB
  let base := slotBase false (slot.getD false)
  let s := s.mWarden fun w => { w with
    running := slot.isSome, recovery := slot.isNone, fwSlotB := slot.getD false
    fwVer := if slot.isSome then BitVec.ofNat 32 (flashField q (base + 8) 4) else 0
    fwSec := if slot.isSome then flashField q (base + 12) 4 else 0
    fwSigned := if slot.isSome then cellsGet q base (signedLen q base) else []
    staging := none, eventReceiver := none, unacked := none, resends := 0, activate := false
    stateReq := w.stateReq.map fun r => { r with lost := true } }
  { s with logs := s.logs.map fun p =>
      (p.1, if p.2.mbx.busy then { p.2 with mbx := { p.2.mbx with busy := false, restarted := true, inFlight := [] } } else p.2) }

/-- ISLAND_POWER_UP (R821, R822, R959): the clock restarts from its instant and the ROM runs. -/
def execIslandPowerUp (sigA sigB : Bool) (s : State) : Host.Outcome State Fault Refusal :=
  .next ((s.mWarden fun w => { w with powered := true, rtc := 0 }).wardenRestart sigA sigB)

/-- The Warden raises 0x0902 after a restart (R766, R849); the Collector takes it while the compute dies are powered. -/
def State.raiseRestart (s : State) : State :=
  if s.warden.running && s.dev != .off then s.raise { code := 0x902 } else s

/-- WARDEN_RESET (R849): WRD_RESET_N, or the activation of firmware. -/
def execWardenReset (sigA sigB : Bool) (s : State) : Host.Outcome State Fault Refusal :=
  if s.warden.powered then .next (s.wardenRestart sigA sigB).raiseRestart else .next s

/-- WARDEN_WATCHDOG_EXPIRY (R766). -/
def execWardenWatchdogExpiry (sigA sigB : Bool) (s : State) : Host.Outcome State Fault Refusal :=
  if s.warden.running then .next (s.wardenRestart sigA sigB).raiseRestart else .next s

/-- FIRMWARE_SECURITY_FUSE (R830): firmware that has run for 60 s raises the fused level. -/
def execFirmwareSecurityFuse (s : State) : Host.Outcome State Fault Refusal :=
  if s.warden.running then .next (s.mFuses fun f => { f with firmwareSec := max f.firmwareSec s.warden.fwSec }) else .next s

/-- RTC_TICK (R959). -/
def execRtcTick (s : State) : Host.Outcome State Fault Refusal :=
  if s.warden.powered then .next (s.mWarden fun w => { w with rtc := w.rtc + 1 }) else .next s

/-! ### Requests -/

/-- The codes of R858. -/
def reqCodes : List Nat := [1, 2, 3, 0x10, 0x11, 0x20, 0x30, 0x31, 0x32, 0x40, 0x50]

/-- The request a row serves: the one given by the management network, or the one in flight in a function's Mailbox. The
Warden serves one at a time, so none while a state request waits for its boundary (R857). -/
def State.requestOf (s : State) (src : Option Nat) (req : List Byte) : Option (List Byte) :=
  if !s.warden.running || (match s.warden.stateReq with | some r => !r.lost | none => false) then none
  else match src with
    | none => some (padTo (max 16 req.length) req)
    | some f => if (s.log f).mbx.busy then some (padTo 256 ((s.log f).mbx.inFlight.flatMap fun w => toLe 4 w.toNat)) else none

/-- TAG of the request in flight. -/
def State.reqTag (s : State) (src : Option Nat) : BitVec 16 := match src with | some f => (s.log f).mbx.inFlightTag | none => 0

/-- ARG0. -/
def arg0 (b : List Byte) : Nat := fld b 4 4
/-- ARG1. -/
def arg1 (b : List Byte) : Nat := fld b 8 4
/-- LEN. -/
def reqLen (b : List Byte) : Nat := fld b 12 4
/-- DATA. -/
def reqData (b : List Byte) : List Byte := (b.drop 16).take (reqLen b)

/-- A reserved byte, or an operand the request does not use, is not 0, or LEN exceeds 240 (R852, R860; assumption 22). -/
def reqInvalid (b : List Byte) (useArg0 useArg1 useData : Bool) : Bool :=
  fld b 2 2 != 0 || decide (240 < reqLen b) || (!useArg0 && arg0 b != 0) || (!useArg1 && arg1 b != 0) ||
  (!useData && reqLen b != 0)

/-- What a request that passed its first checks does: a state and a response, or a status. -/
abbrev ReqBody := State → List Byte → State × Option MgmtRsp

/-- Serve a request of one code: permission, readiness and form first, then its own conditions and effect (R858, R860). -/
def State.serve (s : State) (src : Option Nat) (req : List Byte) (code : Nat) (useArg0 useArg1 useData : Bool) (body : ReqBody) : State :=
  match s.requestOf src req with
  | none => s
  | some b =>
    let tag := s.reqTag src
    if fld b 0 2 != code then s
    else if code != 1 && (match src with | some f => f != 0 | none => false) then s.respond src tag (rspOk code 3)
    else if code != 1 && s.dev == .kindling then s.respond src tag (rspOk code 8)
    else if reqInvalid b useArg0 useArg1 useData then s.respond src tag (rspOk code 2)
    else match body s b with
      | (s, some r) => s.respond src tag { r with code := code }
      | (s, none) => s

/-- MAILBOX_OVERRUN (R854). -/
def execMailboxOverrun (fn : Nat) (s : State) : Host.Outcome State Fault Refusal :=
  if (s.log fn).mbx.busy then .next (s.mLog fn fun l => { l with mbx := { l.mbx with overrun := true } }) else .next s

/-- The 32 bytes of GET_INFO (R859). -/
def State.info (s : State) : List Byte :=
  padTo 32 (toLe 8 s.fuses.serial.toNat ++ toLe 4 s.warden.fwVer.toNat ++ toLe 4 s.img.imageVer.toNat ++ toLe 1 s.dev.code ++
    toLe 1 (b2n s.img.bx3) ++ toLe 1 (match s.warden.imageSlot with | none => 0xFF | some b => b2n b) ++
    toLe 1 s.warden.refusal ++ toLe 1 s.fuses.imageSec ++ toLe 1 s.fuses.firmwareSec)

/-- GET_INFO (R858, R859); a request whose CODE R858 does not list is answered here with UNKNOWN_CODE (R860). -/
def execGetInfo (src : Option Nat) (req : List Byte) (s : State) : Host.Outcome State Fault Refusal :=
  match s.requestOf src req with
  | none => .next s
  | some b =>
    if reqCodes.contains (fld b 0 2) then
      .next (s.serve src req 1 false false false fun s _ => (s, some { data := s.info }))
    else .next (s.respond src (s.reqTag src) (rspOk (fld b 0 2) 7))

/-- Post a state request (R838, R839). -/
def State.postState (s : State) (src : Option Nat) (toBanked : Bool) : State :=
  let tag := s.reqTag src
  s.mWarden fun w => { w with stateReq := some { toBanked := toBanked, fn := src, tag := tag } }

/-- ENTER_BANKED (R839, R875): granted in Service of the Native personality only, answered after its boundary. -/
def execEnterBanked (src : Option Nat) (req : List Byte) (s : State) : Host.Outcome State Fault Refusal :=
  .next (s.serve src req 2 false false false fun s _ =>
    if s.dev == .service && !s.img.bx3 && s.flt.quenchDue.isNone && s.warden.stateReq.isNone then (s.postState src true, none)
    else (s, some (rspOk 2 4)))

/-- LEAVE_BANKED (R839): granted in Banked only, answered after its boundary. -/
def execLeaveBanked (src : Option Nat) (req : List Byte) (s : State) : Host.Outcome State Fault Refusal :=
  .next (s.serve src req 3 false false false fun s _ =>
    if s.dev == .banked && s.flt.quenchDue.isNone && s.warden.stateReq.isNone then (s.postState src false, none) else (s, some (rspOk 3 4)))

/-- Insert a record by SEQ. -/
def insertRec (r : FaultRec) : List FaultRec → List FaultRec
  | [] => [r]
  | x :: t => if r.seq.toNat < x.seq.toNat then r :: x :: t else x :: insertRec r t

/-- READ_ERROR_LOG (R858). -/
def execReadErrorLog (src : Option Nat) (req : List Byte) (s : State) : Host.Outcome State Fault Refusal :=
  .next (s.serve src req 0x10 true true false fun s b =>
    let from' := arg0 b + arg1 b * 2 ^ 32
    let pick := ((s.warden.errorLog.filter fun r => decide (from' ≤ r.seq.toNat)).foldl (fun l r => insertRec r l) []).take 15
    let oldest := match s.warden.errorLog with | [] => s.flt.nextSeq.toNat | r :: _ => r.seq.toNat
    (s, some { val0 := BitVec.ofNat 32 oldest, val1 := BitVec.ofNat 32 (oldest / 2 ^ 32), data := pick.flatMap faultBytes }))

/-- READ_SPARING_LOG (R858). -/
def execReadSparingLog (src : Option Nat) (req : List Byte) (s : State) : Host.Outcome State Fault Refusal :=
  .next (s.serve src req 0x11 true false false fun s b =>
    let pick := (s.warden.sparingLog.filter fun e => decide (arg0 b ≤ e.lseq.toNat)).take 31
    let oldest := match s.warden.sparingLog with | [] => s.warden.nextLseq | e :: _ => e.lseq
    (s, some { val0 := oldest, data := pick.flatMap sparingBytes }))

/-- The number of instances of an event of R797; 0 for the events whose INSTANCE must be 0xFF. -/
def eventInstances (e : Nat) : Nat :=
  if e = 1 ∨ e = 2 ∨ e = 3 then 160 else if e = 4 ∨ e = 5 ∨ e = 8 ∨ e = 0xB then 8
  else if e = 6 ∨ e = 7 ∨ e = 9 ∨ e = 0xA ∨ e = 0xC then 2 else if e = 0xD then 16 else 0

/-- A counter configuration block is accepted (R796, R797). -/
def counterBlockOk (d : List Byte) : Bool :=
  decide (fld d 1 1 < 32 ∧ fld d 2 1 ≤ 0x10) && (fld d 3 1 == 0xFF || decide (fld d 3 1 < eventInstances (fld d 2 1))) &&
  bits (fld d 4 2) 14 12 == 0 && decide (fld d 6 1 < 64) && zeroIn d 7 57

/-- A trace configuration block is accepted (R805). -/
def traceBlockOk (d : List Byte) : Bool :=
  let ring := fld d 1 1 == 1
  decide (fld d 1 1 ≤ 1 ∧ fld d 2 1 ≤ 1 ∧ fld d 3 1 ≤ 24) && !bit (fld d 4 2) 0 && bits (fld d 6 2) 14 12 == 0 &&
  bits (fld d 8 1) 6 5 == 0 && zeroIn d 9 7 && zeroIn d 25 3 && zeroIn d 32 32 &&
  (if ring then fld d 16 8 % 4096 == 0 && decide (12 ≤ fld d 24 1 ∧ fld d 24 1 ≤ 24 ∧ 1 ≤ fld d 28 4 ∧ fld d 28 4 ≤ 4000)
   else zeroIn d 16 16)

/-- Hold an accepted configuration block for the next boundary (R793). -/
def State.acceptBlock (s : State) (d : List Byte) : State :=
  let ctx := fld d 4 2
  if fld d 0 1 = 1 then
    s.mChm fun c => { c with dueCtr := c.dueCtr ++ [(fld d 1 1,
      { event := fld d 2 1, inst := fld d 3 1, ctx := ctx % 4096, any := bit ctx 15, classMask := fld d 6 1 })] }
  else
    s.mChm fun c => { c with dueDest := c.dueDest ++ [(fld d 1 1,
      { en := bit (fld d 2 1) 0, placeLog2 := fld d 3 1, kindMask := BitVec.ofNat 16 ctx, ctx := fld d 6 2 % 4096
        ctxAny := bit (fld d 6 2) 15, fn := fld d 8 1 % 32, fnAny := bit (fld d 8 1) 7, base := BitVec.ofNat 64 (fld d 16 8)
        log2 := fld d 24 1, rate := fld d 28 4 })] }

/-- CHIMNEY_CONFIG (R792, R793, R796, R805). -/
def execChimneyConfig (src : Option Nat) (req : List Byte) (s : State) : Host.Outcome State Fault Refusal :=
  .next (s.serve src req 0x20 false false true fun s b =>
    let d := reqData b
    if reqLen b != 64 || !(if fld d 0 1 = 1 then counterBlockOk d else fld d 0 1 == 2 && traceBlockOk d) then (s, some (rspOk 0x20 2))
    else if s.dev == .off then (s, some (rspOk 0x20 4))
    else (s.acceptBlock d, some (rspOk 0x20 0)))

/-! ### Updates -/

/-- Open a session and erase the staging area (R861). -/
def State.stageOpen (s : State) (image : Bool) (len : Nat) : State :=
  s.mWarden fun w => { w with staging := some { image := image, len := len }, qspi := flashErase w.qspi stagingBase stagingBytes }

/-- STAGE_BEGIN (R858, R861). -/
def execStageBegin (src : Option Nat) (req : List Byte) (s : State) : Host.Outcome State Fault Refusal :=
  .next (s.serve src req 0x30 true true false fun s b =>
    let image := arg0 b == 2
    if !(arg0 b == 1 || image) || decide (slotBytes image - 64 < arg1 b) then (s, some (rspOk 0x30 2))
    else if s.warden.staging.isSome then (s, some (rspOk 0x30 5))
    else (s.stageOpen image (arg1 b), some (rspOk 0x30 0)))

/-- STAGE_DATA (R858, R861); without a session it is in the wrong state (assumption 22). -/
def execStageData (src : Option Nat) (req : List Byte) (s : State) : Host.Outcome State Fault Refusal :=
  .next (s.serve src req 0x31 true false true fun s b =>
    if reqLen b = 0 then (s, some (rspOk 0x31 2))
    else match s.warden.staging with
      | none => (s, some (rspOk 0x31 4))
      | some st =>
        if st.len < arg0 b + reqLen b then (s, some (rspOk 0x31 2))
        else (s.mWarden fun w => { w with qspi := cellsSet w.qspi (stagingBase + arg0 b) (reqData b) }, some (rspOk 0x31 0)))

/-- The staged bytes pass R829, and for an image R834 (R861). -/
def State.stagedOk (s : State) (image sig : Bool) : Bool :=
  let q := s.warden.qspi
  verifies q stagingBase image (if image then s.fuses.imageSec else s.fuses.firmwareSec) sig &&
  (!image || imageReason q stagingBase s.fuses.orderingNS == 0)

/-- Write the staged bytes to the slot with the lower SLOT_GEN and set its SLOT_GEN one above the other's (R861). -/
def writeSlot (q : List Host.Cell) (image : Bool) (len : Nat) : List Host.Cell :=
  let b := decide (slotGen q image true ≤ slotGen q image false)
  let base := slotBase image b
  cellsSet (cellsSet (flashErase q base (slotBytes image)) base (cellsGet q stagingBase len))
    (base + slotBytes image - 64) (toLe 4 (slotGen q image (!b) + 1))

/-- Close a session, its bytes written when they pass (R861, R862). -/
def State.stageClose (s : State) (st : Staging) (sig activate : Bool) : State × Bool :=
  let ok := s.stagedOk st.image sig
  (s.mWarden fun w => { w with
    staging := none, qspi := if ok then writeSlot w.qspi st.image st.len else w.qspi
    activate := w.activate || (ok && activate && !st.image) }, ok)

/-- STAGE_COMMIT (R858, R861, R862). -/
def execStageCommit (src : Option Nat) (req : List Byte) (sig : Bool) (s : State) : Host.Outcome State Fault Refusal :=
  .next (s.serve src req 0x32 true false false fun s b =>
    match s.warden.staging with
    | none => (s, some (rspOk 0x32 (if 1 < arg0 b then 2 else 4)))
    | some st =>
      if 1 < arg0 b ∨ (arg0 b = 1 ∧ st.image) then (s.mWarden fun w => { w with staging := none }, some (rspOk 0x32 2))
      else
        let r := s.stageClose st sig (arg0 b == 1)
        (r.1, some (rspOk 0x32 (if r.2 then 0 else 6))))

/-- SET_RTC (R858, R959). -/
def execSetRtc (src : Option Nat) (req : List Byte) (s : State) : Host.Outcome State Fault Refusal :=
  .next (s.serve src req 0x50 true true false fun s b =>
    (s.mWarden fun w => { w with rtc := arg0 b + arg1 b * 2 ^ 32 }, some (rspOk 0x50 0)))

/-! ### The management network -/

/-- MCTP_CONTROL (R863, R865): the bus owner of the I3C/SMBus port may assign an endpoint ID. -/
def execMctpControl (assign : Option Nat) (s : State) : Host.Outcome State Fault Refusal :=
  if s.warden.running then .next (s.mWarden fun w => { w with eidI3c := assign.getD w.eidI3c }) else .next s

/-- PLDM_SET_EVENT_RECEIVER (R867). -/
def execPldmSetEventReceiver (receiver : Option Nat) (s : State) : Host.Outcome State Fault Refusal :=
  if s.warden.running then .next (s.mWarden fun w => { w with eventReceiver := receiver }) else .next s

/-- The value of a sensor: 0 to 7 stack temperatures, 8 and 9 die temperatures, 10 package power, 11 the device state, 12
the Hearth clock level, others rail currents (R867, R922, R944; numbering: assumption 23). -/
def State.sensorValue (s : State) (sensor railCurrent : Nat) : Int :=
  if sensor < 8 then toS 16 (mapGetD s.dampers.perStack sensor {}).temp.toNat
  else match sensor with
    | 8 => s.power.dieTemp0 | 9 => s.power.dieTemp1 | 10 => (s.power.powerW : Int) | 11 => (s.dev.code : Int)
    | 12 => (s.power.hlevel : Int) | _ => (railCurrent : Int)

/-- PLDM_SENSOR_READ (R867). -/
def execPldmSensorRead (sensor railCurrent : Nat) (s : State) : Host.Outcome State Fault Refusal :=
  if s.warden.running then .next (s.mWarden fun w => { w with sensor := s.sensorValue sensor railCurrent }) else .next s

/-- PLDM_FIRMWARE_UPDATE (R868, R822): the whole update, in recovery too; it needs the one staging session (R861). -/
def execPldmFirmwareUpdate (image : Bool) (data : List Byte) (sig activate : Bool) (s : State) : Host.Outcome State Fault Refusal :=
  if !(s.warden.running || s.warden.recovery) || s.warden.staging.isSome || decide (slotBytes image - 64 < data.length) then .next s
  else
    let s := (s.stageOpen image data.length).mWarden fun w => { w with qspi := cellsSet w.qspi stagingBase data }
    .next (s.stageClose { image := image, len := data.length, pldm := true } sig activate).1

/-- The bytes measured at an index (R869); the ROM's digest is fixed by the part (assumption 24). -/
def State.measurement (s : State) (idx : Nat) : List Byte :=
  match idx with
  | 2 => sha384 s.warden.fwSigned
  | 3 => if s.warden.imageSlot.isNone then List.replicate 48 0 else sha384 s.warden.imgSigned
  | 4 => sha384 (s.warden.mapApplied.flatMap sparingBytes)
  | 5 => sha384 (toLe 1 s.fuses.imageSec ++ toLe 1 s.fuses.firmwareSec)
  | _ => Config.romDigest

/-- SPDM_GET_MEASUREMENTS (R869). -/
def execSpdmGetMeasurements (idx : Nat) (s : State) : Host.Outcome State Fault Refusal :=
  if s.warden.running ∧ 1 ≤ idx ∧ idx ≤ 5 then .next (s.mWarden fun w => { w with digest := s.measurement idx }) else .next s

end Sys2Proof.Machine
end

