-- ==== Sys2Proof/Machine/Boot.lean ====
section
/-!
DEFINITION. Cold reset, trips and the start-up sequence (R834 to R836, R846 to R851, R921, R926, R927, R946, R951): the image check, the
sparing map, the tests of Kindling, the loading of settings and the end of Kindling.
-/
namespace Sys2Proof.Machine

/-! ### Cold reset -/

/-- What a cold reset leaves of the Warden island: everything but the image slot in use and the posted request (R849). -/
def Warden.coldReset (w : Warden) : Warden :=
  { w with imageSlot := none, refusal := 0, imgSigned := [], sparingFullRaised := false, stateReq := none }

/-- A cold reset (R849): every unit but the Warden island returns to its reset values; stack, Depot and Ledger contents are lost; host
memory, the pool, the drives' blocks, the fuses and the lands stay. A posted state request is withdrawn (assumption 44). -/
def State.coldReset (s : State) : State :=
  let s := s.withdrawRequest
  { State.reset with
    pending := s.pending, time := s.time, fuses := s.fuses, warden := s.warden.coldReset, bus := s.bus
    dev := if s.dev == .off then .off else .kindling
    pins := { s.pins with clrPerstN := false }
    boot := { since := s.time }
    cellar := { blocks := s.cellar.blocks }
    mem := { host := s.mem.host, pool := s.mem.pool, hostPoison := s.mem.hostPoison, poolPoison := s.mem.poolPoison }
    power := { dieTemp0 := s.power.dieTemp0, dieTemp1 := s.power.dieTemp1, powerW := s.power.powerW } }

/-- CZ_RESET_ASSERT (R849): CZ_RESET_N held low. -/
def execCzResetAssert (s : State) : Host.Outcome State Fault Refusal :=
  .next (s.coldReset.mPins fun p => { p with czResetN := false })

/-- A trip (R921, R946): the clocks stop, the links go idle, the part is Off; no fault is raised. -/
def State.trip (s : State) : State :=
  let s := s.withdrawRequest
  let s := s.mPins fun p => { p with clocksStopped := true, clrPerstN := false }
  let s := s.mXlt fun x => { x with port0 := { x.port0 with up := false }, port1 := { x.port1 with up := false } }
  let s := s.mRoutes fun r => { r with ports := r.ports.map fun p => (p.1, { p.2 with st := .disabled }) }
  { s with dev := .off }

/-- RAIL_TRIP (R921). -/
def execRailTrip (s : State) : Host.Outcome State Fault Refusal :=
  if s.dev == .off then .next (s.mPins fun p => { p with railsOk := false })
  else .next (s.trip.mPins fun p => { p with railsOk := false })

/-- COMPUTE_RAILS_POWER_DOWN (R926): CZ_RESET_N low, then the rails; the part is Off. -/
def execComputeRailsPowerDown (s : State) : Host.Outcome State Fault Refusal :=
  .next { s.coldReset.mPins (fun p => { p with czResetN := false, railsOk := false }) with dev := .off }

/-! ### The image -/

/-- Refuse an image: 0x0901, and Quenched with the reason recorded (R834). -/
def State.refuseImage (s : State) (reason : Nat) : State :=
  ((s.mWarden fun w => { w with refusal := reason }).raise { code := 0x901 }).enterQuenched 0x901

/-- Kindling begins: the Warden chooses, reads and checks an image slot (R829, R831, R834). -/
def State.kindle (s : State) (sigA sigB : Bool) : State :=
  let q := s.warden.qspi
  let s := { s with dev := .kindling, boot := { since := s.time } }
  match chooseSlot q true s.fuses.imageSec sigA sigB with
  | none => s.refuseImage 1
  | some b =>
    let base := slotBase true b
    let s := s.mWarden fun w => { w with imageSlot := some b, imgSigned := cellsGet q base (signedLen q base) }
    let r := imageReason q base s.fuses.orderingNS
    if r != 0 then s.refuseImage r
    else (s.mImg fun _ => readImage q base).mBoot fun x => { x with imageOk := true, base := sparingBase q base }

/-- CZ_RESET_RELEASE (R835, R846, R923, R927): with the Warden's firmware running and every rail within its limits. -/
def execCzResetRelease (sigA sigB : Bool) (s : State) : Host.Outcome State Fault Refusal :=
  if s.warden.running && !s.pins.czResetN then
    .next ((s.mPins fun p => { p with czResetN := true, railsOk := true, thermtripN := true, clocksStopped := false }).kindle sigA sigB)
  else .next s

/-- COLD_RESET (R856, R858): in Banked and Quenched; answered, then the part cold-resets and Kindling begins. -/
def execColdReset (src : Option Nat) (req : List Byte) (sigA sigB : Bool) (s : State) : Host.Outcome State Fault Refusal :=
  .next (s.serve src req 0x40 false false false fun s _ =>
    if s.dev == .banked || s.dev == .quenched then
      (((s.respond src (s.reqTag src) (rspOk 0x40 0)).coldReset).kindle sigA sigB, none)
    else (s, some (rspOk 0x40 4)))

/-- Kindling proceeds. -/
def State.kindling (s : State) : Bool := s.dev == .kindling && s.pins.czResetN && s.flt.quenchDue.isNone && s.boot.imageOk

/-! ### The sparing map -/

/-- What a sparing entry is about: one resource of one instance, by the location replaced (R789). -/
def SparingEntry.key (e : SparingEntry) : Nat × Nat × Nat := (e.resource, e.inst, e.fromLoc)

/-- Compact a log: the newest entry of each resource in use (R790). -/
def compactLog : List SparingEntry → List SparingEntry
  | [] => []
  | e :: t => if t.any (·.key == e.key) then compactLog t else e :: compactLog t

/-- The sparing map (R833): factory entries that the log does not govern, then the compacted log. -/
def State.sparingMap (s : State) : List SparingEntry :=
  let l := compactLog s.warden.sparingLog
  s.boot.base.filter (fun e => !l.any (·.key == e.key)) ++ l

/-- Apply one entry of the map (R786, R833). -/
def State.applySparing (s : State) (e : SparingEntry) : State :=
  match e.resource with
  | 1 => s.mPhys e.inst fun p => { p with retired := true }
  | 2 => s.mPhys e.inst fun p => { p with grRetired := p.grRetired ||| BitVec.ofNat 4 (2 ^ e.fromLoc) }
  | 3 => s.mSerai e.inst fun u => { u with
      lanes := (u.lanes &&& ~~~ BitVec.ofNat 17 (2 ^ e.fromLoc)) ||| (if e.toLoc = 16 then 0x10000 else 0)
      laneMap := if e.toLoc = 0xFFFFFFFF then u.laneMap else u.laneMap ++ [(e.fromLoc, e.toLoc)] }
  | 5 =>
    if e.toLoc = 0xFFFFFFFF then s
    else s.mFlt fun f => { f with
      sparedRows := mapSet f.sparedRows ((e.inst % 256 * 64 + e.inst / 256) * 2 ^ 32 + e.fromLoc) e.toLoc }
  | 6 => s.mFlt fun f => { f with disabledWays := f.disabledWays ++ [e.fromLoc] }
  | 7 => s.mDrovers fun d => { d with inService := d.inService &&& ~~~ BitVec.ofNat 16 (2 ^ e.inst) }
  | _ => s

/-- STACK_DRAM_TRAINED (R836, R846): a stack has trained, or has failed; with the eighth the sparing map is loaded (R833). -/
def execStackDramTrained (stack : Nat) (ok : Bool) (s : State) : Host.Outcome State Fault Refusal :=
  if !s.kindling || decide (8 ≤ stack) || s.boot.trained.contains stack then .next s
  else if !ok then
    .next (((s.mBoot fun x => { x with failedStacks := stack :: x.failedStacks }).raise
      { code := 0x338, detail := detWindow stack 0xFFFF 0 0 }).enterQuenched 0x338)
  else
    let s := s.mBoot fun x => { x with trained := stack :: x.trained }
    if s.boot.trained.length = 8 then
      let m := s.sparingMap
      let s := m.foldl State.applySparing s
      .next ((s.mWarden fun w => { w with mapApplied := m }).mBoot fun x => { x with mapLoaded := true })
    else .next s

/-! ### Tests and settings -/

/-- A physical Hearth that fails the Ember Test of Kindling is retired (R782, R836). -/
def State.retireHearth (s : State) (p : Nat) : State :=
  let s := s.mPhys p fun x => { x with retired := true }
  let s := s.mQuarter (p / 21) fun u => { u with fails := satAdd 255 u.fails 1 }
  (s.raise { code := 0x420, detail := detWindow p 0xFFFF 0 0 }).spare
    { resource := 1, action := 1, inst := p, fromLoc := p, toLoc := 0xFFFFFFFF, code := 0x420 }

/-- KINDLING_EMBER_TEST (R781, R782): the test has run on all 168 physical Hearths at once; `failed` lists those that failed. -/
def execKindlingEmberTest (failed : List Nat) (s : State) : Host.Outcome State Fault Refusal :=
  if !s.kindling || !s.boot.mapLoaded || s.boot.emberDone then .next s
  else
    let s := (failed.filter fun p => decide (p < 168) && !(s.phys p).retired).foldl State.retireHearth s
    .next (s.mBoot fun x => { x with emberDone := true })

/-- The settings of the image reach every unit, KEY_SEED is drawn and TICK_NUM is 0 (R42, R174, R703, R846); in the BX-3 personality the
sources and ports that R874 ignores stay at their reset values. -/
def State.loadSettings (s : State) (seed : Nat) : State :=
  let i := s.img
  let s := s.mTck fun t =>
    if i.bx3 then { t with period10us := i.period10us }
    else { t with
      period10us := i.period10us, source := i.tickSource, routePort := i.tickPort, outEn := i.tickOut
      compNs := BitVec.ofNat 16 i.compNs }
  let s := s.mTck fun t => { t with admit100 := s.admitNs / 100, num := 0 }
  let s := s.mRoutes fun r => { r with
    ports := (List.range 8).map fun p =>
      (p, { (mapGetD r.ports p {}) with st := if (i.route.getD p {}).enable && !i.bx3 then .down else .disabled }) }
  let s := s.mLdg fun l => { l with keySeed := BitVec.ofNat 64 seed, keyCount := 0 }
  (s.mImg fun i => { i with loaded := true }).mBoot fun x => { x with katDone := true, seed := true }

/-- KINDLING_KNOWN_ANSWER_TESTS (R777, R836): every unit has passed and the settings are loaded, or a unit, 16 × kind + number, has
failed and its self-check fault enters Quenched. -/
def execKindlingKnownAnswerTests (failed : Option Nat) (seed : Nat) (s : State) : Host.Outcome State Fault Refusal :=
  if !s.kindling || !s.boot.emberDone || s.boot.katDone then .next s
  else match failed with
    | none => .next (s.loadSettings seed)
    | some u =>
      let code := selfCheckCode (u / 16)
      .next ((s.raise { code := code, detail := detWindow (u % 16) 0xFFFF 0 0 }).enterQuenched code)

/-- CELLAR_ENUMERATION (R221, R790, R951): up to 16 controllers, numbered in enumeration order, each with its namespaces and the queue
pairs it grants; the sparing log is compacted. The BX-3 personality enumerates no drives. -/
def execCellarEnumeration (ctrls : List (List Namespace × Nat)) (s : State) : Host.Outcome State Fault Refusal :=
  if !s.kindling || !s.boot.katDone || s.boot.cellarDone then .next s
  else
    let found := if s.img.bx3 then [] else ctrls.take 16
    let s := s.mCellar fun c => { c with
      present := BitVec.ofNat 16 (2 ^ found.length - 1)
      ctrls := (List.range found.length).map fun i => (i, { spaces := (found.getD i ([], 0)).1, pairs := min 4 (found.getD i ([], 0)).2 }) }
    let s := s.mPins fun p => { p with clrPerstN := !s.img.bx3 }
    .next ((s.mWarden fun w => { w with sparingLog := compactLog w.sparingLog }).mBoot fun x => { x with cellarDone := true })

/-! ### The end of Kindling -/

/-- The physical Hearths of a quarter that are active, in slot order (R330). -/
def State.activeHearths (s : State) (q : Nat) : List Nat := ((List.range 21).map (21 * q + ·)).filter fun p => !(s.phys p).retired

/-- Place a quarter's logical Hearths, and name its spare (R330, R331). -/
def State.mapQuarter (s : State) (q : Nat) : State :=
  let a := s.activeHearths q
  let s := (List.range 20).foldl (fun s i =>
    match a[i]? with
    | some p => s.mHearth (20 * q + i) fun h => { h with phys := p, inService := true }
    | none => s.mHearth (20 * q + i) fun h => { h with inService := false }) s
  let s := a.foldl (fun s p => s.mPhys p fun x => { x with lastPassTick := 0, lastPassAt := s.time }) s
  s.mQuarter q fun u => { u with spare := a[20]? }

/-- A host link port whose PERST# is deasserted trains (R846, R871). -/
def LinkPort.trained (l : LinkPort) (held : Bool) (rate width : Nat) : LinkPort :=
  if held || l.up then l else { l with up := true, rate := rate, width := width }

/-- KINDLING_END (R22, R44, R330, R830, R846, R875): tick 0 begins, START_STATE is entered and the host link is presented. -/
def execKindlingEnd (rate0 width0 rate1 width1 : Nat) (s : State) : Host.Outcome State Fault Refusal :=
  if !s.kindling || !s.boot.cellarDone then .next s
  else
    let s := (List.range 8).foldl State.mapQuarter s
    let s := s.mHearths fun u => { u with
      gratesLoaded := ((u.logical.filter (·.2.inService)).map fun p => grateCount (s.gratesUp p.2)).sum }
    let s := s.mXlt fun x => { x with
      port0 := x.port0.trained s.pins.perst0 rate0 width0
      port1 := if s.img.bx3 then x.port1 else x.port1.trained s.pins.perst1 rate1 width1 }
    let s := s.mFuses fun f => { f with imageSec := max f.imageSec s.img.securityVer }
    let s := { s with dev := if s.img.startBanked && !s.img.bx3 then .banked else .service }
    let s := s.mTck fun t => { t with num := 0, phase := 0, stateTick := 0, locked := t.source == 0, loadPending := t.follower }
    let s := s.mBoot fun x => { x with ended := s.time, presented := true }
    let s := s.mFlt fun f => { f with hostStopped := f.hostStopped || s.img.bx3 }
    let s := s.mPower fun p => { p with tickEnergy := 0, tickSamples := 0, hotTick := false }
    let s := ((s.levelsStep).snapshot).traceTick 0 false
    let s := s.beginAssembly
    let s := (List.range 8).foldl State.portBoundary s
    .next s.sendTickFrame

end Sys2Proof.Machine
end

