-- ==== Sys2Proof/Machine/IsaVector.lean ====
section
/-!
DEFINITION. Vector integer and cross-lane instructions (R388, R394, R400).
-/
namespace Sys2Proof.Machine

/-- Operand B of a thread: IMM32 in class 0x4, else a register (R381, R394). -/
def Issue.b (i : Issue) (t : Nat) : Nat := if wCls i.w = 4 then wImm i.w else i.g.opB i.w t

/-- VA of a thread. -/
def Issue.a (i : Issue) (t : Nat) : Nat := i.g.vat (wVa i.w) t

/-- The classes of an operation that also has an immediate form. -/
def vcodes (func : Nat) : List (Nat × Nat) := if func ≤ 0x14 then [(2, func), (4, func)] else [(2, func)]

/-- A vector integer instruction: VD of each active thread modulo 2^32 (R394). -/
def State.vecOp (s : State) (r : GroupRef) (func : Nat) (f : Nat → Nat → Nat) : State :=
  s.isaStep r (vcodes func) fun i => i.ret (i.g.vset (wZ i.w) (wVd i.w) fun t => f (i.a t) (i.b t))

/-- The state after n free values have been taken (assumption 5). -/
def State.tookFree (s : State) (n : Nat) : State := s.mHearths fun u => { u with freeCount := u.freeCount + n }

/-- The free value of a thread in this instruction (assumption 5). -/
def Issue.free (i : Issue) (t : Nat) : Nat := (Config.freeValue (i.s.hearths.freeCount + t)).toNat

/-- The bits of the active threads for which a condition holds. -/
def Group.bitsWhere (g : Group) (p : Nat → Bool) : Nat := threadMask (g.active.filter p)

/-- A compare into a scalar register (R394); the immediate form has no field for the compare code, so its bits are free. -/
def State.vecCmp (s : State) (r : GroupRef) (func : Nat) (signed : Bool) : State :=
  s.isaStep r (vcodes func) fun i =>
    if wCls i.w = 4 then .retire (i.g.sset (wVd i.w) (i.g.exec.toNat &&& i.free 0)) (i.s.tookFree 1)
    else
      let v (x : Nat) : Int := if signed then toS 32 x else x
      i.ret (i.g.sset (wVd i.w) (i.g.bitsWhere fun t => cmpHolds (wVc i.w) (v (i.a t)) (v (i.b t))))

/-- VADD: VD = VA + B (R394). -/
def execVadd (g : GroupRef) (s : State) : Host.Outcome State Fault Refusal :=
  .next (s.vecOp g 0x00 fun a b => a + b)

/-- VSUB: VD = VA − B (R394). -/
def execVsub (g : GroupRef) (s : State) : Host.Outcome State Fault Refusal :=
  .next (s.vecOp g 0x01 fun a b => ofS 32 ((a : Int) - b))

/-- VMUL: the low 32 bits of VA × B (R394). -/
def execVmul (g : GroupRef) (s : State) : Host.Outcome State Fault Refusal :=
  .next (s.vecOp g 0x02 fun a b => a * b)

/-- VMULHI.S: the high 32 bits of the signed product (R394). -/
def execVmulhiS (g : GroupRef) (s : State) : Host.Outcome State Fault Refusal :=
  .next (s.vecOp g 0x03 fun a b => ofS 32 (toS 32 a * toS 32 b / 2 ^ 32))

/-- VMULHI.U: the high 32 bits of the unsigned product (R394). -/
def execVmulhiU (g : GroupRef) (s : State) : Host.Outcome State Fault Refusal :=
  .next (s.vecOp g 0x04 fun a b => a * b / 2 ^ 32)

/-- VMAD: the low 32 bits of VA × B + VC (R394); the immediate form has no field for VC, so that addend is free. -/
def execVmad (g : GroupRef) (s : State) : Host.Outcome State Fault Refusal :=
  .next (s.isaStep g (vcodes 5) fun i =>
    let free := wCls i.w == 4
    .retire (i.g.vset (wZ i.w) (wVd i.w) fun t => i.a t * i.b t + if free then i.free t else i.g.vat (wVc i.w) t)
      (if free then i.s.tookFree 64 else i.s))

/-- VAND: bitwise and (R394). -/
def execVand (g : GroupRef) (s : State) : Host.Outcome State Fault Refusal :=
  .next (s.vecOp g 0x06 fun a b => a &&& b)

/-- VOR: bitwise or (R394). -/
def execVor (g : GroupRef) (s : State) : Host.Outcome State Fault Refusal :=
  .next (s.vecOp g 0x07 fun a b => a ||| b)

/-- VXOR: bitwise exclusive or (R394). -/
def execVxor (g : GroupRef) (s : State) : Host.Outcome State Fault Refusal :=
  .next (s.vecOp g 0x08 fun a b => a ^^^ b)

/-- VSHL: shift left by B & 31 (R394). -/
def execVshl (g : GroupRef) (s : State) : Host.Outcome State Fault Refusal :=
  .next (s.vecOp g 0x09 fun a b => a * 2 ^ (b % 32))

/-- VSHR: logical shift right by B & 31 (R394). -/
def execVshr (g : GroupRef) (s : State) : Host.Outcome State Fault Refusal :=
  .next (s.vecOp g 0x0A fun a b => a / 2 ^ (b % 32))

/-- VSAR: arithmetic shift right by B & 31 (R394). -/
def execVsar (g : GroupRef) (s : State) : Host.Outcome State Fault Refusal :=
  .next (s.vecOp g 0x0B fun a b => ofS 32 (toS 32 a / 2 ^ (b % 32)))

/-- VMIN.S: signed minimum (R394). -/
def execVminS (g : GroupRef) (s : State) : Host.Outcome State Fault Refusal :=
  .next (s.vecOp g 0x0C fun a b => if toS 32 a ≤ toS 32 b then a else b)

/-- VMAX.S: signed maximum (R394). -/
def execVmaxS (g : GroupRef) (s : State) : Host.Outcome State Fault Refusal :=
  .next (s.vecOp g 0x0D fun a b => if toS 32 a ≤ toS 32 b then b else a)

/-- VMIN.U: unsigned minimum (R394). -/
def execVminU (g : GroupRef) (s : State) : Host.Outcome State Fault Refusal :=
  .next (s.vecOp g 0x0E fun a b => min a b)

/-- VMAX.U: unsigned maximum (R394). -/
def execVmaxU (g : GroupRef) (s : State) : Host.Outcome State Fault Refusal :=
  .next (s.vecOp g 0x0F fun a b => max a b)

/-- VABS: |VA|; −2^31 stays (R394). -/
def execVabs (g : GroupRef) (s : State) : Host.Outcome State Fault Refusal :=
  .next (s.vecOp g 0x10 fun a _ => (toS 32 a).natAbs)

/-- VCLZ: leading zeros (R394). -/
def execVclz (g : GroupRef) (s : State) : Host.Outcome State Fault Refusal :=
  .next (s.vecOp g 0x11 fun a _ => 32 - (List.range 32).countP fun i => decide (2 ^ i ≤ a))

/-- VPOPC: set bits (R394). -/
def execVpopc (g : GroupRef) (s : State) : Host.Outcome State Fault Refusal :=
  .next (s.vecOp g 0x12 fun a _ => popCount 32 a)

/-- VCMP.S: a signed compare into a scalar register (R394). -/
def execVcmpS (g : GroupRef) (s : State) : Host.Outcome State Fault Refusal :=
  .next (s.vecCmp g 0x13 true)

/-- VCMP.U: an unsigned compare into a scalar register (R394). -/
def execVcmpU (g : GroupRef) (s : State) : Host.Outcome State Fault Refusal :=
  .next (s.vecCmp g 0x14 false)

/-- VSEL: VA where the thread's bit of a scalar register is 1, else B (R394). -/
def execVsel (g : GroupRef) (s : State) : Host.Outcome State Fault Refusal :=
  .next (s.isaStep g [(2, 0x15)] fun i =>
    i.ret (i.g.vset (wZ i.w) (wVd i.w) fun t => if (i.g.sget (wVc i.w)).testBit t then i.a t else i.b t))

/-- VMOV: VD = VA (R394). -/
def execVmov (g : GroupRef) (s : State) : Host.Outcome State Fault Refusal :=
  .next (s.vecOp g 0x16 fun a _ => a)

/-- VLANE: VD = the thread number (R394). -/
def execVlane (g : GroupRef) (s : State) : Host.Outcome State Fault Refusal :=
  .next (s.isaStep g [(2, 0x17)] fun i => i.ret (i.g.vset (wZ i.w) (wVd i.w) fun t => t))

/-- VSHFL: each active thread takes VA of the thread that B names, active or not (R400). -/
def execVshfl (g : GroupRef) (s : State) : Host.Outcome State Fault Refusal :=
  .next (s.isaStep g [(6, 0)] fun i =>
    i.ret (i.g.vset (wZ i.w) (wVd i.w) fun t => i.g.vat (wVa i.w) (i.b t % 64)))

/-- VRDLANE: a scalar register takes VA of one thread, zero-extended (R400). -/
def execVrdlane (g : GroupRef) (s : State) : Host.Outcome State Fault Refusal :=
  .next (s.isaStep g [(6, 1)] fun i =>
    i.ret (i.g.sset (wVd i.w) (i.g.vat (wVa i.w) (i.g.sget (bits i.w 35 32) % 64))))

end Sys2Proof.Machine
end

