-- ==== Sys2Proof/Machine/IsaFloat.lean ====
section
/-!
DEFINITION. Vector float, conversion and random instructions (R395 to R399).
-/
namespace Sys2Proof.Machine

/-- The operand bits of a format: F16 uses bits 15:0 (R395). -/
def opBits (code v : Nat) : Nat := if code = 1 then v % 2 ^ 16 else v

/-- The rounding of an instruction of class 0x3 or of CVT.I2F in a thread; the draw of a stochastic one is free (R138, R399,
assumption 5). -/
def Issue.rnd (i : Issue) (t : Nat) : Rnd :=
  if wRmode i.w = 1 then { mode := 1, draw := i.free t % 2 ^ 16 } else { mode := wRmode i.w }

/-- The state after an instruction that may have drawn freely. -/
def Issue.drew (i : Issue) : State := if wRmode i.w = 1 then i.s.tookFree 64 else i.s

/-- A result in each active thread with its flags (R155, R388, R395). -/
def Issue.lanes (i : Issue) (f : Nat → Nat × Nat) : Group :=
  (i.g.vset (wZ i.w) (wVd i.w) fun t => (f t).1).orFlags (orAll (i.g.active.map fun t => (f t).2))

/-- A vector float instruction on VA, B and VC (R395). -/
def State.floatOp (s : State) (r : GroupRef) (func : Nat) (f : Nat → Rnd → Nat → Nat → Nat → Nat × Nat) : State :=
  s.isaStep r [(3, func)] fun i =>
    let c := wFmt i.w
    .retire (i.lanes fun t => f c (i.rnd t) (opBits c (i.a t)) (opBits c (i.b t)) (opBits c (i.g.vat (wVc i.w) t))) i.drew

/-- FABS and FNEG: the sign bit cleared or flipped; a NaN becomes the canonical NaN; no flag (R395). -/
def signOp (code : Nat) (flip : Bool) (v : Nat) : Nat × Nat :=
  let f := ffmt code
  if (f.dec v).isNan then (f.qnan, 0) else (if flip then v ^^^ f.sbit else v % f.sbit, 0)

/-- FADD: VA + B (R395). -/
def execFadd (g : GroupRef) (s : State) : Host.Outcome State Fault Refusal :=
  .next (s.floatOp g 0x00 fun c r a b _ => fadd c r a b)

/-- FSUB: VA − B (R395). -/
def execFsub (g : GroupRef) (s : State) : Host.Outcome State Fault Refusal :=
  .next (s.floatOp g 0x01 fun c r a b _ => fsub c r a b)

/-- FMUL: VA × B (R395). -/
def execFmul (g : GroupRef) (s : State) : Host.Outcome State Fault Refusal :=
  .next (s.floatOp g 0x02 fun c r a b _ => fmul c r a b)

/-- FFMA: VA × B + VC, rounded once (R395). -/
def execFfma (g : GroupRef) (s : State) : Host.Outcome State Fault Refusal :=
  .next (s.floatOp g 0x03 fun c r a b v => ffma c r a b v)

/-- FDIV: VA / B (R395). -/
def execFdiv (g : GroupRef) (s : State) : Host.Outcome State Fault Refusal :=
  .next (s.floatOp g 0x04 fun c r a b _ => fdiv c r a b)

/-- FSQRT: the square root of VA (R395). -/
def execFsqrt (g : GroupRef) (s : State) : Host.Outcome State Fault Refusal :=
  .next (s.floatOp g 0x05 fun c r a _ _ => fsqrt c r a)

/-- FMIN: the minimum by R396. -/
def execFmin (g : GroupRef) (s : State) : Host.Outcome State Fault Refusal :=
  .next (s.floatOp g 0x06 fun c _ a b _ => fminmax c false a b)

/-- FMAX: the maximum by R396. -/
def execFmax (g : GroupRef) (s : State) : Host.Outcome State Fault Refusal :=
  .next (s.floatOp g 0x07 fun c _ a b _ => fminmax c true a b)

/-- FABS: the sign bit cleared (R395). -/
def execFabs (g : GroupRef) (s : State) : Host.Outcome State Fault Refusal :=
  .next (s.floatOp g 0x08 fun c _ a _ _ => signOp c false a)

/-- FNEG: the sign bit flipped (R395). -/
def execFneg (g : GroupRef) (s : State) : Host.Outcome State Fault Refusal :=
  .next (s.floatOp g 0x09 fun c _ a _ _ => signOp c true a)

/-- FRCP: 1 / VA, approximated (R178, R395). -/
def execFrcp (g : GroupRef) (s : State) : Host.Outcome State Fault Refusal :=
  .next (s.floatOp g 0x0A fun c _ a _ _ => frcp c a)

/-- FRSQ: 1 / sqrt VA, approximated (R178, R395). -/
def execFrsq (g : GroupRef) (s : State) : Host.Outcome State Fault Refusal :=
  .next (s.floatOp g 0x0B fun c _ a _ _ => frsq c a)

/-- FEXP2: 2^VA, approximated (R178, R395). -/
def execFexp2 (g : GroupRef) (s : State) : Host.Outcome State Fault Refusal :=
  .next (s.floatOp g 0x0C fun c _ a _ _ => fexp2 c a)

/-- FLOG2: log2 VA, approximated (R178, R395). -/
def execFlog2 (g : GroupRef) (s : State) : Host.Outcome State Fault Refusal :=
  .next (s.floatOp g 0x0D fun c _ a _ _ => flog2 c a)

/-- FCMP: a compare of values into a scalar register (R395). -/
def execFcmp (g : GroupRef) (s : State) : Host.Outcome State Fault Refusal :=
  .next (s.isaStep g [(3, 0x0E)] fun i =>
    let c := wFmt i.w
    let v (t : Nat) : Bool × Nat := fcmp c (wVc i.w) (opBits c (i.a t)) (opBits c (i.b t))
    i.ret ((i.g.sset (wVd i.w) (i.g.bitsWhere fun t => (v t).1)).orFlags (orAll (i.g.active.map fun t => (v t).2))))

/-! ### Conversion and random draws -/

/-- P of class 0x5 (R397). -/
def Issue.p (i : Issue) : Nat := i.g.sget (wP i.w)

/-- The generator's output for a thread (R399). -/
def Issue.gen (i : Issue) (t : Nat) : BitVec 64 :=
  Machine.gen i.c.key (bits i.p 31 16) (bits i.p 63 32)
    (elementOf (bits i.p 15 8) (i.g.vat (wVb i.w) t + i.g.vat (wVb i.w + 1) t % 2 ^ 24 * 2 ^ 32))

/-- The rounding of a CVT or CVT.F2I in a thread (R399). -/
def Issue.cvtRnd (i : Issue) (t : Nat) : Rnd :=
  if wRmode i.w = 1 then { mode := 1, draw := roundBits (i.gen t) } else { mode := wRmode i.w }

/-- The operand of a conversion in the bits of its format (R398). -/
def cvtBits (code v : Nat) : Nat := v % 2 ^ fmtBits code

/-- One conversion of CVT: bits and flags (R398). -/
def Issue.cvt (i : Issue) (t : Nat) : Nat × Nat :=
  let src := wSrc i.w
  let dst := wFmt i.w
  let v := cvtBits src (i.a t)
  if 2 ≤ src then decodeElem src v (Scale.ofNat i.p) else convF src v dst (i.cvtRnd t) (toS 8 (i.p % 256))

/-- Count converted elements and those that set CL (R165). -/
def State.countElems (s : State) (cid n clipped : Nat) : State :=
  s.mCmd cid fun c => { c with elems := c.elems + n, clipped := c.clipped + clipped }

/-- How many of a list of flags have CL. -/
def clCount (l : List Nat) : Nat := (l.filter fun f => bit f 5).length

/-- CVT (R141, R165, R398, R399). -/
def execCvt (g : GroupRef) (s : State) : Host.Outcome State Fault Refusal :=
  .next (s.isaStep g [(5, 0)] fun i =>
    let fl := i.g.active.map fun t => (i.cvt t).2
    let narrow := decide (2 ≤ wSrc i.w ∨ 2 ≤ wFmt i.w)
    .retire (i.lanes i.cvt) (if narrow then i.s.countElems i.g.cid fl.length (clCount fl) else i.s))

/-- CVT.I2F (R397). -/
def execCvtI2f (g : GroupRef) (s : State) : Host.Outcome State Fault Refusal :=
  .next (s.isaStep g [(5, 1)] fun i =>
    .retire (i.lanes fun t => i2f (wFmt i.w) (i.rnd t) (i.a t)) i.drew)

/-- CVT.F2I (R397, R399). -/
def execCvtF2i (g : GroupRef) (s : State) : Host.Outcome State Fault Refusal :=
  .next (s.isaStep g [(5, 2)] fun i =>
    i.ret (i.lanes fun t => f2i (wSrc i.w) (i.cvtRnd t) (cvtBits (wSrc i.w) (i.a t))))

/-- VRAND: VD = bits 63:32 of the generator (R171, R397, R399). -/
def execVrand (g : GroupRef) (s : State) : Host.Outcome State Fault Refusal :=
  .next (s.isaStep g [(5, 3)] fun i =>
    i.ret (i.g.vset (wZ i.w) (wVd i.w) fun t => (i.gen t).toNat / 2 ^ 32))

end Sys2Proof.Machine
end

