-- ==== Sys2Proof/Machine/IsaMem.lean ====
section
/-!
DEFINITION. Memory, local store, atomic and sync instructions (R401 to R420, R543 to R554).
-/
namespace Sys2Proof.Machine

/-! ### The accesses of an instruction -/

/-- One thread's access, translated. -/
structure Acc where
  /-- thread -/
  t : Nat
  /-- effective address -/
  da : Nat
  /-- place -/
  pa : PA
  /-- region attribute -/
  attr : Nat

/-- What translating the accesses of all active threads gives (R405): each thread's access or its fault. -/
structure Accs where
  /-- accesses -/
  ok : List Acc := []
  /-- faults: thread, address, code, level -/
  bad : List (Nat × Nat × Nat × Option Nat) := []
  /-- the state with its translation caches changed -/
  st : State

/-- Translate one thread's access of n bytes (R403 to R405); an atomic also checks the attribute (R414). -/
def Accs.add (a : Accs) (i : Issue) (write atomic : Bool) (n : Nat) (t da : Nat) : Accs :=
  if da % n != 0 then { a with bad := a.bad ++ [(t, da, 0x40A, none)] }
  else
    let x := a.st.runTr i.r.hearth i.c.ctx i.x da
    match x.1 with
    | .error e => { a with bad := a.bad ++ [(t, da, e.1, some e.2)], st := x.2 }
    | .ok p =>
      match x.2.pageFault i.c.fn p da n write with
      | some e => { a with bad := a.bad ++ [(t, da, e.1, some e.2)], st := x.2 }
      | none =>
        if atomic && decide (2 ≤ p.attr) then { a with bad := a.bad ++ [(t, da, 0x409, none)], st := x.2 }
        else { a with ok := a.ok ++ [{ t := t, da := da, pa := x.2.place i.c.fn p da, attr := p.attr }], st := x.2 }

/-- Translate every active thread's access before any is made (R405). -/
def Issue.accs (i : Issue) (write atomic : Bool) (n : Nat) (offs : Int) : Accs :=
  i.g.active.foldl (fun a t => a.add i write atomic n t (i.g.addr i.w t offs)) { st := i.s }

/-- The fault of an instruction: that of the lowest faulting thread, with the mask of all (R360, R405). -/
def Accs.fault (a : Accs) : Option Did :=
  match a.bad with
  | [] => none
  | (t, da, code, level) :: rest => some (.fault code (threadMask (t :: rest.map (·.1))) da level)

/-- Bytes of an access of a size code (R401). -/
def sizeBytes (size : Nat) : Nat := 2 ^ size

/-- The registers of a loaded value (R401, R406). -/
def loadRegs (size : Nat) (sx : Bool) (v : Nat) : List Nat :=
  if size < 2 then [if sx then ofS 32 (toS (8 * 2 ^ size) v) else v]
  else (List.range (sizeRegs size)).map fun j => v / 2 ^ (32 * j) % 2 ^ 32

/-- The bytes of a stored value in a thread. -/
def Issue.storeBytes (i : Issue) (t : Nat) : List Byte :=
  (((List.range (sizeRegs (wSize i.w))).flatMap fun j => toLe 4 (i.g.vat (wVd i.w + j) t))).take (sizeBytes (wSize i.w))

/-- Write loaded registers, one list per active thread. -/
def Issue.putRegs (i : Issue) (base n : Nat) (vals : List (Nat × List Nat)) : Group :=
  (List.range n).foldl (fun g j =>
    g.vset (wZ i.w) (base + j) fun t => (((vals.find? (·.1 == t)).map (·.2)).getD []).getD j 0) i.g

/-- A load consumed poisoned data: the context is torn down, not precisely (R362, R769). -/
def Issue.poisoned (i : Issue) (s : State) (mask addr : Nat) : Did :=
  .gone (s.tearCmd i.c { code := 0x632, dkind := 1, detail := groupDetail i.r { i.g with pc := i.g.pc - 8 } mask addr none })

/-- An access waits on another unit's provisional copy: counted once, at the line of a place (R543). -/
def Issue.conflict (i : Issue) (s : State) (p : PA) : Did :=
  if s.depot.waits.contains i.r then .wait s
  else .wait ((s.conflictWait p).mDepot fun d => { d with waits := i.r :: d.waits })

/-- A wait that has ended leaves the list. -/
def State.noWait (s : State) (r : GroupRef) : State := s.mDepot fun d => { d with waits := d.waits.filter (· != r) }

/-- A store into a registered table's page is refused: 0x0341, and the context is torn down (R270). -/
def State.extentRefused (s : State) (c : Cmd) (tid : Nat) (p : PA) : State :=
  let home := ((s.table? tid).map fun t => (t.shard 0).home).getD 0
  (s.mSeraiCnt home fun u => { u with refusedWrites := u.refusedWrites + 1 }).tearCmd c { code := 0x341, dkind := 2, detail := detAddr p.addr 1 0xFF (stackOf p) 0 0 0 }

/-! ### Loads and stores -/

/-- The loads of an instruction in thread order: values, whether any was poisoned, the mask of those, and the state. -/
def State.loadAll (s : State) (i : Issue) (n ch : Nat) : List Acc → List (Nat × Nat) × List (Nat × Nat) × State
  | [] => ([], [], s)
  | a :: rest =>
    let l := s.load i.r i.g.cid i.c a.attr ch a.pa n
    let m := l.st.loadAll i n ch rest
    ((a.t, leNat l.data) :: m.1, if l.bad then (a.t, a.da) :: m.2.1 else m.2.1, m.2.2)

/-- LD (R401 to R407). -/
def execLd (g : GroupRef) (s : State) : Host.Outcome State Fault Refusal :=
  .next (s.isaStep g [(7, 0)] fun i =>
    let n := sizeBytes (wSize i.w)
    let a := i.accs false false n (wOffs i.w)
    match a.fault with
    | some d => d
    | none =>
      let l := a.st.loadAll i n (wCh i.w) a.ok
      match l.2.1 with
      | [] => .retire (i.putRegs (wVd i.w) (sizeRegs (wSize i.w)) (l.1.map fun v => (v.1, loadRegs (wSize i.w) (wSx i.w) v.2))) l.2.2
      | p :: _ => i.poisoned l.2.2 (threadMask (l.2.1.map (·.1))) p.2)

/-- ST (R350, R401 to R407, R543): bytes that several threads write take the highest thread's value. -/
def execSt (g : GroupRef) (s : State) : Host.Outcome State Fault Refusal :=
  .next (s.isaStep g [(7, 1)] fun i =>
    let n := sizeBytes (wSize i.w)
    let ch := wCh i.w
    let a := i.accs true false n (wOffs i.w)
    match a.fault with
    | some d => d
    | none =>
      match a.ok.findSome? fun x => (a.st.guardedBy x.pa n).map fun tid => (tid, x.pa) with
      | some y => .gone (a.st.extentRefused i.c y.1 y.2)
      | none =>
        match a.ok.find? fun x => a.st.hstoreWaits i.r.hearth i.g.cid i.c x.attr ch x.pa n with
        | some x => i.conflict i.s x.pa
        | none =>
          let t := a.ok.foldl (fun s x => s.hstore i.r i.g.cid i.c x.attr ch x.pa (i.storeBytes x.t)) (a.st.noWait i.r)
          .retire (i.g.progress i.s.time) t)

/-- Prefetch one line by attribute and hint (R407, R408). -/
def State.prefetch (s : State) (i : Issue) (a : Acc) : State :=
  let ch := wCh i.w
  if a.attr = 2 ∨ a.attr = 3 ∨ ch = 2 then s
  else if a.attr = 4 ∨ ch = 1 then (s.fillLine i.r.hearth i.g.cid i.c a.pa false true (a.attr == 4)).2
  else (s.l1Line i.r.hearth i.g.cid i.c a.pa false).2

/-- PREF (R408): it raises no fault and does nothing for a thread whose address faults. SIZE and SX are 0 by the encoding. -/
def execPref (g : GroupRef) (s : State) : Host.Outcome State Fault Refusal :=
  .next (s.isaStep g [(7, 2)] fun i =>
    let a := i.accs false false 1 (wOffs i.w)
    .retire i.g (a.ok.foldl (fun s x => s.prefetch i x) a.st))

/-! ### Local store -/

/-- The block of a group. -/
def State.blockOf (s : State) (g : Group) : Block :=
  (s.hearths.blocks.find? fun b => b.cid == g.cid && b.block == g.block).getD {}

/-- The fault of a local store access of n bytes in a thread (R410). -/
def Issue.lsFault (i : Issue) (n t : Nat) : Option Nat :=
  let a := i.g.lsAddr i.w t
  if a < 0 ∨ (lnLs i.c : Int) < a + n then some 0x405 else if a % n != 0 then some 0x40A else none

/-- The faulting threads of a local store instruction, or its body. -/
def Issue.lsStep (i : Issue) (n : Nat) (body : Unit → Did) : Did :=
  match i.g.active.filter fun t => (i.lsFault n t).isSome with
  | [] => body ()
  | t :: rest => .fault ((i.lsFault n t).getD 0x405) (threadMask (t :: rest)) (ofS 64 (i.g.lsAddr i.w t)) none

/-- LDS (R409, R410). -/
def execLds (g : GroupRef) (s : State) : Host.Outcome State Fault Refusal :=
  .next (s.isaStep g [(8, 0)] fun i =>
    let n := sizeBytes (wSize i.w)
    i.lsStep n fun _ =>
      let ls := (i.s.blockOf i.g).ls
      let vals := i.g.active.map fun t =>
        (t, loadRegs (wSize i.w) (wSx i.w) (leNat (cellsGet ls (i.g.lsAddr i.w t).toNat n)))
      i.ret (i.putRegs (wVd i.w) (sizeRegs (wSize i.w)) vals))

/-- STS (R350, R409, R410). -/
def execSts (g : GroupRef) (s : State) : Host.Outcome State Fault Refusal :=
  .next (s.isaStep g [(8, 1)] fun i =>
    let n := sizeBytes (wSize i.w)
    i.lsStep n fun _ =>
      let put (b : Block) : Block :=
        { b with ls := i.g.active.foldl (fun m t => cellsSet m (i.g.lsAddr i.w t).toNat (i.storeBytes t)) b.ls }
      let isIt (b : Block) : Bool := b.cid == i.g.cid && b.block == i.g.block
      .retire (i.g.progress i.s.time) (i.s.mHearths fun u => { u with blocks := u.blocks.map fun b => if isIt b then put b else b }))

/-! ### Depot atomics -/

/-- One atomic at the Depot: the old value, whether it was poisoned, whether it changed the word, and the state (R415, R545, R547). -/
def State.atomicOne (s : State) (i : Issue) (f : Nat → Nat → Nat → Nat) (n : Nat) (a : Acc) : Nat × Bool × Bool × State :=
  let reg (base : Nat) : Nat := i.g.vat base a.t + (if n = 8 then i.g.vat (base + 1) a.t * 2 ^ 32 else 0)
  let s := s.dropLine i.r.hearth i.g.cid a.pa
  let u := unitOf i.g.cid i.c
  let old := leNat (s.view u a.pa n)
  let new := f old (reg (wVc i.w)) (reg (wAc i.w)) % 2 ^ (8 * n)
  let bad := s.viewPoisoned u a.pa n
  let s := s.depotHit (some i.c.ctx) i.c.cls a.pa
  (old, bad, new != old, if bad then s else s.store u (some i.c.ctx) a.attr a.pa (toLe n new) true false)

/-- The atomics of an instruction in thread order (R415): old values, poisoned threads, whether a value changed, the state. -/
def State.atomicAll (s : State) (i : Issue) (f : Nat → Nat → Nat → Nat) (n : Nat) :
    List Acc → List (Nat × Nat) × List (Nat × Nat) × Bool × State
  | [] => ([], [], false, s)
  | a :: rest =>
    let x := s.atomicOne i f n a
    let m := x.2.2.2.atomicAll i f n rest
    ((a.t, x.1) :: m.1, if x.2.1 then (a.t, a.da) :: m.2.1 else m.2.1, x.2.2.1 || m.2.2.1, m.2.2.2)

/-- A Depot atomic with its new value from the word, VB and VC, for the width in bytes (R412 to R416). -/
def State.atomOp (s : State) (r : GroupRef) (func : Nat) (f : Nat → Nat → Nat → Nat → Nat) : State :=
  s.isaStep r [(9, func)] fun i =>
    let n := if wWide i.w then 8 else 4
    let a := i.accs true true n 0
    match a.fault with
    | some d => d
    | none =>
      match a.ok.findSome? fun x => (a.st.guardedBy x.pa n).map fun tid => (tid, x.pa) with
      | some y => .gone (a.st.extentRefused i.c y.1 y.2)
      | none =>
        match a.ok.find? fun x => a.st.dev == .service && a.st.conflicts (unitOf i.g.cid i.c) x.pa n with
        | some x => i.conflict i.s x.pa
        | none =>
          let m := (a.st.noWait r).atomicAll i (f n) n a.ok
          match m.2.1 with
          | p :: _ => i.poisoned m.2.2.2 (threadMask (m.2.1.map (·.1))) p.2
          | [] =>
            let g := if wRet i.w then
                i.putRegs (wVd i.w) (n / 4) (m.1.map fun v => (v.1, [v.2 % 2 ^ 32, v.2 / 2 ^ 32]))
              else i.g
            .retire (if m.2.2.1 then g.progress i.s.time else g) m.2.2.2

/-- ATOM.ADD (R412). -/
def execAtomAdd (g : GroupRef) (s : State) : Host.Outcome State Fault Refusal := .next (s.atomOp g 0 fun _ m b _ => m + b)

/-- ATOM.AND (R412). -/
def execAtomAnd (g : GroupRef) (s : State) : Host.Outcome State Fault Refusal := .next (s.atomOp g 1 fun _ m b _ => m &&& b)

/-- ATOM.OR (R412). -/
def execAtomOr (g : GroupRef) (s : State) : Host.Outcome State Fault Refusal := .next (s.atomOp g 2 fun _ m b _ => m ||| b)

/-- ATOM.XOR (R412). -/
def execAtomXor (g : GroupRef) (s : State) : Host.Outcome State Fault Refusal := .next (s.atomOp g 3 fun _ m b _ => m ^^^ b)

/-- ATOM.MIN.S (R412). -/
def execAtomMinS (g : GroupRef) (s : State) : Host.Outcome State Fault Refusal :=
  .next (s.atomOp g 4 fun n m b _ => if toS (8 * n) m ≤ toS (8 * n) b then m else b)

/-- ATOM.MAX.S (R412). -/
def execAtomMaxS (g : GroupRef) (s : State) : Host.Outcome State Fault Refusal :=
  .next (s.atomOp g 5 fun n m b _ => if toS (8 * n) m ≤ toS (8 * n) b then b else m)

/-- ATOM.MIN.U (R412). -/
def execAtomMinU (g : GroupRef) (s : State) : Host.Outcome State Fault Refusal := .next (s.atomOp g 6 fun _ m b _ => min m b)

/-- ATOM.MAX.U (R412). -/
def execAtomMaxU (g : GroupRef) (s : State) : Host.Outcome State Fault Refusal := .next (s.atomOp g 7 fun _ m b _ => max m b)

/-- ATOM.EXCH (R412). -/
def execAtomExch (g : GroupRef) (s : State) : Host.Outcome State Fault Refusal := .next (s.atomOp g 8 fun _ _ b _ => b)

/-- ATOM.CAS (R412). -/
def execAtomCas (g : GroupRef) (s : State) : Host.Outcome State Fault Refusal :=
  .next (s.atomOp g 9 fun _ m b c => if m = c then b else m)

/-- ATOM.FADD (R412, R416): F32 by RNE, no flag. -/
def execAtomFadd (g : GroupRef) (s : State) : Host.Outcome State Fault Refusal :=
  .next (s.atomOp g 10 fun _ m b _ => (fadd 0 rne m b).1)

/-! ### Sync -/

/-- Write a context's dirty Depot lines to memory (R553, scope SYSTEM). -/
def State.cleanCtx (s : State) (ctx : Nat) : State :=
  (s.depot.lines.filter fun l => l.dirty && l.owner == some ctx).foldl (fun s l => s.dropCommitted l.pa) s

/-- FENCE (R417 to R419, R527, R550, R553, R554). -/
def execFence (g : GroupRef) (s : State) : Host.Outcome State Fault Refusal :=
  .next (s.isaStep g [(12, 0)] fun i =>
    let scope := bits i.w 17 16
    if i.s.dev == .service then
      if scope = 3 then .fault 0x403 0 0 none
      else .retire i.g (i.s.drainWcWhere i.r.hearth fun e => e.grp == i.r)
    else
      let t := i.s.drainWcWhere i.r.hearth fun e => e.grp == i.r
      let t := if 2 ≤ scope then t.flushL1 i.r.hearth i.g.cid else t
      .retire i.g (if scope = 3 then t.cleanCtx i.c.ctx else t))

/-- BAR (R420): the group waits in STALLED until every group of its block has reached its BAR; its accesses are ordered as by a
FENCE of scope BLOCK. -/
def execBar (g : GroupRef) (s : State) : Host.Outcome State Fault Refusal :=
  .next (s.isaStep g [(12, 1)] fun i =>
    .hold { i.g with pc := i.g.pc - 8, atBar := true } (i.s.drainWcWhere i.r.hearth fun e => e.grp == i.r))

/-- BAR_RELEASE (R420): every group of the block that is not DONE waits at its BAR; they all resume. -/
def execBarRelease (g : GroupRef) (s : State) : Host.Outcome State Fault Refusal :=
  match s.live, s.group? g with
  | true, some x =>
    let isIt (p : Group) : Bool := p.cid == x.cid && p.block == x.block
    let mine := s.hearths.groups.filter fun p => isIt p.2
    if mine.all fun p => p.2.atBar then
      .next ((mine.foldl (fun s p => s.stepDone p.2) s).mHearths fun u => { u with
        groups := u.groups.map fun p => (p.1, if isIt p.2 then ({ p.2 with atBar := false, pc := p.2.pc + 8 } : Group).rest s.time else p.2) })
    else .next s
  | _, _ => .next s

/-! ### System -/

/-- NOP (R430). -/
def execNop (g : GroupRef) (s : State) : Host.Outcome State Fault Refusal := .next (s.isaStep g [(13, 0)] fun i => i.ret i.g)

/-- EXIT (R354, R534): it waits while a dirty L1 line of the command's last group on the Hearth waits on another unit's copy. -/
def execExit (g : GroupRef) (s : State) : Host.Outcome State Fault Refusal :=
  .next (s.isaStep g [(13, 1)] fun i =>
    if i.s.lastOn i.r i.g && i.s.flushConflict i.r.hearth i.g.cid then
      match (i.s.hearth i.r.hearth).l1.find? fun l => l.cid == i.g.cid && i.s.lineConflict l with
      | some l => i.conflict i.s l.pa
      | none => .wait i.s
    else .gone (((i.s.noWait i.r).stepDone i.g).endGroup i.r i.g))

/-- BRK (R431): 0x0406 in a context without the debug attribute; else the group halts and 0x040C is recorded, or under a Debug Step it
only retires. -/
def execBrk (g : GroupRef) (s : State) : Host.Outcome State Fault Refusal :=
  .next (s.isaStep g [(13, 2)] fun i =>
    if !i.x.debug then .fault 0x406 0 0 none
    else if i.g.stepping then i.ret i.g
    else
      let t := i.s.raise { code := 0x40C, ctx := some i.c.ctx, cmdId := i.c.cmdId, dkind := 1
                           detail := groupDetail i.r { i.g with pc := i.g.pc - 8 } i.g.exec.toNat (bits i.w 47 32) none }
      .retire { i.g with st := .halted, haltedAt := i.s.time } t)

/-- FLCLR (R155, R430). -/
def execFlclr (g : GroupRef) (s : State) : Host.Outcome State Fault Refusal :=
  .next (s.isaStep g [(13, 3)] fun i => i.ret (i.g.clearFlags (bits i.w 38 32)))

end Sys2Proof.Machine
end

