-- ==== Sys2Proof/Machine/IsaTile.lean ====
section
/-!
DEFINITION. Grates and the Trivet: binds, weight loads, FLUEs, the tile check and re-runs (R421 to R471), and the class 0xB
instructions (R429, R472 to R483).
-/
namespace Sys2Proof.Machine

/-! ### Tiles (R437) -/

/-- Element (row, col) of a tile in the registers from a base. -/
def Group.tileAt (g : Group) (base fmt row col : Nat) : Nat :=
  let per := 32 / fmtBits fmt
  g.vat (base + col % 16 / per) (2 * row + col / 16) / 2 ^ (fmtBits fmt * (col % 16 % per)) % 2 ^ fmtBits fmt

/-- A tile, row by row. -/
def Group.tile (g : Group) (base fmt : Nat) : List Nat :=
  (List.range 1024).map fun e => g.tileAt base fmt (e / 32) (e % 32)

/-- Write an F32 or F16 tile to the registers from a base, all 64 threads. -/
def Group.putTile (g : Group) (base fmt : Nat) (els : List Nat) : Group :=
  let at2 (t c : Nat) : Nat := els.getD (t / 2 * 32 + 16 * (t % 2) + c) 0
  (List.range (tileRegs fmt)).foldl (fun g j =>
    g.vsetAll (base + j) fun t => if fmt = 0 then at2 t j else at2 t (2 * j) + at2 t (2 * j + 1) * 2 ^ 16) g

/-- Widen a tile (R439, R440): the elements, and how many set CL. -/
def widenTile (fmt : Nat) (sc : List Scale) (els : List Nat) : List Nat × Nat :=
  if fmt < 2 then (els, 0)
  else
    let l := (List.range els.length).map fun e => decodeElem fmt (els.getD e 0) (sc.getD (e % 32 / 16) {m := 0, s := 0, e := 0})
    (l.map (·.1), clCount (l.map (·.2)))

/-- GMASK (R382). -/
def Issue.gmask (i : Issue) : BitVec 4 := BitVec.ofNat 4 (wS2 i.w)

/-- The group holds every Grate of a mask (R424). -/
def Group.holds (g : Group) (m : BitVec 4) : Bool := g.bound &&& m == m

/-- The Grates of a mask, in ascending order. -/
def gratesOf (m : BitVec 4) : List Nat := (List.range 4).filter fun g => m.getLsbD g

/-- FLUEs of a group on some Grate of a mask that meet a condition on the operation and the Grate. -/
def Hearth.flueOn (u : Hearth) (r : GroupRef) (m : BitVec 4) (p : FlueOp → Nat → Bool) : Bool :=
  u.flue.any fun o => o.grp == r && (gratesOf (o.mask &&& m)).any fun g => p o g

/-- Change a logical Grate. -/
def Hearth.mGrate (u : Hearth) (g : Nat) (f : Grate → Grate) : Hearth := { u with grates := u.grates.set g (f (u.grates.getD g {})) }

/-- 0x040B (R424). -/
def Issue.grateFault (i : Issue) : Did := .fault 0x40B i.g.exec.toNat 0 none

/-- Read the tile of an instruction and widen it with the scale entries at S[SA] (R425, R426, R441). -/
def Issue.readTile (i : Issue) (body : List Nat → State → Did) : Did :=
  let fmt := wGfmt i.w
  let els := i.g.tile (wVd i.w) fmt
  if fmt < 2 then body els i.s
  else
    let da := i.g.sget (wGsa i.w)
    let a : Accs := ({ st := i.s } : Accs).add i false false 16 0 da
    match a.bad, a.ok with
    | b :: _, _ => .fault b.2.2.1 i.g.exec.toNat da b.2.2.2
    | [], x :: _ =>
      let l := a.st.load i.r i.g.cid i.c x.attr 0 x.pa 16
      if l.bad then i.poisoned l.st i.g.exec.toNat da
      else
        let w := widenTile fmt [Scale.ofNat (fld l.data 0 8), Scale.ofNat (fld l.data 8 8)] els
        body w.1 (l.st.countElems i.g.cid 1024 w.2)
    | [], [] => .wait i.s

/-- GBIND (R422, R424): the bind waits for its grant. -/
def execGbind (g : GroupRef) (s : State) : Host.Outcome State Fault Refusal :=
  .next (s.isaStep g [(10, 0)] fun i =>
    if i.g.bound != 0 then i.grateFault
    else .hold ({ i.g with pc := i.g.pc - 8, binding := some i.gmask }.progress i.s.time)
      (i.s.mHearth i.r.hearth fun u => { u with binds := u.binds ++ [i.r] }))

/-- Grant the waiting binds of a Hearth in order; `blocked` holds the Grates that an earlier waiting bind names (R422). -/
def State.grantBinds (s : State) (h : Nat) : BitVec 4 → List GroupRef → State
  | _, [] => s
  | blocked, r :: rest =>
    match s.group? r with
    | none => s.grantBinds h blocked rest
    | some g =>
      let m := g.binding.getD 0
      if m &&& blocked == 0 && (gratesOf m).all fun k => ((s.hearth h).grates.getD k {}).bound.isNone then
        let s := s.mHearth h fun u => (gratesOf m).foldl (fun u k => u.mGrate k fun _ => { bound := some r }) { u with binds := u.binds.filter (· != r) }
        (s.retireGroup r { g with bound := m, binding := none, pc := g.pc + 8 }).grantBinds h blocked rest
      else s.grantBinds h (blocked ||| m) rest

/-- GBIND_GRANT (R422). -/
def execGbindGrant (hearth : Nat) (s : State) : Host.Outcome State Fault Refusal :=
  .next (if s.live then s.grantBinds hearth 0 (s.hearth hearth).binds else s)

/-- GFREE (R423, R424, R451): it waits until every earlier FLUE on the Grates has accumulated. -/
def execGfree (g : GroupRef) (s : State) : Host.Outcome State Fault Refusal :=
  .next (s.isaStep g [(10, 1)] fun i =>
    if !i.g.holds i.gmask then i.grateFault
    else if (i.s.hearth i.r.hearth).flueOn i.r i.gmask fun o k => !o.doneG.getLsbD k then .wait i.s
    else
      .retire ({ i.g with bound := i.g.bound &&& ~~~ i.gmask }.progress i.s.time)
        (i.s.mHearth i.r.hearth fun u => (gratesOf i.gmask).foldl (fun u k => u.mGrate k fun _ => {}) u))

/-- GWLD (R425, R428, R446): it waits until every earlier FLUE on the Grates has taken its weights. -/
def execGwld (g : GroupRef) (s : State) : Host.Outcome State Fault Refusal :=
  .next (s.isaStep g [(10, 2)] fun i =>
    if !i.g.holds i.gmask then i.grateFault
    else if (i.s.hearth i.r.hearth).flueOn i.r i.gmask fun o _ => !o.streaming then .wait i.s
    else i.readTile fun els t =>
      let f32 := wGfmt i.w == 0
      .retire (i.g.progress i.s.time) (t.mHearth i.r.hearth fun u => (gratesOf i.gmask).foldl (fun u k =>
        u.mGrate k fun x => { x with loadReg := els.map (BitVec.ofNat 32), loadF32 := f32 }) u))

/-- FLUE (R424, R426, R448): the widened activation tile joins the Flue's queue. -/
def execFlue (g : GroupRef) (s : State) : Host.Outcome State Fault Refusal :=
  .next (s.isaStep g [(10, 3)] fun i =>
    let f32 := wGfmt i.w == 0
    let clash (k : Nat) : Bool :=
      let x := (i.s.hearth i.r.hearth).grates.getD k {}
      !x.loadReg.isEmpty && x.loadF32 != f32
    if !i.g.holds i.gmask || (gratesOf i.gmask).any clash then i.grateFault
    else i.readTile fun els t =>
      let op : FlueOp := { grp := i.r, cid := i.g.cid, mask := i.gmask, accum := wAcc i.w, f32 := f32, act := els.map (BitVec.ofNat 32) }
      .retire (i.g.progress i.s.time) (t.mHearth i.r.hearth fun u => { u with flue := if i.gmask == 0 then u.flue else u.flue ++ [op] }))

/-- n free patterns of a width, from the counter (assumption 5). -/
def State.freeList (s : State) (n width : Nat) : List (BitVec 32) :=
  (List.range n).map fun k => BitVec.ofNat 32 ((Config.freeValue (s.hearths.freeCount + k)).toNat % 2 ^ width)

/-- The accumulator of a Grate, free values when nothing has defined it (R445). -/
def State.accOf (s : State) (h k : Nat) : List (BitVec 32) × State :=
  let x := (s.hearth h).grates.getD k {}
  if x.acc.isEmpty then
    let l := s.freeList 1024 32
    (l, (s.tookFree 1024).mHearth h fun u => u.mGrate k fun y => { y with acc := l })
  else (x.acc, s)

/-- GRD (R424, R427, R428, R444, R157): it waits for every earlier FLUE on its Grate. -/
def execGrd (g : GroupRef) (s : State) : Host.Outcome State Fault Refusal :=
  .next (s.isaStep g [(10, 4)] fun i =>
    if !i.g.holds i.gmask then i.grateFault
    else if (i.s.hearth i.r.hearth).flueOn i.r i.gmask fun o k => !o.doneG.getLsbD k then .wait i.s
    else
      let a := i.s.accOf i.r.hearth ((gratesOf i.gmask).headD 0)
      let out := wOut16 i.w
      let els := a.1.map fun v => if out then convF 0 v.toNat 1 rne 0 else (v.toNat, 0)
      let code := if out then 1 else 0
      let fl := (if out then orAll (els.map (·.2)) &&& (flOF ||| flUF ||| flNX) else 0) ||| flIf (els.any fun e => nonfinite code e.1) flNF
      .retire (((i.g.putTile (wVd i.w) code (els.map (·.1))).orFlags fl).progress i.s.time) a.2)

/-! ### The Flue -/

/-- A physical Grate of a logical Hearth is in service (R436). -/
def State.grateUp (s : State) (h p : Nat) : Bool := !(s.phys (s.hearth h).phys).grRetired.getLsbD p

/-- The physical Grate that serves a logical one (R434, R458). -/
def State.servedBy (s : State) (h k : Nat) : Option Nat := ((List.range 4).map fun n => (k + n) % 4).find? (s.grateUp h)

/-- Replace an operation of a Hearth's Flue. -/
def State.mFlue (s : State) (h idx : Nat) (f : FlueOp → FlueOp) : State :=
  s.mHearth h fun u => { u with flue := u.flue.set idx (f (u.flue.getD idx {})) }

/-- 0x0503 (R463): no product of the tile is applied and the context is torn down. -/
def State.unverifiable (s : State) (h : Nat) (o : FlueOp) (p row runs : Nat) : State :=
  let s := s.mHearth h fun u => { u with unverifiable := u.unverifiable + 1 }
  match s.cmd? o.cid with
  | none => s
  | some c => s.tearCmd c { code := 0x503, detail := detGrate h (s.hearth h).phys p row runs }

/-- A FLUE takes the weights of one of the Grates it names (R446). -/
def State.takeWeights (s : State) (h idx k : Nat) : State :=
  let x := (s.hearth h).grates.getD k {}
  let o := (s.hearth h).flue.getD idx {}
  let p := (s.servedBy h k).getD k
  let w := if x.loadReg.isEmpty then s.freeList 1024 (if o.f32 then 32 else 16) else x.loadReg
  let s := if x.loadReg.isEmpty then s.tookFree 1024 else s
  let s := if p = k then s else s.mHearth h fun u => { u with degradedSlots := u.degradedSlots + 1 }
  s.mFlue h idx fun o => { o with wts := o.wts.set k w, tried := (4 * k + p) :: o.tried, runs := setNth o.runs k 1 }

/-- FLUE_STREAM_START (R448 to R450, R458, R459): the oldest FLUE that has not begun streams, when no re-run waits and the replay buffer
has room. -/
def execFlueStreamStart (hearth : Nat) (s : State) : Host.Outcome State Fault Refusal :=
  let l := (s.hearth hearth).flue
  match s.live, (List.range l.length).find? fun n => !(l.getD n {}).streaming with
  | true, some idx =>
    let o := l.getD idx {}
    if l.any (fun o => !o.failedG.isEmpty) || decide (8 ≤ (l.filter (·.streaming)).length) then .next s
    else if (gratesOf o.mask).any fun k => (s.servedBy hearth k).isNone then .next (s.unverifiable hearth o 0 0 0)
    else
      let s := s.mFlue hearth idx fun o => { o with streaming := true, wts := [[], [], [], []] }
      .next ((gratesOf o.mask).foldl (fun s k => s.takeWeights hearth idx k) s)
  | _, _ => .next s

/-- A tile element as an F32 pattern; an F16 element converts exactly (R442). -/
def tileF32 (f32 : Bool) (v : BitVec 32) : Nat := if f32 then v.toNat else (convF 1 v.toNat 0 rne 0).1

/-- The chain of R442. -/
def dotChain (a b : List Nat) : Nat := (a.zip b).foldl (fun s p => (ffma 0 rne p.1 p.2 s).1) 0

/-- Row m of a tile. -/
def rowAt (l : List Nat) (m : Nat) : List Nat := (l.drop (32 * m)).take 32

/-- Column n of a tile. -/
def colAt (l : List Nat) (n : Nat) : List Nat := (List.range 32).map fun k => l.getD (32 * k + n) 0

/-- The sum of a row in F32, in ascending order (R453). -/
def sumF32 (l : List Nat) : Nat := l.tail.foldl (fun s v => (fadd 0 rne s v).1) (l.headD 0)

/-- |v| of an F32 pattern. -/
def absF32 (v : Nat) : Nat := v % 2 ^ 31

/-- The product tile of activations and weights in F32 (R442). -/
def tileProduct (a w : List Nat) : List Nat :=
  let cols := (List.range 32).map (colAt w)
  (List.range 32).flatMap fun m => cols.map (dotChain (rowAt a m))

/-- Row m passes without comparison: an element of P, y or z is a NaN or an infinity (R453, R454, R456). -/
def rowUnchecked (a w prod : List Nat) (m : Nat) : Bool :=
  let ck := (List.range 32).map fun k => sumF32 (rowAt w k)
  let rk := (List.range 32).map fun k => sumF32 ((rowAt w k).map absF32)
  (rowAt prod m).any (nonfinite 0) || nonfinite 0 (dotChain (rowAt a m) ck) || nonfinite 0 (dotChain ((rowAt a m).map absF32) rk)

/-- The product and operands of a Grate's tile. -/
def FlueOp.operands (o : FlueOp) (k : Nat) : List Nat × List Nat := (o.act.map (tileF32 o.f32), (o.wts.getD k []).map (tileF32 o.f32))

/-- Apply a product to a Grate's accumulator (R443); an operation whose Grates are all done leaves. -/
def State.applyTile (s : State) (h idx k : Nat) (o : FlueOp) (prod : List Nat) : State :=
  let a := if o.accum then s.accOf h k else ([], s)
  let new := if o.accum then (a.1.map (·.toNat)).zipWith (fun c p => (fadd 0 rne c p).1) prod else prod
  let s := a.2.mHearth h fun u => { (u.mGrate k fun x => { x with acc := new.map (BitVec.ofNat 32) }) with tiles := u.tiles + 1 }
  let doneG := o.doneG ||| BitVec.ofNat 4 (2 ^ k)
  let s := match s.cmd? o.cid with | some c => s.count 2 h (some c.ctx) c.cls 1 | none => s
  s.mHearth h fun u => { u with
    flue := if doneG &&& o.mask == o.mask then u.flue.eraseIdx idx else u.flue.set idx { o with doneG := doneG } }

/-- The last physical Grate that ran a tile. -/
def FlueOp.runner (o : FlueOp) (k : Nat) : Nat := ((o.tried.find? fun x => x / 4 == k).map (· % 4)).getD k

/-- The re-run partner of a tile's last runner (R459). -/
def State.partner (s : State) (h k : Nat) (o : FlueOp) : Option Nat :=
  let p := o.runner k
  ((List.range 3).map fun n => (p + 1 + n) % 4).find? fun q => s.grateUp h q && !o.tried.contains (4 * k + q)

/-- Tiles that a retired Grate ran and that are not applied wait for a re-run (R464). -/
def FlueOp.orphan (o : FlueOp) (p : Nat) : FlueOp :=
  if !o.streaming then o
  else { o with failedG := o.failedG ++ (gratesOf o.mask).filter fun k => !o.doneG.getLsbD k && o.runner k == p && !o.failedG.contains k }

/-- Retire a physical Grate (R462, R464, R465, R786). -/
def State.retireGrate (s : State) (h p row runs : Nat) (o : FlueOp) : State :=
  let ph := (s.hearth h).phys
  let q := h / 20
  let s := s.mPhys ph fun x => { x with grRetired := x.grRetired ||| BitVec.ofNat 4 (2 ^ p), strikes := mapErase x.strikes p }
  let s := s.raise { code := 0x502, cmdId := ((s.cmd? o.cid).map (·.cmdId)).getD 0, detail := detGrate h ph p row runs }
  let s := s.spare { resource := 2, action := 1, inst := ph, fromLoc := p, toLoc := 0xFFFFFFFF, code := 0x502 }
  let s := s.mHearth h fun u => { u with flue := u.flue.map fun o => o.orphan p }
  match (s.quarter q).spare with
  | some sp =>
    if (s.phys sp).grRetired == 0 && (s.quarter q).testing != some sp then
      (s.mQuarter q fun u => { u with grateMove := some h }).mHearth h fun u => { u with drain := 2 }
    else if (s.phys ph).grRetired == 0xF then s.outOfService h else s
  | none => if (s.phys ph).grRetired == 0xF then s.outOfService h else s

/-- A strike against a physical Grate (R461, R462). -/
def State.grateStrike (s : State) (h p row runs : Nat) (o : FlueOp) : State :=
  let ph := (s.hearth h).phys
  let s := s.mHearth h fun u => { u with mismatch := u.mismatch + 1 }
  let s := s.raise { code := 0x501, cmdId := ((s.cmd? o.cid).map (·.cmdId)).getD 0, detail := detGrate h ph p row runs }
  match mapGet (s.phys ph).strikes p with
  | some t => if s.time ≤ t + 1000 * cyclesPerMs then s.retireGrate h p row runs o
    else s.mPhys ph fun x => { x with strikes := mapSet x.strikes p s.time }
  | none => s.mPhys ph fun x => { x with strikes := mapSet x.strikes p s.time }

/-- TILE_CHECK (R443, R453 to R463): the check of one Grate's product tile ends. A tile that passes is applied in FLUE order; a
failed one strikes its Grate and waits for a re-run, or is unverifiable. -/
def execTileCheck (hearth idx grate : Nat) (fail : Option Nat) (s : State) : Host.Outcome State Fault Refusal :=
  let l := (s.hearth hearth).flue
  let o := l.getD idx {}
  if !s.live || decide (l.length ≤ idx) || !o.streaming || !o.mask.getLsbD grate || o.doneG.getLsbD grate || o.failedG.contains grate then .next s
  else
    let ops := o.operands grate
    let prod := tileProduct ops.1 ops.2
    let un := (List.range 32).filter (rowUnchecked ops.1 ops.2 prod)
    match fail with
    | none =>
      if (l.take idx).any fun x => x.mask.getLsbD grate && !x.doneG.getLsbD grate then .next s
      else .next ((s.mHearth hearth fun u => { u with unchecked := u.unchecked + BitVec.ofNat 32 un.length }).applyTile hearth idx grate o prod)
    | some row =>
      if un.contains row || decide (32 ≤ row) then .next s
      else
        let runs := nth o.runs grate
        let p := o.runner grate
        let s := s.mFlue hearth idx fun o => { o with failedG := o.failedG ++ [grate] }
        let s := s.grateStrike hearth p row runs o
        let o := (s.hearth hearth).flue.getD idx {}
        if 3 ≤ runs ∨ (s.partner hearth grate o).isNone then .next (s.unverifiable hearth o p row runs) else .next s

/-- GRATE_RERUN (R459, R463): a failed tile takes the next Flue slot on its partner. -/
def execGrateRerun (hearth idx grate : Nat) (s : State) : Host.Outcome State Fault Refusal :=
  let o := (s.hearth hearth).flue.getD idx {}
  if !s.live || !o.failedG.contains grate then .next s
  else match s.partner hearth grate o with
    | none => .next (s.unverifiable hearth o (o.runner grate) 0 (nth o.runs grate))
    | some p =>
      let s := s.mHearth hearth fun u => { u with rerun := u.rerun + 1 }
      .next (s.mFlue hearth idx fun o => { o with
        failedG := o.failedG.filter (· != grate), tried := (4 * grate + p) :: o.tried, runs := setNth o.runs grate (nth o.runs grate + 1) })

/-- GRATE_STATE_ECC_ERROR (R468). -/
def execGrateStateEccError (hearth grate : Nat) (correctable : Bool) (s : State) : Host.Outcome State Fault Refusal :=
  if !s.live then .next s
  else if correctable then .next (s.mHearth hearth fun u => { u with eccCorrected := u.eccCorrected + 1 })
  else
    let r : FaultRec := { code := 0x504, detail := detGrate hearth (s.hearth hearth).phys ((s.servedBy hearth grate).getD grate) 0 0 }
    match (((s.hearth hearth).grates.getD grate {}).bound.bind s.group?).bind fun g => s.cmd? g.cid with
    | some c => .next (s.tearCmd c r)
    | none => .next (s.raise r)

/-! ### The Trivet -/

/-- Element (m, n) of the operand at VAUX (R474). -/
def Group.auxAt (g : Group) (w m n : Nat) : Nat :=
  if wBcast w = 0 then g.tileAt (wVc w) 1 m n
  else if wBcast w = 1 then g.tileAt (wVc w) 1 0 n
  else g.vat (wVc w) (2 * m) % 2 ^ 16

/-- A Trivet instruction (R429, R475 to R479): its operands are read and its tile joins the Trivet's order. -/
def State.trivetOp (s : State) (r : GroupRef) (func : Nat) (f : Nat → Nat → Nat × Nat) : State :=
  s.isaStep r [(11, func)] fun i =>
    let els := (List.range 1024).map fun e => f (i.g.tileAt (wVd i.w) 1 (e / 32) (e % 32)) (i.g.auxAt i.w (e / 32) (e % 32))
    let op : TrvOp := {
      grp := i.r, cid := i.g.cid, vbase := wVd i.w, res := els.map fun e => BitVec.ofNat 16 e.1
      flags := BitVec.ofNat 7 (orAll (els.map (·.2)) &&& (flNV ||| flOF ||| flUF ||| flNX)) }
    let t := i.s.mHearth i.r.hearth fun u => { u with trv := u.trv ++ [op] }
    let g := i.g.progress i.s.time
    if i.g.stepping then .hold g t else .retire g t

/-- TRELU of an element (R476). -/
def reluOp (x : Nat) : Nat × Nat :=
  match (ffmt 1).dec x with
  | .nan s => (0, flIf s flNV)
  | .inf n => (if n then 0 else x, 0)
  | .fin n m _ => (if n || m == 0 then 0 else x, 0)

/-- TADD (R476). -/
def execTadd (g : GroupRef) (s : State) : Host.Outcome State Fault Refusal := .next (s.trivetOp g 0 fun x y => fadd 1 rne x y)

/-- TSUB (R476). -/
def execTsub (g : GroupRef) (s : State) : Host.Outcome State Fault Refusal := .next (s.trivetOp g 1 fun x y => fsub 1 rne x y)

/-- TMUL (R476). -/
def execTmul (g : GroupRef) (s : State) : Host.Outcome State Fault Refusal := .next (s.trivetOp g 2 fun x y => fmul 1 rne x y)

/-- TMAX (R476). -/
def execTmax (g : GroupRef) (s : State) : Host.Outcome State Fault Refusal := .next (s.trivetOp g 3 fun x y => fminmax 1 true x y)

/-- TMIN (R476). -/
def execTmin (g : GroupRef) (s : State) : Host.Outcome State Fault Refusal := .next (s.trivetOp g 4 fun x y => fminmax 1 false x y)

/-- TRELU (R476). -/
def execTrelu (g : GroupRef) (s : State) : Host.Outcome State Fault Refusal := .next (s.trivetOp g 5 fun x _ => reluOp x)

/-- TEXP2 (R476): the bits of FEXP2 in F16. -/
def execTexp2 (g : GroupRef) (s : State) : Host.Outcome State Fault Refusal := .next (s.trivetOp g 6 fun x _ => fexp2 1 x)

/-- The oldest tile of a Burner at the Trivet. -/
def State.trvHead (s : State) (h b : Nat) : Option TrvOp := (s.hearth h).trv.find? (·.grp.burner == b)

/-- TRIVET_TILE_START (R476 to R481): a tile passes the lanes and its result and flags are written; the instruction retires. -/
def execTrivetTileStart (hearth burner : Nat) (s : State) : Host.Outcome State Fault Refusal :=
  match s.live, s.trvHead hearth burner with
  | true, some o =>
    let s := s.mHearth hearth fun u => { u with trv := u.trv.erase o, trvTiles := u.trvTiles + 1 }
    let s := match s.cmd? o.cid with | some c => s.count 3 hearth (some c.ctx) c.cls 1 | none => s
    match s.group? o.grp with
    | none => .next s
    | some g =>
      let g' := (g.putTile o.vbase 1 (o.res.map (·.toNat))).orFlags o.flags.toNat
      .next (if g.stepping then s.retireGroup o.grp g' else s.mGroup o.grp fun _ => g')
  | _, _ => .next s

/-- TRIVET_PARITY_ERROR (R483): nothing is written and the issuing context is torn down. -/
def execTrivetParityError (hearth burner : Nat) (s : State) : Host.Outcome State Fault Refusal :=
  match s.live, s.trvHead hearth burner with
  | true, some o =>
    let s := s.mHearth hearth fun u => { u with trv := u.trv.erase o, trvParity := u.trvParity + 1 }
    match s.cmd? o.cid with
    | some c => .next (s.tearCmd c { code := 0xA10 })
    | none => .next s
  | _, _ => .next s

end Sys2Proof.Machine
end

