-- ==== Sys2Proof/Machine/Power.lean ====
section
/-!
DEFINITION. Power, die temperatures and the steps of the Hearth clock level within a tick (R922, R937 to R946).
-/
namespace Sys2Proof.Machine

/-- One level slower, H5 being the slowest; the level steps in Service and Banked only (R937 to R939, R941). -/
def State.stepLevel (s : State) : State := if s.live then s.mPower fun p => { p with hlevel := min 5 (p.hlevel + 1) } else s

/-- THROT_IN_ASSERT (R939): H4 unless the level is slower already. -/
def execThrotInAssert (s : State) : Host.Outcome State Fault Refusal :=
  let s := s.mPins fun p => { p with throtInN := false }
  .next (s.mPower fun p => { p with hlevel := if s.live then max 4 p.hlevel else p.hlevel, calmSamples := 0 })

/-- The greater of the die temperatures. -/
def Power.hottest (p : Power) : Int := max p.dieTemp0 p.dieTemp1

/-- A step is due for an event that persists: at once, then again after each interval (R939). -/
def stepDue (last : Option Nat) (interval now : Nat) : Bool := match last with | none => true | some t => decide (t + interval ≤ now)

/-- DIE_TEMP_SAMPLE (R939, R945, R946): a die's temperature in 1/256 °C; TJ_HOT steps the level, TJ_TRIP trips the part. -/
def execDieTempSample (die : Nat) (temp : Int) (s : State) : Host.Outcome State Fault Refusal :=
  if s.dev == .off || decide (2 ≤ die) then .next s
  else
    let s := s.mPower fun p => { p with
      dieTemp0 := if die = 0 then temp else p.dieTemp0, dieTemp1 := if die = 1 then temp else p.dieTemp1
      hotTick := p.hotTick || decide (85 * 256 ≤ temp), calmSamples := if 95 * 256 ≤ temp then 0 else p.calmSamples }
    if 115 * 256 ≤ temp then .next (s.trip.mPins fun p => { p with thermtripN := false })
    else if s.power.hottest < 100 * 256 then .next (s.mPower fun p => { p with hotStepAt := none })
    else if stepDue s.power.hotStepAt cyclesPerMs s.time then .next (s.stepLevel.mPower fun p => { p with hotStepAt := some s.time })
    else .next s

/-- The mean of the newest n samples. -/
def meanOf (l : List Nat) (n : Nat) : Nat := (l.take n).sum / max 1 (l.take n).length

/-- The sum of the newest n samples exceeds a limit for each of them. -/
def meanAbove (l : List Nat) (n limit : Nat) : Bool := decide (limit * (l.take n).length < (l.take n).sum)

/-- POWER_SAMPLE (R922, R938 to R940): package power every 10 µs; an average above 1,600 W over 100 µs, ten samples, steps the level.
`throtHigh` is the level of THROT_IN_N at the sample. -/
def execPowerSample (power : Nat) (throtHigh : Bool) (s : State) : Host.Outcome State Fault Refusal :=
  if s.dev == .off then .next s
  else
    let s := s.mPins fun p => { p with throtInN := p.throtInN || throtHigh }
    let s := s.mPower fun p =>
      let l := (power :: p.recent).take 100
      let calm := decide (l.sum < 1450 * l.length ∧ p.hottest < 95 * 256) && s.pins.throtInN
      { p with
        powerW := power, recent := l, avg100us := meanOf l 10, tickEnergy := p.tickEnergy + power, tickSamples := p.tickSamples + 1
        calmSamples := if calm then p.calmSamples + 1 else 0 }
    if !meanAbove s.power.recent 10 1600 then .next (s.mPower fun p => { p with powerStepAt := none })
    else if stepDue s.power.powerStepAt (cyclesPerMs / 10) s.time then
      .next (s.stepLevel.mPower fun p => { p with powerStepAt := some s.time })
    else .next s

end Sys2Proof.Machine
end

