-- ==== Sys2Proof/Machine/Regs.lean ====
section
/-!
DEFINITION. The register map (R12, R844, R873, R904 to R916): what every register of the control window and of the BAR2 pages reads,
and what a write does to it.
-/
namespace Sys2Proof.Machine

/-! ### Which block answers -/

/-- The host link has been presented and answers, in Quenched too (R844, R845). -/
def State.presented (s : State) : Bool := s.hostOn || (s.dev == .quenched && s.boot.presented)

/-- A host function is presented (R834, R870). -/
def State.fnExists (s : State) (fn : Nat) : Bool := if s.img.bx3 then fn == 0 else decide (fn ≤ s.img.totalVfs)

/-- A block of the control window answers a function (R844, R873, R906). -/
def State.blockOn (s : State) (fn blk : Nat) : Bool :=
  (if fn = 0 then decide (blk < 20) else blk == 0 || blk == 1 || blk == 19) &&
  (!(s.img.bx3 || s.dev == .quenched) || blk == 0 || blk == 18 || blk == 19)

/-- The BAR of the control window (R904, R870). -/
def State.windowBar (s : State) : Nat := if s.img.bx3 then 4 else 0

/-! ### Pairs whose LO register latches its HI register -/

/-- The Serai that SRI_SEL names. -/
def State.selSerai (s : State) : SeraiCnt := mapGetD s.serais.cnts s.serais.sel {}

/-- The table that SRI_TBL_SEL names: its version. -/
def State.selVersion (s : State) : Nat := ((s.table? s.serais.tblSel).map (·.version)).getD 0

/-- The Depot slice that DPT_SEL names. -/
def State.selSlice (s : State) : SliceCnt := if s.depot.sel = 0 then s.depot.slice0 else s.depot.slice1

/-- The Sieve that SVE_SEL names. -/
def State.selSieve (s : State) : SieveDie := if s.sieves.sel = 0 then s.sieves.die0 else s.sieves.die1

/-- The 64-bit value behind a LO register that latches, by block and offset (R89, R267, R379, R471, R502, R578, R622, R747, R791, R914). -/
def State.pair (s : State) (blk r : Nat) : Option Nat :=
  let u := s.selSerai
  match blk, r with
  | 0, 0x14 => some s.tck.stateTick.toNat
  | 1, 0x00 => some s.tck.num.toNat
  | 2, 0x24 => some (nth s.cvn.cap s.cvn.resSel)
  | 6, 0x10 => some u.refs.toNat | 6, 0x18 => some u.fetches.toNat | 6, 0x20 => some u.merged.toNat
  | 6, 0x28 => some u.holdHits.toNat | 6, 0x30 => some u.dropped.toNat
  | 6, 0x104 => some s.selVersion | 6, 0x118 => some u.applied.toNat
  | 7, 0x20 => some (s.hearth s.hearths.sel).issued.toNat
  | 8, 0x08 => some (s.hearth s.hearths.grtSel).tiles.toNat
  | 9, 0x08 => some (s.hearth s.hearths.trvSel).trvTiles.toNat
  | 10, 0x08 => some s.selSieve.requests.toNat | 10, 0x10 => some s.selSieve.candidates.toNat
  | 11, 0x08 => some s.selSlice.hits.toNat | 11, 0x10 => some s.selSlice.misses.toNat
  | 13, 0x08 => some s.drovers.bytes.toNat
  | 14, 0x20 => some s.xlt.walks.toNat | 14, 0x28 => some s.xlt.atsReqs.toNat
  | 15, 0x10 => some (s.port s.routes.sel).partner.toNat
  | 15, 0x40 => some (mapGetD s.routes.cnts s.routes.sel {}).txBytes.toNat
  | 15, 0x48 => some (mapGetD s.routes.cnts s.routes.sel {}).rxBytes.toNat
  | 17, 0x10 => some (if s.flt.nextSeq = 0 then 0 else s.flt.nextSeq.toNat - 1)
  | _, _ => none

/-! ### The blocks -/

/-- A one-bit field at a position. -/
def put (b : Bool) (n : Nat) : Nat := b2n b * 2 ^ n

/-- GLB_ (R913 to R916). -/
def State.readGlb (s : State) (fn r : Nat) : Nat :=
  let l := s.log fn
  let slots := mapVals (s.fn fn).slots
  let q := s.dev == .quenched
  match r with
  | 0x00 => 0x96400000 + s.fuses.stepping % 16 * 256 + put s.img.bx3 3 + put s.fuses.orderingNS 0
  | 0x04 => s.fuses.serial.toNat % 2 ^ 32
  | 0x08 => s.fuses.serial.toNat / 2 ^ 32
  | 0x0C => s.img.imageVer.toNat
  | 0x10 => fn % 32 * 2 ^ 16 + s.dev.code
  | 0x20 => (if q then s.flt.quenchCode % 2 ^ 16 * 2 ^ 16 else 0) + put q 11 + put l.hostLost 10 + put (slots.any (·.recordLost)) 9 +
      put (slots.any (·.dead)) 8 + l.teardowns % 256
  | 0x24 => nth l.sev 3 % 256 * 2 ^ 24 + nth l.sev 2 % 256 * 2 ^ 16 + nth l.sev 1 % 256 * 2 ^ 8 + nth l.sev 0 % 256
  | 0x28 => l.badAccess.toNat
  | _ => 0

/-- TCK_ (R89). -/
def State.readTck (s : State) (r : Nat) : Nat :=
  let t := s.tck
  match r with
  | 0x08 => s.nsInTick % 2 ^ 23
  | 0x0C => t.admit100 % 256 * 2 ^ 16 + put t.outEn 15 + t.routePort % 8 * 2 ^ 12 + t.source % 4 * 2 ^ 10 + t.period10us % 2 ^ 10
  | 0x10 => t.compNs.toNat
  | 0x14 => t.phaseErr.toNat * 2 ^ 16 + t.crcErrors % 256 * 2 ^ 8 + put t.holdoverExpired 4 + put t.periodMismatch 3 +
      put t.numMismatch 2 + put t.holdover 1 + put t.locked 0
  | _ => 0

/-- CVN_ (R89). -/
def State.readCvn (s : State) (r : Nat) : Nat :=
  let v := s.cvn
  let e := v.resSel
  match r with
  | 0x00 => put v.closedByWindow 31 + v.close100 % 256 * 2 ^ 21 + v.admittedN % 2 ^ 21
  | 0x04 => v.kills.toNat | 0x08 => v.readmits.toNat | 0x0C => v.fallbacks.toNat | 0x10 => v.withdrawn.toNat
  | 0x20 => e
  | 0x2C => s.share 3 e % 128 * 2 ^ 24 + s.share 2 e % 128 * 2 ^ 16 + s.share 1 e % 128 * 2 ^ 8 + s.share 0 e % 128
  | 0x30 => nth s.img.plan e % 256 * 2 ^ 16 + s.share 5 e % 128 * 2 ^ 8 + s.share 4 e % 128
  | _ => 0

/-- A stream step that is FILED, RUNNING or COMMITTED (R522). -/
def Waybill.liveStream (w : Waybill) : Bool := w.stream.isStream && (w.st == .filed || w.st == .running || w.st == .committed)

/-- LDG_ (R129, R522). -/
def State.readLdg (s : State) (r : Nat) : Nat :=
  let l := s.ldg
  match r with
  | 0x00 => l.wb.length % 2 ^ 21
  | 0x04 => l.inflight % 2 ^ 18
  | 0x08 => l.fullRefusals.toNat
  | 0x0C => l.eccRepaired % 2 ^ 16 * 2 ^ 16 + l.eccCorrected % 2 ^ 16
  | 0x20 => l.capBase.toNat % 2 ^ 32 | 0x24 => l.capBase.toNat / 2 ^ 32
  | 0x28 => l.capLog2
  | 0x2C => put l.capAll 2 + put l.capStop 1 + put l.capEn 0
  | 0x30 => l.capHead % 2 ^ 30 | 0x34 => l.capTail % 2 ^ 30
  | 0x38 => l.capDrops.toNat
  | 0x40 => (l.wb.filter (·.2.liveStream)).length
  | 0x44 => l.streamEnds.toNat
  | _ => 0

/-- STK_ (R692). -/
def State.readStk (s : State) (r : Nat) : Nat :=
  let f := s.fn s.stk.fnSel
  match r with
  | 0x00 => s.stk.fnSel
  | 0x04 => f.fetched.toNat | 0x08 => f.refused.toNat | 0x0C => f.tagWaits.toNat | 0x10 => f.tagStops.toNat
  | 0x14 => f.deadSkips.toNat | 0x18 => f.preempts.toNat | 0x1C => f.expired.toNat | 0x20 => f.recordsLost.toNat
  | 0x40 => s.recipeUnits % 2 ^ 15
  | _ => 0

/-- TLY_ (R230, R231). -/
def State.readTly (s : State) (r : Nat) : Nat :=
  let t := if (s.table? s.tally.tblSel).isSome then s.rt s.tally.tblSel else {}
  match r with
  | 0x00 => s.tally.tblSel
  | 0x04 => t.missing.toNat | 0x08 => t.outOfRange.toNat | 0x0C => t.invalid.toNat | 0x10 => t.larderHits.toNat
  | _ => 0

/-- SRI_ (R267, R328). -/
def State.readSri (s : State) (r : Nat) : Nat :=
  let c := s.selSerai
  let u := s.serai s.serais.sel
  let t := s.rt s.serais.tblSel
  match r with
  | 0x00 => s.serais.sel | 0x04 => u.lanes.toNat
  | 0x40 => c.windows.toNat | 0x44 => c.windowsFull.toNat | 0x48 => c.poolSat.toNat | 0x4C => c.partials.toNat | 0x50 => c.poison.toNat
  | 0x100 => s.serais.tblSel
  | 0x10C => put t.mig.isSome 1 + put t.recal.isSome 0
  | 0x110 => u.mergeUsed % 2 ^ 25 | 0x114 => ceilDiv (s.overlayUsed s.serais.sel) 64 % 2 ^ 25
  | 0x120 => c.stageWaits.toNat | 0x124 => c.mergeWaits.toNat | 0x128 => c.mergeSat.toNat | 0x12C => c.flashDiscards.toNat
  | 0x130 => c.migReleased.toNat | 0x134 => c.poisonDrops.toNat | 0x138 => c.refusedWrites.toNat
  | 0x140 => u.acl.base.toNat % 2 ^ 32 | 0x144 => u.acl.base.toNat / 2 ^ 32
  | 0x148 => u.acl.epochLog2 % 16 * 2 ^ 24 + u.acl.hotThresh % 2 ^ 16 * 2 ^ 8 + u.acl.log2Size % 64 * 4 + put u.acl.en 0
  | 0x14C => u.acl.head % 2 ^ 25 | 0x150 => u.acl.tail % 2 ^ 25
  | 0x154 => u.acl.drops.toNat
  | _ => 0

/-- HTH_ (R379). -/
def State.readHth (s : State) (r : Nat) : Nat :=
  let h := s.hearths.sel
  let u := s.hearth h
  match r with
  | 0x00 => h
  | 0x04 => s.drainOf h % 4 * 2 ^ 9 + put u.inService 8 + u.phys % 256
  | 0x08 => (lsBytes u.split - s.lsUsed h) / 2048 % 256 * 2 ^ 16 + (s.groupsOn h).length % 64 * 2 ^ 8 + u.split % 4
  | 0x0C => ((List.range 4).map fun b => (s.groupsAt h b).length % 16 * 2 ^ (4 * b)).sum
  | 0x10 => ((List.range 4).map fun b => ((s.burners h).getD b (0, 0)).2 % 256 * 2 ^ (8 * b)).sum
  | 0x28 => u.placed.toNat | 0x2C => u.promoted.toNat | 0x30 => u.selfWait.toNat | 0x34 => u.divergent.toNat
  | _ => 0

/-- GRT_ (R471). -/
def State.readGrt (s : State) (r : Nat) : Nat :=
  let h := s.hearths.grtSel
  let u := s.hearth h
  match r with
  | 0x00 => h
  | 0x04 =>
    let ret := (s.phys u.phys).grRetired.toNat
    put (ret != 0) 16 + ((List.range 4).map fun g => put (u.grates.getD g {}).bound.isSome (12 + g)).sum + ret * 2 ^ 8 +
      ((List.range 4).map fun g => (s.servedBy h g).getD g * 2 ^ (2 * g)).sum
  | 0x10 => u.mismatch.toNat | 0x14 => u.rerun.toNat | 0x18 => u.unverifiable.toNat | 0x1C => u.unchecked.toNat
  | 0x20 => u.eccCorrected.toNat | 0x24 => u.degradedSlots.toNat
  | 0x30 => s.hearths.gratesLoaded % 2 ^ 10
  | _ => 0

/-- TRV_ and SVE_ (R502). -/
def State.readTrv (s : State) (r : Nat) : Nat :=
  match r with
  | 0x00 => s.hearths.trvSel
  | 0x10 => (s.hearth s.hearths.trvSel).trvParity.toNat
  | _ => 0
/-- SVE_ (R502). -/
def State.readSve (s : State) (r : Nat) : Nat :=
  let v := s.selSieve
  match r with
  | 0x00 => s.sieves.sel
  | 0x20 => v.padded.toNat | 0x24 => v.nan.toNat | 0x28 => v.masked.toNat | 0x2C => v.ecc.toNat
  | _ => 0

/-- DPT_ (R578). -/
def State.readDpt (s : State) (r : Nat) : Nat :=
  let d := s.depot.sel
  let c := s.selSlice
  match r with
  | 0x00 => d
  | 0x18 => ((s.depot.lines.filter fun l => sliceOf l.pa == d).map fun l => (l.provs.filter fun v => !v.spilled && !v.written).length).sum % 2 ^ 21
  | 0x1C => s.spillUsed d % 2 ^ 21
  | 0x20 => c.conflictWaits.toNat | 0x24 => c.refetch.toNat | 0x28 => c.lost.toNat
  | _ => 0

/-- DMP_ (R578). -/
def State.readDmp (s : State) (r : Nat) : Nat :=
  let d := s.dampers
  let x := mapGetD d.perStack d.sel {}
  let sl := s.img.damper.getD d.sel {}
  match r with
  | 0x00 => d.sel
  | 0x04 => if s.img.loaded then sl.remote % 128 * 2 ^ 16 + sl.write % 128 * 2 ^ 8 + sl.read % 128 else 0
  | 0x08 => d.partSel
  | 0x0C => if s.img.loaded then nth s.img.partMax d.partSel % 128 * 2 ^ 8 + nth s.img.partMin d.partSel % 128 else 0
  | 0x10 => if s.img.loaded then ((List.range 4).map fun i => nth s.img.thr i % 256 * 2 ^ (8 * i)).sum else 0
  | 0x14 => x.level % 4 * 2 ^ 16 + x.temp.toNat
  | 0x18 => x.raises.toNat
  | 0x1C => (mapGetD x.capped d.partSel 0).toNat
  | _ => 0

/-- DRV_ (R578). -/
def State.readDrv (s : State) (r : Nat) : Nat :=
  match r with
  | 0x00 => s.drovers.inService.toNat | 0x10 => s.drovers.flashWrites.toNat | 0x14 => s.drovers.poisoned.toNat
  | _ => 0

/-- XLT_PORT0 and XLT_PORT1 (R622). -/
def LinkPort.reg (l : LinkPort) (one : Bool) : Nat := put (one && l.rerouted) 8 + l.width % 16 * 16 + l.rate % 8 * 2 + put l.up 0

/-- XLT_ (R622). -/
def State.readXlt (s : State) (r : Nat) : Nat :=
  let x := s.xlt
  match r with
  | 0x00 => s.storeUsed 1 / 2048 % 2 ^ 11 * 2 ^ 21 + s.storeUsed 0 / 2048 % 2 ^ 11 * 2 ^ 10
  | 0x04 => x.storeWaits.toNat | 0x08 => x.invals.toNat | 0x0C => x.invalTeardowns.toNat | 0x10 => x.rehomed.toNat | 0x14 => x.parity.toNat
  | 0x18 => x.pendingInv.length % 128
  | 0x40 => x.port0.reg false | 0x44 => x.port1.reg true
  | _ => 0

/-- The code of a port state (R713). -/
def PortState.code : PortState → Nat
  | .disabled => 0 | .down => 1 | .auth => 2 | .up => 3 | .suspect => 4 | .quarantined => 5

/-- RTE_HOLD_S: seconds left in a hold, rounded up (R715, R747). -/
def State.holdLeft (s : State) (q : RPort) : Nat :=
  if q.st != .quarantined then 0 else match q.holdEnd with | none => 0xFFF | some t => min 0xFFE (ceilDiv (t - s.time) cyclesPerS)

/-- RTE_ (R747). -/
def State.readRte (s : State) (r : Nat) : Nat :=
  let q := s.port s.routes.sel
  let c := mapGetD s.routes.cnts s.routes.sel {}
  let ch := mapGetD q.chans s.routes.chanSel {}
  match r with
  | 0x00 => s.routes.sel
  | 0x04 => q.st.code * 2 ^ 24 + put q.encrypted 23 + put q.pin.isSome 22 + put q.requester 21 + q.rxLanes.toNat * 2 ^ 9 + q.txLanes.toNat
  | 0x08 => q.quarantines % 256 * 2 ^ 16 + q.reason % 256
  | 0x18 => q.delayNs.toNat | 0x1C => s.holdLeft q
  | 0x20 => c.replays.toNat | 0x24 => c.trailerFails.toNat | 0x28 => c.stale.toNat | 0x2C => c.creditStalls.toNat
  | 0x30 => c.abortsTx.toNat | 0x34 => c.abortsRx.toNat | 0x38 => c.mismatch.toNat | 0x3C => c.laneSwaps.toNat
  | 0x50 => s.routes.chanSel | 0x54 => ch.epoch.toNat | 0x58 => ch.nextSeq.toNat
  | _ => 0

/-- CLR_ (R231). -/
def State.readClr (s : State) (r : Nat) : Nat :=
  let c := s.cellar
  match r with
  | 0x00 => c.offline.toNat * 2 ^ 16 + c.present.toNat
  | 0x08 => c.nReads.toNat | 0x0C => c.lateDefaults.toNat | 0x10 => c.readErrors.toNat | 0x14 => c.crcErrors.toNat
  | _ => 0

/-- Milliseconds since the pass of the least recently tested physical Hearth in service of a quarter (R791). -/
def State.emberAge (s : State) (q : Nat) : Nat :=
  ((s.inService.filter fun p => p.1 / 20 == q).map fun p => (s.time - (s.phys p.2.phys).lastPassAt) / cyclesPerMs).foldl max 0

/-- FLT_ (R791). -/
def State.readFlt (s : State) (r : Nat) : Nat :=
  let f := s.flt
  let u := s.quarter f.emberSel
  match r with
  | 0x00 => f.hostLost.toNat | 0x04 => f.mgmtLost.toNat | 0x08 => f.writeFails.toNat | 0x0C => f.coalesced.toNat
  | 0x18 => f.mgmtq.length % 2 ^ 11 * 2 ^ 16 + f.hostq.length % 2 ^ 9
  | 0x20 => f.emberSel
  | 0x24 => put u.testing.isSome 31 + put u.inPlace 30 + u.spare.getD 0xFF % 256 * 2 ^ 16 + u.lastTested.getD 0xFF % 256 * 2 ^ 8 + u.fails % 256
  | 0x28 => min 0xFFFF (s.emberAge f.emberSel)
  | 0x2C => f.sparing.toNat
  | _ => 0

/-- A counter configuration register (R819). -/
def CtrCfg.reg (c : CtrCfg) : Nat := put c.any 31 + c.classMask % 64 * 2 ^ 25 + c.ctx % 4096 * 2 ^ 13 + c.event % 32 * 2 ^ 8 + c.inst % 256

/-- CHM_ (R799, R819). -/
def State.readChm (s : State) (r : Nat) : Nat :=
  let c := s.chm
  let v (n : Nat) := (mapGetD c.snap n 0).toNat
  if 0x80 ≤ r ∧ r < 0x100 then ((mapGet c.cfg ((r - 0x80) / 4)).map CtrCfg.reg).getD 0
  else if 0x100 ≤ r ∧ r < 0x200 then (if r % 8 = 0 then v ((r - 0x100) / 8) % 2 ^ 32 else v ((r - 0x100) / 8) / 2 ^ 32)
  else match r with
  | 0x00 => c.snapTick.toNat % 2 ^ 32 | 0x04 => c.snapTick.toNat / 2 ^ 32
  | 0x08 => put c.hostStopped 2 + put c.ring.en 1 + put c.port.en 0
  | 0x10 => c.hostCnt.toNat | 0x14 => if c.tseq = 0 then 0 else c.tseq.toNat - 1
  | 0x18 => c.drops.toNat | 0x1C => c.hostDrops.toNat | 0x20 => c.frames.toNat
  | _ => 0

/-- WRD_: the reading function's Mailbox (R852 to R856). -/
def State.readWrd (s : State) (fn r : Nat) : Nat :=
  let m := (s.log fn).mbx
  if 0x100 ≤ r ∧ r < 0x200 then (mapGetD m.req ((r - 0x100) / 4) 0).toNat
  else if 0x400 ≤ r ∧ r < 0x800 then (mapGetD m.rsp ((r - 0x400) / 4) 0).toNat
  else match r with
  | 0x00 => m.tag.toNat
  | 0x04 => m.rspTag.toNat * 2 ^ 16 + put m.restarted 3 + put m.overrun 2 + put m.done 1 + put m.busy 0
  | _ => 0

/-- A register of the control window that latches nothing. -/
def State.readBlock (s : State) (fn blk r : Nat) : Nat :=
  match blk with
  | 0 => s.readGlb fn r | 1 => s.readTck r | 2 => s.readCvn r | 3 => s.readLdg r | 4 => s.readStk r | 5 => s.readTly r
  | 6 => s.readSri r | 7 => s.readHth r | 8 => s.readGrt r | 9 => s.readTrv r | 10 => s.readSve r | 11 => s.readDpt r
  | 12 => s.readDmp r | 13 => s.readDrv r | 14 => s.readXlt r | 15 => s.readRte r | 16 => s.readClr r | 17 => s.readFlt r
  | 18 => s.readChm r | 19 => s.readWrd fn r | _ => 0

/-! ### Reads -/

/-- A 4-byte read of the control window: the value, and the latch that a LO register takes for the reading function (R907, R910). -/
def State.readWindow (s : State) (fn off : Nat) : State × Nat :=
  let blk := off / 0x10000
  let r := off % 0x10000
  if !s.blockOn fn blk then (s, 0)
  else match s.pair blk r with
    | some v => (s.mLog fn fun l => { l with latch := mapSet l.latch (off + 4) (BitVec.ofNat 32 (v / 2 ^ 32)) }, v % 2 ^ 32)
    | none =>
      if 4 ≤ r ∧ (s.pair blk (r - 4)).isSome then (s, (mapGetD (s.log fn).latch off 0).toNat) else (s, s.readBlock fn blk r)

/-- STK_CPL_CNT_n (R677, R684). -/
def LocalSlot.cpl (l : LocalSlot) : Nat := put l.recordLost 63 + put l.dead 62 + l.count.toNat

/-- A register of a function's BAR2 page (R692, R791, R912). -/
def State.readPage (s : State) (fn r : Nat) : Nat :=
  let f := s.fn fn
  let l := s.log fn
  let slot (n : Nat) := mapGetD f.slots n {}
  if 0x1000 ≤ r ∧ r < 0x2000 then
    (if r % 8 = 0 then (slot ((r - 0x1000) / 8)).cpl % 2 ^ 32 else (slot ((r - 0x1000) / 8)).cpl / 2 ^ 32)
  else if 0x2000 ≤ r ∧ r < 0x2800 then put (slot ((r - 0x2000) / 4)).valid 31 + (slot ((r - 0x2000) / 4)).ctx % 4096
  else if 0x4000 ≤ r ∧ r < 0x4800 then (slot ((r - 0x4000) / 4)).fltCnt.toNat
  else match r with
  | 0x10 => f.ringBase.toNat % 2 ^ 32 | 0x14 => f.ringBase.toNat / 2 ^ 32
  | 0x18 => f.ringLog2 % 32 * 2 + put f.en 0
  | 0x1C => f.cons.toNat | 0x20 => f.prod.toNat
  | 0x24 => put f.dbErr 3 + put f.stopped 2 + put f.tagWait 1 + put f.pend 0
  | 0x30 => f.fnCnt.toNat | 0x34 => f.lastLocal % 512 * 2 ^ 16 + f.lastFault % 2 ^ 16
  | 0x3000 => l.base.toNat % 2 ^ 32 | 0x3004 => l.base.toNat / 2 ^ 32
  | 0x3008 => l.log2 % 16 * 2 + put l.en 0
  | 0x300C => l.cnt.toNat | 0x3010 => l.holdoffUs.toNat
  | _ => 0

/-- BX_STATUS (R879, R898, R900); BUSY is 1 while a command runs. -/
def Bx.status (b : Bx) : Nat :=
  put b.taken.isSome 10 + put b.halted 9 + put b.fatal 8 + put b.qEmpty 2 + put b.oor 1 + put b.cmdErr 0

/-- A read of BX_STATUS: its value, after which each RC bit that read 1 is clear (R879). -/
def State.readBxStatus (s : State) : State × Nat :=
  (s.mBx fun b => { b with qEmpty := false, oor := false, cmdErr := false }, s.bx.status)

/-- A 4-byte read of the BX-3 window; in Quenched BX_ID, BX_STATUS and BX_ERR_INFO answer (R900, R903). -/
def State.readBx (s : State) (off : Nat) : State × Nat :=
  let b := s.bx
  let q := s.dev == .quenched
  match off with
  | 0x00 => (s, 0x42580321)
  | 0x08 => s.readBxStatus
  | 0x0C => (s, b.errCode % 256 * 2 ^ 24 + b.errSlot % 64 * 2 ^ 16 + b.errFault % 2 ^ 16)
  | _ =>
    if q then (s, 0)
    else (s, match off with
      | 0x04 => put b.irqEn 3 + put b.qEn 0
      | 0x10 => b.qBase.toNat % 2 ^ 32 | 0x14 => b.qBase.toNat / 2 ^ 32
      | 0x18 => b.tail % 64 | 0x1C => b.head % 64
      | 0x20 => b.done.toNat | 0x24 => b.oorCount.toNat | 0x28 => 0x2C8 | 0x2C => b.satCount.toNat
      | _ => 0)

/-- A 4-byte read of a BAR by a function. -/
def State.read4 (s : State) (fn bar off : Nat) : State × Nat :=
  if bar = s.windowBar then s.readWindow fn off
  else if bar = 0 ∧ s.img.bx3 then s.readBx off
  else if bar = 2 ∧ s.hostOn ∧ !s.img.bx3 ∧ off / 0x10000 = fn then (s, s.readPage fn (off % 0x10000))
  else (s, 0)

/-- LATCHING_LO_READ (R89, R684, R907, R908, R910): a read of 4 bytes, or of 8 bytes as two of 4, the lower first. A read of any other
register returns its value in the same way and latches nothing. -/
def execLatchingLoRead (fn bar off : Nat) (wide : Bool) (s : State) : Host.Outcome State Fault Refusal :=
  if !s.presented || !s.fnExists fn || off % (if wide then 8 else 4) != 0 then .next s
  else
    let a := s.read4 fn bar off
    let b := if wide then a.1.read4 fn bar (off + 4) else (a.1, 0)
    .next (b.1.mBus fun x => { x with readValue := BitVec.ofNat 64 (a.2 + b.2 * 2 ^ 32) })

/-- BAR_ACCESS_DROPPED (R907): an access that is not aligned, or not of 4 or 8 bytes, is dropped and counted; a read returns 0. -/
def execBarAccessDropped (fn : Nat) (isRead : Bool) (s : State) : Host.Outcome State Fault Refusal :=
  if !s.presented || !s.fnExists fn then .next s
  else
    let s := s.mLog fn fun l => { l with badAccess := l.badAccess + 1 }
    .next (if isRead then s.mBus fun x => { x with readValue := 0 } else s)

end Sys2Proof.Machine
end

