-- ==== Sys2Proof/Machine/RegWrites.lean ====
section
/-!
DEFINITION. Writes of registers (R12, R129, R328, R692, R791, R853, R854, R906, R907, R909, R954). A write that its own row describes
acts here as that row does.
-/
namespace Sys2Proof.Machine

/-- The state a step that always goes on leaves. -/
def thenState (s : State) (o : Host.Outcome State Fault Refusal) : State := match o with | .next t => t | _ => s

/-- The 64-bit register with its low half written, bits 11:0 ignored. -/
def setLo (b : BitVec 64) (v : Nat) : BitVec 64 := BitVec.ofNat 64 (b.toNat / 2 ^ 32 * 2 ^ 32 + v % 2 ^ 32 / 4096 * 4096)
/-- The 64-bit register with its high half written. -/
def setHi (b : BitVec 64) (v : Nat) : BitVec 64 := BitVec.ofNat 64 (b.toNat % 2 ^ 32 + v % 2 ^ 32 * 2 ^ 32)

/-- FUNCTION_LOG_CONFIG (R791, R954): a write of FLT_FN_LOG_CFG in the function's page. -/
def execFunctionLogConfig (fn v : Nat) (s : State) : Host.Outcome State Fault Refusal :=
  let n := bits v 4 1
  if !s.pageOn fn || decide (n < 6 ∨ 14 < n) then .next s
  else .next (s.mLog fn fun l => { l with
    log2 := if l.en then l.log2 else n, en := bit v 0, cnt := if !l.en && bit v 0 then 0 else l.cnt })

/-- A write of WRD_MBX_CTRL: TAG, and GO starts the request or counts as an overrun (R853, R854). -/
def Mailbox.ctrl (m : Mailbox) (v : Nat) : Mailbox :=
  let m := { m with tag := BitVec.ofNat 16 v }
  if !bit v 31 then m
  else if m.busy then { m with overrun := true }
  else { m with busy := true, done := false, inFlight := (List.range 64).map fun i => mapGetD m.req i 0, inFlightTag := m.tag }

/-- A write of WRD_MBX_STATUS (R12). -/
def Mailbox.status (m : Mailbox) (v : Nat) : Mailbox :=
  { m with restarted := m.restarted && !bit v 3, overrun := m.overrun && !bit v 2, done := m.done && !bit v 1 }

/-- Writes of the WRD_ block (R852 to R854). -/
def State.writeWrd (s : State) (fn r v : Nat) : State :=
  s.mLog fn fun l => { l with mbx :=
    if 0x100 ≤ r ∧ r < 0x200 then { l.mbx with req := mapSet l.mbx.req ((r - 0x100) / 4) (BitVec.ofNat 32 v) }
    else match r with | 0x00 => l.mbx.ctrl v | 0x04 => l.mbx.status v | _ => l.mbx }

/-- Writes of the GLB_ block: HOST_LOST is W1C (R914). -/
def State.writeGlb (s : State) (fn r v : Nat) : State :=
  if r = 0x20 ∧ bit v 10 then s.mLog fn fun l => { l with hostLost := false } else s

/-- Writes of the TCK_ block: three W1C bits (R89). -/
def State.writeTck (s : State) (r v : Nat) : State :=
  if r = 0x14 then s.mTck fun t => { t with
    holdoverExpired := t.holdoverExpired && !bit v 4, periodMismatch := t.periodMismatch && !bit v 3
    numMismatch := t.numMismatch && !bit v 2 }
  else s

/-- Writes of the LDG_ block (R129, R954). -/
def State.writeLdg (s : State) (r v : Nat) : State :=
  let en := s.ldg.capEn
  match r with
  | 0x20 => if en then s else s.mLdg fun l => { l with capBase := setLo l.capBase v }
  | 0x24 => if en then s else s.mLdg fun l => { l with capBase := setHi l.capBase v }
  | 0x28 => if en || decide (v % 64 < 24 ∨ 36 < v % 64) then s else s.mLdg fun l => { l with capLog2 := v % 64 }
  | 0x2C => thenState s (execCaptureConfig 0 v s)
  | 0x34 => s.mLdg fun l => { l with capTail := v % 2 ^ 30 }
  | _ => s

/-- Writes of the SRI_ block (R328). -/
def State.writeSri (s : State) (r v : Nat) : State :=
  let q := s.serais.sel
  match r with
  | 0x00 => s.mSerais fun u => { u with sel := v % 8 }
  | 0x100 => s.mSerais fun u => { u with tblSel := v % 65536 }
  | 0x140 => s.mSerai q fun u => if u.acl.en then u else { u with acl := { u.acl with base := setLo u.acl.base v } }
  | 0x144 => s.mSerai q fun u => if u.acl.en then u else { u with acl := { u.acl with base := setHi u.acl.base v } }
  | 0x148 => thenState s (execAclConfig 0 v s)
  | 0x150 => s.mSerai q fun u => { u with acl := { u.acl with tail := v % 2 ^ 25 } }
  | _ => s

/-- Writes of the blocks whose only writable registers are selectors (R909, R954). -/
def State.writeSelector (s : State) (blk r v : Nat) : State :=
  match blk, r with
  | 2, 0x20 => s.mCvn fun u => { u with resSel := v % 8 }
  | 4, 0x00 => s.mStk fun u => { u with fnSel := v % 32 }
  | 5, 0x00 => s.mTally fun u => { u with tblSel := v % 65536 }
  | 7, 0x00 => if v % 256 < 160 then s.mHearths fun u => { u with sel := v % 256 } else s
  | 8, 0x00 => if v % 256 < 160 then s.mHearths fun u => { u with grtSel := v % 256 } else s
  | 9, 0x00 => if v % 256 < 160 then s.mHearths fun u => { u with trvSel := v % 256 } else s
  | 10, 0x00 => s.mSieves fun u => { u with sel := v % 2 }
  | 11, 0x00 => s.mDepot fun u => { u with sel := v % 2 }
  | 12, 0x00 => s.mDampers fun u => { u with sel := v % 8 }
  | 12, 0x08 => s.mDampers fun u => { u with partSel := v % 8 }
  | 15, 0x00 => s.mRoutes fun u => { u with sel := v % 8 }
  | 15, 0x50 => s.mRoutes fun u => { u with chanSel := v % 16 }
  | 17, 0x20 => s.mFlt fun u => { u with emberSel := v % 8 }
  | _, _ => s

/-- A 4-byte write of the control window (R906). -/
def State.writeWindow (s : State) (fn off v : Nat) : State :=
  let blk := off / 0x10000
  let r := off % 0x10000
  if !s.blockOn fn blk then s
  else match blk with
    | 0 => s.writeGlb fn r v | 1 => s.writeTck r v | 3 => s.writeLdg r v | 6 => s.writeSri r v | 19 => s.writeWrd fn r v
    | _ => s.writeSelector blk r v

/-- A 4-byte write of a function's BAR2 page (R692, R791). -/
def State.writePage (s : State) (fn r v : Nat) : State :=
  let f := s.fn fn
  let l := s.log fn
  if 0x1000 ≤ r ∧ r < 0x2000 ∧ r % 8 = 4 then
    (if bit v 31 then s.mFn fn fun f => { f with slots := mapAdj f.slots ((r - 0x1000) / 8) fun x => { x with recordLost := false } } else s)
  else match r with
  | 0x00 => thenState s (execDoorbell fn v s)
  | 0x10 => if f.en then s else s.mFn fn fun f => { f with ringBase := setLo f.ringBase v }
  | 0x14 => if f.en then s else s.mFn fn fun f => { f with ringBase := setHi f.ringBase v }
  | 0x18 => thenState s (execRingEnable fn v s)
  | 0x24 => if bit v 3 then s.mFn fn fun f => { f with dbErr := false } else s
  | 0x3000 => if l.en then s else s.mLog fn fun l => { l with base := setLo l.base v }
  | 0x3004 => if l.en then s else s.mLog fn fun l => { l with base := setHi l.base v }
  | 0x3008 => thenState s (execFunctionLogConfig fn v s)
  | 0x3010 => s.mLog fn fun l => { l with holdoffUs := BitVec.ofNat 8 v }
  | _ => s

/-- A 4-byte write of the BX-3 window to a register without its own row: BX_Q_BASE, ignored while Q_EN is 1 (R885). -/
def State.writeBx (s : State) (off v : Nat) : State :=
  if s.bx.qEn || s.dev != .service then s
  else match off with
  | 0x10 => s.mBx fun b => { b with qBase := BitVec.ofNat 64 (b.qBase.toNat / 2 ^ 32 * 2 ^ 32 + v % 2 ^ 32 / 2048 * 2048) }
  | 0x14 => s.mBx fun b => { b with qBase := setHi b.qBase v }
  | _ => s

/-- A 4-byte write of a BAR by a function. -/
def State.write4 (s : State) (fn bar off v : Nat) : State :=
  if bar = s.windowBar then s.writeWindow fn off v
  else if s.img.bx3 then (if bar = 0 then s.writeBx off v else s)
  else if bar = 2 ∧ s.hostOn ∧ off / 0x10000 = fn then s.writePage fn (off % 0x10000) v
  else s

/-- REGISTER_WRITE (R12, R907): a write of 4 bytes, or of 8 bytes as two of 4, the lower first. -/
def execRegisterWrite (fn bar off v : Nat) (wide : Bool) (s : State) : Host.Outcome State Fault Refusal :=
  if !s.presented || !s.fnExists fn || off % (if wide then 8 else 4) != 0 then .next s
  else
    let s := s.write4 fn bar off (v % 2 ^ 32)
    .next (if wide then s.write4 fn bar (off + 4) (v / 2 ^ 32 % 2 ^ 32) else s)

end Sys2Proof.Machine
end

