-- ==== Sys2Proof/Machine/Bx.lean ====
section
/-!
DEFINITION. The BX-3 personality (R870 to R903): the command queue, addresses, the checks of a command, pooled lookups and dense layers,
completion, failure and reset.
-/
namespace Sys2Proof.Machine

/-- The BX-3 window acts (R870, R900). -/
def State.bxOn (s : State) : Bool := s.live && s.img.bx3

/-! ### Addresses (R887) -/

/-- Bytes of device memory. -/
def bxBytes : Nat := 764504178688
/-- An address operand names device memory. -/
def bxDev (a : Nat) : Bool := bit a 63
/-- Its reserved bits are not 0. -/
def bxBad (a : Nat) : Bool := bxDev a && a / 2 ^ 40 % 2 ^ 23 != 0
/-- A device range goes past the end of device memory. -/
def bxBeyond (r : Nat × Nat) : Bool := bxDev r.1 && decide (bxBytes < r.1 % 2 ^ 40 + r.2)
/-- Two ranges overlap. -/
def bxMeet (x y : Nat × Nat) : Bool := bxDev x.1 == bxDev y.1 && meets (x.1 % 2 ^ 63) x.2 (y.1 % 2 ^ 63) y.2
/-- The LPA of a device offset. -/
def bxLpa (o : Nat) : Nat := o / 2 ^ 30 % 8 * 2 ^ 37 + o / 2 ^ 33 * 2 ^ 30 + o % 2 ^ 30
/-- The place of an address operand. -/
def bxPlace (a : Nat) : PA := if bxDev a then { space := .stack, addr := bxLpa (a % 2 ^ 40) } else { space := .host, addr := a }

/-- Bytes of a range. -/
def State.bxRead (s : State) (a n : Nat) : List Byte := (List.range n).map fun i => s.viewByte noUnit (bxPlace (a + i))

/-- Some byte of a range is poisoned. -/
def State.bxPoison (s : State) (a n : Nat) : Bool := (List.range n).any fun i => s.viewPoisoned noUnit (bxPlace (a + i)) 1

/-- Write a range, in the runs of 64 bytes that stay in one place. -/
def State.bxWrite (s : State) (a : Nat) (bs : List Byte) (bad : Nat → Bool) : Nat → State
  | 0 => s
  | k + 1 =>
    if bs.isEmpty then s
    else
      let n := min bs.length (64 - a % 64)
      let rest := bs.drop n
      (s.writeThrough (bxPlace a) (bs.take n) (bad a)).bxWrite (a + n) rest bad k

/-- Write a range that holds no poison. -/
def State.bxPut (s : State) (a : Nat) (bs : List Byte) : State := s.bxWrite a bs (fun _ => false) (bs.length / 64 + 2)

/-! ### The queue -/

/-- The slots from HEAD to TAIL - 1, modulo 64 (R881). -/
def Bx.pendingSlots (b : Bx) : List Nat := (List.range ((b.tail + 64 - b.head) % 64)).map fun i => (b.head + i) % 64

/-- A write of BX_Q_TAIL makes entries pending: each is read once, now (R882); a poisoned one is kept as an empty list. -/
def State.bxTail (s : State) (v : Nat) : State :=
  let s := s.mBx fun b => { b with tail := v % 64 }
  if !s.bx.qEn then s
  else
    let slots := s.bx.pendingSlots
    let entry (i : Nat) : List Byte :=
      let a := s.bx.qBase.toNat + 32 * i
      if s.bxPoison a 32 then [] else s.hostRead a 32
    s.mBx fun b => { b with
      entries := slots.map fun i => match b.entries.find? (·.1 == i) with | some e => e | none => (i, entry i) }

/-- BX_Q_TAIL_WRITE (R882, R885). -/
def execBxQTailWrite (v : Nat) (s : State) : Host.Outcome State Fault Refusal := if s.bxOn then .next (s.bxTail v) else .next s

/-- BX_QUEUE_IDLE_RECHECK (R883): with no entry pending, HEAD and TAIL are compared again. -/
def execBxQueueIdleRecheck (s : State) : Host.Outcome State Fault Refusal :=
  if s.bxOn && s.bx.qEn && s.bx.recheck then .next (s.mBx fun b => { b with recheck := false }) else .next s

/-- A reset of the BX-3 window (R902): the running command is killed, tables are undefined, registers return to their reset values. -/
def State.bxReset (s : State) : State := s.mBx fun b => { irqs := b.irqs }

/-- A write of BX_CTRL (R885, R898, R901, R902). -/
def State.bxCtrl (s : State) (v : Nat) : State :=
  let s := s.mBx fun b =>
    let b := { b with irqEn := bit v 3, halted := b.halted && !bit v 1 }
    if bit v 0 && !b.qEn then { b with qEn := true, head := 0, tail := 0, entries := [], recheck := true } else { b with qEn := bit v 0 }
  if bit v 2 then s.bxReset else s

/-- BX_QUEUE_ENABLE (R885): a write of BX_CTRL. -/
def execBxQueueEnable (v : Nat) (s : State) : Host.Outcome State Fault Refusal := if s.bxOn then .next (s.bxCtrl v) else .next s

/-- BX_RESUME (R898): a write of BX_CTRL with RESUME 1. -/
def execBxResume (v : Nat) (s : State) : Host.Outcome State Fault Refusal := if s.bxOn then .next (s.bxCtrl (v ||| 2)) else .next s

/-- BX_SOFT_RESET (R856, R902): a write of BX_CTRL with SOFT_RESET 1, or a Function Level Reset, which resets the Mailbox too. -/
def execBxSoftReset (v : Nat) (flr : Bool) (s : State) : Host.Outcome State Fault Refusal :=
  if !s.bxOn then .next s
  else if flr then .next (s.bxReset.mLog 0 fun l => { l with mbx := {} })
  else .next (s.bxCtrl (v ||| 4))

/-- BX_STATUS_READ (R879, R900). -/
def execBxStatusRead (s : State) : Host.Outcome State Fault Refusal :=
  if s.presented && s.img.bx3 then
    let r := s.readBxStatus
    .next (r.1.mBus fun b => { b with readValue := BitVec.ofNat 64 r.2 })
  else .next s

/-! ### Entries and failures -/

/-- OPCODE of an entry. -/
def bxOp (e : List Byte) : Nat := fld e 0 1
/-- FLAGS. -/
def bxFlags (e : List Byte) : Nat := fld e 1 1
/-- P16. -/
def bxP16 (e : List Byte) : Nat := fld e 2 2
/-- P32. -/
def bxP32 (e : List Byte) : Nat := fld e 4 4
/-- A. -/
def bxA (e : List Byte) : Nat := fld e 8 8
/-- B. -/
def bxB (e : List Byte) : Nat := fld e 16 8
/-- C. -/
def bxC (e : List Byte) : Nat := fld e 24 8

/-- The entry that runs next: the queue is enabled and not halted, no command runs (R884, R898). -/
def State.bxNext (s : State) : Option (List Byte) :=
  if s.bxOn && s.bx.qEn && !s.bx.halted && s.bx.taken.isNone && s.bx.head != s.bx.tail then
    (s.bx.entries.find? (·.1 == s.bx.head)).map (·.2)
  else none

/-- The entry that runs next, for the row of an opcode. -/
def State.bxEntry (s : State) (op : Nat) : Option (List Byte) :=
  match s.bxNext with | some e => if !e.isEmpty && bxOp e == op then some e else none | none => none

/-- The command runs: `staged` is what becomes visible at its completion, `code` and `fault` its failure (R898). -/
def State.bxRun (s : State) (e : List Byte) (staged : List (Nat × List Byte)) (code fault : Nat) : State :=
  s.mBx fun b => { b with taken := some e, ran := true, staged := staged, failing := code, failFault := fault }

/-- Free bytes for the outputs of a failed command, which are undefined (R898; assumption 5). -/
def State.bxFree (s : State) (e : List Byte) (outs : List (Nat × Nat)) (code fault : Nat) : State :=
  let base := s.hearths.freeCount
  let staged := outs.map fun r => (r.1, (List.range r.2).map fun i => (Config.freeValue (base + (r.1 + i) % 2 ^ 64)).truncate 8)
  (s.bxRun e staged code fault).mHearths fun u => { u with freeCount := u.freeCount + 2 ^ 64 }

/-- A Native fault of containment Teardown in the command's work: its record, then error code 0x07 (R877, R899). -/
def State.bxFault (s : State) (e : List Byte) (outs : List (Nat × Nat)) (fault : Nat) : State :=
  (s.raise { code := fault, fn := some 0 }).bxFree e outs 7 fault

/-- The failures that reading a command's inputs brings: an access of host memory that failed or returned poison, or poison of device
memory consumed (R899). `none` when the inputs are good. -/
def State.bxInputs (s : State) (e : List Byte) (ins outs : List (Nat × Nat)) (failed : Bool) (poison : Nat) : Option State :=
  if (failed && (ins ++ outs).any (fun r => !bxDev r.1)) || ins.any (fun r => !bxDev r.1 && s.bxPoison r.1 r.2) then some (s.bxFree e outs 6 0)
  else if poison ≠ 0 ∧ ins.any (fun r => bxDev r.1 && s.bxPoison r.1 r.2) then some (s.bxFault e outs poison)
  else none

/-! ### Tables -/

/-- The extent of a table. -/
def BxTable.extent (t : BxTable) : Nat × Nat := (2 ^ 63 + t.base, t.rows * t.rowBytes)

/-- The byte range of a row. -/
def BxTable.row (t : BxTable) (r : Nat) : Nat := 2 ^ 63 + t.base + r * t.rowBytes

/-- A range overlaps a defined table. -/
def State.bxOverTable (s : State) (r : Nat × Nat) : Bool := s.bx.tables.any fun t => bxMeet r t.2.extent

/-- BX_NOP (R886, R888): also where an entry of an undefined opcode, or one that could not be read, fails. -/
def execBxNop (failed : Bool) (s : State) : Host.Outcome State Fault Refusal :=
  match s.bxNext with
  | none => .next s
  | some e =>
    if e.isEmpty then .next (s.bxRun e [] 6 0)
    else if failed && bxOp e == 0 then .next (s.bxRun e [] 6 0)
    else if bxOp e = 0 then .next (s.bxRun e [] (if zeroIn e 1 31 then 0 else 1) 0)
    else if 6 < bxOp e then .next (s.bxRun e [] 1 0)
    else .next s

/-- DEFINE_TABLE (R886, R888). -/
def execDefineTable (failed : Bool) (s : State) : Host.Outcome State Fault Refusal :=
  match s.bxEntry 1 with
  | none => .next s
  | some e =>
    let size := 32 * 2 ^ (bxFlags e % 8)
    let t : BxTable := { rows := bxP32 e, base := bxA e % 2 ^ 40, rowBytes := size, scale := BitVec.ofNat 32 (bxC e) }
    let bad := decide (5 < bxFlags e ∨ 1023 < bxP16 e ∨ bxP32 e = 0 ∨ bxB e ≠ 0 ∨ 2 ^ 32 ≤ bxC e) || !bxDev (bxA e) || bxBad (bxA e) ||
      bxA e % 2 ^ 40 % size != 0 || nonfinite 0 (bxC e % 2 ^ 32)
    let code := if bad then 1 else if (mapGet s.bx.tables (bxP16 e)).isSome then 2 else if bxBeyond t.extent then 3
      else if s.bxOverTable t.extent then 5 else if failed then 6 else 0
    let s := if code = 0 then s.mBx fun b => { b with tables := mapSet b.tables (bxP16 e) t } else s
    .next (s.bxRun e [] code 0)

/-- UNDEFINE_TABLE (R886, R888). -/
def execUndefineTable (failed : Bool) (s : State) : Host.Outcome State Fault Refusal :=
  match s.bxEntry 2 with
  | none => .next s
  | some e =>
    let bad := bxFlags e != 0 || decide (1023 < bxP16 e) || !zeroIn e 4 28
    let code := if bad then 1 else if (mapGet s.bx.tables (bxP16 e)).isNone then 2 else if failed then 6 else 0
    let s := if code = 0 then s.mBx fun b => { b with tables := mapErase b.tables (bxP16 e) } else s
    .next (s.bxRun e [] code 0)

/-- ROW_WRITE (R886, R888, R889): the rows become visible at completion; a later row of the same index supersedes an earlier one. -/
def execRowWrite (failed : Bool) (s : State) : Host.Outcome State Fault Refusal :=
  match s.bxEntry 3 with
  | none => .next s
  | some e =>
    let n := bxP32 e
    let bad := decide (bxFlags e ≠ 0 ∨ 1023 < bxP16 e ∨ n = 0 ∨ 65536 < n ∨ bxC e ≠ 0) || bxBad (bxA e) || bxBad (bxB e)
    match bad, mapGet s.bx.tables (bxP16 e) with
    | true, _ => .next (s.bxRun e [] 1 0)
    | false, none => .next (s.bxRun e [] 2 0)
    | false, some t =>
      let idxR := (bxA e, 4 * n)
      let dataR := (bxB e, n * t.rowBytes)
      if bxBeyond idxR || bxBeyond dataR then .next (s.bxRun e [] 3 0)
      else
        let bs := s.bxRead (bxA e) (4 * n)
        let idx := (List.range n).map fun i => fld bs (4 * i) 4
        let outs := (idx.filter (· < t.rows)).map fun r => (t.row r, t.rowBytes)
        if outs.any fun o => bxMeet o idxR || bxMeet o dataR then .next (s.bxRun e [] 4 0)
        else match s.bxInputs e [idxR] outs failed 0x632 with
          | some s' => .next s'
          | none =>
            if idx.any (t.rows ≤ ·) then .next (s.bxRun e [] 1 0)
            else match s.bxInputs e [dataR] outs failed 0x632 with
              | some s' => .next s'
              | none => .next (s.bxRun e ((List.range n).map fun i =>
                  (t.row (idx.getD i 0), s.bxRead (bxB e + i * t.rowBytes) t.rowBytes)) 0 0)

/-! ### LOOKUP_POOL -/

/-- sat32 of a sum, with 1 when it changed the sum (R892, R893). -/
def sat32c (v : Int) : Int × Nat := (satS 32 v, if satS 32 v = v then 0 else 1)

/-- Pool one element of a bag: terms in index-array order (R892). -/
def bxPool (terms : List Int) : Int × Nat :=
  terms.foldl (fun a t => let r := sat32c (a.1 + t); (r.1, a.2 + r.2)) (0, 0)

/-- The F32 output of a pooled element (R892); MODE 1 is MEAN. -/
def bxOut (acc : Int) (scale mode count : Nat) : Nat :=
  if count = 0 then 0
  else
    let y := (fmul 0 rne (i2f 0 rne (ofS 32 acc)).1 scale).1
    if mode = 1 then (fdiv 0 rne y (i2f 0 rne count).1).1 else y

/-- A bag: mode, and its indices and weights (R890). -/
def State.bxBag (s : State) (e : List Byte) (b : Nat) : Nat × List (Nat × Int) :=
  let h := s.bxRead (bxA e + 8 * b) 8
  (fld h 6 1, (List.range (fld h 4 2)).map fun j =>
    let x := s.bxRead (bxB e + 8 * (fld h 0 4 + j)) 8
    (fld x 0 4, toS 16 (fld x 4 2)))

/-- The outputs of one bag, and its saturations (R892, R893). -/
def State.bxBagOut (s : State) (e : List Byte) (t : BxTable) (b : Nat) : List Byte × Nat :=
  let bag := s.bxBag e b
  let rows := bag.2.map fun p => (s.bxRead (t.row (if p.1 < t.rows then p.1 else 0)) t.rowBytes, if bag.1 = 2 then p.2 else 1)
  let pooled := (List.range t.rowBytes).map fun i => bxPool (rows.map fun r => toS 8 (fld r.1 i 1) * r.2)
  (pooled.flatMap fun p => toLe 4 (bxOut p.1 t.scale.toNat bag.1 bag.2.length), (pooled.map (·.2)).sum)

/-- A bag list's entries and the index entries they name are well formed (R890). -/
def State.bxBagsOk (s : State) (e : List Byte) : Bool :=
  (List.range (bxP32 e)).all fun b =>
    let h := s.bxRead (bxA e + 8 * b) 8
    decide (fld h 6 1 ≤ 2) && fld h 7 1 == 0 && (List.range (fld h 4 2)).all fun j => fld (s.bxRead (bxB e + 8 * (fld h 0 4 + j)) 8) 6 2 == 0

/-- The parts of the index array that the bags read. -/
def State.bxIndexRanges (s : State) (e : List Byte) : List (Nat × Nat) :=
  ((List.range (bxP32 e)).map fun b =>
    let h := s.bxRead (bxA e + 8 * b) 8
    (bxB e + 8 * fld h 0 4, 8 * fld h 4 2)).filter (·.2 != 0)

/-- LOOKUP_POOL (R886, R888, R890 to R893). -/
def execLookupPool (failed : Bool) (s : State) : Host.Outcome State Fault Refusal :=
  match s.bxEntry 4 with
  | none => .next s
  | some e =>
    let n := bxP32 e
    let bad := decide (bxFlags e ≠ 0 ∨ 1023 < bxP16 e ∨ n = 0 ∨ 1048576 < n) || bxBad (bxA e) || bxBad (bxB e) || bxBad (bxC e)
    match bad, mapGet s.bx.tables (bxP16 e) with
    | true, _ => .next (s.bxRun e [] 1 0)
    | false, none => .next (s.bxRun e [] 2 0)
    | false, some t =>
      let bags := (bxA e, 8 * n)
      let out := (bxC e, 4 * t.rowBytes * n)
      if bxBeyond bags || bxBeyond out then .next (s.bxRun e [] 3 0)
      else match s.bxInputs e [bags] [out] failed 0x632 with
        | some s' => .next s'
        | none =>
          let ins := bags :: s.bxIndexRanges e
          if ins.any bxBeyond then .next (s.bxRun e [] 3 0)
          else match s.bxInputs e ins [out] failed 0x632 with
            | some s' => .next s'
            | none =>
              let idx := (List.range n).flatMap fun b => (s.bxBag e b).2.map (·.1)
              let rows := idx.map fun i => (t.row (if i < t.rows then i else 0), t.rowBytes)
              let oor := (idx.filter (t.rows ≤ ·)).length
              let code := if !s.bxBagsOk e then 1 else if ins.any (bxMeet out) then 4 else if s.bxOverTable out then 5 else 0
              if code ≠ 0 then .next (s.bxRun e [] code 0)
              else match s.bxInputs e rows [out] false 0x334 with
                | some s' => .next s'
                | none =>
                  let outs := (List.range n).map fun b => s.bxBagOut e t b
                  let s := s.mBx fun b => { b with
                    oorCount := b.oorCount + BitVec.ofNat 32 oor, oor := b.oor || decide (0 < oor)
                    satCount := b.satCount + BitVec.ofNat 32 ((outs.map (·.2)).sum) }
                  .next (s.bxRun e [(bxC e, outs.flatMap (·.1))] 0 0)

/-! ### DENSE -/

/-- An F32 value at an address. -/
def State.bxF32 (s : State) (a : Nat) : Nat := leNat (s.bxRead a 4)

/-- One output element (R895). -/
def State.bxDenseAt (s : State) (x w bias kDim nDim act m n : Nat) : Nat :=
  let dot := (List.range kDim).foldl (fun acc k =>
    (fadd 0 rne acc (fmul 0 rne (s.bxF32 (x + 4 * (m * kDim + k))) (s.bxF32 (w + 4 * (k * nDim + n)))).1).1) 0
  let r := if bias = 0 then dot else (fadd 0 rne dot (s.bxF32 (bias + 4 * n))).1
  if act = 1 ∧ !(fdec 0 r).isNan ∧ (r / 2 ^ 31 % 2 = 1 ∨ r % 2 ^ 31 = 0) then 0 else r

/-- DENSE (R886, R888, R894 to R896): the parameter block at A. -/
def execDense (failed : Bool) (s : State) : Host.Outcome State Fault Refusal :=
  match s.bxEntry 5 with
  | none => .next s
  | some e =>
    let blk := (bxA e, 64)
    if !(zeroIn e 1 7 && zeroIn e 16 16) || bxBad (bxA e) then .next (s.bxRun e [] 1 0)
    else if bxBeyond blk then .next (s.bxRun e [] 3 0)
    else match s.bxInputs e [blk] [] failed 0x632 with
      | some s' => .next s'
      | none =>
        let p := s.bxRead (bxA e) 64
        let x := fld p 0 8; let w := fld p 8 8; let bias := fld p 16 8; let y := fld p 24 8
        let m := fld p 32 4; let k := fld p 36 4; let n := fld p 40 4; let act := fld p 44 1
        let dimOk (d : Nat) : Bool := decide (1 ≤ d ∧ d ≤ 65536)
        let ins := [blk, (x, 4 * m * k), (w, 4 * k * n)] ++ (if bias = 0 then [] else [(bias, 4 * n)])
        let out := (y, 4 * m * n)
        let code :=
          if !(dimOk m && dimOk k && dimOk n && decide (act ≤ 1) && zeroIn p 45 19) || [x, w, bias, y].any bxBad then 1
          else if (out :: ins).any bxBeyond then 3 else if ins.any (bxMeet out) then 4 else if s.bxOverTable out then 5 else 0
        if code ≠ 0 then .next (s.bxRun e [] code 0)
        else match s.bxInputs e ins [out] failed 0x632 with
          | some s' => .next s'
          | none => .next (s.bxRun e [(y, (List.range (m * n)).flatMap fun i =>
              toLe 4 (s.bxDenseAt x w bias k n act (i / n) (i % n)))] 0 0)

/-! ### COPY -/

/-- BX_COPY (R886, R888): the Drovers carry poison of device memory with the bytes (R564, R768). -/
def execBxCopy (failed : Bool) (s : State) : Host.Outcome State Fault Refusal :=
  match s.bxEntry 6 with
  | none => .next s
  | some e =>
    let n := bxP32 e
    let src := (bxA e, n)
    let dst := (bxB e, n)
    let code := if !(zeroIn e 1 3 && zeroIn e 24 8) || n == 0 || bxBad (bxA e) || bxBad (bxB e) then 1
      else if bxBeyond src || bxBeyond dst then 3 else if bxMeet dst src then 4 else if s.bxOverTable dst then 5 else 0
    if code ≠ 0 then .next (s.bxRun e [] code 0)
    else match s.bxInputs e [src] [dst] failed 0 with
      | some s' => .next s'
      | none =>
        let bad (a : Nat) : Bool := s.bxPoison (bxA e + (a - bxB e)) (min (64 - a % 64) (n - (a - bxB e)))
        let s := s.bxWrite (bxB e) (s.bxRead (bxA e) n) bad (n / 64 + 2)
        let s := s.mDrovers fun d => { d with bytes := d.bytes + BitVec.ofNat 64 n }
        .next (s.bxRun e [] 0 0)

/-! ### Completion -/

/-- BX_COMMAND_COMPLETE (R884, R898, R901): outputs become visible, HEAD and BX_DONE_COUNT advance; a failed command sets CMD_ERR and
HALTED, and may send the MSI-X vector. -/
def execBxCommandComplete (s : State) : Host.Outcome State Fault Refusal :=
  match s.bxOn && s.bx.ran, s.bx.taken with
  | true, some _ =>
    let b := s.bx
    let s := b.staged.foldl (fun s w => s.bxPut w.1 w.2) s
    let s := if b.failing = 0 then s.count 0x0E 0xFF none 4 1 else s
    .next (s.mBx fun b =>
      let empty := decide ((b.head + 1) % 64 = b.tail)
      let fail := b.failing != 0
      { b with
        taken := none, ran := false, staged := [], failing := 0, failFault := 0
        entries := b.entries.filter (·.1 != b.head), head := (b.head + 1) % 64, done := b.done + 1
        qEmpty := b.qEmpty || empty, recheck := b.recheck || empty
        cmdErr := b.cmdErr || fail, halted := b.halted || fail
        errCode := if fail then b.failing else b.errCode, errSlot := if fail then b.head else b.errSlot
        errFault := if fail then b.failFault else b.errFault
        irqs := if fail && !b.cmdErr && b.irqEn then b.irqs + 1 else b.irqs })
  | _, _ => .next s

end Sys2Proof.Machine
end

