-- ==== Sys2Proof/Machine/IsaScalar.lean ====
section
/-!
DEFINITION. Scalar and control instructions (R387, R392, R393).
-/
namespace Sys2Proof.Machine

/-- SA of format S. -/
def Issue.sa (i : Issue) : Nat := i.g.sget (wS1 i.w)

/-- SB of format S. -/
def Issue.sb (i : Issue) : Nat := i.g.sget (wS2 i.w)

/-- A scalar instruction: SD takes a value modulo 2^64 (R392). -/
def State.scalarOp (s : State) (r : GroupRef) (func : Nat) (f : Issue → Nat) : State :=
  s.isaStep r [(0, func)] fun i => i.ret (i.g.sset (wS0 i.w) (f i))

/-- The low 64 bits of an integer. -/
def low64 (v : Int) : Nat := ofS 64 v

/-- Index of the lowest set bit, 64 for none (R392). -/
def ff1 (v : Nat) : Nat := ((List.range 64).find? fun i => v.testBit i).getD 64

/-- The conditions of R393 on EXEC and two scalars. -/
def condHolds (cond exec a b : Nat) : Bool :=
  match cond with
  | 0 => true
  | 1 => a == 0
  | 2 => a != 0
  | 3 => exec == 0
  | 4 => exec != 0
  | 5 => decide (toS 64 a < toS 64 b)
  | 6 => decide (a < b)
  | _ => a == b

/-- The special registers (R387). -/
def Issue.special (i : Issue) (n : Nat) : Nat :=
  match n with
  | 0 => lnArg i.c
  | 1 => lnArgLen i.c
  | 2 => i.g.block
  | 3 => lnBlocks i.c
  | 4 => i.g.group
  | 5 => lnGpb i.c
  | 6 => lnLs i.c
  | 7 => i.c.cmdId.toNat
  | 8 => i.c.key.toNat
  | 9 => i.s.tck.num.toNat
  | 10 => i.r.hearth
  | 11 => i.r.burner
  | 12 => i.r.slot
  | _ => i.s.power.hclk / 1200

/-- A control instruction's target: a count of instructions from its own address (R382, R392). -/
def Issue.branch (i : Issue) : BitVec 64 := i.g.pc - 8 + BitVec.ofInt 64 (toS 32 (wImm i.w) * 8)

/-- SMOV: SD = SA (R392). -/
def execSmov (g : GroupRef) (s : State) : Host.Outcome State Fault Refusal :=
  .next (s.scalarOp g 0x00 fun i => i.sa)

/-- SMOVI: SD = IMM32, sign-extended (R392). -/
def execSmovi (g : GroupRef) (s : State) : Host.Outcome State Fault Refusal :=
  .next (s.scalarOp g 0x01 fun i => low64 (toS 32 (wImm i.w)))

/-- SMOVHI: the high half of SD is IMM32 (R392). -/
def execSmovhi (g : GroupRef) (s : State) : Host.Outcome State Fault Refusal :=
  .next (s.scalarOp g 0x02 fun i => i.sa % 2 ^ 32 + wImm i.w * 2 ^ 32)

/-- SADD: SD = SA + SB (R392). -/
def execSadd (g : GroupRef) (s : State) : Host.Outcome State Fault Refusal :=
  .next (s.scalarOp g 0x03 fun i => i.sa + i.sb)

/-- SADDI: SD = SA + IMM32 (R392). -/
def execSaddi (g : GroupRef) (s : State) : Host.Outcome State Fault Refusal :=
  .next (s.scalarOp g 0x04 fun i => low64 (i.sa + toS 32 (wImm i.w)))

/-- SSUB: SD = SA − SB (R392). -/
def execSsub (g : GroupRef) (s : State) : Host.Outcome State Fault Refusal :=
  .next (s.scalarOp g 0x05 fun i => low64 ((i.sa : Int) - i.sb))

/-- SAND: SD = SA & SB (R392). -/
def execSand (g : GroupRef) (s : State) : Host.Outcome State Fault Refusal :=
  .next (s.scalarOp g 0x06 fun i => i.sa &&& i.sb)

/-- SOR: SD = SA | SB (R392). -/
def execSor (g : GroupRef) (s : State) : Host.Outcome State Fault Refusal :=
  .next (s.scalarOp g 0x07 fun i => i.sa ||| i.sb)

/-- SXOR: SD = SA ^ SB (R392). -/
def execSxor (g : GroupRef) (s : State) : Host.Outcome State Fault Refusal :=
  .next (s.scalarOp g 0x08 fun i => i.sa ^^^ i.sb)

/-- SANDN: SD = SA & ~SB (R392). -/
def execSandn (g : GroupRef) (s : State) : Host.Outcome State Fault Refusal :=
  .next (s.scalarOp g 0x09 fun i => i.sa &&& (2 ^ 64 - 1 - i.sb))

/-- SSHL: shift left by SB & 63 (R392). -/
def execSshl (g : GroupRef) (s : State) : Host.Outcome State Fault Refusal :=
  .next (s.scalarOp g 0x0A fun i => i.sa * 2 ^ (i.sb % 64))

/-- SSHR: logical shift right by SB & 63 (R392). -/
def execSshr (g : GroupRef) (s : State) : Host.Outcome State Fault Refusal :=
  .next (s.scalarOp g 0x0B fun i => i.sa / 2 ^ (i.sb % 64))

/-- SSAR: arithmetic shift right by SB & 63 (R392). -/
def execSsar (g : GroupRef) (s : State) : Host.Outcome State Fault Refusal :=
  .next (s.scalarOp g 0x0C fun i => low64 (toS 64 i.sa / 2 ^ (i.sb % 64)))

/-- SMUL: the low 64 bits of SA × SB (R392). -/
def execSmul (g : GroupRef) (s : State) : Host.Outcome State Fault Refusal :=
  .next (s.scalarOp g 0x0D fun i => i.sa * i.sb)

/-- SPOPC: set bits of SA (R392). -/
def execSpopc (g : GroupRef) (s : State) : Host.Outcome State Fault Refusal :=
  .next (s.scalarOp g 0x0E fun i => popCount 64 i.sa)

/-- SFF1: index of the lowest set bit of SA, or 64 (R392). -/
def execSff1 (g : GroupRef) (s : State) : Host.Outcome State Fault Refusal :=
  .next (s.scalarOp g 0x0F fun i => ff1 i.sa)

/-- SEXEC.GET: SD = EXEC (R392). -/
def execSexecGet (g : GroupRef) (s : State) : Host.Outcome State Fault Refusal :=
  .next (s.scalarOp g 0x10 fun i => i.g.exec.toNat)

/-- SEXEC.SET: EXEC = SA (R392). -/
def execSexecSet (g : GroupRef) (s : State) : Host.Outcome State Fault Refusal :=
  .next (s.isaStep g [(0, 0x11)] fun i => i.ret { i.g with exec := BitVec.ofNat 64 i.sa })

/-- SRD: SD = a special register (R387). -/
def execSrd (g : GroupRef) (s : State) : Host.Outcome State Fault Refusal :=
  .next (s.scalarOp g 0x12 fun i => i.special (bits i.w 39 32))

/-- SFLRD: SD = the group flag register (R392). -/
def execSflrd (g : GroupRef) (s : State) : Host.Outcome State Fault Refusal :=
  .next (s.scalarOp g 0x13 fun i => i.g.flags.toNat)

/-- SCMP: SD = 1 when the condition holds, else 0 (R392, R393). -/
def execScmp (g : GroupRef) (s : State) : Host.Outcome State Fault Refusal :=
  .next (s.scalarOp g 0x14 fun i => b2n (condHolds (bits i.w 35 32) i.g.exec.toNat i.sa i.sb))

/-- BR: a branch when the condition holds (R392, R393). -/
def execBr (g : GroupRef) (s : State) : Host.Outcome State Fault Refusal :=
  .next (s.isaStep g [(1, 0)] fun i =>
    if condHolds (wS2 i.w) i.g.exec.toNat (i.g.sget (wS0 i.w)) (i.g.sget (wS1 i.w)) then i.ret { i.g with pc := i.branch } else i.ret i.g)

/-- JMP: PC = SA (R392). -/
def execJmp (g : GroupRef) (s : State) : Host.Outcome State Fault Refusal :=
  .next (s.isaStep g [(1, 1)] fun i => i.ret { i.g with pc := BitVec.ofNat 64 (i.g.sget (wS0 i.w)) })

/-- CALL: SB = PC + 8, then PC = PC + OFFS × 8 (R392). -/
def execCall (g : GroupRef) (s : State) : Host.Outcome State Fault Refusal :=
  .next (s.isaStep g [(1, 2)] fun i => i.ret { (i.g.sset (wS1 i.w) i.g.pc.toNat) with pc := i.branch })

end Sys2Proof.Machine
end

