-- ==== Sys2Proof/Machine/Resets.lean ====
section
/-!
DEFINITION. Function resets and port resets (R690, R849, R850, R856, R909, R913), and the release of PERST# (R846, R848).
-/
namespace Sys2Proof.Machine

/-- Every selector at its reset value (R909). -/
def State.resetSelectors (s : State) : State :=
  let s := (s.mCvn fun u => { u with resSel := 0 }).mTally fun u => { u with tblSel := 0 }
  let s := (s.mStk fun u => { u with fnSel := 0 }).mSerais fun u => { u with sel := 0, tblSel := 0 }
  let s := (s.mHearths fun u => { u with sel := 0, grtSel := 0, trvSel := 0 }).mSieves fun u => { u with sel := 0 }
  let s := (s.mDepot fun u => { u with sel := 0 }).mDampers fun u => { u with sel := 0, partSel := 0 }
  (s.mRoutes fun u => { u with sel := 0, chanSel := 0 }).mFlt fun u => { u with emberSel := 0 }

/-- The per-function registers that a reset of the function changes (R791, R856, R913). -/
def FnLog.reset (l : FnLog) : FnLog :=
  { l with en := false, hostLost := false, teardowns := 0, sev := [0, 0, 0, 0], badAccess := 0, mbx := {} }

/-- A reset of a host function (R690, R849); in the BX-3 personality that of R902. -/
def State.resetFn (s : State) (f : Nat) : State :=
  if s.img.bx3 then (if f = 0 then s.bxReset.mLog 0 FnLog.reset else s)
  else
    let s := (s.ctxsOf f).foldl State.teardown s
    let s := s.mStk fun k => { k with
      cmds := k.cmds.filter fun p => !(p.2.fn == f && opKind p.2.opcode == some 4) }
    let s := s.mFn f fun x => { x.disable with fnCnt := 0, lastLocal := 0, lastFault := 0, resetDue := true }
    let s := s.mLog f FnLog.reset
    if f = 0 then s.resetSelectors else s

/-- A reset of every host function, or of every virtual function. -/
def State.resetFns (s : State) (vfsOnly : Bool) : State :=
  ((List.range (s.img.totalVfs + 1)).filter fun f => !vfsOnly || f != 0).foldl State.resetFn s

/-- FUNCTION_RESET (R690, R849): a Function Level Reset of a function, or function 0 clearing VF Enable; a reset of function 0 resets
every virtual function too. -/
def execFunctionReset (fn : Nat) (vfEnable : Bool) (s : State) : Host.Outcome State Fault Refusal :=
  if !s.presented || !s.fnExists fn then .next s
  else if vfEnable then (if fn = 0 then .next (s.resetFns true) else .next s)
  else if fn = 0 then .next (s.resetFns false)
  else .next (s.resetFn fn)

/-- A host link port in a conventional reset: it goes down while its PERST# is asserted, and after a Hot Reset has retrained (R849). -/
def LinkPort.reset (l : LinkPort) (hot : Bool) (rate width : Nat) : LinkPort :=
  if hot && l.up then { l with rate := rate, width := width } else if hot then l else { l with up := false, rate := 0, width := 0 }

/-- PORT0_CONVENTIONAL_RESET (R849): a function reset of every host function; port 0 retrains. -/
def execPort0ConventionalReset (hot : Bool) (rate width : Nat) (s : State) : Host.Outcome State Fault Refusal :=
  let s := s.mPins fun p => { p with perst0 := p.perst0 || !hot }
  if s.dev == .off then .next s
  else
    let s := if s.presented then s.resetFns false else s
    .next (s.mXlt fun x => { x with port0 := x.port0.reset hot rate width })

/-- PORT1_CONVENTIONAL_RESET (R849): port 1 retrains; requests in flight are issued again, and no function is reset. -/
def execPort1ConventionalReset (hot : Bool) (rate width : Nat) (s : State) : Host.Outcome State Fault Refusal :=
  let s := s.mPins fun p => { p with perst1 := p.perst1 || !hot }
  if s.dev == .off then .next s
  else .next (s.mXlt fun x => { x with port1 := x.port1.reset hot rate width })

/-- PERST_RELEASE (R846, R850): a port may train; it does when the dies are out of reset and the port is not held in electrical idle
(R845, R871). -/
def execPerstRelease (port rate width : Nat) (s : State) : Host.Outcome State Fault Refusal :=
  let s := s.mPins fun p => { p with perst0 := p.perst0 && port != 0, perst1 := p.perst1 && port != 1 }
  if !(s.presented || s.kindling) then .next s
  else if port = 0 then .next (s.mXlt fun x => { x with port0 := { x.port0 with up := true, rate := rate, width := width } })
  else if port = 1 ∧ !s.img.bx3 then .next (s.mXlt fun x => { x with port1 := { x.port1 with up := true, rate := rate, width := width } })
  else .next s

end Sys2Proof.Machine
end

