-- ==== Sys2Proof/Machine/Dispatch.lean ====
section
/-!
DEFINITION. The dispatch: one arm per command, each a direct call of its meaning.
-/
namespace Sys2Proof.Machine

/-- The effect of a command on everything but the queue. -/
def exec (i : Instr) (s : State) : Host.Outcome State Fault Refusal :=
  match i with
  | .islandPowerUp sigA sigB => Sys2Proof.Machine.execIslandPowerUp sigA sigB s
  | .wardenReset sigA sigB => Sys2Proof.Machine.execWardenReset sigA sigB s
  | .wardenWatchdogExpiry sigA sigB => Sys2Proof.Machine.execWardenWatchdogExpiry sigA sigB s
  | .firmwareSecurityFuse => Sys2Proof.Machine.execFirmwareSecurityFuse s
  | .rtcTick => Sys2Proof.Machine.execRtcTick s
  | .czResetAssert => Sys2Proof.Machine.execCzResetAssert s
  | .czResetRelease sigA sigB => Sys2Proof.Machine.execCzResetRelease sigA sigB s
  | .stackDramTrained stack ok => Sys2Proof.Machine.execStackDramTrained stack ok s
  | .kindlingEmberTest failed => Sys2Proof.Machine.execKindlingEmberTest failed s
  | .kindlingKnownAnswerTests failed seed => Sys2Proof.Machine.execKindlingKnownAnswerTests failed seed s
  | .cellarEnumeration ctrls => Sys2Proof.Machine.execCellarEnumeration ctrls s
  | .kindlingEnd rate0 width0 rate1 width1 => Sys2Proof.Machine.execKindlingEnd rate0 width0 rate1 width1 s
  | .railTrip => Sys2Proof.Machine.execRailTrip s
  | .computeRailsPowerDown => Sys2Proof.Machine.execComputeRailsPowerDown s
  | .port0ConventionalReset hot rate width => Sys2Proof.Machine.execPort0ConventionalReset hot rate width s
  | .port1ConventionalReset hot rate width => Sys2Proof.Machine.execPort1ConventionalReset hot rate width s
  | .functionReset fn vfEnable => Sys2Proof.Machine.execFunctionReset fn vfEnable s
  | .throtInAssert => Sys2Proof.Machine.execThrotInAssert s
  | .dieTempSample die temp => Sys2Proof.Machine.execDieTempSample die temp s
  | .powerSample power throtHigh => Sys2Proof.Machine.execPowerSample power throtHigh s
  | .tickBoundary => Sys2Proof.Machine.execTickBoundary s
  | .spanExpiry => Sys2Proof.Machine.execSpanExpiry s
  | .guardBandStart => Sys2Proof.Machine.execGuardBandStart s
  | .caravanClose => Sys2Proof.Machine.execCaravanClose s
  | .tickFrameReceive frame edge => Sys2Proof.Machine.execTickFrameReceive frame edge s
  | .holdoverEntry => Sys2Proof.Machine.execHoldoverEntry s
  | .holdoverExpired => Sys2Proof.Machine.execHoldoverExpired s
  | .doorbell fn v => Sys2Proof.Machine.execDoorbell fn v s
  | .ringEnable fn v => Sys2Proof.Machine.execRingEnable fn v s
  | .ringIdleRecheck fn => Sys2Proof.Machine.execRingIdleRecheck fn s
  | .manifestFetch fn => Sys2Proof.Machine.execManifestFetch fn s
  | .tagWaitReread fn => Sys2Proof.Machine.execTagWaitReread fn s
  | .tagStop fn => Sys2Proof.Machine.execTagStop fn s
  | .admissionResume fn => Sys2Proof.Machine.execAdmissionResume fn s
  | .delegate fn => Sys2Proof.Machine.execDelegate fn s
  | .admitCmd cid idx => Sys2Proof.Machine.execAdmitCmd cid idx s
  | .answer cid => Sys2Proof.Machine.execAnswer cid s
  | .abandon cid => Sys2Proof.Machine.execAbandon cid s
  | .fenceCommand cid => Sys2Proof.Machine.execFenceCommand cid s
  | .clearNumericStatus cid => Sys2Proof.Machine.execClearNumericStatus cid s
  | .lookup cid => Sys2Proof.Machine.execLookup cid s
  | .update cid => Sys2Proof.Machine.execUpdate cid s
  | .replaceRows cid => Sys2Proof.Machine.execReplaceRows cid s
  | .readRows cid => Sys2Proof.Machine.execReadRows cid s
  | .launch cid => Sys2Proof.Machine.execLaunch cid s
  | .select cid => Sys2Proof.Machine.execSelect cid s
  | .sample cid => Sys2Proof.Machine.execSample cid s
  | .copy cid errs => Sys2Proof.Machine.execCopy cid errs s
  | .readLoadCounts cid => Sys2Proof.Machine.execReadLoadCounts cid s
  | .larderRefresh cid => Sys2Proof.Machine.execLarderRefresh cid s
  | .larderFillResume table => Sys2Proof.Machine.execLarderFillResume table s
  | .larderWritebackComplete table key => Sys2Proof.Machine.execLarderWritebackComplete table key s
  | .recalibrateRows cid => Sys2Proof.Machine.execRecalibrateRows cid s
  | .migrateShard cid => Sys2Proof.Machine.execMigrateShard cid s
  | .migrationHandoverComplete table => Sys2Proof.Machine.execMigrationHandoverComplete table s
  | .rehomeSpan cid => Sys2Proof.Machine.execRehomeSpan cid s
  | .routeExchange cid => Sys2Proof.Machine.execRouteExchange cid s
  | .routeReduce cid => Sys2Proof.Machine.execRouteReduce cid s
  | .routeOperationStart cid => Sys2Proof.Machine.execRouteOperationStart cid s
  | .loadRouteKeyPin cid => Sys2Proof.Machine.execLoadRouteKeyPin cid s
  | .loadRouteKeyUnpin cid => Sys2Proof.Machine.execLoadRouteKeyUnpin cid s
  | .loadRouteKeyRekey cid => Sys2Proof.Machine.execLoadRouteKeyRekey cid s
  | .registerTable cid => Sys2Proof.Machine.execRegisterTable cid s
  | .deregisterTable cid => Sys2Proof.Machine.execDeregisterTable cid s
  | .registerOptimiser cid => Sys2Proof.Machine.execRegisterOptimiser cid s
  | .registerRecipe cid => Sys2Proof.Machine.execRegisterRecipe cid s
  | .deregisterRecipe cid => Sys2Proof.Machine.execDeregisterRecipe cid s
  | .invalidateTranslations cid => Sys2Proof.Machine.execInvalidateTranslations cid s
  | .createContext cid => Sys2Proof.Machine.execCreateContext cid s
  | .destroyContext cid => Sys2Proof.Machine.execDestroyContext cid s
  | .debugHalt cid => Sys2Proof.Machine.execDebugHalt cid s
  | .debugStep cid => Sys2Proof.Machine.execDebugStep cid s
  | .debugResume cid => Sys2Proof.Machine.execDebugResume cid s
  | .debugReadGroup cid => Sys2Proof.Machine.execDebugReadGroup cid s
  | .replayInject cid idx => Sys2Proof.Machine.execReplayInject cid idx s
  | .waybillCommit wb => Sys2Proof.Machine.execWaybillCommit wb s
  | .commandCommit cid => Sys2Proof.Machine.execCommandCommit cid s
  | .streamSuccessorFile wb idx => Sys2Proof.Machine.execStreamSuccessorFile wb idx s
  | .completionCounterAdvance ctx => Sys2Proof.Machine.execCompletionCounterAdvance ctx s
  | .waybillDrainComplete wb => Sys2Proof.Machine.execWaybillDrainComplete wb s
  | .extensionReadPoison wb => Sys2Proof.Machine.execExtensionReadPoison wb s
  | .ledgerEntryEccError idx copyA copyB => Sys2Proof.Machine.execLedgerEntryEccError idx copyA copyB s
  | .ledgerLockstepMismatch => Sys2Proof.Machine.execLedgerLockstepMismatch s
  | .captureConfig fn v => Sys2Proof.Machine.execCaptureConfig fn v s
  | .preemption cid => Sys2Proof.Machine.execPreemption cid s
  | .blockPlace cid => Sys2Proof.Machine.execBlockPlace cid s
  | .splitDrainMark cid => Sys2Proof.Machine.execSplitDrainMark cid s
  | .hearthMove hearth => Sys2Proof.Machine.execHearthMove hearth s
  | .emberTestComplete quarter fail => Sys2Proof.Machine.execEmberTestComplete quarter fail s
  | .emberOverdue phys => Sys2Proof.Machine.execEmberOverdue phys s
  | .knownAnswerTest unit inst pass => Sys2Proof.Machine.execKnownAnswerTest unit inst pass s
  | .groupSelfWait g => Sys2Proof.Machine.execGroupSelfWait g s
  | .smov g => Sys2Proof.Machine.execSmov g s
  | .smovi g => Sys2Proof.Machine.execSmovi g s
  | .smovhi g => Sys2Proof.Machine.execSmovhi g s
  | .sadd g => Sys2Proof.Machine.execSadd g s
  | .saddi g => Sys2Proof.Machine.execSaddi g s
  | .ssub g => Sys2Proof.Machine.execSsub g s
  | .sand g => Sys2Proof.Machine.execSand g s
  | .sor g => Sys2Proof.Machine.execSor g s
  | .sxor g => Sys2Proof.Machine.execSxor g s
  | .sandn g => Sys2Proof.Machine.execSandn g s
  | .sshl g => Sys2Proof.Machine.execSshl g s
  | .sshr g => Sys2Proof.Machine.execSshr g s
  | .ssar g => Sys2Proof.Machine.execSsar g s
  | .smul g => Sys2Proof.Machine.execSmul g s
  | .spopc g => Sys2Proof.Machine.execSpopc g s
  | .sff1 g => Sys2Proof.Machine.execSff1 g s
  | .sexecGet g => Sys2Proof.Machine.execSexecGet g s
  | .sexecSet g => Sys2Proof.Machine.execSexecSet g s
  | .srd g => Sys2Proof.Machine.execSrd g s
  | .sflrd g => Sys2Proof.Machine.execSflrd g s
  | .scmp g => Sys2Proof.Machine.execScmp g s
  | .br g => Sys2Proof.Machine.execBr g s
  | .jmp g => Sys2Proof.Machine.execJmp g s
  | .call g => Sys2Proof.Machine.execCall g s
  | .vadd g => Sys2Proof.Machine.execVadd g s
  | .vsub g => Sys2Proof.Machine.execVsub g s
  | .vmul g => Sys2Proof.Machine.execVmul g s
  | .vmulhiS g => Sys2Proof.Machine.execVmulhiS g s
  | .vmulhiU g => Sys2Proof.Machine.execVmulhiU g s
  | .vmad g => Sys2Proof.Machine.execVmad g s
  | .vand g => Sys2Proof.Machine.execVand g s
  | .vor g => Sys2Proof.Machine.execVor g s
  | .vxor g => Sys2Proof.Machine.execVxor g s
  | .vshl g => Sys2Proof.Machine.execVshl g s
  | .vshr g => Sys2Proof.Machine.execVshr g s
  | .vsar g => Sys2Proof.Machine.execVsar g s
  | .vminS g => Sys2Proof.Machine.execVminS g s
  | .vmaxS g => Sys2Proof.Machine.execVmaxS g s
  | .vminU g => Sys2Proof.Machine.execVminU g s
  | .vmaxU g => Sys2Proof.Machine.execVmaxU g s
  | .vabs g => Sys2Proof.Machine.execVabs g s
  | .vclz g => Sys2Proof.Machine.execVclz g s
  | .vpopc g => Sys2Proof.Machine.execVpopc g s
  | .vcmpS g => Sys2Proof.Machine.execVcmpS g s
  | .vcmpU g => Sys2Proof.Machine.execVcmpU g s
  | .vsel g => Sys2Proof.Machine.execVsel g s
  | .vmov g => Sys2Proof.Machine.execVmov g s
  | .vlane g => Sys2Proof.Machine.execVlane g s
  | .fadd g => Sys2Proof.Machine.execFadd g s
  | .fsub g => Sys2Proof.Machine.execFsub g s
  | .fmul g => Sys2Proof.Machine.execFmul g s
  | .ffma g => Sys2Proof.Machine.execFfma g s
  | .fdiv g => Sys2Proof.Machine.execFdiv g s
  | .fsqrt g => Sys2Proof.Machine.execFsqrt g s
  | .fmin g => Sys2Proof.Machine.execFmin g s
  | .fmax g => Sys2Proof.Machine.execFmax g s
  | .fabs g => Sys2Proof.Machine.execFabs g s
  | .fneg g => Sys2Proof.Machine.execFneg g s
  | .frcp g => Sys2Proof.Machine.execFrcp g s
  | .frsq g => Sys2Proof.Machine.execFrsq g s
  | .fexp2 g => Sys2Proof.Machine.execFexp2 g s
  | .flog2 g => Sys2Proof.Machine.execFlog2 g s
  | .fcmp g => Sys2Proof.Machine.execFcmp g s
  | .cvt g => Sys2Proof.Machine.execCvt g s
  | .cvtI2f g => Sys2Proof.Machine.execCvtI2f g s
  | .cvtF2i g => Sys2Proof.Machine.execCvtF2i g s
  | .vrand g => Sys2Proof.Machine.execVrand g s
  | .vshfl g => Sys2Proof.Machine.execVshfl g s
  | .vrdlane g => Sys2Proof.Machine.execVrdlane g s
  | .ld g => Sys2Proof.Machine.execLd g s
  | .st g => Sys2Proof.Machine.execSt g s
  | .pref g => Sys2Proof.Machine.execPref g s
  | .lds g => Sys2Proof.Machine.execLds g s
  | .sts g => Sys2Proof.Machine.execSts g s
  | .atomAdd g => Sys2Proof.Machine.execAtomAdd g s
  | .atomAnd g => Sys2Proof.Machine.execAtomAnd g s
  | .atomOr g => Sys2Proof.Machine.execAtomOr g s
  | .atomXor g => Sys2Proof.Machine.execAtomXor g s
  | .atomMinS g => Sys2Proof.Machine.execAtomMinS g s
  | .atomMaxS g => Sys2Proof.Machine.execAtomMaxS g s
  | .atomMinU g => Sys2Proof.Machine.execAtomMinU g s
  | .atomMaxU g => Sys2Proof.Machine.execAtomMaxU g s
  | .atomExch g => Sys2Proof.Machine.execAtomExch g s
  | .atomCas g => Sys2Proof.Machine.execAtomCas g s
  | .atomFadd g => Sys2Proof.Machine.execAtomFadd g s
  | .fence g => Sys2Proof.Machine.execFence g s
  | .bar g => Sys2Proof.Machine.execBar g s
  | .barRelease g => Sys2Proof.Machine.execBarRelease g s
  | .gbind g => Sys2Proof.Machine.execGbind g s
  | .gbindGrant hearth => Sys2Proof.Machine.execGbindGrant hearth s
  | .gfree g => Sys2Proof.Machine.execGfree g s
  | .gwld g => Sys2Proof.Machine.execGwld g s
  | .flue g => Sys2Proof.Machine.execFlue g s
  | .flueStreamStart hearth => Sys2Proof.Machine.execFlueStreamStart hearth s
  | .tileCheck hearth idx grate fail => Sys2Proof.Machine.execTileCheck hearth idx grate fail s
  | .grateRerun hearth idx grate => Sys2Proof.Machine.execGrateRerun hearth idx grate s
  | .grateStateEccError hearth grate correctable => Sys2Proof.Machine.execGrateStateEccError hearth grate correctable s
  | .grd g => Sys2Proof.Machine.execGrd g s
  | .tadd g => Sys2Proof.Machine.execTadd g s
  | .tsub g => Sys2Proof.Machine.execTsub g s
  | .tmul g => Sys2Proof.Machine.execTmul g s
  | .tmax g => Sys2Proof.Machine.execTmax g s
  | .tmin g => Sys2Proof.Machine.execTmin g s
  | .trelu g => Sys2Proof.Machine.execTrelu g s
  | .texp2 g => Sys2Proof.Machine.execTexp2 g s
  | .trivetTileStart hearth burner => Sys2Proof.Machine.execTrivetTileStart hearth burner s
  | .trivetParityError hearth burner => Sys2Proof.Machine.execTrivetParityError hearth burner s
  | .nop g => Sys2Proof.Machine.execNop g s
  | .exit g => Sys2Proof.Machine.execExit g s
  | .brk g => Sys2Proof.Machine.execBrk g s
  | .flclr g => Sys2Proof.Machine.execFlclr g s
  | .referenceIntake serai input n => Sys2Proof.Machine.execReferenceIntake serai input n s
  | .intakeStallRelease serai input => Sys2Proof.Machine.execIntakeStallRelease serai input s
  | .windowClose serai => Sys2Proof.Machine.execWindowClose serai s
  | .rowFetchComplete serai table row bad replace residueOk => Sys2Proof.Machine.execRowFetchComplete serai table row bad replace residueOk s
  | .partialSumReceive idx bad residueOk => Sys2Proof.Machine.execPartialSumReceive idx bad residueOk s
  | .lateRowTimeout serai table row => Sys2Proof.Machine.execLateRowTimeout serai table row s
  | .flashReadComplete ctrl nsid lba error => Sys2Proof.Machine.execFlashReadComplete ctrl nsid lba error s
  | .flashControllerLost ctrl => Sys2Proof.Machine.execFlashControllerLost ctrl s
  | .overlayWriteback serai table row => Sys2Proof.Machine.execOverlayWriteback serai table row s
  | .overlayStageResume serai => Sys2Proof.Machine.execOverlayStageResume serai s
  | .mergeIntakeResume serai => Sys2Proof.Machine.execMergeIntakeResume serai s
  | .seraiApply serai table row => Sys2Proof.Machine.execSeraiApply serai table row s
  | .aclConfig fn v => Sys2Proof.Machine.execAclConfig fn v s
  | .pageWalkComplete hearth ctx da parity => Sys2Proof.Machine.execPageWalkComplete hearth ctx da parity s
  | .atsTranslationCompletion fn addr target read write => Sys2Proof.Machine.execAtsTranslationCompletion fn addr target read write s
  | .atsInvalidateRequest fn addr len same => Sys2Proof.Machine.execAtsInvalidateRequest fn addr len same s
  | .invalidationComplete idx => Sys2Proof.Machine.execInvalidationComplete idx s
  | .hostStackRead port off len => Sys2Proof.Machine.execHostStackRead port off len s
  | .hostStackWrite port fn off data poisoned => Sys2Proof.Machine.execHostStackWrite port fn off data poisoned s
  | .hostSnoop addr own => Sys2Proof.Machine.execHostSnoop addr own s
  | .port1LinkLost => Sys2Proof.Machine.execPort1LinkLost s
  | .port0LinkLost => Sys2Proof.Machine.execPort0LinkLost s
  | .causewayFlitFail replays => Sys2Proof.Machine.execCausewayFlitFail replays s
  | .depotEviction space addr prov => Sys2Proof.Machine.execDepotEviction space addr prov s
  | .conflictWaitRelease => Sys2Proof.Machine.execConflictWaitRelease s
  | .wcBufferDrain hearth idx => Sys2Proof.Machine.execWcBufferDrain hearth idx s
  | .mergingBufferDrain die => Sys2Proof.Machine.execMergingBufferDrain die s
  | .cacheParityError kind h idx loc prov => Sys2Proof.Machine.execCacheParityError kind h idx loc prov s
  | .stackEccError addr chan bank row correctable lane => Sys2Proof.Machine.execStackEccError addr chan bank row correctable lane s
  | .poisonConsumed cid addr => Sys2Proof.Machine.execPoisonConsumed cid addr s
  | .sieveEccError die cid correctable => Sys2Proof.Machine.execSieveEccError die cid correctable s
  | .stackTempSample stack temp => Sys2Proof.Machine.execStackTempSample stack temp s
  | .faultReport r => Sys2Proof.Machine.execFaultReport r s
  | .quenchEntry => Sys2Proof.Machine.execQuenchEntry s
  | .hostSinkWrite => Sys2Proof.Machine.execHostSinkWrite s
  | .msixHoldoffExpiry fn vec => Sys2Proof.Machine.execMsixHoldoffExpiry fn vec s
  | .coalesceFlush => Sys2Proof.Machine.execCoalesceFlush s
  | .cperForward => Sys2Proof.Machine.execCperForward s
  | .pldmEventResend acked => Sys2Proof.Machine.execPldmEventResend acked s
  | .mailboxOverrun fn => Sys2Proof.Machine.execMailboxOverrun fn s
  | .getInfo src req => Sys2Proof.Machine.execGetInfo src req s
  | .enterBanked src req => Sys2Proof.Machine.execEnterBanked src req s
  | .leaveBanked src req => Sys2Proof.Machine.execLeaveBanked src req s
  | .readErrorLog src req => Sys2Proof.Machine.execReadErrorLog src req s
  | .readSparingLog src req => Sys2Proof.Machine.execReadSparingLog src req s
  | .chimneyConfig src req => Sys2Proof.Machine.execChimneyConfig src req s
  | .stageBegin src req => Sys2Proof.Machine.execStageBegin src req s
  | .stageData src req => Sys2Proof.Machine.execStageData src req s
  | .stageCommit src req sig => Sys2Proof.Machine.execStageCommit src req sig s
  | .coldReset src req sigA sigB => Sys2Proof.Machine.execColdReset src req sigA sigB s
  | .setRtc src req => Sys2Proof.Machine.execSetRtc src req s
  | .mctpControl assign => Sys2Proof.Machine.execMctpControl assign s
  | .pldmSetEventReceiver receiver => Sys2Proof.Machine.execPldmSetEventReceiver receiver s
  | .pldmSensorRead sensor railCurrent => Sys2Proof.Machine.execPldmSensorRead sensor railCurrent s
  | .pldmFirmwareUpdate image data sig activate => Sys2Proof.Machine.execPldmFirmwareUpdate image data sig activate s
  | .spdmGetMeasurements idx => Sys2Proof.Machine.execSpdmGetMeasurements idx s
  | .barAccessDropped fn isRead => Sys2Proof.Machine.execBarAccessDropped fn isRead s
  | .latchingLoRead fn bar off wide => Sys2Proof.Machine.execLatchingLoRead fn bar off wide s
  | .registerWrite fn bar off v wide => Sys2Proof.Machine.execRegisterWrite fn bar off v wide s
  | .functionLogConfig fn v => Sys2Proof.Machine.execFunctionLogConfig fn v s
  | .routeTrainingStart port => Sys2Proof.Machine.execRouteTrainingStart port s
  | .routeTrainingComplete port rxBad txBad => Sys2Proof.Machine.execRouteTrainingComplete port rxBad txBad s
  | .routeBringupTimeout port => Sys2Proof.Machine.execRouteBringupTimeout port s
  | .fecLock port nonce => Sys2Proof.Machine.execFecLock port nonce s
  | .helloFrame port f trailer serial nonce enc rtt again => Sys2Proof.Machine.execHelloFrame port f trailer serial nonce enc rtt again s
  | .spdmFrame port f trailer update final ok digest => Sys2Proof.Machine.execSpdmFrame port f trailer update final ok digest s
  | .quarantineHoldEnd port => Sys2Proof.Machine.execQuarantineHoldEnd port s
  | .dataFrame port f trailer => Sys2Proof.Machine.execDataFrame port f trailer s
  | .startFrame port f trailer => Sys2Proof.Machine.execStartFrame port f trailer s
  | .doneFrame port f trailer => Sys2Proof.Machine.execDoneFrame port f trailer s
  | .abortFrame port f trailer => Sys2Proof.Machine.execAbortFrame port f trailer s
  | .creditFrame port f trailer => Sys2Proof.Machine.execCreditFrame port f trailer s
  | .nakFrame port f trailer => Sys2Proof.Machine.execNakFrame port f trailer s
  | .controlTick port f trailer edge => Sys2Proof.Machine.execControlTick port f trailer edge s
  | .controlKeepalive port f trailer => Sys2Proof.Machine.execControlKeepalive port f trailer s
  | .controlLane port f trailer lane => Sys2Proof.Machine.execControlLane port f trailer lane s
  | .keepaliveSend port => Sys2Proof.Machine.execKeepaliveSend port s
  | .routeLaneFail port lane => Sys2Proof.Machine.execRouteLaneFail port lane s
  | .autoKeyUpdate port => Sys2Proof.Machine.execAutoKeyUpdate port s
  | .lostRecordEmit die => Sys2Proof.Machine.execLostRecordEmit die s
  | .traceFrameSend => Sys2Proof.Machine.execTraceFrameSend s
  | .traceHostExport => Sys2Proof.Machine.execTraceHostExport s
  | .bxQTailWrite v => Sys2Proof.Machine.execBxQTailWrite v s
  | .bxQueueIdleRecheck => Sys2Proof.Machine.execBxQueueIdleRecheck s
  | .bxQueueEnable v => Sys2Proof.Machine.execBxQueueEnable v s
  | .bxSoftReset v flr => Sys2Proof.Machine.execBxSoftReset v flr s
  | .bxResume v => Sys2Proof.Machine.execBxResume v s
  | .bxStatusRead => Sys2Proof.Machine.execBxStatusRead s
  | .bxNop failed => Sys2Proof.Machine.execBxNop failed s
  | .defineTable failed => Sys2Proof.Machine.execDefineTable failed s
  | .undefineTable failed => Sys2Proof.Machine.execUndefineTable failed s
  | .rowWrite failed => Sys2Proof.Machine.execRowWrite failed s
  | .lookupPool failed => Sys2Proof.Machine.execLookupPool failed s
  | .dense failed => Sys2Proof.Machine.execDense failed s
  | .bxCopy failed => Sys2Proof.Machine.execBxCopy failed s
  | .bxCommandComplete => Sys2Proof.Machine.execBxCommandComplete s
  | .perstRelease port rate width => Sys2Proof.Machine.execPerstRelease port rate width s

end Sys2Proof.Machine
end

