-- ==== Sys2Proof/Safety.lean ====
section
/-!
DEFINITION. What a safe run is, and the words that statements use: a step answers a next state, the instruction that a group issues next,
and what its retirement leaves.
-/
namespace Sys2Proof.Machine

/-- A step answers a next state: it neither stops with a fault nor refuses. -/
def Steps (s t : State) : Prop := step s = .next t

/-- No step of a run of this length stops. -/
def SafeFor : Nat → State → Prop
  | 0, _ => True
  | k + 1, s => ∃ t, step s = .next t ∧ SafeFor k t

/-! ### The registers of a group, as bit vectors (R384, R385, R388) -/

/-- A scalar register; S0 reads 0. -/
def Group.sreg (g : Group) (n : Nat) : BitVec 64 := if n = 0 then 0 else mapGetD g.sregs n 0

/-- A group whose scalar register n holds a value; a write of S0 is discarded. -/
def Group.sput (g : Group) (n : Nat) (v : BitVec 64) : Group := if n = 0 then g else { g with sregs := mapSet g.sregs n v }

/-- A vector register in one thread. -/
def Group.vreg (g : Group) (n t : Nat) : BitVec 32 := (mapGetD g.vregs n []).getD t 0

/-- A group whose vector register n holds new values in the active threads; the others hold 0 under Z, and else what they held. -/
def Group.vput (g : Group) (z : Bool) (n : Nat) (f : Nat → BitVec 32) : Group :=
  { g with vregs := mapSet g.vregs n ((List.range 64).map fun t => if g.exec.getLsbD t then f t else if z then 0 else g.vreg n t) }

/-! ### The next instruction of a group -/

/-- The instruction that a group issues next, when it can issue: its group is READY, STALLED or stepped, its command runs, the word at its program
counter is fetched, clean and defined, every register it names lies in the allocation and is not awaited from the Trivet, and a
group-wide one finds every thread active (R351, R358, R359, R380 to R384, R390). -/
def State.issue? (s : State) (r : GroupRef) : Option Issue :=
  match s.canIssue r with
  | none => none
  | some (g, c, x) =>
    match s.fetchWord r g c with
    | none => none
    | some (w, bad, s1) =>
      if bad = false ∧ legal w = true ∧ (∀ n ∈ regsOf w, n < g.regs * 8) ∧ ((wCls w = 10 ∨ wCls w = 11) → g.exec = BitVec.allOnes 64) ∧
          (∀ n ∈ regsOf w, n ∉ s.trvRegs r) then
        some { r := r, g := { g with pc := g.pc + 8 }, c := c, x := x, w := w, s := s1 }
      else none

/-- The instruction's class and function code are these. -/
def Issue.is (i : Issue) (cls func : Nat) : Prop := wCls i.w = cls ∧ wFunc i.w = func

/-- Operand SA of a scalar instruction. -/
def Issue.opSA (i : Issue) : BitVec 64 := i.g.sreg (wS1 i.w)

/-- Operand SB of a scalar instruction. -/
def Issue.opSB (i : Issue) : BitVec 64 := i.g.sreg (wS2 i.w)

/-- IMM32, sign-extended to 64 bits. -/
def Issue.imm64 (i : Issue) : BitVec 64 := (BitVec.ofNat 32 (wImm i.w)).signExtend 64

/-- Operand A of a vector instruction in a thread. -/
def Issue.laneA (i : Issue) (t : Nat) : BitVec 32 := i.g.vreg (wVa i.w) t

/-- Operand B of a vector instruction in a thread: IMM32 in class 0x4, a scalar register's low half, or VB (R381, R394). -/
def Issue.laneB (i : Issue) (t : Nat) : BitVec 32 :=
  if wCls i.w = 4 then BitVec.ofNat 32 (wImm i.w)
  else if wSb i.w then (i.g.sreg (bits i.w 35 32)).setWidth 32 else i.g.vreg (wVb i.w) t

/-- The condition of a branch or SCMP on EXEC and two scalars (R393). -/
def Issue.cond (i : Issue) (code : Nat) (a b : BitVec 64) : Bool :=
  match code with
  | 0 => true
  | 1 => a == 0
  | 2 => a != 0
  | 3 => i.g.exec == 0
  | 4 => i.g.exec != 0
  | 5 => a.slt b
  | 6 => a.ult b
  | _ => a == b

/-- What issuing and retiring leaves of a state u, the group holding g: the group stands READY, or HALTED again when it was stepped or has halted;
its Hearth has counted one instruction, perhaps a promoted one; the Chimney may have counted, and a Debug Step is finished; every other
group, Hearth and unit, and every memory byte, is as in u (R351, R374, R379, R797). -/
structure Issue.Retired (i : Issue) (u : State) (g : Group) (t : State) : Prop where
  group : t.group? i.r = some { g with
    st := if g.stepping || g.st == .halted then .halted else .ready, stepping := false, readyAt := u.time
    haltedAt := if g.stepping then u.time else g.haltedAt }
  others : ∀ k, k ≠ gkey i.r → mapGet t.hearths.groups k = mapGet u.hearths.groups k
  own : ∃ p, (p = (u.hearth i.r.hearth).promoted ∨ p = (u.hearth i.r.hearth).promoted + 1) ∧
    t.hearth i.r.hearth = { u.hearth i.r.hearth with issued := (u.hearth i.r.hearth).issued + 1, promoted := p }
  hearths : ∀ h, h ≠ i.r.hearth → t.hearth h = u.hearth h
  debug : g.stepping = false → t.stk = u.stk
  rest : t = { u with
    hearths := { u.hearths with logical := t.hearths.logical, groups := t.hearths.groups }
    chm := { u.chm with val := t.chm.val }, stk := { u.stk with cmds := t.stk.cmds } }

/-- What an instruction's memory accesses may change: the L1, combining buffer and TLB of Hearths, the translation caches and their counts, the
Depot, memory, and the Chimney's counters. -/
structure State.MemFrame (s t : State) : Prop where
  hearth : ∀ h, t.hearth h = { s.hearth h with l1 := (t.hearth h).l1, wc := (t.hearth h).wc, tlb := (t.hearth h).tlb }
  rest : t = { s with
    hearths := { s.hearths with logical := t.hearths.logical }
    xlt := { s.xlt with
      walks := t.xlt.walks, atsReqs := t.xlt.atsReqs, stc0 := t.xlt.stc0, stc1 := t.xlt.stc1, wc0 := t.xlt.wc0, wc1 := t.xlt.wc1 }
    depot := t.depot, mem := t.mem, chm := { s.chm with val := t.chm.val } }

/-- What issuing without retiring leaves of a state u, the group holding g: the group stands STALLED (HALTED when it had halted), its Hearth has
counted one instruction, perhaps a promoted one; every other group, Hearth and unit, and every memory byte, is as in u (R351, R379). -/
structure Issue.Held (i : Issue) (u : State) (g : Group) (t : State) : Prop where
  group : t.group? i.r = some { g with st := if g.st == .halted then .halted else .stalled }
  others : ∀ k, k ≠ gkey i.r → mapGet t.hearths.groups k = mapGet u.hearths.groups k
  own : ∃ p, (p = (u.hearth i.r.hearth).promoted ∨ p = (u.hearth i.r.hearth).promoted + 1) ∧
    t.hearth i.r.hearth = { u.hearth i.r.hearth with issued := (u.hearth i.r.hearth).issued + 1, promoted := p }
  hearths : ∀ h, h ≠ i.r.hearth → t.hearth h = u.hearth h
  rest : t = { u with
    hearths := { u.hearths with logical := t.hearths.logical, groups := t.hearths.groups }, chm := { u.chm with val := t.chm.val } }

/-- A Depot atomic with its new value from the width in bytes, the word, VB and VC completes (R412 to R416). -/
def Issue.AtomicDone (i : Issue) (s : State) (r : GroupRef) (c : Instr) (f : Nat → Nat → Nat → Nat → Nat) : Prop :=
  ∀ (n : Nat) (a : Accs), n = (if wWide i.w then 8 else 4) → a = i.accs true true n 0 → a.bad = [] →
    (∀ x ∈ a.ok, a.st.guardedBy x.pa n = none ∧ (s.dev = .service → a.st.conflicts (unitOf i.g.cid i.c) x.pa n = false)) →
    ((a.st.noWait r).atomicAll i (f n) n a.ok).2.1 = [] →
    ∃ u t old changed, exec c s = .next t ∧ i.s.MemFrame u ∧ (old, [], changed, u) = (a.st.noWait r).atomicAll i (f n) n a.ok ∧
      i.Retired u
        { (if wRet i.w then i.putRegs (wVd i.w) (n / 4) (old.map fun v => (v.1, [v.2 % 2 ^ 32, v.2 / 2 ^ 32])) else i.g) with
          progressAt := if changed then s.time else i.g.progressAt } t

/-! ### The rows of the instruction set (R382 to R431): the instructions of a class in the order of their function codes -/

/-- The scalar instructions. -/
def isaClass0 : List (GroupRef → Instr) :=
  [.smov, .smovi, .smovhi, .sadd, .saddi, .ssub, .sand, .sor, .sxor, .sandn, .sshl, .sshr, .ssar, .smul, .spopc, .sff1, .sexecGet,
   .sexecSet, .srd, .sflrd, .scmp]

/-- The control instructions. -/
def isaClass1 : List (GroupRef → Instr) :=
  [.br, .jmp, .call]

/-- The integer instructions. -/
def isaClass2 : List (GroupRef → Instr) :=
  [.vadd, .vsub, .vmul, .vmulhiS, .vmulhiU, .vmad, .vand, .vor, .vxor, .vshl, .vshr, .vsar, .vminS, .vmaxS, .vminU, .vmaxU, .vabs,
   .vclz, .vpopc, .vcmpS, .vcmpU, .vsel, .vmov, .vlane]

/-- The float instructions. -/
def isaClass3 : List (GroupRef → Instr) :=
  [.fadd, .fsub, .fmul, .ffma, .fdiv, .fsqrt, .fmin, .fmax, .fabs, .fneg, .frcp, .frsq, .fexp2, .flog2, .fcmp]

/-- The conversion instructions. -/
def isaClass5 : List (GroupRef → Instr) :=
  [.cvt, .cvtI2f, .cvtF2i, .vrand]

/-- The cross-lane instructions. -/
def isaClass6 : List (GroupRef → Instr) :=
  [.vshfl, .vrdlane]

/-- The memory instructions. -/
def isaClass7 : List (GroupRef → Instr) :=
  [.ld, .st, .pref]

/-- The local store instructions. -/
def isaClass8 : List (GroupRef → Instr) :=
  [.lds, .sts]

/-- The atomic instructions. -/
def isaClass9 : List (GroupRef → Instr) :=
  [.atomAdd, .atomAnd, .atomOr, .atomXor, .atomMinS, .atomMaxS, .atomMinU, .atomMaxU, .atomExch, .atomCas, .atomFadd]

/-- The Grate instructions. -/
def isaClass10 : List (GroupRef → Instr) :=
  [.gbind, .gfree, .gwld, .flue, .grd]

/-- The Trivet instructions. -/
def isaClass11 : List (GroupRef → Instr) :=
  [.tadd, .tsub, .tmul, .tmax, .tmin, .trelu, .texp2]

/-- The synchronization instructions. -/
def isaClass12 : List (GroupRef → Instr) :=
  [.fence, .bar]

/-- The system instructions. -/
def isaClass13 : List (GroupRef → Instr) :=
  [.nop, .exit, .brk, .flclr]

/-- Every instruction's class, function code and row; class 0x4 holds the integer instructions with a function code up to 0x14. -/
def isaTable : List (Nat × Nat × (GroupRef → Instr)) :=
  ([(0, isaClass0), (1, isaClass1), (2, isaClass2), (3, isaClass3), (4, isaClass2.take 21), (5, isaClass5), (6, isaClass6), (7, isaClass7),
    (8, isaClass8), (9, isaClass9), (10, isaClass10), (11, isaClass11), (12, isaClass12), (13, isaClass13)]
      : List (Nat × List (GroupRef → Instr))).flatMap fun c => c.2.mapIdx fun n i => (c.1, n, i)

/-! ### Route frames (R719, R721) -/

/-- The arrivals of frames that are not DATA within 1 µs, with one that arrives now (R721). -/
def State.burstNow (s : State) (p : Nat) : List Nat := (s.time :: ((s.port p).burst.filter fun t => decide (s.time < t + 1200))).take 65

/-- The state in which a frame that the link has accepted is checked: the next LSEQ is expected, and its bytes are counted (R719). -/
def State.tookFrame (s : State) (p : Nat) (f : Frame) : State :=
  let a := (s.mPort p fun q => { q with rxLseq := q.rxLseq + 1, gotFrame := true, keyRx := q.keyRx + 1 }).mPortCnt p fun c =>
    { c with rxBytes := c.rxBytes + BitVec.ofNat 64 f.payload.length }
  if f.type = 1 then a else a.mPort p fun q => { q with burst := s.burstNow p }

/-- A port that is UP accepts a frame and no form check of R721 fails: its LSEQ is the one expected, and what a frame may hold it
holds. -/
def State.AcceptsFrame (s : State) (p : Nat) (f : Frame) : Prop :=
  s.routesOn = true ∧ (s.port p).st = .up ∧ f.lseq = (s.port p).rxLseq ∧ frameOk f = true ∧ (f.type = 1 ∨ (s.burstNow p).length ≤ 64)

end Sys2Proof.Machine
end

