-- ==== Sys2Proof/Certificates/Slice0/Obligations.lean ====
section
/-!
DEFINITION. The statements about the model, one `Obligations.<Name>` each; OBLIGATIONS.json lists them.
-/
open Sys2Proof Sys2Proof.Machine

/-- A step at a state whose queue has a command at its front is the meaning of that command at the state with the rest of the queue, for
every command, every rest and every state. -/
def Obligations.StepRunsTheFrontCommand : Prop :=
  ∀ (c : Instr) (rest : List Instr) (s : State), step { s with pending := c :: rest } = exec c { s with pending := rest }

/-- With no command waiting, and with no Quenched fault received and not yet in force, a step answers the state one Stoker cycle later: the
clock rises by one, a part that is Off does nothing else, any other part adds the Hearth clock of its level to its cycle count, and in
Service and Banked the tick phase rises by one; nothing else changes. With a Quenched fault received, the step enters Quenched with its
code first (R842). That a step with nothing to do advances the clock is the model's choice (log entry 1). -/
def Obligations.EmptyQueueLetsACyclePass : Prop :=
  (∀ s : State, s.pending = [] → s.flt.quenchDue = none →
    step s = .next
      { s with
        time := s.time + 1
        power := if s.dev = .off then s.power else { s.power with hclk := s.power.hclk + hearthMHz s.power.hlevel }
        tck := if s.dev = .service ∨ s.dev = .banked then { s.tck with phase := s.tck.phase + 1 } else s.tck }) ∧
  (∀ (s : State) (code : Nat), s.pending = [] → s.flt.quenchDue = some code →
    ∃ t, step s = .next t ∧ t.time = s.time + 1 ∧ t.pending = [] ∧ t.dev = .quenched ∧ t.flt.quenchCode = code ∧ t.flt.quenchDue = none)

/-- At reset, for each of the twenty blocks of the control window (R905) and each register offset below 0x800, function 0's read gives the
Reset column of the block's tables: 0x9640 with A0 and CZ-9640-N in GLB_ID, LOG2_SIZE 24 in LDG_CAP_SIZE, sixteen lanes in SRI_LANES, the
fields 10, 0x400 and 20 of SRI_ACL_CFG, 128 free units of each Burner, Grates that serve themselves in GRT_STATE, sixteen Drovers,
no spare and no tested Hearth in FLT_EMBER, and 0 everywhere else; for each function the page of BAR2 below 0x5000 reads LOG2_SIZE 8 in
STK_RING_CFG, LOG2_SIZE 6 in FLT_FN_LOG_CFG, HOLDOFF_US 8 and 0 elsewhere; the BX-3 window reads BX_ID and BX_MEM_SIZE and 0 elsewhere.
The device is Off, its queue and its memories are empty. -/
def Obligations.ResetReadsTheResetColumn : Prop :=
  (∀ blk < 20, ∀ n < 512, State.reset.readBlock 0 blk (4 * n) =
    if blk = 0 ∧ 4 * n = 0x000 then 0x96400000
    else if blk = 3 ∧ 4 * n = 0x028 then 24
    else if blk = 6 ∧ 4 * n = 0x004 then 0xFFFF
    else if blk = 6 ∧ 4 * n = 0x148 then 0xA * 2 ^ 24 + 0x400 * 2 ^ 8 + 0x14 * 2 ^ 2
    else if blk = 7 ∧ 4 * n = 0x010 then 0x80808080
    else if blk = 8 ∧ 4 * n = 0x004 then 0xE4
    else if blk = 13 ∧ 4 * n = 0x000 then 0xFFFF
    else if blk = 17 ∧ 4 * n = 0x024 then 0x00FFFF00
    else 0) ∧
  (∀ fn < 32, ∀ n < 5120, State.reset.readPage fn (4 * n) =
    if 4 * n = 0x18 then 8 * 2 else if 4 * n = 0x3008 then 6 * 2 else if 4 * n = 0x3010 then 8 else 0) ∧
  (∀ n < 16, (State.reset.readBx (4 * n)).2 = if 4 * n = 0x00 then 0x42580321 else if 4 * n = 0x28 then 0x2C8 else 0) ∧
  State.reset.dev = .off ∧ State.reset.pending = [] ∧ State.reset.mem.stack = [] ∧ State.reset.mem.host = [] ∧
  State.reset.mem.pool = [] ∧ State.reset.warden.qspi = []

/-- The three memories and the Warden's flash of the reset state have the model's canonical form: addresses strictly rising, no byte equal
to what an unlisted address reads (log entry 3). -/
def Obligations.ResetMemoriesAreCanonical : Prop := State.reset.memWf = true

/-- From every state whose memories are canonical, whichever command stands at the front of the queue, and on an empty queue too, a step
that answers a next state leaves them canonical, so that equal memories are equal data (log entry 3). -/
def Obligations.EveryStepKeepsTheMemoriesCanonical : Prop :=
  ∀ s t : State, s.memWf = true → step s = .next t → t.memWf = true

/-- Every command that answers a next state leaves the queue of waiting commands and the model's clock as they were: commands come from
outside alone, and time passes on an empty queue alone (log entry 1). -/
def Obligations.NoCommandTouchesTheQueueOrTheClock : Prop :=
  ∀ (c : Instr) (s t : State), exec c s = .next t → t.pending = s.pending ∧ t.time = s.time

/-- Over every step the fused image and firmware security levels never fall, and the ordering code, stepping and serial never change; a
command other than KINDLING_END and FIRMWARE_SECURITY_FUSE changes no fuse at all (R829, R830). -/
def Obligations.FusesOnlyRise : Prop :=
  (∀ s t : State, step s = .next t →
    s.fuses.imageSec ≤ t.fuses.imageSec ∧ s.fuses.firmwareSec ≤ t.fuses.firmwareSec ∧ t.fuses.orderingNS = s.fuses.orderingNS ∧
    t.fuses.stepping = s.fuses.stepping ∧ t.fuses.serial = s.fuses.serial) ∧
  (∀ (s t : State) (r0 w0 r1 w1 : Nat), exec (.kindlingEnd r0 w0 r1 w1) s = .next t → t.fuses.firmwareSec = s.fuses.firmwareSec) ∧
  (∀ s t : State, exec .firmwareSecurityFuse s = .next t → t.fuses.imageSec = s.fuses.imageSec)

/-- Of all the transitions of R835 only the end of Kindling enters Service or Banked, and only a boundary exchanges the two: any other
command that answers a next state in Service or Banked was taken in that same state. KINDLING_END enters them from Kindling only, a boundary
from the other one of the two only, and a step on an empty queue not at all. -/
def Obligations.OnlyKindlingEndAndBoundariesEnterServing : Prop :=
  (∀ (c : Instr) (s t : State), exec c s = .next t → (t.dev = .service ∨ t.dev = .banked) →
    t.dev = s.dev ∨ (c = .tickBoundary ∧ (s.dev = .service ∨ s.dev = .banked)) ∨
    (∃ r0 w0 r1 w1, c = .kindlingEnd r0 w0 r1 w1 ∧ s.dev = .kindling)) ∧
  (∀ s t : State, s.pending = [] → step s = .next t → (t.dev = .service ∨ t.dev = .banked) → t.dev = s.dev)

/-- No command is ever refused. The one fault of the model is raised by HOST_STACK_READ and HOST_STACK_WRITE, and exactly where the port's
HDM range answers and the access names a byte beyond its 382,252,089,344 bytes (R611); every other command answers a next state from every
state. -/
def Obligations.OnlyAccessesBeyondTheHdmRangeStop : Prop :=
  ∀ (c : Instr) (s : State),
    (∃ t, exec c s = .next t) ∨
    (exec c s = .fault .hdmOutOfRange ∧
      ((∃ port off len, c = .hostStackRead port off len ∧ s.hdmOn port = true ∧ 382252089344 < off + len) ∨
       (∃ port fn off data poisoned, c = .hostStackWrite port fn off data poisoned ∧ s.hdmOn port = true ∧ 382252089344 < off + data.length)))

/-- The island powers up and its ROM chooses a firmware slot or stays in recovery (R822); a reset or a watchdog expiry runs the ROM again, loses the requests in flight, and raises 0x0902 while the firmware runs and the dies are powered (R766, R849). The clock counts while the island is powered (R959). CZ_RESET_RELEASE with
running firmware begins Kindling (R846): no verified image slot, or a failed check of R834, refuses the image under 0x0901 and enters Quenched; else its settings are read. Each stack trains, or fails under 0x0338 and Quenched; with the eighth the sparing map is loaded and applied (R833, R836). The Ember Test
retires the Hearths that fail, under 0x0420 (R782). A failed self-check of Kindling enters Quenched; else the settings reach the units with TICK_NUM 0 and the drawn KEY_SEED (R42, R174, R777). The drives are numbered, at most 16 (R221). KINDLING_END enters START_STATE at tick 0, presents the host link and raises the fused
image level to the image's (R22, R44, R830, R846). A row out of its order leaves the state as it is (the model's choice, log entry 2). -/
def Obligations.StartUpSequence : Prop :=
  (∀ (s t : State) (sigA sigB : Bool) (slot : Option Bool), slot = chooseSlot s.warden.qspi false s.fuses.firmwareSec sigA sigB →
    t = s.wardenRestart sigA sigB → t.warden.running = slot.isSome ∧ t.warden.recovery = slot.isNone ∧ t.warden.qspi = s.warden.qspi ∧
      t.warden.errorLog = s.warden.errorLog ∧ t.warden.staging = none ∧ t.warden.eventReceiver = none ∧ t.fuses = s.fuses ∧ t.dev = s.dev ∧
      (∀ f, (s.log f).mbx.busy = true → (t.log f).mbx.busy = false ∧ (t.log f).mbx.restarted = true) ∧
      (∀ b, slot = some b → t.warden.fwVer = BitVec.ofNat 32 (flashField s.warden.qspi (slotBase false b + 8) 4)) ∧
      exec (.islandPowerUp sigA sigB) s = .next ((s.mWarden fun w => { w with powered := true, rtc := 0 }).wardenRestart sigA sigB) ∧
      (s.warden.powered = true → exec (.wardenReset sigA sigB) s = .next
        (if slot.isSome ∧ s.dev ≠ .off then t.raise { code := 0x902 } else t)) ∧
      (s.warden.powered = false → exec (.wardenReset sigA sigB) s = .next s) ∧
      (s.warden.running = true → exec (.wardenWatchdogExpiry sigA sigB) s = .next
        (if slot.isSome ∧ s.dev ≠ .off then t.raise { code := 0x902 } else t)) ∧
      (s.warden.running = false → exec (.wardenWatchdogExpiry sigA sigB) s = .next s)) ∧
  (∀ s : State, (s.warden.powered = true → exec .rtcTick s = .next (s.mWarden fun w => { w with rtc := w.rtc + 1 })) ∧
    (s.warden.powered = false → exec .rtcTick s = .next s)) ∧
  (∀ (s u : State) (sigA sigB : Bool),
    u = { s.mPins (fun p => { p with czResetN := true, railsOk := true, thermtripN := true, clocksStopped := false }) with
      dev := .kindling, boot := { since := s.time } } →
    (s.warden.running = false ∨ s.pins.czResetN = true → exec (.czResetRelease sigA sigB) s = .next s) ∧
    (s.warden.running = true → s.pins.czResetN = false →
      (chooseSlot s.warden.qspi true s.fuses.imageSec sigA sigB = none → exec (.czResetRelease sigA sigB) s = .next (u.refuseImage 1)) ∧
      (∀ b base v, chooseSlot s.warden.qspi true s.fuses.imageSec sigA sigB = some b → base = slotBase true b → v = u.mWarden (fun w => { w with
          imageSlot := some b, imgSigned := cellsGet s.warden.qspi base (signedLen s.warden.qspi base) }) →
        (imageReason s.warden.qspi base s.fuses.orderingNS ≠ 0 → exec (.czResetRelease sigA sigB) s = .next
          (v.refuseImage (imageReason s.warden.qspi base s.fuses.orderingNS))) ∧
        (imageReason s.warden.qspi base s.fuses.orderingNS = 0 → ∃ t, exec (.czResetRelease sigA sigB) s = .next t ∧
          t.img = readImage s.warden.qspi base ∧ t.dev = .kindling ∧ t.kindling = (s.flt.quenchDue.isNone) ∧ t.warden = v.warden)))) ∧
  (∀ (s : State) (reason : Nat), (s.refuseImage reason).dev = .quenched ∧ (s.refuseImage reason).warden.refusal = reason ∧
    (s.refuseImage reason).flt.quenchCode = 0x901) ∧
  (∀ (s : State) (q : Nat), s.kindling = true → q < 8 → q ∉ s.boot.trained →
    exec (.stackDramTrained q false) s = .next (((s.mBoot fun x => { x with failedStacks := q :: x.failedStacks }).raise
      { code := 0x338, detail := detWindow q 0xFFFF 0 0 }).enterQuenched 0x338) ∧
    (∀ u, u = s.mBoot (fun x => { x with trained := q :: x.trained }) →
      (s.boot.trained.length ≠ 7 → exec (.stackDramTrained q true) s = .next u) ∧
      (s.boot.trained.length = 7 → exec (.stackDramTrained q true) s = .next
        (((u.sparingMap.foldl State.applySparing u).mWarden fun w => { w with mapApplied := u.sparingMap }).mBoot fun x =>
          { x with mapLoaded := true })))) ∧
  (∀ (s : State) (e : SparingEntry),
    (e.resource = 1 → ((s.applySparing e).phys e.inst).retired = true) ∧
    (e.resource = 2 → e.fromLoc < 4 → ((s.applySparing e).phys e.inst).grRetired.getLsbD e.fromLoc = true) ∧
    (e.resource = 7 → e.inst < 16 → (s.applySparing e).drovers.inService.getLsbD e.inst = false) ∧
    (e.resource = 6 → (s.applySparing e).flt.disabledWays = s.flt.disabledWays ++ [e.fromLoc])) ∧
  (∀ (s : State) (failed : List Nat), s.kindling = true → s.boot.mapLoaded = true → s.boot.emberDone = false →
    exec (.kindlingEmberTest failed) s = .next (((failed.filter fun p => decide (p < 168) && !(s.phys p).retired).foldl State.retireHearth s).mBoot
      fun x => { x with emberDone := true })) ∧
  (∀ (s : State) (p : Nat), ((s.retireHearth p).phys p).retired = true) ∧
  (∀ (s : State) (seed : Nat), s.kindling = true → s.boot.emberDone = true → s.boot.katDone = false →
    (∀ u code, code = selfCheckCode (u / 16) → exec (.kindlingKnownAnswerTests (some u) seed) s = .next
      ((s.raise { code := code, detail := detWindow (u % 16) 0xFFFF 0 0 }).enterQuenched code)) ∧
    (∃ t, exec (.kindlingKnownAnswerTests none seed) s = .next t ∧ t.boot.katDone = true ∧ t.tck.num = 0 ∧ t.tck.period10us = s.img.period10us ∧
      t.ldg.keySeed = BitVec.ofNat 64 seed ∧ t.ldg.keyCount = 0 ∧
      (s.img.bx3 = false → t.tck.source = s.img.tickSource ∧ ∀ p < 8, (t.port p).st = (if (s.img.route.getD p {}).enable then .down else .disabled)))) ∧
  (∀ (s : State) (ctrls : List (List Namespace × Nat)), s.kindling = true → s.boot.katDone = true → s.boot.cellarDone = false →
    ∃ t, exec (.cellarEnumeration ctrls) s = .next t ∧ t.boot.cellarDone = true ∧ t.warden.sparingLog = compactLog s.warden.sparingLog ∧
      (s.img.bx3 = true → t.cellar.present = 0) ∧ (s.img.bx3 = false →
        (∀ i < 16, t.cellar.present.getLsbD i = decide (i < ctrls.length)) ∧ t.pins.clrPerstN = true)) ∧
  (∀ (s : State) (r0 w0 r1 w1 : Nat), s.kindling = true → s.boot.cellarDone = true → ∃ t, exec (.kindlingEnd r0 w0 r1 w1) s = .next t ∧
    t.dev = (if s.img.startBanked ∧ s.img.bx3 = false then .banked else .service) ∧ t.tck.num = 0 ∧ t.tck.phase = 0 ∧ t.boot.presented = true ∧
    t.fuses = { s.fuses with imageSec := max s.fuses.imageSec s.img.securityVer } ∧ t.warden = s.warden) ∧
  (∀ (s : State) (r0 w0 r1 w1 : Nat), s.kindling = false ∨ s.boot.cellarDone = false → exec (.kindlingEnd r0 w0 r1 w1) s = .next s)

/-- A cold reset, by CZ_RESET_ASSERT, COLD_RESET or COMPUTE_RAILS_POWER_DOWN, returns every unit but the Warden island to its reset values (R849): the flash, the logs and the clock of the island, the fuses, host memory, the pool and the drives' blocks stay, and stack memory is lost. COLD_RESET is answered in Banked
and Quenched, is in the wrong state else, and begins Kindling (R856, R858). A rail trip puts the part Off with its clocks stopped and raises no fault (R921); a rail that fails while the part is Off changes only the rail. PORT0_CONVENTIONAL_RESET resets every host function and retrains port 0, PORT1's retrains port 1
and resets none (R849). FUNCTION_RESET tears the function's contexts down, disables its ring, and clears its log enable and severity counts; of function 0 it resets every function, and on a clear of VF Enable every virtual one (R690, R856). PERST_RELEASE lets its port train once the dies are out of reset (R846, R871). -/
def Obligations.ResetsAndTrips : Prop :=
  (∀ s t : State, t = s.coldReset → t.fuses = s.fuses ∧ t.warden.qspi = s.warden.qspi ∧ t.warden.errorLog = s.warden.errorLog ∧
    t.warden.sparingLog = s.warden.sparingLog ∧ t.warden.rtc = s.warden.rtc ∧ t.warden.running = s.warden.running ∧ t.warden.stateReq = none ∧
    t.warden.imageSlot = none ∧ t.time = s.time ∧ t.mem.stack = [] ∧ t.mem.host = s.mem.host ∧ t.mem.pool = s.mem.pool ∧
    t.cellar.blocks = s.cellar.blocks ∧ t.depot = State.reset.depot ∧ t.ldg = State.reset.ldg ∧ t.stk = State.reset.stk ∧ t.hearths = State.reset.hearths ∧
    t.serais = State.reset.serais ∧ t.tally = State.reset.tally ∧ t.tck = State.reset.tck ∧ t.routes = State.reset.routes ∧ t.flt = State.reset.flt ∧
    (s.dev = .off → t.dev = .off) ∧ (s.dev ≠ .off → t.dev = .kindling)) ∧
  (∀ s : State, exec .czResetAssert s = .next (s.coldReset.mPins fun p => { p with czResetN := false }) ∧
    exec .computeRailsPowerDown s = .next { s.coldReset.mPins (fun p => { p with czResetN := false, railsOk := false }) with dev := .off } ∧
    (s.dev = .off → exec .railTrip s = .next (s.mPins fun p => { p with railsOk := false })) ∧
    (s.dev ≠ .off → ∃ t, exec .railTrip s = .next t ∧ t.dev = .off ∧ t.pins.railsOk = false ∧ t.pins.clocksStopped = true ∧ t.xlt.port0.up = false ∧
      t.xlt.port1.up = false ∧ t.flt = s.flt ∧ t.warden.qspi = s.warden.qspi ∧ t.warden.stateReq = none)) ∧
  (∀ (s : State) (src : Option Nat) (req b : List Byte) (sigA sigB : Bool), s.requestOf src req = some b → fld b 0 2 = 0x40 → src = none ∨ src = some 0 →
    s.dev ≠ .kindling → reqInvalid b false false false = false →
    (s.dev = .banked ∨ s.dev = .quenched → exec (.coldReset src req sigA sigB) s = .next
      (((s.respond src (s.reqTag src) { code := 0x40, status := 0 }).coldReset).kindle sigA sigB)) ∧
    (s.dev ≠ .banked → s.dev ≠ .quenched → exec (.coldReset src req sigA sigB) s = .next
      (s.respond src (s.reqTag src) { code := 0x40, status := 4 }))) ∧
  (∀ (s : State) (src : Option Nat) (req : List Byte) (sigA sigB : Bool), s.requestOf src req = none → exec (.coldReset src req sigA sigB) s = .next s) ∧
  (∀ (s u v : State) (hot : Bool) (rate width : Nat), u = s.mPins (fun p => { p with perst0 := p.perst0 || !hot }) →
    v = s.mPins (fun p => { p with perst1 := p.perst1 || !hot }) →
    (s.dev = .off → exec (.port0ConventionalReset hot rate width) s = .next u ∧ exec (.port1ConventionalReset hot rate width) s = .next v) ∧
    (s.dev ≠ .off →
      exec (.port0ConventionalReset hot rate width) s = .next ((if s.presented then u.resetFns false else u).mXlt fun x => { x with
        port0 := x.port0.reset hot rate width }) ∧
      exec (.port1ConventionalReset hot rate width) s = .next (v.mXlt fun x => { x with port1 := x.port1.reset hot rate width }))) ∧
  (∀ (l : LinkPort) (rate width : Nat), (l.reset false rate width).up = false ∧ (l.reset true rate width).up = l.up) ∧
  (∀ (s : State) (fn : Nat), s.presented = true → s.fnExists fn = true →
    (fn ≠ 0 → exec (.functionReset fn false) s = .next (s.resetFn fn) ∧ exec (.functionReset fn true) s = .next s) ∧
    (fn = 0 → exec (.functionReset fn false) s = .next ((List.range (s.img.totalVfs + 1)).foldl State.resetFn s) ∧
      exec (.functionReset fn true) s = .next (((List.range (s.img.totalVfs + 1)).filter fun f => f != 0).foldl State.resetFn s))) ∧
  (∀ (s t : State) (f : Nat), s.img.bx3 = false → t = s.resetFn f → (t.fn f).en = false ∧ (t.fn f).cons = 0 ∧ (t.fn f).prod = 0 ∧ (t.fn f).resetDue = true ∧
    (t.log f).en = false ∧ (t.log f).sev = [0, 0, 0, 0] ∧ (t.log f).mbx = {} ∧ (∀ n x, t.ctx? n = some x → x.fn = f → x.dead = true) ∧
    (∀ p ∈ t.stk.cmds, p.2.fn = f → opKind p.2.opcode ≠ some 4) ∧ t.fuses = s.fuses ∧ t.dev = s.dev) ∧
  (∀ (s : State) (port rate width : Nat), s.presented = true ∨ s.kindling = true → port = 0 ∨ port = 1 ∧ s.img.bx3 = false →
    ∃ t, exec (.perstRelease port rate width) s = .next t ∧ (port = 0 → t.pins.perst0 = false ∧ t.xlt.port0.up = true ∧ t.xlt.port0.rate = rate ∧
      t.xlt.port1 = s.xlt.port1) ∧
      (port = 1 → t.pins.perst1 = false ∧ t.xlt.port1.up = true ∧ t.xlt.port1.rate = rate ∧ t.xlt.port0 = s.xlt.port0))

/-- FAULT_REPORT of a code of R751, in any state but Off, reports the record and tears its context down when the code's containment is Teardown (R749, R752). A record that R755 does not coalesce takes the next SEQ and joins both queues while they have room; a full queue counts the loss and keeps what it holds (R761, R762); a record of containment Quenched makes the entry due. A held repeat
adds to the count of its delivery, and COALESCE_FLUSH makes one record of them once 1 ms has passed (R755). HOST_SINK_WRITE writes the oldest record to its log, unless the sink has stopped (R757); MSIX_HOLDOFF_EXPIRY sends one message for what came during the holdoff (R759). CPER_FORWARD moves the oldest record to the error log, and to the event receiver
when one is set (R763, R867); PLDM_EVENT_RESEND repeats at most four times. QUENCH_ENTRY enters Quenched: no group runs, no operation is open, the sinks and the host export have stopped (R842). LOST_RECORD_EMIT, TRACE_FRAME_SEND and TRACE_HOST_EXPORT send what R804, R807 and R810 name. -/
def Obligations.FaultsAndChimney : Prop :=
  (∀ (s : State) (r : FaultRec), (s.dev = .off ∨ r.code ∉ knownFaults → exec (.faultReport r) s = .next s) ∧
    (s.dev ≠ .off → r.code ∈ knownFaults →
      (r.ctx = none ∨ faultContain r.code ≠ 4 → exec (.faultReport r) s = .next (s.raise r)) ∧
      (∀ c, r.ctx = some c → faultContain r.code = 4 → exec (.faultReport r) s = .next ((s.raise r).teardown c)))) ∧
  (∀ (s t : State) (r x : FaultRec), t = s.makeRecord r → x = { r with seq := s.flt.nextSeq } → t.flt.nextSeq = s.flt.nextSeq + 1 ∧
    t.flt.hostq = (if s.flt.hostStopped = false ∧ s.flt.hostq.length < 256 then s.flt.hostq ++ [x] else s.flt.hostq) ∧
    t.flt.mgmtq = (if s.flt.mgmtq.length < 1024 then s.flt.mgmtq ++ [x] else s.flt.mgmtq) ∧
    t.flt.mgmtLost = (if s.flt.mgmtq.length < 1024 then s.flt.mgmtLost else s.flt.mgmtLost + 1) ∧
    (r.contain = 5 → s.flt.quenchDue = none → s.dev = .kindling ∨ s.dev = .service ∨ s.dev = .banked → t.flt.quenchDue = some r.code) ∧
    (r.contain ≠ 5 → t.flt.quenchDue = s.flt.quenchDue) ∧ t.mem = s.mem ∧ t.stk = s.stk ∧ t.dev = s.dev) ∧
  (∀ (s : State) (r : FaultRec), (coalesces r = false → s.intake r = s.makeRecord r) ∧
    (coalesces r = true → (∃ c ∈ s.flt.coal, c.matches s.time r = true) → (s.intake r).flt.coalesced = s.flt.coalesced + 1 ∧
      (s.intake r).flt.hostq = s.flt.hostq ∧ (s.intake r).flt.nextSeq = s.flt.nextSeq)) ∧
  (∀ s : State, exec .coalesceFlush s = .next (s.flt.coal.foldl State.flushCoal (s.mFlt fun f => { f with coal := [] })) ∧
    ∀ c : Coal, (s.time < c.since + cyclesPerMs → s.flushCoal c = s.mFlt fun f => { f with coal := f.coal ++ [c] }) ∧
      (c.since + cyclesPerMs ≤ s.time → (c.first = none → s.flushCoal c = s) ∧
        (∀ r, c.first = some r → s.flushCoal c = (s.makeRecord { r with rept := c.held }).mFlt fun f =>
          { f with coal := f.coal ++ [{ delivered := r, since := s.time }] }))) ∧
  (∀ s : State, (s.flt.hostStopped = true ∨ s.flt.hostq = [] → exec .hostSinkWrite s = .next s) ∧
    (∀ r rest, s.flt.hostq = r :: rest → s.flt.hostStopped = false → exec .hostSinkWrite s = .next
      ((s.mFlt fun f => { f with hostq := rest }).sinkRecord r false))) ∧
  (∀ (s : State) (f : Nat) (r : FaultRec) (now : Bool), ((s.log f).en = true → s.xlt.port0.up = true → s.logFn f r now =
      ((s.mergeWrite 0 { space := .host, addr := (s.log f).base.toNat + 64 * ((s.log f).cnt.toNat % 2 ^ (s.log f).log2) } (faultBytes r)).mLog f
        fun l => { l with cnt := l.cnt + 1 }).msix f 1 now) ∧
    ((s.log f).en = false ∨ s.xlt.port0.up = false → s.logFn f r now =
      (s.mFlt fun t => { t with hostLost := t.hostLost + 1 }).mLog f fun l => { l with hostLost := true })) ∧
  (∀ (s : State) (f v : Nat), ((s.log f).inHoldoff.getD v false = false → exec (.msixHoldoffExpiry f v) s = .next s) ∧
    ((s.log f).inHoldoff.getD v false = true → (s.log f).msgDue.getD v false = true → exec (.msixHoldoffExpiry f v) s = .next
      ((s.mLog f fun l => { l with msgDue := l.msgDue.set v false }).mFlt fun t => { t with msix := (f, v) :: t.msix })) ∧
    ((s.log f).inHoldoff.getD v false = true → (s.log f).msgDue.getD v false = false → exec (.msixHoldoffExpiry f v) s = .next
      (s.mLog f fun l => { l with inHoldoff := l.inHoldoff.set v false }))) ∧
  (∀ s : State, (s.flt.quenchDue = none → exec .quenchEntry s = .next s) ∧ ∀ code, s.flt.quenchDue = some code → ∃ t, exec .quenchEntry s = .next t ∧
    t.dev = .quenched ∧ t.flt.quenchCode = code ∧ t.flt.quenchDue = none ∧ t.flt.quenchAt = s.time ∧ t.flt.hostStopped = true ∧ t.flt.hostq = [] ∧
    t.chm.hostStopped = true ∧ t.hearths.groups = [] ∧ t.hearths.blocks = [] ∧ t.routes.ops = [] ∧ t.mem.stackRefresh = true ∧ t.warden.stateReq = none ∧
    t.ldg = s.ldg ∧ t.fuses = s.fuses) ∧
  (∀ s : State, (s.flt.mgmtq = [] ∨ s.warden.running = false → exec .cperForward s = .next s) ∧
    ∀ r rest, s.flt.mgmtq = r :: rest → s.warden.running = true → ∃ t, exec .cperForward s = .next t ∧ t.flt = { s.flt with mgmtq := rest } ∧
      (s.warden.errorLog.length < 4096 → t.warden.errorLog = s.warden.errorLog ++ [r]) ∧ (4096 = s.warden.errorLog.length →
        t.warden.errorLog = s.warden.errorLog.tail ++ [r]) ∧
      (s.warden.eventReceiver = none → t.warden.cperOut = s.warden.cperOut) ∧
      (s.warden.eventReceiver ≠ none → t.warden.cperOut.length = s.warden.cperOut.length + 1 ∧ t.warden.unacked = some r ∧ t.warden.resends = 0)) ∧
  (∀ (s : State) (acked : Bool), (s.warden.unacked = none → exec (.pldmEventResend acked) s = .next s) ∧
    ∀ r, s.warden.unacked = some r → (acked = true ∨ 4 ≤ s.warden.resends → exec (.pldmEventResend acked) s = .next
        (s.mWarden fun w => { w with unacked := none })) ∧
      (acked = false → s.warden.resends < 4 → exec (.pldmEventResend acked) s = .next
        ((s.sendCper r).mWarden fun w => { w with resends := w.resends + 1 }))) ∧
  (∀ (s : State) (die : Nat),
    (s.chm.lostNow = 0 ∨ s.chm.room die = false → exec (.lostRecordEmit die) s = .next s) ∧
    (s.chm.lostNow ≠ 0 → s.chm.room die = true → exec (.lostRecordEmit die) s = .next
      ((s.mChm fun c => { c with lostNow := 0 }).trace 9 die none 0 s.chm.lostNow)) ∧
    (s.dev = .off → exec .traceFrameSend s = .next s) ∧
    (s.dev ≠ .off → exec .traceFrameSend s = .next (s.mChm fun c => { c with
      frameOut := frameBytes c.frames.toNat (c.portq.take 15) :: c.frameOut, portq := c.portq.drop 15, frames := c.frames + 1 }))) ∧
  (∀ s : State, (s.chm.ringq = [] ∨ s.chm.hostStopped = true ∨ s.hostOn = false → exec .traceHostExport s = .next s) ∧
    ∀ r rest used, s.chm.ringq = r :: rest → s.chm.hostStopped = false → s.hostOn = true →
      used = (if s.chm.ringSince + cyclesPerMs ≤ s.time then 0 else s.chm.ringUsed) → ∃ t, exec .traceHostExport s = .next t ∧ t.chm.ringq = rest ∧
      (s.chm.ring.rate * 1000 < used + 32 → t.chm.hostDrops = s.chm.hostDrops + 1 ∧ t.mem = s.mem) ∧
      (used + 32 ≤ s.chm.ring.rate * 1000 → t.chm.hostCnt = s.chm.hostCnt + 1 ∧ t.chm.ringUsed = used + 32 ∧
        t.mem = (s.writeThrough { space := .host, addr := s.chm.ring.base.toNat + 32 * (s.chm.hostCnt.toNat % 2 ^ s.chm.ring.log2) } r.bytes false).mem))

/-- At a group whose next instruction is one of the table of R392 the instruction completes and retires: SD holds the value of its row modulo
2^64 (a write of S0 is discarded), SEXEC.SET writes EXEC, the control instructions write the program counter, which else stands at the next
instruction; every other register, EXEC, the flags, the group's other fields, every other group and every memory byte are unchanged, but for
what `Issue.Retired` lists. i.g is the group with its program counter already at the next instruction, so the instruction's own address is
i.g.pc - 8. -/
def Obligations.ScalarAndControlInstructions : Prop :=
  ∀ (s : State) (r : GroupRef) (i : Issue), s.issue? r = some i →
    (i.is 0 0 → (∃ t, exec (.smov r) s = .next t ∧ i.Retired i.s (i.g.sput (wS0 i.w) (i.opSA)) t)) ∧
    (i.is 0 1 → (∃ t, exec (.smovi r) s = .next t ∧ i.Retired i.s (i.g.sput (wS0 i.w) (i.imm64)) t)) ∧
    (i.is 0 2 → (∃ t, exec (.smovhi r) s = .next t ∧
          i.Retired i.s (i.g.sput (wS0 i.w) (BitVec.ofNat 32 (wImm i.w) ++ i.opSA.setWidth 32)) t)) ∧
    (i.is 0 3 → (∃ t, exec (.sadd r) s = .next t ∧ i.Retired i.s (i.g.sput (wS0 i.w) (i.opSA + i.opSB)) t)) ∧
    (i.is 0 4 → (∃ t, exec (.saddi r) s = .next t ∧ i.Retired i.s (i.g.sput (wS0 i.w) (i.opSA + i.imm64)) t)) ∧
    (i.is 0 5 → (∃ t, exec (.ssub r) s = .next t ∧ i.Retired i.s (i.g.sput (wS0 i.w) (i.opSA - i.opSB)) t)) ∧
    (i.is 0 6 → (∃ t, exec (.sand r) s = .next t ∧ i.Retired i.s (i.g.sput (wS0 i.w) (i.opSA &&& i.opSB)) t)) ∧
    (i.is 0 7 → (∃ t, exec (.sor r) s = .next t ∧ i.Retired i.s (i.g.sput (wS0 i.w) (i.opSA ||| i.opSB)) t)) ∧
    (i.is 0 8 → (∃ t, exec (.sxor r) s = .next t ∧ i.Retired i.s (i.g.sput (wS0 i.w) (i.opSA ^^^ i.opSB)) t)) ∧
    (i.is 0 9 → (∃ t, exec (.sandn r) s = .next t ∧ i.Retired i.s (i.g.sput (wS0 i.w) (i.opSA &&& ~~~i.opSB)) t)) ∧
    (i.is 0 10 → (∃ t, exec (.sshl r) s = .next t ∧
          i.Retired i.s (i.g.sput (wS0 i.w) (i.opSA <<< (i.opSB.toNat % 64))) t)) ∧
    (i.is 0 11 → (∃ t, exec (.sshr r) s = .next t ∧
          i.Retired i.s (i.g.sput (wS0 i.w) (i.opSA >>> (i.opSB.toNat % 64))) t)) ∧
    (i.is 0 12 → (∃ t, exec (.ssar r) s = .next t ∧
          i.Retired i.s (i.g.sput (wS0 i.w) (i.opSA.sshiftRight (i.opSB.toNat % 64))) t)) ∧
    (i.is 0 13 → (∃ t, exec (.smul r) s = .next t ∧ i.Retired i.s (i.g.sput (wS0 i.w) (i.opSA * i.opSB)) t)) ∧
    (i.is 0 14 → (∃ t, exec (.spopc r) s = .next t ∧
          i.Retired i.s (i.g.sput (wS0 i.w) (BitVec.ofNat 64 ((List.range 64).countP fun n => i.opSA.getLsbD n))) t)) ∧
    (i.is 0 15 → ∃ n ≤ 64, (∀ m < n, i.opSA.getLsbD m = false) ∧ (n < 64 → i.opSA.getLsbD n = true) ∧
        (∃ t, exec (.sff1 r) s = .next t ∧ i.Retired i.s (i.g.sput (wS0 i.w) (BitVec.ofNat 64 n)) t)) ∧
    (i.is 0 16 → (∃ t, exec (.sexecGet r) s = .next t ∧ i.Retired i.s (i.g.sput (wS0 i.w) (i.g.exec)) t)) ∧
    (i.is 0 17 → (∃ t, exec (.sexecSet r) s = .next t ∧ i.Retired i.s ({ i.g with exec := i.opSA }) t)) ∧
    (i.is 0 18 → (∃ t, exec (.srd r) s = .next t ∧
          i.Retired i.s (i.g.sput (wS0 i.w) (BitVec.ofNat 64 (i.special (bits i.w 39 32)))) t)) ∧
    (i.is 0 19 → (∃ t, exec (.sflrd r) s = .next t ∧ i.Retired i.s (i.g.sput (wS0 i.w) (i.g.flags.setWidth 64)) t)) ∧
    (i.is 0 20 → (∃ t, exec (.scmp r) s = .next t ∧
          i.Retired i.s (i.g.sput (wS0 i.w) (if i.cond (bits i.w 35 32) i.opSA i.opSB then 1 else 0)) t)) ∧
    (i.is 1 0 →
        (∃ t, exec (.br r) s = .next t ∧
          i.Retired i.s (if i.cond (wS2 i.w) (i.g.sreg (wS0 i.w)) (i.g.sreg (wS1 i.w)) then { i.g with pc := i.g.pc - 8 + i.imm64 * 8 } else i.g) t)) ∧
    (i.is 1 1 → (∃ t, exec (.jmp r) s = .next t ∧ i.Retired i.s ({ i.g with pc := i.g.sreg (wS0 i.w) }) t)) ∧
    (i.is 1 2 → (∃ t, exec (.call r) s = .next t ∧
          i.Retired i.s ({ i.g.sput (wS1 i.w) i.g.pc with pc := i.g.pc - 8 + i.imm64 * 8 }) t))

/-- At a group whose next instruction is a vector integer one (R394) the instruction completes and retires. In classes 0x2 and 0x4 each active
thread of VD holds the row's value modulo 2^32, an inactive one keeps its value or is cleared under Z (R388); a compare writes one bit per active
thread and 0 per inactive one into a scalar register; everything else is unchanged, but for what `Issue.Retired` lists. The immediate forms of
VMAD and of the compares, which have no field for VC, take a free addend and free bits (the model's reading, log entry 5). -/
def Obligations.VectorIntegerInstructions : Prop :=
  ∀ (s : State) (r : GroupRef) (i : Issue), s.issue? r = some i →
    (i.is 2 0 ∨ i.is 4 0 →
        (∃ t, exec (.vadd r) s = .next t ∧
          i.Retired i.s (i.g.vput (wZ i.w) (wVd i.w) fun t => i.laneA t + i.laneB t) t)) ∧
    (i.is 2 1 ∨ i.is 4 1 →
        (∃ t, exec (.vsub r) s = .next t ∧
          i.Retired i.s (i.g.vput (wZ i.w) (wVd i.w) fun t => i.laneA t - i.laneB t) t)) ∧
    (i.is 2 2 ∨ i.is 4 2 →
        (∃ t, exec (.vmul r) s = .next t ∧
          i.Retired i.s (i.g.vput (wZ i.w) (wVd i.w) fun t => i.laneA t * i.laneB t) t)) ∧
    (i.is 2 3 ∨ i.is 4 3 →
        (∃ t, exec (.vmulhiS r) s = .next t ∧
          i.Retired i.s (i.g.vput (wZ i.w) (wVd i.w) fun t => BitVec.ofInt 32 ((i.laneA t).toInt * (i.laneB t).toInt / 2 ^ 32)) t)) ∧
    (i.is 2 4 ∨ i.is 4 4 →
        (∃ t, exec (.vmulhiU r) s = .next t ∧
          i.Retired i.s (i.g.vput (wZ i.w) (wVd i.w) fun t => BitVec.ofNat 32 ((i.laneA t).toNat * (i.laneB t).toNat / 2 ^ 32)) t)) ∧
    (i.is 2 6 ∨ i.is 4 6 →
        (∃ t, exec (.vand r) s = .next t ∧
          i.Retired i.s (i.g.vput (wZ i.w) (wVd i.w) fun t => i.laneA t &&& i.laneB t) t)) ∧
    (i.is 2 7 ∨ i.is 4 7 →
        (∃ t, exec (.vor r) s = .next t ∧
          i.Retired i.s (i.g.vput (wZ i.w) (wVd i.w) fun t => i.laneA t ||| i.laneB t) t)) ∧
    (i.is 2 8 ∨ i.is 4 8 →
        (∃ t, exec (.vxor r) s = .next t ∧
          i.Retired i.s (i.g.vput (wZ i.w) (wVd i.w) fun t => i.laneA t ^^^ i.laneB t) t)) ∧
    (i.is 2 9 ∨ i.is 4 9 →
        (∃ t, exec (.vshl r) s = .next t ∧
          i.Retired i.s (i.g.vput (wZ i.w) (wVd i.w) fun t => i.laneA t <<< ((i.laneB t).toNat % 32)) t)) ∧
    (i.is 2 10 ∨ i.is 4 10 →
        (∃ t, exec (.vshr r) s = .next t ∧
          i.Retired i.s (i.g.vput (wZ i.w) (wVd i.w) fun t => i.laneA t >>> ((i.laneB t).toNat % 32)) t)) ∧
    (i.is 2 11 ∨ i.is 4 11 →
        (∃ t, exec (.vsar r) s = .next t ∧
          i.Retired i.s (i.g.vput (wZ i.w) (wVd i.w) fun t => (i.laneA t).sshiftRight ((i.laneB t).toNat % 32)) t)) ∧
    (i.is 2 12 ∨ i.is 4 12 →
        (∃ t, exec (.vminS r) s = .next t ∧
          i.Retired i.s (i.g.vput (wZ i.w) (wVd i.w) fun t => if (i.laneA t).sle (i.laneB t) then i.laneA t else i.laneB t) t)) ∧
    (i.is 2 13 ∨ i.is 4 13 →
        (∃ t, exec (.vmaxS r) s = .next t ∧
          i.Retired i.s (i.g.vput (wZ i.w) (wVd i.w) fun t => if (i.laneA t).sle (i.laneB t) then i.laneB t else i.laneA t) t)) ∧
    (i.is 2 14 ∨ i.is 4 14 →
        (∃ t, exec (.vminU r) s = .next t ∧
          i.Retired i.s (i.g.vput (wZ i.w) (wVd i.w) fun t => if (i.laneA t).ule (i.laneB t) then i.laneA t else i.laneB t) t)) ∧
    (i.is 2 15 ∨ i.is 4 15 →
        (∃ t, exec (.vmaxU r) s = .next t ∧
          i.Retired i.s (i.g.vput (wZ i.w) (wVd i.w) fun t => if (i.laneA t).ule (i.laneB t) then i.laneB t else i.laneA t) t)) ∧
    (i.is 2 16 ∨ i.is 4 16 →
        (∃ t, exec (.vabs r) s = .next t ∧
          i.Retired i.s (i.g.vput (wZ i.w) (wVd i.w) fun t => BitVec.ofNat 32 (i.laneA t).toInt.natAbs) t)) ∧
    (i.is 2 17 ∨ i.is 4 17 →
        (∃ t, exec (.vclz r) s = .next t ∧
          i.Retired i.s (i.g.vput (wZ i.w) (wVd i.w) fun t => BitVec.ofNat 32 (32 - (i.laneA t).toNat.size)) t)) ∧
    (i.is 2 18 ∨ i.is 4 18 →
        (∃ t, exec (.vpopc r) s = .next t ∧
          i.Retired i.s (i.g.vput (wZ i.w) (wVd i.w) fun t => BitVec.ofNat 32 ((List.range 32).countP fun n => (i.laneA t).getLsbD n)) t)) ∧
    (i.is 2 5 →
        (∃ t, exec (.vmad r) s = .next t ∧
          i.Retired i.s (i.g.vput (wZ i.w) (wVd i.w) fun t => i.laneA t * i.laneB t + i.g.vreg (wVc i.w) t) t)) ∧
    (i.is 4 5 → ∃ free : Nat → BitVec 32,
        (∃ t, exec (.vmad r) s = .next t ∧
          i.Retired (i.s.tookFree 64) (i.g.vput (wZ i.w) (wVd i.w) fun t => i.laneA t * i.laneB t + free t) t)) ∧
    (i.is 2 19 → ∃ v : BitVec 64, (∀ t < 64, v.getLsbD t = (i.g.exec.getLsbD t && cmpHolds (wVc i.w) (i.laneA t).toInt (i.laneB t).toInt)) ∧
        (∃ t, exec (.vcmpS r) s = .next t ∧ i.Retired i.s (i.g.sput (wVd i.w) v) t)) ∧
    (i.is 4 19 → ∃ v : BitVec 64, (∀ t < 64, i.g.exec.getLsbD t = false → v.getLsbD t = false) ∧
        (∃ t, exec (.vcmpS r) s = .next t ∧ i.Retired (i.s.tookFree 1) (i.g.sput (wVd i.w) v) t)) ∧
    (i.is 2 20 → ∃ v : BitVec 64, (∀ t < 64, v.getLsbD t = (i.g.exec.getLsbD t && cmpHolds (wVc i.w) (i.laneA t).toNat (i.laneB t).toNat)) ∧
        (∃ t, exec (.vcmpU r) s = .next t ∧ i.Retired i.s (i.g.sput (wVd i.w) v) t)) ∧
    (i.is 4 20 → ∃ v : BitVec 64, (∀ t < 64, i.g.exec.getLsbD t = false → v.getLsbD t = false) ∧
        (∃ t, exec (.vcmpU r) s = .next t ∧ i.Retired (i.s.tookFree 1) (i.g.sput (wVd i.w) v) t)) ∧
    (i.is 2 21 →
        (∃ t, exec (.vsel r) s = .next t ∧
          i.Retired i.s (i.g.vput (wZ i.w) (wVd i.w) fun t => if (i.g.sreg (wVc i.w)).getLsbD t then i.laneA t else i.laneB t) t)) ∧
    (i.is 2 22 → (∃ t, exec (.vmov r) s = .next t ∧ i.Retired i.s (i.g.vput (wZ i.w) (wVd i.w) fun t => i.laneA t) t)) ∧
    (i.is 2 23 → (∃ t, exec (.vlane r) s = .next t ∧
          i.Retired i.s (i.g.vput (wZ i.w) (wVd i.w) fun t => BitVec.ofNat 32 t) t))

/-- VSHFL gives each active thread t of VD the lane of VA that operand B of thread t names modulo 64, whether or not that lane's thread is active; with
SB = 1 operand B is one scalar for every thread. VRDLANE writes lane S[VB bits 3:0] & 63 of VA, zero-extended, to a scalar register. Both
complete and change nothing else but what `Issue.Retired` lists. -/
def Obligations.CrossLaneInstructions : Prop :=
  ∀ (s : State) (r : GroupRef) (i : Issue), s.issue? r = some i →
    (i.is 6 0 → (∃ t, exec (.vshfl r) s = .next t ∧
          i.Retired i.s (i.g.vput (wZ i.w) (wVd i.w) fun t => i.g.vreg (wVa i.w) ((i.laneB t).toNat % 64)) t)) ∧
    (i.is 6 1 →
        (∃ t, exec (.vrdlane r) s = .next t ∧
          i.Retired i.s (i.g.sput (wVd i.w) ((i.g.vreg (wVa i.w) ((i.g.sreg (bits i.w 35 32)).toNat % 64)).setWidth 64)) t))

/-- At a group whose next instruction is a vector float one (R395), a conversion or VRAND (R397), the instruction completes and retires: every active
thread's lane of VD holds the result of its row on the operand bits of its format, the other lanes keep their values or are cleared under Z, and the
flags of the active lanes are ORed into the group flag register (R155); FCMP writes a scalar register. CVT with a narrow format counts its elements
and those clipped for the command (R165). Nothing else changes but what `Issue.Retired` lists. Under a rounding mode other than
stochastic no draw is taken; a stochastic one of class 0x3 or of CVT.I2F takes free draws (log entry 5). What the operations on patterns compute
is said by RoundingFollowsTheMode and NaNResultsAreCanonical. -/
def Obligations.FloatAndConversionInstructions : Prop :=
  ∀ (s : State) (r : GroupRef) (i : Issue), s.issue? r = some i →
    (i.is 3 0 →
        (∃ t, exec (.fadd r) s = .next t ∧
          i.Retired i.drew (i.lanes fun k => fadd (wFmt i.w) (i.rnd k) (opBits (wFmt i.w) (i.a k)) (opBits (wFmt i.w) (i.b k))) t)) ∧
    (i.is 3 1 →
        (∃ t, exec (.fsub r) s = .next t ∧
          i.Retired i.drew (i.lanes fun k => fsub (wFmt i.w) (i.rnd k) (opBits (wFmt i.w) (i.a k)) (opBits (wFmt i.w) (i.b k))) t)) ∧
    (i.is 3 2 →
        (∃ t, exec (.fmul r) s = .next t ∧
          i.Retired i.drew (i.lanes fun k => fmul (wFmt i.w) (i.rnd k) (opBits (wFmt i.w) (i.a k)) (opBits (wFmt i.w) (i.b k))) t)) ∧
    (i.is 3 3 →
        (∃ t, exec (.ffma r) s = .next t ∧
          i.Retired i.drew (i.lanes fun k => ffma (wFmt i.w) (i.rnd k) (opBits (wFmt i.w) (i.a k)) (opBits (wFmt i.w) (i.b k)) (opBits (wFmt i.w) (i.g.vat (wVc i.w) k))) t)) ∧
    (i.is 3 4 →
        (∃ t, exec (.fdiv r) s = .next t ∧
          i.Retired i.drew (i.lanes fun k => fdiv (wFmt i.w) (i.rnd k) (opBits (wFmt i.w) (i.a k)) (opBits (wFmt i.w) (i.b k))) t)) ∧
    (i.is 3 5 →
        (∃ t, exec (.fsqrt r) s = .next t ∧
          i.Retired i.drew (i.lanes fun k => fsqrt (wFmt i.w) (i.rnd k) (opBits (wFmt i.w) (i.a k))) t)) ∧
    (i.is 3 6 →
        (∃ t, exec (.fmin r) s = .next t ∧
          i.Retired i.drew (i.lanes fun k => fminmax (wFmt i.w) false (opBits (wFmt i.w) (i.a k)) (opBits (wFmt i.w) (i.b k))) t)) ∧
    (i.is 3 7 →
        (∃ t, exec (.fmax r) s = .next t ∧
          i.Retired i.drew (i.lanes fun k => fminmax (wFmt i.w) true (opBits (wFmt i.w) (i.a k)) (opBits (wFmt i.w) (i.b k))) t)) ∧
    (i.is 3 8 →
        (∃ t, exec (.fabs r) s = .next t ∧
          i.Retired i.drew (i.lanes fun k => signOp (wFmt i.w) false (opBits (wFmt i.w) (i.a k))) t)) ∧
    (i.is 3 9 →
        (∃ t, exec (.fneg r) s = .next t ∧
          i.Retired i.drew (i.lanes fun k => signOp (wFmt i.w) true (opBits (wFmt i.w) (i.a k))) t)) ∧
    (i.is 3 10 →
        (∃ t, exec (.frcp r) s = .next t ∧
          i.Retired i.drew (i.lanes fun k => frcp (wFmt i.w) (opBits (wFmt i.w) (i.a k))) t)) ∧
    (i.is 3 11 →
        (∃ t, exec (.frsq r) s = .next t ∧
          i.Retired i.drew (i.lanes fun k => frsq (wFmt i.w) (opBits (wFmt i.w) (i.a k))) t)) ∧
    (i.is 3 12 →
        (∃ t, exec (.fexp2 r) s = .next t ∧
          i.Retired i.drew (i.lanes fun k => fexp2 (wFmt i.w) (opBits (wFmt i.w) (i.a k))) t)) ∧
    (i.is 3 13 →
        (∃ t, exec (.flog2 r) s = .next t ∧
          i.Retired i.drew (i.lanes fun k => flog2 (wFmt i.w) (opBits (wFmt i.w) (i.a k))) t)) ∧
    (i.is 3 14 → ∃ v : BitVec 64,
        (∀ k < 64, v.getLsbD k = (i.g.exec.getLsbD k && (fcmp (wFmt i.w) (wVc i.w) (opBits (wFmt i.w) (i.a k)) (opBits (wFmt i.w) (i.b k))).1)) ∧
        (∃ t, exec (.fcmp r) s = .next t ∧
          i.Retired i.s ((i.g.sput (wVd i.w) v).orFlags (orAll (i.g.active.map fun k => (fcmp (wFmt i.w) (wVc i.w) (opBits (wFmt i.w) (i.a k)) (opBits (wFmt i.w) (i.b k))).2))) t)) ∧
    (i.is 5 0 →
        (∃ t, exec (.cvt r) s = .next t ∧
          i.Retired (if 2 ≤ wSrc i.w ∨ 2 ≤ wFmt i.w then
            i.s.countElems i.g.cid i.g.active.length (clCount (i.g.active.map fun k => (i.cvt k).2)) else i.s) (i.lanes i.cvt) t)) ∧
    (i.is 5 1 →
        (∃ t, exec (.cvtI2f r) s = .next t ∧
          i.Retired i.drew (i.lanes fun k => i2f (wFmt i.w) (i.rnd k) (i.a k)) t)) ∧
    (i.is 5 2 →
        (∃ t, exec (.cvtF2i r) s = .next t ∧
          i.Retired i.s (i.lanes fun k => f2i (wSrc i.w) (i.cvtRnd k) (cvtBits (wSrc i.w) (i.a k))) t)) ∧
    (i.is 5 3 →
        (∃ t, exec (.vrand r) s = .next t ∧
          i.Retired i.s (i.g.vput (wZ i.w) (wVd i.w) fun k => ((i.gen k) >>> 32).setWidth 32) t)) ∧
    ((wRmode i.w ≠ 1 → i.drew = i.s ∧ ∀ k, i.rnd k = { mode := wRmode i.w }) ∧ (wRmode i.w = 1 → ∀ k, (i.rnd k).mode = 1))

/-- A magnitude m rounded to a multiple of 2^sh: an exact one is kept and not inexact; otherwise it is inexact, and RNE takes the nearest multiple,
of two equally near ones the even; the stochastic mode takes the next multiple when the draw is less than the fraction times 2^16, rounded
down, and else the lower one; toward zero takes the lower one (R138, R140). -/
def Obligations.RoundingFollowsTheMode : Prop :=
  ∀ (r : Rnd) (m sh : Nat),
    (m % 2 ^ sh = 0 → roundSh r m sh = (m / 2 ^ sh, false)) ∧
    (m % 2 ^ sh ≠ 0 → ∃ n, roundSh r m sh = (n, true) ∧
      (r.mode = 0 → 2 * m ≤ (2 * n + 1) * 2 ^ sh ∧ (2 * n - 1) * 2 ^ sh ≤ 2 * m ∧
        (2 * (m % 2 ^ sh) = 2 ^ sh → n % 2 = 0)) ∧
      (r.mode = 1 → n = m / 2 ^ sh + if r.draw < m % 2 ^ sh * 65536 / 2 ^ sh then 1 else 0) ∧
      (r.mode = 2 → n = m / 2 ^ sh))

/-- In F32 and F16, whenever addition, subtraction, multiplication, fused multiply-add, division, square root, minimum, maximum or an F32 to F16 or F16 to F32
conversion delivers a NaN, it is the canonical quiet NaN of the destination format (R133), where FMIN and FMAX return the other operand when just
one is a NaN (R396). -/
def Obligations.NaNResultsAreCanonical : Prop :=
  ∀ (code : Nat) (r : Rnd) (a b c : Nat), code < 2 → r.mode < 3 →
    (((ffmt code).dec (fadd code r a b).1).isNan = true → (fadd code r a b).1 = (ffmt code).qnan) ∧
    (((ffmt code).dec (fsub code r a b).1).isNan = true → (fsub code r a b).1 = (ffmt code).qnan) ∧
    (((ffmt code).dec (fmul code r a b).1).isNan = true → (fmul code r a b).1 = (ffmt code).qnan) ∧
    (((ffmt code).dec (ffma code r a b c).1).isNan = true → (ffma code r a b c).1 = (ffmt code).qnan) ∧
    (((ffmt code).dec (fdiv code r a b).1).isNan = true → (fdiv code r a b).1 = (ffmt code).qnan) ∧
    (((ffmt code).dec (fsqrt code r a).1).isNan = true → (fsqrt code r a).1 = (ffmt code).qnan) ∧
    (∀ wantMax, ((ffmt code).dec (fminmax code wantMax a b).1).isNan = true → (fminmax code wantMax a b).1 = (ffmt code).qnan) ∧
    (∀ dst < 2, ((ffmt dst).dec (convF code a dst r 0).1).isNan = true → (convF code a dst r 0).1 = (ffmt dst).qnan) ∧
    (ffmt 0).qnan = 0x7FC00000 ∧ (ffmt 1).qnan = 0x7E00

/-- At a group whose next instruction is LD, ST or PREF (R401): when no active thread's access faults, no loaded byte is poisoned, and no store meets a
registered table's page or another unit's provisional copy, the instruction completes and retires. LD writes the active threads' registers with
the values that its accesses found, extended as R406 says; ST lays each active thread's bytes at its place in thread order and makes
progress; PREF writes no register and no memory byte, whatever faults. Beside the group, memory accesses change only the caches, buffers, the
Depot, memory and the counters that `State.MemFrame` names. Effective addresses are those of R402. -/
def Obligations.LoadsAndStores : Prop :=
  ∀ (s : State) (r : GroupRef) (i : Issue), s.issue? r = some i →
    (i.is 7 0 → ∀ a l, a = i.accs false false (2 ^ wSize i.w) (wOffs i.w) → l = a.st.loadAll i (2 ^ wSize i.w) (wCh i.w) a.ok →
        a.bad = [] → l.2.1 = [] →
        (∃ t, exec (.ld r) s = .next t ∧ i.s.MemFrame l.2.2 ∧
          i.Retired l.2.2 (i.putRegs (wVd i.w) (sizeRegs (wSize i.w)) (l.1.map fun v => (v.1, loadRegs (wSize i.w) (wSx i.w) v.2))) t)) ∧
    (i.is 7 1 → ∀ a, a = i.accs true false (2 ^ wSize i.w) (wOffs i.w) → a.bad = [] →
        (∀ x ∈ a.ok, a.st.guardedBy x.pa (2 ^ wSize i.w) = none ∧
          a.st.hstoreWaits r.hearth i.g.cid i.c x.attr (wCh i.w) x.pa (2 ^ wSize i.w) = false) →
        (∃ u t, exec (.st r) s = .next t ∧ i.s.MemFrame u ∧
          u = a.ok.foldl (fun s x => s.hstore r i.g.cid i.c x.attr (wCh i.w) x.pa (i.storeBytes x.t)) (a.st.noWait r) ∧
          i.Retired u { i.g with progressAt := s.time } t)) ∧
    (i.is 7 2 →
        (∃ u t, exec (.pref r) s = .next t ∧ i.s.MemFrame u ∧ u.mem = i.s.mem ∧ i.Retired u i.g t)) ∧
    (∀ (t : Nat) (offs : Int),
        (wMode i.w = false → (i.g.addr i.w t offs : Int) =
          (((i.g.vreg (wVa i.w + 1) t).toNat * 2 ^ 32 + (i.g.vreg (wVa i.w) t).toNat : Int) + offs) % 2 ^ 64) ∧
        (wMode i.w = true → (i.g.addr i.w t offs : Int) =
          (((i.g.sreg (wSbase i.w)).toNat : Int) + (i.g.vreg (wVa i.w) t).toInt + offs) % 2 ^ 64))

/-- After an ST that does not fault, every byte of stack memory, host memory and the pool reads as before, except the bytes that its active threads
store to, at the places its translation gives them, and bytes that already waited in its Hearth's combining buffer and drain (R527). -/
def Obligations.StoresReachMemoryOnlyAtTheirAddresses : Prop :=
  ∀ (s t : State) (r : GroupRef) (i : Issue) (a : Accs) (sp : Space) (q : Nat), s.issue? r = some i → i.is 7 1 →
    a = i.accs true false (2 ^ wSize i.w) (wOffs i.w) → a.bad = [] → exec (.st r) s = .next t →
    (∀ x ∈ a.ok, a.st.guardedBy x.pa (2 ^ wSize i.w) = none) →
    (∀ x ∈ a.ok, x.pa.space = sp → q < x.pa.addr ∨ x.pa.addr + 2 ^ wSize i.w ≤ q) →
    (∀ e ∈ (s.hearth r.hearth).wc, e.pa.space = sp → ∀ b ∈ e.bytes, e.pa.addr + b.1 ≠ q) →
    cellGet (t.mem.cells sp) q = cellGet (s.mem.cells sp) q

/-- At a group whose next instruction is LDS or STS (R409): when every active thread's access lies in the block's LS_BYTES and is aligned, the instruction
completes and retires; LDS writes the active threads' registers from the block's local store, STS lays the active threads' bytes there in
thread order, leaves every byte outside them and every other block as it was, and makes progress. When some active thread's access is
negative or reaches LS_BYTES, or is misaligned, the instruction faults precisely with 0x0405 or 0x040A of the lowest such thread and
the mask of all of them, and moves no byte (R410). -/
def Obligations.LocalStoreAccesses : Prop :=
  ∀ (s : State) (r : GroupRef) (i : Issue), s.issue? r = some i →
    (i.is 8 0 → (∀ t ∈ i.g.active, i.lsFault (2 ^ wSize i.w) t = none) →
        (∃ t, exec (.lds r) s = .next t ∧ i.Retired i.s (i.putRegs (wVd i.w) (sizeRegs (wSize i.w)) (i.g.active.map fun k =>
          (k, loadRegs (wSize i.w) (wSx i.w)
            (leNat (cellsGet (i.s.blockOf i.g).ls (i.g.lsAddr i.w k).toNat (2 ^ wSize i.w)))))) t)) ∧
    (i.is 8 1 → (∀ t ∈ i.g.active, i.lsFault (2 ^ wSize i.w) t = none) →
        (∃ t, exec (.sts r) s = .next t ∧
          i.Retired { i.s with hearths := { i.s.hearths with blocks := i.s.hearths.blocks.map fun b =>
            if b.cid = i.g.cid ∧ b.block = i.g.block then
              { b with ls := i.g.active.foldl (fun m k => cellsSet m (i.g.lsAddr i.w k).toNat (i.storeBytes k)) b.ls }
            else b } } { i.g with progressAt := s.time } t)) ∧
    (i.is 8 1 → ∀ (l : List Nat) (m : List Host.Cell) (q : Nat), (∀ k ∈ l, 0 ≤ i.g.lsAddr i.w k) →
        (∀ k ∈ l, (q : Int) < i.g.lsAddr i.w k ∨ i.g.lsAddr i.w k + 2 ^ wSize i.w ≤ q) →
        cellGet (l.foldl (fun m k => cellsSet m (i.g.lsAddr i.w k).toNat (i.storeBytes k)) m) q = cellGet m q) ∧
    (∀ (n t : Nat), (i.lsFault n t = none ↔
        0 ≤ i.g.lsAddr i.w t ∧ i.g.lsAddr i.w t + n ≤ lnLs i.c ∧ i.g.lsAddr i.w t % n = 0)) ∧
    (∀ k rest, (i.g.active.filter fun t => (i.lsFault (2 ^ wSize i.w) t).isSome) = k :: rest →
        ∀ c, (i.is 8 0 ∧ c = .lds r ∨ i.is 8 1 ∧ c = .sts r) → exec c s = .next (i.s.groupFault r { i.g with pc := i.g.pc - 8 }
          (if i.g.lsAddr i.w k < 0 ∨ (lnLs i.c : Int) < i.g.lsAddr i.w k + 2 ^ wSize i.w then 0x405 else 0x40A)
          (threadMask (k :: rest)) (ofS 64 (i.g.lsAddr i.w k)) none))

/-- At a group whose next instruction is a Depot atomic (R412): when no active thread's access faults, none meets a registered table's page or
another unit's provisional copy, and no word is poisoned, the instruction completes and retires: its threads' read-modify-writes are made
in ascending thread order with the row's new value of the word, VB and VC; with RET = 1 each active thread's VD holds the word just before
its own operation, with RET = 0 no register changes (R415, R416). What each operation reads is the word that its commit unit sees at the
Depot. Beside the group only what `State.MemFrame` names changes. -/
def Obligations.DepotAtomics : Prop :=
  ∀ (s : State) (r : GroupRef) (i : Issue), s.issue? r = some i →
    (i.is 9 0 → i.AtomicDone s r (.atomAdd r) fun _ m b _ => m + b) ∧
    (i.is 9 1 → i.AtomicDone s r (.atomAnd r) fun _ m b _ => m &&& b) ∧
    (i.is 9 2 → i.AtomicDone s r (.atomOr r) fun _ m b _ => m ||| b) ∧
    (i.is 9 3 → i.AtomicDone s r (.atomXor r) fun _ m b _ => m ^^^ b) ∧
    (i.is 9 4 → i.AtomicDone s r (.atomMinS r) fun n m b _ => if toS (8 * n) m ≤ toS (8 * n) b then m else b) ∧
    (i.is 9 5 → i.AtomicDone s r (.atomMaxS r) fun n m b _ => if toS (8 * n) m ≤ toS (8 * n) b then b else m) ∧
    (i.is 9 6 → i.AtomicDone s r (.atomMinU r) fun _ m b _ => min m b) ∧
    (i.is 9 7 → i.AtomicDone s r (.atomMaxU r) fun _ m b _ => max m b) ∧
    (i.is 9 8 → i.AtomicDone s r (.atomExch r) fun _ _ b _ => b) ∧
    (i.is 9 9 → i.AtomicDone s r (.atomCas r) fun _ m b c => if m = c then b else m) ∧
    (i.is 9 10 → i.AtomicDone s r (.atomFadd r) fun _ m b _ => (fadd 0 rne m b).1) ∧
    (∀ (u : State) (f : Nat → Nat → Nat → Nat) (n : Nat) (x : Acc),
        (u.atomicOne i f n x).1 = leNat ((u.dropLine i.r.hearth i.g.cid x.pa).view (unitOf i.g.cid i.c) x.pa n))

/-- At a group whose next instruction is FENCE, BAR, NOP, EXIT, BRK or FLCLR, it completes. FENCE drains the group's combining entries; in Kindling and Banked a
scope of DEVICE or SYSTEM also flushes its command's L1 lines; in Service a FENCE of scope SYSTEM faults with 0x0403 (R417). BAR drains
likewise and leaves the group STALLED at the BAR (R420). NOP only advances; FLCLR clears the flags its mask names (R430). BRK in a
debug context records 0x040C and halts the group, under a Debug Step only retires, and in any other context faults with 0x0406 (R431). EXIT
ends the group: its slot is empty, it holds no Grate, tile or buffer entry, its flags join its command's, and with the last of its command on the
Hearth the command's L1 lines leave (R354, R534); no other group changes. -/
def Obligations.SyncAndSystemInstructions : Prop :=
  ∀ (s : State) (r : GroupRef) (i : Issue), s.issue? r = some i →
    (i.is 12 0 → ¬(s.dev = .service ∧ bits i.w 17 16 = 3) →
        (∃ u t, exec (.fence r) s = .next t ∧ i.s.MemFrame u ∧ i.Retired u i.g t ∧ (∀ e ∈ (t.hearth r.hearth).wc, e.grp ≠ r) ∧
          (s.dev ≠ .service → 2 ≤ bits i.w 17 16 → ∀ l ∈ (t.hearth r.hearth).l1, l.cid ≠ i.g.cid) ∧
          (s.dev = .service ∨ bits i.w 17 16 < 2 → (t.hearth r.hearth).l1 = (i.s.hearth r.hearth).l1 ∧ t.depot = i.s.depot))) ∧
    (i.is 12 0 → s.dev = .service → bits i.w 17 16 = 3 →
        exec (.fence r) s = .next (i.s.groupFault r { i.g with pc := i.g.pc - 8 } 0x403 0 0 none)) ∧
    (i.is 12 1 →
        (∃ u t, exec (.bar r) s = .next t ∧ i.s.MemFrame u ∧ i.Held u { i.g with pc := i.g.pc - 8, atBar := true } t ∧
          (∀ e ∈ (t.hearth r.hearth).wc, e.grp ≠ r))) ∧
    (i.is 13 0 → (∃ t, exec (.nop r) s = .next t ∧ i.Retired i.s i.g t)) ∧
    (i.is 13 3 →
        (∃ t, exec (.flclr r) s = .next t ∧ i.Retired i.s { i.g with flags := i.g.flags &&& ~~~BitVec.ofNat 7 (bits i.w 38 32) } t)) ∧
    (i.is 13 2 → i.x.debug = true → i.g.stepping = false →
        (∃ t, exec (.brk r) s = .next t ∧ i.Retired (i.s.raise {
            code := 0x40C, ctx := some i.c.ctx, cmdId := i.c.cmdId, dkind := 1
            detail := groupDetail r { i.g with pc := i.g.pc - 8 } i.g.exec.toNat (bits i.w 47 32) none })
          { i.g with st := .halted, haltedAt := s.time } t)) ∧
    (i.is 13 2 → i.x.debug = true → i.g.stepping = true → (∃ t, exec (.brk r) s = .next t ∧ i.Retired i.s i.g t)) ∧
    (i.is 13 2 → i.x.debug = false →
        exec (.brk r) s = .next (i.s.groupFault r { i.g with pc := i.g.pc - 8 } 0x406 0 0 none)) ∧
    (i.is 13 1 → (i.s.lastOn r i.g && i.s.flushConflict r.hearth i.g.cid) = false →
        (∃ t, exec (.exit r) s = .next t ∧ (∀ k, mapGet t.hearths.groups k = if k = gkey r then none else mapGet s.hearths.groups k) ∧
          (t.hearth r.hearth).issued = (s.hearth r.hearth).issued + 1 ∧
          (∀ e ∈ (t.hearth r.hearth).wc, e.grp ≠ r) ∧ (∀ b ∈ (t.hearth r.hearth).grates, b.bound ≠ some r) ∧
          (∀ f ∈ (t.hearth r.hearth).flue, f.grp ≠ r) ∧ (∀ f ∈ (t.hearth r.hearth).trv, f.grp ≠ r) ∧
          (i.s.lastOn r i.g = true → ∀ l ∈ (t.hearth r.hearth).l1, l.cid ≠ i.g.cid) ∧
          (∀ c, t.cmd? i.g.cid = some c → c.flags = i.c.flags ||| i.g.flags)))

/-- When every group of a block that is not DONE waits at its BAR, BAR_RELEASE makes each of them leave it: READY (HALTED when stepped or halted), its program
counter past the BAR; no group of another block changes, and nothing else but the debug commands that stepped them. When some group of the
block does not wait at its BAR, nothing changes (R420). -/
def Obligations.BarReleasesWholeBlocks : Prop :=
  ∀ (s : State) (g : GroupRef) (x : Group), s.live = true → s.group? g = some x →
    ((∀ p ∈ s.hearths.groups, p.2.cid = x.cid → p.2.block = x.block → p.2.atBar = true) →
      ∃ t, exec (.barRelease g) s = .next t ∧
        (∀ k, mapGet t.hearths.groups k = (mapGet s.hearths.groups k).map fun p =>
          if p.cid = x.cid ∧ p.block = x.block then
            { p with
              atBar := false, pc := p.pc + 8, st := if p.stepping || p.st == .halted then .halted else .ready, stepping := false
              readyAt := s.time, haltedAt := if p.stepping then s.time else p.haltedAt }
          else p) ∧
        t = { s with hearths := { s.hearths with groups := t.hearths.groups }, stk := { s.stk with cmds := t.stk.cmds } }) ∧
    ((∃ p ∈ s.hearths.groups, p.2.cid = x.cid ∧ p.2.block = x.block ∧ p.2.atBar = false) → exec (.barRelease g) s = .next s)

/-- Element (m, n) of an F32, F16, E8, Q8 or Q4 tile in the registers from VBASE is the part that the table of R437 gives it of the register of
thread 2m + n // 16: F32 takes the whole of register VBASE + n mod 16, F16 a half of register VBASE + n mod 16 // 2, E8 and Q8 a byte, Q4 four
bits, the lower column first. Writing an F32 or F16 tile puts element (m, n) at that same place, and changes no register outside the tile's.
Element (m, n) of a product tile is s_32, where s_0 = +0 and s_(k+1) is s_k + A[m][k] × W[k][n] rounded once to F32 by RNE, in ascending k
(R442). -/
def Obligations.TileLayoutAndProduct : Prop :=
  ∀ (g : Group) (base m n : Nat), m < 32 → n < 32 →
    (g.tileAt base 0 m n = (g.vreg (base + n % 16) (2 * m + n / 16)).toNat) ∧
    (g.tileAt base 1 m n = ((g.vreg (base + n % 16 / 2) (2 * m + n / 16)).extractLsb' (16 * (n % 2)) 16).toNat) ∧
    (∀ fmt, fmt = 2 ∨ fmt = 3 →
      g.tileAt base fmt m n = ((g.vreg (base + n % 16 / 4) (2 * m + n / 16)).extractLsb' (8 * (n % 4)) 8).toNat) ∧
    (g.tileAt base 4 m n = ((g.vreg (base + n % 16 / 8) (2 * m + n / 16)).extractLsb' (4 * (n % 8)) 4).toNat) ∧
    (∀ els : List Nat, (∀ e ∈ els, e < 2 ^ 32) → (g.putTile base 0 els).tileAt base 0 m n = els.getD (32 * m + n) 0) ∧
    (∀ els : List Nat, (∀ e ∈ els, e < 2 ^ 16) → (g.putTile base 1 els).tileAt base 1 m n = els.getD (32 * m + n) 0) ∧
    (∀ (els : List Nat) (k t : Nat), (k < base ∨ base + 16 ≤ k) → (g.putTile base 0 els).vreg k t = g.vreg k t) ∧
    (∀ (els : List Nat) (k t : Nat), (k < base ∨ base + 8 ≤ k) → (g.putTile base 1 els).vreg k t = g.vreg k t) ∧
    (∀ a w : List Nat, a.length = 1024 → w.length = 1024 → (tileProduct a w).getD (32 * m + n) 0 =
      (List.range 32).foldl (fun c k => (ffma 0 rne (a.getD (32 * m + k) 0) (w.getD (32 * k + n) 0) c).1) 0)

/-- At a group whose next instruction is of class 0xA (R421): GBIND of a group that holds no Grate waits STALLED, behind the binds already waiting on its
Hearth (R422). GFREE of Grates that the group holds, once every earlier FLUE of its on them has accumulated, releases them (R423). GWLD puts its
tile and format in the load register of every Grate of its mask, once every earlier FLUE of its on them has taken its weights (R425, R428).
FLUE, whose widened format is that of the weights loaded, puts its tile in the Flue behind the others (R448). GRD, once every earlier FLUE
of its on the Grate has accumulated, writes the accumulator, as F32 or rounded to F16 by RNE with the flags of R157 and R444 (an accumulator that
nothing has defined since the bind reads as free values, log entry 5). The tile of GWLD and FLUE is the registers' for F32 and F16; for E8,
Q8 and Q4 it is widened with the two scale entries of the 16 bytes at S[SA], as read through the group's translations. Without
the Grates named, with a Grate already held at a GBIND, or with a FLUE of another format, the instruction faults with 0x040B (R424). -/
def Obligations.GrateInstructions : Prop :=
  ∀ (s : State) (r : GroupRef) (i : Issue), s.issue? r = some i →
    (i.is 10 0 → i.g.bound = 0 → (∃ t, exec (.gbind r) s = .next t ∧
        i.Held (i.s.mHearth r.hearth fun u => { u with binds := u.binds ++ [r] })
          { i.g with pc := i.g.pc - 8, binding := some i.gmask, progressAt := s.time } t)) ∧
    (i.is 10 1 → i.g.bound &&& i.gmask = i.gmask →
        (∀ o ∈ (i.s.hearth r.hearth).flue, o.grp = r → ∀ k < 4, o.mask.getLsbD k → i.gmask.getLsbD k → o.doneG.getLsbD k) →
        (∃ t, exec (.gfree r) s = .next t ∧
          i.Retired (i.s.mHearth r.hearth fun u => { u with grates := u.grates.mapIdx fun k x => if i.gmask.getLsbD k then {} else x })
            { i.g with bound := i.g.bound &&& ~~~i.gmask, progressAt := s.time } t)) ∧
    (i.is 10 2 → i.g.bound &&& i.gmask = i.gmask →
        (∀ o ∈ (i.s.hearth r.hearth).flue, o.grp = r → o.mask &&& i.gmask ≠ 0 → o.streaming = true) →
        ∀ els u, (∀ body : List Nat → State → Did, i.readTile body = body els u) →
        (∃ t, exec (.gwld r) s = .next t ∧
          i.Retired (u.mHearth r.hearth fun h => { h with
              grates := h.grates.mapIdx fun k x =>
                if i.gmask.getLsbD k then { x with loadReg := els.map (BitVec.ofNat 32), loadF32 := decide (wGfmt i.w = 0) } else x })
            { i.g with progressAt := s.time } t)) ∧
    (i.is 10 3 → i.g.bound &&& i.gmask = i.gmask →
        (∀ k < 4, i.gmask.getLsbD k → ∀ x, x = (i.s.hearth r.hearth).grates.getD k {} → x.loadReg = [] ∨ x.loadF32 = decide (wGfmt i.w = 0)) →
        ∀ els u, (∀ body : List Nat → State → Did, i.readTile body = body els u) →
        (∃ t, exec (.flue r) s = .next t ∧
          i.Retired (u.mHearth r.hearth fun h => { h with flue := if i.gmask = 0 then h.flue else h.flue ++
              [{ grp := r, cid := i.g.cid, mask := i.gmask, accum := wAcc i.w, f32 := decide (wGfmt i.w = 0)
                 act := els.map (BitVec.ofNat 32) }] })
            { i.g with progressAt := s.time } t)) ∧
    (i.is 10 4 → i.g.bound &&& i.gmask = i.gmask → ∀ k a, gratesOf i.gmask = [k] → a = i.s.accOf r.hearth k →
        (∀ o ∈ (i.s.hearth r.hearth).flue, o.grp = r → o.mask.getLsbD k → o.doneG.getLsbD k) →
        (wOut16 i.w = false → (∃ t, exec (.grd r) s = .next t ∧
          i.Retired a.2 (((i.g.putTile (wVd i.w) 0 (a.1.map (·.toNat))).orFlags
            (flIf (a.1.any fun v => nonfinite 0 v.toNat) flNF)).progress s.time) t)) ∧
        (wOut16 i.w = true → ∀ (out : List (Nat × Nat)), out = a.1.map (fun v => convF 0 v.toNat 1 rne 0) → (∃ t, exec (.grd r) s = .next t ∧
          i.Retired a.2 (((i.g.putTile (wVd i.w) 1 (out.map (·.1))).orFlags
            ((orAll (out.map (·.2)) &&& (flOF ||| flUF ||| flNX)) ||| flIf (out.any fun e => nonfinite 1 e.1) flNF)).progress s.time) t)) ∧
        ((((i.s.hearth r.hearth).grates.getD k {}).acc ≠ [] →
          a = (((i.s.hearth r.hearth).grates.getD k {}).acc, i.s)))) ∧
    (wGfmt i.w < 2 → ∀ body : List Nat → State → Did, i.readTile body = body (i.g.tile (wVd i.w) (wGfmt i.w)) i.s) ∧
    (2 ≤ wGfmt i.w → ∀ a x rest l w, a = ({ st := i.s } : Accs).add i false false 16 0 (i.g.sget (wGsa i.w)) → a.bad = [] → a.ok = x :: rest →
        l = a.st.load r i.g.cid i.c x.attr 0 x.pa 16 → l.bad = false →
        w = widenTile (wGfmt i.w) [Scale.ofNat (fld l.data 0 8), Scale.ofNat (fld l.data 8 8)] (i.g.tile (wVd i.w) (wGfmt i.w)) →
        i.s.MemFrame l.st ∧ ∀ body : List Nat → State → Did, i.readTile body = body w.1 (l.st.countElems i.g.cid 1024 w.2)) ∧
    (i.is 10 0 → i.g.bound ≠ 0 →
        exec (.gbind r) s = .next (i.s.groupFault r { i.g with pc := i.g.pc - 8 } 0x40B i.g.exec.toNat 0 none)) ∧
    (∀ c, (i.is 10 1 ∧ c = .gfree r ∨ i.is 10 2 ∧ c = .gwld r ∨ i.is 10 3 ∧ c = .flue r ∨ i.is 10 4 ∧ c = .grd r) →
        i.g.bound &&& i.gmask ≠ i.gmask →
        exec c s = .next (i.s.groupFault r { i.g with pc := i.g.pc - 8 } 0x40B i.g.exec.toNat 0 none))

/-- Of the binds waiting on a Hearth (their groups in distinct slots), GBIND_GRANT grants the first when each of its Grates is bound to no group: its group
holds them all, past its GBIND, and each Grate is bound to it with weights and accumulator undefined. A bind one of whose Grates is bound stays waiting and its group
is unchanged; so does a later bind that names one of that bind's Grates, though its own Grates be free (R422). Nothing but the Hearth's Grates and binds, the
groups, and the debug commands that stepped them changes. -/
def Obligations.BindsAreGrantedInOrder : Prop :=
  ∀ (s : State) (h : Nat), s.live = true → (((s.hearth h).binds.map gkey).Nodup) →
    ∃ t, exec (.gbindGrant h) s = .next t ∧
      (t = { s with hearths := { s.hearths with logical := t.hearths.logical, groups := t.hearths.groups }, stk := { s.stk with cmds := t.stk.cmds } }) ∧
      (∀ k, k ≠ h → t.hearth k = s.hearth k) ∧
      (t.hearth h = { s.hearth h with grates := (t.hearth h).grates, binds := (t.hearth h).binds }) ∧
      (∀ r rest g m, (s.hearth h).binds = r :: rest → s.group? r = some g → m = g.binding.getD 0 →
        (∀ k < 4, m.getLsbD k → ((s.hearth h).grates.getD k {}).bound = none) →
        r ∉ (t.hearth h).binds ∧ t.group? r = some ({ g with bound := m, binding := none, pc := g.pc + 8 }.rest s.time) ∧
        (∀ k < 4, m.getLsbD k → k < (s.hearth h).grates.length → (t.hearth h).grates.getD k {} = { bound := some r })) ∧
      (∀ r ∈ (s.hearth h).binds, ∀ g, s.group? r = some g →
        (∃ k < 4, (g.binding.getD 0).getLsbD k ∧ ((s.hearth h).grates.getD k {}).bound ≠ none) →
        r ∈ (t.hearth h).binds ∧ t.group? r = some g ∧
        (∀ pre mid post r2 g2, (s.hearth h).binds = pre ++ r :: mid ++ r2 :: post → s.group? r2 = some g2 →
          g.binding.getD 0 &&& g2.binding.getD 0 ≠ 0 → r2 ∈ (t.hearth h).binds ∧ t.group? r2 = some g2))

/-- FLUE_STREAM_START starts the oldest FLUE that has not begun, when no tile waits for a re-run, fewer than eight FLUEs stream (R450) and every Grate it
names is served: it takes the weights in each named Grate's load register (R446), and no other FLUE and no Grate changes. TILE_CHECK of a
passing tile, every earlier FLUE on that Grate being applied, sets the accumulator to the product for ACC = 0 and adds it element by element rounded
once for ACC = 1, counts the tile, and lets the FLUE go when all its Grates are done (R443). A failing row on a Grate without a strike raises 0x0501, counts a mismatch,
strikes the physical Grate that ran it and leaves the tile waiting for its re-run (R459, R461). GRATE_RERUN gives a waiting tile to its partner. A tile
that no Grate can serve raises 0x0503 against its context (R463). A correctable Grate error is counted; an uncorrectable one
raises 0x0504 and tears down the context of the group that holds the Grate (R468). -/
def Obligations.FlueAndTileCheck : Prop :=
  ∀ (s : State) (h idx k : Nat) (o : FlueOp), s.live = true → idx < (s.hearth h).flue.length → o = (s.hearth h).flue.getD idx {} →
    (o.streaming = false → (∀ n < idx, ((s.hearth h).flue.getD n {}).streaming = true) →
        (∀ x ∈ (s.hearth h).flue, x.failedG = []) → ((s.hearth h).flue.filter (·.streaming)).length < 8 →
        ((∀ n < 4, o.mask.getLsbD n → s.servedBy h n ≠ none) → ∃ t x, exec (.flueStreamStart h) s = .next t ∧
          (t.hearth h).flue = (s.hearth h).flue.set idx x ∧ (t.hearth h).grates = (s.hearth h).grates ∧
          x = { o with streaming := true, wts := x.wts, tried := x.tried, runs := x.runs } ∧
          (∀ n < 4, o.mask.getLsbD n → ((s.hearth h).grates.getD n {}).loadReg ≠ [] →
            x.wts.getD n [] = ((s.hearth h).grates.getD n {}).loadReg) ∧
          (∀ n, n ≠ h → t.hearth n = s.hearth n) ∧
          t = { s with hearths := { s.hearths with logical := t.hearths.logical, freeCount := t.hearths.freeCount } }) ∧
        ((∃ n < 4, o.mask.getLsbD n ∧ s.servedBy h n = none) → ∀ c, s.cmd? o.cid = some c →
          exec (.flueStreamStart h) s = .next ((s.mHearth h fun u => { u with unverifiable := u.unverifiable + 1 }).tearCmd c
            { code := 0x503, detail := detGrate h (s.hearth h).phys 0 0 0 }))) ∧
    (k < 4 → k < (s.hearth h).grates.length → o.streaming = true → o.mask.getLsbD k = true → o.doneG.getLsbD k = false → k ∉ o.failedG →
        ∀ ops prod, ops = o.operands k → prod = tileProduct ops.1 ops.2 →
        (∀ (x : Grate) (acc : List Nat), x = (s.hearth h).grates.getD k {} →
          (o.accum = false ∧ acc = prod ∨
            o.accum = true ∧ x.acc ≠ [] ∧ acc = (x.acc.map (·.toNat)).zipWith (fun c p => (fadd 0 rne c p).1) prod) →
          (∀ n < idx, ((s.hearth h).flue.getD n {}).mask.getLsbD k → ((s.hearth h).flue.getD n {}).doneG.getLsbD k) →
          ∃ t, exec (.tileCheck h idx k none) s = .next t ∧
            t.hearth h = { s.hearth h with
              tiles := (s.hearth h).tiles + 1, grates := (s.hearth h).grates.set k { x with acc := acc.map (BitVec.ofNat 32) }
              unchecked := (s.hearth h).unchecked +
                BitVec.ofNat 32 ((List.range 32).filter (rowUnchecked ops.1 ops.2 prod)).length
              flue := if o.mask &&& ~~~(o.doneG ||| BitVec.ofNat 4 (2 ^ k)) = 0 then (s.hearth h).flue.eraseIdx idx
                else (s.hearth h).flue.set idx { o with doneG := o.doneG ||| BitVec.ofNat 4 (2 ^ k) } } ∧
            (∀ n, n ≠ h → t.hearth n = s.hearth n) ∧
            t = { s with hearths := { s.hearths with logical := t.hearths.logical }, chm := { s.chm with val := t.chm.val } }) ∧
        (∀ row p q o', row < 32 → rowUnchecked ops.1 ops.2 prod row = false → p = o.runner k → q = (s.hearth h).phys →
          mapGet (s.phys q).strikes p = none → nth o.runs k < 3 → o' = { o with failedG := o.failedG ++ [k] } → s.partner h k o ≠ none →
          exec (.tileCheck h idx k (some row)) s = .next (((s.mHearth h fun u => { u with
              flue := u.flue.set idx o', mismatch := u.mismatch + 1 }).raise
                { code := 0x501, cmdId := ((s.cmd? o.cid).map (·.cmdId)).getD 0, detail := detGrate h q p row (nth o.runs k) }).mPhys q
              fun x => { x with strikes := mapSet x.strikes p s.time }))) ∧
    (k ∈ o.failedG → ∀ p, s.partner h k o = some p →
        exec (.grateRerun h idx k) s = .next (s.mHearth h fun u => { u with
          rerun := u.rerun + 1
          flue := u.flue.set idx { o with
            failedG := o.failedG.filter (· != k), tried := (4 * k + p) :: o.tried, runs := setNth o.runs k (nth o.runs k + 1) } })) ∧
    (exec (.grateStateEccError h k true) s = .next (s.mHearth h fun u => { u with eccCorrected := u.eccCorrected + 1 })) ∧
    (∀ r g c, ((s.hearth h).grates.getD k {}).bound = some r → s.group? r = some g → s.cmd? g.cid = some c →
        exec (.grateStateEccError h k false) s = .next (s.tearCmd c
          { code := 0x504, detail := detGrate h (s.hearth h).phys ((s.servedBy h k).getD k) 0 0 }))

/-- At a group whose next instruction is of class 0xB (R429): element (m, n) of its result is the row's function of element (m, n) of the tile at VBASE and
of the element that R474 names of the operand at VAUX; the tile joins the Trivet's order with the flags NV, OF, UF and NX of all its elements, and
the instruction retires (a stepped group holds until its tile is written). TRIVET_TILE_START takes the oldest tile of a Burner: its result is written to the registers from its
VBASE and its flags join the group's, one tile is counted. TRIVET_PARITY_ERROR drops it, counts it, and tears its context down with 0x0A10
(R483). -/
def Obligations.TrivetInstructions : Prop :=
  (∀ (s : State) (r : GroupRef) (i : Issue), s.issue? r = some i →
    ∀ e ∈ ([(0, Instr.tadd, fun x y => fadd 1 rne x y), (1, Instr.tsub, fun x y => fsub 1 rne x y), (2, Instr.tmul, fun x y => fmul 1 rne x y),
        (3, Instr.tmax, fun x y => fminmax 1 true x y), (4, Instr.tmin, fun x y => fminmax 1 false x y), (5, Instr.trelu, fun x _ => reluOp x),
        (6, Instr.texp2, fun x _ => fexp2 1 x)] : List (Nat × (GroupRef → Instr) × (Nat → Nat → Nat × Nat))),
      i.is 11 e.1 → ∀ (els : List (Nat × Nat)) (u : State), (∀ m < 32, ∀ n < 32, els.getD (32 * m + n) (0, 0) = e.2.2 (i.g.tileAt (wVd i.w) 1 m n)
          (if wBcast i.w = 0 then i.g.tileAt (wVc i.w) 1 m n
           else if wBcast i.w = 1 then i.g.tileAt (wVc i.w) 1 0 n
           else (i.g.vreg (wVc i.w) (2 * m)).toNat % 2 ^ 16)) → els.length = 1024 →
        u = (i.s.mHearth r.hearth fun h => { h with trv := h.trv ++ [{
          grp := r, cid := i.g.cid, vbase := wVd i.w, res := els.map fun x => BitVec.ofNat 16 x.1
          flags := BitVec.ofNat 7 (orAll (els.map (·.2)) &&& (flNV ||| flOF ||| flUF ||| flNX)) }] }) →
        (i.g.stepping = false → ∃ t, exec (e.2.1 r) s = .next t ∧ i.Retired u { i.g with progressAt := s.time } t) ∧
        (i.g.stepping = true → ∃ t, exec (e.2.1 r) s = .next t ∧ i.Held u { i.g with progressAt := s.time } t)) ∧
  (∀ (s : State) (h b : Nat) (o : TrvOp), s.live = true → s.trvHead h b = some o →
    (∀ g, s.group? o.grp = some g → g.stepping = false → ∃ t, exec (.trivetTileStart h b) s = .next t ∧
      t.hearth h = { s.hearth h with trv := (s.hearth h).trv.erase o, trvTiles := (s.hearth h).trvTiles + 1 } ∧
      t.group? o.grp = some ((g.putTile o.vbase 1 (o.res.map (·.toNat))).orFlags o.flags.toNat) ∧
      (∀ k, k ≠ gkey o.grp → mapGet t.hearths.groups k = mapGet s.hearths.groups k) ∧
      (∀ k, k ≠ h → t.hearth k = s.hearth k) ∧
      t = { s with hearths := { s.hearths with logical := t.hearths.logical, groups := t.hearths.groups }, chm := { s.chm with val := t.chm.val } }) ∧
    (∀ c, s.cmd? o.cid = some c → exec (.trivetParityError h b) s = .next ((s.mHearth h fun u => { u with
      trv := u.trv.erase o, trvParity := u.trvParity + 1 }).tearCmd c { code := 0xA10 })))

/-- For every row of the Hearth's instruction set: where the group of the row cannot issue (its slot is empty, it is HALTED without a step, it waits at a
BAR or a GBIND, its command does not run, the part is not live), nothing changes. A fetch outside the code range or off an 8-byte boundary, and
an undefined encoding, fault with 0x0403; a vector register at or above REGS × 8 faults with 0x0404; a class 0xA or 0xB instruction under a
partial mask with 0x0401, in that order (R357, R359, R380 to R384; the order is the model's reading, log entry 9). A fetched word that is
poisoned tears the context down with 0x0632. A defined instruction that another row names leaves the state unchanged, and one that waits
for a register that the Trivet still has to write leaves its group STALLED. -/
def Obligations.InstructionsThatDoNotIssue : Prop :=
  ∀ e ∈ isaTable, ∀ (s : State) (r : GroupRef),
    (s.canIssue r = none → exec (e.2.2 r) s = .next s) ∧
    (∀ g c x, s.canIssue r = some (g, c, x) →
      (s.fetchWord r g c = none → exec (e.2.2 r) s = .next (s.groupFault r g 0x403 0 0 none)) ∧
      (g.pc.toNat % 8 ≠ 0 ∨ g.pc.toNat < lnCode c ∨ lnCode c + lnCodeLen c < g.pc.toNat + 8 → s.fetchWord r g c = none) ∧
      (∀ w s1, s.fetchWord r g c = some (w, true, s1) → exec (e.2.2 r) s =
        .next (s1.tearCmd c { code := 0x632, dkind := 1, detail := groupDetail r g 0 g.pc.toNat none })) ∧
      (∀ w s1, s.fetchWord r g c = some (w, false, s1) →
        (legal w = false → exec (e.2.2 r) s = .next (s1.groupFault r g 0x403 0 0 none)) ∧
        (legal w = true → (wCls w, wFunc w) = (e.1, e.2.1) →
          ((∃ n ∈ regsOf w, g.regs * 8 ≤ n) → exec (e.2.2 r) s = .next (s1.groupFault r g 0x404 g.exec.toNat 0 none)) ∧
          ((∀ n ∈ regsOf w, n < g.regs * 8) → (e.1 = 10 ∨ e.1 = 11) → g.exec ≠ BitVec.allOnes 64 →
            exec (e.2.2 r) s = .next (s1.groupFault r g 0x401 g.exec.toNat 0 none)) ∧
          ((∀ n ∈ regsOf w, n < g.regs * 8) → ((e.1 = 10 ∨ e.1 = 11) → g.exec = BitVec.allOnes 64) → (∃ n ∈ regsOf w, n ∈ s.trvRegs r) →
            exec (e.2.2 r) s = .next (s.stallGroup r))) ∧
        (legal w = true → (∀ d ∈ isaTable, (wCls w, wFunc w) = (d.1, d.2.1) → d.2.2 r ≠ e.2.2 r) → exec (e.2.2 r) s = .next s)))

/-- A precise fault of a group reports its place, program counter, mask and address in its record (R360). A teardown of a live context (R687, R749) makes
one record, with containment 4, the next sequence number and the current tick, that each sink takes when it has room; sets DEAD; leaves no
command of the context but the two context manifests (R652), no group of a command it killed, and each waybill of the context DRAINING
without a lane; lets no byte of memory change; and keeps every other context's commands, groups and waybills. A context already DEAD is not
torn down twice: only the record is made (R361). -/
def Obligations.TeardownEndsItsContextOnly : Prop :=
  (∀ (s : State) (r : GroupRef) (g : Group) (c : Cmd) (mask addr : Nat) (level : Option Nat) (code : Nat), s.cmd? g.cid = some c →
    s.groupFault r g code mask addr level =
      (s.mHearth r.hearth fun u => { u with
        divergent := if code = 0x401 then u.divergent + 1 else u.divergent
        selfWait := if code = 0x402 then u.selfWait + 1 else u.selfWait }).tear c.ctx
          { code := code, dkind := 1, cmdId := c.cmdId
            detail := detHearth g.pc.toNat mask addr r.hearth r.burner r.slot g.group g.block level } ∨
    code ≠ 0x401 ∧ code ≠ 0x402 ∧ s.groupFault r g code mask addr level = s.tear c.ctx
          { code := code, dkind := 1, cmdId := c.cmdId
            detail := detHearth g.pc.toNat mask addr r.hearth r.burner r.slot g.group g.block level }) ∧
  (∀ (s t : State) (ctx : Nat) (rec r : FaultRec) (x : Ctx), s.ctx? ctx = some x → t = s.tear ctx rec →
    r = { rec with
      ctx := some ctx, sev := faultSev rec.code, contain := 4, tick := s.tck.num, fn := some (rec.fn.getD x.fn), seq := s.flt.nextSeq
      dkind := if rec.dkind = 0 then faultKind rec.code else rec.dkind, detail := padTo 32 rec.detail } →
    t.flt.nextSeq = s.flt.nextSeq + 1 ∧ t.mem = s.mem ∧
    t.flt.mgmtq = (if s.flt.mgmtq.length < 1024 then s.flt.mgmtq ++ [r] else s.flt.mgmtq) ∧
    t.flt.hostq = (if s.flt.hostStopped = false ∧ s.flt.hostq.length < 256 then s.flt.hostq ++ [r] else s.flt.hostq) ∧
    (x.dead = true → t.stk = s.stk ∧ t.ldg = s.ldg ∧ t.hearths = s.hearths) ∧
    (x.dead = false →
      (∃ y, t.ctx? ctx = some y ∧ y = { x with dead := true }) ∧
      (∀ p ∈ t.stk.cmds, p.2.ctx = ctx → p.2.opcode = 0x26 ∨ p.2.opcode = 0x27) ∧
      (∀ p ∈ s.stk.cmds, p.2.ctx = ctx → p.2.opcode ≠ 0x26 → p.2.opcode ≠ 0x27 → ∀ q ∈ t.hearths.groups, q.2.cid ≠ p.1) ∧
      (∀ cid, (∀ p ∈ s.stk.cmds, p.1 = cid → p.2.ctx ≠ ctx) → t.cmd? cid = s.cmd? cid) ∧
      (∀ k g, mapGet s.hearths.groups k = some g → (∀ p ∈ s.stk.cmds, p.1 = g.cid → p.2.ctx ≠ ctx) → mapGet t.hearths.groups k = some g) ∧
      (∀ i, t.wb? i = (s.wb? i).map fun w => if w.ctx = ctx then { w with st := .draining, lane := none } else w)))

/-- LAUNCH of an admitted command in its order runs it with the argument block of R662 when the checks of R336 hold, and else tears its context down with
0x0407. BLOCK_PLACE, when no command of a class that goes first has work that fits, places the next block of a running Launch: the block number
rises by one (R338), the Hearth takes the split, and each group of the block stands in a slot of its Burner that was empty, in the state of R337
and R386, while no group that stood before changes. With RESIDENT_ALL it places every block or none (R339). SPLIT_DRAIN_MARK marks the permitted
Hearth with the fewest groups, the lowest on ties, when none is eligible (R346). PREEMPTION kills the most recently dispatched pre-emptible
victim, which is dispatched again (R672, R673). GROUP_SELF_WAIT faults with 0x0402 a group that is not HALTED and has gone its watch interval
without progress, and nothing else (R366). -/
def Obligations.HearthDispatch : Prop :=
  (∀ (s : State) (cid : Nat) (c c' : Cmd), s.ready? cid 0x0C .admitted = some c → s.orderOk cid c = true → c' = { c with bytes := s.launchBytes c } →
    (s.launchOk c' = true → exec (.launch cid) s = .next { s with
        stk := { s.stk with
          issueSeq := s.stk.issueSeq + 1
          cmds := mapAdj s.stk.cmds cid fun x => { x with st := .running, bytes := c'.bytes, issued := s.stk.issueSeq } }
        hearths := { s.hearths with launches := mapSet s.hearths.launches cid (mapGetD s.hearths.launches cid {}) } }) ∧
    (s.launchOk c' = false → exec (.launch cid) s = .next (s.tearCmd c' { code := 0x407 }))) ∧
  (∀ (s : State) (cid h : Nat) (c : Cmd) (l : LaunchSt) (bs : List Nat), s.live = true → s.cmd? cid = some c →
    mapGet s.hearths.launches cid = some l → c.st = .running → l.next < lnBlocks c → s.mayPlace c = true → lnResident c = false →
    s.choose cid c = some (h, bs) →
    (∀ p ∈ s.hearths.launches, ∀ d, s.cmd? p.1 = some d → s.classRank d.cls < s.classRank c.cls → s.tryPlace p.1 = none) →
    ∃ t, exec (.blockPlace cid) s = .next t ∧
      mapGet t.hearths.launches cid = some { l with next := l.next + 1, live := l.live + 1 } ∧
      t.hearth h = { s.hearth h with
        split := lnSplit c, placed := (s.hearth h).placed + 1, drain := if (s.hearth h).drain = 1 then 0 else (s.hearth h).drain } ∧
      t.hearths.blocks = s.hearths.blocks ++ [{ cid := cid, block := l.next, hearth := h, lsBytes := lnLs c, left := lnGpb c }] ∧
      (∀ k g, mapGet s.hearths.groups k = some g → mapGet t.hearths.groups k = some g) ∧ bs.length = lnGpb c ∧
      (∀ i < bs.length, ∃ n age, n < 12 ∧ mapGet s.hearths.groups (48 * h + 12 * bs.getD i 0 + n) = none ∧
        mapGet t.hearths.groups (48 * h + 12 * bs.getD i 0 + n) =
          some (newGroup cid c l.next i age s.time (l.haltAll || l.halts.contains (l.next, i)))) ∧
      (∀ k, k ≠ h → t.hearth k = s.hearth k) ∧ t = { s with hearths := t.hearths, chm := t.chm }) ∧
  (∀ (cid : Nat) (c : Cmd) (block group age now n t : Nat) (halted : Bool) (g : Group), g = newGroup cid c block group age now halted →
    g.pc.toNat = lnCode c % 2 ^ 64 ∧ g.exec = BitVec.allOnes 64 ∧ g.flags = 0 ∧ g.vreg n t = 0 ∧ g.st = (if halted then .halted else .ready) ∧
    (g.sreg n).toNat = (if n = 1 then lnArg c else if n = 2 then block else if n = 3 then group else if n = 4 then lnArgLen c else 0) % 2 ^ 64) ∧
  (∀ (s t : State) (cid : Nat) (c : Cmd) (l : LaunchSt), s.cmd? cid = some c → mapGet s.hearths.launches cid = some l → lnResident c = true →
    exec (.blockPlace cid) s = .next t → t = s ∨ (mapGet t.hearths.launches cid).map (·.next) = some (lnBlocks c)) ∧
  (∀ (s : State) (cid h : Nat) (c : Cmd) (l : LaunchSt), s.ready? cid 0x0C .running = some c → mapGet s.hearths.launches cid = some l →
    l.next < lnBlocks c → h < 160 → (s.hearth h).inService = true → bit (lnQuarters c) (h / 20) = true → s.drainOf h = 0 →
    (∀ k < 160, (s.hearth k).inService = true → bit (lnQuarters c) (k / 20) = true → s.drainOf k = 0 → s.eligible c k = false ∧
      ((s.groupsOn h).length < (s.groupsOn k).length ∨ ((s.groupsOn h).length = (s.groupsOn k).length ∧ h ≤ k))) →
    exec (.splitDrainMark cid) s = .next (s.mHearth h fun u => { u with drain := 1 })) ∧
  (∀ (s : State) (cid : Nat) (c : Cmd) (l : LaunchSt) (v : Nat × Cmd) (may : Nat × Cmd → Prop), s.ready? cid 0x0C .running = some c →
    mapGet s.hearths.launches cid = some l → l.next < lnBlocks c → s.groupUse c.cls < s.groupShare c.cls → s.tryPlace cid = none →
    (∀ p, may p ↔ p ∈ s.stk.cmds ∧ p.2.preemptible = true ∧ (p.2.cls = 4 ∨ p.2.cls = 5) ∧ s.groupShare p.2.cls < s.groupUse p.2.cls ∧
      ∃ q ∈ s.hearths.groups, q.2.cid = p.1) →
    may v → (∀ p, may p → p = v ∨ p.2.issued < v.2.issued) →
    exec (.preemption cid) s = .next (((s.killCmd v.1 1).mCmd v.1 fun x => { x.again with kills := x.kills + 1 }).mFn v.2.fn fun f =>
      { f with preempts := f.preempts + 1 })) ∧
  (∀ (s : State) (r : GroupRef) (g : Group) (c : Cmd), s.live = true → s.group? r = some g → s.cmd? g.cid = some c →
    (g.st ≠ .halted → g.progressAt + s.watchCycles c ≤ s.time → exec (.groupSelfWait r) s = .next (s.groupFault r g 0x402 0 0 none)) ∧
    ((g.st = .halted ∨ s.time < g.progressAt + s.watchCycles c) → exec (.groupSelfWait r) s = .next s))

/-- HEARTH_MOVE acts on a logical Hearth that drains for a move and holds no group: it takes the quarter's spare and, unless a Grate retirement moved it, the
vacated Hearth becomes the spare under test; without a spare it goes out of service for a test in place (R331 to R333, R781, R783). EMBER_TEST_COMPLETE
records the pass, and a Hearth tested in place returns; a failing Hearth is retired, its test raises 0x0420, with 0x0421 when the quarter
loses a logical Hearth (R782, R783), and the test ends either way. EMBER_OVERDUE raises 0x0422 when the Hearth has gone 4 s without a pass
(R784). KNOWN_ANSWER_TEST notes the pass, or raises the unit's self-check fault; a Drover that fails leaves service (R777, R786). -/
def Obligations.MovesAndSelfTests : Prop :=
  (∀ (s : State) (h : Nat) (u : Quarter) (old : Nat), s.live = true → (s.hearth h).drain = 2 → s.groupsOn h = [] → u = s.quarter (h / 20) →
    u.testing = none → old = (s.hearth h).phys →
    (∀ p, u.grateMove = some h → u.spare = some p → exec (.hearthMove h) s = .next
      (((s.mHearth h fun x => { x with phys := p, drain := 0 }).mQuarter (h / 20) fun u => { u with grateMove := none, spare := none }).traceMove
        h old p)) ∧
    (u.grateMove = some h → u.spare = none → exec (.hearthMove h) s = .next
      ((s.mHearth h fun x => { x with drain := 0 }).mQuarter (h / 20) fun u => { u with grateMove := none })) ∧
    (∀ p, u.grateMove ≠ some h → u.rotating = some h → u.spare = some p → exec (.hearthMove h) s = .next
      (((s.mHearth h fun x => { x with phys := p, drain := 0 }).mQuarter (h / 20) fun u =>
        { u with spare := some old, testing := some old, inPlace := false }).traceMove h old p)) ∧
    (u.grateMove ≠ some h → u.rotating = some h → u.spare = none → exec (.hearthMove h) s = .next
      (((s.mHearth h fun x => { x with inService := false, drain := 0 }).traceMove h old 0xFF).mQuarter (h / 20) fun u =>
        { u with testing := some old, inPlace := true })) ∧
    (u.grateMove ≠ some h → u.rotating ≠ some h → exec (.hearthMove h) s = .next s)) ∧
  (∀ (s : State) (q p : Nat) (fail : Bool), s.live = true → (s.quarter q).testing = some p →
    ∃ t, exec (.emberTestComplete q fail) s = .next t ∧
      (t.quarter q).testing = none ∧ (t.quarter q).rotating = none ∧ (t.quarter q).lastTested = some p ∧
      (fail = false → (t.quarter q).fails = (s.quarter q).fails ∧ (t.quarter q).spare = (s.quarter q).spare ∧
        (t.phys p).lastPassTick = s.tck.num ∧ (t.phys p).lastPassAt = s.time ∧
        t.flt.nextSeq = s.flt.nextSeq ∧
        (∀ h, (s.quarter q).inPlace = true → (s.quarter q).rotating = some h → (t.hearth h).inService = true)) ∧
      (fail = true → (t.quarter q).fails = min 255 ((s.quarter q).fails + 1) ∧ (t.phys p).retired = true ∧
        ((s.quarter q).inPlace = false → (t.quarter q).spare = none) ∧
        (s.flt.mgmtq.length < 1024 → ∃ r ∈ t.flt.mgmtq, r.code = 0x420))) ∧
  (∀ (s : State) (p : Nat), s.live = true → (∃ x ∈ s.inService, x.2.phys = p) →
    ((s.phys p).lastPassAt + 4000 * cyclesPerMs ≤ s.time → exec (.emberOverdue p) s = .next (s.raise { code := 0x422 })) ∧
    (s.time < (s.phys p).lastPassAt + 4000 * cyclesPerMs → exec (.emberOverdue p) s = .next s)) ∧
  (∀ (s : State) (unit inst : Nat), s.live = true →
    exec (.knownAnswerTest unit inst true) s =
      .next { s with flt := { s.flt with knownPass := mapSet s.flt.knownPass (16 * unit + inst) s.tck.num } } ∧
    (unit < 6 → exec (.knownAnswerTest unit inst false) s = .next (s.raise {
      code := if unit = 0 then 0x110 else if unit = 1 then 0x210 else if unit = 2 then 0xB10 else if unit = 3 then 0xA03
        else if unit = 4 then 0x338 else 0x640
      detail := detWindow inst 0xFFFF (mapGetD s.flt.knownPass (16 * unit + inst) 0).toNat s.tck.num.toNat })) ∧
    (∃ t, exec (.knownAnswerTest 6 inst false) s = .next t ∧
      t.drovers.inService = s.drovers.inService &&& ~~~BitVec.ofNat 16 (2 ^ inst)))

/-- A debug command of a context without the debug attribute is refused with 0x0408 (R368). One that may act (its result's pages translate and no other unit holds its
lines): Debug Halt halts every named group that is READY or STALLED and notes the unplaced ones (R373); Debug Resume lets every named HALTED
group go, READY or STALLED as it waits at a BAR or a GBIND, its time HALTED not counted by the watch (R366, R375); each answers how many acted and how many did not, and changes
no other group. Debug Step of a HALTED group lets it issue one instruction, and answers when that has retired (R374); with no such group it
answers 0 and 1. Debug Read Group writes the group's record, whole when it is HALTED, else its first 64 bytes, with free values in the fields
that an absent group does not have (R376; log entry 5). -/
def Obligations.DebugCommands : Prop :=
  (∀ (s : State) (cid : Nat) (c : Cmd) (x : Ctx),
    ∀ e ∈ ([(0x28, .debugHalt cid), (0x29, .debugStep cid), (0x2A, .debugResume cid), (0x2B, .debugReadGroup cid)] : List (Nat × Instr)),
      s.ready? cid 0x29 .finished = none → s.ready? cid 0x29 .running = none → s.ctl? cid e.1 = some (c, x) →
      (x.debug = false → exec e.2 s = .next (s.refuse cid c { code := 0x408, dkind := 1 })) ∧
      (x.debug = true → ∀ set, s.trRanges setLimit x (debugRanges c) [] = .ok set →
        s.cmdConflict cid { c with tset := set } (dbOut c) (debugOutLen e.1) = false → s.debugBegin cid e.1 = .ok { c with tset := set })) ∧
  (∀ (s : State) (cid : Nat) (c : Cmd), s.debugBegin cid 0x28 = .ok c →
    ∃ (t u : State) (n : Nat), exec (.debugHalt cid) s = .next t ∧ t = u.debugCommit cid c (toLe 4 n ++ toLe 4 (s.debugTotal c - n) ++ toLe 8 s.tck.num.toNat) ∧
      n = ((s.debugGroups c).filter fun p => p.2.st == .ready || p.2.st == .stalled).length + ((s.debugTargets c).map (s.debugUnplaced c)).sum ∧
      (∀ k, mapGet u.hearths.groups k = (mapGet s.hearths.groups k).map fun g =>
        if s.debugNamed c g = true ∧ (g.st = .ready ∨ g.st = .stalled) then { g with st := .halted, haltedAt := s.time } else g) ∧
      u = { s with hearths := { s.hearths with groups := u.hearths.groups, launches := u.hearths.launches } }) ∧
  (∀ (s : State) (cid : Nat) (c : Cmd), s.debugBegin cid 0x2A = .ok c →
    ∃ (t u : State) (n : Nat), exec (.debugResume cid) s = .next t ∧ t = u.debugCommit cid c (toLe 4 n ++ toLe 4 (s.debugTotal c - n) ++ toLe 8 s.tck.num.toNat) ∧
      n = ((s.debugGroups c).filter fun p => p.2.st == .halted).length ∧
      (∀ k, mapGet u.hearths.groups k = (mapGet s.hearths.groups k).map fun g =>
        if s.debugNamed c g = true ∧ g.st = .halted then
          { g with st := if g.atBar || g.binding.isSome then .stalled else .ready, readyAt := s.time
                   progressAt := g.progressAt + (s.time - g.haltedAt) }
        else g) ∧
      u = { s with hearths := { s.hearths with groups := u.hearths.groups } }) ∧
  (∀ (s : State) (cid : Nat) (c : Cmd), s.ready? cid 0x29 .finished = none → s.ready? cid 0x29 .running = none → s.debugBegin cid 0x29 = .ok c →
    (∀ p, s.debugHalted c = some p → exec (.debugStep cid) s = .next
      ((s.mCmd cid fun x => { x with st := .running, tset := c.tset }).mGroup (refOfKey p.1) fun g => { g with stepping := true })) ∧
    (s.debugHalted c = none → exec (.debugStep cid) s = .next (s.debugCommit cid c (toLe 4 0 ++ toLe 4 1 ++ toLe 8 s.tck.num.toNat)))) ∧
  (∀ (s : State) (cid : Nat) (c : Cmd), s.ready? cid 0x29 .finished = some c → s.cmdConflict cid c (dbOut c) 16 = false →
    exec (.debugStep cid) s = .next (s.debugCommit cid c (toLe 4 1 ++ toLe 4 0 ++ toLe 8 s.tck.num.toNat))) ∧
  (∀ (s : State) (cid : Nat) (c : Cmd), s.debugBegin cid 0x2B = .ok c →
    (∀ p rest, s.debugGroups c = p :: rest → p.2.st = .halted → exec (.debugReadGroup cid) s = .next
      (s.debugCommit cid c (s.groupHead (refOfKey p.1) p.2 ++ p.2.scalarBytes ++ p.2.vectorBytes))) ∧
    (∀ p rest, s.debugGroups c = p :: rest → p.2.st ≠ .halted → exec (.debugReadGroup cid) s = .next
      (s.debugCommit cid c (s.groupHead (refOfKey p.1) p.2))) ∧
    (s.debugGroups c = [] → ∃ bs, exec (.debugReadGroup cid) s = .next
      ((s.mHearths fun u => { u with freeCount := u.freeCount + 7 }).debugCommit cid c bs) ∧ bs.length = 64 ∧
      leNat ((bs.drop 16).take 1) = (if ∃ p ∈ s.debugTargets c, s.debugUnplaced c p ≠ 0 then 0 else 0xFF) ∧
      (bs.drop 32).take 8 = toLe 8 s.tck.num.toNat))

/-- WAYBILL_COMMIT of a RUNNING waybill: a finished command whose clip count is over its threshold runs once more, wide (R166, R167); else, once every command of the Recipe has finished and none failed, the waybill is COMMITTED and its answer stands in order, with outcome 0, or 1 after a kill (R112); until then nothing changes. A stream step's
tokens are those of its report, at most its limit, and its END_CAUSE is 1 with END, 2 at MAX_TOKENS, 3 when abandoned, else 0 with a successor due (R510, R512). STREAM_SUCCESSOR_FILE files the next step with STEP_NUM one higher and TOKENS_DONE advanced, or ends the stream with cause 4 when the
Ledger is full and 5 when a page no longer translates (R511, R513). WAYBILL_DRAIN_COMPLETE frees a DRAINING entry and steps its reuse count (R113); EXTENSION_READ_POISON answers a lost waybill with outcome 8 under 0x0205. LEDGER_ENTRY_ECC_ERROR raises 0x0202 for one bad copy and 0x0203 for both (R118 to R120), a lockstep mismatch 0x0201 (R121).
CAPTURE_CONFIG by function 0 takes MODE and ALL only while EN is 0 (R129). -/
def Obligations.LedgerRows : Prop :=
  (∀ (s : State) (i : Nat) (w : Waybill) (r : Recipe), s.live = true → s.wb? i = some w → s.recipe? w.recipe = some r → w.st = .running →
    (∀ pre p post, s.cmdsOf i = pre ++ p :: post → p.2.st = .finished → p.2.failed = false → wideDue (r.cmds.getD p.2.idx {}) p.2 = true →
      (∀ x ∈ pre, x.2.st ≠ .finished ∨ x.2.failed = true ∨ wideDue (r.cmds.getD x.2.idx {}) x.2 = false) →
      exec (.waybillCommit i) s = .next ((s.dropWork p.1).mCmd p.1 fun c => { c.again with wide := true })) ∧
    ((∀ p ∈ s.cmdsOf i, p.2.st ≠ .finished ∨ p.2.failed = true ∨ wideDue (r.cmds.getD p.2.idx {}) p.2 = false) →
      ((s.cmdsOf i).length ≠ r.cmds.length ∨ (∃ p ∈ s.cmdsOf i, p.2.st ≠ .finished ∨ p.2.failed = true) →
        exec (.waybillCommit i) s = .next s) ∧
      ((s.cmdsOf i).length = r.cmds.length → (∀ p ∈ s.cmdsOf i, p.2.st = .finished ∧ p.2.failed = false) →
        exec (.waybillCommit i) s = .next (s.commitWb i w)))) ∧
  (∀ (s : State) (i : Nat) (w : Waybill), s.live = true → s.wb? i = some w → w.st ≠ .running → exec (.waybillCommit i) s = .next s) ∧
  (∀ (t : Template) (c : Cmd), wideDue t c = true ↔ t.clipThresh ≠ 0 ∧ c.wide = false ∧ t.clipThresh * c.elems < c.clipped * 65536) ∧
  (∀ (w : Waybill) (i handle outcome produced cause : Nat) (tick : BitVec 64) (cs : List Cmd) (a : Answer),
    a = commitAnswer w i handle outcome produced cause tick cs → a.ctx = w.ctx ∧ a.fn = w.fn ∧ a.cmdId = w.cmdId ∧ a.outcome = outcome ∧
    a.waybill = some i ∧ a.userTag = w.userTag ∧ a.tokensDone = (if w.stream.isStream then w.stream.tokensDone + produced else 0) ∧
    a.nsrWide = (cs.filter (·.wide)).length ∧ (a.flags.testBit 0 = true ↔ ∃ c ∈ cs, c.defaulted = true) ∧
    (a.flags.testBit 2 = true ↔ ∃ c ∈ cs, c.wide = true) ∧ a.flags.testBit 3 = w.foc ∧ a.flags.testBit 4 = w.stream.isStream) ∧
  (∀ (w : Waybill) (n : Nat), endCauseOf w n true = 1 ∧
    (w.stream.tokensDone + n = w.stream.maxTokens → endCauseOf w n false = 2) ∧
    (w.stream.tokensDone + n ≠ w.stream.maxTokens → w.abandonReq = true → endCauseOf w n false = 3) ∧
    (w.stream.tokensDone + n ≠ w.stream.maxTokens → w.abandonReq = false → endCauseOf w n false = 0)) ∧
  (∀ (s : State) (i : Nat) (w : Waybill) (lim : Nat) (rep : Nat × Bool × Bool), rep = s.stepReport i w →
    lim = min w.stream.perStep (w.stream.maxTokens - w.stream.tokensDone) → rep.1 ≤ lim ∧ (rep.2.2 = false → rep.1 = lim)) ∧
  (∀ (s : State) (i idx : Nat) (w : Waybill) (x : Ctx) (r : Recipe), s.live = true → s.wb? i = some w → s.ctx? w.ctx = some x →
    s.recipe? w.recipe = some r →
    (w.st ≠ .committed ∨ w.successorDue = false → exec (.streamSuccessorFile i idx) s = .next s) ∧
    (w.st = .committed → w.successorDue = true →
      (1048576 ≤ s.ldg.wb.length → exec (.streamSuccessorFile i idx) s = .next (s.endStream i 4)) ∧
      (s.ldg.wb.length < 1048576 →
        (∀ e, s.waybillSet x (successorOf w) r [] false = .error e → exec (.streamSuccessorFile i idx) s = .next (s.endStream i 5)) ∧
        (∀ set, s.waybillSet x (successorOf w) r [] false = .ok set → s.storeRoom (fnDie w.fn) set.length = true → s.wb? idx = none → idx < 1048576 →
          exec (.streamSuccessorFile i idx) s = .next (((s.countWalks (fnDie w.fn) x set).fileWb idx { successorOf w with tset := set }).mWb i fun w =>
            { w with successorDue := false }))))) ∧
  (∀ (w n : Waybill), n = successorOf w → n.st = .free ∧ n.ctx = w.ctx ∧ n.recipe = w.recipe ∧ n.stream.stepNum = w.stream.stepNum + 1 ∧
    n.stream.tokensDone = w.stream.tokensDone + w.produced ∧ n.stream.kvAddr = w.stream.kvAddr ∧ n.stream.firstHandle = w.stream.firstHandle ∧
    n.killCount = 0) ∧
  (∀ (s : State) (i cause : Nat), (∀ w, s.wb? i = some w → ∃ v, (s.endStream i cause).wb? i = some v ∧ v.successorDue = false ∧ v.endCause = cause) ∧
    ∀ a ∈ (s.endStream i cause).stk.answers, a.waybill = some i → a.endCause = cause) ∧
  (∀ (s : State) (i : Nat) (w : Waybill), s.live = true → s.wb? i = some w →
    (w.st ≠ .draining → exec (.waybillDrainComplete i) s = .next s ∧ ∃ u v : State, u = (s.raise { code := 0x205, ctx := some w.ctx, cmdId := w.cmdId }).killRun i 2 ∧
      v = (u.mStk fun k => { k with answers := k.answers.filter fun a => a.waybill != some i }).mWb i (fun w => { w with successorDue := false }) ∧
      exec (.extensionReadPoison i) s = .next (v.answerWb i w 8 6 0)) ∧
    (w.st = .draining → exec (.extensionReadPoison i) s = .next s ∧ ∃ t, exec (.waybillDrainComplete i) s = .next t ∧ t.wb? i = none ∧
      mapGetD t.ldg.reuse i 0 = mapGetD s.ldg.reuse i 0 + 1 ∧ (∀ j, j ≠ i → t.wb? j = s.wb? j) ∧ t.stk = s.stk ∧ t.mem = s.mem)) ∧
  (∀ (s u : State) (i a b : Nat), s.live = true → i < 1048576 →
    u = s.mLdg (fun l => { l with eccCorrected := min 0xFFFF (l.eccCorrected + ((if a = 1 then 1 else 0) + (if b = 1 then 1 else 0))) }) →
    (a < 2 → b < 2 → exec (.ledgerEntryEccError i a b) s = .next u) ∧
    (2 ≤ a → 2 ≤ b → exec (.ledgerEntryEccError i a b) s = .next (u.raise { code := 0x203 })) ∧
    (¬(2 ≤ a ↔ 2 ≤ b) → exec (.ledgerEntryEccError i a b) s = .next
      ((u.mLdg fun l => { l with eccRepaired := min 0xFFFF (l.eccRepaired + 1) }).raise { code := 0x202 })) ∧
    exec .ledgerLockstepMismatch s = .next (s.raise { code := 0x201 })) ∧
  (∀ (s : State) (fn v : Nat), s.live = true → s.img.bx3 = false →
    (fn ≠ 0 → exec (.captureConfig fn v) s = .next s) ∧
    (s.ldg.capEn = true → exec (.captureConfig 0 v) s = .next (s.mLdg fun l => { l with capEn := bit v 0 })) ∧
    (s.ldg.capEn = false → exec (.captureConfig 0 v) s = .next (s.mLdg fun l => { l with
      capEn := bit v 0, capStop := bit v 1, capAll := bit v 2, capHead := if bit v 0 then 0 else l.capHead })))

/-- Of a request's scores and exclusion mask (in mask byte order, when MASKED), the candidates that the Sieve ranks are the eligible ones, each with its own score: no NaN, not
excluded (R487). There are min(K, E) of them. They stand in rank order: a candidate goes before a later one by its score, or with an equal score (+0 and −0 are equal) by
its lower index, and before every eligible candidate that is left out (R488). Select's records are those of ranks 0 to min(K, E) − 1 in rank order, then K − min(K, E) padding
records (R489, R490). -/
def Obligations.SelectRanksItsCandidates : Prop :=
  ∀ (low : Bool) (k : Nat) (scores : List Nat) (mask : List Bool) (l : List Cand) (may : Nat → Prop) (before : Nat → Nat → Nat → Nat → Prop),
    l = ranked low k scores mask →
    (∀ i, may i ↔ i < scores.length ∧ scoreNan (scores.getD i 0) = false ∧ mask.getD i false = false) →
    (∀ i a j b, before i a j b ↔ scoreBefore low a b = true ∨ scoreBefore low b a = false ∧ i < j) →
    (∀ x ∈ l, may x.1 ∧ x.2 = scores.getD x.1 0) ∧
    l.length = min k ((List.range scores.length).filter fun i => !scoreNan (scores.getD i 0) && !mask.getD i false).length ∧
    l.Pairwise (fun x y => before x.1 x.2 y.1 y.2) ∧
    (∀ i, may i → (∀ x ∈ l, x.1 ≠ i) → ∀ x ∈ l, before x.1 x.2 i (scores.getD i 0)) ∧
    (∀ (c : Cmd) (q : Nat), svSample c = false → l.length ≤ svK c →
      sieveRecords c q l = ((l.flatMap fun x => toLe 4 x.1 ++ toLe 4 x.2) ++
        (List.replicate (svK c - l.length) (toLe 4 0xFFFFFFFF ++ toLe 4 0x7FC00000)).flatten, svK c - l.length))

/-- A Select or Sample command, admitted and in its order: when a check of R486 fails its context is torn down with 0x0A01; when a byte it reads is poisoned, with 0x0632 at
the first such range. Else, unless a line of its records holds another unit's provisional copy, it serves its requests in ascending order and finishes: each request writes its records
through the command's translations, on the Sieve of its parity, which counts the request, its candidates, NaNs, masked candidates and padding
records (R497 to R499). Sample's rank follows R493: with INV_TEMP 0 or all scores equal every weight is 1. An uncorrectable Sieve error tears the command's context down with 0x0A02 unless the
command has been killed; a correctable one is counted (R500, R501). -/
def Obligations.SieveCommands : Prop :=
  (∀ (s : State) (cid : Nat) (c : Cmd), ∀ e ∈ ([(0x0D, .select cid), (0x0E, .sample cid)] : List (Nat × Instr)),
    s.ready? cid e.1 .admitted = some c → s.orderOk cid c = true →
    (sieveOk c = false → exec e.2 s = .next (s.tearCmd c { code := 0xA01 })) ∧
    (sieveOk c = true → (∀ r ∈ sieveRanges c, r.2.2 = true → s.cmdConflict cid c r.1 r.2.1 = false) →
      (∀ da, s.sievePoison cid c = some da → exec e.2 s = .next (s.tearCmd c { code := 0x632, detail := detDa da })) ∧
      (s.sievePoison cid c = none → ∃ t u : State, exec e.2 s = .next t ∧
        u = (List.range (svReqs c)).foldl (fun u q => u.sieveRequest cid c q) s ∧ t = u.mCmd cid (fun c => { c with st := .finished }) ∧
        (t.cmd? cid).map (·.st) = some .finished ∧ t.hearths = s.hearths ∧ t.ldg = s.ldg ∧ t.tally = s.tally ∧ t.flt = s.flt))) ∧
  (∀ (s u : State) (cid q : Nat) (c : Cmd) (out : List Byte × Nat), u = s.sieveRequest cid c q →
    out = sieveRecords c q (ranked (svLow c) (svK c) (s.sieveScores cid c q) (s.sieveMask cid c q)) →
    u.mem = (s.cmdWrite cid c (svOut c + q * svOutStride c) out.1).mem ∧ u.depot = (s.cmdWrite cid c (svOut c + q * svOutStride c) out.1).depot ∧
    (q % 2 = 0 → u.sieves.die1 = s.sieves.die1 ∧ u.sieves.die0.requests = s.sieves.die0.requests + 1 ∧
      u.sieves.die0.padded = s.sieves.die0.padded + BitVec.ofNat 32 out.2) ∧
    (q % 2 = 1 → u.sieves.die0 = s.sieves.die0 ∧ u.sieves.die1.requests = s.sieves.die1.requests + 1 ∧
      u.sieves.die1.padded = s.sieves.die1.padded + BitVec.ofNat 32 out.2)) ∧
  (∀ (c : Cmd) (q : Nat), svSample c = true → sieveRecords c q [] = (toLe 4 0xFFFFFFFF ++ toLe 4 0x7FC00000, 1) ∧
    ∀ x rest, ∃ y ∈ x :: rest, sieveRecords c q (x :: rest) = (toLe 4 y.1 ++ toLe 4 y.2, 0)) ∧
  (∀ (s0 si : Nat), sampleWeight 0 s0 si = 0x3F800000 ∧ ∀ temp, sampleWeight temp s0 s0 = 0x3F800000) ∧
  (∀ (s : State) (die cid : Nat), s.live = true →
    (∃ t, exec (.sieveEccError die cid true) s = .next t ∧ t = { s with sieves := t.sieves } ∧
      (die = 0 → t.sieves = { s.sieves with die0 := { s.sieves.die0 with ecc := s.sieves.die0.ecc + 1 } }) ∧
      (die ≠ 0 → t.sieves = { s.sieves with die1 := { s.sieves.die1 with ecc := s.sieves.die1.ecc + 1 } })) ∧
    (∀ c, s.cmd? cid = some c → (c.opcode = 0x0D ∨ c.opcode = 0x0E) → c.st ≠ .withdrawn →
      exec (.sieveEccError die cid false) s = .next (s.tearCmd c { code := 0xA02 })) ∧
    (s.cmd? cid = none → exec (.sieveEccError die cid false) s = .next (s.raiseAs 0 { code := 0xA02 })))

/-- LOOKUP of an admitted command in its order: a failed check of R236 tears its context down with the fault its table names (0x0B01 for a malformed command, 0x0632 for a poisoned
input, 0x0B02 for a table the function may not use), found in the table's order. Else the command runs: each bag of a usable table, in ascending order, sends the references of its resolved
identifiers, in their order, to the Serai that holds each one's row (a default reference to the bag's owner), and the bag is recorded with its owner and the number of other Serais
that will send a partial sum (R237, R238, R257); then every bag without identifiers is completed by its owner. -/
def Obligations.LookupSendsItsReferences : Prop :=
  (∀ (s : State) (cid : Nat) (c : Cmd), s.ready? cid 0x08 .admitted = some c → s.orderOk cid c = true →
    (∀ r, s.lookupFault cid c false = some r → exec (.lookup cid) s = .next (s.tearCmd c r)) ∧
    (s.lookupFault cid c false = none → ∃ t u v : State, exec (.lookup cid) s = .next t ∧
      v = { s with stk := { s.stk with cmds := mapAdj s.stk.cmds cid fun c => { c with st := .running } } } ∧
      u = (List.range (lkBags c)).foldl (fun u b => u.sendBag cid c false b ((s.bagDescs cid c).getD b ⟨0, 0, 0, 0, 0⟩)) v ∧
      t = (u.serais.bags.filter fun b => b.cid == cid && b.idCount == 0).foldl (fun s b => match s.table? b.table with
        | none => s
        | some x => (s.mSerai b.owner fun y => { y with accs := y.accs ++ [{
            cid := cid, bag := b.bag, sums := List.replicate x.elems 0, bad := List.replicate x.elems false, owner := b.owner }] }).bagStep
          b.owner cid b.bag true) u)) ∧
  (∀ (s : State) (cid : Nat) (c : Cmd),
    (lookupFmt c = false → s.lookupFault cid c false = some { code := 0xB01 }) ∧
    (lookupFmt c = true → ∀ da, s.lookupPoison cid c false = some da → s.lookupFault cid c false = some { code := 0x632, dkind := 2, detail := detDa da }) ∧
    (lookupFmt c = true → s.lookupPoison cid c false = none → (∃ d ∈ s.bagDescs cid c, s.bagOk c d = false) →
      s.lookupFault cid c false = some { code := 0xB01 }) ∧
    (lookupFmt c = true → s.lookupPoison cid c false = none → (∀ d ∈ s.bagDescs cid c, s.bagOk c d = true) →
      (∃ d ∈ s.bagDescs cid c, s.usable c d.table = none) → s.lookupFault cid c false = some { code := 0xB02 }) ∧
    (lookupFmt c = true → s.lookupPoison cid c false = none → (∀ d ∈ s.bagDescs cid c, s.bagOk c d = true) →
      (∀ d ∈ s.bagDescs cid c, s.usable c d.table ≠ none) → s.lookupFault cid c false = none)) ∧
  (∀ (s u : State) (cid b : Nat) (c : Cmd) (d : BagDesc) (t : Table) (rs : List Resolved) (w : Nat → Int) (dst : Nat → Nat), s.usable c d.table = some t →
    u = s.sendBag cid c false b d →
    rs = (List.range d.count).map (fun j => s.resolve t (leNat (((s.cmdRead cid c (c.arg 48 8 + 8 * d.off) (8 * d.count)).drop (8 * j)).take 8))) →
    w = (fun j => if d.pool = 2 then
      toS 16 (leNat (((s.cmdRead cid c (c.arg 56 8 + 2 * d.off) (2 * d.count)).drop (2 * j)).take 2)) else 0) →
    dst = (fun j => match rs.getD j (.dflt 0) with | .row r _ => t.home r | .dflt _ => t.ownerOf rs) →
    (∀ q < 8, (u.serai q).inq = (s.serai q).inq ++
      ((List.range d.count).filter fun j => dst j == q).map fun j => refOf cid b d.table false (rs.getD j (.dflt 0)) (w j)) ∧
    (∃ info, u.serais.bags = s.serais.bags ++ [info] ∧ info.cid = cid ∧ info.bag = b ∧ info.table = d.table ∧ info.pool = d.pool ∧
      info.idCount = d.count ∧ info.owner = t.ownerOf rs ∧
      info.others = ((List.range 8).filter fun q => q != t.ownerOf rs && (List.range d.count).any fun j => dst j == q).length) ∧
    u.mem = s.mem ∧ u.depot = s.depot ∧ u.hearths = s.hearths)

/-- REFERENCE_INTAKE takes at most 32 references of one input, oldest first, one after another (R239): a reference that finds too few accumulator elements stalls its input only, and
the other input is untouched (R240); one that the Serai accepts is counted, and enters the open window or is pooled from the Hold (R242, R246). A reference joins its key's latest
consumer record when that has its command and bag, adding 1 to the multiplicity and its weight to the weight sum, and else a new record follows (R243). WINDOW_CLOSE closes the
window and disposes of its keys in order: a key in the Hold is pooled from it, one without a live record is dropped, every other is queued to the
Fetch Units (R244). INTAKE_STALL_RELEASE and MERGE_INTAKE_RESUME let what waited go on when elements are free (R240, R295). -/
def Obligations.IntakeAndCombiner : Prop :=
  (∀ (s : State) (q input n : Nat), s.live = true →
    exec (.referenceIntake q input 0) s = .next s ∧ (32 ≤ n → exec (.referenceIntake q input n) s = exec (.referenceIntake q input 32) s) ∧
    ((s.serai q).stalled.getD input false = true → exec (.referenceIntake q input n) s = .next s) ∧
    ((∀ r ∈ (s.serai q).inq, r.input ≠ input) → exec (.referenceIntake q input n) s = .next s) ∧
    (∀ r t, n < 32 → (s.serai q).stalled.getD input false = false → (s.serai q).inq.find? (·.input == input) = some r →
      s.table? r.key.table = some t →
      (s.intakeFull q r t = true → exec (.referenceIntake q input (n + 1)) s = .next (s.mSerai q fun u => { u with
        stalled := u.stalled.set input true })) ∧
      (s.intakeFull q r t = false → r.update = false ∨ (s.serai q).mergeWait = [] ∧ s.mergeFull q r t = false →
        exec (.referenceIntake q input (n + 1)) s =
          .next (((s.acceptRef q t r).mSerai q fun u => { u with inq := u.inq.erase r }).intake1 q input n)) ∧
      (s.intakeFull q r t = false → r.update = true → (s.serai q).mergeWait ≠ [] ∨ s.mergeFull q r t = true →
        exec (.referenceIntake q input (n + 1)) s = .next
          (((s.mSerai q fun u => { u with inq := u.inq.erase r, mergeWait := u.mergeWait ++ [r] }).mSeraiCnt q fun k =>
            { k with mergeWaits := k.mergeWaits + 1 }).intake1 q input n)))) ∧
  (∀ (s : State) (q input n : Nat), s.live = true → n ≤ 32 → exec (.referenceIntake q input n) s = .next (s.intake1 q input n)) ∧
  (∀ (e : Entry) (r : Ref) (joins : Rec → Prop), (∀ x, joins x ↔ x.cid = r.cid ∧ x.bag = r.bag ∧ x.update = r.update ∧ x.dead = false) →
    (∀ init x, e.recs = init ++ [x] → joins x →
      e.take r = ({ e with recs := init ++ [{ x with mult := x.mult + 1, wsum := x.wsum + r.weight }] }, true)) ∧
    ((∀ init x, e.recs = init ++ [x] → ¬joins x) →
      e.take r = ({ e with recs := e.recs ++ [{ cid := r.cid, bag := r.bag, mult := 1, wsum := r.weight, update := r.update }] }, false))) ∧
  (∀ (s : State) (q : Nat) (w : Window), s.live = true → (s.serai q).window = some w →
    exec (.windowClose q) s = .next (w.entries.foldl (fun s e => s.disposeKey q e)
      ((s.mSerai q fun u => { u with window := none }).mSeraiCnt q fun k => { k with windows := k.windows + 1 }))) ∧
  (∀ (s : State) (q : Nat), (s.serai q).window = none → exec (.windowClose q) s = .next s) ∧
  (∀ (s : State) (q : Nat) (e : Entry) (t : Table), s.table? e.key.table = some t → (∀ r ∈ e.recs, r.update = false) → e.recs ≠ [] →
    (∀ h, (s.serai q).hold.find? (·.key == e.key) = some h → s.disposeKey q e = s.poolAll q t h.data (s.keyFresh e.key t) true e.recs) ∧
    ((∀ h ∈ (s.serai q).hold, h.key ≠ e.key) → (∀ r ∈ e.recs, r.dead = true) → s.disposeKey q e = s) ∧
    ((∀ h ∈ (s.serai q).hold, h.key ≠ e.key) → (∃ r ∈ e.recs, r.dead = false) → s.disposeKey q e = s.queueKey q t e)) ∧
  (∀ (s : State) (q input : Nat), s.live = true →
    (∀ r t, (s.serai q).inq.find? (·.input == input) = some r → s.table? r.key.table = some t → s.intakeFull q r t = true →
      exec (.intakeStallRelease q input) s = .next s) ∧
    ((∀ r t, (s.serai q).inq.find? (·.input == input) = some r → s.table? r.key.table = some t → s.intakeFull q r t = false) →
      exec (.intakeStallRelease q input) s = .next (s.mSerai q fun u => { u with stalled := u.stalled.set input false }))) ∧
  (∀ (s : State) (q : Nat), s.live = true →
    ((s.serai q).mergeWait = [] → exec (.mergeIntakeResume q) s = .next s) ∧
    (∀ r rest t, (s.serai q).mergeWait = r :: rest → s.table? r.key.table = some t →
      (s.mergeFull q r t = true → exec (.mergeIntakeResume q) s = .next s) ∧
      (s.mergeFull q r t = false → exec (.mergeIntakeResume q) s = .next
        (((s.mSerai q fun u => { u with mergeWait := rest }).acceptRef q t r).resumeMerges q rest.length))))

/-- ROW_FETCH_COMPLETE takes the key's queued entry and delivers the row to its live records (R255), or drops it when none lives; a poisoned row is delivered to none and tears every consuming context
down with 0x0334 (R254); a copy that fails its CRC strikes its lane and is read once more, and then fails the commands that wait (R779). PARTIAL_SUM_RECEIVE adds the partial sum to the owner's, element by element (R257). LATE_ROW_TIMEOUT gives the records
under DEFAULT_AFTER the default row and leaves the others waiting (R227). FLASH_READ_COMPLETE ends the block's read under 0x0C01 or 0x0C02 when it fails, and serves its waiters (R224, R225). FLASH_CONTROLLER_LOST
marks the controller and its shards' flash extents from the next boundary, under 0x0C03 (R226). ACL_CONFIG by function 0 writes the log's fields while EN was 0, and only EN
while it was 1; a value outside R327's ranges changes nothing (log entry 35). -/
def Obligations.ArrivalsAndLateRows : Prop :=
  (∀ (s : State) (q tid : Nat) (row replace : Option Nat) (residueOk : Bool) (t : Table) (e : Entry) (u : State), s.live = true →
    s.table? tid = some t → (s.serai q).fetchq.find? (fun e => e.key == { table := tid, row := row } && !e.late) = some e →
    (∀ r, row = some r → s.rowBusy tid t r = false) → u = s.mSerai q (fun x => { x with fetchq := x.fetchq.erase e }) →
    (row = none → exec (.rowFetchComplete q tid row none replace residueOk) s = .next (u.deliver q t e t.defaultRow replace residueOk)) ∧
    (∀ r, row = some r → s.rowPoisoned tid t r = false →
      exec (.rowFetchComplete q tid row none replace residueOk) s = .next (u.deliver q t e (s.rowNow tid t r) replace residueOk)) ∧
    (∀ r, row = some r → s.rowPoisoned tid t r = true →
      exec (.rowFetchComplete q tid row none replace residueOk) s = .next (u.rowPoison q t e r)) ∧
    (∀ lane, e.tries = 0 → exec (.rowFetchComplete q tid row (some lane) replace residueOk) s = .next
      ((s.laneStrike q lane s.img.laneCrcMax).mSerai q fun u => { u with
        fetchq := u.fetchq.map fun x => if x == e then { x with tries := 1 } else x })) ∧
    (∀ lane, e.tries ≠ 0 → ∃ (v : State) (cids : List Nat), exec (.rowFetchComplete q tid row (some lane) replace residueOk) s = .next (v.crcFail tid q lane cids) ∧
      (∀ r ∈ e.recs, r.dead = false → r.cid ∈ cids) ∧ (∀ n ∈ cids, ∃ r ∈ e.recs, r.dead = false ∧ r.cid = n))) ∧
  (∀ (s : State) (q : Nat) (t : Table) (e : Entry) (data : List Byte) (replace : Option Nat) (residueOk : Bool),
    (∀ r ∈ e.recs, r.dead = true) → s.deliver q t e data replace residueOk = s.mSeraiCnt q fun k => { k with dropped := k.dropped + 1 }) ∧
  (∀ (s : State) (idx : Nat) (p : Partial) (a : BagAcc) (residueOk : Bool) (u : State), s.live = true → s.serais.partials[idx]? = some p →
    s.acc? p.owner p.cid p.bag = some a →
    u = (s.mSerais fun u => { u with partials := u.partials.eraseIdx idx }).mAcc p.owner p.cid p.bag (fun a => { a with
      recv := addL a.recv p.sums, bad := orL a.bad p.bad, clipped := orL a.clipped p.clipped, partials := a.partials - 1
      old := a.old || p.old, fresh := a.fresh || p.fresh }) →
    exec (.partialSumReceive idx none residueOk) s = .next (u.bagStep p.owner p.cid p.bag residueOk) ∧
    (∀ i, (addL a.recv p.sums).getD i 0 = a.recv.getD i 0 + p.sums.getD i 0)) ∧
  (∀ (s : State) (q tid row : Nat) (t : Table) (e : Entry), s.live = true → s.table? tid = some t →
    (s.serai q).fetchq.find? (fun e => e.key == { table := tid, row := some row } && e.late) = some e →
    exec (.lateRowTimeout q tid row) s = .next ((s.mSerai q fun u => { u with fetchq := u.fetchq.map fun x =>
      if x == e then { x with recs := x.recs.filter fun r => !((s.latePolicy r.cid tid).1 == 1) } else x }).useDefault q t true
      (e.recs.filter fun r => (s.latePolicy r.cid tid).1 == 1))) ∧
  (∀ (s : State) (ctrl nsid lba : Nat) (r : FlashRead) (u : State), s.live = true →
    s.cellar.reads.find? (fun r => r.ctrl == ctrl && r.nsid == nsid && r.lba == lba) = some r →
    u = { s with cellar := { s.cellar with reads := s.cellar.reads.erase r } } →
    exec (.flashReadComplete ctrl nsid lba true) s = .next (r.waiters.foldl (fun s w => s.flashWaiter false w)
      ({ u with cellar := { u.cellar with readErrors := u.cellar.readErrors + 1 } }.raise { code := 0xC01 })) ∧
    ((∃ b ∈ s.cellar.blocks, b.ctrl = ctrl ∧ b.nsid = nsid ∧ b.lba = lba ∧ b.poisoned = true) →
      exec (.flashReadComplete ctrl nsid lba false) s = .next (r.waiters.foldl (fun s w => s.flashWaiter false w)
        ({ u with cellar := { u.cellar with crcErrors := u.cellar.crcErrors + 1 } }.raise { code := 0xC02 }))) ∧
    ((∀ b ∈ s.cellar.blocks, b.ctrl = ctrl → b.nsid = nsid → b.lba = lba → b.poisoned = false) →
      exec (.flashReadComplete ctrl nsid lba false) s = .next (r.waiters.foldl (fun s w => s.flashWaiter true w) u))) ∧
  (∀ (s : State) (ctrl : Nat), s.live = true → ctrl < 16 → s.cellar.present.getLsbD ctrl = true → s.cellar.offline.getLsbD ctrl = false →
    ∃ t u : State, exec (.flashControllerLost ctrl) s = .next t ∧ t = u.raise { code := 0xC03 } ∧
      u = { s with cellar := { s.cellar with offline := u.cellar.offline }, tally := { s.tally with tables := u.tally.tables, fresh := u.tally.fresh } } ∧
      (∀ k < 16, u.cellar.offline.getLsbD k = (s.cellar.offline.getLsbD k || k == ctrl)) ∧
      (∀ tid x, s.table? tid = some x → u.table? tid = some { x with shards := x.shards.map fun h =>
        if h.controller = ctrl then { h with flashDue := true } else h })) ∧
  (∀ (s : State) (v : Nat), s.live = true → s.img.bx3 = false → 1 ≤ v / 256 % 65536 → 16 ≤ v / 4 % 64 → v / 4 % 64 ≤ 30 →
    ((s.serai s.serais.sel).acl.en = true → exec (.aclConfig 0 v) s = .next (s.mSerai s.serais.sel fun u => { u with acl := { u.acl with en := bit v 0 } })) ∧
    ((s.serai s.serais.sel).acl.en = false → exec (.aclConfig 0 v) s = .next (s.mSerai s.serais.sel fun u => { u with acl := { u.acl with
      epochLog2 := v / 2 ^ 24 % 16, hotThresh := v / 256 % 65536, log2Size := v / 4 % 64, en := bit v 0
      head := if bit v 0 then 0 else u.acl.head } })))

/-- A load of a unit sees the unit's provisional copy of the line where it has one, and otherwise the committed copy, or memory where the Depot holds none
(R538). In Service a store of a command's unit to a page of attribute WB, WT or STREAM (R526) changes what that unit sees to the bytes stored, leaves what every
other unit sees as it was, and changes no byte of memory (R537). -/
def Obligations.ProvisionalCopiesAreIsolated : Prop :=
  (∀ (s : State) (u : CUnit) (p : PA), s.viewByte u p = (match s.dline? p with
    | none => cellGet (s.mem.cells p.space) p.addr
    | some l => match l.prov? u with
      | some v => v.data.getD (p.addr % 128) 0
      | none => if l.data = [] then cellGet (s.mem.cells p.space) p.addr else l.data.getD (p.addr % 128) 0)) ∧
  (∀ (s t : State) (cid : Nat) (c : Cmd) (u : CUnit) (ctx : Option Nat) (attr : Nat) (p : PA) (bs : List Byte) (poisoned : Bool),
    s.dev = .service → u = unitOf cid c → attr ≠ 2 → attr ≠ 3 → t = s.store u ctx attr p bs false poisoned →
    (∀ q : PA, t.viewByte u q = if q.space = p.space ∧ p.addr ≤ q.addr ∧ q.addr < p.addr + bs.length then bs.getD (q.addr - p.addr) 0 else
      s.viewByte u q) ∧
    (∀ (v : CUnit) (q : PA), v ≠ u → t.viewByte v q = s.viewByte v q) ∧ t.mem = s.mem)

/-- At a unit's commit each line that holds a provisional copy of the unit, in its set or in the spill area, takes that copy's data as its committed copy in place of the
one it had; at a discard the copy goes and the committed copy stays. Other units' copies stay with their lines. A copy that an eviction
had written to memory leaves the line to memory in both cases (R541). Lines that hold nothing any more leave the Depot, and memory changes only where a
copy of a WT page is written through (R526). A killed command without a waybill, and each waybill of a context torn down, discards
its unit's copies (R540). -/
def Obligations.CommitAndDiscard : Prop :=
  (∀ (l : DLine) (u : CUnit) (ctx : Option Nat) (v : Prov), l.prov? u = some v →
    (v.written = false → (l.commit u ctx).data = v.data ∧ (l.commit u ctx).poison = v.poison ∧ (l.commit u ctx).owner = ctx ∧
      (l.discard u).data = l.data ∧ (l.discard u).poison = l.poison ∧ (l.discard u).owner = l.owner) ∧
    (v.written = true → (l.commit u ctx).data = [] ∧ (l.discard u).data = []) ∧
    (l.commit u ctx).pa = l.pa ∧ (l.discard u).pa = l.pa ∧
    (l.commit u ctx).prov? u = none ∧ (l.discard u).prov? u = none ∧
    (∀ w, w ≠ u → (l.commit u ctx).prov? w = l.prov? w ∧ (l.discard u).prov? w = l.prov? w)) ∧
  (∀ (l : DLine) (u : CUnit) (ctx : Option Nat), l.prov? u = none → l.commit u ctx = l ∧ l.discard u = l) ∧
  (∀ (s : State) (u : CUnit) (ctx : Option Nat), (∀ l ∈ s.depot.lines, ∀ v, l.prov? u = some v → v.through = false ∨ v.written = true) →
    s.commitUnit u ctx = { s with depot := { s.depot with
      lines := (s.depot.lines.map fun l => l.commit u ctx).filter fun l => !(l.data.isEmpty && l.provs.isEmpty) } }) ∧
  (∀ (s : State) (u : CUnit), s.discardUnit u = { s with depot := { s.depot with
      lines := (s.depot.lines.map fun l => l.discard u).filter fun l => !(l.data.isEmpty && l.provs.isEmpty) } }) ∧
  (∀ (s : State) (cid cause : Nat) (c : Cmd), s.cmd? cid = some c → c.waybill = none →
    ∀ l ∈ (s.killCmd cid cause).depot.lines, l.prov? (unitOf cid c) = none) ∧
  (∀ (s : State) (ctx : Nat) (x : Ctx), s.ctx? ctx = some x → x.dead = false → ∀ p ∈ s.ldg.wb, p.2.ctx = ctx →
    ∀ l ∈ (s.teardown ctx).depot.lines, l.prov? (some p.1, 0) = none)

/-- DEPOT_EVICTION of a committed copy that no evicted provisional copy leans on writes a dirty line back and drops it (R526); of a provisional copy no atomic has
changed it writes that copy to memory and keeps the committed copy; of one an atomic has changed it spills it, or with the spill area of its die full
tears its unit's context down with 0x0603 (R541, R542). WC_BUFFER_DRAIN writes an entry's bytes to memory; MERGING_BUFFER_DRAIN the oldest entry of the die's buffer
(R527, R531). CONFLICT_WAIT_RELEASE lets every waiting group issue again, then delivers waiting bags and continues Route operations (R543, R544). HOST_SNOOP answers with the committed copy of
the line, and gives it up when the host takes it (R536). -/
def Obligations.DepotAndBufferEvents : Prop :=
  (∀ (s : State) (sp : Space) (addr : Nat) (l : DLine) (p : PA), p = { space := sp, addr := addr } → s.dline? p = some l →
    (l.provs.any (·.written) = false → exec (.depotEviction sp addr none) s = .next
      ((if l.dirty = true ∧ l.data ≠ [] then s.memWrite l.pa l.data l.poison else s).mDepot fun d =>
        (d.putLine { l with data := [], dirty := false, poison := false, spilled := false }).tidy)) ∧
    (l.provs.any (·.written) = true → l.spilled = false → l.data ≠ [] → s.spillUsed (sliceOf p) < 1048576 →
      exec (.depotEviction sp addr none) s = .next (s.mDepot (·.putLine { l with spilled := true }))) ∧
    (∀ n v, l.provs[n]? = some v → v.spilled = false → v.written = false → v.atomic = false →
      exec (.depotEviction sp addr (some n)) s = .next ((s.memWrite p.line v.data v.poison).mDepot (·.putLine { l with
        data := if l.data = [] then s.memRead p.line 128 else l.data, poison := if l.data = [] then s.memPoisoned p.line 128 else l.poison
        provs := l.provs.set n { v with written := true } }))) ∧
    (∀ n v, l.provs[n]? = some v → v.spilled = false → v.written = false → v.atomic = true →
      (s.spillUsed (sliceOf p) < 1048576 → exec (.depotEviction sp addr (some n)) s = .next
        (s.mDepot (·.putLine { l with provs := l.provs.set n { v with spilled := true } }))) ∧
      (1048576 ≤ s.spillUsed (sliceOf p) → ∀ ctx, s.unitOwner v = some ctx → exec (.depotEviction sp addr (some n)) s = .next
        (s.tear ctx { code := 0x603, detail := detAddr p.line.addr 1 0xFF (stackOf p) 0 0 0 })))) ∧
  (∀ (s : State) (h idx : Nat) (e : WcEntry), s.live = true → (s.hearth h).wc[idx]? = some e → (s.hearth h).wc.Nodup →
    ∃ t, exec (.wcBufferDrain h idx) s = .next t ∧ (t.hearth h).wc = (s.hearth h).wc.erase e ∧
      t.mem = (e.bytes.foldl (fun u b => u.memWrite (e.pa.plus b.1) [b.2] false) s).mem ∧
      t = { s with hearths := { s.hearths with logical := t.hearths.logical }, mem := t.mem }) ∧
  (∀ (s : State) (die : Nat) (e : MergeEnt) (rest : List MergeEnt), s.live = true → s.depot.mergeBuf die = e :: rest →
    ∃ t, exec (.mergingBufferDrain die) s = .next t ∧ t.depot.mergeBuf die = rest ∧
      (∀ q, (∀ b ∈ e.bytes, e.pa.addr + b.1 ≠ q) → cellGet (t.mem.cells e.pa.space) q = cellGet (s.mem.cells e.pa.space) q) ∧
      ((e.bytes.map (·.1)).Nodup → ∀ b ∈ e.bytes, cellGet (t.mem.cells e.pa.space) (e.pa.addr + b.1) = b.2) ∧
      t = { s with depot := t.depot, mem := t.mem }) ∧
  (∀ s : State, s.live = true → ∃ u : State, exec .conflictWaitRelease s = .next (u.routes.ops.foldl (fun t o => t.advanceOp o.cid) u) ∧
    ∃ w : State, u = (List.range 8).foldl (fun t q => ((t.serai q).accs.filter fun a => a.left == 0 && a.owner == q).foldl
      (fun t a => t.bagStep q a.cid a.bag true) t) w ∧
    w = { s with depot := { s.depot with waits := [] }, hearths := { s.hearths with groups := w.hearths.groups } } ∧
    ∀ k, mapGet w.hearths.groups k = (mapGet s.hearths.groups k).map fun g =>
      if ∃ r ∈ s.depot.waits, gkey r = k then
        { g with st := if g.st = .stalled ∧ g.atBar = false ∧ g.binding = none then .ready else g.st, readyAt := s.time } else g) ∧
  (∀ (s : State) (addr : Nat) (p : PA), s.live = true → p = { space := .host, addr := addr / 128 * 128 } →
    ∃ t, exec (.hostSnoop addr false) s = .next t ∧ exec (.hostSnoop addr true) s = .next (t.dropCommitted p) ∧
      t.bus.hdmData = (match s.dline? p with | some l => l.data | none => []) ∧ t = { s with bus := t.bus })

/-- CACHE_PARITY_ERROR (R557): a clean L1 or instruction line and a clean committed Depot line are dropped and fetched again under 0x0601; a dirty L1 line is dropped, a provisional copy is
dropped, a dirty committed line is written to memory poisoned, each under 0x0602 against its context, and a local store word under 0x0602
against the block's. STACK_ECC_ERROR counts a correction under 0x0630, or poisons its 64-byte unit under 0x0631 (R767). POISON_CONSUMED tears down the context of a running
command whose byte is poisoned, with 0x0632 (R769). STACK_TEMP_SAMPLE holds the sample, raises the level to the highest threshold reached, under 0x0621 when it rises, and
raises 0x0622 at THR_CRIT (R574, R577); a level never falls by a sample. -/
def Obligations.MemoryErrors : Prop :=
  (∀ (s : State) (h idx loc : Nat) (prov : Option Nat) (l : L1Line), s.live = true → (s.hearth h).l1[idx]? = some l →
    (l.instr = true ∨ l.isDirty = false → exec (.cacheParityError 0 h idx loc prov) s = .next
      (((s.sramEvent loc true).mHearth h fun u => { u with l1 := u.l1.erase l }).refetched l.pa)) ∧
    (l.instr = false → l.isDirty = true → exec (.cacheParityError 0 h idx loc prov) s = .next
      (((s.sramEvent loc true).mHearth h fun u => { u with l1 := u.l1.erase l }).dataLost l.pa ((s.cmd? l.cid).map (·.ctx))))) ∧
  (∀ (s : State) (h idx loc : Nat) (l : DLine) (gone : State → State), s.live = true → s.depot.lines[idx]? = some l →
    gone = (fun t => t.mDepot fun d => (d.putLine { l with data := [], dirty := false, poison := false, spilled := false }).tidy) →
    (l.data ≠ [] → l.dirty = false → exec (.cacheParityError 1 h idx loc none) s = .next ((gone (s.sramEvent loc true)).refetched l.pa)) ∧
    (l.data ≠ [] → l.dirty = true → exec (.cacheParityError 1 h idx loc none) s = .next
      ((gone ((s.sramEvent loc true).memWrite l.pa l.data true)).dataLost l.pa l.owner)) ∧
    (∀ n v, l.provs[n]? = some v → exec (.cacheParityError 1 h idx loc (some n)) s = .next
      (((s.sramEvent loc true).mDepot fun d => (d.putLine { l with provs := l.provs.eraseIdx n }).tidy).dataLost l.pa (s.unitOwner v)))) ∧
  (∀ (s : State) (h idx loc : Nat) (prov : Option Nat) (b : Block), s.live = true → s.hearths.blocks[idx]? = some b →
    exec (.cacheParityError 2 h idx loc prov) s = .next ((s.sramEvent loc false).dataLost {} ((s.cmd? b.cid).map (·.ctx)))) ∧
  (∀ (s : State) (p : PA) (ctx : Nat), (∀ x, s.ctx? ctx = some x →
      s.dataLost p (some ctx) = (s.parityCount p true).tear ctx { code := 0x602, detail := detPa p }) ∧
    (s.ctx? ctx = none → s.dataLost p (some ctx) = (s.parityCount p true).raiseAs 0 { code := 0x602, detail := detPa p }) ∧
    s.dataLost p none = (s.parityCount p true).raiseAs 0 { code := 0x602, detail := detPa p }) ∧
  (∀ (s : State) (addr chan bank row : Nat) (lane : Option Nat), s.dev ≠ .off → inStackWindow addr 1 = true →
    (∃ t, exec (.stackEccError addr chan bank row true lane) s = .next t ∧ t.mem = s.mem ∧
      (s.flt.mgmtq.length < 1024 → s.flt.coal = [] → ∃ r ∈ t.flt.mgmtq, r.code = 0x630 ∧ r.sev = 2)) ∧
    (∃ t, exec (.stackEccError addr chan bank row false lane) s = .next t ∧ t.mem.stack = s.mem.stack ∧
      (∀ u, u ∈ t.mem.stackPoison ↔ u = addr / 64 * 64 ∨ u ∈ s.mem.stackPoison) ∧
      (s.flt.mgmtq.length < 1024 → ∃ r ∈ t.flt.mgmtq, r.code = 0x631 ∧ r.sev = 0))) ∧
  (∀ (s : State) (cid addr : Nat) (c : Cmd), s.live = true → s.cmd? cid = some c → c.st = .running → s.cmdPoison cid c addr 1 = true →
    exec (.poisonConsumed cid addr) s = .next (s.tearCmd c { code := 0x632, detail := detDa addr })) ∧
  (∀ (s : State) (stack : Nat) (temp : Int) (thr : Nat → Int) (old new : Nat), s.dev ≠ .off → s.img.loaded = true → stack < 8 →
    thr = (fun n => (nth s.img.thr n : Int) * 256) → old = s.throttle stack →
    new = (if thr 2 ≤ temp ∧ old < 3 then 3 else if thr 1 ≤ temp ∧ old < 2 then 2 else if thr 0 ≤ temp ∧ old < 1 then 1 else old) →
    ∃ t u, exec (.stackTempSample stack temp) s = .next t ∧ t.throttle stack = new ∧ old ≤ new ∧
      (mapGetD t.dampers.perStack stack {}).temp = BitVec.ofInt 16 temp ∧ (∀ k, k ≠ stack → t.throttle k = s.throttle k) ∧
      u = { s with dampers := t.dampers } ∧
      t = (let v := if old < new then u.raise { code := 0x621 } else u; if thr 3 ≤ temp then v.raise { code := 0x622 } else v))

/-- PAGE_WALK_COMPLETE: a Device Address at or above 2^52 translates to no page; one cached in the Hearth's TLB or the die's cache takes that page and walks nothing; else the page of the
walk enters both caches, and a walk that fails caches nothing (R582, R589, R595). ATS_TRANSLATION_COMPLETION holds the completion of its page, in place of an older
one (R587). INVALIDATE_TRANSLATIONS with an unaligned range, or naming no context of its function, is refused with 0x0717 (R597); else no cache holds a page of its contexts that
meets the range, held pages of other contexts are untouched, and it is pending (R599). ATS_INVALIDATE_REQUEST does so for a function's link addresses, up to 32 at a time. A context whose held page changed is torn down with 0x0706
(R600). INVALIDATION_COMPLETE commits the command or sends the Invalidate Completion (R599). -/
def Obligations.TranslationRows : Prop :=
  (∀ (s : State) (h ctx da : Nat) (c : Ctx), s.live = true → (s.hearth h).inService = true → s.ctx? ctx = some c →
    (∃ t, exec (.pageWalkComplete h ctx da false) s = .next t ∧ s.MemFrame t ∧ t.mem = s.mem ∧ t.depot = s.depot ∧
      (2 ^ 52 ≤ da → t = s) ∧
      (∀ p, da < 2 ^ 52 → findCtxTr (s.hearth h).tlb ctx da = some p → t = s) ∧
      (∀ p, da < 2 ^ 52 → findCtxTr (s.hearth h).tlb ctx da = none → findCtxTr (s.xlt.stc (hearthDie h)) ctx da = some p →
        (t.hearth h).tlb = ((ctx, p) :: (s.hearth h).tlb).take 512 ∧ t.xlt = s.xlt) ∧
      (∀ p, da < 2 ^ 52 → findCtxTr (s.hearth h).tlb ctx da = none → findCtxTr (s.xlt.stc (hearthDie h)) ctx da = none →
        s.walk (hearthDie h) c da = .ok p → (t.hearth h).tlb = ((ctx, p) :: (s.hearth h).tlb).take 512 ∧
          t.xlt.stc (hearthDie h) = ((ctx, p) :: s.xlt.stc (hearthDie h)).take 16384 ∧ t.xlt.walks = s.xlt.walks + 1) ∧
      (∀ e, da < 2 ^ 52 → findCtxTr (s.hearth h).tlb ctx da = none → findCtxTr (s.xlt.stc (hearthDie h)) ctx da = none →
        s.walk (hearthDie h) c da = .error e → (t.hearth h).tlb = (s.hearth h).tlb ∧
          t.xlt = { s.xlt with walks := s.xlt.walks + 1 })) ∧
    (∃ u, u = (s.dropTr h ctx c da).mXlt (fun x => { x with parity := x.parity + 1 }) ∧
      exec (.pageWalkComplete h ctx da true) s = exec (.pageWalkComplete h ctx da false) u ∧ findCtxTr (u.hearth h).tlb ctx da = none ∧
      (hearthDie h < 2 → findCtxTr (u.xlt.stc (hearthDie h)) ctx da = none))) ∧
  (∀ (s : State) (fn addr target : Nat) (read write : Bool), s.live = true →
    exec (.atsTranslationCompletion fn addr target read write) s = .next { s with xlt := { s.xlt with
      ats := ({ fn := fn, addr := addr / 4096 * 4096, target := target / 4096 * 4096, read := read, write := write } ::
        s.xlt.ats.filter fun o => !(o.fn == fn && o.addr == addr / 4096 * 4096)).take 16384 } }) ∧
  (∀ (s : State) (cid : Nat) (c : Cmd) (x : Ctx) (ctxs : List Nat) (a n : Nat), s.ctl? cid 0x25 = some (c, x) →
    ctxs = ((s.stk.ctxs.filter fun p => p.2.fn == c.fn).map (·.1)).filter (fun k => bit (c.arg 34 1) 0 || k == c.arg 32 2) →
    a = (if c.arg 48 8 = 0 then 0 else c.arg 40 8) → n = (if c.arg 48 8 = 0 then 2 ^ 64 else c.arg 48 8) →
    ((bit (c.arg 34 1) 0 = false ∧ ctxs = []) ∨ c.arg 40 8 % 4096 ≠ 0 ∨ c.arg 48 8 % 4096 ≠ 0 →
      exec (.invalidateTranslations cid) s = .next (s.refuse cid c { code := 0x717 })) ∧
    ((bit (c.arg 34 1) 0 = true ∨ ctxs ≠ []) → c.arg 40 8 % 4096 = 0 → c.arg 48 8 % 4096 = 0 →
      ∃ t, exec (.invalidateTranslations cid) s = .next t ∧ t.mem = s.mem ∧
        (∀ h, ∀ p ∈ (t.hearth h).tlb, p ∈ (s.hearth h).tlb ∧ ¬(p.1 ∈ ctxs ∧ meets p.2.da p.2.size a n = true)) ∧
        (∀ p ∈ t.xlt.stc0 ++ t.xlt.stc1, p ∈ s.xlt.stc0 ++ s.xlt.stc1 ∧ ¬(p.1 ∈ ctxs ∧ meets p.2.da p.2.size a n = true)) ∧
        t.xlt.pendingInv = s.xlt.pendingInv ++ [{ ctxs := ctxs, first := a, len := n, cid := some cid }] ∧
        (∀ k, k ∉ ctxs → t.ctx? k = s.ctx? k))) ∧
  (∀ (s : State) (fn addr len : Nat) (same : Bool), s.live = true →
    (32 ≤ (s.xlt.pendingInv.filter fun v => v.ats && v.fn == fn).length → exec (.atsInvalidateRequest fn addr len same) s = .next s) ∧
    ((s.xlt.pendingInv.filter fun v => v.ats && v.fn == fn).length < 32 →
      ∃ t, exec (.atsInvalidateRequest fn addr len same) s = .next t ∧ t.mem = s.mem ∧
        (∀ e ∈ t.xlt.ats, e ∈ s.xlt.ats ∧ ¬(e.fn = fn ∧ meets e.addr 4096 addr len = true)) ∧
        (∀ h, ∀ p ∈ (t.hearth h).tlb, p ∈ (s.hearth h).tlb) ∧
        (t.xlt.pendingInv.filter fun v => v.ats && v.fn == fn).length = (s.xlt.pendingInv.filter fun v => v.ats && v.fn == fn).length + 1 ∧
        (same = true → t.stk.ctxs = s.stk.ctxs))) ∧
  (∀ (s : State) (ctx da : Nat), s.heldChanged ctx da = (s.tear ctx { code := 0x706, detail := detDa da }).mXlt fun x =>
    { x with invalTeardowns := x.invalTeardowns + 1 }) ∧
  (∀ (s : State) (idx : Nat) (v : Inval) (u : State), s.live = true → s.xlt.pendingInv[idx]? = some v →
    u = { s with xlt := { s.xlt with pendingInv := s.xlt.pendingInv.eraseIdx idx, invals := s.xlt.invals + 1 } } →
    (v.cid = none → exec (.invalidationComplete idx) s = .next
      { u with xlt := { u.xlt with invalDone := (v.fn, v.first) :: u.xlt.invalDone } }) ∧
    (∀ cid c, v.cid = some cid → s.cmd? cid = some c → exec (.invalidationComplete idx) s = .next (u.commitCtl cid c)))

/-- In Service and Banked a host read of stack memory through a port's HDM range gives the committed bytes of its LPAs, and changes nothing but the bus
(R611, R612). A host write to no registered table's page writes those bytes in memory, and every unit without a provisional copy of the line sees them; a write to a registered table's
extents is dropped under 0x0341 (R270). Losing port 1 sends die 1's requests over port 0 under 0x0721 (R620); losing port 0 raises 0x0722, which
enters Quenched (R621); a flit that fails 16 replays raises 0x0611 (R40). -/
def Obligations.HostLinkRows : Prop :=
  (∀ (s : State) (port off len : Nat), s.hdmOn port = true → off + len ≤ 382252089344 →
    ∃ t, exec (.hostStackRead port off len) s = .next t ∧ t = { s with bus := t.bus } ∧
      t.bus.hdmData = (List.range len).map fun i => s.viewByte noUnit { space := .stack, addr := hdmAddr port (off + i) }) ∧
  (∀ (s : State) (port fn off : Nat) (data : List Byte) (poisoned : Bool) (p : Nat → PA), s.hdmOn port = true →
    off + data.length ≤ 382252089344 → p = (fun i => { space := .stack, addr := hdmAddr port (off + i) }) →
    ((∀ i n, i + n ≤ data.length → s.guardedBy (p i) n = none) → ∃ t, exec (.hostStackWrite port fn off data poisoned) s = .next t ∧
      t = { s with mem := t.mem, depot := t.depot } ∧
      (∀ i < data.length, cellGet t.mem.stack (p i).addr = data.getD i 0) ∧
      (∀ q, (∀ i < data.length, (p i).addr ≠ q) → cellGet t.mem.stack q = cellGet s.mem.stack q) ∧
      t.mem.host = s.mem.host ∧ t.mem.pool = s.mem.pool ∧
      (∀ (u : CUnit), ∀ i < data.length, (∀ l, s.dline? (p i) = some l → l.prov? u = none) → t.viewByte u (p i) = data.getD i 0)) ∧
    ((∃ i < data.length, s.guardedBy (p i) 1 ≠ none) → ∃ home, exec (.hostStackWrite port fn off data poisoned) s = .next
      ((s.mSeraiCnt home fun u => { u with refusedWrites := u.refusedWrites + 1 }).raiseAs 0
        { code := 0x341, fn := some fn, detail := detAddr (hdmAddr port off) 1 0xFF (stackOf (p 0)) 0 0 0 }))) ∧
  (∀ s : State, s.live = true → s.img.bx3 = false → s.pins.perst1 = false → s.xlt.port1.lost = false → exec .port1LinkLost s = .next
    ({ s with xlt := { s.xlt with port1 := { s.xlt.port1 with up := false, lost := true, rerouted := true } } }.raise { code := 0x721 })) ∧
  (∀ s : State, s.live = true → s.pins.perst0 = false → s.xlt.port0.lost = false →
    ∃ t, exec .port0LinkLost s = .next t ∧ t.xlt.port0.up = false ∧ t.xlt.port0.lost = true ∧ t.flt.quenchDue = some 0x722) ∧
  (∀ s : State, s.dev ≠ .off → exec (.causewayFlitFail 16) s = .next (s.raise { code := 0x611 }) ∧
    ∀ n < 16, exec (.causewayFlitFail n) s = .next s)

/-- COPY of an admitted command in its order: operands that break R561 tear its context down with 0x0607; a destination in a registered table's extents with
0x0341 (R270). With a Drover in service, and no destination line under another unit's provisional copy in Service, a memory-to-memory Copy to one page of stack memory writes its
source bytes there, finishes, and counts its bytes (R560 to R563); a Copy with a flash side moves blocks (R564). REHOME_SPAN of a span
that breaks R604 is refused with 0x0730; else its move begins and it finishes (R604, R605). -/
def Obligations.CopyAndRehome : Prop :=
  (∀ (s : State) (cid : Nat) (errs : List Nat) (c : Cmd), s.ready? cid 0x0F .admitted = some c → s.orderOk cid c = true →
    (s.copyOk c = false → exec (.copy cid errs) s = .next (s.tearCmd c { code := 0x607 })) ∧
    (s.copyOk c = true → ∀ tid, s.copyGuard c = some tid → ∃ home, exec (.copy cid errs) s = .next
      ((s.mSeraiCnt home fun u => { u with refusedWrites := u.refusedWrites + 1 }).tearCmd c
        { code := 0x341, dkind := 2, detail := s.copyGuardDet c })) ∧
    (s.copyOk c = true → s.copyGuard c = none → s.drovers.inService ≠ 0 →
      (∀ pg, cpSrcFlash c = false → cpDstFlash c = false → s.cmdConflict cid c (c.arg 40 8) (cpLen c) = false → pg ∈ c.tset →
        pg.space = .stack → (∀ k < cpLen c, findTr c.tset (c.arg 40 8 + k) = some pg) →
        ∃ t, exec (.copy cid errs) s = .next t ∧ (t.cmd? cid).map (·.st) = some .finished ∧
          t.drovers.bytes = s.drovers.bytes + BitVec.ofNat 64 (cpLen c) ∧
          (∀ k < cpLen c, cellGet t.mem.stack (pg.target + (c.arg 40 8 + k - pg.da)) = (s.cmdRead cid c (c.arg 32 8) (cpLen c)).getD k 0)) ∧
      (cpSrcFlash c = true → s.cmdConflict cid c (c.arg 40 8) (cpLen c) = false → ∃ t, exec (.copy cid errs) s = .next t ∧ t = (s.countDrove c (cpLen c)).copyFlashIn cid c errs ∧
        (t.cmd? cid).map (·.st) = some .finished) ∧
      (cpSrcFlash c = false → cpDstFlash c = true → ∃ t, exec (.copy cid errs) s = .next t ∧
        t = (s.countDrove c (cpLen c)).copyFlashOut cid c ∧ (t.cmd? cid).map (·.st) = some .finished))) ∧
  (∀ (s : State) (cid tid : Nat) (c : Cmd), s.ready? cid 0x14 .admitted = some c → s.orderOk cid c = true → tid = c.arg 32 2 →
    (s.usable c tid = none → exec (.rehomeSpan cid) s = .next (s.refuseEngine cid c tid 0x730)) ∧
    (∀ t x, s.usable c tid = some t → s.ctx? c.ctx = some x →
      (s.rehomeOk cid c x t = none → exec (.rehomeSpan cid) s = .next (s.refuseEngine cid c tid 0x730)) ∧
      (∀ m, s.rehomeOk cid c x t = some m → ∃ u, exec (.rehomeSpan cid) s = .next u ∧ (u.cmd? cid).map (·.st) = some .finished ∧
        (u.rt tid).moves = (s.rt tid).moves ++ [m] ∧ m.oldSpan = c.arg 40 8 ∧ m.newSpan = c.arg 48 8 ∧ m.committed = false)))

/-- A row serves the request it takes, and no other code (R857). A function other than 0 is PERMISSION for every code but GET_INFO, Kindling is NOT_READY, a malformed request INVALID (R858, R860); else ENTER_BANKED and LEAVE_BANKED post their request in Service and Banked and are WRONG_STATE elsewhere (R839); the logs are read
from the SEQ or LSEQ given; CHIMNEY_CONFIG holds an accepted block for the next boundary (R793) and is INVALID else; STAGE_BEGIN erases the staging area and opens the one session, STAGE_DATA writes into it, and STAGE_COMMIT writes the slot of the lower SLOT_GEN when the bytes verify, and closes the session (R861, R862); SET_RTC sets the clock (R959). A code that
R858 does not list is UNKNOWN_CODE. MAILBOX_OVERRUN sets OVERRUN of a busy Mailbox (R854). MCTP, PLDM and SPDM rows act while the firmware runs; PLDM_FIRMWARE_UPDATE in recovery too (R865 to R869). Sensor and measurement values are those of their state (numbering: the model's choice, log entry 23). -/
def Obligations.WardenRequests : Prop :=
  (∀ (s : State) (src : Option Nat) (req b : List Byte) (code : Nat) (i : Instr), s.requestOf src req = some b → fld b 0 2 = code →
    (code, i) ∈ ([(1, .getInfo src req), (2, .enterBanked src req), (3, .leaveBanked src req), (0x10, .readErrorLog src req),
      (0x11, .readSparingLog src req), (0x20, .chimneyConfig src req), (0x30, .stageBegin src req), (0x31, .stageData src req),
      (0x32, .stageCommit src req true), (0x32, .stageCommit src req false), (0x50, .setRtc src req)] : List (Nat × Instr)) →
    (∀ f, code ≠ 1 → src = some f → f ≠ 0 → exec i s = .next (s.respond src (s.reqTag src) { code := code, status := 3 })) ∧
    (code ≠ 1 → src = none ∨ src = some 0 → s.dev = .kindling → exec i s = .next (s.respond src (s.reqTag src) { code := code, status := 8 })) ∧
    (code = 1 ∨ src = none ∨ src = some 0 → code = 1 ∨ s.dev ≠ .kindling → fld b 2 2 ≠ 0 ∨ 240 < reqLen b →
      exec i s = .next (s.respond src (s.reqTag src) { code := code, status := 2 }))) ∧
  (∀ (s : State) (src : Option Nat) (req : List Byte), s.requestOf src req = none → ∀ i ∈ ([.getInfo src req, .enterBanked src req,
      .leaveBanked src req, .readErrorLog src req, .readSparingLog src req, .chimneyConfig src req, .stageBegin src req, .stageData src req,
      .stageCommit src req true, .setRtc src req] : List Instr), exec i s = .next s) ∧
  (∀ (s : State) (src : Option Nat) (req b : List Byte), s.requestOf src req = some b → fld b 0 2 ∉ reqCodes →
    exec (.getInfo src req) s = .next (s.respond src (s.reqTag src) { code := fld b 0 2, status := 7 })) ∧
  (∀ (s : State) (src : Option Nat) (req b : List Byte) (code : Nat) (answer : MgmtRsp → State), s.requestOf src req = some b → fld b 0 2 = code →
    fld b 2 2 = 0 → reqLen b ≤ 240 → src = none ∨ src = some 0 → s.dev ≠ .kindling → (∀ r, answer r = s.respond src (s.reqTag src) { r with code := code }) →
    (code = 1 → arg0 b = 0 → arg1 b = 0 → reqLen b = 0 → exec (.getInfo src req) s = .next (answer { data := s.info })) ∧
    (code = 2 → arg0 b = 0 → arg1 b = 0 → reqLen b = 0 →
      (s.dev = .service → s.img.bx3 = false → s.flt.quenchDue = none → s.warden.stateReq = none → exec (.enterBanked src req) s = .next
        (s.mWarden fun w => { w with stateReq := some { toBanked := true, fn := src, tag := s.reqTag src } })) ∧
      (s.dev ≠ .service ∨ s.img.bx3 = true → exec (.enterBanked src req) s = .next (answer { status := 4 }))) ∧
    (code = 3 → arg0 b = 0 → arg1 b = 0 → reqLen b = 0 →
      (s.dev = .banked → s.flt.quenchDue = none → s.warden.stateReq = none → exec (.leaveBanked src req) s = .next
        (s.mWarden fun w => { w with stateReq := some { toBanked := false, fn := src, tag := s.reqTag src } })) ∧
      (s.dev ≠ .banked → exec (.leaveBanked src req) s = .next (answer { status := 4 }))) ∧
    (code = 0x10 → reqLen b = 0 → ∃ r, exec (.readErrorLog src req) s = .next (answer r) ∧ r.status = 0 ∧ ∃ l : List FaultRec, r.data = l.flatMap faultBytes ∧
      l.length ≤ 15 ∧ ∀ x ∈ l, x ∈ s.warden.errorLog ∧ arg0 b + arg1 b * 2 ^ 32 ≤ x.seq.toNat) ∧
    (code = 0x11 → arg1 b = 0 → reqLen b = 0 → ∃ r, exec (.readSparingLog src req) s = .next (answer r) ∧ r.status = 0 ∧
      r.data = ((s.warden.sparingLog.filter fun e => decide (arg0 b ≤ e.lseq.toNat)).take 31).flatMap sparingBytes) ∧
    (code = 0x20 → arg0 b = 0 → arg1 b = 0 →
      (reqLen b ≠ 64 ∨ fld (reqData b) 0 1 = 1 ∧ counterBlockOk (reqData b) = false ∨ fld (reqData b) 0 1 = 2 ∧ traceBlockOk (reqData b) = false ∨
        fld (reqData b) 0 1 ≠ 1 ∧ fld (reqData b) 0 1 ≠ 2 → exec (.chimneyConfig src req) s = .next (answer { status := 2 })) ∧
      (reqLen b = 64 → fld (reqData b) 0 1 = 1 ∧ counterBlockOk (reqData b) = true ∨ fld (reqData b) 0 1 = 2 ∧ traceBlockOk (reqData b) = true →
        s.dev ≠ .off → exec (.chimneyConfig src req) s = .next ((s.acceptBlock (reqData b)).respond src (s.reqTag src) { code := code }))) ∧
    (code = 0x30 → reqLen b = 0 →
      (arg0 b ≠ 1 → arg0 b ≠ 2 → exec (.stageBegin src req) s = .next (answer { status := 2 })) ∧
      (arg0 b = 1 ∨ arg0 b = 2 →
        (slotBytes (arg0 b == 2) - 64 < arg1 b → exec (.stageBegin src req) s = .next (answer { status := 2 })) ∧
        (arg1 b ≤ slotBytes (arg0 b == 2) - 64 → s.warden.staging ≠ none → exec (.stageBegin src req) s = .next (answer { status := 5 })) ∧
        (arg1 b ≤ slotBytes (arg0 b == 2) - 64 → s.warden.staging = none → exec (.stageBegin src req) s = .next
          ((s.stageOpen (arg0 b == 2) (arg1 b)).respond src (s.reqTag src) { code := code })))) ∧
    (code = 0x31 → arg1 b = 0 → 0 < reqLen b →
      (s.warden.staging = none → exec (.stageData src req) s = .next (answer { status := 4 })) ∧
      (∀ st, s.warden.staging = some st → (st.len < arg0 b + reqLen b → exec (.stageData src req) s = .next (answer { status := 2 })) ∧
        (arg0 b + reqLen b ≤ st.len → exec (.stageData src req) s = .next ((s.mWarden fun w => { w with
          qspi := cellsSet w.qspi (stagingBase + arg0 b) (reqData b) }).respond src (s.reqTag src) { code := code })))) ∧
    (code = 0x32 → arg1 b = 0 → reqLen b = 0 → arg0 b ≤ 1 → ∀ sig,
      (s.warden.staging = none → exec (.stageCommit src req sig) s = .next (answer { status := 4 })) ∧
      (∀ st, s.warden.staging = some st → (arg0 b = 0 ∨ st.image = false) → exec (.stageCommit src req sig) s = .next
        ((s.stageClose st sig (arg0 b == 1)).1.respond src (s.reqTag src) { code := code, status := if s.stagedOk st.image sig then 0 else 6 }))) ∧
    (code = 0x50 → reqLen b = 0 → exec (.setRtc src req) s = .next
      ((s.mWarden fun w => { w with rtc := arg0 b + arg1 b * 2 ^ 32 }).respond src (s.reqTag src) { code := code }))) ∧
  (∀ (s : State) (st : Staging) (sig act : Bool) (t : State), t = (s.stageClose st sig act).1 → t.warden.staging = none ∧
    (s.stagedOk st.image sig = false → t.warden.qspi = s.warden.qspi ∧ t.warden.activate = s.warden.activate) ∧
    (s.stagedOk st.image sig = true → t.warden.qspi = writeSlot s.warden.qspi st.image st.len)) ∧
  (∀ (s : State) (fn : Nat), ((s.log fn).mbx.busy = false → exec (.mailboxOverrun fn) s = .next s) ∧
    ((s.log fn).mbx.busy = true → exec (.mailboxOverrun fn) s = .next (s.mLog fn fun l => { l with mbx := { l.mbx with overrun := true } }))) ∧
  (∀ (s : State) (a r : Option Nat) (n cur : Nat) (image sig act : Bool) (data : List Byte), 
    (s.warden.running = true →
      exec (.mctpControl a) s = .next (s.mWarden fun w => { w with eidI3c := a.getD w.eidI3c }) ∧
      exec (.pldmSetEventReceiver r) s = .next (s.mWarden fun w => { w with eventReceiver := r }) ∧
      exec (.pldmSensorRead n cur) s = .next (s.mWarden fun w => { w with sensor := s.sensorValue n cur }) ∧
      (1 ≤ n → n ≤ 5 → exec (.spdmGetMeasurements n) s = .next (s.mWarden fun w => { w with digest := s.measurement n }))) ∧
    (s.warden.running = false → exec (.mctpControl a) s = .next s ∧ exec (.pldmSetEventReceiver r) s = .next s ∧
      exec (.pldmSensorRead n cur) s = .next s ∧ exec (.spdmGetMeasurements n) s = .next s) ∧
    (s.warden.running = true ∨ s.warden.recovery = true → s.warden.staging = none → data.length ≤ slotBytes image - 64 → ∃ u : State,
      u = (s.stageOpen image data.length).mWarden (fun w => { w with qspi := cellsSet w.qspi stagingBase data }) ∧
      exec (.pldmFirmwareUpdate image data sig act) s = .next (u.stageClose { image := image, len := data.length, pldm := true } sig act).1) ∧
    (s.warden.running = false → s.warden.recovery = false → exec (.pldmFirmwareUpdate image data sig act) s = .next s))

/-- While the host link is presented: a dropped access counts in GLB_BAD_ACCESS of its function, and a dropped read returns 0 (R907). A read of a LO register returns its half and latches the HI half for the reading function, a read of the HI register returns the latch, and an 8-byte read of a pair returns one value (R910). A
write is one 4-byte write, or two, the lower first (R907); it takes selectors (R909), a request and GO of the Mailbox, where GO of a busy one counts as an overrun (R853, R854), W1C bits that are written 1 and no others (R12), and bases and sizes only while their unit is disabled (R129, R692, R954). FLT_FN_LOG_CFG takes LOG2 only while EN is 0 and in range, and a new EN restarts
its count (R791, R954). A function that is not presented has no effect. -/
def Obligations.RegisterAccesses : Prop :=
  (∀ (s : State) (fn : Nat), (s.presented = false ∨ s.fnExists fn = false → ∀ bar off v wide rd, exec (.barAccessDropped fn rd) s = .next s ∧
      exec (.latchingLoRead fn bar off wide) s = .next s ∧ exec (.registerWrite fn bar off v wide) s = .next s) ∧
    (s.presented = true → s.fnExists fn = true → ∀ u, u = s.mLog fn (fun l => { l with badAccess := l.badAccess + 1 }) →
      exec (.barAccessDropped fn false) s = .next u ∧ exec (.barAccessDropped fn true) s = .next (u.mBus fun x => { x with readValue := 0 }))) ∧
  (∀ (s : State) (fn off blk r : Nat), s.presented = true → s.fnExists fn = true → blk = off / 65536 → r = off % 65536 →
    s.blockOn fn blk = true → off % 4 = 0 →
    (∀ v, s.pair blk r = some v → ∃ t, exec (.latchingLoRead fn s.windowBar off false) s = .next t ∧
      t.bus.readValue = BitVec.ofNat 64 (v % 2 ^ 32) ∧ mapGet (t.log fn).latch (off + 4) = some (BitVec.ofNat 32 (v / 2 ^ 32)) ∧
      t.mem = s.mem ∧ t.bx = s.bx) ∧
    (s.pair blk r = none → 4 ≤ r → s.pair blk (r - 4) ≠ none → exec (.latchingLoRead fn s.windowBar off false) s = .next
      (s.mBus fun x => { x with readValue := BitVec.ofNat 64 (mapGetD (s.log fn).latch off 0).toNat })) ∧
    (s.pair blk r = none → r < 4 ∨ s.pair blk (r - 4) = none → exec (.latchingLoRead fn s.windowBar off false) s = .next
      (s.mBus fun x => { x with readValue := BitVec.ofNat 64 (s.readBlock fn blk r) }))) ∧
  (∀ (s : State) (fn bar off v : Nat), s.presented = true → s.fnExists fn = true →
    (off % 4 ≠ 0 → ∀ wide, exec (.registerWrite fn bar off v wide) s = .next s ∧ exec (.latchingLoRead fn bar off wide) s = .next s) ∧
    (off % 4 = 0 → exec (.registerWrite fn bar off v false) s = .next (s.write4 fn bar off (v % 2 ^ 32))) ∧
    (off % 8 = 0 → exec (.registerWrite fn bar off v true) s = .next ((s.write4 fn bar off (v % 2 ^ 32)).write4 fn bar (off + 4) (v / 2 ^ 32 % 2 ^ 32)))) ∧
  (∀ (s : State) (v : Nat), s.live = true → s.hostOn = true → s.img.bx3 = false → v < 2 ^ 32 →
    exec (.registerWrite 0 0 0x70000 v false) s = .next (if v % 256 < 160 then s.mHearths fun u => { u with sel := v % 256 } else s) ∧
    exec (.registerWrite 0 0 0x40000 v false) s = .next (s.mStk fun u => { u with fnSel := v % 32 }) ∧
    exec (.registerWrite 0 0 0xF0050 v false) s = .next (s.mRoutes fun u => { u with chanSel := v % 16 }) ∧
    exec (.registerWrite 0 0 0x10014 v false) s = .next (s.mTck fun t => { t with
      holdoverExpired := t.holdoverExpired && !bit v 4, periodMismatch := t.periodMismatch && !bit v 3
      numMismatch := t.numMismatch && !bit v 2 }) ∧
    (s.ldg.capEn = true → exec (.registerWrite 0 0 0x30020 v false) s = .next s ∧ exec (.registerWrite 0 0 0x30028 v false) s = .next s) ∧
    (s.ldg.capEn = false → exec (.registerWrite 0 0 0x30020 v false) s = .next (s.mLdg fun l => { l with
        capBase := BitVec.ofNat 64 (l.capBase.toNat / 2 ^ 32 * 2 ^ 32 + v / 4096 * 4096) }) ∧
      (24 ≤ v % 64 → v % 64 ≤ 36 → exec (.registerWrite 0 0 0x30028 v false) s = .next (s.mLdg fun l => { l with capLog2 := v % 64 })) ∧
      (v % 64 < 24 ∨ 36 < v % 64 → exec (.registerWrite 0 0 0x30028 v false) s = .next s)) ∧
    exec (.registerWrite 0 0 0x3002C v false) s = exec (.captureConfig 0 v) s) ∧
  (∀ (s : State) (fn v : Nat), s.live = true → s.hostOn = true → s.img.bx3 = false → fn ≤ s.img.totalVfs → v < 2 ^ 32 →
    exec (.registerWrite fn 2 (65536 * fn) v false) s = exec (.doorbell fn v) s ∧
    exec (.registerWrite fn 2 (65536 * fn + 0x18) v false) s = exec (.ringEnable fn v) s ∧
    exec (.registerWrite fn 2 (65536 * fn + 0x3008) v false) s = exec (.functionLogConfig fn v) s ∧
    ((s.fn fn).en = true → exec (.registerWrite fn 2 (65536 * fn + 0x10) v false) s = .next s) ∧
    ((s.fn fn).en = false → exec (.registerWrite fn 2 (65536 * fn + 0x10) v false) s = .next (s.mFn fn fun f => { f with
      ringBase := BitVec.ofNat 64 (f.ringBase.toNat / 2 ^ 32 * 2 ^ 32 + v / 4096 * 4096) })) ∧
    exec (.registerWrite fn 2 (65536 * fn + 0x24) v false) s = .next (if bit v 3 then s.mFn fn fun f => { f with dbErr := false } else s) ∧
    exec (.registerWrite fn 0 0x130004 v false) s = .next (s.mLog fn fun l => { l with mbx := { l.mbx with
      restarted := l.mbx.restarted && !bit v 3, overrun := l.mbx.overrun && !bit v 2, done := l.mbx.done && !bit v 1 } }) ∧
    ((s.log fn).mbx.busy = true → bit v 31 = true → exec (.registerWrite fn 0 0x130000 v false) s = .next (s.mLog fn fun l => { l with
      mbx := { l.mbx with tag := BitVec.ofNat 16 v, overrun := true } })) ∧
    ((s.log fn).mbx.busy = false → bit v 31 = true → ∃ t, exec (.registerWrite fn 0 0x130000 v false) s = .next t ∧
      (t.log fn).mbx.busy = true ∧ (t.log fn).mbx.done = false ∧ (t.log fn).mbx.inFlightTag = BitVec.ofNat 16 v ∧
      (t.log fn).mbx.inFlight = (List.range 64).map fun i => mapGetD (s.log fn).mbx.req i 0)) ∧
  (∀ (s : State) (fn v : Nat), s.pageOn fn = true →
    (bits v 4 1 < 6 ∨ 14 < bits v 4 1 → exec (.functionLogConfig fn v) s = .next s) ∧
    (6 ≤ bits v 4 1 → bits v 4 1 ≤ 14 → ∃ t, exec (.functionLogConfig fn v) s = .next t ∧ (t.log fn).en = bit v 0 ∧
      (t.log fn).base = (s.log fn).base ∧ (t.log fn).log2 = (if (s.log fn).en then (s.log fn).log2 else bits v 4 1) ∧
      (t.log fn).cnt = (if (s.log fn).en = false ∧ bit v 0 = true then 0 else (s.log fn).cnt)))

/-- Every frame row on a port that is UP: a trailer that fails is counted and NAKed, and past 1,024 in a tick the port goes SUSPECT; a later LSEQ is NAKed; an earlier one is dropped and counted in RTE_REPLAYS (R713, R719); a form that
breaks R721, or more than 64 frames other than DATA within 1 µs, quarantines the port. A port that is not UP takes none. Then: DATA past the credit, DATA out of place, START above NEXT_SEQ or beside a held one, DONE before TOTAL, and a CREDIT count that
decreases or exceeds the frames sent each quarantine the port with their reason; a frame below NEXT_SEQ is counted as stale (R721). A START that meets no operation is held (R726). NAK resends the kept frames from the one named; CREDIT lets operations send on. TICK reaches the follower when the
port is the tick source; LANE moves a transmit lane to the spare (R697). HELLO, or SPDM outside a key update, on an UP port is a quarantine. -/
def Obligations.RouteFrameChecks : Prop :=
  (∀ (s : State) (p edge lane : Nat) (f : Frame) (tr : Bool) (i : Instr),
    (i = .dataFrame p f tr ∧ (f.type < 2 ∨ 9 < f.type) ∨ i = .startFrame p f tr ∧ f.type = 2 ∨ i = .doneFrame p f tr ∧ f.type = 3 ∨
      i = .abortFrame p f tr ∧ f.type = 4 ∨ i = .creditFrame p f tr ∧ f.type = 5 ∨ i = .nakFrame p f tr ∧ f.type = 6 ∨
      i = .controlTick p f tr edge ∧ ctlSubtype f = 1 ∨ i = .controlKeepalive p f tr ∧ ctlSubtype f = 2 ∨
      i = .controlLane p f tr lane ∧ ctlSubtype f = 3) →
    (s.routesOn = false ∨ (s.port p).st ≠ .up → exec i s = .next s) ∧
    (s.routesOn = true → (s.port p).st = .up →
      (∀ v, tr = false → v = (s.mPort p fun q => { q with trailerTick := q.trailerTick + 1 }).mPortCnt p
          (fun c => { c with trailerFails := c.trailerFails + 1 }) →
        exec i s = .next (if 1024 < (s.port p).trailerTick + 1 then v.suspect p else v.sendNak p)) ∧
      (tr = true → (s.port p).rxLseq < f.lseq → exec i s = .next (s.sendNak p)) ∧
      (tr = true → f.lseq < (s.port p).rxLseq → exec i s = .next (s.mPortCnt p fun c => { c with replays := c.replays + 1 })) ∧
      (tr = true → f.lseq = (s.port p).rxLseq → frameOk f = false ∨ f.type ≠ 1 ∧ 64 < (s.burstNow p).length →
        exec i s = .next ((s.tookFrame p f).quarantine p 4)))) ∧
  (∀ (s u v : State) (p edge lane : Nat) (f : Frame) (c : Chan), s.AcceptsFrame p f → u = s.tookFrame p f → c = u.chanOf p f →
    (f.type = 1 → v = u.mPort p (fun q => { q with dataGot := q.dataGot + 1 }) →
      (256 ≤ ((u.port p).dataGot - (u.port p).dataFreed).toNat → exec (.dataFrame p f true) s = .next (u.quarantine p 5)) ∧
      (((u.port p).dataGot - (u.port p).dataFreed).toNat < 256 →
        (c.below f = true → exec (.dataFrame p f true) s = .next ((v.stale p).freeData p 1)) ∧
        (c.below f = false → c.orphan ≠ some f.seq → (∀ o l, v.current? p f = some (o, l) →
          (l.doneGot = true → exec (.dataFrame p f true) s = .next ((v.stale p).freeData p 1)) ∧
          (l.doneGot = false → f.offset.toNat * 32 ≠ l.got ∨ l.total.getD 0 < l.got + f.payload.length →
            exec (.dataFrame p f true) s = .next (v.quarantine p 4)) ∧
          (l.doneGot = false → f.offset.toNat * 32 = l.got → l.got + f.payload.length ≤ l.total.getD 0 →
            exec (.dataFrame p f true) s = .next (((v.mLink o.cid p fun l => { l with
              got := l.got + f.payload.length, data := l.data ++ f.payload }).freeData p 1).runOp o.cid))) ∧
        (v.current? p f = none → ∀ h, c.heldStart = some h → h.epoch = f.epoch → h.seq = f.seq →
          exec (.dataFrame p f true) s = .next (v.mChan p f.channel fun c => { c with heldData := c.heldData ++ [f] }))))) ∧
    (f.type = 2 →
      (c.below f = true → exec (.startFrame p f true) s = .next (u.stale p)) ∧
      (c.below f = false → c.atNext f = false ∨ c.heldStart ≠ none → exec (.startFrame p f true) s = .next (u.quarantine p 4)) ∧
      (c.below f = false → c.atNext f = true → c.heldStart = none →
        (∀ o l, u.current? p f = some (o, l) → exec (.startFrame p f true) s = .next (if l.total.isSome then u.stale p else u.meetStart p o l f)) ∧
        (u.current? p f = none → c.orphan ≠ some f.seq → exec (.startFrame p f true) s = .next
          (u.mChan p f.channel fun c => { c with heldStart := some f })))) ∧
    (f.type = 3 →
      (c.below f = true → exec (.doneFrame p f true) s = .next (u.stale p)) ∧
      (c.below f = false → c.orphan ≠ some f.seq →
        (u.current? p f = none → exec (.doneFrame p f true) s = .next (u.stale p)) ∧
        (∀ o l, u.current? p f = some (o, l) → l.doneGot = false → l.total ≠ some l.got →
          exec (.doneFrame p f true) s = .next (u.quarantine p 4)) ∧
        (∀ o l w, u.current? p f = some (o, l) → l.doneGot = false → l.total = some l.got →
          w = u.mLink o.cid p (fun l => { l with doneGot := true }) →
          exec (.doneFrame p f true) s = .next ((if l.doneSent then w.linkDone o l else w).advanceOp o.cid)))) ∧
    (f.type = 4 → v = u.mPortCnt p (fun c => { c with abortsRx := c.abortsRx + 1 }) →
      (c.below f = true → exec (.abortFrame p f true) s = .next (v.stale p)) ∧
      (c.below f = false → c.orphan ≠ some f.seq → ∀ o l, v.current? p f = some (o, l) → l.doneGot = false →
        exec (.abortFrame p f true) s = .next ((if l.doneSent then v else v.sendAbort o l (if f.arg.toNat = 1 then 1 else 3)).aborted p o
          (f.arg.toNat == 1)))) ∧
    (f.type = 5 →
      (((u.port p).dataSent - (u.port p).creditGot).toNat < (f.arg - (u.port p).creditGot).toNat →
        exec (.creditFrame p f true) s = .next (u.quarantine p 5)) ∧
      ((f.arg - (u.port p).creditGot).toNat ≤ ((u.port p).dataSent - (u.port p).creditGot).toNat →
        v = u.mPort p (fun q => { q with creditGot := f.arg }) →
        exec (.creditFrame p f true) s = .next ((v.routes.ops.filter fun o => (o.link? p).isSome).foldl (fun (w : State) o => w.runOp o.cid) v))) ∧
    (f.type = 6 → exec (.nakFrame p f true) s = .next (u.mPort p fun q => { q with
      outbox := (q.sent.filter fun g => decide ((g.lseq.setWidth 32 - f.arg).toNat < 128)) ++ q.outbox })) ∧
    (ctlSubtype f = 1 → exec (.controlTick p f true edge) s = .next (if u.routeSource p then u.follow true true (fld f.payload 8 8) edge else u)) ∧
    (ctlSubtype f = 2 → exec (.controlKeepalive p f true) s = .next u) ∧
    (ctlSubtype f = 3 →
      ((u.port p).txLanes.getLsbD lane = true → (u.port p).txLanes.getLsbD 8 = false → (u.routePolicy p).sparePresent = true →
        exec (.controlLane p f true lane) s = .next (((u.mPort p fun q => { q with txLanes := swapLane q.txLanes lane }).mPortCnt p fun c =>
          { c with laneSwaps := c.laneSwaps + 1 }).laneSpared p lane (some 8) 0x801)) ∧
      ((u.port p).txLanes.getLsbD lane = false ∨ (u.port p).txLanes.getLsbD 8 = true ∨ (u.routePolicy p).sparePresent = false →
        exec (.controlLane p f true lane) s = .next u)) ∧
    (f.type = 8 → ∀ serial nonce enc rtt again, exec (.helloFrame p f true serial nonce enc rtt again) s = .next (u.quarantine p 4)) ∧
    (f.type = 9 → ∀ final ok digest, exec (.spdmFrame p f true false final ok digest) s = .next (u.quarantine p 4) ∧
      exec (.spdmFrame p f true true true ok digest) s = .next (u.mPort p fun q => { q with rekeying := false, keyTx := 0, keyRx := 0 }))) ∧
  (∀ (c : Chan) (f : Frame), (c.below f = true ↔ f.epoch < c.epoch ∨ f.epoch = c.epoch ∧ f.seq < c.nextSeq) ∧
    (c.atNext f = true ↔ (f.epoch = c.epoch → f.seq = c.nextSeq) ∧ (f.epoch ≠ c.epoch → f.seq = 0)))

/-- Training starts on an enabled port that is DOWN or SUSPECT; it chooses eight lanes, or four with ALLOW_HALF under 0x0802 (R698, R705). FEC lock numbers frames from 0 and sends HELLO (R719). A HELLO with our own nonce draws a new one, else the smaller nonce requests (R706). The end of the session checks the chain, the pin and the partner's ENC
(R708, R709), each failure with its reason, and else the port is UP with fresh channels and 256 DATA credits (R716, R720). A failed step leaves the port DOWN; in recovery the third failure or 2 s quarantine it (R705, R713). A failing receive lane of an UP port goes to the spare (0x0801), else to half width (0x0802), else the port is SUSPECT (R697, R698).
KEEPALIVE, the automatic key update (R712) and LOAD_ROUTE_KEY (R710, R711) act as stated, and a refused key command raises 0x0809. A QUARANTINED port counts its quarantines, holds REQUALIFY_S · 2^(k−1) s, at most 3,600 s, and no operation names it any more (R714, R715). -/
def Obligations.RoutePortStates : Prop :=
  (∀ (s : State) (p rxBad txBad lane nonce : Nat) (q : RPort) (pol : RoutePolicy), s.routesOn = true → p < 8 → q = s.port p → pol = s.routePolicy p →
    (pol.enable = true → q.st = .down ∨ q.st = .suspect → q.stage = 0 → exec (.routeTrainingStart p) s = .next
      (s.mPort p fun q => { q with stage := 1, rxLanes := 0, txLanes := 0, half := false })) ∧
    (∀ rx tx, q.stage = 1 → rx = trainLanes pol.sparePresent rxBad → tx = trainLanes pol.sparePresent txBad →
      (popCount 9 rx.toNat = 8 ∧ popCount 9 tx.toNat = 8 → exec (.routeTrainingComplete p rxBad txBad) s = .next
        (s.mPort p fun q => { q with stage := 2, rxLanes := rx, txLanes := tx })) ∧
      (¬(popCount 9 rx.toNat = 8 ∧ popCount 9 tx.toNat = 8) →
        (pol.allowHalf = true → 4 ≤ popCount 9 rx.toNat → 4 ≤ popCount 9 tx.toNat → exec (.routeTrainingComplete p rxBad txBad) s = .next
          ((s.mPort p fun q => { q with stage := 2, half := true, rxLanes := lowLanes rx 4, txLanes := lowLanes tx 4 }).raise
            { code := 0x802, detail := s.detPort p 0 0xFF 0xFF 0 0 })) ∧
        (pol.allowHalf = false ∨ popCount 9 rx.toNat < 4 ∨ popCount 9 tx.toNat < 4 →
          exec (.routeTrainingComplete p rxBad txBad) s = .next (s.bringupFailed p)))) ∧
    (q.stage = 2 → ∃ v : State, exec (.fecLock p nonce) s = .next (v.sendFrame p (v.helloFrame p nonce)) ∧ v = s.mPort p (fun x => { x with
      st := if q.st = .suspect then .suspect else .auth, stage := 3, txLseq := 0, rxLseq := 0, sent := [], nonce := BitVec.ofNat 64 nonce })) ∧
    (q.stage = 4 → q.st = .auth → exec (.routeBringupTimeout p) s = .next (s.quarantine p 1)) ∧
    (q.stage ≠ 0 → ¬(q.stage = 4 ∧ q.st = .auth) → exec (.routeBringupTimeout p) s = .next (s.bringupFailed p)) ∧
    (q.st = .quarantined → q.holdEnd ≠ none → exec (.quarantineHoldEnd p) s = .next
      (s.mPort p fun q => { q with st := .down, stage := 0, holdEnd := none })) ∧
    (q.st = .quarantined → q.holdEnd = none → exec (.quarantineHoldEnd p) s = .next s) ∧
    (q.st = .up → exec (.keepaliveSend p) s = .next (s.sendFrame p { type := 7, payload := padTo 32 [2] })) ∧
    (q.st = .up → q.encrypted = true → q.rekeying = false → 2 ^ 31 ≤ q.keyTx ∨ 2 ^ 31 ≤ q.keyRx → exec (.autoKeyUpdate p) s = .next (s.rekey p)) ∧
    (q.keyTx < 2 ^ 31 → q.keyRx < 2 ^ 31 → exec (.autoKeyUpdate p) s = .next s) ∧
    (q.st = .up → q.rxLanes.getLsbD lane = true →
      (pol.sparePresent = true → q.rxLanes.getLsbD 8 = false → q.half = false → exec (.routeLaneFail p lane) s = .next
        ((((s.mPort p fun q => { q with rxLanes := swapLane q.rxLanes lane }).mPortCnt p fun c => { c with
          laneSwaps := c.laneSwaps + 1 }).sendFrame p (controlFrame 3 (toLe 1 lane))).laneSpared p lane (some 8) 0x801)) ∧
      (pol.sparePresent = false ∨ q.rxLanes.getLsbD 8 = true → pol.allowHalf = true → q.half = false → exec (.routeLaneFail p lane) s = .next
        ((s.mPort p fun q => q.halve (2 ^ lane) 0).laneSpared p lane none 0x802)) ∧
      (pol.sparePresent = false ∨ q.rxLanes.getLsbD 8 = true → pol.allowHalf = false → exec (.routeLaneFail p lane) s = .next (s.suspect p)) ∧
      (q.half = true → exec (.routeLaneFail p lane) s = .next (s.suspect p)))) ∧
  (∀ (s u : State) (p serial nonce rtt again : Nat) (f : Frame) (enc ok : Bool) (digest : List Byte), s.routesOn = true →
    (s.port p).st = .auth → f.lseq = (s.port p).rxLseq → frameOk f = true → u = s.tookFrame p f →
    (f.type = 8 → (s.port p).stage = 3 → ∀ w, w = u.mPort p (fun q => { q with partner := BitVec.ofNat 64 serial, partnerEnc := enc, rtt := rtt }) →
      exec (.helloFrame p f true serial nonce enc rtt again) s = .next (if (s.port p).nonce.toNat = nonce then
        (w.mPort p fun q => { q with nonce := BitVec.ofNat 64 again }).sendFrame p (w.helloFrame p again)
        else w.mPort p fun q => { q with stage := 4, requester := decide (nonce < (s.port p).nonce.toNat) })) ∧
    (f.type = 9 → (s.port p).stage = 4 → ∀ w, w = u.mPort p (fun q => { q with partnerDigest := digest }) →
      exec (.spdmFrame p f true false false ok digest) s = .next u ∧
      exec (.spdmFrame p f true false true false digest) s = .next (w.quarantine p 1) ∧
      ((∃ x, (s.port p).pin = some x ∧ x ≠ digest) → exec (.spdmFrame p f true false true true digest) s = .next (w.quarantine p 2)) ∧
      (∀ pol, pol = s.routePolicy p → (∀ x, (s.port p).pin = some x → x = digest) →
        ((s.port p).partnerEnc ≠ pol.encRequired → exec (.spdmFrame p f true false true true digest) s = .next (w.quarantine p 3)) ∧
        ((s.port p).partnerEnc = pol.encRequired → ∃ t, exec (.spdmFrame p f true false true true digest) s = .next t ∧
          (t.port p).st = .up ∧ (t.port p).chans = [] ∧ (t.port p).dataSent = 0 ∧ (t.port p).creditGot = 0 ∧ (t.port p).encrypted = pol.encRequired ∧
          (t.port p).credit = true)))) ∧
  (∀ (s : State) (p : Nat), (s.port p).st = .suspect →
    (3 ≤ (s.port p).attempts + 1 ∨ (s.port p).suspectAt + 2 * cyclesPerS ≤ s.time → s.bringupFailed p = s.quarantine p 6) ∧
    ((s.port p).attempts + 1 < 3 → s.time < (s.port p).suspectAt + 2 * cyclesPerS →
      s.bringupFailed p = s.mPort p fun q => { q with attempts := q.attempts + 1, stage := 0 })) ∧
  (∀ (s : State) (p : Nat), (s.port p).st ≠ .suspect → s.bringupFailed p = s.mPort p fun q => { q with st := .down, stage := 0 }) ∧
  (∀ (s : State) (p reason : Nat) (q : RPort), q = (s.quarantine p reason).port p → q.st = .quarantined ∧ q.reason = reason ∧
    q.quarantines = min 255 ((s.port p).quarantines + 1) ∧
    (∀ n, n = (s.routePolicy p).requalifyS → (n = 0 → q.holdEnd = none) ∧
      (n ≠ 0 → q.holdEnd = some (s.time + min 3600 (n * 2 ^ (q.quarantines - 1)) * cyclesPerS))) ∧
    ∀ o ∈ (s.quarantine p reason).routes.ops, o.link? p = none) ∧
  (∀ (s : State) (p : Nat), ((s.suspect p).port p).st = .suspect ∧ ((s.suspect p).port p).attempts = 0 ∧
    ∀ o ∈ (s.suspect p).routes.ops, o.link? p = none) ∧
  (∀ (s : State) (cid : Nat) (c : Cmd) (x : Ctx), s.ctl? cid 0x1A = some (c, x) →
    (s.routeKeyOk c = false → ∀ bad, bad = s.refuse cid c { code := 0x809, detail := s.detPort (lkPort c % 8) 0 0xFF 0xFF 0 0 } →
      (c.arg 33 1 ≠ 1 → c.arg 33 1 ≠ 2 → exec (.loadRouteKeyPin cid) s = .next bad) ∧
      (c.arg 33 1 = 1 → exec (.loadRouteKeyUnpin cid) s = .next bad) ∧ (c.arg 33 1 = 2 → exec (.loadRouteKeyRekey cid) s = .next bad)) ∧
    (s.routeKeyOk c = true → ∀ p, p = lkPort c →
      (∀ bs bad v, c.arg 33 1 = 0 → s.ctxRead x (c.arg 40 8) 48 = .ok (bs, bad) → v = s.mPort p (fun q => { q with pin := some bs }) →
        exec (.loadRouteKeyPin cid) s = .next ((if (s.port p).st = .up ∧ (s.port p).partnerDigest ≠ bs then v.quarantine p 2 else v).commitCtl cid c)) ∧
      (∀ e, c.arg 33 1 = 0 → s.ctxRead x (c.arg 40 8) 48 = .error e → exec (.loadRouteKeyPin cid) s = .next (s.refuseTr cid c e)) ∧
      (c.arg 33 1 = 1 → exec (.loadRouteKeyUnpin cid) s = .next ((s.mPort p fun q => { q with pin := none }).commitCtl cid c)) ∧
      (c.arg 33 1 = 2 → (s.port p).st = .up → (s.routePolicy p).encRequired = true → exec (.loadRouteKeyRekey cid) s = .next
        ((s.rekey p).commitCtl cid c)) ∧
      (c.arg 33 1 = 2 → (s.port p).st ≠ .up ∨ (s.routePolicy p).encRequired = false → exec (.loadRouteKeyRekey cid) s = .next
        (s.refuse cid c { code := 0x809, detail := s.detPort p 0 0xFF 0xFF 0 0 }))))

/-- ROUTE_EXCHANGE and ROUTE_REDUCE of an admitted command in its order: one that breaks R746 tears its context down with 0x0808; else its operation is queued behind the others with its links (R722, R736, R741). ROUTE_OPERATION_START of one that is not yet first on every port it names leaves it waiting; a
port that is not UP fails it with 0x0805, a port with a higher epoch with 0x0806, and else it starts: each link takes the next sequence number and sends START with its total (R723 to R726). When all bytes have moved on every link, the results are
written and DONE goes out on each; when DONE has arrived on every link, the command is finished (R728). add16 of R743 converts to F32, adds and rounds once to F16; the chunks of a reduction cover its elements, and the n-th chunk received is the one R742 names. -/
def Obligations.RouteOperations : Prop :=
  (∀ (s : State) (cid : Nat) (c : Cmd), s.orderOk cid c = true →
    (s.ready? cid 0x18 .admitted = some c → (s.exOk cid c = false → exec (.routeExchange cid) s = .next (s.tearCmd c { code := 0x808 })) ∧
      (s.exOk cid c = true → ∃ (t : State) (o : ROp), exec (.routeExchange cid) s = .next t ∧ t.routes.ops = s.routes.ops ++ [o] ∧
        (t.cmd? cid).map (·.st) = some .running ∧ o.cid = cid ∧ o.reduce = false ∧ o.started = false ∧ o.channel = c.arg 41 1 ∧
        o.epoch.toNat = c.arg 44 4 ∧ o.op.toNat = c.arg 48 2 ∧ o.order = s.routes.nextOrder ∧
        o.links.map (fun l => (l.port, l.sendTotal, l.expect)) =
          ((List.range 8).filter fun p => bit (c.arg 40 1) p).map fun p => (p, fld (s.exEntry cid c p) 8 4, fld (s.exEntry cid c p) 24 4))) ∧
    (s.ready? cid 0x19 .admitted = some c → (s.rdOk c = false → exec (.routeReduce cid) s = .next (s.tearCmd c { code := 0x808 })) ∧
      (s.rdOk c = true → ∃ (t : State) (o : ROp), exec (.routeReduce cid) s = .next t ∧ t.routes.ops = s.routes.ops ++ [o] ∧
        (t.cmd? cid).map (·.st) = some .running ∧ o.cid = cid ∧ o.reduce = true ∧ o.started = false ∧ o.channel = c.arg 52 1 ∧
        o.epoch.toNat = c.arg 60 4 ∧ o.op.toNat = c.arg 64 2 ∧ o.order = s.routes.nextOrder ∧ o.links = rdLinks c))) ∧
  (∀ (s : State) (cid : Nat) (o : ROp) (c : Cmd), s.live = true → s.rop? cid = some o → s.cmd? cid = some c → o.started = false →
    (s.firstEverywhere o = false → exec (.routeOperationStart cid) s = .next s) ∧
    (s.firstEverywhere o = true →
      (∀ pre l post, o.links = pre ++ l :: post → (∀ x ∈ pre, (s.port x.port).st = .up) → (s.port l.port).st ≠ .up →
        exec (.routeOperationStart cid) s = .next (s.failOp o 0x805 (s.detOp o l))) ∧
      ((∀ x ∈ o.links, (s.port x.port).st = .up) →
        (∀ pre l post, o.links = pre ++ l :: post → (∀ x ∈ pre, ((s.port x.port).chan o.channel).epoch ≤ o.epoch) →
          o.epoch < ((s.port l.port).chan o.channel).epoch → exec (.routeOperationStart cid) s = .next (s.failOp o 0x806 (s.detOp o l))) ∧
        ((∀ x ∈ o.links, ((s.port x.port).chan o.channel).epoch ≤ o.epoch) → exec (.routeOperationStart cid) s = .next (s.startOp cid c o))))) ∧
  (∀ (s : State) (cid : Nat) (o : ROp) (c : Cmd), s.rop? cid = some o → s.cmd? cid = some c → o.started = true → (∀ l ∈ o.links, l.doneSent = false) →
    o.links ≠ [] →
    (o.allMoved = false → s.advanceOp cid = s) ∧
    (o.allMoved = true → o.reduce = false → (∀ w ∈ o.writes c, s.cmdConflict cid c w.1 w.2 = false) → (∀ l ∈ o.links, l.doneGot = false) →
      ∃ u v : State, u = s.writeExchange cid c o ∧
        v = o.links.foldl (fun (s : State) l => s.sendFrame l.port { type := 3, channel := o.channel, epoch := o.epoch, seq := l.seq, op := o.op }) u ∧
        s.advanceOp cid = v.mRop cid fun o => { o with links := o.links.map fun l => { l with doneSent := true } })) ∧
  (∀ (s : State) (cid : Nat) (o : ROp) (c : Cmd), s.rop? cid = some o → s.cmd? cid = some c → o.started = true →
    (∀ l ∈ o.links, l.doneSent = true ∧ l.doneGot = true) →
    s.advanceOp cid = (s.mRoutes fun r => { r with ops := r.ops.filter (·.cid != cid) }).mCmd cid fun c => { c with st := .finished }) ∧
  (∀ (c : Cmd) (k n : Nat), 2 ≤ rdP c → rdN c % 16 = 0 → (rdChunk c 0).1 = 0 ∧ (rdChunk c k).1 + (rdChunk c k).2 = (rdChunk c (k + 1)).1 ∧
    (rdChunk c (rdP c)).1 = rdN c ∧
    (rdRank c < rdP c → n < rdP c - 1 → (rdRecv c n + n + 1) % rdP c = rdRank c ∧ (rdRecv c (rdP c - 1 + n) + n) % rdP c = rdRank c))

/-- DOORBELL in a function's page follows R627; it resumes a stopped ring (R631). A write of STK_RING_CFG enables a ring with both counts 0, or disables it; while EN is 1 LOG2_SIZE is not taken (R626, R690, R692). MANIFEST_FETCH of a free ring reads the entry in slot CONS % 2^LOG2_SIZE: without its tag, the Stoker waits
and counts; TAG_WAIT_REREAD reads again, TAG_STOP stops the ring (R628, R630, R631); with it, a manifest is taken with the next CMD_ID and CONS passes the entry, or a body is read once, whose manifests DELEGATE takes in order (R634, R636, R643). A body that cannot be read has every manifest refused with 0x0105 (R645), a poisoned entry is skipped under 0x010D (R769).
With CONS = PROD PENDING is cleared and compared again (R632). The checks of R646 come in order: 0x0103 or a dead context skip the manifest, then 0x0101, 0x0107 and 0x0102 refuse it; an Engine manifest is then translated (R591) and checked for aliases (0x0104), and admitted when the store has room; else the Stoker
holds it (R593), until ADMISSION_RESUME finds room. -/
def Obligations.RingsAndManifests : Prop :=
  (∀ (s : State) (fn v : Nat) (f : Fn) (w : BitVec 32), s.pageOn fn = true → f = s.fn fn → w = BitVec.ofNat 32 v →
    (f.en = false → exec (.doorbell fn v) s = .next s) ∧
    (f.en = true →
      ((w - f.cons).toNat ≤ 2 ^ f.ringLog2 → (w - f.prod).toNat < 2 ^ 31 → exec (.doorbell fn v) s = .next
        (s.mFn fn fun f => { f with prod := w, pend := true, stopped := false })) ∧
      (2 ^ 31 ≤ (w - f.prod).toNat → exec (.doorbell fn v) s = .next (s.mFn fn fun f => { f with pend := true, stopped := false })) ∧
      (2 ^ f.ringLog2 < (w - f.cons).toNat → (w - f.prod).toNat < 2 ^ 31 → exec (.doorbell fn v) s = .next
        ((s.mFn fn fun f => { f with dbErr := true }).raise { code := 0x106, fn := some fn }))) ∧
    (bits v 5 1 < 8 ∨ 16 < bits v 5 1 → exec (.ringEnable fn v) s = .next s) ∧
    (8 ≤ bits v 5 1 → bits v 5 1 ≤ 16 →
      (f.en = true → bit v 0 = true → exec (.ringEnable fn v) s = .next (s.mFn fn fun f => f)) ∧
      (f.en = true → bit v 0 = false → exec (.ringEnable fn v) s = .next (s.mFn fn Fn.disable)) ∧
      (f.en = false → bit v 0 = true → exec (.ringEnable fn v) s = .next
        (s.mFn fn fun f => { f with ringLog2 := bits v 5 1, en := true, cons := 0, prod := 0, count := 0 })) ∧
      (f.en = false → bit v 0 = false → exec (.ringEnable fn v) s = .next (s.mFn fn fun f => { f with ringLog2 := bits v 5 1 }))) ∧
    (f.recheck = true → exec (.ringIdleRecheck fn) s = .next
      (s.mFn fn fun f => { f with recheck := false, pend := f.pend || decide (f.cons ≠ f.prod) })) ∧
    (f.held = none → f.body = [] → exec (.admissionResume fn) s = .next s ∧ exec (.delegate fn) s = .next s) ∧
    (f.held = none → ∀ bs rest, f.body = bs :: rest → exec (.delegate fn) s = .next
      (((s.mFn fn fun f => { f with body := rest }).takeManifest fn bs (some f.bodyCtx)).entryDone fn)) ∧
    (∀ c x u, f.held = some c → s.ctx? c.ctx = some x → c.opcode ≠ 1 → c.opcode ≠ 0x2C → u = s.mFn fn (fun f => { f with held := none }) →
      (x.dead = true → exec (.admissionResume fn) s = .next ((u.mFn fn fun f => { f with deadSkips := f.deadSkips + 1 }).entryDone fn)) ∧
      (x.dead = false → s.storeRoom (fnDie fn) c.tset.length = true → exec (.admissionResume fn) s = .next
        (((u.mStk fun k => { k with nextCid := k.nextCid + 1 }).putEngine s.stk.nextCid c x).entryDone fn)) ∧
      (x.dead = false → s.storeRoom (fnDie fn) c.tset.length = false → exec (.admissionResume fn) s = .next s))) ∧
  (∀ (s : State) (fn a tag : Nat) (f : Fn) (bs : List Byte), s.ringFree fn = true → f = s.fn fn →
    a = f.ringBase.toNat + 128 * (f.cons.toNat % 2 ^ f.ringLog2) → tag = (f.cons.toNat / 2 ^ f.ringLog2 + 1) % 65536 → bs = s.hostRead a 128 →
    (f.tagWait = false → f.cons = f.prod → exec (.manifestFetch fn) s = .next
      (s.mFn fn fun f => if f.pend then { f with pend := false, recheck := true } else f)) ∧
    (f.tagWait = true → exec (.manifestFetch fn) s = .next s ∧ exec (.tagStop fn) s = .next
      (s.mFn fn fun f => { f with tagWait := false, stopped := true, tagStops := f.tagStops + 1 })) ∧
    (s.viewPoisoned noUnit { space := .host, addr := a } 128 = false →
      (fld bs 0 2 ≠ tag → f.tagWait = false → f.cons ≠ f.prod → exec (.manifestFetch fn) s = .next
        (s.mFn fn fun f => { f with tagWait := true, tagWaits := f.tagWaits + 1 })) ∧
      (fld bs 0 2 ≠ tag → f.tagWait = true → exec (.tagWaitReread fn) s = .next s)) ∧
    (∀ i, (i = .manifestFetch fn ∧ f.tagWait = false ∧ f.cons ≠ f.prod ∨ i = .tagWaitReread fn ∧ f.tagWait = true) →
      ∀ u, u = s.mFn fn (fun f => { f with tagWait := false }) →
      (s.viewPoisoned noUnit { space := .host, addr := a } 128 = true → exec i s = .next ((((s.newManifest fn).2.2.raise
        { code := 0x10D, fn := some fn, cmdId := (s.newManifest fn).1 }).mFn fn fun f => { f with tagWait := false }).entryDone fn)) ∧
      (s.viewPoisoned noUnit { space := .host, addr := a } 128 = false → fld bs 0 2 = tag →
        (bit (fld bs 6 1) 2 = false → exec i s = .next ((u.takeManifest fn bs none).entryDone fn)) ∧
        (bit (fld bs 6 1) 2 = true → u.delegateBody fn bs = none → exec i s = .next ((u.refuseBody fn bs (fld bs 24 1 + 1)).entryDone fn)) ∧
        (bit (fld bs 6 1) 2 = true → ∀ l, u.delegateBody fn bs = some l → exec i s = .next
          (u.mFn fn fun f => { f with body := l, bodyCtx := fld bs 4 2 % 4096 }))))) ∧
  (∀ (s : State) (fn : Nat) (bs : List Byte) (body : Option Nat), ∃ (u : State) (id : BitVec 32),
    s.takeManifest fn bs body = u.checkManifest s.stk.nextCid (cmdOf fn bs body.isSome id) body ∧
    id = BitVec.ofNat 32 (fn * 2 ^ 27 + (s.fn fn).count % 2 ^ 27) ∧ (u.fn fn).count = ((s.fn fn).count + 1) % 2 ^ 27 ∧ u.mem = s.mem) ∧
  (∀ (s : State) (cid kind : Nat) (c : Cmd) (body : Option Nat), kind ≠ 4 → opKind c.opcode = some kind →
    ((∀ x, s.ctx? c.ctx = some x → x.fn ≠ c.fn) →
      s.checkManifest cid c body = s.raiseAs 2 { code := 0x103, fn := some c.fn, cmdId := c.cmdId }) ∧
    (∀ x, s.ctx? c.ctx = some x → x.fn = c.fn →
      (x.dead = true → s.checkManifest cid c body = s.mFn c.fn fun f => { f with deadSkips := f.deadSkips + 1 }) ∧
      (x.dead = false →
        (headOk c.bytes kind body = false ∨ operandsOk c = false → s.checkManifest cid c body = s.refuse cid c { code := 0x101 }) ∧
        (headOk c.bytes kind body = true → operandsOk c = true →
          (kind ≠ 2 → bit x.classMask c.cls = false → s.checkManifest cid c body = s.refuse cid c { code := 0x107 }) ∧
          (kind = 2 ∨ bit x.classMask c.cls = true →
            (body ≠ none → opPriv c.opcode = true → s.checkManifest cid c body = s.refuse cid c { code := 0x102 }) ∧
            (body = none ∨ opPriv c.opcode = false →
              (kind = 3 → s.checkManifest cid c body = s.admitEngine cid c x) ∧
              (kind ≠ 3 → s.checkManifest cid c body = s.mStk fun k => { k with cmds := mapSet k.cmds cid c })))))) ) ∧
  (∀ (s : State) (cid : Nat) (c : Cmd) (x : Ctx) (rs : List Range), rs = s.engineRanges c (s.ctxBytes x) →
    (∀ e, s.trRanges setLimit x rs [] = .error e → s.admitEngine cid c x = s.refuseTr cid c e) ∧
    (∀ set d, s.trRanges setLimit x rs [] = .ok set → d = { c with tset := set } →
      (s.inMeetsOut c.fn set rs rs = true → s.admitEngine cid c x = s.refuse cid c { code := 0x104 }) ∧
      (s.inMeetsOut c.fn set rs rs = false → s.storeRoom (fnDie c.fn) set.length = true → s.admitEngine cid c x = s.putEngine cid d x) ∧
      (s.inMeetsOut c.fn set rs rs = false → s.storeRoom (fnDie c.fn) set.length = false → s.admitEngine cid c x =
        (s.mFn c.fn fun f => { f with held := some d }).mXlt fun y => { y with storeWaits := y.storeWaits + 1 })))

/-- ADMIT, unless an earlier Fence of its context waits: class above 3 is refused with 0x0204 (R100), a Recipe slot that is not the context's or not in force with 0x0108 (R667), a short result buffer with 0x0206 (R101), a stream without a header with 0x0207 (R505); one that passes files its waybill in a
free entry with the last admissible tick L of R56, and one that L leaves no tick is answered at once by the fallback with outcome 4 (R57, R102); with no entry FREE the fallback answers it with outcome 7 (R114). ANSWER writes its source to a FILED waybill's result buffer and answers it with outcome 9; ABANDON answers a FILED one with outcome 6
and marks a RUNNING one; both have no effect else, outcome 0xA (R103 to R106). FENCE commits once nothing earlier of its context is open (R619); CLEAR_NUMERIC_STATUS answers with the clear (R162). REPLAY_INJECT outside Banked is refused (R811). COMPLETION_COUNTER_ADVANCE records the context's oldest answer and advances
the counter by one, unless the stream step's successor is due (R513, R677). COMMAND_COMMIT makes a finished command's work visible and answers COMMITTED. -/
def Obligations.WaybillCommands : Prop :=
  (∀ (s : State) (cid idx : Nat) (c : Cmd) (x : Ctx) (w : Waybill), s.ready? cid 1 .admitted = some c → s.ctx? c.ctx = some x → w = admitOf c →
    (s.fenced cid c.ctx = true → exec (.admitCmd cid idx) s = .next s) ∧
    (s.fenced cid c.ctx = false →
      (4 ≤ c.cls → exec (.admitCmd cid idx) s = .next (s.refuse cid c { code := 0x204 })) ∧
      (c.cls < 4 → (∀ r, s.recipe? w.recipe = some r → r.effective = false ∨ r.ctx ≠ c.ctx) →
        exec (.admitCmd cid idx) s = .next (s.refuse cid c { code := 0x108 })) ∧
      (∀ r, c.cls < 4 → s.recipe? w.recipe = some r → r.effective = true → r.ctx = c.ctx →
        (w.resultLen < r.fbLen → exec (.admitCmd cid idx) s = .next (s.refuse cid c { code := 0x206 })) ∧
        (r.fbLen ≤ w.resultLen → r.stream = true → w.inputLen < 64 → exec (.admitCmd cid idx) s = .next (s.refuse cid c { code := 0x207 })) ∧
        (r.fbLen ≤ w.resultLen → r.stream = false → ∀ set y, s.waybillSet x w r [] false = .ok set → y = { w with tset := set } →
          (s.waybillAliasOk x y r = false → exec (.admitCmd cid idx) s = .next (s.refuse cid c { code := 0x104 })) ∧
          (s.waybillAliasOk x y r = true → s.storeRoom (fnDie c.fn) set.length = true → (s.fn c.fn).held = none →
            ∀ u, u = (s.mFn c.fn fun f => { f with held := none }).countWalks (fnDie c.fn) x set →
            (s.ldg.wb.length < 1048576 → idx < 1048576 → s.wb? idx = none →
              exec (.admitCmd cid idx) s = .next ((u.fileWb idx y).eraseCmd cid)) ∧
            (1048576 ≤ s.ldg.wb.length → exec (.admitCmd cid idx) s = .next (u.ledgerFull cid c y))))))) ∧
  (∀ (s : State) (i : Nat) (w : Waybill), s.wb? i = none →
    ((s.tck.num.toNat : Int) + 1 ≤ s.lastTickOf w → ∃ y, (s.fileWb i w).wb? i = some y ∧ y.st = .filed ∧ y.lastTick = s.lastTickOf w ∧
      y.ctx = w.ctx ∧ y.recipe = w.recipe ∧ y.tset = w.tset ∧ y.filedTick = s.tck.num ∧ y.fileSeq = s.ldg.fileSeq ∧
      (s.fileWb i w).stk.answers = s.stk.answers) ∧
    (s.lastTickOf w < (s.tck.num.toNat : Int) + 1 → ∃ y a, (s.fileWb i w).wb? i = some y ∧ y.st = .answering ∧
      (s.fileWb i w).stk.answers = s.stk.answers ++ [a] ∧ a.outcome = 4 ∧ a.waybill = some i ∧ a.ctx = w.ctx) ∧
    s.lastTickOf w = (s.tck.num.toNat : Int) + ((w.deadlineUs * 1000 : Nat) + (s.nsInTick : Int) - (s.admitNs : Int)) / (s.periodNs : Int) - 1) ∧
  (∀ (s : State) (cid : Nat) (c : Cmd) (x : Ctx) (i : Nat) (w : Waybill),
    (s.ctl? cid 2 = some (c, x) → ∀ bs bad, s.ctxRead x (c.arg 40 8) (c.arg 48 4) = .ok (bs, bad) →
      (s.target c = none ∨ s.target c = some (i, w) ∧ w.st ≠ .filed → exec (.answer cid) s = .next (s.answerCmd cid c 0xA 0)) ∧
      (s.target c = some (i, w) → w.st = .filed → exec (.answer cid) s = .next
        (((s.mergeSet (fnDie w.fn) w.fn w.tset (bs.length / 4096 + 2) w.resultAddr.toNat bs).answerWb i w 9 6 0).commitCtl cid c))) ∧
    (s.ctl? cid 2 = some (c, x) → ∀ e, s.ctxRead x (c.arg 40 8) (c.arg 48 4) = .error e → exec (.answer cid) s = .next (s.refuseTr cid c e)) ∧
    (s.ctl? cid 3 = some (c, x) →
      (s.target c = none ∨ s.target c = some (i, w) ∧ w.st ≠ .filed ∧ w.st ≠ .running →
        exec (.abandon cid) s = .next (s.answerCmd cid c 0xA 0)) ∧
      (s.target c = some (i, w) → w.st = .filed → exec (.abandon cid) s = .next ((s.answerWb i w 6 3 0).commitCtl cid c)) ∧
      (s.target c = some (i, w) → w.st = .running → exec (.abandon cid) s = .next
        ((s.mWb i fun w => { w with abandonReq := true }).commitCtl cid c))) ∧
    (s.ctl? cid 5 = some (c, x) → ∃ (t : State) (a : Answer), exec (.clearNumericStatus cid) s = .next t ∧ t.stk.answers = s.stk.answers ++ [a] ∧
      a.nsrClear = true ∧ a.outcome = 0 ∧ a.ctx = c.ctx ∧ t.cmd? cid = none) ∧
    (s.ctl? cid 4 = some (c, x) →
      ((∃ p ∈ s.stk.cmds, p.1 < cid ∧ p.2.waybill = none ∧ p.2.ctx = c.ctx ∧ opKind p.2.opcode ≠ some 4) →
        exec (.fenceCommand cid) s = .next s) ∧
      ((∃ p ∈ s.ldg.wb, p.2.ctx = c.ctx ∧ (p.2.st = .filed ∨ p.2.st = .running) ∧ cmdBefore p.2.cmdId c.cmdId = true ∧ p.2.stream.isStream = false) →
        exec (.fenceCommand cid) s = .next s) ∧
      ((∀ p ∈ s.stk.cmds, p.2.ctx = c.ctx → p.1 < cid → p.2.waybill ≠ none ∨ opKind p.2.opcode = some 4) →
        (∀ p ∈ s.ldg.wb, p.2.ctx = c.ctx → p.2.st ≠ .filed ∧ p.2.st ≠ .running) →
        exec (.fenceCommand cid) s = .next ((s.commitCtl cid c).dispatchHeld c.ctx))) ∧
    (s.ctl? cid 0x2C = some (c, x) → ∀ idx bad, bad = s.refuse cid c { code := 0x101 } →
      (s.dev ≠ .banked → exec (.replayInject cid idx) s = .next bad) ∧
      (∀ h, s.dev = .banked → s.ctxRead x (c.arg 32 8) 64 = .ok (h, false) →
        (captureOk h = false → exec (.replayInject cid idx) s = .next bad) ∧
        (∀ bs, captureOk h = true → s.ctxRead x (c.arg 32 8) (fld h 0 4) = .ok (bs, false) →
          (s.replayRecipe c bs = none → exec (.replayInject cid idx) s = .next bad) ∧
          (∀ r, s.replayRecipe c bs = some r → exec (.replayInject cid idx) s = .next (s.replayFile cid c x bs r idx)))))) ∧
  (∀ (s : State) (ctx : Nat) (a : Answer) (x : Ctx) (pre post : List Answer), s.live = true → s.stk.answers = pre ++ a :: post →
    (∀ b ∈ pre, b.ctx ≠ ctx) → a.ctx = ctx → s.ctx? ctx = some x → x.dead = false →
    ((∃ i w, a.waybill = some i ∧ s.wb? i = some w ∧ w.successorDue = true) → exec (.completionCounterAdvance ctx) s = .next s) ∧
    ((∀ i w, a.waybill = some i → s.wb? i = some w → w.successorDue = false) → ∃ t : State, exec (.completionCounterAdvance ctx) s = .next t ∧
      t.stk.answers = pre ++ post ∧ (∀ i, a.waybill = some i → t.wb? i = none) ∧
      ∀ l, mapGet (s.fn x.fn).slots x.slot = some l → (mapGet (t.fn x.fn).slots x.slot).map (·.count) = some (l.count + 1))) ∧
  (∀ (s : State) (cid : Nat) (c : Cmd), s.live = true → s.cmd? cid = some c → c.waybill = none →
    (c.st ≠ .finished ∨ c.failed = true → exec (.commandCommit cid) s = .next s) ∧
    (c.st = .finished → c.failed = false → ∃ (u v : State) (d : Cmd) (a : Answer), u = s.commitTables cid c ∧ d = (u.cmd? cid).getD c ∧
      v = (u.countCommit d).commitUnit (unitOf cid d) (some d.ctx) ∧ exec (.commandCommit cid) s = .next ((v.pushAnswer a).eraseCmd cid) ∧
      a.outcome = 0 ∧ a.ctx = d.ctx ∧ a.nsrFlags = d.flags ∧ a.nsrClear = false ∧ a.waybill = none))

/-- Each command is one admitted and in its order. A failed check of R283 tears its context down with 0x0342 (R283), one of R291 with the fault that R236 and R291 name. REPLACE_ROWS stages each row named once, with the bytes and
state of its highest list position (R284, R285): a home with room takes it as the next overlay entry, one without makes it wait (R281). READ_ROWS, while no apply of its rows waits, no handover covers them and no other
unit holds its destination lines, tears the context down with 0x0334 at a poisoned row, and else writes the rows as their homes hold them, and their state when STATE_ADDR is given, and finishes (R289). UPDATE sends the
references of its bags (R292). READ_LOAD_COUNTS writes one record per shard: references, fetches, applies and ticks (R317). -/
def Obligations.RowCommands : Prop :=
  (∀ (s : State) (cid : Nat) (c : Cmd), s.orderOk cid c = true →
    (s.ready? cid 0x0A .admitted = some c → s.rowsOk cid c false = none → exec (.replaceRows cid) s = .next
      (s.tearCmd c { code := 0x342, detail := s.detTid (c.arg 32 2) })) ∧
    (s.ready? cid 0x0B .admitted = some c → s.rowsOk cid c true = none → exec (.readRows cid) s = .next
      (s.tearCmd c { code := 0x342, detail := s.detTid (c.arg 32 2) })) ∧
    (∀ t, s.ready? cid 0x0A .admitted = some c → s.rowsOk cid c false = some t → ∃ (r : State) (es : List Overlay),
      exec (.replaceRows cid) s = .next r ∧
      r = (es.foldl (fun (u : State) o => u.stageRow (t.home o.row) o)
        { s with stk := { s.stk with cmds := mapAdj s.stk.cmds cid fun c => { c with st := .running } } }).stagedAll cid ∧
      es.map (·.row) = (lastPlaces (s.rowList cid c) 0).map (·.1) ∧
      (∀ o ∈ es, o.table = c.arg 32 2 ∧ o.cid = cid ∧ o.discardGrad = bit (c.arg 34 1) 0 ∧ o.resetState = bit (c.arg 34 1) 1 ∧
        ∃ i, (o.row, i) ∈ lastPlaces (s.rowList cid c) 0 ∧ o.data = s.cmdRead cid c (c.arg 48 8 + i * t.rowBytes) t.rowBytes ∧
          o.state = (if c.arg 56 8 = 0 then [] else s.cmdRead cid c (c.arg 56 8 + i * t.stride) t.stride))) ∧
    (∀ t rows, s.ready? cid 0x0B .admitted = some c → s.rowsOk cid c true = some t → rows = s.rowList cid c →
      (∀ r ∈ rows, s.rowBusy (c.arg 32 2) t r = false ∧ s.handingOver (c.arg 32 2) t r = false) →
      s.cmdConflict cid c (c.arg 48 8) (t.rowBytes * rows.length) = false →
      (c.arg 56 8 ≠ 0 → s.cmdConflict cid c (c.arg 56 8) (t.stride * rows.length) = false) →
      (∀ pre r post, rows = pre ++ r :: post → (∀ x ∈ pre, s.rowPoisoned (c.arg 32 2) t x = false ∧
          (c.arg 56 8 ≠ 0 → s.statePoisoned (c.arg 32 2) t x = false)) →
        (s.rowPoisoned (c.arg 32 2) t r = true ∨ c.arg 56 8 ≠ 0 ∧ s.statePoisoned (c.arg 32 2) t r = true) →
        exec (.readRows cid) s = .next
          (s.tearCmd c { code := 0x334, detail := detTable (c.arg 32 2) (t.home r) 0xFF (t.shardOf r) r t.version })) ∧
      ((∀ x ∈ rows, s.rowPoisoned (c.arg 32 2) t x = false ∧ (c.arg 56 8 ≠ 0 → s.statePoisoned (c.arg 32 2) t x = false)) →
        ∃ u v : State, exec (.readRows cid) s = .next (v.mCmd cid fun c => { c with st := .finished }) ∧
          u = s.cmdWrite cid c (c.arg 48 8) (rows.flatMap fun r => s.rowNow (c.arg 32 2) t r) ∧
          v = if c.arg 56 8 = 0 then u else u.cmdWrite cid c (c.arg 56 8) (rows.flatMap fun r => u.stateNow (c.arg 32 2) t r))) ∧
    (s.ready? cid 0x09 .admitted = some c →
      (∀ r, s.lookupFault cid c true = some r → exec (.update cid) s = .next (s.tearCmd c r)) ∧
      (s.lookupFault cid c true = none → exec (.update cid) s = .next (((List.range (lkBags c)).foldl (fun (u : State) b =>
        u.sendBag cid c true b ((s.bagDescs cid c).getD b ⟨0, 0, 0, 0, 0⟩))
        { s with stk := { s.stk with cmds := mapAdj s.stk.cmds cid fun c => { c with st := .running } } }).bagDone cid 0))) ∧
    (∀ t, s.ready? cid 0x10 .admitted = some c → s.usable c (c.arg 32 2) = some t →
      s.cmdConflict cid c (c.arg 40 8) (32 * t.shards.length) = false →
      exec (.readLoadCounts cid) s = .next ((s.cmdWrite cid c (c.arg 40 8) (t.shards.flatMap fun h => toLe 8 h.refs.toNat ++
        toLe 8 h.fetches.toNat ++ toLe 8 h.applied.toNat ++ toLe 8 (s.rt (c.arg 32 2)).loadTicks.toNat)).mCmd cid fun c =>
          { c with st := .finished })) ∧
    (s.ready? cid 0x10 .admitted = some c → s.usable c (c.arg 32 2) = none →
      exec (.readLoadCounts cid) s = .next (s.mCmd cid fun c => { c with st := .finished }))) ∧
  (∀ (l : List Nat) (r i : Nat), (r, i) ∈ lastPlaces l 0 ↔ l[i]? = some r ∧ ∀ j, i < j → l[j]? ≠ some r) ∧
  (∀ (s : State) (q : Nat) (o : Overlay),
    ((s.serai q).stageWait = [] → s.overlayRoom q o.table = true → s.stageRow q o = s.mSerai q fun u => { u with
      overlay := u.overlay ++ [{ o with order := u.ovSeq }], ovSeq := u.ovSeq + 1 }) ∧
    ((s.serai q).stageWait ≠ [] ∨ s.overlayRoom q o.table = false → (s.stageRow q o).serai q = { s.serai q with
      stageWait := (s.serai q).stageWait ++ [{ cid := o.cid, entry := o }] }))

/-- OVERLAY_WRITEBACK writes the row's oldest VISIBLE entry to its tier, with the 64-byte units that a stack row shares with other VISIBLE entries (R280, R287), and frees it; not while its shard hands over (R321).
OVERLAY_STAGE_RESUME stages waiting rows in order while there is room (R281). SERAI_APPLY of a row of the oldest apply set takes the row's entry: a flash row without a slot is counted and dropped (R218), a poisoned row or state drops the entry under
0x0335 (R300), and else the row becomes what the optimiser's rule makes of it, with its new state (R296, R299). The new elements and state values follow R305, evaluated in F32 in the order written, Σ in element order (R306). -/
def Obligations.OverlayAndApply : Prop :=
  (∀ (s : State) (q tid row : Nat) (t : Table) (o : Overlay), s.live = true → s.table? tid = some t → o ∈ (s.serai q).overlay →
    o.table = tid → o.row = row → o.st = .visible →
    (∀ x ∈ (s.serai q).overlay, x.table = tid → x.row = row → x.st = .visible → x = o ∨ o.order < x.order) →
    (s.handingOver tid t row = true → exec (.overlayWriteback q tid row) s = .next s) ∧
    (s.handingOver tid t row = false → ∃ u v : State, exec (.overlayWriteback q tid row) s = .next
        (v.mSerai q fun x => { x with overlay := x.overlay.erase o }) ∧ u = s.applyRow tid t row o.data o.state o.poison o.stPoison ∧
      (∀ da, t.rowDa (t.shard (t.shardOf row)) (t.localOf row) = some da → t.localOf row < (t.shard (t.shardOf row)).stackRows →
        o.poison = false → v = (u.writeUnit tid t row (da / 64 * 64)).writeUnit tid t row ((da + t.rowBytes - 1) / 64 * 64)) ∧
      (t.rowDa (t.shard (t.shardOf row)) (t.localOf row) = none ∨ (t.shard (t.shardOf row)).stackRows ≤ t.localOf row ∨ o.poison = true →
        v = u))) ∧
  (∀ (s : State) (q : Nat), s.live = true →
    ((s.serai q).stageWait = [] → exec (.overlayStageResume q) s = .next s) ∧
    (∀ w rest, (s.serai q).stageWait = w :: rest →
      (s.overlayRoom q w.entry.table = false → exec (.overlayStageResume q) s = .next s) ∧
      (s.overlayRoom q w.entry.table = true → exec (.overlayStageResume q) s = .next
        ((((s.putOverlay q w.entry).mSerai q fun u => { u with stageWait := rest }).stagedAll w.cid).resumeStages q rest.length)))) ∧
  (∀ (s u : State) (q tid row : Nat) (t : Table) (m : Merge) (o : Optimiser), s.live = true → s.table? tid = some t → t.opt = some o →
    (s.serai q).applySet.find? (fun m => m.table == tid && m.row == row) = some m → s.handingOver tid t row = false →
    (∀ x ∈ (s.serai q).applySet, m.tick ≤ x.tick) → u = s.mSerai q (fun x => { x with applySet := x.applySet.erase m }) →
    (t.noPlace row = true → exec (.seraiApply q tid row) s = .next (u.mSeraiCnt q fun k => { k with flashDiscards := k.flashDiscards + 1 })) ∧
    (t.noPlace row = false → (u.rowPoisoned tid t row = true ∨ o.kind ≠ 0 ∧ u.statePoisoned tid t row = true) →
      exec (.seraiApply q tid row) s = .next ((u.mSeraiCnt q fun k => { k with poisonDrops := k.poisonDrops + 1 }).raise
        { code := 0x335, fn := some t.fn, detail := detTable tid q 0xFF (t.shardOf row) row t.version })) ∧
    (t.noPlace row = false → u.rowPoisoned tid t row = false → (o.kind ≠ 0 → u.statePoisoned tid t row = false) → ∀ r,
      r = applyEval t tid row m.version o (u.rowScales tid t row) (u.rowNow tid t row) (if o.kind = 0 then [] else u.stateNow tid t row) m.acc →
      ∃ v : State, exec (.seraiApply q tid row) s = .next (v.mTable tid fun x => x.mShard (t.shardOf row) fun h => { h with applied := h.applied + 1 }) ∧
        v = ((u.applyWrite tid t row r.1 r.2.1).addClip tid r.2.2.1 r.2.2.2).mSeraiCnt q fun k => { k with applied := k.applied + 1 })) ∧
  (∀ (r : Rule) (w g m : List Nat) (a i n : Nat) (sq : Nat), n = w.length → g.length = n → m.length = n → i < n →
    sq = g.foldl (fun a x => f32Add a (f32Mul x x)) 0 →
    (ruleEval r 0 w g m a).1.getD i 0 = f32Sub (w.getD i 0) (f32Mul r.lr (g.getD i 0)) ∧
    (∀ m', m' = f32Add (f32Mul r.b1 (m.getD i 0)) (g.getD i 0) → (ruleEval r 1 w g m a).2.1.getD i 0 = m' ∧
      (ruleEval r 1 w g m a).1.getD i 0 = f32Sub (w.getD i 0) (f32Mul r.lr m')) ∧
    (∀ a', a' = f32Add a (f32Div sq (f32Of n 0)) → (ruleEval r 2 w g m a).2.2 = [a'] ∧
      (ruleEval r 2 w g m a).1.getD i 0 = f32Sub (w.getD i 0) (f32Div (f32Mul r.lr (g.getD i 0)) (f32Add (f32Sqrt a') r.eps))) ∧
    (∀ m' v', m' = f32Add (f32Mul r.b1 (m.getD i 0)) (f32Mul (f32Sub f32One r.b1) (g.getD i 0)) →
      v' = f32Add (f32Mul r.b2 a) (f32Div (f32Mul (f32Sub f32One r.b2) sq) (f32Of n 0)) →
      (ruleEval r 3 w g m a).2.1.getD i 0 = m' ∧ (ruleEval r 3 w g m a).2.2 = [v'] ∧
      (ruleEval r 3 w g m a).1.getD i 0 = f32Sub (w.getD i 0) (f32Div (f32Mul r.lr m') (f32Add (f32Sqrt v') r.eps))))

/-- Each command is one admitted and in its order. LARDER_REFRESH that breaks R214 is refused with 0x0311 and changes no table; else, with no refresh open on the table, it opens one with its fills and evicts and copies the fills whose slots are FREE (R215); LARDER_FILL_RESUME copies
those whose slots have become FREE. LARDER_WRITEBACK_COMPLETE writes an EVICTING slot's row into its flash block and frees the slot (R219). RECALIBRATE_ROWS that breaks R312 is refused with 0x0345; else, once
no apply of its rows waits, it stages each row converted to the new extent (R313). MIGRATE_SHARD that breaks R319 is refused with 0x0344; else it copies the shard's rows and opens the migration
(R320). MIGRATION_HANDOVER_COMPLETE ends a handover, counted at the old home (R322). -/
def Obligations.LarderAndSharding : Prop :=
  (∀ (s : State) (cid tid : Nat) (c : Cmd), s.orderOk cid c = true → tid = c.arg 32 2 →
    (s.ready? cid 0x11 .admitted = some c → ∀ (l fills evicts : List (Nat × Nat)), l = s.larderList cid c → fills = l.take (c.arg 48 4) →
      evicts = l.drop (c.arg 48 4) →
      (s.usable c tid = none → exec (.larderRefresh cid) s = .next (s.refuseEngine cid c tid 0x311)) ∧
      (∀ t, s.usable c tid = some t → t.refresh ≠ none → exec (.larderRefresh cid) s = .next s) ∧
      (∀ t, s.usable c tid = some t → t.refresh = none →
        (t.mode ≠ 2 ∨ t.refreshOk (bit (c.arg 34 1) 0) fills evicts = false ∨ s.cmdPoison cid c (c.arg 40 8) (16 * l.length) = true →
          exec (.larderRefresh cid) s = .next (s.refuseEngine cid c tid 0x311)) ∧
        (t.mode = 2 → t.refreshOk (bit (c.arg 34 1) 0) fills evicts = true → s.cmdPoison cid c (c.arg 40 8) (16 * l.length) = false →
          exec (.larderRefresh cid) s = .next (((s.mCmd cid fun c => { c with st := .running }).mTable tid fun t => { t with
            refresh := some { cid := cid, toB := bit (c.arg 34 1) 0, fills := fills.map fun e => (e.1, slotKey (t.shardOf e.1) e.2)
                              evicts := evicts.map fun e => slotKey (t.shardOf e.1) e.2 } }).runFills tid)))) ∧
    (s.ready? cid 0x12 .admitted = some c → ∀ t x, s.usable c tid = some t → s.ctx? c.ctx = some x →
      (s.recalOk c x t = none → exec (.recalibrateRows cid) s = .next (s.refuseEngine cid c tid 0x345)) ∧
      (∀ r rows fresh, s.recalOk c x t = some r → rows = (List.range (c.arg 48 4)).map (fun i => t.rowOf (c.arg 34 2) (c.arg 40 8 + i)) →
        fresh = s.scalesAt (t.via r.held) r.newScale →
        ((∃ w ∈ rows, s.rowBusy tid t w = true) → exec (.recalibrateRows cid) s = .next s) ∧
        ((∀ w ∈ rows, s.rowBusy tid t w = false) → ∃ u v : State, exec (.recalibrateRows cid) s = .next (v.stagedAll cid) ∧
          u = (s.mRt tid fun y => { y with recal := some { r with cids := r.cids ++ [cid] } }).mCmd cid (fun c => { c with st := .running }) ∧
          v = rows.foldl (fun s w => ((s.addCount tid cid 4 t.elems).addCount tid cid 5 (recode t (s.rowScales tid t w) fresh (s.rowNow tid t w)).2).stageRow
            (t.home w) { table := tid, row := w, data := (recode t (s.rowScales tid t w) fresh (s.rowNow tid t w)).1, cid := cid
                         poison := s.rowPoisoned tid t w, mark := some (c.arg 40 8 + c.arg 48 4) }) u))) ∧
    (s.ready? cid 0x13 .admitted = some c → ∀ t x, s.usable c tid = some t → s.ctx? c.ctx = some x →
      (s.migOk cid c x t = none → exec (.migrateShard cid) s = .next (s.refuseEngine cid c tid 0x344)) ∧
      (∀ m, s.migOk cid c x t = some m → m.shard = c.arg 34 2 ∧ m.newHome = c.arg 36 1 ∧ m.committed = false ∧ m.handing = false ∧
        exec (.migrateShard cid) s = .next ((((List.range (t.shard m.shard).stackRows).foldl (fun s l => s.migRow t m l) s).mRt tid fun r =>
          { r with mig := some m }).mCmd cid fun c => { c with st := .finished })))) ∧
  (∀ (s : State) (cid tid : Nat) (c : Cmd), s.orderOk cid c = true → tid = c.arg 32 2 → s.usable c tid = none →
    (s.ready? cid 0x12 .admitted = some c → exec (.recalibrateRows cid) s = .next (s.refuseEngine cid c tid 0x345)) ∧
    (s.ready? cid 0x13 .admitted = some c → exec (.migrateShard cid) s = .next (s.refuseEngine cid c tid 0x344))) ∧
  (∀ (s : State) (tid : Nat), s.live = true → exec (.larderFillResume tid) s = .next (s.runFills tid) ∧
    (∀ t, s.table? tid = some t → t.refresh = none → s.runFills tid = s)) ∧
  (∀ (s : State) (tid key : Nat) (t : Table) (v : LSlot) (h : Shard) (a : Nat × Nat), s.live = true → s.table? tid = some t →
    mapGet t.slots key = some v →
    v.st = .evicting → h = t.shard (key / 2 ^ 23) → a = t.flashAt h (t.localOf v.row) →
    exec (.larderWritebackComplete tid key) s = .next ((s.blockWrite h.controller h.nsid a.1 (overlay (s.blockData h.controller h.nsid a.1) a.2
      (s.tblRead t (t.slotDa (key / 2 ^ 23) (key % 2 ^ 23)) t.rowBytes)) false).mTable tid fun t => { t with slots := mapErase t.slots key })) ∧
  (∀ (s : State) (tid : Nat) (m : Mig), s.live = true → (s.rt tid).mig = some m → m.handing = true →
    exec (.migrationHandoverComplete tid) s = .next ((s.mRt tid fun r => { r with mig := none }).mSeraiCnt m.oldHome fun k =>
      { k with migReleased := k.migReleased + 1 }))

/-- Control commands act when every earlier one of their context has committed (R641). REGISTER_TABLE of an identifier that counts as registered is refused with 0x0303 (R187); one whose checks pass takes effect at the next boundary and commits now (R188); a page that does not translate is
refused as R591 says. DEREGISTER_TABLE is refused with 0x0301 for a table that is not the function's and with 0x0304 while a Recipe names it; else the table leaves (R189). REGISTER_OPTIMISER is refused with the fault of its check, or its record is due at the next boundary (R301, R304).
REGISTER_RECIPE stores the Recipe of a record that passes R665, effective from the next boundary; DEREGISTER_RECIPE is refused with 0x0108 for a slot that is not the context's, with 0x010C while a waybill names it, and else marks it leaving (R666). CREATE_CONTEXT takes
the lowest free number and makes its slot valid, or is refused with 0x010B (R653, R654). DESTROY_CONTEXT of a slot that is not valid is refused with 0x010B; else it tears the context down (R655) and completes once the context has drained. -/
def Obligations.Registrations : Prop :=
  (∀ (s : State) (cid : Nat) (c : Cmd) (x : Ctx),
    (s.ctl? cid 0x20 = some (c, x) →
      (∀ e, s.checkTable c x = .error e → exec (.registerTable cid) s = .next (s.refuseTr cid c e)) ∧
      (∀ tid code, s.checkTable c x = .ok (tid, .error code) → code ≠ 0x715 → exec (.registerTable cid) s = .next
        (s.refuse cid c { code := code, detail := detTable tid 0xFF 0xFF 0 0 0 })) ∧
      (∀ tid t, s.checkTable c x = .ok (tid, .ok t) → exec (.registerTable cid) s = .next
        ({ s with tally := { s.tally with fresh := mapSet s.tally.fresh tid t } }.commitCtl cid c)) ∧
      (∀ h p tid, s.ctxRead x (c.arg 32 8) 128 = .ok (h, p) → tid = leNat (h.take 2) → s.regTable? tid ≠ none →
        s.checkTable c x = .ok (tid, .error 0x303))) ∧
    (s.ctl? cid 0x21 = some (c, x) →
      (s.fnTable c (c.arg 32 2) = none → exec (.deregisterTable cid) s = .next (s.refuse cid c { code := 0x301, detail := s.detTid (c.arg 32 2) })) ∧
      (s.fnTable c (c.arg 32 2) ≠ none → (∃ r ∈ s.stk.recipes, ∃ u ∈ r.2.tables, u.table = c.arg 32 2) →
        exec (.deregisterTable cid) s = .next (s.refuse cid c { code := 0x304, detail := s.detTid (c.arg 32 2) })) ∧
      (s.fnTable c (c.arg 32 2) ≠ none → (∀ r ∈ s.stk.recipes, ∀ u ∈ r.2.tables, u.table ≠ c.arg 32 2) →
        exec (.deregisterTable cid) s = .next ((s.leaveTable (c.arg 32 2)).commitCtl cid c))) ∧
    (s.ctl? cid 0x22 = some (c, x) →
      (∀ e, s.checkOpt c x = .error e → exec (.registerOptimiser cid) s = .next (s.refuseTr cid c e)) ∧
      (∀ code, s.checkOpt c x = .ok (.error code) → code ≠ 0x715 → exec (.registerOptimiser cid) s = .next
        (s.refuse cid c { code := code, detail := s.detTid (c.arg 32 2) })) ∧
      (∀ o, s.checkOpt c x = .ok (.ok o) → exec (.registerOptimiser cid) s = .next
        ((s.mReg (c.arg 32 2) fun t => { t with optDue := some o }).commitCtl cid c))) ∧
    (s.ctl? cid 0x23 = some (c, x) →
      (zeroExcept c.bytes [(32, 2), (40, 12)] = false ∨ 4096 ≤ c.arg 32 2 ∨ s.recipe? (c.arg 32 2) ≠ none ∨ c.arg 48 4 < 128 →
        exec (.registerRecipe cid) s = .next (s.refuse cid c { code := 0x109 })) ∧
      (∀ h bs r, zeroExcept c.bytes [(32, 2), (40, 12)] = true → c.arg 32 2 < 4096 → s.recipe? (c.arg 32 2) = none → 128 ≤ c.arg 48 4 →
        s.ctxRead x (c.arg 40 8) 128 = .ok (h, false) → recipeLen h = c.arg 48 4 → s.ctxRead x (c.arg 40 8) (c.arg 48 4) = .ok (bs, false) →
        (s.recipeOf c x bs = none → exec (.registerRecipe cid) s = .next (s.refuse cid c { code := 0x109 })) ∧
        (s.recipeOf c x bs = some r → r.effective = false ∧ exec (.registerRecipe cid) s = .next
          ((({ s with stk := { s.stk with recipes := mapSet s.stk.recipes (c.arg 32 2) r } } : State).countWalks (c.fn % 2) x r.held).commitCtl cid c)))) ∧
    (s.ctl? cid 0x24 = some (c, x) →
      ((s.recipe? (c.arg 32 2)).map (·.ctx) ≠ some c.ctx → exec (.deregisterRecipe cid) s = .next (s.refuse cid c { code := 0x108 })) ∧
      ((s.recipe? (c.arg 32 2)).map (·.ctx) = some c.ctx →
        ((∃ w ∈ s.ldg.wb, w.2.recipe = c.arg 32 2) → exec (.deregisterRecipe cid) s = .next (s.refuse cid c { code := 0x10C })) ∧
        ((∀ w ∈ s.ldg.wb, w.2.recipe ≠ c.arg 32 2) → exec (.deregisterRecipe cid) s = .next ({ s with stk := { s.stk with
          recipes := mapAdj s.stk.recipes (c.arg 32 2) fun r => { r with leaving := true } } }.commitCtl cid c))))) ∧
  (∀ (s : State) (cid : Nat) (c : Cmd), s.ready? cid 0x26 .admitted = some c →
    (s.createOk c = false ∨ s.freeCtx = none → exec (.createContext cid) s = .next (s.refuseFn cid c (c.arg 32 2 % 512) 0x10B)) ∧
    (∀ n, s.createOk c = true → s.freeCtx = some n → s.ctx? n = none ∧ (∀ k < n, s.ctx? k ≠ none) ∧
      ∃ t, exec (.createContext cid) s = .next t ∧ t.ctx? n = some (newCtx c) ∧ (∀ k, k ≠ n → t.ctx? k = s.ctx? k) ∧
        mapGet (t.fn c.fn).slots (c.arg 32 2) = some { valid := true, ctx := n } ∧ (t.fn c.fn).lastFault = 0 ∧
        (t.fn c.fn).fnCnt = (s.fn c.fn).fnCnt + 1 ∧ t.cmd? cid = none)) ∧
  (∀ (s : State) (cid : Nat) (c : Cmd) (l : LocalSlot), s.live = true → s.cmd? cid = some c → c.opcode = 0x27 →
    l = mapGetD (s.fn c.fn).slots (c.arg 32 2) {} →
    (l.valid = false → exec (.destroyContext cid) s = .next (s.refuseFn cid c (c.arg 32 2 % 512) 0x10B)) ∧
    (l.valid = true → ∃ u : State, (c.st ≠ .admitted → u = s) ∧
      (c.st = .admitted → u = { (s.teardown l.ctx).dropRecipes l.ctx with stk := { ((s.teardown l.ctx).dropRecipes l.ctx).stk with
        ctxs := mapAdj ((s.teardown l.ctx).dropRecipes l.ctx).stk.ctxs l.ctx fun x => { x with destroying := true }
        cmds := mapAdj ((s.teardown l.ctx).dropRecipes l.ctx).stk.cmds cid fun c => { c with st := .running } } }) ∧
      (∀ x, u.ctx? l.ctx = some x → u.drained l.ctx = true → exec (.destroyContext cid) s = .next
        ((u.dropCtx l.ctx x).answerFn cid c (c.arg 32 2))) ∧
      (u.drained l.ctx = false → exec (.destroyContext cid) s = .next u)))

/-- TICK_BOUNDARY increments TICK_NUM by one, and enters the state that a posted request asks for and no other (R45, R838). A killed waybill is FILED again while its last admissible tick and its kill limit allow it, and else answered by its fallback: outcome 2 when L is past, else 3, or 6 when abandoned (R70, R71). CARAVAN_CLOSE moves what was chosen to RUNNING, with a
free lane and the Recipe's commands (R67, R98, R664), and answers a snapshot waybill left out at its last tick with outcome 5 (R68). GUARD_BAND_START withdraws caravan commands not dispatched (R47); SPAN_EXPIRY answers ended commands EXPIRED (R49, R675).
A tick frame without sync or CRC counts as missed, one within window and interval is valid; four in a row lock the follower, which then corrects by at most T / 200 (R78 to R81). HOLDOVER_ENTRY raises 0x0240 (R82), HOLDOVER_EXPIRED 0x0243 once after 4,096 ticks (R83). THROT_IN_ASSERT makes the level H4 unless slower; a die at 100 °C steps it each 1 ms and one at 115 °C
trips the part; power above 1,600 W over ten samples steps it each 100 µs (R939, R946). The next tick's level is faster by one at most, and only after a calm 1 ms with THROT_IN_N high (R938, R940). -/
def Obligations.TicksAndPower : Prop :=
  (∀ s : State, s.live = true → ∃ t, exec .tickBoundary s = .next t ∧ t.tck.num = s.tck.num + 1 ∧ t.tck.phase = 0 ∧
    (s.changeDue = none → t.dev = s.dev) ∧ (∀ d, s.changeDue = some d → t.dev = d)) ∧
  (∀ (s : State) (i t limit : Nat) (w : Waybill), s.wb? i = some w → limit = ((s.recipe? w.recipe).map (·.rerun)).getD 0 →
    (w.abandonReq = false → (t : Int) ≤ w.lastTick → w.killCount + 1 ≤ limit → ∃ v, (s.afterKill i t).wb? i = some v ∧ v.st = .filed ∧
      v.killCount = w.killCount + 1 ∧ v.readmitted = true ∧ v.lane = none ∧ (s.afterKill i t).stk.answers = s.stk.answers) ∧
    (w.abandonReq = true ∨ w.lastTick < (t : Int) ∨ limit < w.killCount + 1 → ∃ v a, (s.afterKill i t).wb? i = some v ∧ v.st = .answering ∧
      (s.afterKill i t).stk.answers = s.stk.answers ++ [a] ∧ a.waybill = some i ∧
      a.outcome = (if w.abandonReq then 6 else if w.lastTick < (t : Int) then 2 else 3))) ∧
  (∀ (s u : State), s.live = true → s.cvn.heads ≠ [] → u = s.assemble (s.asmLimit + 12) → ∃ v : State,
    v = u.mCvn (fun v => { v with
      assembling := false, heads := [], chosen := [], snapshot := [], closedByWindow := u.cvn.assembling
      close100 := (if u.cvn.assembling then u.admitNs else (u.cvn.examined + 1) / 2 * 5 / 6) / 100, admittedN := 0 }) ∧
    exec .caravanClose s = .next (u.cvn.snapshot.foldl State.noCapacity (u.cvn.chosen.reverse.foldl State.join v))) ∧
  (∀ (s : State) (i : Nat) (w : Waybill) (r : Recipe), s.wb? i = some w → s.recipe? w.recipe = some r → w.st = .filed →
    (∃ v, (s.join i).wb? i = some v ∧ v.st = .running ∧ v.lane = s.freeLane w.recipe r ∧ v.tset = w.tset ∧ v.stream = w.stream ∧
      (s.join i).stk.nextCid = s.stk.nextCid + r.cmds.length ∧ (s.join i).cvn.admittedN = s.cvn.admittedN + 1) ∧
    (w.lastTick = (s.tck.num.toNat : Int) → s.noCapacity i = s.fallback i w 5) ∧ (w.lastTick ≠ (s.tck.num.toNat : Int) → s.noCapacity i = s)) ∧
  (∀ (s : State) (i : Nat) (w : Waybill), s.wb? i = some w → w.st ≠ .filed → s.join i = s ∧ s.noCapacity i = s) ∧
  (∀ (s : State) (slot n : Nat) (r : Recipe), s.freeLane slot r = some n → n < r.lanes ∧ (∀ p ∈ s.ldg.wb, p.2.recipe = slot → p.2.lane ≠ some n) ∧
    ∀ k < n, ∃ p ∈ s.ldg.wb, p.2.recipe = slot ∧ p.2.lane = some k) ∧
  (∀ s : State, s.live = true → ∃ t, exec .guardBandStart s = .next t ∧
    (∀ cid, t.cmd? cid = (s.cmd? cid).map fun c => if c.waybill.isSome && c.st == .admitted then { c with st := .withdrawn } else c) ∧
    t.ldg = s.ldg ∧ t.mem = s.mem ∧ t.hearths = s.hearths) ∧
  (∀ s : State, s.live = true → exec .spanExpiry s = .next ((s.spanEnded s.tck.num.toNat false).foldl State.expire s)) ∧
  (∀ (s : State) (cid : Nat) (c : Cmd), s.cmd? cid = some c → (s.expire cid).cmd? cid = none ∧
    ∃ a, (s.expire cid).stk.answers = s.stk.answers ++ [a] ∧ a.outcome = 0xC ∧ a.ctx = c.ctx ∧ a.cmdId = c.cmdId) ∧
  (∀ (s : State) (t cid : Nat), cid ∈ s.spanEnded t false ↔ ∃ c, (cid, c) ∈ s.stk.cmds ∧ c.waybill = none ∧ opKind c.opcode = some 3 ∧ c.spanEnd ≠ 0 ∧
    c.spanEnd ≤ t) ∧
  (∀ (s : State) (f edge : Nat), (s.tck.source ≠ 1 → exec (.tickFrameReceive f edge) s = .next s) ∧
    (s.live = true → s.tck.source = 1 → ∀ u, u = s.mTck (fun t => { t with goodRun := 0, missed := t.missed + 1 }) →
      (frameSync f = false → exec (.tickFrameReceive f edge) s = .next u) ∧
      (frameSync f = true → frameCrc f = false → exec (.tickFrameReceive f edge) s = .next (u.mTck fun t => { t with
        crcErrors := min 255 (t.crcErrors + 1) })) ∧
      (frameSync f = true → frameCrc f = true →
        (s.tck.lastEdge = none → exec (.tickFrameReceive f edge) s = .next (s.goodFrame (frameNum f) edge)) ∧
        (∀ l near, s.tck.lastEdge = some l → near = decide (distNat edge (l + (s.tck.missed + 1) * s.periodNs) ≤ 1000) →
          (near = false → exec (.tickFrameReceive f edge) s = .next u) ∧
          (near = true → distNat (edge - l) s.periodNs ≤ s.periodNs / 200 + 1000 →
            exec (.tickFrameReceive f edge) s = .next (s.goodFrame (frameNum f) edge)) ∧
          (near = true → s.periodNs / 200 + 1000 < distNat (edge - l) s.periodNs →
            exec (.tickFrameReceive f edge) s = .next ((u.mTck fun t => { t with periodMismatch := true }).raise { code := 0x244 })))))) ∧
  (∀ (s t : State) (num edge : Nat), t = s.goodFrame num edge → t.tck.goodRun = s.tck.goodRun + 1 ∧ t.tck.missed = 0 ∧ t.tck.lastEdge = some edge ∧
    (t.tck.locked = true ↔ s.tck.locked = true ∨ 4 ≤ s.tck.goodRun + 1) ∧
    t.tck.correction ≤ (s.periodNs / 200 : Nat) ∧ -((s.periodNs / 200 : Nat) : Int) ≤ t.tck.correction) ∧
  (∀ s : State, s.live = true →
    (s.tck.follower = true → s.tck.holdover = false → exec .holdoverEntry s = .next ((s.mTck fun t => { t with
      holdover := true, sourceLost := true, locked := false, goodRun := 0, missed := 0, lastEdge := none, holdoverTicks := 0
      expiryRaised := false, correction := 0, intervals := [] }).raise { code := 0x240 })) ∧
    (s.tck.follower = false ∨ s.tck.holdover = true → exec .holdoverEntry s = .next s) ∧
    (s.tck.holdover = true → 4096 ≤ s.tck.holdoverTicks → s.tck.expiryRaised = false → exec .holdoverExpired s = .next
      ((s.mTck fun t => { t with holdoverExpired := true, expiryRaised := true }).raise { code := 0x243 })) ∧
    (s.tck.holdover = false ∨ s.tck.holdoverTicks < 4096 ∨ s.tck.expiryRaised = true → exec .holdoverExpired s = .next s)) ∧
  (∀ (s : State), ∃ t, exec .throtInAssert s = .next t ∧ t.pins = { s.pins with throtInN := false } ∧ t.power.calmSamples = 0 ∧
    (s.live = true → t.power.hlevel = max 4 s.power.hlevel) ∧ (s.live = false → t.power.hlevel = s.power.hlevel)) ∧
  (∀ (s u : State) (die : Nat) (temp : Int), s.dev ≠ .off → die < 2 → u = s.mPower (fun p => { p with
      dieTemp0 := if die = 0 then temp else p.dieTemp0, dieTemp1 := if die = 1 then temp else p.dieTemp1
      hotTick := p.hotTick || decide (85 * 256 ≤ temp), calmSamples := if 95 * 256 ≤ temp then 0 else p.calmSamples }) →
    (115 * 256 ≤ temp → exec (.dieTempSample die temp) s = .next (u.trip.mPins fun p => { p with thermtripN := false })) ∧
    (temp < 115 * 256 →
      (u.power.dieTemp0 < 100 * 256 → u.power.dieTemp1 < 100 * 256 → exec (.dieTempSample die temp) s = .next
        (u.mPower fun p => { p with hotStepAt := none })) ∧
      (100 * 256 ≤ u.power.dieTemp0 ∨ 100 * 256 ≤ u.power.dieTemp1 →
        (s.power.hotStepAt = none ∨ (∃ a, s.power.hotStepAt = some a ∧ a + cyclesPerMs ≤ s.time) → exec (.dieTempSample die temp) s = .next
          (u.stepLevel.mPower fun p => { p with hotStepAt := some s.time })) ∧
        (∀ a, s.power.hotStepAt = some a → s.time < a + cyclesPerMs → exec (.dieTempSample die temp) s = .next u)))) ∧
  (∀ (s : State) (w : Nat) (high : Bool) (l : List Nat), s.dev ≠ .off → l = (w :: s.power.recent).take 10 → ∃ t, exec (.powerSample w high) s = .next t ∧
    t.power.powerW = w ∧ t.power.tickEnergy = s.power.tickEnergy + w ∧ t.pins.throtInN = (s.pins.throtInN || high) ∧
    (1600 * l.length < l.sum → s.live = true → s.power.powerStepAt = none ∨ (∃ a, s.power.powerStepAt = some a ∧ a + cyclesPerMs / 10 ≤ s.time) →
      t.power.hlevel = min 5 (s.power.hlevel + 1)) ∧
    (l.sum ≤ 1600 * l.length → t.power.hlevel = s.power.hlevel ∧ t.power.powerStepAt = none)) ∧
  (∀ s : State, (s.pins.throtInN = false → 4 ≤ s.nextLevel) ∧ s.power.hlevel ≤ s.nextLevel + 1 ∧
    (s.nextLevel < s.power.hlevel → 100 ≤ s.power.calmSamples ∧ s.pins.throtInN = true))

/-- In the BX-3 personality a TAIL write makes entries pending, each read once (R882); an enable starts the queue from 0, RESUME lifts HALTED, SOFT_RESET undefines every table (R885, R898, R902); a read of BX_STATUS clears its RC bits (R879). The entry at HEAD runs when nothing else does (R884). Each opcode fails with its code when its operands are
malformed (1), its table is not as needed (2), a range leaves device memory (3), overlaps its inputs (4) or a table (5), or a host access fails (6) (R888, R899); else DEFINE_TABLE and UNDEFINE_TABLE change the table, ROW_WRITE stages its rows, LOOKUP_POOL its pooled bags, a sum saturating at 32 bits at each term (R892), DENSE its layer in k order (R895), and COPY
writes its bytes. BX_COMMAND_COMPLETE writes what was staged, advances HEAD and BX_DONE_COUNT, and a failure sets CMD_ERR, HALTED and BX_ERR_INFO (R898, R901). -/
def Obligations.BxCommands : Prop :=
  (∀ (s : State) (v : Nat), s.bxOn = true → ∃ t, exec (.bxQTailWrite v) s = .next t ∧ t.bx.tail = v % 64 ∧ t.bx.head = s.bx.head ∧ t.mem = s.mem ∧
    (s.bx.qEn = false → t.bx.entries = s.bx.entries) ∧
    (s.bx.qEn = true → ∀ n i bs, n < (v % 64 + 64 - s.bx.head) % 64 → i = (s.bx.head + n) % 64 → (∀ x ∈ s.bx.entries, x.1 ≠ i) →
      bs = s.hostRead (s.bx.qBase.toNat + 32 * i) 32 → s.bxPoison (s.bx.qBase.toNat + 32 * i) 32 = false → (i, bs) ∈ t.bx.entries)) ∧
  (∀ (s : State) (v : Nat), s.bxOn = true →
    (s.bx.qEn = true → s.bx.recheck = true → exec .bxQueueIdleRecheck s = .next (s.mBx fun b => { b with recheck := false })) ∧
    (bit v 2 = false → ∃ t, exec (.bxQueueEnable v) s = .next t ∧ t.bx.qEn = bit v 0 ∧ t.bx.irqEn = bit v 3 ∧ t.bx.tables = s.bx.tables ∧
      (bit v 0 = true → s.bx.qEn = false → t.bx.head = 0 ∧ t.bx.tail = 0 ∧ t.bx.entries = []) ∧
      (bit v 1 = true → t.bx.halted = false) ∧ (bit v 1 = false → t.bx.halted = s.bx.halted)) ∧
    (bit v 2 = false → ∃ t, exec (.bxResume v) s = .next t ∧ t.bx.halted = false ∧ t.bx.tables = s.bx.tables) ∧
    (∃ t, exec (.bxSoftReset v false) s = .next t ∧ t.bx = { irqs := s.bx.irqs } ∧ t.mem = s.mem ∧ t.logs = s.logs) ∧
    (∃ t, exec (.bxSoftReset v true) s = .next t ∧ t.bx = { irqs := s.bx.irqs } ∧ (t.log 0).mbx = {})) ∧
  (∀ s : State, s.presented = true → s.img.bx3 = true → ∃ t, exec .bxStatusRead s = .next t ∧ t.bus.readValue = BitVec.ofNat 64 s.bx.status ∧
    t.bx = { s.bx with qEmpty := false, oor := false, cmdErr := false } ∧ t.mem = s.mem) ∧
  (∀ (s : State) (e : List Byte), s.bxNext = some e → e ≠ [] →
    (bxOp e = 0 → exec (.bxNop false) s = .next (s.bxRun e [] (if zeroIn e 1 31 then 0 else 1) 0) ∧ exec (.bxNop true) s = .next (s.bxRun e [] 6 0)) ∧
    (6 < bxOp e → exec (.bxNop false) s = .next (s.bxRun e [] 1 0))) ∧
  (∀ (s : State) (f : Bool), s.bxNext = some [] → exec (.bxNop f) s = .next (s.bxRun [] [] 6 0)) ∧
  (∀ (s : State) (f : Bool), s.bxNext = none → ∀ i ∈ ([.bxNop f, .defineTable f, .undefineTable f, .rowWrite f, .lookupPool f, .dense f, .bxCopy f] : List Instr),
    exec i s = .next s) ∧
  (∀ (s : State) (e : List Byte) (t : BxTable), s.bxEntry 1 = some e → t = { rows := bxP32 e, base := bxA e % 2 ^ 40, rowBytes := 32 * 2 ^ (bxFlags e % 8), scale := BitVec.ofNat 32 (bxC e) } →
    (5 < bxFlags e ∨ 1023 < bxP16 e ∨ bxP32 e = 0 ∨ bxB e ≠ 0 ∨ bxDev (bxA e) = false ∨ bxBad (bxA e) = true →
      exec (.defineTable false) s = .next (s.bxRun e [] 1 0)) ∧
    (bxFlags e ≤ 5 → bxP16 e ≤ 1023 → bxP32 e ≠ 0 → bxB e = 0 → bxC e < 2 ^ 32 → nonfinite 0 (bxC e) = false → bxDev (bxA e) = true → bxBad (bxA e) = false →
      bxA e % 2 ^ 40 % (32 * 2 ^ (bxFlags e % 8)) = 0 →
      (mapGet s.bx.tables (bxP16 e) ≠ none → exec (.defineTable false) s = .next (s.bxRun e [] 2 0)) ∧
      (mapGet s.bx.tables (bxP16 e) = none →
        (bxBeyond t.extent = true → exec (.defineTable false) s = .next (s.bxRun e [] 3 0)) ∧
        (bxBeyond t.extent = false → s.bxOverTable t.extent = true → exec (.defineTable false) s = .next (s.bxRun e [] 5 0)) ∧
        (bxBeyond t.extent = false → s.bxOverTable t.extent = false → exec (.defineTable false) s = .next
          ((s.mBx fun b => { b with tables := mapSet b.tables (bxP16 e) t }).bxRun e [] 0 0))))) ∧
  (∀ (s : State) (e : List Byte), s.bxEntry 2 = some e → bxFlags e = 0 → bxP16 e ≤ 1023 → zeroIn e 4 28 = true →
    (mapGet s.bx.tables (bxP16 e) = none → exec (.undefineTable false) s = .next (s.bxRun e [] 2 0)) ∧
    (mapGet s.bx.tables (bxP16 e) ≠ none → exec (.undefineTable false) s = .next
      ((s.mBx fun b => { b with tables := mapErase b.tables (bxP16 e) }).bxRun e [] 0 0))) ∧
  (∀ (s : State) (e : List Byte) (n : Nat), s.bxEntry 3 = some e → n = bxP32 e → bxFlags e = 0 → bxP16 e ≤ 1023 → 1 ≤ n → n ≤ 65536 → bxC e = 0 →
    bxBad (bxA e) = false → bxBad (bxB e) = false →
    (mapGet s.bx.tables (bxP16 e) = none → exec (.rowWrite false) s = .next (s.bxRun e [] 2 0)) ∧
    (∀ t idx outs, mapGet s.bx.tables (bxP16 e) = some t → idx = (List.range n).map (fun i => fld (s.bxRead (bxA e) (4 * n)) (4 * i) 4) →
      outs = (idx.filter (· < t.rows)).map (fun r => (t.row r, t.rowBytes)) →
      (bxBeyond (bxA e, 4 * n) = true ∨ bxBeyond (bxB e, n * t.rowBytes) = true → exec (.rowWrite false) s = .next (s.bxRun e [] 3 0)) ∧
      (bxBeyond (bxA e, 4 * n) = false → bxBeyond (bxB e, n * t.rowBytes) = false →
        ((∃ o ∈ outs, bxMeet o (bxA e, 4 * n) = true ∨ bxMeet o (bxB e, n * t.rowBytes) = true) → exec (.rowWrite false) s = .next (s.bxRun e [] 4 0)) ∧
        ((∀ o ∈ outs, bxMeet o (bxA e, 4 * n) = false ∧ bxMeet o (bxB e, n * t.rowBytes) = false) → s.bxPoison (bxA e) (4 * n) = false →
          ((∃ r ∈ idx, t.rows ≤ r) → exec (.rowWrite false) s = .next (s.bxRun e [] 1 0)) ∧
          ((∀ r ∈ idx, r < t.rows) → s.bxPoison (bxB e) (n * t.rowBytes) = false → exec (.rowWrite false) s = .next
            (s.bxRun e ((List.range n).map fun i => (t.row (idx.getD i 0), s.bxRead (bxB e + i * t.rowBytes) t.rowBytes)) 0 0)))))) ∧
  (∀ (s : State) (e : List Byte) (n : Nat), s.bxEntry 4 = some e → n = bxP32 e →
    (bxFlags e ≠ 0 ∨ 1023 < bxP16 e ∨ n = 0 ∨ 1048576 < n → exec (.lookupPool false) s = .next (s.bxRun e [] 1 0)) ∧
    (∀ t ins out, bxFlags e = 0 → bxP16 e ≤ 1023 → 1 ≤ n → n ≤ 1048576 → bxBad (bxA e) = false → bxBad (bxB e) = false → bxBad (bxC e) = false →
      mapGet s.bx.tables (bxP16 e) = some t → out = (bxC e, 4 * t.rowBytes * n) → ins = (bxA e, 8 * n) :: s.bxIndexRanges e →
      (∀ r ∈ out :: ins, bxBeyond r = false) → (∀ r ∈ ins, s.bxPoison r.1 r.2 = false) → s.bxBagsOk e = true → (∀ r ∈ ins, bxMeet out r = false) →
      s.bxOverTable out = false → (∀ b < n, ∀ p ∈ (s.bxBag e b).2, s.bxPoison (t.row (if p.1 < t.rows then p.1 else 0)) t.rowBytes = false) →
      ∃ u, exec (.lookupPool false) s = .next u ∧ u.bx.taken = some e ∧ u.bx.failing = 0 ∧
        u.bx.staged = [(bxC e, (List.range n).flatMap fun b => (s.bxBagOut e t b).1)] ∧ u.mem = s.mem)) ∧
  (∀ (v : Int) (l : List Int), (bxPool []).1 = 0 ∧ (bxPool (l ++ [v])).1 = max (-2147483648) (min 2147483647 ((bxPool l).1 + v)) ∧
    (bxPool (l ++ [v])).2 = (bxPool l).2 + (if -2147483648 ≤ (bxPool l).1 + v ∧ (bxPool l).1 + v ≤ 2147483647 then 0 else 1)) ∧
  (∀ (s : State) (e : List Byte), s.bxEntry 5 = some e →
    (zeroIn e 1 7 = false ∨ zeroIn e 16 16 = false ∨ bxBad (bxA e) = true → exec (.dense false) s = .next (s.bxRun e [] 1 0)) ∧
    (∀ p x w bias y m k n act ins out, zeroIn e 1 7 = true → zeroIn e 16 16 = true → bxBad (bxA e) = false → p = s.bxRead (bxA e) 64 → x = fld p 0 8 →
      w = fld p 8 8 → bias = fld p 16 8 → y = fld p 24 8 → m = fld p 32 4 → k = fld p 36 4 → n = fld p 40 4 → act = fld p 44 1 →
      out = (y, 4 * m * n) → ins = [(bxA e, 64), (x, 4 * m * k), (w, 4 * k * n)] ++ (if bias = 0 then [] else [(bias, 4 * n)]) →
      (∀ d ∈ [m, k, n], 1 ≤ d ∧ d ≤ 65536) → act ≤ 1 → zeroIn p 45 19 = true → (∀ a ∈ [x, w, bias, y], bxBad a = false) →
      (∀ r ∈ out :: ins, bxBeyond r = false) → (∀ r ∈ ins, bxMeet out r = false) → s.bxOverTable out = false → (∀ r ∈ ins, s.bxPoison r.1 r.2 = false) →
      exec (.dense false) s = .next (s.bxRun e [(y, (List.range (m * n)).flatMap fun i =>
        toLe 4 (s.bxDenseAt x w bias k n act (i / n) (i % n)))] 0 0))) ∧
  (∀ (s : State) (e : List Byte) (n : Nat), s.bxEntry 6 = some e → n = bxP32 e →
    (zeroIn e 1 3 = false ∨ zeroIn e 24 8 = false ∨ n = 0 → exec (.bxCopy false) s = .next (s.bxRun e [] 1 0)) ∧
    (zeroIn e 1 3 = true → zeroIn e 24 8 = true → n ≠ 0 → bxBad (bxA e) = false → bxBad (bxB e) = false →
      (bxBeyond (bxA e, n) = true ∨ bxBeyond (bxB e, n) = true → exec (.bxCopy false) s = .next (s.bxRun e [] 3 0)) ∧
      (bxBeyond (bxA e, n) = false → bxBeyond (bxB e, n) = false →
        (bxMeet (bxB e, n) (bxA e, n) = true → exec (.bxCopy false) s = .next (s.bxRun e [] 4 0)) ∧
        (bxMeet (bxB e, n) (bxA e, n) = false → s.bxOverTable (bxB e, n) = true → exec (.bxCopy false) s = .next (s.bxRun e [] 5 0)) ∧
        (bxMeet (bxB e, n) (bxA e, n) = false → s.bxOverTable (bxB e, n) = false → (bxDev (bxA e) = false → s.bxPoison (bxA e) n = false) →
          ∃ t, exec (.bxCopy false) s = .next t ∧ t.bx.taken = some e ∧ t.bx.failing = 0 ∧ t.drovers.bytes = s.drovers.bytes + BitVec.ofNat 64 n ∧
            t.mem = (s.bxWrite (bxB e) (s.bxRead (bxA e) n) (fun a => s.bxPoison (bxA e + (a - bxB e)) (min (64 - a % 64) (n - (a - bxB e))))
              (n / 64 + 2)).mem)))) ∧
  (∀ (s : State) (e : List Byte), s.bxOn = true → s.bx.ran = true → s.bx.taken = some e → ∃ t, exec .bxCommandComplete s = .next t ∧
    t.bx.taken = none ∧ t.bx.ran = false ∧ t.bx.head = (s.bx.head + 1) % 64 ∧ t.bx.done = s.bx.done + 1 ∧
    t.mem = (s.bx.staged.foldl (fun (u : State) w => u.bxPut w.1 w.2) s).mem ∧
    (s.bx.failing = 0 → t.bx.cmdErr = s.bx.cmdErr ∧ t.bx.halted = s.bx.halted ∧ t.bx.errCode = s.bx.errCode ∧ t.bx.irqs = s.bx.irqs) ∧
    (s.bx.failing ≠ 0 → t.bx.cmdErr = true ∧ t.bx.halted = true ∧ t.bx.errCode = s.bx.failing ∧ t.bx.errSlot = s.bx.head ∧
      t.bx.errFault = s.bx.failFault ∧ t.bx.irqs = (if s.bx.cmdErr = false ∧ s.bx.irqEn = true then s.bx.irqs + 1 else s.bx.irqs)) ∧
    ((s.bx.head + 1) % 64 = s.bx.tail → t.bx.qEmpty = true))
end

