-- ==== Sys2Proof/Laws/Maps.lean ====
section
/-!
SUPPORT. Finite maps: what a key reads as after each operation, and that writing keeps the keys rising.
-/
namespace Sys2Proof.Machine

variable {α : Type}

@[simp] theorem mapGet_nil (k : Nat) : mapGet ([] : Map α) k = none := rfl

@[simp] theorem mapGet_mapSet_self (m : Map α) (k : Nat) (v : α) : mapGet (mapSet m k v) k = some v := by
  induction m with
  | nil => simp [mapSet, mapGet]
  | cons p t ih =>
    obtain ⟨a, w⟩ := p
    simp only [mapSet]
    split_ifs with h1 h2
    · simp [mapGet]
    · simp [mapGet]
    · simp only [mapGet]; rw [if_neg (by omega)]; exact ih

theorem mapGet_mapSet_of_ne (m : Map α) {k j : Nat} (v : α) (h : j ≠ k) : mapGet (mapSet m k v) j = mapGet m j := by
  induction m with
  | nil => simp [mapSet, mapGet, h.symm]
  | cons p t ih =>
    obtain ⟨a, w⟩ := p
    simp only [mapSet]
    split_ifs with h1 h2
    · simp [mapGet, h.symm]
    · subst h2; simp [mapGet, h.symm]
    · simp only [mapGet]; split_ifs <;> [rfl; exact ih]

theorem mapGet_mapSet (m : Map α) (k j : Nat) (v : α) : mapGet (mapSet m k v) j = if j = k then some v else mapGet m j := by
  by_cases h : j = k
  · subst h; simp
  · simp [h, mapGet_mapSet_of_ne m v h]

@[simp] theorem mapGetD_mapSet_self (m : Map α) (k : Nat) (v d : α) : mapGetD (mapSet m k v) k d = v := by simp [mapGetD]

theorem mapGetD_mapSet_of_ne (m : Map α) {k j : Nat} (v d : α) (h : j ≠ k) : mapGetD (mapSet m k v) j d = mapGetD m j d := by
  simp [mapGetD, mapGet_mapSet_of_ne m v h]

@[simp] theorem mapGetD_mapMod_self (m : Map α) (k : Nat) (d : α) (f : α → α) : mapGetD (mapMod m k d f) k d = f (mapGetD m k d) := by
  simp [mapMod]

theorem mapGetD_mapMod_of_ne (m : Map α) {k j : Nat} (d : α) (f : α → α) (h : j ≠ k) : mapGetD (mapMod m k d f) j d = mapGetD m j d := by
  simp [mapMod, mapGetD_mapSet_of_ne m _ d h]

theorem mapGet_mapAdj (m : Map α) (k j : Nat) (f : α → α) : mapGet (mapAdj m k f) j = if j = k then (mapGet m j).map f else mapGet m j := by
  induction m with
  | nil => simp [mapAdj]
  | cons p t ih =>
    obtain ⟨a, w⟩ := p
    have e : mapAdj ((a, w) :: t) k f = (if a = k then (a, f w) else (a, w)) :: mapAdj t k f := rfl
    rw [e]
    by_cases ha : a = k
    · subst ha
      rw [if_pos rfl]
      simp only [mapGet]
      by_cases hj : a = j
      · subst hj; simp
      · rw [if_neg hj, if_neg hj, ih]
    · rw [if_neg ha]
      simp only [mapGet]
      by_cases hj : a = j
      · subst hj; simp [ha]
      · rw [if_neg hj, if_neg hj, ih]

@[simp] theorem mapGet_mapAdj_self (m : Map α) (k : Nat) (f : α → α) : mapGet (mapAdj m k f) k = (mapGet m k).map f := by
  simp [mapGet_mapAdj]

theorem mapGet_mapAdj_of_ne (m : Map α) {k j : Nat} (f : α → α) (h : j ≠ k) : mapGet (mapAdj m k f) j = mapGet m j := by
  simp [mapGet_mapAdj, h]

theorem mapGet_mapErase (m : Map α) (k j : Nat) : mapGet (mapErase m k) j = if j = k then none else mapGet m j := by
  induction m with
  | nil => simp [mapErase, mapGet]
  | cons p t ih =>
    obtain ⟨a, w⟩ := p
    have e : mapErase ((a, w) :: t) k = if a = k then mapErase t k else (a, w) :: mapErase t k := by
      by_cases h : a = k <;> simp [mapErase, h]
    rw [e]
    by_cases ha : a = k
    · subst ha
      rw [if_pos rfl, ih]
      by_cases hj : j = a
      · simp [hj]
      · simp [mapGet, hj, Ne.symm hj]
    · rw [if_neg ha]
      simp only [mapGet]
      by_cases hj : a = j
      · subst hj; simp [ha]
      · rw [if_neg hj, if_neg hj, ih]

/-- The keys after one write are old ones or the written one. -/
theorem mem_keys_mapSet {m : Map α} {k : Nat} {v : α} {p : Nat × α} (h : p ∈ mapSet m k v) : p ∈ m ∨ p = (k, v) := by
  induction m with
  | nil => simpa [mapSet] using h
  | cons q t ih =>
    obtain ⟨a, w⟩ := q
    simp only [mapSet] at h
    split_ifs at h with h1 h2
    · rcases List.mem_cons.1 h with h | h
      · exact .inr h
      · exact .inl h
    · rcases List.mem_cons.1 h with h | h
      · exact .inr h
      · exact .inl (List.mem_cons_of_mem _ h)
    · rcases List.mem_cons.1 h with h | h
      · exact .inl (h ▸ List.mem_cons_self)
      · exact (ih h).imp (List.mem_cons_of_mem _) id

/-- Writing keeps the keys rising. -/
theorem mapSet_wf {m : Map α} (k : Nat) (v : α) (h : mapWf m = true) : mapWf (mapSet m k v) = true := by
  simp only [mapWf, decide_eq_true_eq] at *
  induction m with
  | nil => simp [mapSet]
  | cons q t ih =>
    obtain ⟨a, w⟩ := q
    simp only [List.map_cons, List.pairwise_cons, List.mem_map, forall_exists_index, and_imp] at h
    have low (b : Nat) (hb : b ≤ a) : ∀ x ∈ t.map (·.1), b < x := by
      intro x hx
      obtain ⟨p, hp, rfl⟩ := List.mem_map.1 hx
      exact lt_of_le_of_lt hb (h.1 p.1 p hp rfl)
    simp only [mapSet]
    split_ifs with h1 h2
    · simp only [List.map_cons, List.pairwise_cons]
      refine ⟨?_, low a le_rfl, h.2⟩
      intro x hx
      rcases List.mem_cons.1 hx with rfl | hx
      · exact h1
      · exact lt_trans h1 (low a le_rfl x hx)
    · subst h2
      simp only [List.map_cons, List.pairwise_cons]
      exact ⟨low k le_rfl, h.2⟩
    · simp only [List.map_cons, List.pairwise_cons]
      refine ⟨?_, ih h.2⟩
      intro x hx
      obtain ⟨p, hp, rfl⟩ := List.mem_map.1 hx
      rcases mem_keys_mapSet hp with hp | rfl
      · exact low a le_rfl p.1 (List.mem_map.2 ⟨p, hp, rfl⟩)
      · show a < k; omega

end Sys2Proof.Machine
end

