-- ==== Sys2Proof/Laws/State.lean ====
section
/-!
SUPPORT. One lemma for each field of State and each of its updates.
-/
namespace Sys2Proof.Machine

variable (s : State)

@[simp] theorem State.mTck_pending (g : TickUnit → TickUnit) : (s.mTck g).pending = s.pending := rfl
@[simp] theorem State.mTck_dev (g : TickUnit → TickUnit) : (s.mTck g).dev = s.dev := rfl
@[simp] theorem State.mTck_time (g : TickUnit → TickUnit) : (s.mTck g).time = s.time := rfl
@[simp] theorem State.mTck_pins (g : TickUnit → TickUnit) : (s.mTck g).pins = s.pins := rfl
@[simp] theorem State.mTck_fuses (g : TickUnit → TickUnit) : (s.mTck g).fuses = s.fuses := rfl
@[simp] theorem State.mTck_img (g : TickUnit → TickUnit) : (s.mTck g).img = s.img := rfl
@[simp] theorem State.mTck_boot (g : TickUnit → TickUnit) : (s.mTck g).boot = s.boot := rfl
@[simp] theorem State.mTck_warden (g : TickUnit → TickUnit) : (s.mTck g).warden = s.warden := rfl
@[simp] theorem State.mTck_tck (g : TickUnit → TickUnit) : (s.mTck g).tck = g s.tck := rfl
@[simp] theorem State.mTck_cvn (g : TickUnit → TickUnit) : (s.mTck g).cvn = s.cvn := rfl
@[simp] theorem State.mTck_ldg (g : TickUnit → TickUnit) : (s.mTck g).ldg = s.ldg := rfl
@[simp] theorem State.mTck_stk (g : TickUnit → TickUnit) : (s.mTck g).stk = s.stk := rfl
@[simp] theorem State.mTck_fns (g : TickUnit → TickUnit) : (s.mTck g).fns = s.fns := rfl
@[simp] theorem State.mTck_logs (g : TickUnit → TickUnit) : (s.mTck g).logs = s.logs := rfl
@[simp] theorem State.mTck_tally (g : TickUnit → TickUnit) : (s.mTck g).tally = s.tally := rfl
@[simp] theorem State.mTck_serais (g : TickUnit → TickUnit) : (s.mTck g).serais = s.serais := rfl
@[simp] theorem State.mTck_cellar (g : TickUnit → TickUnit) : (s.mTck g).cellar = s.cellar := rfl
@[simp] theorem State.mTck_hearths (g : TickUnit → TickUnit) : (s.mTck g).hearths = s.hearths := rfl
@[simp] theorem State.mTck_sieves (g : TickUnit → TickUnit) : (s.mTck g).sieves = s.sieves := rfl
@[simp] theorem State.mTck_depot (g : TickUnit → TickUnit) : (s.mTck g).depot = s.depot := rfl
@[simp] theorem State.mTck_dampers (g : TickUnit → TickUnit) : (s.mTck g).dampers = s.dampers := rfl
@[simp] theorem State.mTck_drovers (g : TickUnit → TickUnit) : (s.mTck g).drovers = s.drovers := rfl
@[simp] theorem State.mTck_power (g : TickUnit → TickUnit) : (s.mTck g).power = s.power := rfl
@[simp] theorem State.mTck_xlt (g : TickUnit → TickUnit) : (s.mTck g).xlt = s.xlt := rfl
@[simp] theorem State.mTck_routes (g : TickUnit → TickUnit) : (s.mTck g).routes = s.routes := rfl
@[simp] theorem State.mTck_flt (g : TickUnit → TickUnit) : (s.mTck g).flt = s.flt := rfl
@[simp] theorem State.mTck_chm (g : TickUnit → TickUnit) : (s.mTck g).chm = s.chm := rfl
@[simp] theorem State.mTck_bx (g : TickUnit → TickUnit) : (s.mTck g).bx = s.bx := rfl
@[simp] theorem State.mTck_mem (g : TickUnit → TickUnit) : (s.mTck g).mem = s.mem := rfl
@[simp] theorem State.mTck_bus (g : TickUnit → TickUnit) : (s.mTck g).bus = s.bus := rfl

@[simp] theorem State.mCvn_pending (g : Caravan → Caravan) : (s.mCvn g).pending = s.pending := rfl
@[simp] theorem State.mCvn_dev (g : Caravan → Caravan) : (s.mCvn g).dev = s.dev := rfl
@[simp] theorem State.mCvn_time (g : Caravan → Caravan) : (s.mCvn g).time = s.time := rfl
@[simp] theorem State.mCvn_pins (g : Caravan → Caravan) : (s.mCvn g).pins = s.pins := rfl
@[simp] theorem State.mCvn_fuses (g : Caravan → Caravan) : (s.mCvn g).fuses = s.fuses := rfl
@[simp] theorem State.mCvn_img (g : Caravan → Caravan) : (s.mCvn g).img = s.img := rfl
@[simp] theorem State.mCvn_boot (g : Caravan → Caravan) : (s.mCvn g).boot = s.boot := rfl
@[simp] theorem State.mCvn_warden (g : Caravan → Caravan) : (s.mCvn g).warden = s.warden := rfl
@[simp] theorem State.mCvn_tck (g : Caravan → Caravan) : (s.mCvn g).tck = s.tck := rfl
@[simp] theorem State.mCvn_cvn (g : Caravan → Caravan) : (s.mCvn g).cvn = g s.cvn := rfl
@[simp] theorem State.mCvn_ldg (g : Caravan → Caravan) : (s.mCvn g).ldg = s.ldg := rfl
@[simp] theorem State.mCvn_stk (g : Caravan → Caravan) : (s.mCvn g).stk = s.stk := rfl
@[simp] theorem State.mCvn_fns (g : Caravan → Caravan) : (s.mCvn g).fns = s.fns := rfl
@[simp] theorem State.mCvn_logs (g : Caravan → Caravan) : (s.mCvn g).logs = s.logs := rfl
@[simp] theorem State.mCvn_tally (g : Caravan → Caravan) : (s.mCvn g).tally = s.tally := rfl
@[simp] theorem State.mCvn_serais (g : Caravan → Caravan) : (s.mCvn g).serais = s.serais := rfl
@[simp] theorem State.mCvn_cellar (g : Caravan → Caravan) : (s.mCvn g).cellar = s.cellar := rfl
@[simp] theorem State.mCvn_hearths (g : Caravan → Caravan) : (s.mCvn g).hearths = s.hearths := rfl
@[simp] theorem State.mCvn_sieves (g : Caravan → Caravan) : (s.mCvn g).sieves = s.sieves := rfl
@[simp] theorem State.mCvn_depot (g : Caravan → Caravan) : (s.mCvn g).depot = s.depot := rfl
@[simp] theorem State.mCvn_dampers (g : Caravan → Caravan) : (s.mCvn g).dampers = s.dampers := rfl
@[simp] theorem State.mCvn_drovers (g : Caravan → Caravan) : (s.mCvn g).drovers = s.drovers := rfl
@[simp] theorem State.mCvn_power (g : Caravan → Caravan) : (s.mCvn g).power = s.power := rfl
@[simp] theorem State.mCvn_xlt (g : Caravan → Caravan) : (s.mCvn g).xlt = s.xlt := rfl
@[simp] theorem State.mCvn_routes (g : Caravan → Caravan) : (s.mCvn g).routes = s.routes := rfl
@[simp] theorem State.mCvn_flt (g : Caravan → Caravan) : (s.mCvn g).flt = s.flt := rfl
@[simp] theorem State.mCvn_chm (g : Caravan → Caravan) : (s.mCvn g).chm = s.chm := rfl
@[simp] theorem State.mCvn_bx (g : Caravan → Caravan) : (s.mCvn g).bx = s.bx := rfl
@[simp] theorem State.mCvn_mem (g : Caravan → Caravan) : (s.mCvn g).mem = s.mem := rfl
@[simp] theorem State.mCvn_bus (g : Caravan → Caravan) : (s.mCvn g).bus = s.bus := rfl

@[simp] theorem State.mLdg_pending (g : Ledger → Ledger) : (s.mLdg g).pending = s.pending := rfl
@[simp] theorem State.mLdg_dev (g : Ledger → Ledger) : (s.mLdg g).dev = s.dev := rfl
@[simp] theorem State.mLdg_time (g : Ledger → Ledger) : (s.mLdg g).time = s.time := rfl
@[simp] theorem State.mLdg_pins (g : Ledger → Ledger) : (s.mLdg g).pins = s.pins := rfl
@[simp] theorem State.mLdg_fuses (g : Ledger → Ledger) : (s.mLdg g).fuses = s.fuses := rfl
@[simp] theorem State.mLdg_img (g : Ledger → Ledger) : (s.mLdg g).img = s.img := rfl
@[simp] theorem State.mLdg_boot (g : Ledger → Ledger) : (s.mLdg g).boot = s.boot := rfl
@[simp] theorem State.mLdg_warden (g : Ledger → Ledger) : (s.mLdg g).warden = s.warden := rfl
@[simp] theorem State.mLdg_tck (g : Ledger → Ledger) : (s.mLdg g).tck = s.tck := rfl
@[simp] theorem State.mLdg_cvn (g : Ledger → Ledger) : (s.mLdg g).cvn = s.cvn := rfl
@[simp] theorem State.mLdg_ldg (g : Ledger → Ledger) : (s.mLdg g).ldg = g s.ldg := rfl
@[simp] theorem State.mLdg_stk (g : Ledger → Ledger) : (s.mLdg g).stk = s.stk := rfl
@[simp] theorem State.mLdg_fns (g : Ledger → Ledger) : (s.mLdg g).fns = s.fns := rfl
@[simp] theorem State.mLdg_logs (g : Ledger → Ledger) : (s.mLdg g).logs = s.logs := rfl
@[simp] theorem State.mLdg_tally (g : Ledger → Ledger) : (s.mLdg g).tally = s.tally := rfl
@[simp] theorem State.mLdg_serais (g : Ledger → Ledger) : (s.mLdg g).serais = s.serais := rfl
@[simp] theorem State.mLdg_cellar (g : Ledger → Ledger) : (s.mLdg g).cellar = s.cellar := rfl
@[simp] theorem State.mLdg_hearths (g : Ledger → Ledger) : (s.mLdg g).hearths = s.hearths := rfl
@[simp] theorem State.mLdg_sieves (g : Ledger → Ledger) : (s.mLdg g).sieves = s.sieves := rfl
@[simp] theorem State.mLdg_depot (g : Ledger → Ledger) : (s.mLdg g).depot = s.depot := rfl
@[simp] theorem State.mLdg_dampers (g : Ledger → Ledger) : (s.mLdg g).dampers = s.dampers := rfl
@[simp] theorem State.mLdg_drovers (g : Ledger → Ledger) : (s.mLdg g).drovers = s.drovers := rfl
@[simp] theorem State.mLdg_power (g : Ledger → Ledger) : (s.mLdg g).power = s.power := rfl
@[simp] theorem State.mLdg_xlt (g : Ledger → Ledger) : (s.mLdg g).xlt = s.xlt := rfl
@[simp] theorem State.mLdg_routes (g : Ledger → Ledger) : (s.mLdg g).routes = s.routes := rfl
@[simp] theorem State.mLdg_flt (g : Ledger → Ledger) : (s.mLdg g).flt = s.flt := rfl
@[simp] theorem State.mLdg_chm (g : Ledger → Ledger) : (s.mLdg g).chm = s.chm := rfl
@[simp] theorem State.mLdg_bx (g : Ledger → Ledger) : (s.mLdg g).bx = s.bx := rfl
@[simp] theorem State.mLdg_mem (g : Ledger → Ledger) : (s.mLdg g).mem = s.mem := rfl
@[simp] theorem State.mLdg_bus (g : Ledger → Ledger) : (s.mLdg g).bus = s.bus := rfl

@[simp] theorem State.mStk_pending (g : Stoker → Stoker) : (s.mStk g).pending = s.pending := rfl
@[simp] theorem State.mStk_dev (g : Stoker → Stoker) : (s.mStk g).dev = s.dev := rfl
@[simp] theorem State.mStk_time (g : Stoker → Stoker) : (s.mStk g).time = s.time := rfl
@[simp] theorem State.mStk_pins (g : Stoker → Stoker) : (s.mStk g).pins = s.pins := rfl
@[simp] theorem State.mStk_fuses (g : Stoker → Stoker) : (s.mStk g).fuses = s.fuses := rfl
@[simp] theorem State.mStk_img (g : Stoker → Stoker) : (s.mStk g).img = s.img := rfl
@[simp] theorem State.mStk_boot (g : Stoker → Stoker) : (s.mStk g).boot = s.boot := rfl
@[simp] theorem State.mStk_warden (g : Stoker → Stoker) : (s.mStk g).warden = s.warden := rfl
@[simp] theorem State.mStk_tck (g : Stoker → Stoker) : (s.mStk g).tck = s.tck := rfl
@[simp] theorem State.mStk_cvn (g : Stoker → Stoker) : (s.mStk g).cvn = s.cvn := rfl
@[simp] theorem State.mStk_ldg (g : Stoker → Stoker) : (s.mStk g).ldg = s.ldg := rfl
@[simp] theorem State.mStk_stk (g : Stoker → Stoker) : (s.mStk g).stk = g s.stk := rfl
@[simp] theorem State.mStk_fns (g : Stoker → Stoker) : (s.mStk g).fns = s.fns := rfl
@[simp] theorem State.mStk_logs (g : Stoker → Stoker) : (s.mStk g).logs = s.logs := rfl
@[simp] theorem State.mStk_tally (g : Stoker → Stoker) : (s.mStk g).tally = s.tally := rfl
@[simp] theorem State.mStk_serais (g : Stoker → Stoker) : (s.mStk g).serais = s.serais := rfl
@[simp] theorem State.mStk_cellar (g : Stoker → Stoker) : (s.mStk g).cellar = s.cellar := rfl
@[simp] theorem State.mStk_hearths (g : Stoker → Stoker) : (s.mStk g).hearths = s.hearths := rfl
@[simp] theorem State.mStk_sieves (g : Stoker → Stoker) : (s.mStk g).sieves = s.sieves := rfl
@[simp] theorem State.mStk_depot (g : Stoker → Stoker) : (s.mStk g).depot = s.depot := rfl
@[simp] theorem State.mStk_dampers (g : Stoker → Stoker) : (s.mStk g).dampers = s.dampers := rfl
@[simp] theorem State.mStk_drovers (g : Stoker → Stoker) : (s.mStk g).drovers = s.drovers := rfl
@[simp] theorem State.mStk_power (g : Stoker → Stoker) : (s.mStk g).power = s.power := rfl
@[simp] theorem State.mStk_xlt (g : Stoker → Stoker) : (s.mStk g).xlt = s.xlt := rfl
@[simp] theorem State.mStk_routes (g : Stoker → Stoker) : (s.mStk g).routes = s.routes := rfl
@[simp] theorem State.mStk_flt (g : Stoker → Stoker) : (s.mStk g).flt = s.flt := rfl
@[simp] theorem State.mStk_chm (g : Stoker → Stoker) : (s.mStk g).chm = s.chm := rfl
@[simp] theorem State.mStk_bx (g : Stoker → Stoker) : (s.mStk g).bx = s.bx := rfl
@[simp] theorem State.mStk_mem (g : Stoker → Stoker) : (s.mStk g).mem = s.mem := rfl
@[simp] theorem State.mStk_bus (g : Stoker → Stoker) : (s.mStk g).bus = s.bus := rfl

@[simp] theorem State.mTally_pending (g : Tally → Tally) : (s.mTally g).pending = s.pending := rfl
@[simp] theorem State.mTally_dev (g : Tally → Tally) : (s.mTally g).dev = s.dev := rfl
@[simp] theorem State.mTally_time (g : Tally → Tally) : (s.mTally g).time = s.time := rfl
@[simp] theorem State.mTally_pins (g : Tally → Tally) : (s.mTally g).pins = s.pins := rfl
@[simp] theorem State.mTally_fuses (g : Tally → Tally) : (s.mTally g).fuses = s.fuses := rfl
@[simp] theorem State.mTally_img (g : Tally → Tally) : (s.mTally g).img = s.img := rfl
@[simp] theorem State.mTally_boot (g : Tally → Tally) : (s.mTally g).boot = s.boot := rfl
@[simp] theorem State.mTally_warden (g : Tally → Tally) : (s.mTally g).warden = s.warden := rfl
@[simp] theorem State.mTally_tck (g : Tally → Tally) : (s.mTally g).tck = s.tck := rfl
@[simp] theorem State.mTally_cvn (g : Tally → Tally) : (s.mTally g).cvn = s.cvn := rfl
@[simp] theorem State.mTally_ldg (g : Tally → Tally) : (s.mTally g).ldg = s.ldg := rfl
@[simp] theorem State.mTally_stk (g : Tally → Tally) : (s.mTally g).stk = s.stk := rfl
@[simp] theorem State.mTally_fns (g : Tally → Tally) : (s.mTally g).fns = s.fns := rfl
@[simp] theorem State.mTally_logs (g : Tally → Tally) : (s.mTally g).logs = s.logs := rfl
@[simp] theorem State.mTally_tally (g : Tally → Tally) : (s.mTally g).tally = g s.tally := rfl
@[simp] theorem State.mTally_serais (g : Tally → Tally) : (s.mTally g).serais = s.serais := rfl
@[simp] theorem State.mTally_cellar (g : Tally → Tally) : (s.mTally g).cellar = s.cellar := rfl
@[simp] theorem State.mTally_hearths (g : Tally → Tally) : (s.mTally g).hearths = s.hearths := rfl
@[simp] theorem State.mTally_sieves (g : Tally → Tally) : (s.mTally g).sieves = s.sieves := rfl
@[simp] theorem State.mTally_depot (g : Tally → Tally) : (s.mTally g).depot = s.depot := rfl
@[simp] theorem State.mTally_dampers (g : Tally → Tally) : (s.mTally g).dampers = s.dampers := rfl
@[simp] theorem State.mTally_drovers (g : Tally → Tally) : (s.mTally g).drovers = s.drovers := rfl
@[simp] theorem State.mTally_power (g : Tally → Tally) : (s.mTally g).power = s.power := rfl
@[simp] theorem State.mTally_xlt (g : Tally → Tally) : (s.mTally g).xlt = s.xlt := rfl
@[simp] theorem State.mTally_routes (g : Tally → Tally) : (s.mTally g).routes = s.routes := rfl
@[simp] theorem State.mTally_flt (g : Tally → Tally) : (s.mTally g).flt = s.flt := rfl
@[simp] theorem State.mTally_chm (g : Tally → Tally) : (s.mTally g).chm = s.chm := rfl
@[simp] theorem State.mTally_bx (g : Tally → Tally) : (s.mTally g).bx = s.bx := rfl
@[simp] theorem State.mTally_mem (g : Tally → Tally) : (s.mTally g).mem = s.mem := rfl
@[simp] theorem State.mTally_bus (g : Tally → Tally) : (s.mTally g).bus = s.bus := rfl

@[simp] theorem State.mSerais_pending (g : Serais → Serais) : (s.mSerais g).pending = s.pending := rfl
@[simp] theorem State.mSerais_dev (g : Serais → Serais) : (s.mSerais g).dev = s.dev := rfl
@[simp] theorem State.mSerais_time (g : Serais → Serais) : (s.mSerais g).time = s.time := rfl
@[simp] theorem State.mSerais_pins (g : Serais → Serais) : (s.mSerais g).pins = s.pins := rfl
@[simp] theorem State.mSerais_fuses (g : Serais → Serais) : (s.mSerais g).fuses = s.fuses := rfl
@[simp] theorem State.mSerais_img (g : Serais → Serais) : (s.mSerais g).img = s.img := rfl
@[simp] theorem State.mSerais_boot (g : Serais → Serais) : (s.mSerais g).boot = s.boot := rfl
@[simp] theorem State.mSerais_warden (g : Serais → Serais) : (s.mSerais g).warden = s.warden := rfl
@[simp] theorem State.mSerais_tck (g : Serais → Serais) : (s.mSerais g).tck = s.tck := rfl
@[simp] theorem State.mSerais_cvn (g : Serais → Serais) : (s.mSerais g).cvn = s.cvn := rfl
@[simp] theorem State.mSerais_ldg (g : Serais → Serais) : (s.mSerais g).ldg = s.ldg := rfl
@[simp] theorem State.mSerais_stk (g : Serais → Serais) : (s.mSerais g).stk = s.stk := rfl
@[simp] theorem State.mSerais_fns (g : Serais → Serais) : (s.mSerais g).fns = s.fns := rfl
@[simp] theorem State.mSerais_logs (g : Serais → Serais) : (s.mSerais g).logs = s.logs := rfl
@[simp] theorem State.mSerais_tally (g : Serais → Serais) : (s.mSerais g).tally = s.tally := rfl
@[simp] theorem State.mSerais_serais (g : Serais → Serais) : (s.mSerais g).serais = g s.serais := rfl
@[simp] theorem State.mSerais_cellar (g : Serais → Serais) : (s.mSerais g).cellar = s.cellar := rfl
@[simp] theorem State.mSerais_hearths (g : Serais → Serais) : (s.mSerais g).hearths = s.hearths := rfl
@[simp] theorem State.mSerais_sieves (g : Serais → Serais) : (s.mSerais g).sieves = s.sieves := rfl
@[simp] theorem State.mSerais_depot (g : Serais → Serais) : (s.mSerais g).depot = s.depot := rfl
@[simp] theorem State.mSerais_dampers (g : Serais → Serais) : (s.mSerais g).dampers = s.dampers := rfl
@[simp] theorem State.mSerais_drovers (g : Serais → Serais) : (s.mSerais g).drovers = s.drovers := rfl
@[simp] theorem State.mSerais_power (g : Serais → Serais) : (s.mSerais g).power = s.power := rfl
@[simp] theorem State.mSerais_xlt (g : Serais → Serais) : (s.mSerais g).xlt = s.xlt := rfl
@[simp] theorem State.mSerais_routes (g : Serais → Serais) : (s.mSerais g).routes = s.routes := rfl
@[simp] theorem State.mSerais_flt (g : Serais → Serais) : (s.mSerais g).flt = s.flt := rfl
@[simp] theorem State.mSerais_chm (g : Serais → Serais) : (s.mSerais g).chm = s.chm := rfl
@[simp] theorem State.mSerais_bx (g : Serais → Serais) : (s.mSerais g).bx = s.bx := rfl
@[simp] theorem State.mSerais_mem (g : Serais → Serais) : (s.mSerais g).mem = s.mem := rfl
@[simp] theorem State.mSerais_bus (g : Serais → Serais) : (s.mSerais g).bus = s.bus := rfl

@[simp] theorem State.mCellar_pending (g : Cellar → Cellar) : (s.mCellar g).pending = s.pending := rfl
@[simp] theorem State.mCellar_dev (g : Cellar → Cellar) : (s.mCellar g).dev = s.dev := rfl
@[simp] theorem State.mCellar_time (g : Cellar → Cellar) : (s.mCellar g).time = s.time := rfl
@[simp] theorem State.mCellar_pins (g : Cellar → Cellar) : (s.mCellar g).pins = s.pins := rfl
@[simp] theorem State.mCellar_fuses (g : Cellar → Cellar) : (s.mCellar g).fuses = s.fuses := rfl
@[simp] theorem State.mCellar_img (g : Cellar → Cellar) : (s.mCellar g).img = s.img := rfl
@[simp] theorem State.mCellar_boot (g : Cellar → Cellar) : (s.mCellar g).boot = s.boot := rfl
@[simp] theorem State.mCellar_warden (g : Cellar → Cellar) : (s.mCellar g).warden = s.warden := rfl
@[simp] theorem State.mCellar_tck (g : Cellar → Cellar) : (s.mCellar g).tck = s.tck := rfl
@[simp] theorem State.mCellar_cvn (g : Cellar → Cellar) : (s.mCellar g).cvn = s.cvn := rfl
@[simp] theorem State.mCellar_ldg (g : Cellar → Cellar) : (s.mCellar g).ldg = s.ldg := rfl
@[simp] theorem State.mCellar_stk (g : Cellar → Cellar) : (s.mCellar g).stk = s.stk := rfl
@[simp] theorem State.mCellar_fns (g : Cellar → Cellar) : (s.mCellar g).fns = s.fns := rfl
@[simp] theorem State.mCellar_logs (g : Cellar → Cellar) : (s.mCellar g).logs = s.logs := rfl
@[simp] theorem State.mCellar_tally (g : Cellar → Cellar) : (s.mCellar g).tally = s.tally := rfl
@[simp] theorem State.mCellar_serais (g : Cellar → Cellar) : (s.mCellar g).serais = s.serais := rfl
@[simp] theorem State.mCellar_cellar (g : Cellar → Cellar) : (s.mCellar g).cellar = g s.cellar := rfl
@[simp] theorem State.mCellar_hearths (g : Cellar → Cellar) : (s.mCellar g).hearths = s.hearths := rfl
@[simp] theorem State.mCellar_sieves (g : Cellar → Cellar) : (s.mCellar g).sieves = s.sieves := rfl
@[simp] theorem State.mCellar_depot (g : Cellar → Cellar) : (s.mCellar g).depot = s.depot := rfl
@[simp] theorem State.mCellar_dampers (g : Cellar → Cellar) : (s.mCellar g).dampers = s.dampers := rfl
@[simp] theorem State.mCellar_drovers (g : Cellar → Cellar) : (s.mCellar g).drovers = s.drovers := rfl
@[simp] theorem State.mCellar_power (g : Cellar → Cellar) : (s.mCellar g).power = s.power := rfl
@[simp] theorem State.mCellar_xlt (g : Cellar → Cellar) : (s.mCellar g).xlt = s.xlt := rfl
@[simp] theorem State.mCellar_routes (g : Cellar → Cellar) : (s.mCellar g).routes = s.routes := rfl
@[simp] theorem State.mCellar_flt (g : Cellar → Cellar) : (s.mCellar g).flt = s.flt := rfl
@[simp] theorem State.mCellar_chm (g : Cellar → Cellar) : (s.mCellar g).chm = s.chm := rfl
@[simp] theorem State.mCellar_bx (g : Cellar → Cellar) : (s.mCellar g).bx = s.bx := rfl
@[simp] theorem State.mCellar_mem (g : Cellar → Cellar) : (s.mCellar g).mem = s.mem := rfl
@[simp] theorem State.mCellar_bus (g : Cellar → Cellar) : (s.mCellar g).bus = s.bus := rfl

@[simp] theorem State.mHearths_pending (g : Hearths → Hearths) : (s.mHearths g).pending = s.pending := rfl
@[simp] theorem State.mHearths_dev (g : Hearths → Hearths) : (s.mHearths g).dev = s.dev := rfl
@[simp] theorem State.mHearths_time (g : Hearths → Hearths) : (s.mHearths g).time = s.time := rfl
@[simp] theorem State.mHearths_pins (g : Hearths → Hearths) : (s.mHearths g).pins = s.pins := rfl
@[simp] theorem State.mHearths_fuses (g : Hearths → Hearths) : (s.mHearths g).fuses = s.fuses := rfl
@[simp] theorem State.mHearths_img (g : Hearths → Hearths) : (s.mHearths g).img = s.img := rfl
@[simp] theorem State.mHearths_boot (g : Hearths → Hearths) : (s.mHearths g).boot = s.boot := rfl
@[simp] theorem State.mHearths_warden (g : Hearths → Hearths) : (s.mHearths g).warden = s.warden := rfl
@[simp] theorem State.mHearths_tck (g : Hearths → Hearths) : (s.mHearths g).tck = s.tck := rfl
@[simp] theorem State.mHearths_cvn (g : Hearths → Hearths) : (s.mHearths g).cvn = s.cvn := rfl
@[simp] theorem State.mHearths_ldg (g : Hearths → Hearths) : (s.mHearths g).ldg = s.ldg := rfl
@[simp] theorem State.mHearths_stk (g : Hearths → Hearths) : (s.mHearths g).stk = s.stk := rfl
@[simp] theorem State.mHearths_fns (g : Hearths → Hearths) : (s.mHearths g).fns = s.fns := rfl
@[simp] theorem State.mHearths_logs (g : Hearths → Hearths) : (s.mHearths g).logs = s.logs := rfl
@[simp] theorem State.mHearths_tally (g : Hearths → Hearths) : (s.mHearths g).tally = s.tally := rfl
@[simp] theorem State.mHearths_serais (g : Hearths → Hearths) : (s.mHearths g).serais = s.serais := rfl
@[simp] theorem State.mHearths_cellar (g : Hearths → Hearths) : (s.mHearths g).cellar = s.cellar := rfl
@[simp] theorem State.mHearths_hearths (g : Hearths → Hearths) : (s.mHearths g).hearths = g s.hearths := rfl
@[simp] theorem State.mHearths_sieves (g : Hearths → Hearths) : (s.mHearths g).sieves = s.sieves := rfl
@[simp] theorem State.mHearths_depot (g : Hearths → Hearths) : (s.mHearths g).depot = s.depot := rfl
@[simp] theorem State.mHearths_dampers (g : Hearths → Hearths) : (s.mHearths g).dampers = s.dampers := rfl
@[simp] theorem State.mHearths_drovers (g : Hearths → Hearths) : (s.mHearths g).drovers = s.drovers := rfl
@[simp] theorem State.mHearths_power (g : Hearths → Hearths) : (s.mHearths g).power = s.power := rfl
@[simp] theorem State.mHearths_xlt (g : Hearths → Hearths) : (s.mHearths g).xlt = s.xlt := rfl
@[simp] theorem State.mHearths_routes (g : Hearths → Hearths) : (s.mHearths g).routes = s.routes := rfl
@[simp] theorem State.mHearths_flt (g : Hearths → Hearths) : (s.mHearths g).flt = s.flt := rfl
@[simp] theorem State.mHearths_chm (g : Hearths → Hearths) : (s.mHearths g).chm = s.chm := rfl
@[simp] theorem State.mHearths_bx (g : Hearths → Hearths) : (s.mHearths g).bx = s.bx := rfl
@[simp] theorem State.mHearths_mem (g : Hearths → Hearths) : (s.mHearths g).mem = s.mem := rfl
@[simp] theorem State.mHearths_bus (g : Hearths → Hearths) : (s.mHearths g).bus = s.bus := rfl

@[simp] theorem State.mSieves_pending (g : Sieves → Sieves) : (s.mSieves g).pending = s.pending := rfl
@[simp] theorem State.mSieves_dev (g : Sieves → Sieves) : (s.mSieves g).dev = s.dev := rfl
@[simp] theorem State.mSieves_time (g : Sieves → Sieves) : (s.mSieves g).time = s.time := rfl
@[simp] theorem State.mSieves_pins (g : Sieves → Sieves) : (s.mSieves g).pins = s.pins := rfl
@[simp] theorem State.mSieves_fuses (g : Sieves → Sieves) : (s.mSieves g).fuses = s.fuses := rfl
@[simp] theorem State.mSieves_img (g : Sieves → Sieves) : (s.mSieves g).img = s.img := rfl
@[simp] theorem State.mSieves_boot (g : Sieves → Sieves) : (s.mSieves g).boot = s.boot := rfl
@[simp] theorem State.mSieves_warden (g : Sieves → Sieves) : (s.mSieves g).warden = s.warden := rfl
@[simp] theorem State.mSieves_tck (g : Sieves → Sieves) : (s.mSieves g).tck = s.tck := rfl
@[simp] theorem State.mSieves_cvn (g : Sieves → Sieves) : (s.mSieves g).cvn = s.cvn := rfl
@[simp] theorem State.mSieves_ldg (g : Sieves → Sieves) : (s.mSieves g).ldg = s.ldg := rfl
@[simp] theorem State.mSieves_stk (g : Sieves → Sieves) : (s.mSieves g).stk = s.stk := rfl
@[simp] theorem State.mSieves_fns (g : Sieves → Sieves) : (s.mSieves g).fns = s.fns := rfl
@[simp] theorem State.mSieves_logs (g : Sieves → Sieves) : (s.mSieves g).logs = s.logs := rfl
@[simp] theorem State.mSieves_tally (g : Sieves → Sieves) : (s.mSieves g).tally = s.tally := rfl
@[simp] theorem State.mSieves_serais (g : Sieves → Sieves) : (s.mSieves g).serais = s.serais := rfl
@[simp] theorem State.mSieves_cellar (g : Sieves → Sieves) : (s.mSieves g).cellar = s.cellar := rfl
@[simp] theorem State.mSieves_hearths (g : Sieves → Sieves) : (s.mSieves g).hearths = s.hearths := rfl
@[simp] theorem State.mSieves_sieves (g : Sieves → Sieves) : (s.mSieves g).sieves = g s.sieves := rfl
@[simp] theorem State.mSieves_depot (g : Sieves → Sieves) : (s.mSieves g).depot = s.depot := rfl
@[simp] theorem State.mSieves_dampers (g : Sieves → Sieves) : (s.mSieves g).dampers = s.dampers := rfl
@[simp] theorem State.mSieves_drovers (g : Sieves → Sieves) : (s.mSieves g).drovers = s.drovers := rfl
@[simp] theorem State.mSieves_power (g : Sieves → Sieves) : (s.mSieves g).power = s.power := rfl
@[simp] theorem State.mSieves_xlt (g : Sieves → Sieves) : (s.mSieves g).xlt = s.xlt := rfl
@[simp] theorem State.mSieves_routes (g : Sieves → Sieves) : (s.mSieves g).routes = s.routes := rfl
@[simp] theorem State.mSieves_flt (g : Sieves → Sieves) : (s.mSieves g).flt = s.flt := rfl
@[simp] theorem State.mSieves_chm (g : Sieves → Sieves) : (s.mSieves g).chm = s.chm := rfl
@[simp] theorem State.mSieves_bx (g : Sieves → Sieves) : (s.mSieves g).bx = s.bx := rfl
@[simp] theorem State.mSieves_mem (g : Sieves → Sieves) : (s.mSieves g).mem = s.mem := rfl
@[simp] theorem State.mSieves_bus (g : Sieves → Sieves) : (s.mSieves g).bus = s.bus := rfl

@[simp] theorem State.mDepot_pending (g : Depot → Depot) : (s.mDepot g).pending = s.pending := rfl
@[simp] theorem State.mDepot_dev (g : Depot → Depot) : (s.mDepot g).dev = s.dev := rfl
@[simp] theorem State.mDepot_time (g : Depot → Depot) : (s.mDepot g).time = s.time := rfl
@[simp] theorem State.mDepot_pins (g : Depot → Depot) : (s.mDepot g).pins = s.pins := rfl
@[simp] theorem State.mDepot_fuses (g : Depot → Depot) : (s.mDepot g).fuses = s.fuses := rfl
@[simp] theorem State.mDepot_img (g : Depot → Depot) : (s.mDepot g).img = s.img := rfl
@[simp] theorem State.mDepot_boot (g : Depot → Depot) : (s.mDepot g).boot = s.boot := rfl
@[simp] theorem State.mDepot_warden (g : Depot → Depot) : (s.mDepot g).warden = s.warden := rfl
@[simp] theorem State.mDepot_tck (g : Depot → Depot) : (s.mDepot g).tck = s.tck := rfl
@[simp] theorem State.mDepot_cvn (g : Depot → Depot) : (s.mDepot g).cvn = s.cvn := rfl
@[simp] theorem State.mDepot_ldg (g : Depot → Depot) : (s.mDepot g).ldg = s.ldg := rfl
@[simp] theorem State.mDepot_stk (g : Depot → Depot) : (s.mDepot g).stk = s.stk := rfl
@[simp] theorem State.mDepot_fns (g : Depot → Depot) : (s.mDepot g).fns = s.fns := rfl
@[simp] theorem State.mDepot_logs (g : Depot → Depot) : (s.mDepot g).logs = s.logs := rfl
@[simp] theorem State.mDepot_tally (g : Depot → Depot) : (s.mDepot g).tally = s.tally := rfl
@[simp] theorem State.mDepot_serais (g : Depot → Depot) : (s.mDepot g).serais = s.serais := rfl
@[simp] theorem State.mDepot_cellar (g : Depot → Depot) : (s.mDepot g).cellar = s.cellar := rfl
@[simp] theorem State.mDepot_hearths (g : Depot → Depot) : (s.mDepot g).hearths = s.hearths := rfl
@[simp] theorem State.mDepot_sieves (g : Depot → Depot) : (s.mDepot g).sieves = s.sieves := rfl
@[simp] theorem State.mDepot_depot (g : Depot → Depot) : (s.mDepot g).depot = g s.depot := rfl
@[simp] theorem State.mDepot_dampers (g : Depot → Depot) : (s.mDepot g).dampers = s.dampers := rfl
@[simp] theorem State.mDepot_drovers (g : Depot → Depot) : (s.mDepot g).drovers = s.drovers := rfl
@[simp] theorem State.mDepot_power (g : Depot → Depot) : (s.mDepot g).power = s.power := rfl
@[simp] theorem State.mDepot_xlt (g : Depot → Depot) : (s.mDepot g).xlt = s.xlt := rfl
@[simp] theorem State.mDepot_routes (g : Depot → Depot) : (s.mDepot g).routes = s.routes := rfl
@[simp] theorem State.mDepot_flt (g : Depot → Depot) : (s.mDepot g).flt = s.flt := rfl
@[simp] theorem State.mDepot_chm (g : Depot → Depot) : (s.mDepot g).chm = s.chm := rfl
@[simp] theorem State.mDepot_bx (g : Depot → Depot) : (s.mDepot g).bx = s.bx := rfl
@[simp] theorem State.mDepot_mem (g : Depot → Depot) : (s.mDepot g).mem = s.mem := rfl
@[simp] theorem State.mDepot_bus (g : Depot → Depot) : (s.mDepot g).bus = s.bus := rfl

@[simp] theorem State.mDampers_pending (g : Dampers → Dampers) : (s.mDampers g).pending = s.pending := rfl
@[simp] theorem State.mDampers_dev (g : Dampers → Dampers) : (s.mDampers g).dev = s.dev := rfl
@[simp] theorem State.mDampers_time (g : Dampers → Dampers) : (s.mDampers g).time = s.time := rfl
@[simp] theorem State.mDampers_pins (g : Dampers → Dampers) : (s.mDampers g).pins = s.pins := rfl
@[simp] theorem State.mDampers_fuses (g : Dampers → Dampers) : (s.mDampers g).fuses = s.fuses := rfl
@[simp] theorem State.mDampers_img (g : Dampers → Dampers) : (s.mDampers g).img = s.img := rfl
@[simp] theorem State.mDampers_boot (g : Dampers → Dampers) : (s.mDampers g).boot = s.boot := rfl
@[simp] theorem State.mDampers_warden (g : Dampers → Dampers) : (s.mDampers g).warden = s.warden := rfl
@[simp] theorem State.mDampers_tck (g : Dampers → Dampers) : (s.mDampers g).tck = s.tck := rfl
@[simp] theorem State.mDampers_cvn (g : Dampers → Dampers) : (s.mDampers g).cvn = s.cvn := rfl
@[simp] theorem State.mDampers_ldg (g : Dampers → Dampers) : (s.mDampers g).ldg = s.ldg := rfl
@[simp] theorem State.mDampers_stk (g : Dampers → Dampers) : (s.mDampers g).stk = s.stk := rfl
@[simp] theorem State.mDampers_fns (g : Dampers → Dampers) : (s.mDampers g).fns = s.fns := rfl
@[simp] theorem State.mDampers_logs (g : Dampers → Dampers) : (s.mDampers g).logs = s.logs := rfl
@[simp] theorem State.mDampers_tally (g : Dampers → Dampers) : (s.mDampers g).tally = s.tally := rfl
@[simp] theorem State.mDampers_serais (g : Dampers → Dampers) : (s.mDampers g).serais = s.serais := rfl
@[simp] theorem State.mDampers_cellar (g : Dampers → Dampers) : (s.mDampers g).cellar = s.cellar := rfl
@[simp] theorem State.mDampers_hearths (g : Dampers → Dampers) : (s.mDampers g).hearths = s.hearths := rfl
@[simp] theorem State.mDampers_sieves (g : Dampers → Dampers) : (s.mDampers g).sieves = s.sieves := rfl
@[simp] theorem State.mDampers_depot (g : Dampers → Dampers) : (s.mDampers g).depot = s.depot := rfl
@[simp] theorem State.mDampers_dampers (g : Dampers → Dampers) : (s.mDampers g).dampers = g s.dampers := rfl
@[simp] theorem State.mDampers_drovers (g : Dampers → Dampers) : (s.mDampers g).drovers = s.drovers := rfl
@[simp] theorem State.mDampers_power (g : Dampers → Dampers) : (s.mDampers g).power = s.power := rfl
@[simp] theorem State.mDampers_xlt (g : Dampers → Dampers) : (s.mDampers g).xlt = s.xlt := rfl
@[simp] theorem State.mDampers_routes (g : Dampers → Dampers) : (s.mDampers g).routes = s.routes := rfl
@[simp] theorem State.mDampers_flt (g : Dampers → Dampers) : (s.mDampers g).flt = s.flt := rfl
@[simp] theorem State.mDampers_chm (g : Dampers → Dampers) : (s.mDampers g).chm = s.chm := rfl
@[simp] theorem State.mDampers_bx (g : Dampers → Dampers) : (s.mDampers g).bx = s.bx := rfl
@[simp] theorem State.mDampers_mem (g : Dampers → Dampers) : (s.mDampers g).mem = s.mem := rfl
@[simp] theorem State.mDampers_bus (g : Dampers → Dampers) : (s.mDampers g).bus = s.bus := rfl

@[simp] theorem State.mDrovers_pending (g : Drovers → Drovers) : (s.mDrovers g).pending = s.pending := rfl
@[simp] theorem State.mDrovers_dev (g : Drovers → Drovers) : (s.mDrovers g).dev = s.dev := rfl
@[simp] theorem State.mDrovers_time (g : Drovers → Drovers) : (s.mDrovers g).time = s.time := rfl
@[simp] theorem State.mDrovers_pins (g : Drovers → Drovers) : (s.mDrovers g).pins = s.pins := rfl
@[simp] theorem State.mDrovers_fuses (g : Drovers → Drovers) : (s.mDrovers g).fuses = s.fuses := rfl
@[simp] theorem State.mDrovers_img (g : Drovers → Drovers) : (s.mDrovers g).img = s.img := rfl
@[simp] theorem State.mDrovers_boot (g : Drovers → Drovers) : (s.mDrovers g).boot = s.boot := rfl
@[simp] theorem State.mDrovers_warden (g : Drovers → Drovers) : (s.mDrovers g).warden = s.warden := rfl
@[simp] theorem State.mDrovers_tck (g : Drovers → Drovers) : (s.mDrovers g).tck = s.tck := rfl
@[simp] theorem State.mDrovers_cvn (g : Drovers → Drovers) : (s.mDrovers g).cvn = s.cvn := rfl
@[simp] theorem State.mDrovers_ldg (g : Drovers → Drovers) : (s.mDrovers g).ldg = s.ldg := rfl
@[simp] theorem State.mDrovers_stk (g : Drovers → Drovers) : (s.mDrovers g).stk = s.stk := rfl
@[simp] theorem State.mDrovers_fns (g : Drovers → Drovers) : (s.mDrovers g).fns = s.fns := rfl
@[simp] theorem State.mDrovers_logs (g : Drovers → Drovers) : (s.mDrovers g).logs = s.logs := rfl
@[simp] theorem State.mDrovers_tally (g : Drovers → Drovers) : (s.mDrovers g).tally = s.tally := rfl
@[simp] theorem State.mDrovers_serais (g : Drovers → Drovers) : (s.mDrovers g).serais = s.serais := rfl
@[simp] theorem State.mDrovers_cellar (g : Drovers → Drovers) : (s.mDrovers g).cellar = s.cellar := rfl
@[simp] theorem State.mDrovers_hearths (g : Drovers → Drovers) : (s.mDrovers g).hearths = s.hearths := rfl
@[simp] theorem State.mDrovers_sieves (g : Drovers → Drovers) : (s.mDrovers g).sieves = s.sieves := rfl
@[simp] theorem State.mDrovers_depot (g : Drovers → Drovers) : (s.mDrovers g).depot = s.depot := rfl
@[simp] theorem State.mDrovers_dampers (g : Drovers → Drovers) : (s.mDrovers g).dampers = s.dampers := rfl
@[simp] theorem State.mDrovers_drovers (g : Drovers → Drovers) : (s.mDrovers g).drovers = g s.drovers := rfl
@[simp] theorem State.mDrovers_power (g : Drovers → Drovers) : (s.mDrovers g).power = s.power := rfl
@[simp] theorem State.mDrovers_xlt (g : Drovers → Drovers) : (s.mDrovers g).xlt = s.xlt := rfl
@[simp] theorem State.mDrovers_routes (g : Drovers → Drovers) : (s.mDrovers g).routes = s.routes := rfl
@[simp] theorem State.mDrovers_flt (g : Drovers → Drovers) : (s.mDrovers g).flt = s.flt := rfl
@[simp] theorem State.mDrovers_chm (g : Drovers → Drovers) : (s.mDrovers g).chm = s.chm := rfl
@[simp] theorem State.mDrovers_bx (g : Drovers → Drovers) : (s.mDrovers g).bx = s.bx := rfl
@[simp] theorem State.mDrovers_mem (g : Drovers → Drovers) : (s.mDrovers g).mem = s.mem := rfl
@[simp] theorem State.mDrovers_bus (g : Drovers → Drovers) : (s.mDrovers g).bus = s.bus := rfl

@[simp] theorem State.mPower_pending (g : Power → Power) : (s.mPower g).pending = s.pending := rfl
@[simp] theorem State.mPower_dev (g : Power → Power) : (s.mPower g).dev = s.dev := rfl
@[simp] theorem State.mPower_time (g : Power → Power) : (s.mPower g).time = s.time := rfl
@[simp] theorem State.mPower_pins (g : Power → Power) : (s.mPower g).pins = s.pins := rfl
@[simp] theorem State.mPower_fuses (g : Power → Power) : (s.mPower g).fuses = s.fuses := rfl
@[simp] theorem State.mPower_img (g : Power → Power) : (s.mPower g).img = s.img := rfl
@[simp] theorem State.mPower_boot (g : Power → Power) : (s.mPower g).boot = s.boot := rfl
@[simp] theorem State.mPower_warden (g : Power → Power) : (s.mPower g).warden = s.warden := rfl
@[simp] theorem State.mPower_tck (g : Power → Power) : (s.mPower g).tck = s.tck := rfl
@[simp] theorem State.mPower_cvn (g : Power → Power) : (s.mPower g).cvn = s.cvn := rfl
@[simp] theorem State.mPower_ldg (g : Power → Power) : (s.mPower g).ldg = s.ldg := rfl
@[simp] theorem State.mPower_stk (g : Power → Power) : (s.mPower g).stk = s.stk := rfl
@[simp] theorem State.mPower_fns (g : Power → Power) : (s.mPower g).fns = s.fns := rfl
@[simp] theorem State.mPower_logs (g : Power → Power) : (s.mPower g).logs = s.logs := rfl
@[simp] theorem State.mPower_tally (g : Power → Power) : (s.mPower g).tally = s.tally := rfl
@[simp] theorem State.mPower_serais (g : Power → Power) : (s.mPower g).serais = s.serais := rfl
@[simp] theorem State.mPower_cellar (g : Power → Power) : (s.mPower g).cellar = s.cellar := rfl
@[simp] theorem State.mPower_hearths (g : Power → Power) : (s.mPower g).hearths = s.hearths := rfl
@[simp] theorem State.mPower_sieves (g : Power → Power) : (s.mPower g).sieves = s.sieves := rfl
@[simp] theorem State.mPower_depot (g : Power → Power) : (s.mPower g).depot = s.depot := rfl
@[simp] theorem State.mPower_dampers (g : Power → Power) : (s.mPower g).dampers = s.dampers := rfl
@[simp] theorem State.mPower_drovers (g : Power → Power) : (s.mPower g).drovers = s.drovers := rfl
@[simp] theorem State.mPower_power (g : Power → Power) : (s.mPower g).power = g s.power := rfl
@[simp] theorem State.mPower_xlt (g : Power → Power) : (s.mPower g).xlt = s.xlt := rfl
@[simp] theorem State.mPower_routes (g : Power → Power) : (s.mPower g).routes = s.routes := rfl
@[simp] theorem State.mPower_flt (g : Power → Power) : (s.mPower g).flt = s.flt := rfl
@[simp] theorem State.mPower_chm (g : Power → Power) : (s.mPower g).chm = s.chm := rfl
@[simp] theorem State.mPower_bx (g : Power → Power) : (s.mPower g).bx = s.bx := rfl
@[simp] theorem State.mPower_mem (g : Power → Power) : (s.mPower g).mem = s.mem := rfl
@[simp] theorem State.mPower_bus (g : Power → Power) : (s.mPower g).bus = s.bus := rfl

@[simp] theorem State.mXlt_pending (g : Xlt → Xlt) : (s.mXlt g).pending = s.pending := rfl
@[simp] theorem State.mXlt_dev (g : Xlt → Xlt) : (s.mXlt g).dev = s.dev := rfl
@[simp] theorem State.mXlt_time (g : Xlt → Xlt) : (s.mXlt g).time = s.time := rfl
@[simp] theorem State.mXlt_pins (g : Xlt → Xlt) : (s.mXlt g).pins = s.pins := rfl
@[simp] theorem State.mXlt_fuses (g : Xlt → Xlt) : (s.mXlt g).fuses = s.fuses := rfl
@[simp] theorem State.mXlt_img (g : Xlt → Xlt) : (s.mXlt g).img = s.img := rfl
@[simp] theorem State.mXlt_boot (g : Xlt → Xlt) : (s.mXlt g).boot = s.boot := rfl
@[simp] theorem State.mXlt_warden (g : Xlt → Xlt) : (s.mXlt g).warden = s.warden := rfl
@[simp] theorem State.mXlt_tck (g : Xlt → Xlt) : (s.mXlt g).tck = s.tck := rfl
@[simp] theorem State.mXlt_cvn (g : Xlt → Xlt) : (s.mXlt g).cvn = s.cvn := rfl
@[simp] theorem State.mXlt_ldg (g : Xlt → Xlt) : (s.mXlt g).ldg = s.ldg := rfl
@[simp] theorem State.mXlt_stk (g : Xlt → Xlt) : (s.mXlt g).stk = s.stk := rfl
@[simp] theorem State.mXlt_fns (g : Xlt → Xlt) : (s.mXlt g).fns = s.fns := rfl
@[simp] theorem State.mXlt_logs (g : Xlt → Xlt) : (s.mXlt g).logs = s.logs := rfl
@[simp] theorem State.mXlt_tally (g : Xlt → Xlt) : (s.mXlt g).tally = s.tally := rfl
@[simp] theorem State.mXlt_serais (g : Xlt → Xlt) : (s.mXlt g).serais = s.serais := rfl
@[simp] theorem State.mXlt_cellar (g : Xlt → Xlt) : (s.mXlt g).cellar = s.cellar := rfl
@[simp] theorem State.mXlt_hearths (g : Xlt → Xlt) : (s.mXlt g).hearths = s.hearths := rfl
@[simp] theorem State.mXlt_sieves (g : Xlt → Xlt) : (s.mXlt g).sieves = s.sieves := rfl
@[simp] theorem State.mXlt_depot (g : Xlt → Xlt) : (s.mXlt g).depot = s.depot := rfl
@[simp] theorem State.mXlt_dampers (g : Xlt → Xlt) : (s.mXlt g).dampers = s.dampers := rfl
@[simp] theorem State.mXlt_drovers (g : Xlt → Xlt) : (s.mXlt g).drovers = s.drovers := rfl
@[simp] theorem State.mXlt_power (g : Xlt → Xlt) : (s.mXlt g).power = s.power := rfl
@[simp] theorem State.mXlt_xlt (g : Xlt → Xlt) : (s.mXlt g).xlt = g s.xlt := rfl
@[simp] theorem State.mXlt_routes (g : Xlt → Xlt) : (s.mXlt g).routes = s.routes := rfl
@[simp] theorem State.mXlt_flt (g : Xlt → Xlt) : (s.mXlt g).flt = s.flt := rfl
@[simp] theorem State.mXlt_chm (g : Xlt → Xlt) : (s.mXlt g).chm = s.chm := rfl
@[simp] theorem State.mXlt_bx (g : Xlt → Xlt) : (s.mXlt g).bx = s.bx := rfl
@[simp] theorem State.mXlt_mem (g : Xlt → Xlt) : (s.mXlt g).mem = s.mem := rfl
@[simp] theorem State.mXlt_bus (g : Xlt → Xlt) : (s.mXlt g).bus = s.bus := rfl

@[simp] theorem State.mRoutes_pending (g : Routes → Routes) : (s.mRoutes g).pending = s.pending := rfl
@[simp] theorem State.mRoutes_dev (g : Routes → Routes) : (s.mRoutes g).dev = s.dev := rfl
@[simp] theorem State.mRoutes_time (g : Routes → Routes) : (s.mRoutes g).time = s.time := rfl
@[simp] theorem State.mRoutes_pins (g : Routes → Routes) : (s.mRoutes g).pins = s.pins := rfl
@[simp] theorem State.mRoutes_fuses (g : Routes → Routes) : (s.mRoutes g).fuses = s.fuses := rfl
@[simp] theorem State.mRoutes_img (g : Routes → Routes) : (s.mRoutes g).img = s.img := rfl
@[simp] theorem State.mRoutes_boot (g : Routes → Routes) : (s.mRoutes g).boot = s.boot := rfl
@[simp] theorem State.mRoutes_warden (g : Routes → Routes) : (s.mRoutes g).warden = s.warden := rfl
@[simp] theorem State.mRoutes_tck (g : Routes → Routes) : (s.mRoutes g).tck = s.tck := rfl
@[simp] theorem State.mRoutes_cvn (g : Routes → Routes) : (s.mRoutes g).cvn = s.cvn := rfl
@[simp] theorem State.mRoutes_ldg (g : Routes → Routes) : (s.mRoutes g).ldg = s.ldg := rfl
@[simp] theorem State.mRoutes_stk (g : Routes → Routes) : (s.mRoutes g).stk = s.stk := rfl
@[simp] theorem State.mRoutes_fns (g : Routes → Routes) : (s.mRoutes g).fns = s.fns := rfl
@[simp] theorem State.mRoutes_logs (g : Routes → Routes) : (s.mRoutes g).logs = s.logs := rfl
@[simp] theorem State.mRoutes_tally (g : Routes → Routes) : (s.mRoutes g).tally = s.tally := rfl
@[simp] theorem State.mRoutes_serais (g : Routes → Routes) : (s.mRoutes g).serais = s.serais := rfl
@[simp] theorem State.mRoutes_cellar (g : Routes → Routes) : (s.mRoutes g).cellar = s.cellar := rfl
@[simp] theorem State.mRoutes_hearths (g : Routes → Routes) : (s.mRoutes g).hearths = s.hearths := rfl
@[simp] theorem State.mRoutes_sieves (g : Routes → Routes) : (s.mRoutes g).sieves = s.sieves := rfl
@[simp] theorem State.mRoutes_depot (g : Routes → Routes) : (s.mRoutes g).depot = s.depot := rfl
@[simp] theorem State.mRoutes_dampers (g : Routes → Routes) : (s.mRoutes g).dampers = s.dampers := rfl
@[simp] theorem State.mRoutes_drovers (g : Routes → Routes) : (s.mRoutes g).drovers = s.drovers := rfl
@[simp] theorem State.mRoutes_power (g : Routes → Routes) : (s.mRoutes g).power = s.power := rfl
@[simp] theorem State.mRoutes_xlt (g : Routes → Routes) : (s.mRoutes g).xlt = s.xlt := rfl
@[simp] theorem State.mRoutes_routes (g : Routes → Routes) : (s.mRoutes g).routes = g s.routes := rfl
@[simp] theorem State.mRoutes_flt (g : Routes → Routes) : (s.mRoutes g).flt = s.flt := rfl
@[simp] theorem State.mRoutes_chm (g : Routes → Routes) : (s.mRoutes g).chm = s.chm := rfl
@[simp] theorem State.mRoutes_bx (g : Routes → Routes) : (s.mRoutes g).bx = s.bx := rfl
@[simp] theorem State.mRoutes_mem (g : Routes → Routes) : (s.mRoutes g).mem = s.mem := rfl
@[simp] theorem State.mRoutes_bus (g : Routes → Routes) : (s.mRoutes g).bus = s.bus := rfl

@[simp] theorem State.mFlt_pending (g : Faults → Faults) : (s.mFlt g).pending = s.pending := rfl
@[simp] theorem State.mFlt_dev (g : Faults → Faults) : (s.mFlt g).dev = s.dev := rfl
@[simp] theorem State.mFlt_time (g : Faults → Faults) : (s.mFlt g).time = s.time := rfl
@[simp] theorem State.mFlt_pins (g : Faults → Faults) : (s.mFlt g).pins = s.pins := rfl
@[simp] theorem State.mFlt_fuses (g : Faults → Faults) : (s.mFlt g).fuses = s.fuses := rfl
@[simp] theorem State.mFlt_img (g : Faults → Faults) : (s.mFlt g).img = s.img := rfl
@[simp] theorem State.mFlt_boot (g : Faults → Faults) : (s.mFlt g).boot = s.boot := rfl
@[simp] theorem State.mFlt_warden (g : Faults → Faults) : (s.mFlt g).warden = s.warden := rfl
@[simp] theorem State.mFlt_tck (g : Faults → Faults) : (s.mFlt g).tck = s.tck := rfl
@[simp] theorem State.mFlt_cvn (g : Faults → Faults) : (s.mFlt g).cvn = s.cvn := rfl
@[simp] theorem State.mFlt_ldg (g : Faults → Faults) : (s.mFlt g).ldg = s.ldg := rfl
@[simp] theorem State.mFlt_stk (g : Faults → Faults) : (s.mFlt g).stk = s.stk := rfl
@[simp] theorem State.mFlt_fns (g : Faults → Faults) : (s.mFlt g).fns = s.fns := rfl
@[simp] theorem State.mFlt_logs (g : Faults → Faults) : (s.mFlt g).logs = s.logs := rfl
@[simp] theorem State.mFlt_tally (g : Faults → Faults) : (s.mFlt g).tally = s.tally := rfl
@[simp] theorem State.mFlt_serais (g : Faults → Faults) : (s.mFlt g).serais = s.serais := rfl
@[simp] theorem State.mFlt_cellar (g : Faults → Faults) : (s.mFlt g).cellar = s.cellar := rfl
@[simp] theorem State.mFlt_hearths (g : Faults → Faults) : (s.mFlt g).hearths = s.hearths := rfl
@[simp] theorem State.mFlt_sieves (g : Faults → Faults) : (s.mFlt g).sieves = s.sieves := rfl
@[simp] theorem State.mFlt_depot (g : Faults → Faults) : (s.mFlt g).depot = s.depot := rfl
@[simp] theorem State.mFlt_dampers (g : Faults → Faults) : (s.mFlt g).dampers = s.dampers := rfl
@[simp] theorem State.mFlt_drovers (g : Faults → Faults) : (s.mFlt g).drovers = s.drovers := rfl
@[simp] theorem State.mFlt_power (g : Faults → Faults) : (s.mFlt g).power = s.power := rfl
@[simp] theorem State.mFlt_xlt (g : Faults → Faults) : (s.mFlt g).xlt = s.xlt := rfl
@[simp] theorem State.mFlt_routes (g : Faults → Faults) : (s.mFlt g).routes = s.routes := rfl
@[simp] theorem State.mFlt_flt (g : Faults → Faults) : (s.mFlt g).flt = g s.flt := rfl
@[simp] theorem State.mFlt_chm (g : Faults → Faults) : (s.mFlt g).chm = s.chm := rfl
@[simp] theorem State.mFlt_bx (g : Faults → Faults) : (s.mFlt g).bx = s.bx := rfl
@[simp] theorem State.mFlt_mem (g : Faults → Faults) : (s.mFlt g).mem = s.mem := rfl
@[simp] theorem State.mFlt_bus (g : Faults → Faults) : (s.mFlt g).bus = s.bus := rfl

@[simp] theorem State.mChm_pending (g : Chimney → Chimney) : (s.mChm g).pending = s.pending := rfl
@[simp] theorem State.mChm_dev (g : Chimney → Chimney) : (s.mChm g).dev = s.dev := rfl
@[simp] theorem State.mChm_time (g : Chimney → Chimney) : (s.mChm g).time = s.time := rfl
@[simp] theorem State.mChm_pins (g : Chimney → Chimney) : (s.mChm g).pins = s.pins := rfl
@[simp] theorem State.mChm_fuses (g : Chimney → Chimney) : (s.mChm g).fuses = s.fuses := rfl
@[simp] theorem State.mChm_img (g : Chimney → Chimney) : (s.mChm g).img = s.img := rfl
@[simp] theorem State.mChm_boot (g : Chimney → Chimney) : (s.mChm g).boot = s.boot := rfl
@[simp] theorem State.mChm_warden (g : Chimney → Chimney) : (s.mChm g).warden = s.warden := rfl
@[simp] theorem State.mChm_tck (g : Chimney → Chimney) : (s.mChm g).tck = s.tck := rfl
@[simp] theorem State.mChm_cvn (g : Chimney → Chimney) : (s.mChm g).cvn = s.cvn := rfl
@[simp] theorem State.mChm_ldg (g : Chimney → Chimney) : (s.mChm g).ldg = s.ldg := rfl
@[simp] theorem State.mChm_stk (g : Chimney → Chimney) : (s.mChm g).stk = s.stk := rfl
@[simp] theorem State.mChm_fns (g : Chimney → Chimney) : (s.mChm g).fns = s.fns := rfl
@[simp] theorem State.mChm_logs (g : Chimney → Chimney) : (s.mChm g).logs = s.logs := rfl
@[simp] theorem State.mChm_tally (g : Chimney → Chimney) : (s.mChm g).tally = s.tally := rfl
@[simp] theorem State.mChm_serais (g : Chimney → Chimney) : (s.mChm g).serais = s.serais := rfl
@[simp] theorem State.mChm_cellar (g : Chimney → Chimney) : (s.mChm g).cellar = s.cellar := rfl
@[simp] theorem State.mChm_hearths (g : Chimney → Chimney) : (s.mChm g).hearths = s.hearths := rfl
@[simp] theorem State.mChm_sieves (g : Chimney → Chimney) : (s.mChm g).sieves = s.sieves := rfl
@[simp] theorem State.mChm_depot (g : Chimney → Chimney) : (s.mChm g).depot = s.depot := rfl
@[simp] theorem State.mChm_dampers (g : Chimney → Chimney) : (s.mChm g).dampers = s.dampers := rfl
@[simp] theorem State.mChm_drovers (g : Chimney → Chimney) : (s.mChm g).drovers = s.drovers := rfl
@[simp] theorem State.mChm_power (g : Chimney → Chimney) : (s.mChm g).power = s.power := rfl
@[simp] theorem State.mChm_xlt (g : Chimney → Chimney) : (s.mChm g).xlt = s.xlt := rfl
@[simp] theorem State.mChm_routes (g : Chimney → Chimney) : (s.mChm g).routes = s.routes := rfl
@[simp] theorem State.mChm_flt (g : Chimney → Chimney) : (s.mChm g).flt = s.flt := rfl
@[simp] theorem State.mChm_chm (g : Chimney → Chimney) : (s.mChm g).chm = g s.chm := rfl
@[simp] theorem State.mChm_bx (g : Chimney → Chimney) : (s.mChm g).bx = s.bx := rfl
@[simp] theorem State.mChm_mem (g : Chimney → Chimney) : (s.mChm g).mem = s.mem := rfl
@[simp] theorem State.mChm_bus (g : Chimney → Chimney) : (s.mChm g).bus = s.bus := rfl

@[simp] theorem State.mBx_pending (g : Bx → Bx) : (s.mBx g).pending = s.pending := rfl
@[simp] theorem State.mBx_dev (g : Bx → Bx) : (s.mBx g).dev = s.dev := rfl
@[simp] theorem State.mBx_time (g : Bx → Bx) : (s.mBx g).time = s.time := rfl
@[simp] theorem State.mBx_pins (g : Bx → Bx) : (s.mBx g).pins = s.pins := rfl
@[simp] theorem State.mBx_fuses (g : Bx → Bx) : (s.mBx g).fuses = s.fuses := rfl
@[simp] theorem State.mBx_img (g : Bx → Bx) : (s.mBx g).img = s.img := rfl
@[simp] theorem State.mBx_boot (g : Bx → Bx) : (s.mBx g).boot = s.boot := rfl
@[simp] theorem State.mBx_warden (g : Bx → Bx) : (s.mBx g).warden = s.warden := rfl
@[simp] theorem State.mBx_tck (g : Bx → Bx) : (s.mBx g).tck = s.tck := rfl
@[simp] theorem State.mBx_cvn (g : Bx → Bx) : (s.mBx g).cvn = s.cvn := rfl
@[simp] theorem State.mBx_ldg (g : Bx → Bx) : (s.mBx g).ldg = s.ldg := rfl
@[simp] theorem State.mBx_stk (g : Bx → Bx) : (s.mBx g).stk = s.stk := rfl
@[simp] theorem State.mBx_fns (g : Bx → Bx) : (s.mBx g).fns = s.fns := rfl
@[simp] theorem State.mBx_logs (g : Bx → Bx) : (s.mBx g).logs = s.logs := rfl
@[simp] theorem State.mBx_tally (g : Bx → Bx) : (s.mBx g).tally = s.tally := rfl
@[simp] theorem State.mBx_serais (g : Bx → Bx) : (s.mBx g).serais = s.serais := rfl
@[simp] theorem State.mBx_cellar (g : Bx → Bx) : (s.mBx g).cellar = s.cellar := rfl
@[simp] theorem State.mBx_hearths (g : Bx → Bx) : (s.mBx g).hearths = s.hearths := rfl
@[simp] theorem State.mBx_sieves (g : Bx → Bx) : (s.mBx g).sieves = s.sieves := rfl
@[simp] theorem State.mBx_depot (g : Bx → Bx) : (s.mBx g).depot = s.depot := rfl
@[simp] theorem State.mBx_dampers (g : Bx → Bx) : (s.mBx g).dampers = s.dampers := rfl
@[simp] theorem State.mBx_drovers (g : Bx → Bx) : (s.mBx g).drovers = s.drovers := rfl
@[simp] theorem State.mBx_power (g : Bx → Bx) : (s.mBx g).power = s.power := rfl
@[simp] theorem State.mBx_xlt (g : Bx → Bx) : (s.mBx g).xlt = s.xlt := rfl
@[simp] theorem State.mBx_routes (g : Bx → Bx) : (s.mBx g).routes = s.routes := rfl
@[simp] theorem State.mBx_flt (g : Bx → Bx) : (s.mBx g).flt = s.flt := rfl
@[simp] theorem State.mBx_chm (g : Bx → Bx) : (s.mBx g).chm = s.chm := rfl
@[simp] theorem State.mBx_bx (g : Bx → Bx) : (s.mBx g).bx = g s.bx := rfl
@[simp] theorem State.mBx_mem (g : Bx → Bx) : (s.mBx g).mem = s.mem := rfl
@[simp] theorem State.mBx_bus (g : Bx → Bx) : (s.mBx g).bus = s.bus := rfl

@[simp] theorem State.mMem_pending (g : Mem → Mem) : (s.mMem g).pending = s.pending := rfl
@[simp] theorem State.mMem_dev (g : Mem → Mem) : (s.mMem g).dev = s.dev := rfl
@[simp] theorem State.mMem_time (g : Mem → Mem) : (s.mMem g).time = s.time := rfl
@[simp] theorem State.mMem_pins (g : Mem → Mem) : (s.mMem g).pins = s.pins := rfl
@[simp] theorem State.mMem_fuses (g : Mem → Mem) : (s.mMem g).fuses = s.fuses := rfl
@[simp] theorem State.mMem_img (g : Mem → Mem) : (s.mMem g).img = s.img := rfl
@[simp] theorem State.mMem_boot (g : Mem → Mem) : (s.mMem g).boot = s.boot := rfl
@[simp] theorem State.mMem_warden (g : Mem → Mem) : (s.mMem g).warden = s.warden := rfl
@[simp] theorem State.mMem_tck (g : Mem → Mem) : (s.mMem g).tck = s.tck := rfl
@[simp] theorem State.mMem_cvn (g : Mem → Mem) : (s.mMem g).cvn = s.cvn := rfl
@[simp] theorem State.mMem_ldg (g : Mem → Mem) : (s.mMem g).ldg = s.ldg := rfl
@[simp] theorem State.mMem_stk (g : Mem → Mem) : (s.mMem g).stk = s.stk := rfl
@[simp] theorem State.mMem_fns (g : Mem → Mem) : (s.mMem g).fns = s.fns := rfl
@[simp] theorem State.mMem_logs (g : Mem → Mem) : (s.mMem g).logs = s.logs := rfl
@[simp] theorem State.mMem_tally (g : Mem → Mem) : (s.mMem g).tally = s.tally := rfl
@[simp] theorem State.mMem_serais (g : Mem → Mem) : (s.mMem g).serais = s.serais := rfl
@[simp] theorem State.mMem_cellar (g : Mem → Mem) : (s.mMem g).cellar = s.cellar := rfl
@[simp] theorem State.mMem_hearths (g : Mem → Mem) : (s.mMem g).hearths = s.hearths := rfl
@[simp] theorem State.mMem_sieves (g : Mem → Mem) : (s.mMem g).sieves = s.sieves := rfl
@[simp] theorem State.mMem_depot (g : Mem → Mem) : (s.mMem g).depot = s.depot := rfl
@[simp] theorem State.mMem_dampers (g : Mem → Mem) : (s.mMem g).dampers = s.dampers := rfl
@[simp] theorem State.mMem_drovers (g : Mem → Mem) : (s.mMem g).drovers = s.drovers := rfl
@[simp] theorem State.mMem_power (g : Mem → Mem) : (s.mMem g).power = s.power := rfl
@[simp] theorem State.mMem_xlt (g : Mem → Mem) : (s.mMem g).xlt = s.xlt := rfl
@[simp] theorem State.mMem_routes (g : Mem → Mem) : (s.mMem g).routes = s.routes := rfl
@[simp] theorem State.mMem_flt (g : Mem → Mem) : (s.mMem g).flt = s.flt := rfl
@[simp] theorem State.mMem_chm (g : Mem → Mem) : (s.mMem g).chm = s.chm := rfl
@[simp] theorem State.mMem_bx (g : Mem → Mem) : (s.mMem g).bx = s.bx := rfl
@[simp] theorem State.mMem_mem (g : Mem → Mem) : (s.mMem g).mem = g s.mem := rfl
@[simp] theorem State.mMem_bus (g : Mem → Mem) : (s.mMem g).bus = s.bus := rfl

@[simp] theorem State.mBus_pending (g : BusOut → BusOut) : (s.mBus g).pending = s.pending := rfl
@[simp] theorem State.mBus_dev (g : BusOut → BusOut) : (s.mBus g).dev = s.dev := rfl
@[simp] theorem State.mBus_time (g : BusOut → BusOut) : (s.mBus g).time = s.time := rfl
@[simp] theorem State.mBus_pins (g : BusOut → BusOut) : (s.mBus g).pins = s.pins := rfl
@[simp] theorem State.mBus_fuses (g : BusOut → BusOut) : (s.mBus g).fuses = s.fuses := rfl
@[simp] theorem State.mBus_img (g : BusOut → BusOut) : (s.mBus g).img = s.img := rfl
@[simp] theorem State.mBus_boot (g : BusOut → BusOut) : (s.mBus g).boot = s.boot := rfl
@[simp] theorem State.mBus_warden (g : BusOut → BusOut) : (s.mBus g).warden = s.warden := rfl
@[simp] theorem State.mBus_tck (g : BusOut → BusOut) : (s.mBus g).tck = s.tck := rfl
@[simp] theorem State.mBus_cvn (g : BusOut → BusOut) : (s.mBus g).cvn = s.cvn := rfl
@[simp] theorem State.mBus_ldg (g : BusOut → BusOut) : (s.mBus g).ldg = s.ldg := rfl
@[simp] theorem State.mBus_stk (g : BusOut → BusOut) : (s.mBus g).stk = s.stk := rfl
@[simp] theorem State.mBus_fns (g : BusOut → BusOut) : (s.mBus g).fns = s.fns := rfl
@[simp] theorem State.mBus_logs (g : BusOut → BusOut) : (s.mBus g).logs = s.logs := rfl
@[simp] theorem State.mBus_tally (g : BusOut → BusOut) : (s.mBus g).tally = s.tally := rfl
@[simp] theorem State.mBus_serais (g : BusOut → BusOut) : (s.mBus g).serais = s.serais := rfl
@[simp] theorem State.mBus_cellar (g : BusOut → BusOut) : (s.mBus g).cellar = s.cellar := rfl
@[simp] theorem State.mBus_hearths (g : BusOut → BusOut) : (s.mBus g).hearths = s.hearths := rfl
@[simp] theorem State.mBus_sieves (g : BusOut → BusOut) : (s.mBus g).sieves = s.sieves := rfl
@[simp] theorem State.mBus_depot (g : BusOut → BusOut) : (s.mBus g).depot = s.depot := rfl
@[simp] theorem State.mBus_dampers (g : BusOut → BusOut) : (s.mBus g).dampers = s.dampers := rfl
@[simp] theorem State.mBus_drovers (g : BusOut → BusOut) : (s.mBus g).drovers = s.drovers := rfl
@[simp] theorem State.mBus_power (g : BusOut → BusOut) : (s.mBus g).power = s.power := rfl
@[simp] theorem State.mBus_xlt (g : BusOut → BusOut) : (s.mBus g).xlt = s.xlt := rfl
@[simp] theorem State.mBus_routes (g : BusOut → BusOut) : (s.mBus g).routes = s.routes := rfl
@[simp] theorem State.mBus_flt (g : BusOut → BusOut) : (s.mBus g).flt = s.flt := rfl
@[simp] theorem State.mBus_chm (g : BusOut → BusOut) : (s.mBus g).chm = s.chm := rfl
@[simp] theorem State.mBus_bx (g : BusOut → BusOut) : (s.mBus g).bx = s.bx := rfl
@[simp] theorem State.mBus_mem (g : BusOut → BusOut) : (s.mBus g).mem = s.mem := rfl
@[simp] theorem State.mBus_bus (g : BusOut → BusOut) : (s.mBus g).bus = g s.bus := rfl

@[simp] theorem State.mPins_pending (g : Pins → Pins) : (s.mPins g).pending = s.pending := rfl
@[simp] theorem State.mPins_dev (g : Pins → Pins) : (s.mPins g).dev = s.dev := rfl
@[simp] theorem State.mPins_time (g : Pins → Pins) : (s.mPins g).time = s.time := rfl
@[simp] theorem State.mPins_pins (g : Pins → Pins) : (s.mPins g).pins = g s.pins := rfl
@[simp] theorem State.mPins_fuses (g : Pins → Pins) : (s.mPins g).fuses = s.fuses := rfl
@[simp] theorem State.mPins_img (g : Pins → Pins) : (s.mPins g).img = s.img := rfl
@[simp] theorem State.mPins_boot (g : Pins → Pins) : (s.mPins g).boot = s.boot := rfl
@[simp] theorem State.mPins_warden (g : Pins → Pins) : (s.mPins g).warden = s.warden := rfl
@[simp] theorem State.mPins_tck (g : Pins → Pins) : (s.mPins g).tck = s.tck := rfl
@[simp] theorem State.mPins_cvn (g : Pins → Pins) : (s.mPins g).cvn = s.cvn := rfl
@[simp] theorem State.mPins_ldg (g : Pins → Pins) : (s.mPins g).ldg = s.ldg := rfl
@[simp] theorem State.mPins_stk (g : Pins → Pins) : (s.mPins g).stk = s.stk := rfl
@[simp] theorem State.mPins_fns (g : Pins → Pins) : (s.mPins g).fns = s.fns := rfl
@[simp] theorem State.mPins_logs (g : Pins → Pins) : (s.mPins g).logs = s.logs := rfl
@[simp] theorem State.mPins_tally (g : Pins → Pins) : (s.mPins g).tally = s.tally := rfl
@[simp] theorem State.mPins_serais (g : Pins → Pins) : (s.mPins g).serais = s.serais := rfl
@[simp] theorem State.mPins_cellar (g : Pins → Pins) : (s.mPins g).cellar = s.cellar := rfl
@[simp] theorem State.mPins_hearths (g : Pins → Pins) : (s.mPins g).hearths = s.hearths := rfl
@[simp] theorem State.mPins_sieves (g : Pins → Pins) : (s.mPins g).sieves = s.sieves := rfl
@[simp] theorem State.mPins_depot (g : Pins → Pins) : (s.mPins g).depot = s.depot := rfl
@[simp] theorem State.mPins_dampers (g : Pins → Pins) : (s.mPins g).dampers = s.dampers := rfl
@[simp] theorem State.mPins_drovers (g : Pins → Pins) : (s.mPins g).drovers = s.drovers := rfl
@[simp] theorem State.mPins_power (g : Pins → Pins) : (s.mPins g).power = s.power := rfl
@[simp] theorem State.mPins_xlt (g : Pins → Pins) : (s.mPins g).xlt = s.xlt := rfl
@[simp] theorem State.mPins_routes (g : Pins → Pins) : (s.mPins g).routes = s.routes := rfl
@[simp] theorem State.mPins_flt (g : Pins → Pins) : (s.mPins g).flt = s.flt := rfl
@[simp] theorem State.mPins_chm (g : Pins → Pins) : (s.mPins g).chm = s.chm := rfl
@[simp] theorem State.mPins_bx (g : Pins → Pins) : (s.mPins g).bx = s.bx := rfl
@[simp] theorem State.mPins_mem (g : Pins → Pins) : (s.mPins g).mem = s.mem := rfl
@[simp] theorem State.mPins_bus (g : Pins → Pins) : (s.mPins g).bus = s.bus := rfl

@[simp] theorem State.mFuses_pending (g : Fuses → Fuses) : (s.mFuses g).pending = s.pending := rfl
@[simp] theorem State.mFuses_dev (g : Fuses → Fuses) : (s.mFuses g).dev = s.dev := rfl
@[simp] theorem State.mFuses_time (g : Fuses → Fuses) : (s.mFuses g).time = s.time := rfl
@[simp] theorem State.mFuses_pins (g : Fuses → Fuses) : (s.mFuses g).pins = s.pins := rfl
@[simp] theorem State.mFuses_fuses (g : Fuses → Fuses) : (s.mFuses g).fuses = g s.fuses := rfl
@[simp] theorem State.mFuses_img (g : Fuses → Fuses) : (s.mFuses g).img = s.img := rfl
@[simp] theorem State.mFuses_boot (g : Fuses → Fuses) : (s.mFuses g).boot = s.boot := rfl
@[simp] theorem State.mFuses_warden (g : Fuses → Fuses) : (s.mFuses g).warden = s.warden := rfl
@[simp] theorem State.mFuses_tck (g : Fuses → Fuses) : (s.mFuses g).tck = s.tck := rfl
@[simp] theorem State.mFuses_cvn (g : Fuses → Fuses) : (s.mFuses g).cvn = s.cvn := rfl
@[simp] theorem State.mFuses_ldg (g : Fuses → Fuses) : (s.mFuses g).ldg = s.ldg := rfl
@[simp] theorem State.mFuses_stk (g : Fuses → Fuses) : (s.mFuses g).stk = s.stk := rfl
@[simp] theorem State.mFuses_fns (g : Fuses → Fuses) : (s.mFuses g).fns = s.fns := rfl
@[simp] theorem State.mFuses_logs (g : Fuses → Fuses) : (s.mFuses g).logs = s.logs := rfl
@[simp] theorem State.mFuses_tally (g : Fuses → Fuses) : (s.mFuses g).tally = s.tally := rfl
@[simp] theorem State.mFuses_serais (g : Fuses → Fuses) : (s.mFuses g).serais = s.serais := rfl
@[simp] theorem State.mFuses_cellar (g : Fuses → Fuses) : (s.mFuses g).cellar = s.cellar := rfl
@[simp] theorem State.mFuses_hearths (g : Fuses → Fuses) : (s.mFuses g).hearths = s.hearths := rfl
@[simp] theorem State.mFuses_sieves (g : Fuses → Fuses) : (s.mFuses g).sieves = s.sieves := rfl
@[simp] theorem State.mFuses_depot (g : Fuses → Fuses) : (s.mFuses g).depot = s.depot := rfl
@[simp] theorem State.mFuses_dampers (g : Fuses → Fuses) : (s.mFuses g).dampers = s.dampers := rfl
@[simp] theorem State.mFuses_drovers (g : Fuses → Fuses) : (s.mFuses g).drovers = s.drovers := rfl
@[simp] theorem State.mFuses_power (g : Fuses → Fuses) : (s.mFuses g).power = s.power := rfl
@[simp] theorem State.mFuses_xlt (g : Fuses → Fuses) : (s.mFuses g).xlt = s.xlt := rfl
@[simp] theorem State.mFuses_routes (g : Fuses → Fuses) : (s.mFuses g).routes = s.routes := rfl
@[simp] theorem State.mFuses_flt (g : Fuses → Fuses) : (s.mFuses g).flt = s.flt := rfl
@[simp] theorem State.mFuses_chm (g : Fuses → Fuses) : (s.mFuses g).chm = s.chm := rfl
@[simp] theorem State.mFuses_bx (g : Fuses → Fuses) : (s.mFuses g).bx = s.bx := rfl
@[simp] theorem State.mFuses_mem (g : Fuses → Fuses) : (s.mFuses g).mem = s.mem := rfl
@[simp] theorem State.mFuses_bus (g : Fuses → Fuses) : (s.mFuses g).bus = s.bus := rfl

@[simp] theorem State.mImg_pending (g : Image → Image) : (s.mImg g).pending = s.pending := rfl
@[simp] theorem State.mImg_dev (g : Image → Image) : (s.mImg g).dev = s.dev := rfl
@[simp] theorem State.mImg_time (g : Image → Image) : (s.mImg g).time = s.time := rfl
@[simp] theorem State.mImg_pins (g : Image → Image) : (s.mImg g).pins = s.pins := rfl
@[simp] theorem State.mImg_fuses (g : Image → Image) : (s.mImg g).fuses = s.fuses := rfl
@[simp] theorem State.mImg_img (g : Image → Image) : (s.mImg g).img = g s.img := rfl
@[simp] theorem State.mImg_boot (g : Image → Image) : (s.mImg g).boot = s.boot := rfl
@[simp] theorem State.mImg_warden (g : Image → Image) : (s.mImg g).warden = s.warden := rfl
@[simp] theorem State.mImg_tck (g : Image → Image) : (s.mImg g).tck = s.tck := rfl
@[simp] theorem State.mImg_cvn (g : Image → Image) : (s.mImg g).cvn = s.cvn := rfl
@[simp] theorem State.mImg_ldg (g : Image → Image) : (s.mImg g).ldg = s.ldg := rfl
@[simp] theorem State.mImg_stk (g : Image → Image) : (s.mImg g).stk = s.stk := rfl
@[simp] theorem State.mImg_fns (g : Image → Image) : (s.mImg g).fns = s.fns := rfl
@[simp] theorem State.mImg_logs (g : Image → Image) : (s.mImg g).logs = s.logs := rfl
@[simp] theorem State.mImg_tally (g : Image → Image) : (s.mImg g).tally = s.tally := rfl
@[simp] theorem State.mImg_serais (g : Image → Image) : (s.mImg g).serais = s.serais := rfl
@[simp] theorem State.mImg_cellar (g : Image → Image) : (s.mImg g).cellar = s.cellar := rfl
@[simp] theorem State.mImg_hearths (g : Image → Image) : (s.mImg g).hearths = s.hearths := rfl
@[simp] theorem State.mImg_sieves (g : Image → Image) : (s.mImg g).sieves = s.sieves := rfl
@[simp] theorem State.mImg_depot (g : Image → Image) : (s.mImg g).depot = s.depot := rfl
@[simp] theorem State.mImg_dampers (g : Image → Image) : (s.mImg g).dampers = s.dampers := rfl
@[simp] theorem State.mImg_drovers (g : Image → Image) : (s.mImg g).drovers = s.drovers := rfl
@[simp] theorem State.mImg_power (g : Image → Image) : (s.mImg g).power = s.power := rfl
@[simp] theorem State.mImg_xlt (g : Image → Image) : (s.mImg g).xlt = s.xlt := rfl
@[simp] theorem State.mImg_routes (g : Image → Image) : (s.mImg g).routes = s.routes := rfl
@[simp] theorem State.mImg_flt (g : Image → Image) : (s.mImg g).flt = s.flt := rfl
@[simp] theorem State.mImg_chm (g : Image → Image) : (s.mImg g).chm = s.chm := rfl
@[simp] theorem State.mImg_bx (g : Image → Image) : (s.mImg g).bx = s.bx := rfl
@[simp] theorem State.mImg_mem (g : Image → Image) : (s.mImg g).mem = s.mem := rfl
@[simp] theorem State.mImg_bus (g : Image → Image) : (s.mImg g).bus = s.bus := rfl

@[simp] theorem State.mBoot_pending (g : Boot → Boot) : (s.mBoot g).pending = s.pending := rfl
@[simp] theorem State.mBoot_dev (g : Boot → Boot) : (s.mBoot g).dev = s.dev := rfl
@[simp] theorem State.mBoot_time (g : Boot → Boot) : (s.mBoot g).time = s.time := rfl
@[simp] theorem State.mBoot_pins (g : Boot → Boot) : (s.mBoot g).pins = s.pins := rfl
@[simp] theorem State.mBoot_fuses (g : Boot → Boot) : (s.mBoot g).fuses = s.fuses := rfl
@[simp] theorem State.mBoot_img (g : Boot → Boot) : (s.mBoot g).img = s.img := rfl
@[simp] theorem State.mBoot_boot (g : Boot → Boot) : (s.mBoot g).boot = g s.boot := rfl
@[simp] theorem State.mBoot_warden (g : Boot → Boot) : (s.mBoot g).warden = s.warden := rfl
@[simp] theorem State.mBoot_tck (g : Boot → Boot) : (s.mBoot g).tck = s.tck := rfl
@[simp] theorem State.mBoot_cvn (g : Boot → Boot) : (s.mBoot g).cvn = s.cvn := rfl
@[simp] theorem State.mBoot_ldg (g : Boot → Boot) : (s.mBoot g).ldg = s.ldg := rfl
@[simp] theorem State.mBoot_stk (g : Boot → Boot) : (s.mBoot g).stk = s.stk := rfl
@[simp] theorem State.mBoot_fns (g : Boot → Boot) : (s.mBoot g).fns = s.fns := rfl
@[simp] theorem State.mBoot_logs (g : Boot → Boot) : (s.mBoot g).logs = s.logs := rfl
@[simp] theorem State.mBoot_tally (g : Boot → Boot) : (s.mBoot g).tally = s.tally := rfl
@[simp] theorem State.mBoot_serais (g : Boot → Boot) : (s.mBoot g).serais = s.serais := rfl
@[simp] theorem State.mBoot_cellar (g : Boot → Boot) : (s.mBoot g).cellar = s.cellar := rfl
@[simp] theorem State.mBoot_hearths (g : Boot → Boot) : (s.mBoot g).hearths = s.hearths := rfl
@[simp] theorem State.mBoot_sieves (g : Boot → Boot) : (s.mBoot g).sieves = s.sieves := rfl
@[simp] theorem State.mBoot_depot (g : Boot → Boot) : (s.mBoot g).depot = s.depot := rfl
@[simp] theorem State.mBoot_dampers (g : Boot → Boot) : (s.mBoot g).dampers = s.dampers := rfl
@[simp] theorem State.mBoot_drovers (g : Boot → Boot) : (s.mBoot g).drovers = s.drovers := rfl
@[simp] theorem State.mBoot_power (g : Boot → Boot) : (s.mBoot g).power = s.power := rfl
@[simp] theorem State.mBoot_xlt (g : Boot → Boot) : (s.mBoot g).xlt = s.xlt := rfl
@[simp] theorem State.mBoot_routes (g : Boot → Boot) : (s.mBoot g).routes = s.routes := rfl
@[simp] theorem State.mBoot_flt (g : Boot → Boot) : (s.mBoot g).flt = s.flt := rfl
@[simp] theorem State.mBoot_chm (g : Boot → Boot) : (s.mBoot g).chm = s.chm := rfl
@[simp] theorem State.mBoot_bx (g : Boot → Boot) : (s.mBoot g).bx = s.bx := rfl
@[simp] theorem State.mBoot_mem (g : Boot → Boot) : (s.mBoot g).mem = s.mem := rfl
@[simp] theorem State.mBoot_bus (g : Boot → Boot) : (s.mBoot g).bus = s.bus := rfl

@[simp] theorem State.mWarden_pending (g : Warden → Warden) : (s.mWarden g).pending = s.pending := rfl
@[simp] theorem State.mWarden_dev (g : Warden → Warden) : (s.mWarden g).dev = s.dev := rfl
@[simp] theorem State.mWarden_time (g : Warden → Warden) : (s.mWarden g).time = s.time := rfl
@[simp] theorem State.mWarden_pins (g : Warden → Warden) : (s.mWarden g).pins = s.pins := rfl
@[simp] theorem State.mWarden_fuses (g : Warden → Warden) : (s.mWarden g).fuses = s.fuses := rfl
@[simp] theorem State.mWarden_img (g : Warden → Warden) : (s.mWarden g).img = s.img := rfl
@[simp] theorem State.mWarden_boot (g : Warden → Warden) : (s.mWarden g).boot = s.boot := rfl
@[simp] theorem State.mWarden_warden (g : Warden → Warden) : (s.mWarden g).warden = g s.warden := rfl
@[simp] theorem State.mWarden_tck (g : Warden → Warden) : (s.mWarden g).tck = s.tck := rfl
@[simp] theorem State.mWarden_cvn (g : Warden → Warden) : (s.mWarden g).cvn = s.cvn := rfl
@[simp] theorem State.mWarden_ldg (g : Warden → Warden) : (s.mWarden g).ldg = s.ldg := rfl
@[simp] theorem State.mWarden_stk (g : Warden → Warden) : (s.mWarden g).stk = s.stk := rfl
@[simp] theorem State.mWarden_fns (g : Warden → Warden) : (s.mWarden g).fns = s.fns := rfl
@[simp] theorem State.mWarden_logs (g : Warden → Warden) : (s.mWarden g).logs = s.logs := rfl
@[simp] theorem State.mWarden_tally (g : Warden → Warden) : (s.mWarden g).tally = s.tally := rfl
@[simp] theorem State.mWarden_serais (g : Warden → Warden) : (s.mWarden g).serais = s.serais := rfl
@[simp] theorem State.mWarden_cellar (g : Warden → Warden) : (s.mWarden g).cellar = s.cellar := rfl
@[simp] theorem State.mWarden_hearths (g : Warden → Warden) : (s.mWarden g).hearths = s.hearths := rfl
@[simp] theorem State.mWarden_sieves (g : Warden → Warden) : (s.mWarden g).sieves = s.sieves := rfl
@[simp] theorem State.mWarden_depot (g : Warden → Warden) : (s.mWarden g).depot = s.depot := rfl
@[simp] theorem State.mWarden_dampers (g : Warden → Warden) : (s.mWarden g).dampers = s.dampers := rfl
@[simp] theorem State.mWarden_drovers (g : Warden → Warden) : (s.mWarden g).drovers = s.drovers := rfl
@[simp] theorem State.mWarden_power (g : Warden → Warden) : (s.mWarden g).power = s.power := rfl
@[simp] theorem State.mWarden_xlt (g : Warden → Warden) : (s.mWarden g).xlt = s.xlt := rfl
@[simp] theorem State.mWarden_routes (g : Warden → Warden) : (s.mWarden g).routes = s.routes := rfl
@[simp] theorem State.mWarden_flt (g : Warden → Warden) : (s.mWarden g).flt = s.flt := rfl
@[simp] theorem State.mWarden_chm (g : Warden → Warden) : (s.mWarden g).chm = s.chm := rfl
@[simp] theorem State.mWarden_bx (g : Warden → Warden) : (s.mWarden g).bx = s.bx := rfl
@[simp] theorem State.mWarden_mem (g : Warden → Warden) : (s.mWarden g).mem = s.mem := rfl
@[simp] theorem State.mWarden_bus (g : Warden → Warden) : (s.mWarden g).bus = s.bus := rfl

@[simp] theorem State.mFn_pending (k : Nat) (g : Fn → Fn) : (s.mFn k g).pending = s.pending := rfl
@[simp] theorem State.mFn_dev (k : Nat) (g : Fn → Fn) : (s.mFn k g).dev = s.dev := rfl
@[simp] theorem State.mFn_time (k : Nat) (g : Fn → Fn) : (s.mFn k g).time = s.time := rfl
@[simp] theorem State.mFn_pins (k : Nat) (g : Fn → Fn) : (s.mFn k g).pins = s.pins := rfl
@[simp] theorem State.mFn_fuses (k : Nat) (g : Fn → Fn) : (s.mFn k g).fuses = s.fuses := rfl
@[simp] theorem State.mFn_img (k : Nat) (g : Fn → Fn) : (s.mFn k g).img = s.img := rfl
@[simp] theorem State.mFn_boot (k : Nat) (g : Fn → Fn) : (s.mFn k g).boot = s.boot := rfl
@[simp] theorem State.mFn_warden (k : Nat) (g : Fn → Fn) : (s.mFn k g).warden = s.warden := rfl
@[simp] theorem State.mFn_tck (k : Nat) (g : Fn → Fn) : (s.mFn k g).tck = s.tck := rfl
@[simp] theorem State.mFn_cvn (k : Nat) (g : Fn → Fn) : (s.mFn k g).cvn = s.cvn := rfl
@[simp] theorem State.mFn_ldg (k : Nat) (g : Fn → Fn) : (s.mFn k g).ldg = s.ldg := rfl
@[simp] theorem State.mFn_stk (k : Nat) (g : Fn → Fn) : (s.mFn k g).stk = s.stk := rfl
@[simp] theorem State.mFn_fns (k : Nat) (g : Fn → Fn) : (s.mFn k g).fns = mapMod s.fns k {} g := rfl
@[simp] theorem State.mFn_logs (k : Nat) (g : Fn → Fn) : (s.mFn k g).logs = s.logs := rfl
@[simp] theorem State.mFn_tally (k : Nat) (g : Fn → Fn) : (s.mFn k g).tally = s.tally := rfl
@[simp] theorem State.mFn_serais (k : Nat) (g : Fn → Fn) : (s.mFn k g).serais = s.serais := rfl
@[simp] theorem State.mFn_cellar (k : Nat) (g : Fn → Fn) : (s.mFn k g).cellar = s.cellar := rfl
@[simp] theorem State.mFn_hearths (k : Nat) (g : Fn → Fn) : (s.mFn k g).hearths = s.hearths := rfl
@[simp] theorem State.mFn_sieves (k : Nat) (g : Fn → Fn) : (s.mFn k g).sieves = s.sieves := rfl
@[simp] theorem State.mFn_depot (k : Nat) (g : Fn → Fn) : (s.mFn k g).depot = s.depot := rfl
@[simp] theorem State.mFn_dampers (k : Nat) (g : Fn → Fn) : (s.mFn k g).dampers = s.dampers := rfl
@[simp] theorem State.mFn_drovers (k : Nat) (g : Fn → Fn) : (s.mFn k g).drovers = s.drovers := rfl
@[simp] theorem State.mFn_power (k : Nat) (g : Fn → Fn) : (s.mFn k g).power = s.power := rfl
@[simp] theorem State.mFn_xlt (k : Nat) (g : Fn → Fn) : (s.mFn k g).xlt = s.xlt := rfl
@[simp] theorem State.mFn_routes (k : Nat) (g : Fn → Fn) : (s.mFn k g).routes = s.routes := rfl
@[simp] theorem State.mFn_flt (k : Nat) (g : Fn → Fn) : (s.mFn k g).flt = s.flt := rfl
@[simp] theorem State.mFn_chm (k : Nat) (g : Fn → Fn) : (s.mFn k g).chm = s.chm := rfl
@[simp] theorem State.mFn_bx (k : Nat) (g : Fn → Fn) : (s.mFn k g).bx = s.bx := rfl
@[simp] theorem State.mFn_mem (k : Nat) (g : Fn → Fn) : (s.mFn k g).mem = s.mem := rfl
@[simp] theorem State.mFn_bus (k : Nat) (g : Fn → Fn) : (s.mFn k g).bus = s.bus := rfl

@[simp] theorem State.mLog_pending (k : Nat) (g : FnLog → FnLog) : (s.mLog k g).pending = s.pending := rfl
@[simp] theorem State.mLog_dev (k : Nat) (g : FnLog → FnLog) : (s.mLog k g).dev = s.dev := rfl
@[simp] theorem State.mLog_time (k : Nat) (g : FnLog → FnLog) : (s.mLog k g).time = s.time := rfl
@[simp] theorem State.mLog_pins (k : Nat) (g : FnLog → FnLog) : (s.mLog k g).pins = s.pins := rfl
@[simp] theorem State.mLog_fuses (k : Nat) (g : FnLog → FnLog) : (s.mLog k g).fuses = s.fuses := rfl
@[simp] theorem State.mLog_img (k : Nat) (g : FnLog → FnLog) : (s.mLog k g).img = s.img := rfl
@[simp] theorem State.mLog_boot (k : Nat) (g : FnLog → FnLog) : (s.mLog k g).boot = s.boot := rfl
@[simp] theorem State.mLog_warden (k : Nat) (g : FnLog → FnLog) : (s.mLog k g).warden = s.warden := rfl
@[simp] theorem State.mLog_tck (k : Nat) (g : FnLog → FnLog) : (s.mLog k g).tck = s.tck := rfl
@[simp] theorem State.mLog_cvn (k : Nat) (g : FnLog → FnLog) : (s.mLog k g).cvn = s.cvn := rfl
@[simp] theorem State.mLog_ldg (k : Nat) (g : FnLog → FnLog) : (s.mLog k g).ldg = s.ldg := rfl
@[simp] theorem State.mLog_stk (k : Nat) (g : FnLog → FnLog) : (s.mLog k g).stk = s.stk := rfl
@[simp] theorem State.mLog_fns (k : Nat) (g : FnLog → FnLog) : (s.mLog k g).fns = s.fns := rfl
@[simp] theorem State.mLog_logs (k : Nat) (g : FnLog → FnLog) : (s.mLog k g).logs = mapMod s.logs k {} g := rfl
@[simp] theorem State.mLog_tally (k : Nat) (g : FnLog → FnLog) : (s.mLog k g).tally = s.tally := rfl
@[simp] theorem State.mLog_serais (k : Nat) (g : FnLog → FnLog) : (s.mLog k g).serais = s.serais := rfl
@[simp] theorem State.mLog_cellar (k : Nat) (g : FnLog → FnLog) : (s.mLog k g).cellar = s.cellar := rfl
@[simp] theorem State.mLog_hearths (k : Nat) (g : FnLog → FnLog) : (s.mLog k g).hearths = s.hearths := rfl
@[simp] theorem State.mLog_sieves (k : Nat) (g : FnLog → FnLog) : (s.mLog k g).sieves = s.sieves := rfl
@[simp] theorem State.mLog_depot (k : Nat) (g : FnLog → FnLog) : (s.mLog k g).depot = s.depot := rfl
@[simp] theorem State.mLog_dampers (k : Nat) (g : FnLog → FnLog) : (s.mLog k g).dampers = s.dampers := rfl
@[simp] theorem State.mLog_drovers (k : Nat) (g : FnLog → FnLog) : (s.mLog k g).drovers = s.drovers := rfl
@[simp] theorem State.mLog_power (k : Nat) (g : FnLog → FnLog) : (s.mLog k g).power = s.power := rfl
@[simp] theorem State.mLog_xlt (k : Nat) (g : FnLog → FnLog) : (s.mLog k g).xlt = s.xlt := rfl
@[simp] theorem State.mLog_routes (k : Nat) (g : FnLog → FnLog) : (s.mLog k g).routes = s.routes := rfl
@[simp] theorem State.mLog_flt (k : Nat) (g : FnLog → FnLog) : (s.mLog k g).flt = s.flt := rfl
@[simp] theorem State.mLog_chm (k : Nat) (g : FnLog → FnLog) : (s.mLog k g).chm = s.chm := rfl
@[simp] theorem State.mLog_bx (k : Nat) (g : FnLog → FnLog) : (s.mLog k g).bx = s.bx := rfl
@[simp] theorem State.mLog_mem (k : Nat) (g : FnLog → FnLog) : (s.mLog k g).mem = s.mem := rfl
@[simp] theorem State.mLog_bus (k : Nat) (g : FnLog → FnLog) : (s.mLog k g).bus = s.bus := rfl

@[simp] theorem State.mCmd_pending (k : Nat) (g : Cmd → Cmd) : (s.mCmd k g).pending = s.pending := rfl
@[simp] theorem State.mCmd_dev (k : Nat) (g : Cmd → Cmd) : (s.mCmd k g).dev = s.dev := rfl
@[simp] theorem State.mCmd_time (k : Nat) (g : Cmd → Cmd) : (s.mCmd k g).time = s.time := rfl
@[simp] theorem State.mCmd_pins (k : Nat) (g : Cmd → Cmd) : (s.mCmd k g).pins = s.pins := rfl
@[simp] theorem State.mCmd_fuses (k : Nat) (g : Cmd → Cmd) : (s.mCmd k g).fuses = s.fuses := rfl
@[simp] theorem State.mCmd_img (k : Nat) (g : Cmd → Cmd) : (s.mCmd k g).img = s.img := rfl
@[simp] theorem State.mCmd_boot (k : Nat) (g : Cmd → Cmd) : (s.mCmd k g).boot = s.boot := rfl
@[simp] theorem State.mCmd_warden (k : Nat) (g : Cmd → Cmd) : (s.mCmd k g).warden = s.warden := rfl
@[simp] theorem State.mCmd_tck (k : Nat) (g : Cmd → Cmd) : (s.mCmd k g).tck = s.tck := rfl
@[simp] theorem State.mCmd_cvn (k : Nat) (g : Cmd → Cmd) : (s.mCmd k g).cvn = s.cvn := rfl
@[simp] theorem State.mCmd_ldg (k : Nat) (g : Cmd → Cmd) : (s.mCmd k g).ldg = s.ldg := rfl
@[simp] theorem State.mCmd_stk (k : Nat) (g : Cmd → Cmd) : (s.mCmd k g).stk = { s.stk with cmds := mapAdj s.stk.cmds k g } := rfl
@[simp] theorem State.mCmd_fns (k : Nat) (g : Cmd → Cmd) : (s.mCmd k g).fns = s.fns := rfl
@[simp] theorem State.mCmd_logs (k : Nat) (g : Cmd → Cmd) : (s.mCmd k g).logs = s.logs := rfl
@[simp] theorem State.mCmd_tally (k : Nat) (g : Cmd → Cmd) : (s.mCmd k g).tally = s.tally := rfl
@[simp] theorem State.mCmd_serais (k : Nat) (g : Cmd → Cmd) : (s.mCmd k g).serais = s.serais := rfl
@[simp] theorem State.mCmd_cellar (k : Nat) (g : Cmd → Cmd) : (s.mCmd k g).cellar = s.cellar := rfl
@[simp] theorem State.mCmd_hearths (k : Nat) (g : Cmd → Cmd) : (s.mCmd k g).hearths = s.hearths := rfl
@[simp] theorem State.mCmd_sieves (k : Nat) (g : Cmd → Cmd) : (s.mCmd k g).sieves = s.sieves := rfl
@[simp] theorem State.mCmd_depot (k : Nat) (g : Cmd → Cmd) : (s.mCmd k g).depot = s.depot := rfl
@[simp] theorem State.mCmd_dampers (k : Nat) (g : Cmd → Cmd) : (s.mCmd k g).dampers = s.dampers := rfl
@[simp] theorem State.mCmd_drovers (k : Nat) (g : Cmd → Cmd) : (s.mCmd k g).drovers = s.drovers := rfl
@[simp] theorem State.mCmd_power (k : Nat) (g : Cmd → Cmd) : (s.mCmd k g).power = s.power := rfl
@[simp] theorem State.mCmd_xlt (k : Nat) (g : Cmd → Cmd) : (s.mCmd k g).xlt = s.xlt := rfl
@[simp] theorem State.mCmd_routes (k : Nat) (g : Cmd → Cmd) : (s.mCmd k g).routes = s.routes := rfl
@[simp] theorem State.mCmd_flt (k : Nat) (g : Cmd → Cmd) : (s.mCmd k g).flt = s.flt := rfl
@[simp] theorem State.mCmd_chm (k : Nat) (g : Cmd → Cmd) : (s.mCmd k g).chm = s.chm := rfl
@[simp] theorem State.mCmd_bx (k : Nat) (g : Cmd → Cmd) : (s.mCmd k g).bx = s.bx := rfl
@[simp] theorem State.mCmd_mem (k : Nat) (g : Cmd → Cmd) : (s.mCmd k g).mem = s.mem := rfl
@[simp] theorem State.mCmd_bus (k : Nat) (g : Cmd → Cmd) : (s.mCmd k g).bus = s.bus := rfl

@[simp] theorem State.mWb_pending (k : Nat) (g : Waybill → Waybill) : (s.mWb k g).pending = s.pending := rfl
@[simp] theorem State.mWb_dev (k : Nat) (g : Waybill → Waybill) : (s.mWb k g).dev = s.dev := rfl
@[simp] theorem State.mWb_time (k : Nat) (g : Waybill → Waybill) : (s.mWb k g).time = s.time := rfl
@[simp] theorem State.mWb_pins (k : Nat) (g : Waybill → Waybill) : (s.mWb k g).pins = s.pins := rfl
@[simp] theorem State.mWb_fuses (k : Nat) (g : Waybill → Waybill) : (s.mWb k g).fuses = s.fuses := rfl
@[simp] theorem State.mWb_img (k : Nat) (g : Waybill → Waybill) : (s.mWb k g).img = s.img := rfl
@[simp] theorem State.mWb_boot (k : Nat) (g : Waybill → Waybill) : (s.mWb k g).boot = s.boot := rfl
@[simp] theorem State.mWb_warden (k : Nat) (g : Waybill → Waybill) : (s.mWb k g).warden = s.warden := rfl
@[simp] theorem State.mWb_tck (k : Nat) (g : Waybill → Waybill) : (s.mWb k g).tck = s.tck := rfl
@[simp] theorem State.mWb_cvn (k : Nat) (g : Waybill → Waybill) : (s.mWb k g).cvn = s.cvn := rfl
@[simp] theorem State.mWb_ldg (k : Nat) (g : Waybill → Waybill) : (s.mWb k g).ldg = { s.ldg with wb := mapAdj s.ldg.wb k g } := rfl
@[simp] theorem State.mWb_stk (k : Nat) (g : Waybill → Waybill) : (s.mWb k g).stk = s.stk := rfl
@[simp] theorem State.mWb_fns (k : Nat) (g : Waybill → Waybill) : (s.mWb k g).fns = s.fns := rfl
@[simp] theorem State.mWb_logs (k : Nat) (g : Waybill → Waybill) : (s.mWb k g).logs = s.logs := rfl
@[simp] theorem State.mWb_tally (k : Nat) (g : Waybill → Waybill) : (s.mWb k g).tally = s.tally := rfl
@[simp] theorem State.mWb_serais (k : Nat) (g : Waybill → Waybill) : (s.mWb k g).serais = s.serais := rfl
@[simp] theorem State.mWb_cellar (k : Nat) (g : Waybill → Waybill) : (s.mWb k g).cellar = s.cellar := rfl
@[simp] theorem State.mWb_hearths (k : Nat) (g : Waybill → Waybill) : (s.mWb k g).hearths = s.hearths := rfl
@[simp] theorem State.mWb_sieves (k : Nat) (g : Waybill → Waybill) : (s.mWb k g).sieves = s.sieves := rfl
@[simp] theorem State.mWb_depot (k : Nat) (g : Waybill → Waybill) : (s.mWb k g).depot = s.depot := rfl
@[simp] theorem State.mWb_dampers (k : Nat) (g : Waybill → Waybill) : (s.mWb k g).dampers = s.dampers := rfl
@[simp] theorem State.mWb_drovers (k : Nat) (g : Waybill → Waybill) : (s.mWb k g).drovers = s.drovers := rfl
@[simp] theorem State.mWb_power (k : Nat) (g : Waybill → Waybill) : (s.mWb k g).power = s.power := rfl
@[simp] theorem State.mWb_xlt (k : Nat) (g : Waybill → Waybill) : (s.mWb k g).xlt = s.xlt := rfl
@[simp] theorem State.mWb_routes (k : Nat) (g : Waybill → Waybill) : (s.mWb k g).routes = s.routes := rfl
@[simp] theorem State.mWb_flt (k : Nat) (g : Waybill → Waybill) : (s.mWb k g).flt = s.flt := rfl
@[simp] theorem State.mWb_chm (k : Nat) (g : Waybill → Waybill) : (s.mWb k g).chm = s.chm := rfl
@[simp] theorem State.mWb_bx (k : Nat) (g : Waybill → Waybill) : (s.mWb k g).bx = s.bx := rfl
@[simp] theorem State.mWb_mem (k : Nat) (g : Waybill → Waybill) : (s.mWb k g).mem = s.mem := rfl
@[simp] theorem State.mWb_bus (k : Nat) (g : Waybill → Waybill) : (s.mWb k g).bus = s.bus := rfl

@[simp] theorem State.mSerai_pending (k : Nat) (g : Serai → Serai) : (s.mSerai k g).pending = s.pending := rfl
@[simp] theorem State.mSerai_dev (k : Nat) (g : Serai → Serai) : (s.mSerai k g).dev = s.dev := rfl
@[simp] theorem State.mSerai_time (k : Nat) (g : Serai → Serai) : (s.mSerai k g).time = s.time := rfl
@[simp] theorem State.mSerai_pins (k : Nat) (g : Serai → Serai) : (s.mSerai k g).pins = s.pins := rfl
@[simp] theorem State.mSerai_fuses (k : Nat) (g : Serai → Serai) : (s.mSerai k g).fuses = s.fuses := rfl
@[simp] theorem State.mSerai_img (k : Nat) (g : Serai → Serai) : (s.mSerai k g).img = s.img := rfl
@[simp] theorem State.mSerai_boot (k : Nat) (g : Serai → Serai) : (s.mSerai k g).boot = s.boot := rfl
@[simp] theorem State.mSerai_warden (k : Nat) (g : Serai → Serai) : (s.mSerai k g).warden = s.warden := rfl
@[simp] theorem State.mSerai_tck (k : Nat) (g : Serai → Serai) : (s.mSerai k g).tck = s.tck := rfl
@[simp] theorem State.mSerai_cvn (k : Nat) (g : Serai → Serai) : (s.mSerai k g).cvn = s.cvn := rfl
@[simp] theorem State.mSerai_ldg (k : Nat) (g : Serai → Serai) : (s.mSerai k g).ldg = s.ldg := rfl
@[simp] theorem State.mSerai_stk (k : Nat) (g : Serai → Serai) : (s.mSerai k g).stk = s.stk := rfl
@[simp] theorem State.mSerai_fns (k : Nat) (g : Serai → Serai) : (s.mSerai k g).fns = s.fns := rfl
@[simp] theorem State.mSerai_logs (k : Nat) (g : Serai → Serai) : (s.mSerai k g).logs = s.logs := rfl
@[simp] theorem State.mSerai_tally (k : Nat) (g : Serai → Serai) : (s.mSerai k g).tally = s.tally := rfl
@[simp] theorem State.mSerai_serais (k : Nat) (g : Serai → Serai) : (s.mSerai k g).serais = { s.serais with units := mapMod s.serais.units k {} g } := rfl
@[simp] theorem State.mSerai_cellar (k : Nat) (g : Serai → Serai) : (s.mSerai k g).cellar = s.cellar := rfl
@[simp] theorem State.mSerai_hearths (k : Nat) (g : Serai → Serai) : (s.mSerai k g).hearths = s.hearths := rfl
@[simp] theorem State.mSerai_sieves (k : Nat) (g : Serai → Serai) : (s.mSerai k g).sieves = s.sieves := rfl
@[simp] theorem State.mSerai_depot (k : Nat) (g : Serai → Serai) : (s.mSerai k g).depot = s.depot := rfl
@[simp] theorem State.mSerai_dampers (k : Nat) (g : Serai → Serai) : (s.mSerai k g).dampers = s.dampers := rfl
@[simp] theorem State.mSerai_drovers (k : Nat) (g : Serai → Serai) : (s.mSerai k g).drovers = s.drovers := rfl
@[simp] theorem State.mSerai_power (k : Nat) (g : Serai → Serai) : (s.mSerai k g).power = s.power := rfl
@[simp] theorem State.mSerai_xlt (k : Nat) (g : Serai → Serai) : (s.mSerai k g).xlt = s.xlt := rfl
@[simp] theorem State.mSerai_routes (k : Nat) (g : Serai → Serai) : (s.mSerai k g).routes = s.routes := rfl
@[simp] theorem State.mSerai_flt (k : Nat) (g : Serai → Serai) : (s.mSerai k g).flt = s.flt := rfl
@[simp] theorem State.mSerai_chm (k : Nat) (g : Serai → Serai) : (s.mSerai k g).chm = s.chm := rfl
@[simp] theorem State.mSerai_bx (k : Nat) (g : Serai → Serai) : (s.mSerai k g).bx = s.bx := rfl
@[simp] theorem State.mSerai_mem (k : Nat) (g : Serai → Serai) : (s.mSerai k g).mem = s.mem := rfl
@[simp] theorem State.mSerai_bus (k : Nat) (g : Serai → Serai) : (s.mSerai k g).bus = s.bus := rfl

@[simp] theorem State.mSeraiCnt_pending (k : Nat) (g : SeraiCnt → SeraiCnt) : (s.mSeraiCnt k g).pending = s.pending := rfl
@[simp] theorem State.mSeraiCnt_dev (k : Nat) (g : SeraiCnt → SeraiCnt) : (s.mSeraiCnt k g).dev = s.dev := rfl
@[simp] theorem State.mSeraiCnt_time (k : Nat) (g : SeraiCnt → SeraiCnt) : (s.mSeraiCnt k g).time = s.time := rfl
@[simp] theorem State.mSeraiCnt_pins (k : Nat) (g : SeraiCnt → SeraiCnt) : (s.mSeraiCnt k g).pins = s.pins := rfl
@[simp] theorem State.mSeraiCnt_fuses (k : Nat) (g : SeraiCnt → SeraiCnt) : (s.mSeraiCnt k g).fuses = s.fuses := rfl
@[simp] theorem State.mSeraiCnt_img (k : Nat) (g : SeraiCnt → SeraiCnt) : (s.mSeraiCnt k g).img = s.img := rfl
@[simp] theorem State.mSeraiCnt_boot (k : Nat) (g : SeraiCnt → SeraiCnt) : (s.mSeraiCnt k g).boot = s.boot := rfl
@[simp] theorem State.mSeraiCnt_warden (k : Nat) (g : SeraiCnt → SeraiCnt) : (s.mSeraiCnt k g).warden = s.warden := rfl
@[simp] theorem State.mSeraiCnt_tck (k : Nat) (g : SeraiCnt → SeraiCnt) : (s.mSeraiCnt k g).tck = s.tck := rfl
@[simp] theorem State.mSeraiCnt_cvn (k : Nat) (g : SeraiCnt → SeraiCnt) : (s.mSeraiCnt k g).cvn = s.cvn := rfl
@[simp] theorem State.mSeraiCnt_ldg (k : Nat) (g : SeraiCnt → SeraiCnt) : (s.mSeraiCnt k g).ldg = s.ldg := rfl
@[simp] theorem State.mSeraiCnt_stk (k : Nat) (g : SeraiCnt → SeraiCnt) : (s.mSeraiCnt k g).stk = s.stk := rfl
@[simp] theorem State.mSeraiCnt_fns (k : Nat) (g : SeraiCnt → SeraiCnt) : (s.mSeraiCnt k g).fns = s.fns := rfl
@[simp] theorem State.mSeraiCnt_logs (k : Nat) (g : SeraiCnt → SeraiCnt) : (s.mSeraiCnt k g).logs = s.logs := rfl
@[simp] theorem State.mSeraiCnt_tally (k : Nat) (g : SeraiCnt → SeraiCnt) : (s.mSeraiCnt k g).tally = s.tally := rfl
@[simp] theorem State.mSeraiCnt_serais (k : Nat) (g : SeraiCnt → SeraiCnt) : (s.mSeraiCnt k g).serais = { s.serais with cnts := mapMod s.serais.cnts k {} g } := rfl
@[simp] theorem State.mSeraiCnt_cellar (k : Nat) (g : SeraiCnt → SeraiCnt) : (s.mSeraiCnt k g).cellar = s.cellar := rfl
@[simp] theorem State.mSeraiCnt_hearths (k : Nat) (g : SeraiCnt → SeraiCnt) : (s.mSeraiCnt k g).hearths = s.hearths := rfl
@[simp] theorem State.mSeraiCnt_sieves (k : Nat) (g : SeraiCnt → SeraiCnt) : (s.mSeraiCnt k g).sieves = s.sieves := rfl
@[simp] theorem State.mSeraiCnt_depot (k : Nat) (g : SeraiCnt → SeraiCnt) : (s.mSeraiCnt k g).depot = s.depot := rfl
@[simp] theorem State.mSeraiCnt_dampers (k : Nat) (g : SeraiCnt → SeraiCnt) : (s.mSeraiCnt k g).dampers = s.dampers := rfl
@[simp] theorem State.mSeraiCnt_drovers (k : Nat) (g : SeraiCnt → SeraiCnt) : (s.mSeraiCnt k g).drovers = s.drovers := rfl
@[simp] theorem State.mSeraiCnt_power (k : Nat) (g : SeraiCnt → SeraiCnt) : (s.mSeraiCnt k g).power = s.power := rfl
@[simp] theorem State.mSeraiCnt_xlt (k : Nat) (g : SeraiCnt → SeraiCnt) : (s.mSeraiCnt k g).xlt = s.xlt := rfl
@[simp] theorem State.mSeraiCnt_routes (k : Nat) (g : SeraiCnt → SeraiCnt) : (s.mSeraiCnt k g).routes = s.routes := rfl
@[simp] theorem State.mSeraiCnt_flt (k : Nat) (g : SeraiCnt → SeraiCnt) : (s.mSeraiCnt k g).flt = s.flt := rfl
@[simp] theorem State.mSeraiCnt_chm (k : Nat) (g : SeraiCnt → SeraiCnt) : (s.mSeraiCnt k g).chm = s.chm := rfl
@[simp] theorem State.mSeraiCnt_bx (k : Nat) (g : SeraiCnt → SeraiCnt) : (s.mSeraiCnt k g).bx = s.bx := rfl
@[simp] theorem State.mSeraiCnt_mem (k : Nat) (g : SeraiCnt → SeraiCnt) : (s.mSeraiCnt k g).mem = s.mem := rfl
@[simp] theorem State.mSeraiCnt_bus (k : Nat) (g : SeraiCnt → SeraiCnt) : (s.mSeraiCnt k g).bus = s.bus := rfl

@[simp] theorem State.mHearth_pending (k : Nat) (g : Hearth → Hearth) : (s.mHearth k g).pending = s.pending := rfl
@[simp] theorem State.mHearth_dev (k : Nat) (g : Hearth → Hearth) : (s.mHearth k g).dev = s.dev := rfl
@[simp] theorem State.mHearth_time (k : Nat) (g : Hearth → Hearth) : (s.mHearth k g).time = s.time := rfl
@[simp] theorem State.mHearth_pins (k : Nat) (g : Hearth → Hearth) : (s.mHearth k g).pins = s.pins := rfl
@[simp] theorem State.mHearth_fuses (k : Nat) (g : Hearth → Hearth) : (s.mHearth k g).fuses = s.fuses := rfl
@[simp] theorem State.mHearth_img (k : Nat) (g : Hearth → Hearth) : (s.mHearth k g).img = s.img := rfl
@[simp] theorem State.mHearth_boot (k : Nat) (g : Hearth → Hearth) : (s.mHearth k g).boot = s.boot := rfl
@[simp] theorem State.mHearth_warden (k : Nat) (g : Hearth → Hearth) : (s.mHearth k g).warden = s.warden := rfl
@[simp] theorem State.mHearth_tck (k : Nat) (g : Hearth → Hearth) : (s.mHearth k g).tck = s.tck := rfl
@[simp] theorem State.mHearth_cvn (k : Nat) (g : Hearth → Hearth) : (s.mHearth k g).cvn = s.cvn := rfl
@[simp] theorem State.mHearth_ldg (k : Nat) (g : Hearth → Hearth) : (s.mHearth k g).ldg = s.ldg := rfl
@[simp] theorem State.mHearth_stk (k : Nat) (g : Hearth → Hearth) : (s.mHearth k g).stk = s.stk := rfl
@[simp] theorem State.mHearth_fns (k : Nat) (g : Hearth → Hearth) : (s.mHearth k g).fns = s.fns := rfl
@[simp] theorem State.mHearth_logs (k : Nat) (g : Hearth → Hearth) : (s.mHearth k g).logs = s.logs := rfl
@[simp] theorem State.mHearth_tally (k : Nat) (g : Hearth → Hearth) : (s.mHearth k g).tally = s.tally := rfl
@[simp] theorem State.mHearth_serais (k : Nat) (g : Hearth → Hearth) : (s.mHearth k g).serais = s.serais := rfl
@[simp] theorem State.mHearth_cellar (k : Nat) (g : Hearth → Hearth) : (s.mHearth k g).cellar = s.cellar := rfl
@[simp] theorem State.mHearth_hearths (k : Nat) (g : Hearth → Hearth) : (s.mHearth k g).hearths = { s.hearths with logical := mapMod s.hearths.logical k {} g } := rfl
@[simp] theorem State.mHearth_sieves (k : Nat) (g : Hearth → Hearth) : (s.mHearth k g).sieves = s.sieves := rfl
@[simp] theorem State.mHearth_depot (k : Nat) (g : Hearth → Hearth) : (s.mHearth k g).depot = s.depot := rfl
@[simp] theorem State.mHearth_dampers (k : Nat) (g : Hearth → Hearth) : (s.mHearth k g).dampers = s.dampers := rfl
@[simp] theorem State.mHearth_drovers (k : Nat) (g : Hearth → Hearth) : (s.mHearth k g).drovers = s.drovers := rfl
@[simp] theorem State.mHearth_power (k : Nat) (g : Hearth → Hearth) : (s.mHearth k g).power = s.power := rfl
@[simp] theorem State.mHearth_xlt (k : Nat) (g : Hearth → Hearth) : (s.mHearth k g).xlt = s.xlt := rfl
@[simp] theorem State.mHearth_routes (k : Nat) (g : Hearth → Hearth) : (s.mHearth k g).routes = s.routes := rfl
@[simp] theorem State.mHearth_flt (k : Nat) (g : Hearth → Hearth) : (s.mHearth k g).flt = s.flt := rfl
@[simp] theorem State.mHearth_chm (k : Nat) (g : Hearth → Hearth) : (s.mHearth k g).chm = s.chm := rfl
@[simp] theorem State.mHearth_bx (k : Nat) (g : Hearth → Hearth) : (s.mHearth k g).bx = s.bx := rfl
@[simp] theorem State.mHearth_mem (k : Nat) (g : Hearth → Hearth) : (s.mHearth k g).mem = s.mem := rfl
@[simp] theorem State.mHearth_bus (k : Nat) (g : Hearth → Hearth) : (s.mHearth k g).bus = s.bus := rfl

@[simp] theorem State.mTable_pending (k : Nat) (g : Table → Table) : (s.mTable k g).pending = s.pending := rfl
@[simp] theorem State.mTable_dev (k : Nat) (g : Table → Table) : (s.mTable k g).dev = s.dev := rfl
@[simp] theorem State.mTable_time (k : Nat) (g : Table → Table) : (s.mTable k g).time = s.time := rfl
@[simp] theorem State.mTable_pins (k : Nat) (g : Table → Table) : (s.mTable k g).pins = s.pins := rfl
@[simp] theorem State.mTable_fuses (k : Nat) (g : Table → Table) : (s.mTable k g).fuses = s.fuses := rfl
@[simp] theorem State.mTable_img (k : Nat) (g : Table → Table) : (s.mTable k g).img = s.img := rfl
@[simp] theorem State.mTable_boot (k : Nat) (g : Table → Table) : (s.mTable k g).boot = s.boot := rfl
@[simp] theorem State.mTable_warden (k : Nat) (g : Table → Table) : (s.mTable k g).warden = s.warden := rfl
@[simp] theorem State.mTable_tck (k : Nat) (g : Table → Table) : (s.mTable k g).tck = s.tck := rfl
@[simp] theorem State.mTable_cvn (k : Nat) (g : Table → Table) : (s.mTable k g).cvn = s.cvn := rfl
@[simp] theorem State.mTable_ldg (k : Nat) (g : Table → Table) : (s.mTable k g).ldg = s.ldg := rfl
@[simp] theorem State.mTable_stk (k : Nat) (g : Table → Table) : (s.mTable k g).stk = s.stk := rfl
@[simp] theorem State.mTable_fns (k : Nat) (g : Table → Table) : (s.mTable k g).fns = s.fns := rfl
@[simp] theorem State.mTable_logs (k : Nat) (g : Table → Table) : (s.mTable k g).logs = s.logs := rfl
@[simp] theorem State.mTable_tally (k : Nat) (g : Table → Table) : (s.mTable k g).tally = { s.tally with tables := mapAdj s.tally.tables k g } := rfl
@[simp] theorem State.mTable_serais (k : Nat) (g : Table → Table) : (s.mTable k g).serais = s.serais := rfl
@[simp] theorem State.mTable_cellar (k : Nat) (g : Table → Table) : (s.mTable k g).cellar = s.cellar := rfl
@[simp] theorem State.mTable_hearths (k : Nat) (g : Table → Table) : (s.mTable k g).hearths = s.hearths := rfl
@[simp] theorem State.mTable_sieves (k : Nat) (g : Table → Table) : (s.mTable k g).sieves = s.sieves := rfl
@[simp] theorem State.mTable_depot (k : Nat) (g : Table → Table) : (s.mTable k g).depot = s.depot := rfl
@[simp] theorem State.mTable_dampers (k : Nat) (g : Table → Table) : (s.mTable k g).dampers = s.dampers := rfl
@[simp] theorem State.mTable_drovers (k : Nat) (g : Table → Table) : (s.mTable k g).drovers = s.drovers := rfl
@[simp] theorem State.mTable_power (k : Nat) (g : Table → Table) : (s.mTable k g).power = s.power := rfl
@[simp] theorem State.mTable_xlt (k : Nat) (g : Table → Table) : (s.mTable k g).xlt = s.xlt := rfl
@[simp] theorem State.mTable_routes (k : Nat) (g : Table → Table) : (s.mTable k g).routes = s.routes := rfl
@[simp] theorem State.mTable_flt (k : Nat) (g : Table → Table) : (s.mTable k g).flt = s.flt := rfl
@[simp] theorem State.mTable_chm (k : Nat) (g : Table → Table) : (s.mTable k g).chm = s.chm := rfl
@[simp] theorem State.mTable_bx (k : Nat) (g : Table → Table) : (s.mTable k g).bx = s.bx := rfl
@[simp] theorem State.mTable_mem (k : Nat) (g : Table → Table) : (s.mTable k g).mem = s.mem := rfl
@[simp] theorem State.mTable_bus (k : Nat) (g : Table → Table) : (s.mTable k g).bus = s.bus := rfl

@[simp] theorem State.mRt_pending (k : Nat) (g : TableRt → TableRt) : (s.mRt k g).pending = s.pending := rfl
@[simp] theorem State.mRt_dev (k : Nat) (g : TableRt → TableRt) : (s.mRt k g).dev = s.dev := rfl
@[simp] theorem State.mRt_time (k : Nat) (g : TableRt → TableRt) : (s.mRt k g).time = s.time := rfl
@[simp] theorem State.mRt_pins (k : Nat) (g : TableRt → TableRt) : (s.mRt k g).pins = s.pins := rfl
@[simp] theorem State.mRt_fuses (k : Nat) (g : TableRt → TableRt) : (s.mRt k g).fuses = s.fuses := rfl
@[simp] theorem State.mRt_img (k : Nat) (g : TableRt → TableRt) : (s.mRt k g).img = s.img := rfl
@[simp] theorem State.mRt_boot (k : Nat) (g : TableRt → TableRt) : (s.mRt k g).boot = s.boot := rfl
@[simp] theorem State.mRt_warden (k : Nat) (g : TableRt → TableRt) : (s.mRt k g).warden = s.warden := rfl
@[simp] theorem State.mRt_tck (k : Nat) (g : TableRt → TableRt) : (s.mRt k g).tck = s.tck := rfl
@[simp] theorem State.mRt_cvn (k : Nat) (g : TableRt → TableRt) : (s.mRt k g).cvn = s.cvn := rfl
@[simp] theorem State.mRt_ldg (k : Nat) (g : TableRt → TableRt) : (s.mRt k g).ldg = s.ldg := rfl
@[simp] theorem State.mRt_stk (k : Nat) (g : TableRt → TableRt) : (s.mRt k g).stk = s.stk := rfl
@[simp] theorem State.mRt_fns (k : Nat) (g : TableRt → TableRt) : (s.mRt k g).fns = s.fns := rfl
@[simp] theorem State.mRt_logs (k : Nat) (g : TableRt → TableRt) : (s.mRt k g).logs = s.logs := rfl
@[simp] theorem State.mRt_tally (k : Nat) (g : TableRt → TableRt) : (s.mRt k g).tally = { s.tally with rt := mapMod s.tally.rt k {} g } := rfl
@[simp] theorem State.mRt_serais (k : Nat) (g : TableRt → TableRt) : (s.mRt k g).serais = s.serais := rfl
@[simp] theorem State.mRt_cellar (k : Nat) (g : TableRt → TableRt) : (s.mRt k g).cellar = s.cellar := rfl
@[simp] theorem State.mRt_hearths (k : Nat) (g : TableRt → TableRt) : (s.mRt k g).hearths = s.hearths := rfl
@[simp] theorem State.mRt_sieves (k : Nat) (g : TableRt → TableRt) : (s.mRt k g).sieves = s.sieves := rfl
@[simp] theorem State.mRt_depot (k : Nat) (g : TableRt → TableRt) : (s.mRt k g).depot = s.depot := rfl
@[simp] theorem State.mRt_dampers (k : Nat) (g : TableRt → TableRt) : (s.mRt k g).dampers = s.dampers := rfl
@[simp] theorem State.mRt_drovers (k : Nat) (g : TableRt → TableRt) : (s.mRt k g).drovers = s.drovers := rfl
@[simp] theorem State.mRt_power (k : Nat) (g : TableRt → TableRt) : (s.mRt k g).power = s.power := rfl
@[simp] theorem State.mRt_xlt (k : Nat) (g : TableRt → TableRt) : (s.mRt k g).xlt = s.xlt := rfl
@[simp] theorem State.mRt_routes (k : Nat) (g : TableRt → TableRt) : (s.mRt k g).routes = s.routes := rfl
@[simp] theorem State.mRt_flt (k : Nat) (g : TableRt → TableRt) : (s.mRt k g).flt = s.flt := rfl
@[simp] theorem State.mRt_chm (k : Nat) (g : TableRt → TableRt) : (s.mRt k g).chm = s.chm := rfl
@[simp] theorem State.mRt_bx (k : Nat) (g : TableRt → TableRt) : (s.mRt k g).bx = s.bx := rfl
@[simp] theorem State.mRt_mem (k : Nat) (g : TableRt → TableRt) : (s.mRt k g).mem = s.mem := rfl
@[simp] theorem State.mRt_bus (k : Nat) (g : TableRt → TableRt) : (s.mRt k g).bus = s.bus := rfl

@[simp] theorem State.mPort_pending (k : Nat) (g : RPort → RPort) : (s.mPort k g).pending = s.pending := rfl
@[simp] theorem State.mPort_dev (k : Nat) (g : RPort → RPort) : (s.mPort k g).dev = s.dev := rfl
@[simp] theorem State.mPort_time (k : Nat) (g : RPort → RPort) : (s.mPort k g).time = s.time := rfl
@[simp] theorem State.mPort_pins (k : Nat) (g : RPort → RPort) : (s.mPort k g).pins = s.pins := rfl
@[simp] theorem State.mPort_fuses (k : Nat) (g : RPort → RPort) : (s.mPort k g).fuses = s.fuses := rfl
@[simp] theorem State.mPort_img (k : Nat) (g : RPort → RPort) : (s.mPort k g).img = s.img := rfl
@[simp] theorem State.mPort_boot (k : Nat) (g : RPort → RPort) : (s.mPort k g).boot = s.boot := rfl
@[simp] theorem State.mPort_warden (k : Nat) (g : RPort → RPort) : (s.mPort k g).warden = s.warden := rfl
@[simp] theorem State.mPort_tck (k : Nat) (g : RPort → RPort) : (s.mPort k g).tck = s.tck := rfl
@[simp] theorem State.mPort_cvn (k : Nat) (g : RPort → RPort) : (s.mPort k g).cvn = s.cvn := rfl
@[simp] theorem State.mPort_ldg (k : Nat) (g : RPort → RPort) : (s.mPort k g).ldg = s.ldg := rfl
@[simp] theorem State.mPort_stk (k : Nat) (g : RPort → RPort) : (s.mPort k g).stk = s.stk := rfl
@[simp] theorem State.mPort_fns (k : Nat) (g : RPort → RPort) : (s.mPort k g).fns = s.fns := rfl
@[simp] theorem State.mPort_logs (k : Nat) (g : RPort → RPort) : (s.mPort k g).logs = s.logs := rfl
@[simp] theorem State.mPort_tally (k : Nat) (g : RPort → RPort) : (s.mPort k g).tally = s.tally := rfl
@[simp] theorem State.mPort_serais (k : Nat) (g : RPort → RPort) : (s.mPort k g).serais = s.serais := rfl
@[simp] theorem State.mPort_cellar (k : Nat) (g : RPort → RPort) : (s.mPort k g).cellar = s.cellar := rfl
@[simp] theorem State.mPort_hearths (k : Nat) (g : RPort → RPort) : (s.mPort k g).hearths = s.hearths := rfl
@[simp] theorem State.mPort_sieves (k : Nat) (g : RPort → RPort) : (s.mPort k g).sieves = s.sieves := rfl
@[simp] theorem State.mPort_depot (k : Nat) (g : RPort → RPort) : (s.mPort k g).depot = s.depot := rfl
@[simp] theorem State.mPort_dampers (k : Nat) (g : RPort → RPort) : (s.mPort k g).dampers = s.dampers := rfl
@[simp] theorem State.mPort_drovers (k : Nat) (g : RPort → RPort) : (s.mPort k g).drovers = s.drovers := rfl
@[simp] theorem State.mPort_power (k : Nat) (g : RPort → RPort) : (s.mPort k g).power = s.power := rfl
@[simp] theorem State.mPort_xlt (k : Nat) (g : RPort → RPort) : (s.mPort k g).xlt = s.xlt := rfl
@[simp] theorem State.mPort_routes (k : Nat) (g : RPort → RPort) : (s.mPort k g).routes = { s.routes with ports := mapMod s.routes.ports k {} g } := rfl
@[simp] theorem State.mPort_flt (k : Nat) (g : RPort → RPort) : (s.mPort k g).flt = s.flt := rfl
@[simp] theorem State.mPort_chm (k : Nat) (g : RPort → RPort) : (s.mPort k g).chm = s.chm := rfl
@[simp] theorem State.mPort_bx (k : Nat) (g : RPort → RPort) : (s.mPort k g).bx = s.bx := rfl
@[simp] theorem State.mPort_mem (k : Nat) (g : RPort → RPort) : (s.mPort k g).mem = s.mem := rfl
@[simp] theorem State.mPort_bus (k : Nat) (g : RPort → RPort) : (s.mPort k g).bus = s.bus := rfl

@[simp] theorem State.mPortCnt_pending (k : Nat) (g : RPortCnt → RPortCnt) : (s.mPortCnt k g).pending = s.pending := rfl
@[simp] theorem State.mPortCnt_dev (k : Nat) (g : RPortCnt → RPortCnt) : (s.mPortCnt k g).dev = s.dev := rfl
@[simp] theorem State.mPortCnt_time (k : Nat) (g : RPortCnt → RPortCnt) : (s.mPortCnt k g).time = s.time := rfl
@[simp] theorem State.mPortCnt_pins (k : Nat) (g : RPortCnt → RPortCnt) : (s.mPortCnt k g).pins = s.pins := rfl
@[simp] theorem State.mPortCnt_fuses (k : Nat) (g : RPortCnt → RPortCnt) : (s.mPortCnt k g).fuses = s.fuses := rfl
@[simp] theorem State.mPortCnt_img (k : Nat) (g : RPortCnt → RPortCnt) : (s.mPortCnt k g).img = s.img := rfl
@[simp] theorem State.mPortCnt_boot (k : Nat) (g : RPortCnt → RPortCnt) : (s.mPortCnt k g).boot = s.boot := rfl
@[simp] theorem State.mPortCnt_warden (k : Nat) (g : RPortCnt → RPortCnt) : (s.mPortCnt k g).warden = s.warden := rfl
@[simp] theorem State.mPortCnt_tck (k : Nat) (g : RPortCnt → RPortCnt) : (s.mPortCnt k g).tck = s.tck := rfl
@[simp] theorem State.mPortCnt_cvn (k : Nat) (g : RPortCnt → RPortCnt) : (s.mPortCnt k g).cvn = s.cvn := rfl
@[simp] theorem State.mPortCnt_ldg (k : Nat) (g : RPortCnt → RPortCnt) : (s.mPortCnt k g).ldg = s.ldg := rfl
@[simp] theorem State.mPortCnt_stk (k : Nat) (g : RPortCnt → RPortCnt) : (s.mPortCnt k g).stk = s.stk := rfl
@[simp] theorem State.mPortCnt_fns (k : Nat) (g : RPortCnt → RPortCnt) : (s.mPortCnt k g).fns = s.fns := rfl
@[simp] theorem State.mPortCnt_logs (k : Nat) (g : RPortCnt → RPortCnt) : (s.mPortCnt k g).logs = s.logs := rfl
@[simp] theorem State.mPortCnt_tally (k : Nat) (g : RPortCnt → RPortCnt) : (s.mPortCnt k g).tally = s.tally := rfl
@[simp] theorem State.mPortCnt_serais (k : Nat) (g : RPortCnt → RPortCnt) : (s.mPortCnt k g).serais = s.serais := rfl
@[simp] theorem State.mPortCnt_cellar (k : Nat) (g : RPortCnt → RPortCnt) : (s.mPortCnt k g).cellar = s.cellar := rfl
@[simp] theorem State.mPortCnt_hearths (k : Nat) (g : RPortCnt → RPortCnt) : (s.mPortCnt k g).hearths = s.hearths := rfl
@[simp] theorem State.mPortCnt_sieves (k : Nat) (g : RPortCnt → RPortCnt) : (s.mPortCnt k g).sieves = s.sieves := rfl
@[simp] theorem State.mPortCnt_depot (k : Nat) (g : RPortCnt → RPortCnt) : (s.mPortCnt k g).depot = s.depot := rfl
@[simp] theorem State.mPortCnt_dampers (k : Nat) (g : RPortCnt → RPortCnt) : (s.mPortCnt k g).dampers = s.dampers := rfl
@[simp] theorem State.mPortCnt_drovers (k : Nat) (g : RPortCnt → RPortCnt) : (s.mPortCnt k g).drovers = s.drovers := rfl
@[simp] theorem State.mPortCnt_power (k : Nat) (g : RPortCnt → RPortCnt) : (s.mPortCnt k g).power = s.power := rfl
@[simp] theorem State.mPortCnt_xlt (k : Nat) (g : RPortCnt → RPortCnt) : (s.mPortCnt k g).xlt = s.xlt := rfl
@[simp] theorem State.mPortCnt_routes (k : Nat) (g : RPortCnt → RPortCnt) : (s.mPortCnt k g).routes = { s.routes with cnts := mapMod s.routes.cnts k {} g } := rfl
@[simp] theorem State.mPortCnt_flt (k : Nat) (g : RPortCnt → RPortCnt) : (s.mPortCnt k g).flt = s.flt := rfl
@[simp] theorem State.mPortCnt_chm (k : Nat) (g : RPortCnt → RPortCnt) : (s.mPortCnt k g).chm = s.chm := rfl
@[simp] theorem State.mPortCnt_bx (k : Nat) (g : RPortCnt → RPortCnt) : (s.mPortCnt k g).bx = s.bx := rfl
@[simp] theorem State.mPortCnt_mem (k : Nat) (g : RPortCnt → RPortCnt) : (s.mPortCnt k g).mem = s.mem := rfl
@[simp] theorem State.mPortCnt_bus (k : Nat) (g : RPortCnt → RPortCnt) : (s.mPortCnt k g).bus = s.bus := rfl

end Sys2Proof.Machine
end

