-- ==== Sys2Proof/Laws/Issue.lean ====
section
/-!
SUPPORT. The issue of an instruction: what a fetch changes, and what `State.isaStep` answers at a group whose next instruction is one of the
row's. Every Hearth instruction is read through `isaStep_of_issue` and `isaStep_retires`.
-/
namespace Sys2Proof.Machine

/-! ### Registers -/

theorem Group.sset_eq (g : Group) (n v : Nat) : g.sset n v = g.sput n (BitVec.ofNat 64 v) := rfl

@[simp] theorem Group.sget_eq (g : Group) (n : Nat) : g.sget n = (g.sreg n).toNat := by
  unfold Group.sget Group.sreg; split <;> rfl

@[simp] theorem Group.vat_eq (g : Group) (n t : Nat) : g.vat n t = (g.vreg n t).toNat := rfl

theorem Group.vset_eq (g : Group) (z : Bool) (n : Nat) (f : Nat → Nat) : g.vset z n f = g.vput z n fun t => BitVec.ofNat 32 (f t) := rfl

theorem Issue.b_eq (i : Issue) (t : Nat) : i.b t = (i.laneB t).toNat := by
  unfold Issue.b Issue.laneB Group.opB
  have h : wImm i.w < 2 ^ 32 := by unfold wImm bits; omega
  split
  · simp only [BitVec.toNat_ofNat]; omega
  · split
    · simp [BitVec.toNat_setWidth]
    · rfl

theorem Issue.a_eq (i : Issue) (t : Nat) : i.a t = (i.laneA t).toNat := rfl

theorem toS_toNat (n : Nat) (v : BitVec n) : toS n v.toNat = v.toInt := by
  unfold toS
  rw [BitVec.toInt_eq_toNat_cond, Nat.mod_eq_of_lt v.isLt]
  rcases n with _ | n
  · simp [BitVec.eq_nil v]
  · have : 2 ^ (n + 1) = 2 * 2 ^ n := by rw [pow_succ]; ring
    simp only [Nat.add_sub_cancel]
    split_ifs <;> first | rfl | omega

theorem ofNat_ofS (n : Nat) (v : Int) : BitVec.ofNat n (ofS n v) = BitVec.ofInt n v := by
  apply BitVec.eq_of_toNat_eq
  unfold ofS
  have : (0 : Int) < 2 ^ n := by positivity
  have h1 : 0 ≤ v % 2 ^ n := Int.emod_nonneg _ (by omega)
  have h2 : v % 2 ^ n < 2 ^ n := Int.emod_lt_of_pos _ this
  rw [BitVec.toNat_ofInt, BitVec.toNat_ofNat]
  push_cast
  rw [Nat.mod_eq_of_lt]
  have : ((v % 2 ^ n).toNat : Int) < 2 ^ n := by omega
  exact_mod_cast this

/-! ### What a fetch changes -/

/-- What reading through the Hearth caches without a dirty victim changes: the Hearth's own caches, the Depot and the Chimney's counters. -/
structure FetchFrame (s t : State) : Prop where
  groups : t.hearths.groups = s.hearths.groups
  rest : t = { s with
    hearths := { s.hearths with logical := t.hearths.logical }, depot := t.depot, chm := { s.chm with val := t.chm.val } }

theorem FetchFrame.refl (s : State) : FetchFrame s s := ⟨rfl, rfl⟩

theorem FetchFrame.trans {a b c : State} (h : FetchFrame a b) (k : FetchFrame b c) : FetchFrame a c := by
  obtain ⟨hg, hr⟩ := h
  obtain ⟨kg, kr⟩ := k
  refine ⟨kg.trans hg, ?_⟩
  rw [kr, hr]

theorem count_fetchFrame (s : State) (e n : Nat) (c : Option Nat) (k m : Nat) : FetchFrame s (s.count e n c k m) := ⟨rfl, rfl⟩

theorem touch_fetchFrame (s : State) (c : Option Nat) (k d : Nat) (p : PA) (n : Nat) (w : Bool) : FetchFrame s (s.touch c k d p n w) := by
  unfold State.touch; split <;> exact count_fetchFrame ..

theorem mDepot_fetchFrame (s : State) (f : Depot → Depot) : FetchFrame s (s.mDepot f) := ⟨rfl, rfl⟩

theorem mHearth_fetchFrame (s : State) (h : Nat) (f : Hearth → Hearth) : FetchFrame s (s.mHearth h f) := ⟨rfl, rfl⟩

theorem depotHit_fetchFrame (s : State) (c : Option Nat) (k : Nat) (p : PA) : FetchFrame s (s.depotHit c k p) :=
  (mDepot_fetchFrame s _).trans (count_fetchFrame ..)

theorem depotAlloc_fetchFrame (s : State) (p : PA) (st : Bool) : FetchFrame s (s.depotAlloc p st) := by
  unfold State.depotAlloc
  split
  · split
    · exact mDepot_fetchFrame ..
    · exact FetchFrame.refl _
  · exact mDepot_fetchFrame ..

theorem fillLine_fetchFrame (s : State) (h cid : Nat) (c : Cmd) (p : PA) (i d st : Bool) : FetchFrame s (s.fillLine h cid c p i d st).2 := by
  unfold State.fillLine
  dsimp only
  have h1 := depotHit_fetchFrame s (some c.ctx) c.cls p
  refine h1.trans ?_
  cases d <;> simp only [if_true, Bool.false_eq_true, if_false]
  · split
    · exact FetchFrame.refl _
    · exact touch_fetchFrame ..
  · split
    · exact depotAlloc_fetchFrame ..
    · exact (touch_fetchFrame ..).trans (depotAlloc_fetchFrame ..)

theorem putLine_fetchFrame (s : State) (h : Nat) (l : L1Line) (hl : l.instr = true) : FetchFrame s (s.putLine h l) := by
  unfold State.putLine
  dsimp only
  rw [hl]
  simp only [if_true]
  split
  · exact mHearth_fetchFrame ..
  · split
    · exact mHearth_fetchFrame ..
    · simp only [Bool.not_true, Bool.and_false, Bool.false_eq_true, if_false]; exact mHearth_fetchFrame ..

theorem line?_instr {u : Hearth} {cid : Nat} {i : Bool} {p : PA} {l : L1Line} (h : u.line? cid i p = some l) : l.instr = i := by
  have := List.find?_some h
  simp only [Bool.and_eq_true, beq_iff_eq] at this
  exact this.1.2

theorem l1Line_fetchFrame (s : State) (h cid : Nat) (c : Cmd) (p : PA) : FetchFrame s (s.l1Line h cid c p true).2 := by
  unfold State.l1Line
  split
  · next l hl => exact putLine_fetchFrame s h l (line?_instr hl)
  · exact (fillLine_fetchFrame ..).trans (putLine_fetchFrame _ _ _ rfl)

theorem fetchWord_fetchFrame {s : State} {r : GroupRef} {g : Group} {c : Cmd} {w : Nat} {bad : Bool} {t : State}
    (h : s.fetchWord r g c = some (w, bad, t)) : FetchFrame s t := by
  unfold State.fetchWord at h
  dsimp only at h
  split at h
  · exact absurd h (by simp)
  · split at h
    · exact absurd h (by simp)
    · simp only [Option.some.injEq, Prod.mk.injEq] at h
      rw [← h.2.2]
      exact l1Line_fetchFrame ..

/-! ### The issue -/

theorem canIssue_group {s : State} {r : GroupRef} {g : Group} {c : Cmd} {x : Ctx} (h : s.canIssue r = some (g, c, x)) :
    s.group? r = some g ∧ s.cmd? g.cid = some c ∧ s.ctx? c.ctx = some x ∧ s.live = true := by
  unfold State.canIssue at h
  split at h
  · exact absurd h (by simp)
  · next hl =>
    split at h
    · exact absurd h (by simp)
    · next g' hg =>
      simp only at h
      split at h
      · exact absurd h (by simp)
      · split at h
        · exact absurd h (by simp)
        · next c' hc =>
          split at h
          · exact absurd h (by simp)
          · next x' hx =>
            split at h
            · simp only [Option.some.injEq, Prod.mk.injEq] at h
              obtain ⟨rfl, rfl, rfl⟩ := h
              exact ⟨hg, hc, hx, by simpa using hl⟩
            · exact absurd h (by simp)

/-- What `State.issue?` says, all of it. -/
theorem issue?_cases {s : State} {r : GroupRef} {i : Issue} (h : s.issue? r = some i) :
    ∃ g, s.canIssue r = some (g, i.c, i.x) ∧ s.fetchWord r g i.c = some (i.w, false, i.s) ∧ i.r = r ∧ i.g = { g with pc := g.pc + 8 } ∧
      legal i.w = true ∧ (∀ n ∈ regsOf i.w, n < g.regs * 8) ∧ ((wCls i.w = 10 ∨ wCls i.w = 11) → g.exec = BitVec.allOnes 64) ∧
      (∀ n ∈ regsOf i.w, n ∉ s.trvRegs r) := by
  unfold State.issue? at h
  split at h
  · exact absurd h (by simp)
  · next g c x hc =>
    split at h
    · exact absurd h (by simp)
    · next w bad s1 hf =>
      split at h
      · next hh =>
        simp only [Option.some.injEq] at h
        subst h
        obtain ⟨rfl, h1, h2, h3, h4⟩ := hh
        exact ⟨g, hc, hf, rfl, rfl, h1, h2, h3, h4⟩
      · exact absurd h (by simp)

theorem issue?_frame {s : State} {r : GroupRef} {i : Issue} (h : s.issue? r = some i) : FetchFrame s i.s := by
  obtain ⟨g, -, hf, -⟩ := issue?_cases h
  exact fetchWord_fetchFrame hf

theorem issue?_group {s : State} {r : GroupRef} {i : Issue} (h : s.issue? r = some i) :
    ∃ g, s.group? i.r = some g ∧ i.g = { g with pc := g.pc + 8 } := by
  obtain ⟨g, hc, -, hr, hg, -⟩ := issue?_cases h
  exact ⟨g, hr ▸ (canIssue_group hc).1, hg⟩

/-- The group's slot still holds it after the fetch. -/
theorem issue?_resident {s : State} {r : GroupRef} {i : Issue} (h : s.issue? r = some i) : (mapGet i.s.hearths.groups (gkey i.r)).isSome := by
  obtain ⟨g, hg, -⟩ := issue?_group h
  rw [(issue?_frame h).groups]
  unfold State.group? at hg
  simp [hg]

/-- At a group whose next instruction is one of a row's, the row runs its body. -/
theorem isaStep_of_issue {s : State} {r : GroupRef} {i : Issue} (h : s.issue? r = some i) {codes : List (Nat × Nat)} {body : Issue → Did}
    (hc : codes.contains (wCls i.w, wFunc i.w) = true) :
    ∃ forced : Bool, s.isaStep r codes body =
      match body i with
      | .retire g' s2 => (s2.countIssue i.r i.c forced).retireGroup i.r g'
      | .hold g' s2 => (s2.countIssue i.r i.c forced).mGroup i.r fun _ => { g' with st := if g'.st == .halted then .halted else .stalled }
      | .fault code mask addr level => i.s.groupFault i.r { i.g with pc := i.g.pc - 8 } code mask addr level
      | .wait s2 => s2.stallGroup i.r
      | .gone s2 => s2.countIssue i.r i.c forced := by
  obtain ⟨g, hcan, hf, hr, hg, hl, hregs, hex, htrv⟩ := issue?_cases h
  refine ⟨s.promoted r g, ?_⟩
  unfold State.isaStep
  simp only [hcan, hf, hl, hc]
  have e1 : (regsOf i.w).any (fun n => decide (g.regs * 8 ≤ n)) = false := by
    simp only [List.any_eq_false, decide_eq_true_eq]; intro n hn; have := hregs n hn; omega
  have e2 : ¬((wCls i.w = 10 ∨ wCls i.w = 11) ∧ g.exec ≠ BitVec.allOnes 64) := by
    rintro ⟨a, b⟩; exact b (hex a)
  have e3 : (regsOf i.w).any (fun n => (s.trvRegs r).contains n) = false := by
    simp only [List.any_eq_false]; intro n hn; have := htrv n hn; simpa using this
  have e4 : ({ r := r, g := { g with pc := g.pc + 8 }, c := i.c, x := i.x, w := i.w, s := i.s } : Issue) = i := by
    rw [← hr, ← hg]
  have e5 : ({ i.g with pc := i.g.pc - 8 } : Group) = g := by rw [hg]; simp
  simp only [e1, e2, e3, e4, Bool.not_true, Bool.false_eq_true, if_false]
  rw [hr, e5]
  try (cases body i <;> rfl)

/-- Issuing and retiring: everything that the bookkeeping around a body changes. -/
theorem retired_of (i : Issue) (u : State) (g : Group) (forced : Bool) (hu : (mapGet u.hearths.groups (gkey i.r)).isSome) :
    i.Retired u g ((u.countIssue i.r i.c forced).retireGroup i.r g) := by
  obtain ⟨g0, hg0⟩ := Option.isSome_iff_exists.mp hu
  have key : ∀ v : State, v.hearths = (u.countIssue i.r i.c forced).hearths → v.time = u.time →
      v.chm = { u.chm with val := v.chm.val } → (g.stepping = false → v.stk = u.stk) →
      v = { u with hearths := { u.hearths with logical := v.hearths.logical, groups := v.hearths.groups },
                   chm := { u.chm with val := v.chm.val }, stk := { u.stk with cmds := v.stk.cmds } } →
      ∀ G : Group, G = { g with
        st := if g.stepping || g.st == .halted then .halted else .ready, stepping := false, readyAt := v.time
        haltedAt := if g.stepping then v.time else g.haltedAt } → i.Retired u g (v.mGroup i.r fun _ => G) := by
    intro v hh ht hchm hs hr G hG
    have hl : ∀ h, v.hearth h = (u.countIssue i.r i.c forced).hearth h := fun h => by unfold State.hearth; rw [hh]
    have hgr : v.hearths.groups = u.hearths.groups := by rw [hh]; rfl
    refine ⟨?_, ?_, ?_, ?_, ?_, ?_⟩
    · unfold State.group? State.mGroup
      simp only [State.mHearths_hearths, mapGet_mapAdj_self, hgr, hg0, Option.map_some, hG, ht]
    · intro k hk
      unfold State.mGroup
      simp only [State.mHearths_hearths]
      rw [mapGet_mapAdj_of_ne _ _ hk, hgr]
    · refine ⟨if forced then (u.hearth i.r.hearth).promoted + 1 else (u.hearth i.r.hearth).promoted, ?_, ?_⟩
      · cases forced <;> simp
      · show v.hearth i.r.hearth = _
        rw [hl]
        unfold State.countIssue State.count State.hearth State.mHearth
        simp only [State.mChm_hearths, State.mHearths_hearths, mapGetD_mapMod_self]
    · intro h hne
      show v.hearth h = _
      rw [hl]
      unfold State.countIssue State.count State.hearth State.mHearth
      simp only [State.mChm_hearths, State.mHearths_hearths, mapGetD_mapMod_of_ne _ _ _ hne]
    · intro hst
      exact hs hst
    · conv_lhs => unfold State.mGroup State.mHearths
      conv_lhs => rw [hr]
      rfl
  unfold State.retireGroup State.stepDone Group.rest
  cases hst : g.stepping
  · simpa [hst] using key (u.countIssue i.r i.c forced) rfl rfl rfl (fun _ => rfl) rfl _ rfl
  · cases hsc : (u.countIssue i.r i.c forced).stepCmd g
    · simpa [hst, hsc] using key (u.countIssue i.r i.c forced) rfl rfl rfl (fun _ => rfl) rfl _ rfl
    · simpa [hst, hsc] using key ((u.countIssue i.r i.c forced).mCmd _ _) rfl rfl rfl (by simp [hst]) rfl _ rfl

/-- Issuing without retiring: everything that the bookkeeping around a body changes. -/
theorem held_of (i : Issue) (u : State) (g : Group) (forced : Bool) (hu : (mapGet u.hearths.groups (gkey i.r)).isSome) :
    i.Held u g ((u.countIssue i.r i.c forced).mGroup i.r fun _ => { g with st := if g.st == .halted then .halted else .stalled }) := by
  obtain ⟨g0, hg0⟩ := Option.isSome_iff_exists.mp hu
  have hgr : (u.countIssue i.r i.c forced).hearths.groups = u.hearths.groups := rfl
  refine ⟨?_, ?_, ?_, ?_, rfl⟩
  · unfold State.group? State.mGroup
    simp only [State.mHearths_hearths, mapGet_mapAdj_self, hgr, hg0, Option.map_some]
  · intro k hk
    unfold State.mGroup
    simp only [State.mHearths_hearths]
    rw [mapGet_mapAdj_of_ne _ _ hk, hgr]
  · refine ⟨if forced then (u.hearth i.r.hearth).promoted + 1 else (u.hearth i.r.hearth).promoted, ?_, ?_⟩
    · cases forced <;> simp
    · unfold State.mGroup State.countIssue State.count State.hearth State.mHearth
      simp only [State.mChm_hearths, State.mHearths_hearths, mapGetD_mapMod_self]
  · intro h hne
    unfold State.mGroup State.countIssue State.count State.hearth State.mHearth
    simp only [State.mChm_hearths, State.mHearths_hearths, mapGetD_mapMod_of_ne _ _ _ hne]

/-- At a group whose next instruction is one of a row's and whose body retires, keeping the groups of the state, the row answers what `Retired`
says. -/
theorem isaStep_retires {s : State} {r : GroupRef} {i : Issue} (h : s.issue? r = some i) {codes : List (Nat × Nat)} {body : Issue → Did}
    (hc : codes.contains (wCls i.w, wFunc i.w) = true) {g : Group} {u : State} (hb : body i = .retire g u)
    (hu : u.hearths.groups = i.s.hearths.groups) : i.Retired u g (s.isaStep r codes body) := by
  obtain ⟨forced, e⟩ := isaStep_of_issue h (body := body) hc
  rw [e, hb]
  exact retired_of i u g forced (by rw [hu]; exact issue?_resident h)

/-- At a group whose next instruction is one of a row's and whose body holds it, keeping the groups of the state, the row answers what `Held`
says. -/
theorem isaStep_holds {s : State} {r : GroupRef} {i : Issue} (h : s.issue? r = some i) {codes : List (Nat × Nat)} {body : Issue → Did}
    (hc : codes.contains (wCls i.w, wFunc i.w) = true) {g : Group} {u : State} (hb : body i = .hold g u)
    (hu : u.hearths.groups = i.s.hearths.groups) : i.Held u g (s.isaStep r codes body) := by
  obtain ⟨forced, e⟩ := isaStep_of_issue h (body := body) hc
  rw [e, hb]
  exact held_of i u g forced (by rw [hu]; exact issue?_resident h)

end Sys2Proof.Machine
end

