-- ==== Sys2Proof/Laws/HearthFrame.lean ====
section
/-!
SUPPORT. The frame of memory accesses of a Hearth: every operation of Machine/HearthMemory.lean and Machine/IsaMem.lean below the
bodies of the instructions changes only what `State.MemFrame` names.
-/
namespace Sys2Proof.Machine

theorem State.MemFrame.refl (s : State) : s.MemFrame s := ⟨fun _ => rfl, rfl⟩

theorem State.MemFrame.trans {a b c : State} (h : a.MemFrame b) (k : b.MemFrame c) : a.MemFrame c where
  hearth := fun n => by rw [k.hearth n, h.hearth n]
  rest := by rw [k.rest, h.rest]

theorem State.MemFrame.groups {s t : State} (h : s.MemFrame t) : t.hearths.groups = s.hearths.groups := by rw [h.rest]

theorem State.MemFrame.of_eq {s t : State} (hh : t.hearths = s.hearths)
    (hr : t = { s with
      xlt := { s.xlt with
        walks := t.xlt.walks, atsReqs := t.xlt.atsReqs, stc0 := t.xlt.stc0, stc1 := t.xlt.stc1, wc0 := t.xlt.wc0, wc1 := t.xlt.wc1 }
      depot := t.depot, mem := t.mem, chm := { s.chm with val := t.chm.val } }) : s.MemFrame t where
  hearth := fun h => by unfold State.hearth; rw [hh]
  rest := by rw [hh]; exact hr

theorem mDepot_memFrame (s : State) (f : Depot → Depot) : s.MemFrame (s.mDepot f) := .of_eq rfl rfl

theorem mMem_memFrame (s : State) (f : Mem → Mem) : s.MemFrame (s.mMem f) := .of_eq rfl rfl

theorem count_memFrame (s : State) (e n : Nat) (c : Option Nat) (k m : Nat) : s.MemFrame (s.count e n c k m) := .of_eq rfl rfl

theorem mHearth_memFrame (s : State) (h : Nat) (f : Hearth → Hearth)
    (hf : ∀ u, f u = { u with l1 := (f u).l1, wc := (f u).wc, tlb := (f u).tlb }) : s.MemFrame (s.mHearth h f) where
  hearth := fun n => by
    by_cases hn : n = h
    · subst hn; simp only [State.hearth, State.mHearth, State.mHearths_hearths, mapGetD_mapMod_self]; exact hf _
    · simp only [State.hearth, State.mHearth, State.mHearths_hearths, mapGetD_mapMod_of_ne _ _ _ hn]
  rest := rfl

theorem foldl_memFrame {α : Type} (f : State → α → State) (hf : ∀ (s : State) (x : α), s.MemFrame (f s x)) (l : List α) (s : State) :
    s.MemFrame (l.foldl f s) := by
  induction l generalizing s with
  | nil => exact .refl s
  | cons x t ih => exact (hf s x).trans (ih _)

theorem memWrite_memFrame (s : State) (p : PA) (bs : List Byte) (z : Bool) : s.MemFrame (s.memWrite p bs z) := mMem_memFrame ..

theorem touch_memFrame (s : State) (c : Option Nat) (k d : Nat) (p : PA) (n : Nat) (w : Bool) : s.MemFrame (s.touch c k d p n w) := by
  unfold State.touch; split <;> exact count_memFrame ..

theorem depotHit_memFrame (s : State) (c : Option Nat) (k : Nat) (p : PA) : s.MemFrame (s.depotHit c k p) :=
  (mDepot_memFrame s _).trans (count_memFrame ..)

theorem depotAlloc_memFrame (s : State) (p : PA) (st : Bool) : s.MemFrame (s.depotAlloc p st) := by
  unfold State.depotAlloc
  split
  · split <;> [exact mDepot_memFrame ..; exact .refl _]
  · exact mDepot_memFrame ..

theorem storeCommitted_memFrame (s : State) (c : Option Nat) (a : Nat × List Byte) (sp : Space) (t z w : Bool) :
    s.MemFrame (s.storeCommitted c a sp t z w) := by
  unfold State.storeCommitted
  dsimp only
  split
  · exact ((depotAlloc_memFrame s _ w).trans (mDepot_memFrame _ _)).trans (memWrite_memFrame ..)
  · exact (depotAlloc_memFrame s _ w).trans (mDepot_memFrame _ _)

theorem store_memFrame (s : State) (u : CUnit) (c : Option Nat) (attr : Nat) (p : PA) (bs : List Byte) (a z : Bool) :
    s.MemFrame (s.store u c attr p bs a z) := by
  unfold State.store
  split
  · exact memWrite_memFrame ..
  · split
    · exact foldl_memFrame _ (fun s x => by unfold State.storeProv; exact mDepot_memFrame ..) _ _
    · exact foldl_memFrame _ (fun s x => storeCommitted_memFrame ..) _ _

theorem fillLine_memFrame (s : State) (h cid : Nat) (c : Cmd) (p : PA) (i d st : Bool) : s.MemFrame (s.fillLine h cid c p i d st).2 := by
  unfold State.fillLine
  dsimp only
  refine (depotHit_memFrame s (some c.ctx) c.cls p).trans ?_
  cases d <;> simp only [if_true, Bool.false_eq_true, if_false]
  · split
    · exact .refl _
    · exact touch_memFrame ..
  · split
    · exact depotAlloc_memFrame ..
    · exact (touch_memFrame ..).trans (depotAlloc_memFrame ..)

theorem writeLine_memFrame (s : State) (l : L1Line) : s.MemFrame (s.writeLine l) :=
  foldl_memFrame _ (fun _ _ => store_memFrame ..) _ _

theorem putLine_memFrame (s : State) (h : Nat) (l : L1Line) : s.MemFrame (s.putLine h l) := by
  unfold State.putLine
  dsimp only
  generalize (if l.instr = true then (2 : Nat) else 4) = ways
  split
  · exact mHearth_memFrame _ _ _ fun _ => rfl
  · split
    · exact mHearth_memFrame _ _ _ fun _ => rfl
    · refine State.MemFrame.trans ?_ (mHearth_memFrame _ _ _ fun _ => rfl)
      split
      · exact writeLine_memFrame ..
      · exact .refl _

theorem l1Line_memFrame (s : State) (h cid : Nat) (c : Cmd) (p : PA) (i : Bool) : s.MemFrame (s.l1Line h cid c p i).2 := by
  unfold State.l1Line
  split
  · exact putLine_memFrame ..
  · exact (fillLine_memFrame ..).trans (putLine_memFrame ..)

theorem dropLine_memFrame (s : State) (h cid : Nat) (p : PA) : s.MemFrame (s.dropLine h cid p) := by
  unfold State.dropLine
  split
  · exact .refl _
  · exact (writeLine_memFrame ..).trans (mHearth_memFrame _ _ _ fun _ => rfl)

theorem flushL1_memFrame (s : State) (h cid : Nat) : s.MemFrame (s.flushL1 h cid) :=
  (foldl_memFrame _ writeLine_memFrame _ _).trans (mHearth_memFrame _ _ _ fun _ => rfl)

theorem drainWc_memFrame (s : State) (e : WcEntry) : s.MemFrame (s.drainWc e) := foldl_memFrame _ (fun _ _ => memWrite_memFrame ..) _ _

theorem drainWcWhere_memFrame (s : State) (h : Nat) (p : WcEntry → Bool) : s.MemFrame (s.drainWcWhere h p) :=
  (foldl_memFrame _ drainWc_memFrame _ _).trans (mHearth_memFrame _ _ _ fun _ => rfl)

theorem wcPiece_memFrame (s : State) (g : GroupRef) (cid : Nat) (sp : Space) (a : Nat × List Byte) : s.MemFrame (s.wcPiece g cid sp a) := by
  unfold State.wcPiece
  dsimp only
  refine State.MemFrame.trans ?_ (drainWcWhere_memFrame ..)
  split
  · exact mHearth_memFrame _ _ _ fun _ => rfl
  · refine State.MemFrame.trans ?_ (mHearth_memFrame _ _ _ fun _ => rfl)
    split
    · split
      · exact (drainWc_memFrame ..).trans (mHearth_memFrame _ _ _ fun _ => rfl)
      · exact .refl _
    · exact .refl _

theorem load_memFrame (s : State) (g : GroupRef) (cid : Nat) (c : Cmd) (attr ch : Nat) (p : PA) (n : Nat) :
    s.MemFrame (s.load g cid c attr ch p n).st := by
  unfold State.load
  dsimp only
  split
  · exact (drainWcWhere_memFrame ..).trans (touch_memFrame ..)
  · split
    · exact fillLine_memFrame s g.hearth cid c p false (ch != 2) true
    · split
      · exact putLine_memFrame ..
      · split
        · exact l1Line_memFrame ..
        · exact fillLine_memFrame s g.hearth cid c p false (ch == 1) false

theorem storeBelow_memFrame (s : State) (cid : Nat) (c : Cmd) (attr ch : Nat) (p : PA) (bs : List Byte) :
    s.MemFrame (s.storeBelow cid c attr ch p bs) := by
  unfold State.storeBelow
  split
  · exact memWrite_memFrame ..
  · exact store_memFrame ..

theorem hstore_memFrame (s : State) (g : GroupRef) (cid : Nat) (c : Cmd) (attr ch : Nat) (p : PA) (bs : List Byte) :
    s.MemFrame (s.hstore g cid c attr ch p bs) := by
  unfold State.hstore
  dsimp only
  split
  · split
    · exact putLine_memFrame ..
    · split
      · exact (l1Line_memFrame ..).trans (putLine_memFrame ..)
      · exact storeBelow_memFrame ..
  · refine State.MemFrame.trans ?_ (storeBelow_memFrame ..)
    split
    · exact putLine_memFrame ..
    · exact .refl _
  · exact (touch_memFrame ..).trans (wcPiece_memFrame ..)
  · exact (touch_memFrame ..).trans (memWrite_memFrame ..)
  · exact storeBelow_memFrame ..

theorem noWait_memFrame (s : State) (r : GroupRef) : s.MemFrame (s.noWait r) := mDepot_memFrame ..

theorem dropCommitted_memFrame (s : State) (p : PA) : s.MemFrame (s.dropCommitted p) := by
  unfold State.dropCommitted
  split
  · exact .refl _
  · refine State.MemFrame.trans ?_ (mDepot_memFrame ..)
    split
    · exact memWrite_memFrame ..
    · exact .refl _

theorem cleanCtx_memFrame (s : State) (ctx : Nat) : s.MemFrame (s.cleanCtx ctx) := foldl_memFrame _ (fun _ _ => dropCommitted_memFrame ..) _ _

/-! ### Translation -/

theorem mXlt_memFrame (s : State) (f : Xlt → Xlt) (hf : ∀ x, f x = { x with
      walks := (f x).walks, atsReqs := (f x).atsReqs, stc0 := (f x).stc0, stc1 := (f x).stc1, wc0 := (f x).wc0, wc1 := (f x).wc1 }) :
    s.MemFrame (s.mXlt f) where
  hearth := fun _ => rfl
  rest := by
    have := hf s.xlt
    show ({ s with xlt := f s.xlt } : State) = _
    conv_lhs => rw [this]
    rfl

theorem keepWalk_memFrame (s : State) (d : Nat) (c : Ctx) (da : Nat) : s.MemFrame (s.keepWalk d c da) := by
  unfold State.keepWalk
  split
  · exact .refl _
  · exact mXlt_memFrame _ _ fun x => by dsimp only; split <;> rfl

theorem countWalks_memFrame (s : State) (d : Nat) (c : Ctx) (set : List PageTr) : s.MemFrame (s.countWalks d c set) := by
  unfold State.countWalks
  exact (mXlt_memFrame s (fun x => { x with
    walks := x.walks + BitVec.ofNat 64 set.length
    atsReqs := x.atsReqs + BitVec.ofNat 64 (set.filter (·.space != .stack)).length }) fun _ => rfl).trans
    (foldl_memFrame _ (fun _ _ => keepWalk_memFrame ..) _ _)

theorem putStc_memFrame (s : State) (d c : Nat) (t : PageTr) : s.MemFrame (s.putStc d c t) :=
  mXlt_memFrame _ _ fun x => by unfold Xlt.setStc; split <;> rfl

theorem putTlb_memFrame (s : State) (h c : Nat) (t : PageTr) : s.MemFrame (s.putTlb h c t) := mHearth_memFrame _ _ _ fun _ => rfl

theorem runTr_memFrame (s : State) (h ctx : Nat) (c : Ctx) (da : Nat) : s.MemFrame (s.runTr h ctx c da).2 := by
  unfold State.runTr
  split
  · exact .refl _
  · split
    · exact .refl _
    · split
      · exact putTlb_memFrame ..
      · split
        · exact mXlt_memFrame s (fun x => { x with walks := x.walks + 1 }) fun _ => rfl
        · exact ((countWalks_memFrame ..).trans (putStc_memFrame ..)).trans (putTlb_memFrame ..)

theorem accsAdd_memFrame (a : Accs) (i : Issue) (w at? : Bool) (n t da : Nat) : a.st.MemFrame (a.add i w at? n t da).st := by
  unfold Accs.add
  split
  · exact .refl _
  · dsimp only
    split
    · exact runTr_memFrame ..
    · split
      · exact runTr_memFrame ..
      · split <;> exact runTr_memFrame ..

theorem accs_memFrame (i : Issue) (w at? : Bool) (n : Nat) (offs : Int) : i.s.MemFrame (i.accs w at? n offs).st := by
  unfold Issue.accs
  suffices h : ∀ (l : List Nat) (a : Accs), a.st.MemFrame (l.foldl (fun a t => a.add i w at? n t (i.g.addr i.w t offs)) a).st from
    h i.g.active { st := i.s }
  intro l
  induction l with
  | nil => exact fun a => .refl _
  | cons x t ih => exact fun a => (accsAdd_memFrame a i w at? n x _).trans (ih _)

theorem loadAll_memFrame (i : Issue) (n ch : Nat) (l : List Acc) (s : State) : s.MemFrame (s.loadAll i n ch l).2.2 := by
  induction l generalizing s with
  | nil => exact .refl _
  | cons a t ih => exact (load_memFrame ..).trans (ih _)

theorem atomicOne_memFrame (s : State) (i : Issue) (f : Nat → Nat → Nat → Nat) (n : Nat) (a : Acc) : s.MemFrame (s.atomicOne i f n a).2.2.2 := by
  unfold State.atomicOne
  dsimp only
  split
  · exact (dropLine_memFrame ..).trans (depotHit_memFrame ..)
  · exact ((dropLine_memFrame ..).trans (depotHit_memFrame ..)).trans (store_memFrame ..)

theorem atomicAll_memFrame (i : Issue) (f : Nat → Nat → Nat → Nat) (n : Nat) (l : List Acc) (s : State) :
    s.MemFrame (s.atomicAll i f n l).2.2.2 := by
  induction l generalizing s with
  | nil => exact .refl _
  | cons a t ih => exact (atomicOne_memFrame ..).trans (ih _)

theorem prefetch_memFrame (s : State) (i : Issue) (a : Acc) : s.MemFrame (s.prefetch i a) := by
  unfold State.prefetch
  dsimp only
  split
  · exact .refl _
  · split
    · exact fillLine_memFrame ..
    · exact l1Line_memFrame ..

/-- A fetch changes what a memory access may. -/
theorem issue?_memFrame {s : State} {r : GroupRef} {i : Issue} (h : s.issue? r = some i) : s.MemFrame i.s := by
  obtain ⟨g, -, hf, -⟩ := issue?_cases h
  unfold State.fetchWord at hf
  dsimp only at hf
  split at hf
  · exact absurd hf (by simp)
  · split at hf
    · exact absurd hf (by simp)
    · simp only [Option.some.injEq, Prod.mk.injEq] at hf
      rw [← hf.2.2]
      exact l1Line_memFrame ..

/-! ### What leaves memory as it is -/

theorem foldl_mem {α : Type} (f : State → α → State) (hf : ∀ (s : State) (x : α), (f s x).mem = s.mem) (l : List α) (s : State) :
    (l.foldl f s).mem = s.mem := by
  induction l generalizing s with
  | nil => rfl
  | cons x t ih => exact (ih _).trans (hf s x)

@[simp] theorem count_mem (s : State) (e n : Nat) (c : Option Nat) (k m : Nat) : (s.count e n c k m).mem = s.mem := rfl

@[simp] theorem touch_mem (s : State) (c : Option Nat) (k d : Nat) (p : PA) (n : Nat) (w : Bool) : (s.touch c k d p n w).mem = s.mem := by
  unfold State.touch; split <;> rfl

@[simp] theorem depotHit_mem (s : State) (c : Option Nat) (k : Nat) (p : PA) : (s.depotHit c k p).mem = s.mem := rfl

@[simp] theorem depotAlloc_mem (s : State) (p : PA) (st : Bool) : (s.depotAlloc p st).mem = s.mem := by
  unfold State.depotAlloc; split <;> [(split <;> rfl); rfl]

/-- A store of attribute WB or STREAM stays above memory. -/
theorem store_mem (s : State) (u : CUnit) (c : Option Nat) (attr : Nat) (p : PA) (bs : List Byte) (a z : Bool) (h : attr = 0 ∨ attr = 4) :
    (s.store u c attr p bs a z).mem = s.mem := by
  unfold State.store
  rw [if_neg (by omega)]
  have h1 : (attr == 1) = false := by rcases h with rfl | rfl <;> rfl
  split
  · exact foldl_mem _ (fun s x => by unfold State.storeProv; rfl) _ _
  · refine foldl_mem _ (fun s x => ?_) _ _
    simp only [State.storeCommitted, h1, Bool.false_eq_true, if_false]
    exact depotAlloc_mem ..

@[simp] theorem writeLine_mem (s : State) (l : L1Line) : (s.writeLine l).mem = s.mem :=
  foldl_mem _ (fun s _ => store_mem s _ _ 0 _ _ _ _ (.inl rfl)) _ _

@[simp] theorem putLine_mem (s : State) (h : Nat) (l : L1Line) : (s.putLine h l).mem = s.mem := by
  unfold State.putLine
  dsimp only
  generalize (if l.instr = true then (2 : Nat) else 4) = ways
  split
  · rfl
  · split
    · rfl
    · show (ite _ _ _ : State).mem = s.mem
      split <;> [exact writeLine_mem ..; rfl]

@[simp] theorem fillLine_mem (s : State) (h cid : Nat) (c : Cmd) (p : PA) (i d st : Bool) : (s.fillLine h cid c p i d st).2.mem = s.mem := by
  unfold State.fillLine
  dsimp only
  cases d <;> simp only [if_true, Bool.false_eq_true, if_false, depotAlloc_mem] <;> split <;> simp

@[simp] theorem l1Line_mem (s : State) (h cid : Nat) (c : Cmd) (p : PA) (i : Bool) : (s.l1Line h cid c p i).2.mem = s.mem := by
  unfold State.l1Line; split <;> simp

@[simp] theorem prefetch_mem (s : State) (i : Issue) (a : Acc) : (s.prefetch i a).mem = s.mem := by
  unfold State.prefetch
  dsimp only
  split
  · rfl
  · split
    · exact fillLine_mem s _ _ _ _ false true _
    · exact l1Line_mem ..

@[simp] theorem keepWalk_mem (s : State) (d : Nat) (c : Ctx) (da : Nat) : (s.keepWalk d c da).mem = s.mem := by
  unfold State.keepWalk; split <;> rfl

@[simp] theorem countWalks_mem (s : State) (d : Nat) (c : Ctx) (set : List PageTr) : (s.countWalks d c set).mem = s.mem := by
  unfold State.countWalks; exact (foldl_mem _ (fun _ _ => keepWalk_mem ..) _ _).trans rfl

@[simp] theorem runTr_mem (s : State) (h ctx : Nat) (c : Ctx) (da : Nat) : (s.runTr h ctx c da).2.mem = s.mem := by
  unfold State.runTr
  split
  · rfl
  · split
    · rfl
    · split
      · rfl
      · split
        · rfl
        · exact countWalks_mem ..

@[simp] theorem accs_mem (i : Issue) (w at? : Bool) (n : Nat) (offs : Int) : (i.accs w at? n offs).st.mem = i.s.mem := by
  unfold Issue.accs
  suffices h : ∀ (l : List Nat) (a : Accs), (l.foldl (fun a t => a.add i w at? n t (i.g.addr i.w t offs)) a).st.mem = a.st.mem from
    h i.g.active { st := i.s }
  intro l
  induction l with
  | nil => exact fun a => rfl
  | cons x t ih =>
    intro a
    refine (ih _).trans ?_
    show (a.add i w at? n x _).st.mem = a.st.mem
    unfold Accs.add
    split
    · rfl
    · dsimp only
      split
      · exact runTr_mem ..
      · split
        · exact runTr_mem ..
        · split <;> exact runTr_mem ..

end Sys2Proof.Machine
end

