-- ==== Sys2Proof/Laws/Memory.lean ====
section
/-!
SUPPORT. Memory cells: what a byte reads as after a write, and that every operation keeps the canonical form.
-/
namespace Sys2Proof.Machine

/-- Addresses of a list all lie above a bound. -/
theorem pairwise_cons_lt {a : Nat} {b : Byte} {t : List Host.Cell} :
    ((((a, b) :: t).map (·.1)).Pairwise (· < ·)) ↔ (∀ p ∈ t, a < p.1) ∧ (t.map (·.1)).Pairwise (· < ·) := by
  simp [List.pairwise_cons]

/-- The canonical form, unfolded. -/
theorem cellsWf_iff (m : List Host.Cell) :
    cellsWf m = true ↔ (m.map (·.1)).Pairwise (· < ·) ∧ ∀ p ∈ m, p.2 ≠ 0 := by
  simp [cellsWf]

/-- The canonical form of a list with a first entry. -/
theorem cellsWf_cons (a : Nat) (b : Byte) (t : List Host.Cell) :
    cellsWf ((a, b) :: t) = true ↔ (∀ p ∈ t, a < p.1) ∧ b ≠ 0 ∧ cellsWf t = true := by
  simp only [cellsWf_iff, pairwise_cons_lt, List.mem_cons, forall_eq_or_imp]
  tauto

@[simp] theorem cellsWf_nil : cellsWf [] = true := rfl

/-- The addresses of a list after one write are old ones or the written one. -/
theorem mem_cellSet {m : List Host.Cell} {k : Nat} {b : Byte} {p : Host.Cell} (h : p ∈ cellSet m k b) :
    p ∈ m ∨ (p.1 = k ∧ p.2 = b ∧ b ≠ 0) := by
  induction m with
  | nil => by_cases hb : b = 0 <;> simp_all [cellSet]
  | cons q t ih =>
    obtain ⟨a, c⟩ := q
    simp only [cellSet] at h
    split_ifs at h with h1 h2 h3 h4
    · exact .inl h
    · rcases List.mem_cons.1 h with rfl | h
      · exact .inr ⟨rfl, rfl, h2⟩
      · exact .inl h
    · exact .inl (List.mem_cons_of_mem _ h)
    · rcases List.mem_cons.1 h with rfl | h
      · exact .inr ⟨rfl, rfl, h4⟩
      · exact .inl (List.mem_cons_of_mem _ h)
    · rcases List.mem_cons.1 h with rfl | h
      · exact .inl List.mem_cons_self
      · rcases ih h with h | h
        · exact .inl (List.mem_cons_of_mem _ h)
        · exact .inr h

/-- One write keeps the canonical form. -/
theorem cellSet_wf {m : List Host.Cell} (k : Nat) (b : Byte) (h : cellsWf m = true) : cellsWf (cellSet m k b) = true := by
  induction m with
  | nil => by_cases hb : b = 0 <;> simp_all [cellSet, cellsWf_cons]
  | cons q t ih =>
    obtain ⟨a, c⟩ := q
    rw [cellsWf_cons] at h
    obtain ⟨h1, h2, h3⟩ := h
    simp only [cellSet]
    split_ifs with g1 g2 g3 g4
    · exact (cellsWf_cons ..).2 ⟨h1, h2, h3⟩
    · refine (cellsWf_cons ..).2 ⟨?_, g2, (cellsWf_cons ..).2 ⟨h1, h2, h3⟩⟩
      intro p hp
      rcases List.mem_cons.1 hp with rfl | hp
      · exact g1
      · exact lt_trans g1 (h1 p hp)
    · exact h3
    · subst g3; exact (cellsWf_cons ..).2 ⟨h1, g4, h3⟩
    · refine (cellsWf_cons ..).2 ⟨?_, h2, ih h3⟩
      intro p hp
      rcases mem_cellSet hp with hp | ⟨hp, -, -⟩
      · exact h1 p hp
      · omega

/-- Writing bytes keeps the canonical form. -/
theorem cellsSet_wf {m : List Host.Cell} (a : Nat) (bs : List Byte) (h : cellsWf m = true) : cellsWf (cellsSet m a bs) = true := by
  induction bs generalizing m a with
  | nil => exact h
  | cons b t ih => exact ih _ (cellSet_wf a b h)

/-- Leaving entries out keeps the canonical form. -/
theorem cellsWf_filter {m : List Host.Cell} (p : Host.Cell → Bool) (h : cellsWf m = true) : cellsWf (m.filter p) = true := by
  rw [cellsWf_iff] at *
  exact ⟨h.1.sublist ((List.filter_sublist (l := m)).map _), fun q hq => h.2 q (List.mem_filter.1 hq).1⟩

/-- An erased range of the flash keeps the canonical form. -/
theorem flashErase_wf {q : List Host.Cell} (a n : Nat) (h : cellsWf q = true) : cellsWf (flashErase q a n) = true :=
  cellsWf_filter _ h

/-- A written slot keeps the canonical form. -/
theorem writeSlot_wf {q : List Host.Cell} (image : Bool) (len : Nat) (h : cellsWf q = true) : cellsWf (writeSlot q image len) = true :=
  cellsSet_wf _ _ (cellsSet_wf _ _ (flashErase_wf _ _ h))

/-- A byte at an address below every entry reads 0. -/
theorem cellGet_below {m : List Host.Cell} {k : Nat} (h : ∀ p ∈ m, k < p.1) : cellGet m k = 0 := by
  induction m with
  | nil => rfl
  | cons q t ih =>
    obtain ⟨a, c⟩ := q
    have := h (a, c) List.mem_cons_self
    simp only [cellGet]
    rw [if_neg (by simpa using (Nat.ne_of_gt this))]
    exact ih fun p hp => h p (List.mem_cons_of_mem _ hp)

/-- What a byte reads as after one write. -/
theorem cellGet_cellSet {m : List Host.Cell} (k j : Nat) (b : Byte) (h : cellsWf m = true) :
    cellGet (cellSet m k b) j = if j = k then b else cellGet m j := by
  induction m with
  | nil =>
    simp only [cellSet]
    split_ifs with h1 h2 h2 <;> simp_all [cellGet]
    intro h; exact absurd h.symm h2
  | cons q t ih =>
    obtain ⟨a, c⟩ := q
    rw [cellsWf_cons] at h
    obtain ⟨h1, h2, h3⟩ := h
    have below (hk : k ≤ a) : cellGet t k = 0 := cellGet_below fun p hp => lt_of_le_of_lt hk (h1 p hp)
    simp only [cellSet]
    rcases lt_trichotomy k a with g | g | g
    · rw [if_pos g]
      by_cases hb : b = 0
      · rw [if_pos hb]
        by_cases hj : j = k
        · subst hj; simp [cellGet, hb, below g.le, Nat.ne_of_gt g]
        · simp [hj]
      · rw [if_neg hb]
        by_cases hj : j = k
        · subst hj; simp [cellGet]
        · simp [cellGet, hj, Ne.symm hj]
    · subst g
      rw [if_neg (lt_irrefl _), if_pos rfl]
      by_cases hb : b = 0
      · rw [if_pos hb]
        by_cases hj : j = k
        · subst hj; simp [hb, below le_rfl]
        · simp [cellGet, hj, Ne.symm hj]
      · rw [if_neg hb]
        by_cases hj : j = k
        · subst hj; simp [cellGet]
        · simp [cellGet, hj, Ne.symm hj]
    · rw [if_neg (by omega), if_neg (by omega)]
      simp only [cellGet]
      by_cases ha : a = j
      · rw [if_pos ha, if_pos ha, if_neg (by omega)]
      · rw [if_neg ha, if_neg ha, ih h3]

/-- Writing one byte leaves every other byte, whatever the form of the list. -/
theorem cellGet_cellSet_ne (m : List Host.Cell) {k j : Nat} (b : Byte) (h : j ≠ k) : cellGet (cellSet m k b) j = cellGet m j := by
  induction m with
  | nil => unfold cellSet; split <;> simp [cellGet, Ne.symm h]
  | cons p t ih =>
    obtain ⟨a, c⟩ := p
    unfold cellSet
    split
    · split <;> simp [cellGet, Ne.symm h]
    · split
      · next hk => subst hk; split <;> simp [cellGet, Ne.symm h]
      · simp only [cellGet]; rw [ih]

/-- Writing bytes leaves every byte outside them, whatever the form of the list. -/
theorem cellGet_cellsSet_ne (m : List Host.Cell) (a j : Nat) (bs : List Byte) (h : j < a ∨ a + bs.length ≤ j) :
    cellGet (cellsSet m a bs) j = cellGet m j := by
  induction bs generalizing m a with
  | nil => rfl
  | cons b t ih =>
    simp only [List.length_cons] at h
    rw [cellsSet, ih _ _ (by omega), cellGet_cellSet_ne _ _ (by omega)]

/-- The bytes written read back. -/
theorem cellsGet_cellsSet {m : List Host.Cell} (a : Nat) (bs : List Byte) (h : cellsWf m = true) :
    cellsGet (cellsSet m a bs) a bs.length = bs := by
  induction bs generalizing m a with
  | nil => rfl
  | cons b t ih =>
    simp only [List.length_cons, cellsGet, cellsSet]
    rw [ih (a + 1) (cellSet_wf a b h), cellGet_cellsSet_ne _ _ _ _ (by omega),
      cellGet_cellSet a a b h, if_pos rfl]

end Sys2Proof.Machine
end

