-- ==== Sys2Proof/Laws/Keeps/Base.lean ====
section
/-!
SUPPORT. What every operation of the machine keeps: the queue, the clock, the canonical form of the memories, and the
fuses, whose fused levels only rise; and that no operation but two brings the part into Service or Banked.
-/
namespace Sys2Proof.Machine

/-- What every operation keeps. -/
structure Keeps0 (s t : State) : Prop where
  /-- the queue -/
  pending : t.pending = s.pending
  /-- the clock -/
  time : t.time = s.time
  /-- the form of the memories -/
  mem : s.memWf = true → t.memWf = true
  /-- the fuses that nothing blows -/
  parts : t.fuses.orderingNS = s.fuses.orderingNS ∧ t.fuses.stepping = s.fuses.stepping ∧ t.fuses.serial = s.fuses.serial
  /-- the fused levels -/
  levels : s.fuses.imageSec ≤ t.fuses.imageSec ∧ s.fuses.firmwareSec ≤ t.fuses.firmwareSec

/-- What every operation but the state changes of KINDLING_END and TICK_BOUNDARY keeps. -/
structure Keeps (s t : State) : Prop extends Keeps0 s t where
  /-- Service and Banked are not entered -/
  dev : t.dev = .service ∨ t.dev = .banked → t.dev = s.dev

theorem Keeps0.refl (s : State) : Keeps0 s s := ⟨rfl, rfl, id, ⟨rfl, rfl, rfl⟩, ⟨le_rfl, le_rfl⟩⟩

theorem Keeps0.trans {a b c : State} (h : Keeps0 a b) (k : Keeps0 b c) : Keeps0 a c where
  pending := k.pending.trans h.pending
  time := k.time.trans h.time
  mem := fun w => k.mem (h.mem w)
  parts := ⟨k.parts.1.trans h.parts.1, k.parts.2.1.trans h.parts.2.1, k.parts.2.2.trans h.parts.2.2⟩
  levels := ⟨h.levels.1.trans k.levels.1, h.levels.2.trans k.levels.2⟩

theorem Keeps.refl (s : State) : Keeps s s := ⟨.refl s, fun _ => rfl⟩

theorem Keeps.trans {a b c : State} (h : Keeps a b) (k : Keeps b c) : Keeps a c where
  toKeeps0 := h.toKeeps0.trans k.toKeeps0
  dev := fun w => (k.dev w).trans (h.dev (by rw [← k.dev w]; exact w))

/-- A change of fields that nothing here speaks of. -/
theorem Keeps.upd {a s t : State} (h : Keeps a s) (hp : t.pending = s.pending) (ht : t.time = s.time) (hm : t.mem = s.mem)
    (hq : t.warden.qspi = s.warden.qspi) (hf : t.fuses = s.fuses) (hd : t.dev = s.dev) : Keeps a t where
  pending := hp.trans h.pending
  time := ht.trans h.time
  mem := fun w => by have := h.mem w; simpa only [State.memWf, hm, hq] using this
  parts := by rw [hf]; exact h.parts
  levels := by rw [hf]; exact h.levels
  dev := by rw [hd]; exact h.dev

/-- A change that leaves the part out of Service and Banked. -/
theorem Keeps.down {a s t : State} (h : Keeps a s) (hp : t.pending = s.pending) (ht : t.time = s.time)
    (hm : s.memWf = true → t.memWf = true) (hf : t.fuses = s.fuses) (hd : t.dev ≠ .service ∧ t.dev ≠ .banked) : Keeps a t where
  pending := hp.trans h.pending
  time := ht.trans h.time
  mem := fun w => hm (h.mem w)
  parts := by rw [hf]; exact h.parts
  levels := by rw [hf]; exact h.levels
  dev := fun w => absurd w (by rw [not_or]; exact hd)

/-- A change of memory that keeps its form. -/
theorem Keeps.updMem {a s t : State} (h : Keeps a s) (hp : t.pending = s.pending) (ht : t.time = s.time)
    (hm : s.memWf = true → t.memWf = true) (hf : t.fuses = s.fuses) (hd : t.dev = s.dev) : Keeps a t where
  pending := hp.trans h.pending
  time := ht.trans h.time
  mem := fun w => hm (h.mem w)
  parts := by rw [hf]; exact h.parts
  levels := by rw [hf]; exact h.levels
  dev := by rw [hd]; exact h.dev

theorem Keeps.foldl {α : Type} {a : State} {f : State → α → State} (hf : ∀ s x, Keeps a s → Keeps a (f s x)) (l : List α) {s : State}
    (h : Keeps a s) : Keeps a (l.foldl f s) := by
  induction l generalizing s with
  | nil => exact h
  | cons x t ih => exact ih (hf s x h)

theorem Keeps.foldlPair {α β : Type} {a : State} {f : State × β → α → State × β} (hf : ∀ s x, Keeps a s.1 → Keeps a (f s x).1) (l : List α)
    {s : State × β} (h : Keeps a s.1) : Keeps a (l.foldl f s).1 := by
  induction l generalizing s with
  | nil => exact h
  | cons x t ih => exact ih (hf s x h)

theorem Keeps.foldlPair2 {α β : Type} {a : State} {f : β × State → α → β × State} (hf : ∀ s x, Keeps a s.2 → Keeps a (f s x).2) (l : List α)
    {s : β × State} (h : Keeps a s.2) : Keeps a (l.foldl f s).2 := by
  induction l generalizing s with
  | nil => exact h
  | cons x t ih => exact ih (hf s x h)

theorem Keeps.ite {a x y : State} {c : Prop} [Decidable c] (hx : Keeps a x) (hy : Keeps a y) : Keeps a (if c then x else y) := by
  split <;> assumption

theorem Keeps.cond {a x y : State} {c : Bool} (hx : Keeps a x) (hy : Keeps a y) : Keeps a (cond c x y) := by
  cases c <;> assumption

/-- The form of the memories, unfolded. -/
theorem memWf_iff (s : State) : s.memWf = true ↔
    cellsWf s.mem.stack = true ∧ cellsWf s.mem.host = true ∧ cellsWf s.mem.pool = true ∧ cellsWf s.warden.qspi = true := by
  simp [State.memWf, and_assoc]

end Sys2Proof.Machine
end

