-- ==== Sys2Proof/Laws/Keeps/Ops.lean ====
section
/-!
SUPPORT. What the operations of Machine/Ops.lean keep.
-/
namespace Sys2Proof.Machine

theorem State.mTck_keeps (s : State) (g : TickUnit → TickUnit) {a₀ : State} (hk : Keeps a₀ s) :
    Keeps a₀ (State.mTck s g) := by
  unfold State.mTck
  repeat' with_reducible first | assumption | split | (refine Keeps.upd (by assumption) ?_ ?_ ?_ ?_ ?_ ?_ <;> rfl)

theorem State.mCvn_keeps (s : State) (g : Caravan → Caravan) {a₀ : State} (hk : Keeps a₀ s) :
    Keeps a₀ (State.mCvn s g) := by
  unfold State.mCvn
  repeat' with_reducible first | assumption | split | (refine Keeps.upd (by assumption) ?_ ?_ ?_ ?_ ?_ ?_ <;> rfl)

theorem State.mLdg_keeps (s : State) (g : Ledger → Ledger) {a₀ : State} (hk : Keeps a₀ s) :
    Keeps a₀ (State.mLdg s g) := by
  unfold State.mLdg
  repeat' with_reducible first | assumption | split | (refine Keeps.upd (by assumption) ?_ ?_ ?_ ?_ ?_ ?_ <;> rfl)

theorem State.mStk_keeps (s : State) (g : Stoker → Stoker) {a₀ : State} (hk : Keeps a₀ s) :
    Keeps a₀ (State.mStk s g) := by
  unfold State.mStk
  repeat' with_reducible first | assumption | split | (refine Keeps.upd (by assumption) ?_ ?_ ?_ ?_ ?_ ?_ <;> rfl)

theorem State.mTally_keeps (s : State) (g : Tally → Tally) {a₀ : State} (hk : Keeps a₀ s) :
    Keeps a₀ (State.mTally s g) := by
  unfold State.mTally
  repeat' with_reducible first | assumption | split | (refine Keeps.upd (by assumption) ?_ ?_ ?_ ?_ ?_ ?_ <;> rfl)

theorem State.mSerais_keeps (s : State) (g : Serais → Serais) {a₀ : State} (hk : Keeps a₀ s) :
    Keeps a₀ (State.mSerais s g) := by
  unfold State.mSerais
  repeat' with_reducible first | assumption | split | (refine Keeps.upd (by assumption) ?_ ?_ ?_ ?_ ?_ ?_ <;> rfl)

theorem State.mCellar_keeps (s : State) (g : Cellar → Cellar) {a₀ : State} (hk : Keeps a₀ s) :
    Keeps a₀ (State.mCellar s g) := by
  unfold State.mCellar
  repeat' with_reducible first | assumption | split | (refine Keeps.upd (by assumption) ?_ ?_ ?_ ?_ ?_ ?_ <;> rfl)

theorem State.mHearths_keeps (s : State) (g : Hearths → Hearths) {a₀ : State} (hk : Keeps a₀ s) :
    Keeps a₀ (State.mHearths s g) := by
  unfold State.mHearths
  repeat' with_reducible first | assumption | split | (refine Keeps.upd (by assumption) ?_ ?_ ?_ ?_ ?_ ?_ <;> rfl)

theorem State.mSieves_keeps (s : State) (g : Sieves → Sieves) {a₀ : State} (hk : Keeps a₀ s) :
    Keeps a₀ (State.mSieves s g) := by
  unfold State.mSieves
  repeat' with_reducible first | assumption | split | (refine Keeps.upd (by assumption) ?_ ?_ ?_ ?_ ?_ ?_ <;> rfl)

theorem State.mDepot_keeps (s : State) (g : Depot → Depot) {a₀ : State} (hk : Keeps a₀ s) :
    Keeps a₀ (State.mDepot s g) := by
  unfold State.mDepot
  repeat' with_reducible first | assumption | split | (refine Keeps.upd (by assumption) ?_ ?_ ?_ ?_ ?_ ?_ <;> rfl)

theorem State.mDampers_keeps (s : State) (g : Dampers → Dampers) {a₀ : State} (hk : Keeps a₀ s) :
    Keeps a₀ (State.mDampers s g) := by
  unfold State.mDampers
  repeat' with_reducible first | assumption | split | (refine Keeps.upd (by assumption) ?_ ?_ ?_ ?_ ?_ ?_ <;> rfl)

theorem State.mDrovers_keeps (s : State) (g : Drovers → Drovers) {a₀ : State} (hk : Keeps a₀ s) :
    Keeps a₀ (State.mDrovers s g) := by
  unfold State.mDrovers
  repeat' with_reducible first | assumption | split | (refine Keeps.upd (by assumption) ?_ ?_ ?_ ?_ ?_ ?_ <;> rfl)

theorem State.mPower_keeps (s : State) (g : Power → Power) {a₀ : State} (hk : Keeps a₀ s) :
    Keeps a₀ (State.mPower s g) := by
  unfold State.mPower
  repeat' with_reducible first | assumption | split | (refine Keeps.upd (by assumption) ?_ ?_ ?_ ?_ ?_ ?_ <;> rfl)

theorem State.mXlt_keeps (s : State) (g : Xlt → Xlt) {a₀ : State} (hk : Keeps a₀ s) :
    Keeps a₀ (State.mXlt s g) := by
  unfold State.mXlt
  repeat' with_reducible first | assumption | split | (refine Keeps.upd (by assumption) ?_ ?_ ?_ ?_ ?_ ?_ <;> rfl)

theorem State.mRoutes_keeps (s : State) (g : Routes → Routes) {a₀ : State} (hk : Keeps a₀ s) :
    Keeps a₀ (State.mRoutes s g) := by
  unfold State.mRoutes
  repeat' with_reducible first | assumption | split | (refine Keeps.upd (by assumption) ?_ ?_ ?_ ?_ ?_ ?_ <;> rfl)

theorem State.mFlt_keeps (s : State) (g : Faults → Faults) {a₀ : State} (hk : Keeps a₀ s) :
    Keeps a₀ (State.mFlt s g) := by
  unfold State.mFlt
  repeat' with_reducible first | assumption | split | (refine Keeps.upd (by assumption) ?_ ?_ ?_ ?_ ?_ ?_ <;> rfl)

theorem State.mChm_keeps (s : State) (g : Chimney → Chimney) {a₀ : State} (hk : Keeps a₀ s) :
    Keeps a₀ (State.mChm s g) := by
  unfold State.mChm
  repeat' with_reducible first | assumption | split | (refine Keeps.upd (by assumption) ?_ ?_ ?_ ?_ ?_ ?_ <;> rfl)

theorem State.mBx_keeps (s : State) (g : Bx → Bx) {a₀ : State} (hk : Keeps a₀ s) :
    Keeps a₀ (State.mBx s g) := by
  unfold State.mBx
  repeat' with_reducible first | assumption | split | (refine Keeps.upd (by assumption) ?_ ?_ ?_ ?_ ?_ ?_ <;> rfl)

theorem State.mMem_keeps (s : State) (g : Mem → Mem)
    (hg : cellsWf s.mem.stack = true ∧ cellsWf s.mem.host = true ∧ cellsWf s.mem.pool = true →
      cellsWf (g s.mem).stack = true ∧ cellsWf (g s.mem).host = true ∧ cellsWf (g s.mem).pool = true)
    {a₀ : State} (h : Keeps a₀ s) : Keeps a₀ (s.mMem g) := by
  refine h.updMem rfl rfl ?_ rfl rfl
  intro w
  rw [memWf_iff] at *
  have := hg ⟨w.1, w.2.1, w.2.2.1⟩
  exact ⟨this.1, this.2.1, this.2.2, w.2.2.2⟩

theorem State.mBus_keeps (s : State) (g : BusOut → BusOut) {a₀ : State} (hk : Keeps a₀ s) :
    Keeps a₀ (State.mBus s g) := by
  unfold State.mBus
  repeat' with_reducible first | assumption | split | (refine Keeps.upd (by assumption) ?_ ?_ ?_ ?_ ?_ ?_ <;> rfl)

theorem State.mPins_keeps (s : State) (g : Pins → Pins) {a₀ : State} (hk : Keeps a₀ s) :
    Keeps a₀ (State.mPins s g) := by
  unfold State.mPins
  repeat' with_reducible first | assumption | split | (refine Keeps.upd (by assumption) ?_ ?_ ?_ ?_ ?_ ?_ <;> rfl)

theorem State.mFuses_keeps (s : State) (g : Fuses → Fuses)
    (hg : (g s.fuses).orderingNS = s.fuses.orderingNS ∧ (g s.fuses).stepping = s.fuses.stepping ∧ (g s.fuses).serial = s.fuses.serial ∧
      s.fuses.imageSec ≤ (g s.fuses).imageSec ∧ s.fuses.firmwareSec ≤ (g s.fuses).firmwareSec)
    {a₀ : State} (h : Keeps a₀ s) : Keeps a₀ (s.mFuses g) where
  pending := h.pending
  time := h.time
  mem := h.mem
  parts := ⟨hg.1.trans h.parts.1, hg.2.1.trans h.parts.2.1, hg.2.2.1.trans h.parts.2.2⟩
  levels := ⟨h.levels.1.trans hg.2.2.2.1, h.levels.2.trans hg.2.2.2.2⟩
  dev := h.dev

theorem State.mImg_keeps (s : State) (g : Image → Image) {a₀ : State} (hk : Keeps a₀ s) :
    Keeps a₀ (State.mImg s g) := by
  unfold State.mImg
  repeat' with_reducible first | assumption | split | (refine Keeps.upd (by assumption) ?_ ?_ ?_ ?_ ?_ ?_ <;> rfl)

theorem State.mBoot_keeps (s : State) (g : Boot → Boot) {a₀ : State} (hk : Keeps a₀ s) :
    Keeps a₀ (State.mBoot s g) := by
  unfold State.mBoot
  repeat' with_reducible first | assumption | split | (refine Keeps.upd (by assumption) ?_ ?_ ?_ ?_ ?_ ?_ <;> rfl)

theorem State.mWarden_keeps (s : State) (g : Warden → Warden) (hg : cellsWf s.warden.qspi = true → cellsWf (g s.warden).qspi = true)
    {a₀ : State} (h : Keeps a₀ s) : Keeps a₀ (s.mWarden g) := by
  refine h.updMem rfl rfl ?_ rfl rfl
  intro w
  rw [memWf_iff] at *
  exact ⟨w.1, w.2.1, w.2.2.1, hg w.2.2.2⟩

theorem State.mFn_keeps (s : State) (f : Nat) (g : Fn → Fn) {a₀ : State} (hk : Keeps a₀ s) :
    Keeps a₀ (State.mFn s f g) := by
  unfold State.mFn
  repeat' with_reducible first | assumption | split | (refine Keeps.upd (by assumption) ?_ ?_ ?_ ?_ ?_ ?_ <;> rfl)

theorem State.mLog_keeps (s : State) (f : Nat) (g : FnLog → FnLog) {a₀ : State} (hk : Keeps a₀ s) :
    Keeps a₀ (State.mLog s f g) := by
  unfold State.mLog
  repeat' with_reducible first | assumption | split | (refine Keeps.upd (by assumption) ?_ ?_ ?_ ?_ ?_ ?_ <;> rfl)

theorem State.mCmd_keeps (s : State) (cid : Nat) (f : Cmd → Cmd) {a₀ : State} (hk : Keeps a₀ s) :
    Keeps a₀ (State.mCmd s cid f) := by
  unfold State.mCmd
  repeat' with_reducible first | assumption | apply State.mStk_keeps

theorem State.mWb_keeps (s : State) (i : Nat) (f : Waybill → Waybill) {a₀ : State} (hk : Keeps a₀ s) :
    Keeps a₀ (State.mWb s i f) := by
  unfold State.mWb
  repeat' with_reducible first | assumption | apply State.mLdg_keeps

theorem State.mSerai_keeps (s : State) (q : Nat) (f : Serai → Serai) {a₀ : State} (hk : Keeps a₀ s) :
    Keeps a₀ (State.mSerai s q f) := by
  unfold State.mSerai
  repeat' with_reducible first | assumption | apply State.mSerais_keeps

theorem State.mSeraiCnt_keeps (s : State) (q : Nat) (f : SeraiCnt → SeraiCnt) {a₀ : State} (hk : Keeps a₀ s) :
    Keeps a₀ (State.mSeraiCnt s q f) := by
  unfold State.mSeraiCnt
  repeat' with_reducible first | assumption | apply State.mSerais_keeps

theorem State.mHearth_keeps (s : State) (h : Nat) (f : Hearth → Hearth) {a₀ : State} (hk : Keeps a₀ s) :
    Keeps a₀ (State.mHearth s h f) := by
  unfold State.mHearth
  repeat' with_reducible first | assumption | apply State.mHearths_keeps

theorem State.mTable_keeps (s : State) (t : Nat) (f : Table → Table) {a₀ : State} (hk : Keeps a₀ s) :
    Keeps a₀ (State.mTable s t f) := by
  unfold State.mTable
  repeat' with_reducible first | assumption | apply State.mTally_keeps

theorem State.mRt_keeps (s : State) (t : Nat) (f : TableRt → TableRt) {a₀ : State} (hk : Keeps a₀ s) :
    Keeps a₀ (State.mRt s t f) := by
  unfold State.mRt
  repeat' with_reducible first | assumption | apply State.mTally_keeps

theorem State.mPort_keeps (s : State) (p : Nat) (f : RPort → RPort) {a₀ : State} (hk : Keeps a₀ s) :
    Keeps a₀ (State.mPort s p f) := by
  unfold State.mPort
  repeat' with_reducible first | assumption | apply State.mRoutes_keeps

theorem State.mPortCnt_keeps (s : State) (p : Nat) (f : RPortCnt → RPortCnt) {a₀ : State} (hk : Keeps a₀ s) :
    Keeps a₀ (State.mPortCnt s p f) := by
  unfold State.mPortCnt
  repeat' with_reducible first | assumption | apply State.mRoutes_keeps

theorem State.count_keeps (s : State) (event inst : Nat) (ctx : Option Nat) (cls n : Nat) {a₀ : State} (hk : Keeps a₀ s) :
    Keeps a₀ (State.count s event inst ctx cls n) := by
  unfold State.count
  repeat' with_reducible first | assumption | apply State.mChm_keeps

theorem State.trace_keeps (s : State) (kind die : Nat) (ctx : Option Nat) (cmdId : BitVec 32) (payload : Nat) {a₀ : State} (hk : Keeps a₀ s) :
    Keeps a₀ (State.trace s kind die ctx cmdId payload) := by
  unfold State.trace
  repeat' with_reducible first | assumption | apply State.mChm_keeps

theorem State.makeRecord_keeps (s : State) (r : FaultRec) {a₀ : State} (hk : Keeps a₀ s) :
    Keeps a₀ (State.makeRecord s r) := by
  unfold State.makeRecord
  repeat' with_reducible first | assumption | apply State.mFlt_keeps | apply State.trace_keeps

theorem State.intake_keeps (s : State) (r : FaultRec) {a₀ : State} (hk : Keeps a₀ s) :
    Keeps a₀ (State.intake s r) := by
  unfold State.intake
  repeat' with_reducible first | assumption | apply Keeps.ite | apply State.mFlt_keeps | apply State.makeRecord_keeps

theorem State.raiseAs_keeps (s : State) (contain : Nat) (r : FaultRec) {a₀ : State} (hk : Keeps a₀ s) :
    Keeps a₀ (State.raiseAs s contain r) := by
  unfold State.raiseAs
  repeat' with_reducible first | assumption | apply State.intake_keeps

theorem State.raise_keeps (s : State) (r : FaultRec) {a₀ : State} (hk : Keeps a₀ s) :
    Keeps a₀ (State.raise s r) := by
  unfold State.raise
  repeat' with_reducible first | assumption | apply State.raiseAs_keeps

theorem State.spare_keeps (s : State) (e : SparingEntry) {a₀ : State} (hk : Keeps a₀ s) :
    Keeps a₀ (State.spare s e) := by
  unfold State.spare
  repeat' with_reducible first | intro _ | assumption | apply Keeps.ite | apply State.mFlt_keeps | apply State.mWarden_keeps | apply State.raise_keeps

end Sys2Proof.Machine
end

