-- ==== Sys2Proof/Laws/Keeps/Memory.lean ====
section
/-!
SUPPORT. What the operations of Machine/Memory.lean keep.
-/
namespace Sys2Proof.Machine

/-- Replacing the cells of one kind of memory by canonical ones keeps the form. -/
theorem Mem.put_wf (m : Mem) (sp : Space) (c : List Host.Cell) (p : List Nat) (hc : cellsWf (m.cells sp) = true → cellsWf c = true) :
    cellsWf m.stack = true ∧ cellsWf m.host = true ∧ cellsWf m.pool = true →
      cellsWf (m.put sp c p).stack = true ∧ cellsWf (m.put sp c p).host = true ∧ cellsWf (m.put sp c p).pool = true := by
  intro w
  cases sp
  · exact ⟨hc w.1, w.2.1, w.2.2⟩
  · exact ⟨w.1, hc w.2.1, w.2.2⟩
  · exact ⟨w.1, w.2.1, hc w.2.2⟩

theorem State.memWrite_keeps (s : State) (p : PA) (bs : List Byte) (poisoned : Bool) {a₀ : State} (hk : Keeps a₀ s) :
    Keeps a₀ (s.memWrite p bs poisoned) :=
  State.mMem_keeps s _ (Mem.put_wf _ _ _ _ (cellsSet_wf _ _)) hk

theorem State.touch_keeps (s : State) (ctx : Option Nat) (cls die : Nat) (p : PA) (n : Nat) (write : Bool) {a₀ : State} (hk : Keeps a₀ s) :
    Keeps a₀ (State.touch s ctx cls die p n write) := by
  unfold State.touch
  repeat' with_reducible first | assumption | apply State.count_keeps | split

theorem State.depotHit_keeps (s : State) (ctx : Option Nat) (cls : Nat) (p : PA) {a₀ : State} (hk : Keeps a₀ s) :
    Keeps a₀ (State.depotHit s ctx cls p) := by
  unfold State.depotHit
  repeat' with_reducible first | assumption | apply State.mDepot_keeps | apply State.count_keeps

theorem State.depotAlloc_keeps (s : State) (p : PA) (stream : Bool) {a₀ : State} (hk : Keeps a₀ s) :
    Keeps a₀ (State.depotAlloc s p stream) := by
  unfold State.depotAlloc
  repeat' with_reducible first | assumption | apply State.mDepot_keeps | split

theorem State.conflictWait_keeps (s : State) (p : PA) {a₀ : State} (hk : Keeps a₀ s) :
    Keeps a₀ (State.conflictWait s p) := by
  unfold State.conflictWait
  repeat' with_reducible first | assumption | apply State.mDepot_keeps

theorem State.storeProv_keeps (s : State) (u : CUnit) (a : Nat × List Byte) (sp : Space) (atomic poisoned through stream : Bool) {a₀ : State} (hk : Keeps a₀ s) :
    Keeps a₀ (State.storeProv s u a sp atomic poisoned through stream) := by
  unfold State.storeProv
  repeat' with_reducible first | assumption | apply State.mDepot_keeps

theorem State.storeCommitted_keeps (s : State) (ctx : Option Nat) (a : Nat × List Byte) (sp : Space) (through poisoned stream : Bool) {a₀ : State} (hk : Keeps a₀ s) :
    Keeps a₀ (State.storeCommitted s ctx a sp through poisoned stream) := by
  unfold State.storeCommitted
  repeat' with_reducible first | assumption | apply Keeps.ite | apply State.mDepot_keeps | apply State.memWrite_keeps | apply State.depotAlloc_keeps

theorem State.store_keeps (s : State) (u : CUnit) (ctx : Option Nat) (attr : Nat) (p : PA) (bs : List Byte) (atomic poisoned : Bool) {a₀ : State} (hk : Keeps a₀ s) :
    Keeps a₀ (State.store s u ctx attr p bs atomic poisoned) := by
  unfold State.store
  repeat' with_reducible first | intro _ | assumption | apply Keeps.ite | apply Keeps.foldl | apply State.memWrite_keeps | apply State.storeProv_keeps | apply State.storeCommitted_keeps

theorem State.writeCommitted_keeps (s : State) (l : DLine) {a₀ : State} (hk : Keeps a₀ s) :
    Keeps a₀ (State.writeCommitted s l) := by
  unfold State.writeCommitted
  repeat' with_reducible first | assumption | apply State.mDepot_keeps | apply State.memWrite_keeps

theorem State.commitUnit_keeps (s : State) (u : CUnit) (ctx : Option Nat) {a₀ : State} (hk : Keeps a₀ s) :
    Keeps a₀ (State.commitUnit s u ctx) := by
  unfold State.commitUnit
  repeat' with_reducible first | intro _ | assumption | apply Keeps.foldl | apply State.mDepot_keeps | apply State.writeCommitted_keeps

theorem State.discardUnit_keeps (s : State) (u : CUnit) {a₀ : State} (hk : Keeps a₀ s) :
    Keeps a₀ (State.discardUnit s u) := by
  unfold State.discardUnit
  repeat' with_reducible first | assumption | apply State.mDepot_keeps

theorem State.dropCommitted_keeps (s : State) (p : PA) {a₀ : State} (hk : Keeps a₀ s) :
    Keeps a₀ (State.dropCommitted s p) := by
  unfold State.dropCommitted
  repeat' with_reducible first | assumption | apply State.mDepot_keeps | apply State.memWrite_keeps | split

theorem State.writeThrough_keeps (s : State) (p : PA) (bs : List Byte) (poisoned : Bool) {a₀ : State} (hk : Keeps a₀ s) :
    Keeps a₀ (State.writeThrough s p bs poisoned) := by
  unfold State.writeThrough
  repeat' with_reducible first | intro _ | assumption | apply Keeps.foldl | apply State.memWrite_keeps | apply State.dropCommitted_keeps

theorem State.drainEntry_keeps (s : State) (e : MergeEnt) {a₀ : State} (hk : Keeps a₀ s) : Keeps a₀ (s.drainEntry e) := by
  unfold State.drainEntry
  exact State.mMem_keeps _ _ (Mem.put_wf _ _ _ _ id) (Keeps.foldl (fun s b h => State.memWrite_keeps s _ _ _ h) _ hk)

theorem State.drainOldest_keeps (s : State) (die : Nat) {a₀ : State} (hk : Keeps a₀ s) :
    Keeps a₀ (State.drainOldest s die) := by
  unfold State.drainOldest
  repeat' with_reducible first | assumption | apply State.mDepot_keeps | apply State.drainEntry_keeps | split

theorem State.drainMerging_keeps (s : State) (die : Nat) (x0 : Nat) {a₀ : State} (hk : Keeps a₀ s) :
    Keeps a₀ (State.drainMerging s die x0) := by
  induction x0 generalizing s die with
  | zero => simpa only [State.drainMerging] using hk
  | succ n ih =>
    simp only [State.drainMerging]
    repeat' with_reducible first | assumption | apply ih | apply State.drainOldest_keeps

theorem State.mergePiece_keeps (s : State) (die : Nat) (sp : Space) (a : Nat × List Byte) {a₀ : State} (hk : Keeps a₀ s) :
    Keeps a₀ (State.mergePiece s die sp a) := by
  unfold State.mergePiece
  try dsimp only
  repeat' with_reducible first | assumption | apply State.mDepot_keeps | apply State.dropCommitted_keeps | apply State.drainOldest_keeps | split

theorem State.mergeWrite_keeps (s : State) (die : Nat) (p : PA) (bs : List Byte) {a₀ : State} (hk : Keeps a₀ s) :
    Keeps a₀ (State.mergeWrite s die p bs) := by
  unfold State.mergeWrite
  repeat' with_reducible first | intro _ | assumption | apply Keeps.foldl | apply State.mergePiece_keeps

end Sys2Proof.Machine
end

