-- ==== Sys2Proof/Laws/Keeps/Translate.lean ====
section
/-!
SUPPORT. What the operations of Machine/Translate.lean keep.
-/
namespace Sys2Proof.Machine

theorem State.keepWalk_keeps (s : State) (die : Nat) (c : Ctx) (da : Nat) {a₀ : State} (hk : Keeps a₀ s) :
    Keeps a₀ (State.keepWalk s die c da) := by
  unfold State.keepWalk
  repeat' with_reducible first | assumption | apply State.mXlt_keeps | split

theorem State.countWalks_keeps (s : State) (die : Nat) (c : Ctx) (set : List PageTr) {a₀ : State} (hk : Keeps a₀ s) :
    Keeps a₀ (State.countWalks s die c set) := by
  unfold State.countWalks
  repeat' with_reducible first | intro _ | assumption | apply Keeps.foldl | apply State.mXlt_keeps | apply State.keepWalk_keeps

theorem State.writeSet_keeps (s : State) (u : CUnit) (ctx : Option Nat) (fn : Nat) (set : List PageTr) (x0 : Nat) (x1 : Nat) (x2 : List Byte) {a₀ : State} (hk : Keeps a₀ s) :
    Keeps a₀ (State.writeSet s u ctx fn set x0 x1 x2) := by
  induction x0 generalizing s u ctx fn set x1 x2 with
  | zero => simpa only [State.writeSet] using hk
  | succ n ih =>
    simp only [State.writeSet]
    repeat' with_reducible first | assumption | apply ih | apply State.store_keeps | split

theorem State.cmdWrite_keeps (s : State) (cid : Nat) (c : Cmd) (da : Nat) (bs : List Byte) {a₀ : State} (hk : Keeps a₀ s) :
    Keeps a₀ (State.cmdWrite s cid c da bs) := by
  unfold State.cmdWrite
  repeat' with_reducible first | assumption | apply State.writeSet_keeps

theorem State.mergeSet_keeps (s : State) (die fn : Nat) (set : List PageTr) (x0 : Nat) (x1 : Nat) (x2 : List Byte) {a₀ : State} (hk : Keeps a₀ s) :
    Keeps a₀ (State.mergeSet s die fn set x0 x1 x2) := by
  induction x0 generalizing s die fn set x1 x2 with
  | zero => simpa only [State.mergeSet] using hk
  | succ n ih =>
    simp only [State.mergeSet]
    repeat' with_reducible first | assumption | apply ih | apply State.mergeWrite_keeps | split

theorem State.ctxWrite_keeps (s : State) (die : Nat) (c : Ctx) (da : Nat) (bs : List Byte) {a₀ : State} (hk : Keeps a₀ s) :
    ∀ t, State.ctxWrite s die c da bs = some t → Keeps a₀ t := by
  intro t ht
  simp only [State.ctxWrite, Option.map_eq_some_iff] at ht
  obtain ⟨set, -, rfl⟩ := ht
  exact State.countWalks_keeps _ _ _ _ (State.mergeSet_keeps _ _ _ _ _ _ _ hk)

end Sys2Proof.Machine
end

