-- ==== Sys2Proof/Laws/Keeps/Commands.lean ====
section
/-!
SUPPORT. What the operations of Machine/Commands.lean keep.
-/
namespace Sys2Proof.Machine

theorem State.sendFrame_keeps (s : State) (p : Nat) (f : Frame) {a₀ : State} (hk : Keeps a₀ s) :
    Keeps a₀ (State.sendFrame s p f) := by
  unfold State.sendFrame
  repeat' with_reducible first | assumption | apply State.mPort_keeps | apply State.mPortCnt_keeps | split

theorem State.mChan_keeps (s : State) (p ch : Nat) (f : Chan → Chan) {a₀ : State} (hk : Keeps a₀ s) :
    Keeps a₀ (State.mChan s p ch f) := by
  unfold State.mChan
  repeat' with_reducible first | assumption | apply State.mPort_keeps

theorem State.sendAbort_keeps (s : State) (o : ROp) (l : RLink) (reason : Nat) {a₀ : State} (hk : Keeps a₀ s) :
    Keeps a₀ (State.sendAbort s o l reason) := by
  unfold State.sendAbort
  repeat' with_reducible first | assumption | apply State.mPortCnt_keeps | apply State.sendFrame_keeps | split

theorem State.leaveLink_keeps (s : State) (o : ROp) (l : RLink) (reason : Nat) {a₀ : State} (hk : Keeps a₀ s) :
    Keeps a₀ (State.leaveLink s o l reason) := by
  unfold State.leaveLink
  repeat' with_reducible first | assumption | apply State.mChan_keeps | apply State.sendAbort_keeps | split

theorem State.routeDrop_keeps (s : State) (cid : Nat) {a₀ : State} (hk : Keeps a₀ s) :
    Keeps a₀ (State.routeDrop s cid) := by
  unfold State.routeDrop
  repeat' with_reducible first | intro _ | assumption | apply Keeps.foldl | apply State.mRoutes_keeps | apply State.leaveLink_keeps | split

theorem State.dropWork_keeps (s : State) (cid : Nat) {a₀ : State} (hk : Keeps a₀ s) :
    Keeps a₀ (State.dropWork s cid) := by
  unfold State.dropWork
  repeat' with_reducible first | assumption | apply State.mTally_keeps | apply State.mSerais_keeps | apply State.mHearths_keeps | apply State.routeDrop_keeps

theorem State.killCmd_keeps (s : State) (cid cause : Nat) {a₀ : State} (hk : Keeps a₀ s) :
    Keeps a₀ (State.killCmd s cid cause) := by
  unfold State.killCmd
  repeat' with_reducible first | assumption | apply State.count_keeps | apply State.trace_keeps | apply State.discardUnit_keeps | apply State.dropWork_keeps | split

theorem State.eraseCmd_keeps (s : State) (cid : Nat) {a₀ : State} (hk : Keeps a₀ s) :
    Keeps a₀ (State.eraseCmd s cid) := by
  unfold State.eraseCmd
  repeat' with_reducible first | assumption | apply State.mStk_keeps

theorem State.pushAnswer_keeps (s : State) (a : Answer) {a₀ : State} (hk : Keeps a₀ s) :
    Keeps a₀ (State.pushAnswer s a) := by
  unfold State.pushAnswer
  repeat' with_reducible first | assumption | apply State.mStk_keeps

theorem State.answerCmd_keeps (s : State) (cid : Nat) (c : Cmd) (outcome fault : Nat) {a₀ : State} (hk : Keeps a₀ s) :
    Keeps a₀ (State.answerCmd s cid c outcome fault) := by
  unfold State.answerCmd
  repeat' with_reducible first | assumption | apply State.eraseCmd_keeps | apply State.pushAnswer_keeps

theorem State.refuse_keeps (s : State) (cid : Nat) (c : Cmd) (r : FaultRec) {a₀ : State} (hk : Keeps a₀ s) :
    Keeps a₀ (State.refuse s cid c r) := by
  unfold State.refuse
  repeat' with_reducible first | assumption | apply State.mFn_keeps | apply State.raiseAs_keeps | apply State.answerCmd_keeps

theorem State.refuseFn_keeps (s : State) (cid : Nat) (c : Cmd) (slot code : Nat) {a₀ : State} (hk : Keeps a₀ s) :
    Keeps a₀ (State.refuseFn s cid c slot code) := by
  unfold State.refuseFn
  repeat' with_reducible first | assumption | apply State.mFn_keeps | apply State.raiseAs_keeps | apply State.eraseCmd_keeps

theorem State.answerFn_keeps (s : State) (cid : Nat) (c : Cmd) (slot : Nat) {a₀ : State} (hk : Keeps a₀ s) :
    Keeps a₀ (State.answerFn s cid c slot) := by
  unfold State.answerFn
  repeat' with_reducible first | assumption | apply State.mFn_keeps | apply State.eraseCmd_keeps

theorem State.killRun_keeps (s : State) (i cause : Nat) {a₀ : State} (hk : Keeps a₀ s) :
    Keeps a₀ (State.killRun s i cause) := by
  unfold State.killRun
  repeat' with_reducible first | intro _ | assumption | apply Keeps.foldl | apply State.discardUnit_keeps | apply State.killCmd_keeps | apply State.eraseCmd_keeps

theorem State.freeWb_keeps (s : State) (i : Nat) {a₀ : State} (hk : Keeps a₀ s) :
    Keeps a₀ (State.freeWb s i) := by
  unfold State.freeWb
  repeat' with_reducible first | assumption | apply State.mLdg_keeps

theorem State.answerWb_keeps (s : State) (i : Nat) (w : Waybill) (outcome cause fault : Nat) {a₀ : State} (hk : Keeps a₀ s) :
    Keeps a₀ (State.answerWb s i w outcome cause fault) := by
  unfold State.answerWb
  repeat' with_reducible first | assumption | apply State.mLdg_keeps | apply State.mWb_keeps | apply State.pushAnswer_keeps | split

theorem State.fallbackWrite_keeps (s : State) (w : Waybill) {a₀ : State} (hk : Keeps a₀ s) :
    Keeps a₀ (State.fallbackWrite s w) := by
  unfold State.fallbackWrite
  repeat' with_reducible first | assumption | apply State.mergeSet_keeps | split

theorem State.fallback_keeps (s : State) (i : Nat) (w : Waybill) (outcome : Nat) {a₀ : State} (hk : Keeps a₀ s) :
    Keeps a₀ (State.fallback s i w outcome) := by
  unfold State.fallback
  repeat' with_reducible first | assumption | apply State.mCvn_keeps | apply State.count_keeps | apply State.answerWb_keeps | apply State.fallbackWrite_keeps

theorem State.afterKill_keeps (s : State) (i : Nat) (t : Nat) {a₀ : State} (hk : Keeps a₀ s) :
    Keeps a₀ (State.afterKill s i t) := by
  unfold State.afterKill
  try dsimp only
  repeat' with_reducible first | assumption | apply State.mCvn_keeps | apply State.mWb_keeps | apply State.answerWb_keeps | apply State.fallback_keeps | split

theorem State.teardown_keeps (s : State) (ctx : Nat) {a₀ : State} (hk : Keeps a₀ s) :
    Keeps a₀ (State.teardown s ctx) := by
  unfold State.teardown
  repeat' with_reducible first | intro _ | assumption | apply Keeps.foldl | apply State.mLdg_keeps | apply State.mStk_keeps | apply State.mFn_keeps | apply State.mLog_keeps | apply State.discardUnit_keeps | apply State.killCmd_keeps | apply State.eraseCmd_keeps | split

theorem State.tear_keeps (s : State) (ctx : Nat) (r : FaultRec) {a₀ : State} (hk : Keeps a₀ s) :
    Keeps a₀ (State.tear s ctx r) := by
  unfold State.tear
  repeat' with_reducible first | assumption | apply State.raiseAs_keeps | apply State.teardown_keeps

theorem State.tearCmd_keeps (s : State) (c : Cmd) (r : FaultRec) {a₀ : State} (hk : Keeps a₀ s) :
    Keeps a₀ (State.tearCmd s c r) := by
  unfold State.tearCmd
  repeat' with_reducible first | assumption | apply State.tear_keeps

end Sys2Proof.Machine
end

