-- ==== Sys2Proof/Laws/Keeps/Caravan.lean ====
section
/-!
SUPPORT. What the operations of Machine/Caravan.lean keep.
-/
namespace Sys2Proof.Machine

theorem State.beginAssembly_keeps (s : State) {a₀ : State} (hk : Keeps a₀ s) :
    Keeps a₀ (State.beginAssembly s) := by
  unfold State.beginAssembly
  repeat' with_reducible first | assumption | apply State.mCvn_keeps

theorem State.asmStep_keeps (s : State) {a₀ : State} (hk : Keeps a₀ s) :
    Keeps a₀ (State.asmStep s) := by
  unfold State.asmStep
  try dsimp only
  repeat' with_reducible first | assumption | apply State.mCvn_keeps | split

theorem State.assemble_keeps (s : State) (x0 : Nat) {a₀ : State} (hk : Keeps a₀ s) :
    Keeps a₀ (State.assemble s x0) := by
  induction x0 generalizing s with
  | zero => simpa only [State.assemble] using hk
  | succ n ih =>
    simp only [State.assemble]
    repeat' with_reducible first | assumption | apply ih | apply State.asmStep_keeps | split

theorem State.startWb_keeps (s : State) (i : Nat) (w : Waybill) {a₀ : State} (hk : Keeps a₀ s) :
    Keeps a₀ (State.startWb s i w) := by
  unfold State.startWb
  repeat' with_reducible first | intro _ | assumption | apply Keeps.foldl | apply State.mStk_keeps | split

theorem State.dispatchHeld_keeps (s : State) (ctx : Nat) {a₀ : State} (hk : Keeps a₀ s) :
    Keeps a₀ (State.dispatchHeld s ctx) := by
  unfold State.dispatchHeld
  repeat' with_reducible first | assumption | apply State.mStk_keeps

theorem State.join_keeps (s : State) (i : Nat) {a₀ : State} (hk : Keeps a₀ s) :
    Keeps a₀ (State.join s i) := by
  unfold State.join
  repeat' with_reducible first | assumption | apply State.mCvn_keeps | apply State.mLdg_keeps | apply State.trace_keeps | apply State.startWb_keeps | split

theorem State.noCapacity_keeps (s : State) (i : Nat) {a₀ : State} (hk : Keeps a₀ s) :
    Keeps a₀ (State.noCapacity s i) := by
  unfold State.noCapacity
  repeat' with_reducible first | assumption | apply State.fallback_keeps | split

theorem State.boundaryKillWb_keeps (s : State) (i t : Nat) {a₀ : State} (hk : Keeps a₀ s) :
    Keeps a₀ (State.boundaryKillWb s i t) := by
  unfold State.boundaryKillWb
  repeat' with_reducible first | assumption | apply State.mCvn_keeps | apply State.killRun_keeps | apply State.afterKill_keeps

theorem State.spanKill_keeps (bound : Bool) (s : State) (cid : Nat) {a₀ : State} (hk : Keeps a₀ s) :
    Keeps a₀ (State.spanKill bound s cid) := by
  unfold State.spanKill
  repeat' with_reducible first | assumption | apply State.mCvn_keeps | apply State.mCmd_keeps | apply State.killCmd_keeps | split

theorem State.expire_keeps (s : State) (cid : Nat) {a₀ : State} (hk : Keeps a₀ s) :
    Keeps a₀ (State.expire s cid) := by
  unfold State.expire
  repeat' with_reducible first | assumption | apply State.mFn_keeps | apply State.answerCmd_keeps | apply State.spanKill_keeps | split

end Sys2Proof.Machine
end

