-- ==== Sys2Proof/Laws/Keeps/Collector.lean ====
section
/-!
SUPPORT. What the operations of Machine/Collector.lean keep.
-/
namespace Sys2Proof.Machine

theorem State.msix_keeps (s : State) (f v : Nat) (atOnce : Bool) {a₀ : State} (hk : Keeps a₀ s) :
    Keeps a₀ (State.msix s f v atOnce) := by
  unfold State.msix
  try dsimp only
  repeat' with_reducible first | assumption | apply State.mFlt_keeps | apply State.mLog_keeps | split

theorem State.logFn_keeps (s : State) (f : Nat) (r : FaultRec) (atOnce : Bool) {a₀ : State} (hk : Keeps a₀ s) :
    Keeps a₀ (State.logFn s f r atOnce) := by
  unfold State.logFn
  try dsimp only
  repeat' with_reducible first | assumption | apply State.mFlt_keeps | apply State.mLog_keeps | apply State.mergeWrite_keeps | apply State.msix_keeps | split

theorem State.logCtx_keeps (s : State) (c : Ctx) (r : FaultRec) (atOnce : Bool) {a₀ : State} (hk : Keeps a₀ s) :
    Keeps a₀ (State.logCtx s c r atOnce) := by
  unfold State.logCtx
  try dsimp only
  repeat' with_reducible first | assumption | apply State.mFlt_keeps | apply State.mFn_keeps | apply State.msix_keeps | apply State.logFn_keeps | refine State.ctxWrite_keeps _ _ _ _ _ ?_ _ (by assumption) | split

theorem State.sinkRecord_keeps (s : State) (r : FaultRec) (atOnce : Bool) {a₀ : State} (hk : Keeps a₀ s) :
    Keeps a₀ (State.sinkRecord s r atOnce) := by
  unfold State.sinkRecord
  try dsimp only
  repeat' with_reducible first | assumption | apply State.mLog_keeps | apply State.logFn_keeps | apply State.logCtx_keeps | split

theorem State.flushCoal_keeps (s : State) (c : Coal) {a₀ : State} (hk : Keeps a₀ s) :
    Keeps a₀ (State.flushCoal s c) := by
  unfold State.flushCoal
  repeat' with_reducible first | assumption | apply State.mFlt_keeps | apply State.makeRecord_keeps | split

theorem State.snapshot_keeps (s : State) {a₀ : State} (hk : Keeps a₀ s) :
    Keeps a₀ (State.snapshot s) := by
  unfold State.snapshot
  repeat' with_reducible first | assumption | apply State.mChm_keeps

theorem State.respond_keeps (s : State) (fn : Option Nat) (tag : BitVec 16) (r : MgmtRsp) {a₀ : State} (hk : Keeps a₀ s) :
    Keeps a₀ (State.respond s fn tag r) := by
  unfold State.respond
  repeat' with_reducible first | intro _ | assumption | apply State.mWarden_keeps | apply State.mLog_keeps | split

theorem State.withdrawRequest_keeps (s : State) {a₀ : State} (hk : Keeps a₀ s) :
    Keeps a₀ (State.withdrawRequest s) := by
  unfold State.withdrawRequest
  repeat' with_reducible first | intro _ | assumption | apply State.mWarden_keeps | apply State.respond_keeps | split

theorem State.enterQuenched_keeps (s : State) (code : Nat) {a₀ : State} (hk : Keeps a₀ s) : Keeps a₀ (State.enterQuenched s code) := by
  unfold State.enterQuenched
  extract_lets presented q s1 s2 s3 s4 s5 s6 s7 s8 s9 s10 s11
  have h1 : Keeps a₀ s1 := State.mFlt_keeps _ _ hk
  have h2 : Keeps a₀ s2 := Keeps.ite (Keeps.foldl (fun s x h => State.sinkRecord_keeps s x true h) _ h1) h1
  have h3 : Keeps a₀ s3 := Keeps.ite (State.drainMerging_keeps _ _ _ (State.drainMerging_keeps _ _ _ h2)) h2
  have h6 : Keeps a₀ s6 := State.mMem_keeps _ _ id (State.mTck_keeps _ _ (State.mFlt_keeps _ _ h3))
  have h11 : Keeps a₀ s11 := State.mBx_keeps _ _ (State.mChm_keeps _ _ (State.snapshot_keeps _ (State.mRoutes_keeps _ _
    (State.mSerais_keeps _ _ (State.mHearths_keeps _ _ h6)))))
  refine State.withdrawRequest_keeps _ ?_
  exact ⟨⟨h11.pending, h11.time, h11.mem, h11.parts, h11.levels⟩, fun w => by rcases w with w | w <;> cases w⟩

theorem State.sendCper_keeps (s : State) (r : FaultRec) {a₀ : State} (hk : Keeps a₀ s) :
    Keeps a₀ (State.sendCper s r) := by
  unfold State.sendCper
  repeat' with_reducible first | intro _ | assumption | apply State.mWarden_keeps

end Sys2Proof.Machine
end

