-- ==== Sys2Proof/Laws/Keeps/Control.lean ====
section
/-!
SUPPORT. What the operations of Machine/Control.lean keep.
-/
namespace Sys2Proof.Machine

theorem State.refuseTr_keeps (s : State) (cid : Nat) (c : Cmd) (e : Nat × Nat) {a₀ : State} (hk : Keeps a₀ s) :
    Keeps a₀ (State.refuseTr s cid c e) := by
  unfold State.refuseTr
  repeat' with_reducible first | assumption | apply State.mFn_keeps | apply State.eraseCmd_keeps | apply State.refuse_keeps | apply State.tearCmd_keeps | split

theorem State.countCommit_keeps (s : State) (c : Cmd) {a₀ : State} (hk : Keeps a₀ s) :
    Keeps a₀ (State.countCommit s c) := by
  unfold State.countCommit
  repeat' with_reducible first | assumption | apply State.count_keeps

theorem State.commitCtl_keeps (s : State) (cid : Nat) (c : Cmd) {a₀ : State} (hk : Keeps a₀ s) :
    Keeps a₀ (State.commitCtl s cid c) := by
  unfold State.commitCtl
  repeat' with_reducible first | assumption | apply State.answerCmd_keeps | apply State.countCommit_keeps

end Sys2Proof.Machine
end

