-- ==== Sys2Proof/Laws/Keeps/HearthMemory.lean ====
section
/-!
SUPPORT. What the operations of Machine/HearthMemory.lean keep.
-/
namespace Sys2Proof.Machine

theorem State.putStc_keeps (s : State) (die ctx : Nat) (t : PageTr) {a₀ : State} (hk : Keeps a₀ s) :
    Keeps a₀ (State.putStc s die ctx t) := by
  unfold State.putStc
  repeat' with_reducible first | assumption | apply State.mXlt_keeps

theorem State.putTlb_keeps (s : State) (h ctx : Nat) (t : PageTr) {a₀ : State} (hk : Keeps a₀ s) :
    Keeps a₀ (State.putTlb s h ctx t) := by
  unfold State.putTlb
  repeat' with_reducible first | assumption | apply State.mHearth_keeps

theorem State.runTr_keeps (s : State) (h : Nat) (ctx : Nat) (c : Ctx) (da : Nat) {a₀ : State} (hk : Keeps a₀ s) :
    Keeps a₀ (State.runTr s h ctx c da).2 := by
  unfold State.runTr
  repeat' with_reducible first | assumption | apply State.mXlt_keeps | apply State.countWalks_keeps | apply State.putStc_keeps | apply State.putTlb_keeps | split

theorem State.writeLine_keeps (s : State) (l : L1Line) {a₀ : State} (hk : Keeps a₀ s) :
    Keeps a₀ (State.writeLine s l) := by
  unfold State.writeLine
  repeat' with_reducible first | intro _ | assumption | apply Keeps.foldl | apply State.store_keeps

theorem State.putLine_keeps (s : State) (h : Nat) (l : L1Line) {a₀ : State} (hk : Keeps a₀ s) :
    Keeps a₀ (State.putLine s h l) := by
  unfold State.putLine
  try dsimp only
  repeat' with_reducible first | assumption | apply State.mHearth_keeps | apply State.writeLine_keeps | split

theorem State.fillLine_keeps (s : State) (h cid : Nat) (c : Cmd) (p : PA) (instr depot stream : Bool) {a₀ : State} (hk : Keeps a₀ s) :
    Keeps a₀ (State.fillLine s h cid c p instr depot stream).2 := by
  unfold State.fillLine
  try dsimp only
  repeat' with_reducible first | assumption | apply State.touch_keeps | apply State.depotHit_keeps | apply State.depotAlloc_keeps | split

theorem State.l1Line_keeps (s : State) (h cid : Nat) (c : Cmd) (p : PA) (instr : Bool) {a₀ : State} (hk : Keeps a₀ s) :
    Keeps a₀ (State.l1Line s h cid c p instr).2 := by
  unfold State.l1Line
  repeat' with_reducible first | assumption | apply State.putLine_keeps | apply State.fillLine_keeps | split

theorem State.dropLine_keeps (s : State) (h cid : Nat) (p : PA) {a₀ : State} (hk : Keeps a₀ s) :
    Keeps a₀ (State.dropLine s h cid p) := by
  unfold State.dropLine
  repeat' with_reducible first | assumption | apply State.mHearth_keeps | apply State.writeLine_keeps | split

theorem State.flushL1_keeps (s : State) (h cid : Nat) {a₀ : State} (hk : Keeps a₀ s) :
    Keeps a₀ (State.flushL1 s h cid) := by
  unfold State.flushL1
  repeat' with_reducible first | intro _ | assumption | apply Keeps.foldl | apply State.mHearth_keeps | apply State.writeLine_keeps

theorem State.drainWc_keeps (s : State) (e : WcEntry) {a₀ : State} (hk : Keeps a₀ s) :
    Keeps a₀ (State.drainWc s e) := by
  unfold State.drainWc
  repeat' with_reducible first | intro _ | assumption | apply Keeps.foldl | apply State.memWrite_keeps

theorem State.drainWcWhere_keeps (s : State) (h : Nat) (p : WcEntry → Bool) {a₀ : State} (hk : Keeps a₀ s) :
    Keeps a₀ (State.drainWcWhere s h p) := by
  unfold State.drainWcWhere
  repeat' with_reducible first | intro _ | assumption | apply Keeps.foldl | apply State.mHearth_keeps | apply State.drainWc_keeps

theorem State.wcPiece_keeps (s : State) (g : GroupRef) (cid : Nat) (sp : Space) (a : Nat × List Byte) {a₀ : State} (hk : Keeps a₀ s) :
    Keeps a₀ (State.wcPiece s g cid sp a) := by
  unfold State.wcPiece
  repeat' with_reducible first | assumption | apply State.mHearth_keeps | apply State.drainWc_keeps | apply State.drainWcWhere_keeps | split

theorem State.load_keeps (s : State) (g : GroupRef) (cid : Nat) (c : Cmd) (attr ch : Nat) (p : PA) (n : Nat) {a₀ : State} (hk : Keeps a₀ s) :
    Keeps a₀ (State.load s g cid c attr ch p n).st := by
  unfold State.load
  try dsimp only
  repeat' with_reducible first | assumption | apply State.touch_keeps | apply State.putLine_keeps | apply State.fillLine_keeps | apply State.l1Line_keeps | apply State.drainWcWhere_keeps | split

theorem State.storeBelow_keeps (s : State) (cid : Nat) (c : Cmd) (attr ch : Nat) (p : PA) (bs : List Byte) {a₀ : State} (hk : Keeps a₀ s) :
    Keeps a₀ (State.storeBelow s cid c attr ch p bs) := by
  unfold State.storeBelow
  repeat' with_reducible first | assumption | apply State.memWrite_keeps | apply State.store_keeps | split

theorem State.hstore_keeps (s : State) (g : GroupRef) (cid : Nat) (c : Cmd) (attr ch : Nat) (p : PA) (bs : List Byte) {a₀ : State} (hk : Keeps a₀ s) :
    Keeps a₀ (State.hstore s g cid c attr ch p bs) := by
  unfold State.hstore
  try dsimp only
  repeat' with_reducible first | assumption | apply State.memWrite_keeps | apply State.touch_keeps | apply State.putLine_keeps | apply State.l1Line_keeps | apply State.wcPiece_keeps | apply State.storeBelow_keeps | split

end Sys2Proof.Machine
end

