-- ==== Sys2Proof/Laws/Keeps/Tables.lean ====
section
/-!
SUPPORT. What the operations of Machine/Tables.lean keep.
-/
namespace Sys2Proof.Machine

theorem State.writePieces_keeps (s : State) (poisoned : Bool) (x0 : List (PA × Nat)) (x1 : List Byte) {a₀ : State} (hk : Keeps a₀ s) :
    Keeps a₀ (State.writePieces s poisoned x0 x1) := by
  induction x0 generalizing s poisoned x1 with
  | nil => simpa only [State.writePieces] using hk
  | cons y t ih =>
    simp only [State.writePieces]
    repeat' with_reducible first | assumption | apply ih | apply State.writeThrough_keeps

theorem State.tblWriteP_keeps (s : State) (t : Table) (da : Nat) (bs : List Byte) (poisoned : Bool) {a₀ : State} (hk : Keeps a₀ s) :
    Keeps a₀ (State.tblWriteP s t da bs poisoned) := by
  unfold State.tblWriteP
  repeat' with_reducible first | assumption | apply State.writePieces_keeps | split

theorem State.tblWrite_keeps (s : State) (t : Table) (da : Nat) (bs : List Byte) {a₀ : State} (hk : Keeps a₀ s) :
    Keeps a₀ (State.tblWrite s t da bs) := by
  unfold State.tblWrite
  repeat' with_reducible first | assumption | apply State.tblWriteP_keeps

theorem State.blockWrite_keeps (s : State) (ctrl nsid lba : Nat) (data : List Byte) (poisoned : Bool) {a₀ : State} (hk : Keeps a₀ s) :
    Keeps a₀ (State.blockWrite s ctrl nsid lba data poisoned) := by
  unfold State.blockWrite
  repeat' with_reducible first | assumption | apply State.mCellar_keeps

theorem State.migCopy_keeps (s : State) (tid : Nat) (t : Table) (row : Nat) (data st : List Byte) (poisoned stPoisoned : Bool) {a₀ : State} (hk : Keeps a₀ s) :
    Keeps a₀ (State.migCopy s tid t row data st poisoned stPoisoned) := by
  unfold State.migCopy
  try dsimp only
  repeat' with_reducible first | assumption | apply State.tblWriteP_keeps | split

theorem State.spanCopy_keeps (s : State) (tid : Nat) (t : Table) (da : Nat) (data : List Byte) (poisoned : Bool) {a₀ : State} (hk : Keeps a₀ s) :
    Keeps a₀ (State.spanCopy s tid t da data poisoned) := by
  unfold State.spanCopy
  repeat' with_reducible first | (intro _; try dsimp only) | assumption | apply Keeps.foldl | apply State.tblWriteP_keeps | split

theorem State.applyRow_keeps (s : State) (tid : Nat) (t : Table) (row : Nat) (data st : List Byte) (poisoned stPoisoned : Bool) {a₀ : State} (hk : Keeps a₀ s) :
    Keeps a₀ (State.applyRow s tid t row data st poisoned stPoisoned) := by
  unfold State.applyRow
  repeat' with_reducible first | assumption | apply State.mSeraiCnt_keeps | apply State.mTable_keeps | apply State.tblWriteP_keeps | apply State.migCopy_keeps | apply State.spanCopy_keeps | split

theorem State.mReg_keeps (s : State) (tid : Nat) (f : Table → Table) {a₀ : State} (hk : Keeps a₀ s) :
    Keeps a₀ (State.mReg s tid f) := by
  unfold State.mReg
  repeat' with_reducible first | assumption | apply State.mTally_keeps | apply State.mTable_keeps | split

theorem State.leaveTable_keeps (s : State) (tid : Nat) {a₀ : State} (hk : Keeps a₀ s) :
    Keeps a₀ (State.leaveTable s tid) := by
  unfold State.leaveTable
  repeat' with_reducible first | assumption | apply State.mTally_keeps

theorem State.tablesBoundary_keeps (s : State) {a₀ : State} (hk : Keeps a₀ s) :
    Keeps a₀ (State.tablesBoundary s) := by
  unfold State.tablesBoundary
  repeat' with_reducible first | assumption | apply State.mTally_keeps | apply State.mSerais_keeps

theorem State.addCount_keeps (s : State) (tid cid kind n : Nat) {a₀ : State} (hk : Keeps a₀ s) :
    Keeps a₀ (State.addCount s tid cid kind n) := by
  unfold State.addCount
  repeat' with_reducible first | assumption | apply State.mRt_keeps | split

theorem State.fillSlot_keeps (s : State) (tid : Nat) (row key : Nat) {a₀ : State} (hk : Keeps a₀ s) :
    Keeps a₀ (State.fillSlot s tid row key) := by
  unfold State.fillSlot
  repeat' with_reducible first | assumption | apply State.mTable_keeps | apply State.tblWrite_keeps | split

theorem State.runFills_keeps (s : State) (tid : Nat) {a₀ : State} (hk : Keeps a₀ s) :
    Keeps a₀ (State.runFills s tid) := by
  unfold State.runFills
  try dsimp only
  repeat' with_reducible first | intro _ | assumption | apply Keeps.foldl | apply State.mCmd_keeps | apply State.mTable_keeps | apply State.fillSlot_keeps | split

theorem State.refuseEngine_keeps (s : State) (cid : Nat) (c : Cmd) (tid code : Nat) {a₀ : State} (hk : Keeps a₀ s) :
    Keeps a₀ (State.refuseEngine s cid c tid code) := by
  unfold State.refuseEngine
  repeat' with_reducible first | assumption | apply State.refuse_keeps

theorem State.addClip_keeps (s : State) (tid elems clipped : Nat) {a₀ : State} (hk : Keeps a₀ s) :
    Keeps a₀ (State.addClip s tid elems clipped) := by
  unfold State.addClip
  repeat' with_reducible first | assumption | apply State.mRt_keeps

theorem State.clipCheck_keeps (s : State) (tid t : Nat) {a₀ : State} (hk : Keeps a₀ s) :
    Keeps a₀ (State.clipCheck s tid t) := by
  unfold State.clipCheck
  try dsimp only
  repeat' with_reducible first | assumption | apply State.mRt_keeps | apply State.raise_keeps | split

end Sys2Proof.Machine
end

