-- ==== Sys2Proof/Laws/Keeps/HostLink.lean ====
section
/-!
SUPPORT. What the operations of Machine/HostLink.lean keep.
-/
namespace Sys2Proof.Machine

theorem State.dropTr_keeps (s : State) (h ctx : Nat) (c : Ctx) (da : Nat) {a₀ : State} (hk : Keeps a₀ s) :
    Keeps a₀ (State.dropTr s h ctx c da) := by
  unfold State.dropTr
  repeat' with_reducible first | assumption | apply State.mXlt_keeps | apply State.mHearth_keeps

theorem State.dropCaches_keeps (s : State) (ctxs : List Nat) (hit : PageTr → Bool) {a₀ : State} (hk : Keeps a₀ s) :
    Keeps a₀ (State.dropCaches s ctxs hit) := by
  unfold State.dropCaches
  repeat' with_reducible first | assumption | apply State.mHearths_keeps | apply State.mXlt_keeps

theorem State.heldChanged_keeps (s : State) (ctx da : Nat) {a₀ : State} (hk : Keeps a₀ s) :
    Keeps a₀ (State.heldChanged s ctx da) := by
  unfold State.heldChanged
  repeat' with_reducible first | assumption | apply State.mXlt_keeps | apply State.tear_keeps

theorem State.redoHeld_keeps (s : State) (ctxs : List Nat) (hit : PageTr → Bool) (same : Ctx → PageTr → Bool) {a₀ : State} (hk : Keeps a₀ s) :
    Keeps a₀ (State.redoHeld s ctxs hit same) := by
  unfold State.redoHeld
  repeat' with_reducible first | intro _ | assumption | apply Keeps.foldl | apply State.heldChanged_keeps | split

theorem State.invalidateTables_keeps (s : State) (mine : Table → Bool) (hit : Table → Nat → Nat → Bool) {a₀ : State} (hk : Keeps a₀ s) :
    Keeps a₀ (State.invalidateTables s mine hit) := by
  unfold State.invalidateTables
  repeat' with_reducible first | (intro _; try dsimp only) | assumption | apply Keeps.foldl | apply State.mTable_keeps | apply State.raise_keeps | split

theorem State.hostPiece_keeps (s : State) (a : Nat × List Byte) (poisoned : Bool) {a₀ : State} (hk : Keeps a₀ s) :
    Keeps a₀ (State.hostPiece s a poisoned) := by
  unfold State.hostPiece
  try dsimp only
  repeat' with_reducible first | assumption | apply State.mDepot_keeps | apply State.memWrite_keeps | apply State.putLine_keeps | split

theorem State.spanSwitch_keeps (s : State) (tid : Nat) {a₀ : State} (hk : Keeps a₀ s) :
    Keeps a₀ (State.spanSwitch s tid) := by
  unfold State.spanSwitch
  repeat' with_reducible first | intro _ | assumption | apply Keeps.foldl | apply State.mXlt_keeps | apply State.mTable_keeps | apply State.mRt_keeps | split

end Sys2Proof.Machine
end

