-- ==== Sys2Proof/Laws/Keeps/RouteOps.lean ====
section
/-!
SUPPORT. What the operations of Machine/RouteOps.lean keep.
-/
namespace Sys2Proof.Machine

theorem State.mRop_keeps (s : State) (cid : Nat) (f : ROp → ROp) {a₀ : State} (hk : Keeps a₀ s) :
    Keeps a₀ (State.mRop s cid f) := by
  unfold State.mRop
  repeat' with_reducible first | assumption | apply State.mRoutes_keeps

theorem State.mLink_keeps (s : State) (cid p : Nat) (f : RLink → RLink) {a₀ : State} (hk : Keeps a₀ s) :
    Keeps a₀ (State.mLink s cid p f) := by
  unfold State.mLink
  repeat' with_reducible first | assumption | apply State.mRop_keeps

theorem State.dropOp_keeps (s : State) (o : ROp) {a₀ : State} (hk : Keeps a₀ s) :
    Keeps a₀ (State.dropOp s o) := by
  unfold State.dropOp
  repeat' with_reducible first | intro _ | assumption | apply Keeps.foldl | apply State.mRoutes_keeps | apply State.mCmd_keeps | apply State.leaveLink_keeps

theorem State.failOp_keeps (s : State) (o : ROp) (code : Nat) (detail : List Byte) {a₀ : State} (hk : Keeps a₀ s) :
    Keeps a₀ (State.failOp s o code detail) := by
  unfold State.failOp
  try dsimp only
  repeat' with_reducible first | assumption | apply State.raise_keeps | apply State.dropOp_keeps | split

theorem State.failPort_keeps (s : State) (p code reason : Nat) {a₀ : State} (hk : Keeps a₀ s) :
    Keeps a₀ (State.failPort s p code reason) := by
  unfold State.failPort
  repeat' with_reducible first | intro _ | assumption | apply Keeps.foldl | apply State.failOp_keeps

theorem State.quarantine_keeps (s : State) (p reason : Nat) {a₀ : State} (hk : Keeps a₀ s) :
    Keeps a₀ (State.quarantine s p reason) := by
  unfold State.quarantine
  repeat' with_reducible first | assumption | apply State.mTck_keeps | apply State.mPort_keeps | apply State.raiseAs_keeps | apply State.failPort_keeps

theorem State.suspect_keeps (s : State) (p : Nat) {a₀ : State} (hk : Keeps a₀ s) :
    Keeps a₀ (State.suspect s p) := by
  unfold State.suspect
  repeat' with_reducible first | assumption | apply State.mPort_keeps | apply State.raiseAs_keeps | apply State.failPort_keeps

theorem State.sendData_keeps (s : State) (o : ROp) (l : RLink) {a₀ : State} (hk : Keeps a₀ s) :
    Keeps a₀ (State.sendData s o l) := by
  unfold State.sendData
  try dsimp only
  repeat' with_reducible first | assumption | apply State.mPort_keeps | apply State.count_keeps | apply State.sendFrame_keeps | apply State.mLink_keeps | split

theorem State.pumpLink_keeps (s : State) (cid p : Nat) (x0 : Nat) {a₀ : State} (hk : Keeps a₀ s) :
    Keeps a₀ (State.pumpLink s cid p x0) := by
  induction x0 generalizing s cid p with
  | zero => simpa only [State.pumpLink] using hk
  | succ n ih =>
    simp only [State.pumpLink]
    repeat' with_reducible first | assumption | apply ih | apply State.mPortCnt_keeps | apply State.mLink_keeps | apply State.sendData_keeps | split

theorem State.pumpOp_keeps (s : State) (cid : Nat) {a₀ : State} (hk : Keeps a₀ s) :
    Keeps a₀ (State.pumpOp s cid) := by
  unfold State.pumpOp
  repeat' with_reducible first | intro _ | assumption | apply Keeps.foldl | apply State.pumpLink_keeps | split

theorem State.rdTake_keeps (s : State) (cid : Nat) (c : Cmd) (x0 : Nat) {a₀ : State} (hk : Keeps a₀ s) :
    Keeps a₀ (State.rdTake s cid c x0) := by
  induction x0 generalizing s cid c with
  | zero => simpa only [State.rdTake] using hk
  | succ n ih =>
    simp only [State.rdTake]
    repeat' with_reducible first | assumption | apply ih | apply State.mRop_keeps | apply State.mLink_keeps | split

theorem State.writeReduce_keeps (s : State) (cid : Nat) (c : Cmd) (o : ROp) {a₀ : State} (hk : Keeps a₀ s) :
    Keeps a₀ (State.writeReduce s cid c o) := by
  unfold State.writeReduce
  repeat' with_reducible first | assumption | apply State.mCmd_keeps | apply State.cmdWrite_keeps

theorem State.writeExchange_keeps (s : State) (cid : Nat) (c : Cmd) (o : ROp) {a₀ : State} (hk : Keeps a₀ s) :
    Keeps a₀ (State.writeExchange s cid c o) := by
  unfold State.writeExchange
  repeat' with_reducible first | intro _ | assumption | apply Keeps.foldl | apply State.cmdWrite_keeps

theorem State.linkDone_keeps (s : State) (o : ROp) (l : RLink) {a₀ : State} (hk : Keeps a₀ s) :
    Keeps a₀ (State.linkDone s o l) := by
  unfold State.linkDone
  repeat' with_reducible first | assumption | apply State.mChan_keeps

theorem State.advanceOp_keeps (s : State) (cid : Nat) {a₀ : State} (hk : Keeps a₀ s) :
    Keeps a₀ (State.advanceOp s cid) := by
  unfold State.advanceOp
  try dsimp only
  repeat' with_reducible first | intro _ | assumption | apply Keeps.foldl | apply State.mRoutes_keeps | apply State.mCmd_keeps | apply State.sendFrame_keeps | apply State.mRop_keeps | apply State.writeReduce_keeps | apply State.writeExchange_keeps | apply State.linkDone_keeps | split

theorem State.runOp_keeps (s : State) (cid : Nat) {a₀ : State} (hk : Keeps a₀ s) :
    Keeps a₀ (State.runOp s cid) := by
  unfold State.runOp
  repeat' with_reducible first | assumption | apply State.pumpOp_keeps | apply State.rdTake_keeps | apply State.advanceOp_keeps | split

theorem State.freeData_keeps (s : State) (p n : Nat) {a₀ : State} (hk : Keeps a₀ s) :
    Keeps a₀ (State.freeData s p n) := by
  unfold State.freeData
  repeat' with_reducible first | assumption | apply State.mPort_keeps | apply State.sendFrame_keeps | split

theorem State.stale_keeps (s : State) (p : Nat) {a₀ : State} (hk : Keeps a₀ s) :
    Keeps a₀ (State.stale s p) := by
  unfold State.stale
  repeat' with_reducible first | assumption | apply State.mPortCnt_keeps

theorem State.takeData_keeps (s : State) (p : Nat) (o : ROp) (l : RLink) (f : Frame) {a₀ : State} (hk : Keeps a₀ s) :
    Keeps a₀ (State.takeData s p o l f) := by
  unfold State.takeData
  repeat' with_reducible first | assumption | apply State.mLink_keeps | apply State.quarantine_keeps | apply State.runOp_keeps | apply State.freeData_keeps | split

theorem State.meetStart_keeps (s : State) (p : Nat) (o : ROp) (l : RLink) (f : Frame) {a₀ : State} (hk : Keeps a₀ s) :
    Keeps a₀ (State.meetStart s p o l f) := by
  unfold State.meetStart
  try dsimp only
  repeat' with_reducible first | assumption | apply State.mPortCnt_keeps | apply State.mChan_keeps | apply State.sendAbort_keeps | apply State.mLink_keeps | apply State.failOp_keeps | apply State.runOp_keeps | split

theorem State.deliverHeld_keeps (s : State) (cid p : Nat) {a₀ : State} (hk : Keeps a₀ s) :
    Keeps a₀ (State.deliverHeld s cid p) := by
  unfold State.deliverHeld
  try dsimp only
  repeat' with_reducible first | intro _ | assumption | apply Keeps.foldl | apply State.mChan_keeps | apply State.freeData_keeps | apply State.stale_keeps | apply State.takeData_keeps | apply State.meetStart_keeps | split

theorem State.takeSeq_keeps (s : State) (o : ROp) (l : RLink) {a₀ : State} (hk : Keeps a₀ s) :
    Keeps a₀ (State.takeSeq s o l) := by
  unfold State.takeSeq
  repeat' with_reducible first | assumption | apply State.raise_keeps | apply State.mChan_keeps | apply State.mLink_keeps | apply State.freeData_keeps | apply State.stale_keeps | split

theorem State.sendStart_keeps (s : State) (o : ROp) (l : RLink) {a₀ : State} (hk : Keeps a₀ s) :
    Keeps a₀ (State.sendStart s o l) := by
  unfold State.sendStart
  repeat' with_reducible first | assumption | apply State.sendFrame_keeps

theorem State.startOp_keeps (s : State) (cid : Nat) (c : Cmd) (o : ROp) {a₀ : State} (hk : Keeps a₀ s) :
    Keeps a₀ (State.startOp s cid c o) := by
  unfold State.startOp
  try dsimp only
  repeat' with_reducible first | intro _ | assumption | apply Keeps.foldl | apply State.tearCmd_keeps | apply State.mRop_keeps | apply State.mLink_keeps | apply State.dropOp_keeps | apply State.runOp_keeps | apply State.deliverHeld_keeps | apply State.takeSeq_keeps | apply State.sendStart_keeps | split

theorem State.queueOp_keeps (s : State) (cid : Nat) (o : ROp) {a₀ : State} (hk : Keeps a₀ s) :
    Keeps a₀ (State.queueOp s cid o) := by
  unfold State.queueOp
  repeat' with_reducible first | assumption | apply State.mRoutes_keeps | apply State.mCmd_keeps

end Sys2Proof.Machine
end

