-- ==== Sys2Proof/Laws/Keeps/Tick.lean ====
section
/-!
SUPPORT. What the operations of Machine/Tick.lean keep.
-/
namespace Sys2Proof.Machine

theorem State.takeNum_keeps (s : State) (num : Nat) {a₀ : State} (hk : Keeps a₀ s) :
    Keeps a₀ (State.takeNum s num) := by
  unfold State.takeNum
  repeat' with_reducible first | assumption | apply State.mTck_keeps | apply State.raise_keeps | split

theorem State.periodBad_keeps (s : State) {a₀ : State} (hk : Keeps a₀ s) :
    Keeps a₀ (State.periodBad s) := by
  unfold State.periodBad
  repeat' with_reducible first | assumption | apply State.mTck_keeps | apply State.raise_keeps

theorem State.badFrame_keeps (s : State) {a₀ : State} (hk : Keeps a₀ s) :
    Keeps a₀ (State.badFrame s) := by
  unfold State.badFrame
  repeat' with_reducible first | assumption | apply State.mTck_keeps

theorem State.goodFrame_keeps (s : State) (num edge : Nat) {a₀ : State} (hk : Keeps a₀ s) :
    Keeps a₀ (State.goodFrame s num edge) := by
  unfold State.goodFrame
  try dsimp only
  repeat' with_reducible first | assumption | apply State.mTck_keeps | apply State.takeNum_keeps | apply State.periodBad_keeps | split

theorem State.follow_keeps (s : State) (sync crc : Bool) (num edge : Nat) {a₀ : State} (hk : Keeps a₀ s) :
    Keeps a₀ (State.follow s sync crc num edge) := by
  unfold State.follow
  try dsimp only
  repeat' with_reducible first | assumption | apply State.mTck_keeps | apply State.periodBad_keeps | apply State.badFrame_keeps | apply State.goodFrame_keeps | split

theorem State.sendTickFrame_keeps (s : State) {a₀ : State} (hk : Keeps a₀ s) :
    Keeps a₀ (State.sendTickFrame s) := by
  unfold State.sendTickFrame
  repeat' with_reducible first | assumption | apply State.mTck_keeps | split

end Sys2Proof.Machine
end

