-- ==== Sys2Proof/Laws/Keeps/Route.lean ====
section
/-!
SUPPORT. What the operations of Machine/Route.lean keep.
-/
namespace Sys2Proof.Machine

theorem State.laneSpared_keeps (s : State) (p lane : Nat) (dst : Option Nat) (code : Nat) {a₀ : State} (hk : Keeps a₀ s) :
    Keeps a₀ (State.laneSpared s p lane dst code) := by
  unfold State.laneSpared
  repeat' with_reducible first | assumption | apply State.raise_keeps | apply State.spare_keeps

theorem State.enterUp_keeps (s : State) (p : Nat) {a₀ : State} (hk : Keeps a₀ s) :
    Keeps a₀ (State.enterUp s p) := by
  unfold State.enterUp
  try dsimp only
  repeat' with_reducible first | assumption | apply State.mTck_keeps | apply State.mPort_keeps | split

theorem State.bringupFailed_keeps (s : State) (p : Nat) {a₀ : State} (hk : Keeps a₀ s) :
    Keeps a₀ (State.bringupFailed s p) := by
  unfold State.bringupFailed
  try dsimp only
  repeat' with_reducible first | assumption | apply State.mPort_keeps | apply State.quarantine_keeps | apply State.suspect_keeps | split

theorem State.sendNak_keeps (s : State) (p : Nat) {a₀ : State} (hk : Keeps a₀ s) :
    Keeps a₀ (State.sendNak s p) := by
  unfold State.sendNak
  repeat' with_reducible first | assumption | apply State.sendFrame_keeps

theorem State.linkAccept_keeps (s : State) (p : Nat) (f : Frame) (trailer : Bool) {a₀ : State} (hk : Keeps a₀ s) :
    Keeps a₀ (State.linkAccept s p f trailer).1 := by
  unfold State.linkAccept
  try dsimp only
  repeat' with_reducible first | assumption | apply State.mPort_keeps | apply State.mPortCnt_keeps | apply State.suspect_keeps | apply State.sendNak_keeps | split

theorem State.burstCheck_keeps (s : State) (p : Nat) (f : Frame) {a₀ : State} (hk : Keeps a₀ s) :
    Keeps a₀ (State.burstCheck s p f).1 := by
  unfold State.burstCheck
  repeat' with_reducible first | assumption | apply State.mPort_keeps | split

theorem State.rxUp_keeps (s : State) (p : Nat) (f : Frame) (trailer : Bool) (act : State → State) {a₀ : State} (hact : ∀ y0, Keeps a₀ y0 → Keeps a₀ (act y0)) (hk : Keeps a₀ s) :
    Keeps a₀ (State.rxUp s p f trailer act) := by
  unfold State.rxUp
  try dsimp only
  repeat' with_reducible first | assumption | apply hact | apply State.quarantine_keeps | apply State.linkAccept_keeps | apply State.burstCheck_keeps | split

theorem State.aborted_keeps (s : State) (p : Nat) (o : ROp) (kill : Bool) {a₀ : State} (hk : Keeps a₀ s) :
    Keeps a₀ (State.aborted s p o kill) := by
  unfold State.aborted
  repeat' with_reducible first | intro _ | assumption | apply Keeps.foldl | apply State.mRoutes_keeps | apply State.mCmd_keeps | apply State.mChan_keeps | apply State.sendAbort_keeps | apply State.mRop_keeps | split

theorem State.portBoundary_keeps (s : State) (p : Nat) {a₀ : State} (hk : Keeps a₀ s) :
    Keeps a₀ (State.portBoundary s p) := by
  unfold State.portBoundary
  try dsimp only
  repeat' with_reducible first | assumption | apply State.mPort_keeps | apply State.sendFrame_keeps | apply State.suspect_keeps | split

theorem State.rxAuth_keeps (s : State) (p : Nat) (f : Frame) (trailer : Bool) (act : State → State) {a₀ : State} (hact : ∀ y0, Keeps a₀ y0 → Keeps a₀ (act y0)) (hk : Keeps a₀ s) :
    Keeps a₀ (State.rxAuth s p f trailer act) := by
  unfold State.rxAuth
  try dsimp only
  repeat' with_reducible first | assumption | apply hact | apply State.quarantine_keeps | apply State.linkAccept_keeps | apply State.burstCheck_keeps | split

theorem State.authEnd_keeps (s : State) (p : Nat) (ok : Bool) (digest : List Byte) {a₀ : State} (hk : Keeps a₀ s) :
    Keeps a₀ (State.authEnd s p ok digest) := by
  unfold State.authEnd
  try dsimp only
  repeat' with_reducible first | assumption | apply State.mPort_keeps | apply State.quarantine_keeps | apply State.enterUp_keeps | split

theorem State.rekey_keeps (s : State) (p : Nat) {a₀ : State} (hk : Keeps a₀ s) :
    Keeps a₀ (State.rekey s p) := by
  unfold State.rekey
  repeat' with_reducible first | assumption | apply State.mPort_keeps | apply State.sendFrame_keeps

theorem State.loadRouteKey_keeps (s : State) (cid : Nat) (mine : Nat → Bool) (act : Cmd → Ctx → State) {a₀ : State} (hact : ∀ y0 y1, Keeps a₀ (act y0 y1)) (hk : Keeps a₀ s) :
    Keeps a₀ (State.loadRouteKey s cid mine act) := by
  unfold State.loadRouteKey
  repeat' with_reducible first | assumption | apply hact | apply State.refuse_keeps | split

end Sys2Proof.Machine
end

