-- ==== Sys2Proof/Laws/Keeps/Sparing.lean ====
section
/-!
SUPPORT. What the operations of Machine/Sparing.lean keep.
-/
namespace Sys2Proof.Machine

theorem State.laneFail_keeps (s : State) (q lane : Nat) {a₀ : State} (hk : Keeps a₀ s) :
    Keeps a₀ (State.laneFail s q lane) := by
  unfold State.laneFail
  try dsimp only
  repeat' with_reducible first | assumption | apply State.mSerai_keeps | apply State.raise_keeps | apply State.spare_keeps | split

theorem State.laneStrike_keeps (s : State) (q lane limit : Nat) {a₀ : State} (hk : Keeps a₀ s) :
    Keeps a₀ (State.laneStrike s q lane limit) := by
  unfold State.laneStrike
  try dsimp only
  repeat' with_reducible first | assumption | apply State.mSerai_keeps | apply State.laneFail_keeps | split

end Sys2Proof.Machine
end

