-- ==== Sys2Proof/Laws/Keeps/Lookup.lean ====
section
/-!
SUPPORT. What the operations of Machine/Lookup.lean keep.
-/
namespace Sys2Proof.Machine

theorem State.sendBag_keeps (s : State) (cid : Nat) (c : Cmd) (update : Bool) (b : Nat) (d : BagDesc) {a₀ : State} (hk : Keeps a₀ s) :
    Keeps a₀ (State.sendBag s cid c update b d) := by
  unfold State.sendBag
  repeat' with_reducible first | intro _ | assumption | apply Keeps.foldl | apply State.mSerais_keeps | apply State.mCmd_keeps | apply State.mSerai_keeps | apply State.mRt_keeps | apply State.count_keeps | apply State.addCount_keeps | split

theorem State.mAcc_keeps (s : State) (q cid bag : Nat) (f : BagAcc → BagAcc) {a₀ : State} (hk : Keeps a₀ s) :
    Keeps a₀ (State.mAcc s q cid bag f) := by
  unfold State.mAcc
  repeat' with_reducible first | assumption | apply State.mSerai_keeps

theorem State.freeAcc_keeps (s : State) (q cid bag : Nat) {a₀ : State} (hk : Keeps a₀ s) :
    Keeps a₀ (State.freeAcc s q cid bag) := by
  unfold State.freeAcc
  repeat' with_reducible first | assumption | apply State.mSerai_keeps

theorem State.bagDone_keeps (s : State) (cid n : Nat) {a₀ : State} (hk : Keeps a₀ s) :
    Keeps a₀ (State.bagDone s cid n) := by
  unfold State.bagDone
  repeat' with_reducible first | assumption | apply State.mCmd_keeps

theorem State.finishBag_keeps (s : State) (q : Nat) (b : BagInfo) (a : BagAcc) (residueOk : Bool) {a₀ : State} (hk : Keeps a₀ s) :
    Keeps a₀ (State.finishBag s q b a residueOk) := by
  unfold State.finishBag
  try dsimp only
  repeat' with_reducible first | assumption | apply State.mSerais_keeps | apply State.mHearths_keeps | apply State.mCmd_keeps | apply State.mSeraiCnt_keeps | apply State.raise_keeps | apply State.cmdWrite_keeps | apply State.addCount_keeps | apply State.freeAcc_keeps | apply State.bagDone_keeps | split

theorem State.bagStep_keeps (s : State) (q cid bag : Nat) (residueOk : Bool) {a₀ : State} (hk : Keeps a₀ s) :
    Keeps a₀ (State.bagStep s q cid bag residueOk) := by
  unfold State.bagStep
  repeat' with_reducible first | assumption | apply State.mSerais_keeps | apply State.mSeraiCnt_keeps | apply State.freeAcc_keeps | apply State.finishBag_keeps | split

theorem State.noteMixed_keeps (s : State) (cid : Nat) (t : Table) {a₀ : State} (hk : Keeps a₀ s) :
    Keeps a₀ (State.noteMixed s cid t) := by
  unfold State.noteMixed
  repeat' with_reducible first | assumption | apply State.mCmd_keeps | split

theorem State.poolRec_keeps (s : State) (q : Nat) (t : Table) (imgs : List (Option Int)) (fresh : Bool) (residueOk : Bool) (r : Rec) {a₀ : State} (hk : Keeps a₀ s) :
    Keeps a₀ (State.poolRec s q t imgs fresh residueOk r) := by
  unfold State.poolRec
  repeat' with_reducible first | assumption | apply State.mAcc_keeps | apply State.bagStep_keeps | apply State.noteMixed_keeps | split

theorem State.poolAll_keeps (s : State) (q : Nat) (t : Table) (data : List Byte) (fresh residueOk : Bool) (rs : List Rec) {a₀ : State} (hk : Keeps a₀ s) :
    Keeps a₀ (State.poolAll s q t data fresh residueOk rs) := by
  unfold State.poolAll
  repeat' with_reducible first | intro _ | assumption | apply Keeps.foldl | apply State.poolRec_keeps

theorem State.mergeRec_keeps (s : State) (q : Nat) (k : Key) (t : Table) (r : Rec) {a₀ : State} (hk : Keeps a₀ s) :
    Keeps a₀ (State.mergeRec s q k t r) := by
  unfold State.mergeRec
  repeat' with_reducible first | assumption | apply State.mCmd_keeps | apply State.mSerai_keeps | apply State.mSeraiCnt_keeps | apply State.bagDone_keeps | split

theorem State.aclRecord_keeps (s : State) (q : Nat) (rec : List Byte) {a₀ : State} (hk : Keeps a₀ s) :
    Keeps a₀ (State.aclRecord s q rec) := by
  unfold State.aclRecord
  try dsimp only
  repeat' with_reducible first | assumption | apply State.mSerai_keeps | apply State.writeThrough_keeps | split

theorem State.aclCount_keeps (s : State) (q tid : Nat) (t : Table) (row : Nat) {a₀ : State} (hk : Keeps a₀ s) :
    Keeps a₀ (State.aclCount s q tid t row) := by
  unfold State.aclCount
  try dsimp only
  repeat' with_reducible first | assumption | apply State.mSerai_keeps | apply State.aclRecord_keeps | split

theorem State.useDefault_keeps (s : State) (q : Nat) (t : Table) (residueOk : Bool) (rs : List Rec) {a₀ : State} (hk : Keeps a₀ s) :
    Keeps a₀ (State.useDefault s q t residueOk rs) := by
  unfold State.useDefault
  repeat' with_reducible first | intro _ | assumption | apply Keeps.foldl | apply State.mCellar_keeps | apply State.mCmd_keeps | apply State.poolAll_keeps

theorem State.flashAsk_keeps (s : State) (q tid : Nat) (t : Table) (row : Nat) {a₀ : State} (hk : Keeps a₀ s) :
    Keeps a₀ (State.flashAsk s q tid t row) := by
  unfold State.flashAsk
  repeat' with_reducible first | assumption | apply State.mCellar_keeps

theorem State.countFetch_keeps (s : State) (q : Nat) (e : Entry) (t : Table) {a₀ : State} (hk : Keeps a₀ s) :
    Keeps a₀ (State.countFetch s q e t) := by
  unfold State.countFetch
  try dsimp only
  repeat' with_reducible first | assumption | apply State.mSeraiCnt_keeps | apply State.mTable_keeps | apply State.count_keeps | apply State.aclCount_keeps | split

theorem State.queueKey_keeps (s : State) (q : Nat) (t : Table) (e : Entry) {a₀ : State} (hk : Keeps a₀ s) :
    Keeps a₀ (State.queueKey s q t e) := by
  unfold State.queueKey
  try dsimp only
  repeat' with_reducible first | assumption | apply State.mSerai_keeps | apply State.useDefault_keeps | apply State.flashAsk_keeps | apply State.countFetch_keeps | split

theorem State.disposeKey_keeps (s : State) (q : Nat) (e : Entry) {a₀ : State} (hk : Keeps a₀ s) :
    Keeps a₀ (State.disposeKey s q e) := by
  unfold State.disposeKey
  try dsimp only
  repeat' with_reducible first | intro _ | assumption | apply Keeps.foldl | apply State.poolAll_keeps | apply State.mergeRec_keeps | apply State.queueKey_keeps | split

theorem State.closeWindow_keeps (s : State) (q : Nat) (full : Bool) {a₀ : State} (hk : Keeps a₀ s) :
    Keeps a₀ (State.closeWindow s q full) := by
  unfold State.closeWindow
  repeat' with_reducible first | intro _ | assumption | apply Keeps.foldl | apply State.mSerai_keeps | apply State.mSeraiCnt_keeps | apply State.disposeKey_keeps | split

theorem State.enterWindow_keeps (s : State) (q : Nat) (r : Ref) {a₀ : State} (hk : Keeps a₀ s) :
    Keeps a₀ (State.enterWindow s q r) := by
  unfold State.enterWindow
  try dsimp only
  repeat' with_reducible first | assumption | apply State.mSerai_keeps | apply State.mSeraiCnt_keeps | apply State.closeWindow_keeps | split

theorem State.allocAcc_keeps (s : State) (q : Nat) (r : Ref) (t : Table) {a₀ : State} (hk : Keeps a₀ s) :
    Keeps a₀ (State.allocAcc s q r t) := by
  unfold State.allocAcc
  repeat' with_reducible first | assumption | apply State.mSerai_keeps | split

theorem State.allocMerge_keeps (s : State) (q : Nat) (r : Ref) (t : Table) {a₀ : State} (hk : Keeps a₀ s) :
    Keeps a₀ (State.allocMerge s q r t) := by
  unfold State.allocMerge
  repeat' with_reducible first | assumption | apply State.mSerai_keeps | split

theorem State.acceptRef_keeps (s : State) (q : Nat) (t : Table) (r : Ref) {a₀ : State} (hk : Keeps a₀ s) :
    Keeps a₀ (State.acceptRef s q t r) := by
  unfold State.acceptRef
  try dsimp only
  repeat' with_reducible first | assumption | apply State.mSeraiCnt_keeps | apply State.mTable_keeps | apply State.count_keeps | apply State.poolAll_keeps | apply State.enterWindow_keeps | apply State.allocAcc_keeps | apply State.allocMerge_keeps | split

theorem State.intake1_keeps (s : State) (q input : Nat) (x0 : Nat) {a₀ : State} (hk : Keeps a₀ s) :
    Keeps a₀ (State.intake1 s q input x0) := by
  induction x0 generalizing s q input with
  | zero => simpa only [State.intake1] using hk
  | succ n ih =>
    simp only [State.intake1]
    repeat' with_reducible first | assumption | apply ih | apply State.mSerai_keeps | apply State.mSeraiCnt_keeps | apply State.acceptRef_keeps | split

theorem State.resumeMerges_keeps (s : State) (q : Nat) (x0 : Nat) {a₀ : State} (hk : Keeps a₀ s) :
    Keeps a₀ (State.resumeMerges s q x0) := by
  induction x0 generalizing s q with
  | zero => simpa only [State.resumeMerges] using hk
  | succ n ih =>
    simp only [State.resumeMerges]
    repeat' with_reducible first | assumption | apply ih | apply State.mSerai_keeps | apply State.acceptRef_keeps | split

theorem State.holdCopy_keeps (s : State) (q : Nat) (k : Key) (data : List Byte) (replace : Option Nat) {a₀ : State} (hk : Keeps a₀ s) :
    Keeps a₀ (State.holdCopy s q k data replace) := by
  unfold State.holdCopy
  repeat' with_reducible first | assumption | apply State.mSerai_keeps

theorem State.deliver_keeps (s : State) (q : Nat) (t : Table) (e : Entry) (data : List Byte) (replace : Option Nat) (residueOk : Bool) {a₀ : State} (hk : Keeps a₀ s) :
    Keeps a₀ (State.deliver s q t e data replace residueOk) := by
  unfold State.deliver
  try dsimp only
  repeat' with_reducible first | assumption | apply State.mSeraiCnt_keeps | apply State.poolAll_keeps | apply State.holdCopy_keeps | split

theorem State.rowPoison_keeps (s : State) (q : Nat) (t : Table) (e : Entry) (row : Nat) {a₀ : State} (hk : Keeps a₀ s) :
    Keeps a₀ (State.rowPoison s q t e row) := by
  unfold State.rowPoison
  repeat' with_reducible first | intro _ | assumption | apply Keeps.foldl | apply State.mSeraiCnt_keeps | apply State.tearCmd_keeps

theorem State.crcFail_keeps (s : State) (tid q lane : Nat) (cids : List Nat) {a₀ : State} (hk : Keeps a₀ s) :
    Keeps a₀ (State.crcFail s tid q lane cids) := by
  unfold State.crcFail
  repeat' with_reducible first | intro _ | assumption | apply Keeps.foldl | apply State.mCmd_keeps | apply State.raise_keeps | split

theorem State.flashWaiter_keeps (s : State) (ok : Bool) (w : Nat × Key) {a₀ : State} (hk : Keeps a₀ s) :
    Keeps a₀ (State.flashWaiter s ok w) := by
  unfold State.flashWaiter
  repeat' with_reducible first | intro _ | assumption | apply Keeps.foldl | apply State.mSerai_keeps | apply State.useDefault_keeps | apply State.deliver_keeps | split

theorem execAclConfig_keeps (fn v : Nat) (s : State) {a₀ : State} (hk : Keeps a₀ s) :
    ∀ t, execAclConfig fn v s = .next t → Keeps a₀ t := by
  intro t ht
  unfold execAclConfig at ht
  try dsimp only at ht
  repeat' with_reducible first | cases ht | split at ht
  all_goals repeat' with_reducible first | assumption | apply State.mSerai_keeps | split

end Sys2Proof.Machine
end

