-- ==== Sys2Proof/Laws/Keeps/Update.lean ====
section
/-!
SUPPORT. What the operations of Machine/Update.lean keep.
-/
namespace Sys2Proof.Machine

theorem State.putOverlay_keeps (s : State) (q : Nat) (o : Overlay) {a₀ : State} (hk : Keeps a₀ s) :
    Keeps a₀ (State.putOverlay s q o) := by
  unfold State.putOverlay
  repeat' with_reducible first | assumption | apply State.mSerai_keeps

theorem State.stageRow_keeps (s : State) (q : Nat) (o : Overlay) {a₀ : State} (hk : Keeps a₀ s) :
    Keeps a₀ (State.stageRow s q o) := by
  unfold State.stageRow
  repeat' with_reducible first | assumption | apply State.mSerai_keeps | apply State.mSeraiCnt_keeps | apply State.putOverlay_keeps | split

theorem State.stagedAll_keeps (s : State) (cid : Nat) {a₀ : State} (hk : Keeps a₀ s) :
    Keeps a₀ (State.stagedAll s cid) := by
  unfold State.stagedAll
  repeat' with_reducible first | assumption | apply State.mCmd_keeps | split

theorem State.resumeStages_keeps (s : State) (q : Nat) (x0 : Nat) {a₀ : State} (hk : Keeps a₀ s) :
    Keeps a₀ (State.resumeStages s q x0) := by
  induction x0 generalizing s q with
  | zero => simpa only [State.resumeStages] using hk
  | succ n ih =>
    simp only [State.resumeStages]
    repeat' with_reducible first | assumption | apply ih | apply State.mSerai_keeps | apply State.putOverlay_keeps | apply State.stagedAll_keeps | split

theorem State.writeUnit_keeps (s : State) (tid : Nat) (t : Table) (row u : Nat) {a₀ : State} (hk : Keeps a₀ s) :
    Keeps a₀ (State.writeUnit s tid t row u) := by
  unfold State.writeUnit
  try dsimp only
  repeat' with_reducible first | assumption | apply State.tblWrite_keeps | split

theorem State.dropHold_keeps (s : State) (q tid row : Nat) {a₀ : State} (hk : Keeps a₀ s) :
    Keeps a₀ (State.dropHold s q tid row) := by
  unfold State.dropHold
  repeat' with_reducible first | assumption | apply State.mSerai_keeps

theorem State.applyWrite_keeps (s : State) (tid : Nat) (t : Table) (row : Nat) (data st : List Byte) {a₀ : State} (hk : Keeps a₀ s) :
    Keeps a₀ (State.applyWrite s tid t row data st) := by
  unfold State.applyWrite
  try dsimp only
  repeat' with_reducible first | assumption | apply State.mSerai_keeps | apply State.applyRow_keeps | apply State.dropHold_keeps | split

theorem State.applyOne_keeps (s : State) (q : Nat) (m : Merge) {a₀ : State} (hk : Keeps a₀ s) :
    Keeps a₀ (State.applyOne s q m) := by
  unfold State.applyOne
  try dsimp only
  repeat' with_reducible first | assumption | apply State.mSerai_keeps | apply State.mSeraiCnt_keeps | apply State.mTable_keeps | apply State.raise_keeps | apply State.addClip_keeps | apply State.applyWrite_keeps | split

theorem State.applyPending_keeps (s : State) (q tid row : Nat) (x0 : Nat) {a₀ : State} (hk : Keeps a₀ s) :
    Keeps a₀ (State.applyPending s q tid row x0) := by
  induction x0 generalizing s q tid row with
  | zero => simpa only [State.applyPending] using hk
  | succ n ih =>
    simp only [State.applyPending]
    repeat' with_reducible first | assumption | apply ih | apply State.applyOne_keeps | split

theorem State.showEntry_keeps (s : State) (o : Overlay) {a₀ : State} (hk : Keeps a₀ s) :
    Keeps a₀ (State.showEntry s o).1 := by
  unfold State.showEntry
  repeat' with_reducible first | assumption | apply State.mSerai_keeps | apply State.mSeraiCnt_keeps | apply State.mRt_keeps | apply State.putOverlay_keeps | apply State.dropHold_keeps | apply State.applyPending_keeps | split

theorem State.showAll_keeps (s : State) (x0 : List Overlay) {a₀ : State} (hk : Keeps a₀ s) :
    Keeps a₀ (State.showAll s x0).1 := by
  induction x0 generalizing s with
  | nil => simpa only [State.showAll] using hk
  | cons y t ih =>
    simp only [State.showAll]
    repeat' with_reducible first | assumption | apply ih | apply State.showEntry_keeps

theorem State.stepVersions_keeps (s : State) (tids : List Nat) {a₀ : State} (hk : Keeps a₀ s) :
    Keeps a₀ (State.stepVersions s tids) := by
  unfold State.stepVersions
  repeat' with_reducible first | intro _ | assumption | apply Keeps.foldl | apply State.mTable_keeps

theorem State.dropOverlay_keeps (s : State) (p : Overlay → Bool) {a₀ : State} (hk : Keeps a₀ s) :
    Keeps a₀ (State.dropOverlay s p) := by
  unfold State.dropOverlay
  repeat' with_reducible first | assumption | apply State.mSerais_keeps

theorem State.commitRows_keeps (s : State) (cid : Nat) {a₀ : State} (hk : Keeps a₀ s) :
    Keeps a₀ (State.commitRows s cid) := by
  unfold State.commitRows
  repeat' with_reducible first | assumption | apply State.mSerais_keeps | apply State.showAll_keeps | apply State.stepVersions_keeps | apply State.dropOverlay_keeps

theorem State.rowsBad_keeps (s : State) (c : Cmd) {a₀ : State} (hk : Keeps a₀ s) :
    Keeps a₀ (State.rowsBad s c) := by
  unfold State.rowsBad
  repeat' with_reducible first | assumption | apply State.tearCmd_keeps

theorem State.joinMerge_keeps (s : State) (cid : Nat) (m : Merge) {a₀ : State} (hk : Keeps a₀ s) :
    Keeps a₀ (State.joinMerge s cid m) := by
  unfold State.joinMerge
  try dsimp only
  repeat' with_reducible first | assumption | apply State.mCmd_keeps | apply State.mSerai_keeps | apply State.mSeraiCnt_keeps | apply State.addClip_keeps | split

theorem State.commitMerges_keeps (s : State) (cid : Nat) {a₀ : State} (hk : Keeps a₀ s) :
    Keeps a₀ (State.commitMerges s cid) := by
  unfold State.commitMerges
  repeat' with_reducible first | intro _ | assumption | apply Keeps.foldl | apply State.mSerais_keeps | apply State.joinMerge_keeps

theorem State.recalSwitch_keeps (s : State) (tid : Nat) {a₀ : State} (hk : Keeps a₀ s) :
    Keeps a₀ (State.recalSwitch s tid) := by
  unfold State.recalSwitch
  repeat' with_reducible first | assumption | apply State.mTable_keeps | apply State.mRt_keeps | split

theorem State.commitLoad_keeps (s : State) (c : Cmd) {a₀ : State} (hk : Keeps a₀ s) :
    Keeps a₀ (State.commitLoad s c) := by
  unfold State.commitLoad
  repeat' with_reducible first | assumption | apply State.mTable_keeps | apply State.mRt_keeps | split

theorem State.migRow_keeps (s : State) (t : Table) (m : Mig) (l : Nat) {a₀ : State} (hk : Keeps a₀ s) :
    Keeps a₀ (State.migRow s t m l) := by
  unfold State.migRow
  repeat' with_reducible first | assumption | apply State.tblWriteP_keeps | split

theorem State.migSwitch_keeps (s : State) (tid : Nat) {a₀ : State} (hk : Keeps a₀ s) :
    Keeps a₀ (State.migSwitch s tid) := by
  unfold State.migSwitch
  repeat' with_reducible first | intro _ | assumption | apply Keeps.foldl | apply State.mSerai_keeps | apply State.mTable_keeps | apply State.mRt_keeps | apply State.putOverlay_keeps | split

theorem State.commitTables_keeps (s : State) (cid : Nat) (c : Cmd) {a₀ : State} (hk : Keeps a₀ s) :
    Keeps a₀ (State.commitTables s cid c) := by
  unfold State.commitTables
  repeat' with_reducible first | assumption | apply State.mTally_keeps | apply State.commitRows_keeps | apply State.commitMerges_keeps | apply State.commitLoad_keeps

theorem State.formApply_keeps (s : State) {a₀ : State} (hk : Keeps a₀ s) :
    Keeps a₀ (State.formApply s).1 := by
  unfold State.formApply
  repeat' with_reducible first | assumption | apply State.mSerais_keeps

theorem State.seraisBoundary_keeps (s : State) {a₀ : State} (hk : Keeps a₀ s) :
    Keeps a₀ (State.seraisBoundary s) := by
  unfold State.seraisBoundary
  repeat' with_reducible first | intro _ | assumption | apply Keeps.foldl | apply State.mTally_keeps | apply State.mSerais_keeps | apply State.showAll_keeps | apply State.stepVersions_keeps | apply State.dropOverlay_keeps | apply State.recalSwitch_keeps | apply State.migSwitch_keeps | apply State.formApply_keeps

end Sys2Proof.Machine
end

