-- ==== Sys2Proof/Laws/Keeps/Boundary.lean ====
section
/-!
SUPPORT. What the operations of Machine/Boundary.lean keep.
-/
namespace Sys2Proof.Machine

theorem State.boundaryKills_keeps (s : State) (t : Nat) {a₀ : State} (hk : Keeps a₀ s) :
    Keeps a₀ (State.boundaryKills s t) := by
  unfold State.boundaryKills
  repeat' with_reducible first | intro _ | assumption | apply Keeps.foldl | apply State.boundaryKillWb_keeps | apply State.spanKill_keeps

theorem State.abandonReplays_keeps (s : State) (t : Nat) {a₀ : State} (hk : Keeps a₀ s) :
    Keeps a₀ (State.abandonReplays s t) := by
  unfold State.abandonReplays
  repeat' with_reducible first | intro _ | assumption | apply Keeps.foldl | apply State.mWb_keeps | apply State.answerWb_keeps | apply State.boundaryKillWb_keeps | split

theorem State.answerRequest_keeps (s : State) {a₀ : State} (hk : Keeps a₀ s) :
    Keeps a₀ (State.answerRequest s) := by
  unfold State.answerRequest
  repeat' with_reducible first | intro _ | assumption | apply State.mWarden_keeps | apply State.respond_keeps | split

theorem Keeps0.then {a s t : State} (h : Keeps0 a s) (k : Keeps s t) : Keeps0 a t := h.trans k.toKeeps0

/-- A change of the device state alone. -/
theorem Keeps0.dev {a s : State} (h : Keeps0 a s) (d : DevState) : Keeps0 a { s with dev := d } :=
  ⟨h.pending, h.time, h.mem, h.parts, h.levels⟩

theorem State.changeState_keeps0 (s : State) (t : Nat) {a₀ : State} (hk : Keeps0 a₀ s) : Keeps0 a₀ (State.changeState s t) := by
  unfold State.changeState
  split
  · exact hk
  · extract_lets s1 s2 s3 s4 s5
    have h3 : Keeps s s3 := Keeps.foldl (fun s x h => State.expire_keeps s x h) _ (State.boundaryKills_keeps _ _
      (Keeps.ite (State.abandonReplays_keeps _ _ (Keeps.refl s)) (Keeps.refl s)))
    have h4 : Keeps0 a₀ s4 := (hk.then h3).dev _
    exact h4.then (State.answerRequest_keeps _ (State.mTck_keeps _ _ (Keeps.refl _)))

theorem State.deregisterFn_keeps (s : State) (f : Nat) {a₀ : State} (hk : Keeps a₀ s) :
    Keeps a₀ (State.deregisterFn s f) := by
  unfold State.deregisterFn
  repeat' with_reducible first | assumption | apply State.mStk_keeps | apply State.mTally_keeps | apply State.mFn_keeps | apply State.dropCaches_keeps | split

theorem State.tablesStep_keeps (s : State) (t : Nat) {a₀ : State} (hk : Keeps a₀ s) :
    Keeps a₀ (State.tablesStep s t) := by
  unfold State.tablesStep
  repeat' with_reducible first | intro _ | assumption | apply Keeps.foldl | apply State.mTally_keeps | apply State.tablesBoundary_keeps | apply State.clipCheck_keeps | apply State.spanSwitch_keeps | apply State.seraisBoundary_keeps

theorem State.levelsStep_keeps (s : State) {a₀ : State} (hk : Keeps a₀ s) :
    Keeps a₀ (State.levelsStep s) := by
  unfold State.levelsStep
  repeat' with_reducible first | assumption | apply State.mDampers_keeps | apply State.mPower_keeps

theorem State.traceTick_keeps (s : State) (admitted : Nat) (byWindow : Bool) {a₀ : State} (hk : Keeps a₀ s) :
    Keeps a₀ (State.traceTick s admitted byWindow) := by
  unfold State.traceTick
  repeat' with_reducible first | assumption | apply State.trace_keeps

theorem State.rotate_keeps (s : State) (q : Nat) {a₀ : State} (hk : Keeps a₀ s) :
    Keeps a₀ (State.rotate s q) := by
  unfold State.rotate
  try dsimp only
  repeat' with_reducible first | assumption | apply State.mHearths_keeps | apply State.mHearth_keeps | split

theorem State.startTick_keeps (s : State) {a₀ : State} (hk : Keeps a₀ s) :
    Keeps a₀ (State.startTick s) := by
  unfold State.startTick
  repeat' with_reducible first | assumption | apply State.mTck_keeps | apply State.mCvn_keeps

theorem State.killStep_keeps0 (s : State) (t : Nat) {a₀ : State} (hk : Keeps0 a₀ s) : Keeps0 a₀ (State.killStep s t) := by
  unfold State.killStep
  split
  · exact State.changeState_keeps0 s t hk
  · exact hk.then (State.boundaryKills_keeps _ _ (Keeps.refl _))

theorem State.recipesStep_keeps (s : State) {a₀ : State} (hk : Keeps a₀ s) :
    Keeps a₀ (State.recipesStep s) := by
  unfold State.recipesStep
  repeat' with_reducible first | intro _ | assumption | apply Keeps.foldl | apply State.mStk_keeps | apply State.deregisterFn_keeps

theorem State.boundary_keeps0 (s : State) {a₀ : State} (hk : Keeps0 a₀ s) : Keeps0 a₀ (State.boundary s) := by
  unfold State.boundary
  extract_lets admitted byWindow s1 t s2 s3 s4 s5 s6 s7 s8
  have h2 : Keeps0 a₀ s2 :=
    (State.killStep_keeps0 _ _ (hk.then (State.startTick_keeps _ (Keeps.refl _)))).then (State.recipesStep_keeps _ (Keeps.refl _))
  refine h2.then (State.sendTickFrame_keeps _ ?_)
  refine Keeps.foldl (fun s q h => State.rotate_keeps s q h) _ (Keeps.foldl (fun s p h => State.portBoundary_keeps s p h) _ ?_)
  exact State.beginAssembly_keeps _ (State.traceTick_keeps _ _ _ (State.snapshot_keeps _ (State.mChm_keeps _ _
    (State.levelsStep_keeps _ (State.tablesStep_keeps _ _ (Keeps.refl _))))))

/-- The clocks advance by a cycle, and nothing else of note changes. -/
theorem State.idleClocks (s : State) :
    let s1 := { s with time := s.time + 1 }
    let s2 := if s1.dev == .off then s1 else s1.mPower fun p => { p with hclk := p.hclk + hearthMHz p.hlevel }
    let s3 := if s2.live then s2.mTck fun t => { t with phase := t.phase + 1 } else s2
    s3.pending = s.pending ∧ s3.time = s.time + 1 ∧ s3.mem = s.mem ∧ s3.warden = s.warden ∧ s3.fuses = s.fuses ∧ s3.dev = s.dev := by
  intro s1 s2 s3
  have h2 : s2.pending = s.pending ∧ s2.time = s.time + 1 ∧ s2.mem = s.mem ∧ s2.warden = s.warden ∧ s2.fuses = s.fuses ∧ s2.dev = s.dev := by
    by_cases h : (s1.dev == .off) = true
    · simp only [s2, if_pos h]; exact ⟨rfl, rfl, rfl, rfl, rfl, rfl⟩
    · simp only [s2, if_neg h]; exact ⟨rfl, rfl, rfl, rfl, rfl, rfl⟩
  clear_value s2
  by_cases h : s2.live = true
  · simp only [s3, if_pos h]; exact h2
  · simp only [s3, if_neg h]; exact h2

/-- What a cycle with nothing commanded keeps, but the clock. -/
theorem State.idle_keeps (s : State) : ∃ t, Keeps s t ∧ (State.idle s).pending = t.pending ∧ (State.idle s).time = t.time + 1 ∧
    (State.idle s).mem = t.mem ∧ (State.idle s).warden = t.warden ∧ (State.idle s).fuses = t.fuses ∧ (State.idle s).dev = t.dev := by
  refine ⟨match s.flt.quenchDue with | none => s | some code => s.enterQuenched code, ?_, ?_⟩
  · split
    · exact Keeps.refl s
    · exact State.enterQuenched_keeps _ _ (Keeps.refl s)
  · exact State.idleClocks _

end Sys2Proof.Machine
end

