-- ==== Sys2Proof/Laws/Keeps/Hearth.lean ====
section
/-!
SUPPORT. What the operations of Machine/Hearth.lean keep.
-/
namespace Sys2Proof.Machine

theorem State.placeGroup_keeps (s : State) (cid : Nat) (c : Cmd) (l : LaunchSt) (h block group b : Nat) {a₀ : State} (hk : Keeps a₀ s) :
    Keeps a₀ (State.placeGroup s cid c l h block group b) := by
  unfold State.placeGroup
  repeat' with_reducible first | assumption | apply State.mHearths_keeps

theorem State.placeBlock_keeps (s : State) (cid : Nat) (c : Cmd) (l : LaunchSt) (h : Nat) (bs : List Nat) {a₀ : State} (hk : Keeps a₀ s) :
    Keeps a₀ (State.placeBlock s cid c l h bs) := by
  unfold State.placeBlock
  repeat' with_reducible first | intro _ | assumption | apply Keeps.foldl | apply State.mHearths_keeps | apply State.mHearth_keeps | apply State.trace_keeps | apply State.placeGroup_keeps

theorem State.placeMany_keeps (s : State) (cid : Nat) (c : Cmd) (n : Nat) {a₀ : State} (hk : Keeps a₀ s) :
    ∀ t, State.placeMany s cid c n = some t → Keeps a₀ t := by
  induction n generalizing s with
  | zero => intro t ht; simp only [State.placeMany, Option.some.injEq] at ht; subst ht; exact hk
  | succ n ih =>
    intro t ht
    simp only [State.placeMany] at ht
    split at ht
    · exact ih _ (State.placeBlock_keeps _ _ _ _ _ _ hk) t ht
    · cases ht

theorem State.tryPlace_keeps (s : State) (cid : Nat) {a₀ : State} (hk : Keeps a₀ s) : ∀ t, State.tryPlace s cid = some t → Keeps a₀ t := by
  intro t ht
  unfold State.tryPlace at ht
  split at ht
  · split at ht
    · exact State.placeMany_keeps _ _ _ _ hk t ht
    · cases ht
  · cases ht

theorem State.mGroup_keeps (s : State) (r : GroupRef) (f : Group → Group) {a₀ : State} (hk : Keeps a₀ s) :
    Keeps a₀ (State.mGroup s r f) := by
  unfold State.mGroup
  repeat' with_reducible first | assumption | apply State.mHearths_keeps

theorem State.launchEnd_keeps (s : State) (cid : Nat) {a₀ : State} (hk : Keeps a₀ s) :
    Keeps a₀ (State.launchEnd s cid) := by
  unfold State.launchEnd
  repeat' with_reducible first | assumption | apply State.mHearths_keeps | apply State.mCmd_keeps | split

theorem State.endGroup_keeps (s : State) (r : GroupRef) (g : Group) {a₀ : State} (hk : Keeps a₀ s) :
    Keeps a₀ (State.endGroup s r g) := by
  unfold State.endGroup
  repeat' with_reducible first | assumption | apply State.mHearths_keeps | apply State.mCmd_keeps | apply State.mHearth_keeps | apply State.flushL1_keeps | apply State.drainWcWhere_keeps | apply State.launchEnd_keeps | split

theorem State.groupFault_keeps (s : State) (r : GroupRef) (g : Group) (code mask addr : Nat) (level : Option Nat) {a₀ : State} (hk : Keeps a₀ s) :
    Keeps a₀ (State.groupFault s r g code mask addr level) := by
  unfold State.groupFault
  repeat' with_reducible first | assumption | apply State.mHearth_keeps | apply State.tearCmd_keeps | split

theorem State.mQuarter_keeps (s : State) (q : Nat) (f : Quarter → Quarter) {a₀ : State} (hk : Keeps a₀ s) :
    Keeps a₀ (State.mQuarter s q f) := by
  unfold State.mQuarter
  repeat' with_reducible first | assumption | apply State.mHearths_keeps

theorem State.mPhys_keeps (s : State) (p : Nat) (f : PhysHearth → PhysHearth) {a₀ : State} (hk : Keeps a₀ s) :
    Keeps a₀ (State.mPhys s p f) := by
  unfold State.mPhys
  repeat' with_reducible first | assumption | apply State.mHearths_keeps

theorem State.traceMove_keeps (s : State) (h left taken : Nat) {a₀ : State} (hk : Keeps a₀ s) :
    Keeps a₀ (State.traceMove s h left taken) := by
  unfold State.traceMove
  repeat' with_reducible first | assumption | apply State.trace_keeps

theorem State.outOfService_keeps (s : State) (h : Nat) {a₀ : State} (hk : Keeps a₀ s) :
    Keeps a₀ (State.outOfService s h) := by
  unfold State.outOfService
  repeat' with_reducible first | assumption | apply State.mHearth_keeps | apply State.traceMove_keeps

end Sys2Proof.Machine
end

