-- ==== Sys2Proof/Laws/Keeps/Warden.lean ====
section
/-!
SUPPORT. What the operations of Machine/Warden.lean keep.
-/
namespace Sys2Proof.Machine

theorem State.wardenRestart_keeps (s : State) (sigA sigB : Bool) {a₀ : State} (hk : Keeps a₀ s) :
    Keeps a₀ (State.wardenRestart s sigA sigB) := by
  unfold State.wardenRestart
  repeat' first | with_reducible assumption | with_reducible apply State.mWarden_keeps | split | (refine Keeps.upd (by assumption) ?_ ?_ ?_ ?_ ?_ ?_ <;> rfl)

theorem State.raiseRestart_keeps (s : State) {a₀ : State} (hk : Keeps a₀ s) :
    Keeps a₀ (State.raiseRestart s) := by
  unfold State.raiseRestart
  repeat' with_reducible first | assumption | apply State.raise_keeps | split

theorem State.serve_keeps (s : State) (src : Option Nat) (req : List Byte) (code : Nat) (useArg0 useArg1 useData : Bool) (body : ReqBody)
    {a₀ : State} (hb : ∀ s b, Keeps a₀ s → Keeps a₀ (body s b).1) (hk : Keeps a₀ s) :
    Keeps a₀ (State.serve s src req code useArg0 useArg1 useData body) := by
  unfold State.serve
  split
  · exact hk
  · next b _ =>
    have h := hb s b hk
    refine Keeps.ite hk (Keeps.ite (State.respond_keeps _ _ _ _ hk) (Keeps.ite (State.respond_keeps _ _ _ _ hk)
      (Keeps.ite (State.respond_keeps _ _ _ _ hk) ?_)))
    split
    all_goals (rename_i he; rw [he] at h)
    · exact State.respond_keeps _ _ _ _ h
    · exact h

theorem State.postState_keeps (s : State) (src : Option Nat) (toBanked : Bool) {a₀ : State} (hk : Keeps a₀ s) :
    Keeps a₀ (State.postState s src toBanked) := by
  unfold State.postState
  repeat' with_reducible first | intro _ | assumption | apply State.mWarden_keeps

theorem State.acceptBlock_keeps (s : State) (d : List Byte) {a₀ : State} (hk : Keeps a₀ s) :
    Keeps a₀ (State.acceptBlock s d) := by
  unfold State.acceptBlock
  repeat' with_reducible first | assumption | apply State.mChm_keeps | split

theorem State.stageOpen_keeps (s : State) (image : Bool) (len : Nat) {a₀ : State} (hk : Keeps a₀ s) :
    Keeps a₀ (State.stageOpen s image len) :=
  State.mWarden_keeps _ _ (flashErase_wf _ _) hk

theorem State.stageClose_keeps (s : State) (st : Staging) (sig activate : Bool) {a₀ : State} (hk : Keeps a₀ s) :
    Keeps a₀ (State.stageClose s st sig activate).1 := by
  unfold State.stageClose
  dsimp only
  refine State.mWarden_keeps _ _ (fun h => ?_) hk
  dsimp only
  split
  · exact writeSlot_wf _ _ h
  · exact h

end Sys2Proof.Machine
end

