-- ==== Sys2Proof/Laws/Keeps/Boot.lean ====
section
/-!
SUPPORT. What the operations of Machine/Boot.lean keep.
-/
namespace Sys2Proof.Machine

theorem State.coldReset_keeps (s : State) {a₀ : State} (hk : Keeps a₀ s) : Keeps a₀ (State.coldReset s) := by
  have h := State.withdrawRequest_keeps s hk
  unfold State.coldReset
  extract_lets s1
  refine Keeps.down (s := s1) h rfl rfl ?_ rfl ?_
  · intro w
    rw [memWf_iff] at *
    exact ⟨rfl, w.2.1, w.2.2.1, w.2.2.2⟩
  · dsimp only
    split <;> decide

theorem State.trip_keeps (s : State) {a₀ : State} (hk : Keeps a₀ s) : Keeps a₀ (State.trip s) := by
  have h := State.withdrawRequest_keeps s hk
  unfold State.trip
  extract_lets s1 s2 s3 s4
  have h4 : Keeps a₀ s4 := State.mRoutes_keeps _ _ (State.mXlt_keeps _ _ (State.mPins_keeps _ _ h))
  exact h4.down rfl rfl id rfl ⟨nofun, nofun⟩

theorem State.refuseImage_keeps (s : State) (reason : Nat) {a₀ : State} (hk : Keeps a₀ s) :
    Keeps a₀ (State.refuseImage s reason) := by
  unfold State.refuseImage
  repeat' with_reducible first | intro _ | assumption | apply State.mWarden_keeps | apply State.raise_keeps | apply State.enterQuenched_keeps

theorem State.kindle_keeps (s : State) (sigA sigB : Bool) {a₀ : State} (hk : Keeps a₀ s) : Keeps a₀ (State.kindle s sigA sigB) := by
  unfold State.kindle
  extract_lets q s1
  have h1 : Keeps a₀ s1 := hk.down rfl rfl id rfl ⟨nofun, nofun⟩
  split
  · exact State.refuseImage_keeps _ _ h1
  · next b _ =>
    have h2 : Keeps a₀ (s1.mWarden fun w => { w with imageSlot := some b, imgSigned := cellsGet q (slotBase true b) (signedLen q (slotBase true b)) }) :=
      State.mWarden_keeps _ _ id h1
    exact Keeps.ite (State.refuseImage_keeps _ _ h2) (State.mBoot_keeps _ _ (State.mImg_keeps _ _ h2))

theorem State.applySparing_keeps (s : State) (e : SparingEntry) {a₀ : State} (hk : Keeps a₀ s) :
    Keeps a₀ (State.applySparing s e) := by
  unfold State.applySparing
  repeat' with_reducible first | assumption | apply State.mDrovers_keeps | apply State.mFlt_keeps | apply State.mSerai_keeps | apply State.mPhys_keeps | split

theorem State.retireHearth_keeps (s : State) (p : Nat) {a₀ : State} (hk : Keeps a₀ s) :
    Keeps a₀ (State.retireHearth s p) := by
  unfold State.retireHearth
  repeat' with_reducible first | assumption | apply State.raise_keeps | apply State.spare_keeps | apply State.mQuarter_keeps | apply State.mPhys_keeps

theorem State.loadSettings_keeps (s : State) (seed : Nat) {a₀ : State} (hk : Keeps a₀ s) :
    Keeps a₀ (State.loadSettings s seed) := by
  unfold State.loadSettings
  repeat' with_reducible first | assumption | apply State.mTck_keeps | apply State.mLdg_keeps | apply State.mRoutes_keeps | apply State.mImg_keeps | apply State.mBoot_keeps

theorem State.mapQuarter_keeps (s : State) (q : Nat) {a₀ : State} (hk : Keeps a₀ s) :
    Keeps a₀ (State.mapQuarter s q) := by
  unfold State.mapQuarter
  repeat' with_reducible first | intro _ | assumption | apply Keeps.foldl | apply State.mHearth_keeps | apply State.spare_keeps | apply State.mQuarter_keeps | apply State.mPhys_keeps | split

end Sys2Proof.Machine
end

