-- ==== Sys2Proof/Laws/Keeps/Issue.lean ====
section
/-!
SUPPORT. What the operations of Machine/Issue.lean keep.
-/
namespace Sys2Proof.Machine

/-- What an instruction's body keeps. -/
def DidKeeps (a : State) : Did → Prop
  | .retire _ s => Keeps a s
  | .hold _ s => Keeps a s
  | .fault _ _ _ _ => True
  | .wait s => Keeps a s
  | .gone s => Keeps a s

theorem DidKeeps.retire {a s : State} (g : Group) (h : Keeps a s) : DidKeeps a (.retire g s) := h
theorem DidKeeps.hold {a s : State} (g : Group) (h : Keeps a s) : DidKeeps a (.hold g s) := h
theorem DidKeeps.fault {a : State} (c m d : Nat) (l : Option Nat) : DidKeeps a (.fault c m d l) := trivial
theorem DidKeeps.wait {a s : State} (h : Keeps a s) : DidKeeps a (.wait s) := h
theorem DidKeeps.gone {a s : State} (h : Keeps a s) : DidKeeps a (.gone s) := h
theorem Issue.ret_keeps (i : Issue) (g : Group) {a₀ : State} (hk : Keeps a₀ i.s) : DidKeeps a₀ (i.ret g) := hk

theorem State.fetchWord_keeps (s : State) (r : GroupRef) (g : Group) (c : Cmd) {a₀ : State} (hk : Keeps a₀ s) :
    ∀ w b t, State.fetchWord s r g c = some (w, b, t) → Keeps a₀ t := by
  intro w b t ht
  unfold State.fetchWord at ht
  dsimp only at ht
  split at ht
  · cases ht
  · split at ht
    · cases ht
    · simp only [Option.some.injEq, Prod.mk.injEq] at ht
      obtain ⟨-, -, rfl⟩ := ht
      exact State.l1Line_keeps _ _ _ _ _ _ hk

theorem State.stepDone_keeps (s : State) (g : Group) {a₀ : State} (hk : Keeps a₀ s) :
    Keeps a₀ (State.stepDone s g) := by
  unfold State.stepDone
  repeat' with_reducible first | assumption | apply State.mCmd_keeps | split

theorem State.retireGroup_keeps (s : State) (r : GroupRef) (g : Group) {a₀ : State} (hk : Keeps a₀ s) :
    Keeps a₀ (State.retireGroup s r g) := by
  unfold State.retireGroup
  repeat' with_reducible first | assumption | apply State.mGroup_keeps | apply State.stepDone_keeps

theorem State.countIssue_keeps (s : State) (r : GroupRef) (c : Cmd) (forced : Bool) {a₀ : State} (hk : Keeps a₀ s) :
    Keeps a₀ (State.countIssue s r c forced) := by
  unfold State.countIssue
  repeat' with_reducible first | assumption | apply State.mHearth_keeps | apply State.count_keeps

theorem State.stallGroup_keeps (s : State) (r : GroupRef) {a₀ : State} (hk : Keeps a₀ s) :
    Keeps a₀ (State.stallGroup s r) := by
  unfold State.stallGroup
  repeat' with_reducible first | assumption | apply State.mGroup_keeps

theorem State.isaStep_keeps (s : State) (r : GroupRef) (codes : List (Nat × Nat)) (body : Issue → Did) {a₀ : State}
    (hb : ∀ i : Issue, Keeps a₀ i.s → DidKeeps a₀ (body i)) (hk : Keeps a₀ s) : Keeps a₀ (State.isaStep s r codes body) := by
  unfold State.isaStep
  split
  · exact hk
  · next g c x _ =>
    split
    · exact State.groupFault_keeps _ _ _ _ _ _ _ hk
    · next w bad s1 hf =>
      have h1 : Keeps a₀ s1 := State.fetchWord_keeps _ _ _ _ hk _ _ _ hf
      refine Keeps.ite (State.tearCmd_keeps _ _ _ h1) (Keeps.ite (State.groupFault_keeps _ _ _ _ _ _ _ h1) (Keeps.ite hk ?_))
      refine Keeps.ite (State.groupFault_keeps _ _ _ _ _ _ _ h1) (Keeps.ite (State.groupFault_keeps _ _ _ _ _ _ _ h1)
        (Keeps.ite (State.stallGroup_keeps _ _ hk) ?_))
      have hd := hb { r := r, g := { g with pc := g.pc + 8 }, c := c, x := x, w := w, s := s1 } h1
      split
      all_goals (rename_i he; rw [he] at hd)
      · exact State.retireGroup_keeps _ _ _ (State.countIssue_keeps _ _ _ _ hd)
      · exact State.mGroup_keeps _ _ _ (State.countIssue_keeps _ _ _ _ hd)
      · exact State.groupFault_keeps _ _ _ _ _ _ _ h1
      · exact State.stallGroup_keeps _ _ hd
      · exact State.countIssue_keeps _ _ _ _ hd

end Sys2Proof.Machine
end

