-- ==== Sys2Proof/Laws/Keeps/IsaMem.lean ====
section
/-!
SUPPORT. What the operations of Machine/IsaMem.lean keep.
-/
namespace Sys2Proof.Machine

theorem Accs.add_keeps (a : Accs) (i : Issue) (write atomic : Bool) (n : Nat) (t da : Nat) {a₀ : State} (hk : Keeps a₀ a.st) :
    Keeps a₀ (Accs.add a i write atomic n t da).st := by
  unfold Accs.add
  try dsimp only
  repeat' with_reducible first | assumption | apply State.runTr_keeps | split

theorem Issue.accs_keeps (i : Issue) (write atomic : Bool) (n : Nat) (offs : Int) {a₀ : State} (hk : Keeps a₀ i.s) :
    Keeps a₀ (Issue.accs i write atomic n offs).st := by
  unfold Issue.accs
  have go : ∀ (l : List Nat) (b : Accs), Keeps a₀ b.st →
      Keeps a₀ (l.foldl (fun a t => Accs.add a i write atomic n t (i.g.addr i.w t offs)) b).st := by
    intro l
    induction l with
    | nil => exact fun b h => h
    | cons t l ih => exact fun b h => ih _ (Accs.add_keeps _ _ _ _ _ _ _ h)
  exact go _ _ hk

theorem Accs.fault_keeps (a : Accs) {a₀ : State} (_hk : Keeps a₀ a.st) : ∀ d, Accs.fault a = some d → DidKeeps a₀ d := by
  intro d hd
  unfold Accs.fault at hd
  split at hd
  · cases hd
  · cases hd; exact DidKeeps.fault ..

theorem Issue.poisoned_keeps (i : Issue) (s : State) (mask addr : Nat) {a₀ : State} (hk : Keeps a₀ s) :
    DidKeeps a₀ (Issue.poisoned i s mask addr) := by
  unfold Issue.poisoned
  repeat' with_reducible first | assumption | apply DidKeeps.retire | apply DidKeeps.ret | apply DidKeeps.hold | apply DidKeeps.wait | apply DidKeeps.gone | apply DidKeeps.fault | apply State.tearCmd_keeps

theorem Issue.conflict_keeps (i : Issue) (s : State) (p : PA) {a₀ : State} (hk : Keeps a₀ s) :
    DidKeeps a₀ (Issue.conflict i s p) := by
  unfold Issue.conflict
  repeat' with_reducible first | assumption | apply DidKeeps.retire | apply DidKeeps.ret | apply DidKeeps.hold | apply DidKeeps.wait | apply DidKeeps.gone | apply DidKeeps.fault | apply State.mDepot_keeps | apply State.conflictWait_keeps | split

theorem State.noWait_keeps (s : State) (r : GroupRef) {a₀ : State} (hk : Keeps a₀ s) :
    Keeps a₀ (State.noWait s r) := by
  unfold State.noWait
  repeat' with_reducible first | assumption | apply State.mDepot_keeps

theorem State.extentRefused_keeps (s : State) (c : Cmd) (tid : Nat) (p : PA) {a₀ : State} (hk : Keeps a₀ s) :
    Keeps a₀ (State.extentRefused s c tid p) := by
  unfold State.extentRefused
  repeat' with_reducible first | assumption | apply State.mSeraiCnt_keeps | apply State.tearCmd_keeps

theorem State.loadAll_keeps (s : State) (i : Issue) (n ch : Nat) (x0 : List Acc) {a₀ : State} (hk : Keeps a₀ s) :
    Keeps a₀ (State.loadAll s i n ch x0).2.2 := by
  induction x0 generalizing s i n ch with
  | nil => simpa only [State.loadAll] using hk
  | cons y t ih =>
    simp only [State.loadAll]
    repeat' with_reducible first | assumption | apply ih | apply State.load_keeps

theorem State.prefetch_keeps (s : State) (i : Issue) (a : Acc) {a₀ : State} (hk : Keeps a₀ s) :
    Keeps a₀ (State.prefetch s i a) := by
  unfold State.prefetch
  try dsimp only
  repeat' with_reducible first | assumption | apply State.fillLine_keeps | apply State.l1Line_keeps | split

theorem Issue.lsStep_keeps (i : Issue) (n : Nat) (body : Unit → Did) {a₀ : State} (hb : DidKeeps a₀ (body ())) :
    DidKeeps a₀ (Issue.lsStep i n body) := by
  unfold Issue.lsStep
  split
  · exact hb
  · exact DidKeeps.fault ..

theorem State.atomicOne_keeps (s : State) (i : Issue) (f : Nat → Nat → Nat → Nat) (n : Nat) (a : Acc) {a₀ : State} (hk : Keeps a₀ s) :
    Keeps a₀ (State.atomicOne s i f n a).2.2.2 := by
  unfold State.atomicOne
  try dsimp only
  repeat' with_reducible first | assumption | apply State.depotHit_keeps | apply State.store_keeps | apply State.dropLine_keeps | split

theorem State.atomicAll_keeps (s : State) (i : Issue) (f : Nat → Nat → Nat → Nat) (n : Nat) (x0 : List Acc) {a₀ : State} (hk : Keeps a₀ s) :
    Keeps a₀ (State.atomicAll s i f n x0).2.2.2 := by
  induction x0 generalizing s i f n with
  | nil => simpa only [State.atomicAll] using hk
  | cons y t ih =>
    simp only [State.atomicAll]
    repeat' with_reducible first | assumption | apply ih | apply State.atomicOne_keeps

theorem State.atomOp_keeps (s : State) (r : GroupRef) (func : Nat) (f : Nat → Nat → Nat → Nat → Nat) {a₀ : State} (hk : Keeps a₀ s) :
    Keeps a₀ (State.atomOp s r func f) := by
  unfold State.atomOp
  repeat' with_reducible first | (intro _; try dsimp only) | assumption | apply State.isaStep_keeps | apply Issue.accs_keeps | apply Issue.poisoned_keeps | apply Issue.conflict_keeps | apply State.noWait_keeps | apply State.extentRefused_keeps | apply State.atomicAll_keeps | refine Accs.fault_keeps _ ?_ _ (by assumption) | apply DidKeeps.retire | apply DidKeeps.hold | apply DidKeeps.wait | apply DidKeeps.gone | apply DidKeeps.fault | split

theorem State.cleanCtx_keeps (s : State) (ctx : Nat) {a₀ : State} (hk : Keeps a₀ s) :
    Keeps a₀ (State.cleanCtx s ctx) := by
  unfold State.cleanCtx
  repeat' with_reducible first | intro _ | assumption | apply Keeps.foldl | apply State.dropCommitted_keeps

end Sys2Proof.Machine
end

