-- ==== Sys2Proof/Laws/Keeps/Regs.lean ====
section
/-!
SUPPORT. What the operations of Machine/Regs.lean keep.
-/
namespace Sys2Proof.Machine

theorem State.readWindow_keeps (s : State) (fn off : Nat) {a₀ : State} (hk : Keeps a₀ s) :
    Keeps a₀ (State.readWindow s fn off).1 := by
  unfold State.readWindow
  try dsimp only
  repeat' with_reducible first | assumption | apply State.mLog_keeps | split

theorem State.readBxStatus_keeps (s : State) {a₀ : State} (hk : Keeps a₀ s) :
    Keeps a₀ (State.readBxStatus s).1 := by
  unfold State.readBxStatus
  repeat' with_reducible first | assumption | apply State.mBx_keeps

theorem State.readBx_keeps (s : State) (off : Nat) {a₀ : State} (hk : Keeps a₀ s) :
    Keeps a₀ (State.readBx s off).1 := by
  unfold State.readBx
  try dsimp only
  repeat' with_reducible first | assumption | apply State.readBxStatus_keeps | split

theorem State.read4_keeps (s : State) (fn bar off : Nat) {a₀ : State} (hk : Keeps a₀ s) :
    Keeps a₀ (State.read4 s fn bar off).1 := by
  unfold State.read4
  repeat' with_reducible first | assumption | apply State.readWindow_keeps | apply State.readBx_keeps | split

end Sys2Proof.Machine
end

