-- ==== Sys2Proof/Laws/Keeps/Bx.lean ====
section
/-!
SUPPORT. What the operations of Machine/Bx.lean keep.
-/
namespace Sys2Proof.Machine

theorem State.bxWrite_keeps (s : State) (a : Nat) (bs : List Byte) (bad : Nat → Bool) (x0 : Nat) {a₀ : State} (hk : Keeps a₀ s) :
    Keeps a₀ (State.bxWrite s a bs bad x0) := by
  induction x0 generalizing s a bs bad with
  | zero => simpa only [State.bxWrite] using hk
  | succ n ih =>
    simp only [State.bxWrite]
    repeat' with_reducible first | assumption | apply ih | apply State.writeThrough_keeps | split

theorem State.bxPut_keeps (s : State) (a : Nat) (bs : List Byte) {a₀ : State} (hk : Keeps a₀ s) :
    Keeps a₀ (State.bxPut s a bs) := by
  unfold State.bxPut
  repeat' with_reducible first | assumption | apply State.bxWrite_keeps

theorem State.bxTail_keeps (s : State) (v : Nat) {a₀ : State} (hk : Keeps a₀ s) :
    Keeps a₀ (State.bxTail s v) := by
  unfold State.bxTail
  try dsimp only
  repeat' with_reducible first | assumption | apply State.mBx_keeps | split

theorem State.bxReset_keeps (s : State) {a₀ : State} (hk : Keeps a₀ s) :
    Keeps a₀ (State.bxReset s) := by
  unfold State.bxReset
  repeat' with_reducible first | assumption | apply State.mBx_keeps

theorem State.bxCtrl_keeps (s : State) (v : Nat) {a₀ : State} (hk : Keeps a₀ s) :
    Keeps a₀ (State.bxCtrl s v) := by
  unfold State.bxCtrl
  repeat' with_reducible first | assumption | apply State.mBx_keeps | apply State.bxReset_keeps | split

theorem State.bxRun_keeps (s : State) (e : List Byte) (staged : List (Nat × List Byte)) (code fault : Nat) {a₀ : State} (hk : Keeps a₀ s) :
    Keeps a₀ (State.bxRun s e staged code fault) := by
  unfold State.bxRun
  repeat' with_reducible first | assumption | apply State.mBx_keeps | refine Accs.fault_keeps _ ?_ _ (by assumption)

theorem State.bxFree_keeps (s : State) (e : List Byte) (outs : List (Nat × Nat)) (code fault : Nat) {a₀ : State} (hk : Keeps a₀ s) :
    Keeps a₀ (State.bxFree s e outs code fault) := by
  unfold State.bxFree
  repeat' with_reducible first | assumption | apply State.mHearths_keeps | apply State.bxRun_keeps | refine Accs.fault_keeps _ ?_ _ (by assumption)

theorem State.bxFault_keeps (s : State) (e : List Byte) (outs : List (Nat × Nat)) (fault : Nat) {a₀ : State} (hk : Keeps a₀ s) :
    Keeps a₀ (State.bxFault s e outs fault) := by
  unfold State.bxFault
  repeat' with_reducible first | assumption | apply State.raise_keeps | apply State.bxFree_keeps | refine Accs.fault_keeps _ ?_ _ (by assumption)

theorem State.bxInputs_keeps (s : State) (e : List Byte) (ins outs : List (Nat × Nat)) (failed : Bool) (poison : Nat) {a₀ : State} (hk : Keeps a₀ s) :
    ∀ t, State.bxInputs s e ins outs failed poison = some t → Keeps a₀ t := by
  intro t ht
  unfold State.bxInputs at ht
  try dsimp only at ht
  repeat' split at ht
  all_goals first
    | cases ht
    | (simp only [Option.some.injEq, Except.error.injEq] at ht; subst ht)
  all_goals repeat' with_reducible first | assumption | apply State.bxFree_keeps | apply State.bxFault_keeps

end Sys2Proof.Machine
end

