-- ==== Sys2Proof/Laws/Keeps/Contexts.lean ====
section
/-!
SUPPORT. What the operations of Machine/Contexts.lean keep.
-/
namespace Sys2Proof.Machine

theorem State.dropCtx_keeps (s : State) (n : Nat) (x : Ctx) {a₀ : State} (hk : Keeps a₀ s) :
    Keeps a₀ (State.dropCtx s n x) := by
  unfold State.dropCtx
  repeat' with_reducible first | assumption | apply State.mStk_keeps | apply State.mFn_keeps | apply State.dropCaches_keeps

theorem State.dropRecipes_keeps (s : State) (ctx : Nat) {a₀ : State} (hk : Keeps a₀ s) :
    Keeps a₀ (State.dropRecipes s ctx) := by
  unfold State.dropRecipes
  repeat' with_reducible first | assumption | apply State.mStk_keeps

end Sys2Proof.Machine
end

