-- ==== Sys2Proof/Laws/Keeps/Debug.lean ====
section
/-!
SUPPORT. What the operations of Machine/Debug.lean keep.
-/
namespace Sys2Proof.Machine

theorem State.noteHalts_keeps (s : State) (c : Cmd) (p : Nat × Cmd) {a₀ : State} (hk : Keeps a₀ s) :
    Keeps a₀ (State.noteHalts s c p) := by
  unfold State.noteHalts
  repeat' with_reducible first | assumption | apply State.mHearths_keeps | split

theorem State.debugBegin_keeps (s : State) (cid op : Nat) {a₀ : State} (hk : Keeps a₀ s) :
    ∀ t, State.debugBegin s cid op = .error t → Keeps a₀ t := by
  intro t ht
  unfold State.debugBegin at ht
  try dsimp only at ht
  repeat' split at ht
  all_goals first
    | cases ht
    | (simp only [Option.some.injEq, Except.error.injEq] at ht; subst ht)
  all_goals repeat' with_reducible first | assumption | apply State.refuse_keeps | apply State.refuseTr_keeps

theorem State.debugCommit_keeps (s : State) (cid : Nat) (c : Cmd) (bs : List Byte) {a₀ : State} (hk : Keeps a₀ s) :
    Keeps a₀ (State.debugCommit s cid c bs) := by
  unfold State.debugCommit
  repeat' with_reducible first | assumption | apply State.commitUnit_keeps | apply State.cmdWrite_keeps | apply State.commitCtl_keeps

end Sys2Proof.Machine
end

