-- ==== Sys2Proof/Laws/Keeps/Filing.lean ====
section
/-!
SUPPORT. What the operations of Machine/Filing.lean keep.
-/
namespace Sys2Proof.Machine

theorem State.refuseCode_keeps (s : State) (cid : Nat) (c : Cmd) (e : Nat × Nat) {a₀ : State} (hk : Keeps a₀ s) :
    Keeps a₀ (State.refuseCode s cid c e) := by
  unfold State.refuseCode
  repeat' with_reducible first | assumption | apply State.refuse_keeps | apply State.refuseTr_keeps | split

theorem State.fileWb_keeps (s : State) (i : Nat) (w : Waybill) {a₀ : State} (hk : Keeps a₀ s) :
    Keeps a₀ (State.fileWb s i w) := by
  unfold State.fileWb
  try dsimp only
  repeat' with_reducible first | assumption | apply State.mLdg_keeps | apply State.trace_keeps | apply State.mergeSet_keeps | apply State.fallback_keeps | split

theorem State.ledgerFull_keeps (s : State) (cid : Nat) (c : Cmd) (w : Waybill) {a₀ : State} (hk : Keeps a₀ s) :
    Keeps a₀ (State.ledgerFull s cid c w) := by
  unfold State.ledgerFull
  repeat' with_reducible first | assumption | apply State.mCvn_keeps | apply State.mLdg_keeps | apply State.count_keeps | apply State.eraseCmd_keeps | apply State.pushAnswer_keeps | apply State.fallbackWrite_keeps

theorem State.takeWb_keeps (s : State) (cid : Nat) (c : Cmd) (x : Ctx) (w : Waybill) (i : Nat) (copy : State → State) {a₀ : State} (hcopy : ∀ y0, Keeps a₀ y0 → Keeps a₀ (copy y0)) (hk : Keeps a₀ s) :
    Keeps a₀ (State.takeWb s cid c x w i copy) := by
  unfold State.takeWb
  try dsimp only
  repeat' with_reducible first | assumption | apply hcopy | apply State.mXlt_keeps | apply State.mFn_keeps | apply State.countWalks_keeps | apply State.eraseCmd_keeps | apply State.fileWb_keeps | apply State.ledgerFull_keeps | split

theorem State.replayFile_keeps (s : State) (cid : Nat) (c : Cmd) (x : Ctx) (bs : List Byte) (r : Recipe) (idx : Nat) {a₀ : State} (hk : Keeps a₀ s) :
    Keeps a₀ (State.replayFile s cid c x bs r idx) := by
  unfold State.replayFile
  try dsimp only
  repeat' with_reducible first | intro _ | assumption | apply State.mergeSet_keeps | apply State.refuseCode_keeps | apply State.takeWb_keeps | split

end Sys2Proof.Machine
end

