-- ==== Sys2Proof/Laws/Keeps/IsaVector.lean ====
section
/-!
SUPPORT. What the operations of Machine/IsaVector.lean keep.
-/
namespace Sys2Proof.Machine

theorem State.vecOp_keeps (s : State) (r : GroupRef) (func : Nat) (f : Nat → Nat → Nat) {a₀ : State} (hk : Keeps a₀ s) :
    Keeps a₀ (State.vecOp s r func f) := by
  unfold State.vecOp
  repeat' with_reducible first | intro _ | assumption | apply Issue.ret_keeps | apply State.isaStep_keeps | apply DidKeeps.retire | apply DidKeeps.hold | apply DidKeeps.wait | apply DidKeeps.gone | apply DidKeeps.fault

theorem State.tookFree_keeps (s : State) (n : Nat) {a₀ : State} (hk : Keeps a₀ s) :
    Keeps a₀ (State.tookFree s n) := by
  unfold State.tookFree
  repeat' with_reducible first | assumption | apply State.mHearths_keeps

theorem State.vecCmp_keeps (s : State) (r : GroupRef) (func : Nat) (signed : Bool) {a₀ : State} (hk : Keeps a₀ s) :
    Keeps a₀ (State.vecCmp s r func signed) := by
  unfold State.vecCmp
  repeat' with_reducible first | intro _ | assumption | apply Issue.ret_keeps | apply State.isaStep_keeps | apply State.tookFree_keeps | apply DidKeeps.retire | apply DidKeeps.hold | apply DidKeeps.wait | apply DidKeeps.gone | apply DidKeeps.fault | split

end Sys2Proof.Machine
end

