-- ==== Sys2Proof/Laws/Keeps/IsaFloat.lean ====
section
/-!
SUPPORT. What the operations of Machine/IsaFloat.lean keep.
-/
namespace Sys2Proof.Machine

theorem Issue.drew_keeps (i : Issue) {a₀ : State} (hk : Keeps a₀ i.s) :
    Keeps a₀ (Issue.drew i) := by
  unfold Issue.drew
  repeat' with_reducible first | assumption | apply State.tookFree_keeps | split

theorem State.floatOp_keeps (s : State) (r : GroupRef) (func : Nat) (f : Nat → Rnd → Nat → Nat → Nat → Nat × Nat) {a₀ : State} (hk : Keeps a₀ s) :
    Keeps a₀ (State.floatOp s r func f) := by
  unfold State.floatOp
  repeat' with_reducible first | intro _ | assumption | apply State.isaStep_keeps | apply Issue.drew_keeps | apply DidKeeps.retire | apply DidKeeps.hold | apply DidKeeps.wait | apply DidKeeps.gone | apply DidKeeps.fault

theorem State.countElems_keeps (s : State) (cid n clipped : Nat) {a₀ : State} (hk : Keeps a₀ s) :
    Keeps a₀ (State.countElems s cid n clipped) := by
  unfold State.countElems
  repeat' with_reducible first | assumption | apply State.mCmd_keeps

end Sys2Proof.Machine
end

