-- ==== Sys2Proof/Laws/Keeps/IsaScalar.lean ====
section
/-!
SUPPORT. What the operations of Machine/IsaScalar.lean keep.
-/
namespace Sys2Proof.Machine

theorem State.scalarOp_keeps (s : State) (r : GroupRef) (func : Nat) (f : Issue → Nat) {a₀ : State} (hk : Keeps a₀ s) :
    Keeps a₀ (State.scalarOp s r func f) := by
  unfold State.scalarOp
  repeat' with_reducible first | intro _ | assumption | apply Issue.ret_keeps | apply State.isaStep_keeps | apply DidKeeps.retire | apply DidKeeps.hold | apply DidKeeps.wait | apply DidKeeps.gone | apply DidKeeps.fault

end Sys2Proof.Machine
end

