-- ==== Sys2Proof/Laws/Keeps/IsaTile.lean ====
section
/-!
SUPPORT. What the operations of Machine/IsaTile.lean keep.
-/
namespace Sys2Proof.Machine

theorem Issue.grateFault_keeps (i : Issue) {a₀ : State} (hk : Keeps a₀ i.s) :
    DidKeeps a₀ (Issue.grateFault i) := by
  unfold Issue.grateFault
  repeat' with_reducible first | assumption | apply DidKeeps.retire | apply DidKeeps.ret | apply DidKeeps.hold | apply DidKeeps.wait | apply DidKeeps.gone | apply DidKeeps.fault | refine Accs.fault_keeps _ ?_ _ (by assumption)

theorem Issue.readTile_keeps (i : Issue) (body : List Nat → State → Did) {a₀ : State} (hbody : ∀ y0 y1, Keeps a₀ y1 → DidKeeps a₀ (body y0 y1)) (hk : Keeps a₀ i.s) :
    DidKeeps a₀ (Issue.readTile i body) := by
  unfold Issue.readTile
  try dsimp only
  repeat' with_reducible first | assumption | apply DidKeeps.retire | apply DidKeeps.ret | apply DidKeeps.hold | apply DidKeeps.wait | apply DidKeeps.gone | apply DidKeeps.fault | apply hbody | apply State.load_keeps | apply State.countElems_keeps | apply Accs.add_keeps | apply Issue.poisoned_keeps | refine Accs.fault_keeps _ ?_ _ (by assumption) | split

theorem State.grantBinds_keeps (s : State) (h : Nat) (x0 : BitVec 4) (x1 : List GroupRef) {a₀ : State} (hk : Keeps a₀ s) :
    Keeps a₀ (State.grantBinds s h x0 x1) := by
  induction x1 generalizing s h x0 with
  | nil => simpa only [State.grantBinds] using hk
  | cons y t ih =>
    simp only [State.grantBinds]
    repeat' with_reducible first | assumption | apply ih | apply State.mHearth_keeps | apply State.retireGroup_keeps | split

theorem State.accOf_keeps (s : State) (h k : Nat) {a₀ : State} (hk : Keeps a₀ s) :
    Keeps a₀ (State.accOf s h k).2 := by
  unfold State.accOf
  try dsimp only
  repeat' with_reducible first | assumption | apply State.mHearth_keeps | apply State.tookFree_keeps | split

theorem State.mFlue_keeps (s : State) (h idx : Nat) (f : FlueOp → FlueOp) {a₀ : State} (hk : Keeps a₀ s) :
    Keeps a₀ (State.mFlue s h idx f) := by
  unfold State.mFlue
  repeat' with_reducible first | assumption | apply State.mHearth_keeps

theorem State.unverifiable_keeps (s : State) (h : Nat) (o : FlueOp) (p row runs : Nat) {a₀ : State} (hk : Keeps a₀ s) :
    Keeps a₀ (State.unverifiable s h o p row runs) := by
  unfold State.unverifiable
  try dsimp only
  repeat' with_reducible first | assumption | apply State.mHearth_keeps | apply State.tearCmd_keeps | split

theorem State.takeWeights_keeps (s : State) (h idx k : Nat) {a₀ : State} (hk : Keeps a₀ s) :
    Keeps a₀ (State.takeWeights s h idx k) := by
  unfold State.takeWeights
  repeat' with_reducible first | assumption | apply State.mHearth_keeps | apply State.tookFree_keeps | apply State.mFlue_keeps | split

theorem State.applyTile_keeps (s : State) (h idx k : Nat) (o : FlueOp) (prod : List Nat) {a₀ : State} (hk : Keeps a₀ s) :
    Keeps a₀ (State.applyTile s h idx k o prod) := by
  unfold State.applyTile
  repeat' with_reducible first | assumption | apply State.mHearth_keeps | apply State.count_keeps | apply State.accOf_keeps | split

theorem State.retireGrate_keeps (s : State) (h p row runs : Nat) (o : FlueOp) {a₀ : State} (hk : Keeps a₀ s) :
    Keeps a₀ (State.retireGrate s h p row runs o) := by
  unfold State.retireGrate
  try dsimp only
  repeat' with_reducible first | assumption | apply State.mHearth_keeps | apply State.raise_keeps | apply State.spare_keeps | apply State.mQuarter_keeps | apply State.mPhys_keeps | apply State.outOfService_keeps | split

theorem State.grateStrike_keeps (s : State) (h p row runs : Nat) (o : FlueOp) {a₀ : State} (hk : Keeps a₀ s) :
    Keeps a₀ (State.grateStrike s h p row runs o) := by
  unfold State.grateStrike
  try dsimp only
  repeat' with_reducible first | assumption | apply State.mHearth_keeps | apply State.raise_keeps | apply State.mPhys_keeps | apply State.retireGrate_keeps | split

theorem State.trivetOp_keeps (s : State) (r : GroupRef) (func : Nat) (f : Nat → Nat → Nat × Nat) {a₀ : State} (hk : Keeps a₀ s) :
    Keeps a₀ (State.trivetOp s r func f) := by
  unfold State.trivetOp
  repeat' with_reducible first | intro _ | assumption | apply State.mHearth_keeps | apply State.isaStep_keeps | apply DidKeeps.retire | apply DidKeeps.hold | apply DidKeeps.wait | apply DidKeeps.gone | apply DidKeeps.fault | split

end Sys2Proof.Machine
end

