-- ==== Sys2Proof/Laws/Keeps/Ledger.lean ====
section
/-!
SUPPORT. What the operations of Machine/Ledger.lean keep.
-/
namespace Sys2Proof.Machine

theorem State.writeUnits_keeps (s : State) (a : Nat) (bs : List Byte) (bad : List Nat) (x0 : Nat) {a₀ : State} (hk : Keeps a₀ s) :
    Keeps a₀ (State.writeUnits s a bs bad x0) := by
  induction x0 generalizing s a bs bad with
  | zero => simpa only [State.writeUnits] using hk
  | succ n ih =>
    simp only [State.writeUnits]
    repeat' with_reducible first | assumption | apply ih | apply State.writeThrough_keeps

theorem State.capture_keeps (s : State) (i : Nat) (w : Waybill) (outcome : Nat) {a₀ : State} (hk : Keeps a₀ s) :
    Keeps a₀ (State.capture s i w outcome) := by
  unfold State.capture
  try dsimp only
  repeat' with_reducible first | assumption | apply State.mLdg_keeps | apply State.writeUnits_keeps | split

theorem State.wideRerun_keeps (s : State) (cid : Nat) {a₀ : State} (hk : Keeps a₀ s) :
    Keeps a₀ (State.wideRerun s cid) := by
  unfold State.wideRerun
  repeat' with_reducible first | assumption | apply State.mCmd_keeps | apply State.dropWork_keeps

theorem State.commitWork_keeps (s : State) (w : Waybill) (p : Nat × Cmd) {a₀ : State} (hk : Keeps a₀ s) :
    Keeps a₀ (State.commitWork s w p) := by
  unfold State.commitWork
  repeat' with_reducible first | assumption | apply State.dropWork_keeps | apply State.commitTables_keeps | split

theorem State.commitWb_keeps (s : State) (i : Nat) (w : Waybill) {a₀ : State} (hk : Keeps a₀ s) :
    Keeps a₀ (State.commitWb s i w) := by
  unfold State.commitWb
  repeat' with_reducible first | intro _ | assumption | apply Keeps.foldl | apply State.mStk_keeps | apply State.mWb_keeps | apply State.raise_keeps | apply State.commitUnit_keeps | apply State.pushAnswer_keeps | apply State.countCommit_keeps | apply State.capture_keeps | apply State.commitWork_keeps | split

theorem State.endStream_keeps (s : State) (i cause : Nat) {a₀ : State} (hk : Keeps a₀ s) :
    Keeps a₀ (State.endStream s i cause) := by
  unfold State.endStream
  repeat' with_reducible first | assumption | apply State.mLdg_keeps | apply State.mStk_keeps | apply State.mWb_keeps

theorem State.recordLost_keeps (s : State) (ctx : Nat) (x : Ctx) (cmdId : BitVec 32) {a₀ : State} (hk : Keeps a₀ s) :
    Keeps a₀ (State.recordLost s ctx x cmdId) := by
  unfold State.recordLost
  repeat' with_reducible first | assumption | apply State.mFn_keeps | apply State.raise_keeps

theorem State.writeRecord_keeps (s : State) (ctx : Nat) (x : Ctx) (da : Nat) (cmdId : BitVec 32) (rec : List Byte) {a₀ : State} (hk : Keeps a₀ s) :
    Keeps a₀ (State.writeRecord s ctx x da cmdId rec) := by
  unfold State.writeRecord
  repeat' with_reducible first | assumption | apply State.recordLost_keeps | refine State.ctxWrite_keeps _ _ _ _ _ ?_ _ (by assumption) | split

theorem State.nsrStep_keeps (s : State) (ctx : Nat) (x : Ctx) (a : Answer) {a₀ : State} (hk : Keeps a₀ s) :
    Keeps a₀ (State.nsrStep s ctx x a) := by
  unfold State.nsrStep
  repeat' with_reducible first | assumption | apply State.mStk_keeps | apply State.writeRecord_keeps | split

theorem State.complete_keeps (s : State) (ctx : Nat) (x : Ctx) (a : Answer) {a₀ : State} (hk : Keeps a₀ s) :
    Keeps a₀ (State.complete s ctx x a) := by
  unfold State.complete
  repeat' with_reducible first | assumption | apply State.mStk_keeps | apply State.mFn_keeps | apply State.count_keeps | apply State.trace_keeps | apply State.freeWb_keeps | apply State.writeRecord_keeps | apply State.nsrStep_keeps | split

theorem execCaptureConfig_keeps (fn v : Nat) (s : State) {a₀ : State} (hk : Keeps a₀ s) :
    ∀ t, execCaptureConfig fn v s = .next t → Keeps a₀ t := by
  intro t ht
  unfold execCaptureConfig at ht
  try dsimp only at ht
  repeat' with_reducible first | cases ht | split at ht
  all_goals repeat' with_reducible first | assumption | apply State.mLdg_keeps | split

end Sys2Proof.Machine
end

