-- ==== Sys2Proof/Laws/Keeps/MemorySteps.lean ====
section
/-!
SUPPORT. What the operations of Machine/MemorySteps.lean keep.
-/
namespace Sys2Proof.Machine

theorem State.sramEvent_keeps (s : State) (loc : Nat) (way : Bool) {a₀ : State} (hk : Keeps a₀ s) :
    Keeps a₀ (State.sramEvent s loc way) := by
  unfold State.sramEvent
  try dsimp only
  repeat' with_reducible first | assumption | apply State.mFlt_keeps | apply State.spare_keeps | split

theorem State.parityCount_keeps (s : State) (p : PA) (lost : Bool) {a₀ : State} (hk : Keeps a₀ s) :
    Keeps a₀ (State.parityCount s p lost) := by
  unfold State.parityCount
  repeat' with_reducible first | assumption | apply State.mDepot_keeps

theorem State.refetched_keeps (s : State) (p : PA) {a₀ : State} (hk : Keeps a₀ s) :
    Keeps a₀ (State.refetched s p) := by
  unfold State.refetched
  repeat' with_reducible first | assumption | apply State.raise_keeps | apply State.parityCount_keeps

theorem State.dataLost_keeps (s : State) (p : PA) (ctx : Option Nat) {a₀ : State} (hk : Keeps a₀ s) :
    Keeps a₀ (State.dataLost s p ctx) := by
  unfold State.dataLost
  try dsimp only
  repeat' with_reducible first | assumption | apply State.raiseAs_keeps | apply State.tear_keeps | apply State.parityCount_keeps | split

theorem State.remapRow_keeps (s : State) (stack chan key : Nat) {a₀ : State} (hk : Keeps a₀ s) :
    Keeps a₀ (State.remapRow s stack chan key) := by
  unfold State.remapRow
  repeat' with_reducible first | assumption | apply State.mFlt_keeps | apply State.raise_keeps | apply State.spare_keeps | split

theorem State.drove_keeps (s : State) (c : Cmd) (data : List Byte) (bad : Nat → Nat → Bool) (x0 : Nat) (x1 : Nat) {a₀ : State} (hk : Keeps a₀ s) :
    Keeps a₀ (State.drove s c data bad x0 x1) := by
  induction x0 generalizing s c data bad x1 with
  | zero => simpa only [State.drove] using hk
  | succ n ih =>
    simp only [State.drove]
    repeat' with_reducible first | assumption | apply ih | apply State.writeThrough_keeps | split

theorem State.countDrove_keeps (s : State) (c : Cmd) (len : Nat) {a₀ : State} (hk : Keeps a₀ s) :
    Keeps a₀ (State.countDrove s c len) := by
  unfold State.countDrove
  repeat' with_reducible first | intro _ | assumption | apply Keeps.foldl | apply State.mDrovers_keeps | apply State.count_keeps

theorem State.flashFaults_keeps (s : State) (ctrl nsid : Nat) (errs : List Nat) (lbas : List Nat) {a₀ : State} (hk : Keeps a₀ s) :
    Keeps a₀ (State.flashFaults s ctrl nsid errs lbas) := by
  unfold State.flashFaults
  repeat' with_reducible first | intro _ | assumption | apply Keeps.foldl | apply State.mCellar_keeps | apply State.raise_keeps | split

theorem State.copyFlashIn_keeps (s : State) (cid : Nat) (c : Cmd) (errs : List Nat) {a₀ : State} (hk : Keeps a₀ s) :
    Keeps a₀ (State.copyFlashIn s cid c errs) := by
  unfold State.copyFlashIn
  repeat' with_reducible first | assumption | apply State.mCellar_keeps | apply State.mDrovers_keeps | apply State.mCmd_keeps | apply State.drove_keeps | apply State.flashFaults_keeps

theorem State.copyFlashOut_keeps (s : State) (cid : Nat) (c : Cmd) {a₀ : State} (hk : Keeps a₀ s) :
    Keeps a₀ (State.copyFlashOut s cid c) := by
  unfold State.copyFlashOut
  repeat' with_reducible first | intro _ | assumption | apply Keeps.foldl | apply State.mDrovers_keeps | apply State.mCmd_keeps | apply State.blockWrite_keeps

theorem State.copyMemory_keeps (s : State) (cid : Nat) (c : Cmd) {a₀ : State} (hk : Keeps a₀ s) :
    Keeps a₀ (State.copyMemory s cid c) := by
  unfold State.copyMemory
  repeat' with_reducible first | assumption | apply State.mCmd_keeps | apply State.drove_keeps

end Sys2Proof.Machine
end

