-- ==== Sys2Proof/Laws/Keeps/Power.lean ====
section
/-!
SUPPORT. What the operations of Machine/Power.lean keep.
-/
namespace Sys2Proof.Machine

theorem State.stepLevel_keeps (s : State) {a₀ : State} (hk : Keeps a₀ s) :
    Keeps a₀ (State.stepLevel s) := by
  unfold State.stepLevel
  repeat' with_reducible first | assumption | apply State.mPower_keeps | split

end Sys2Proof.Machine
end

