-- ==== Sys2Proof/Laws/Keeps/Stoker.lean ====
section
/-!
SUPPORT. What the operations of Machine/Stoker.lean keep.
-/
namespace Sys2Proof.Machine

theorem execDoorbell_keeps (fn v : Nat) (s : State) {a₀ : State} (hk : Keeps a₀ s) :
    ∀ t, execDoorbell fn v s = .next t → Keeps a₀ t := by
  intro t ht
  unfold execDoorbell at ht
  try dsimp only at ht
  repeat' with_reducible first | cases ht | split at ht
  all_goals repeat' with_reducible first | assumption | apply State.mFn_keeps | apply State.raise_keeps | split

theorem execRingEnable_keeps (fn v : Nat) (s : State) {a₀ : State} (hk : Keeps a₀ s) :
    ∀ t, execRingEnable fn v s = .next t → Keeps a₀ t := by
  intro t ht
  unfold execRingEnable at ht
  try dsimp only at ht
  repeat' with_reducible first | cases ht | split at ht
  all_goals repeat' with_reducible first | assumption | apply State.mFn_keeps | apply State.count_keeps | split

theorem State.entryDone_keeps (s : State) (fn : Nat) {a₀ : State} (hk : Keeps a₀ s) :
    Keeps a₀ (State.entryDone s fn) := by
  unfold State.entryDone
  repeat' with_reducible first | assumption | apply State.mFn_keeps

theorem State.putEngine_keeps (s : State) (cid : Nat) (c : Cmd) (x : Ctx) {a₀ : State} (hk : Keeps a₀ s) :
    Keeps a₀ (State.putEngine s cid c x) := by
  unfold State.putEngine
  repeat' with_reducible first | assumption | apply State.mStk_keeps | apply State.countWalks_keeps

theorem State.admitEngine_keeps (s : State) (cid : Nat) (c : Cmd) (x : Ctx) {a₀ : State} (hk : Keeps a₀ s) :
    Keeps a₀ (State.admitEngine s cid c x) := by
  unfold State.admitEngine
  try dsimp only
  repeat' with_reducible first | assumption | apply State.mXlt_keeps | apply State.mFn_keeps | apply State.refuse_keeps | apply State.refuseTr_keeps | apply State.putEngine_keeps | split

theorem State.ownedCtx_keeps (s : State) (c : Cmd) {a₀ : State} (hk : Keeps a₀ s) :
    ∀ t, State.ownedCtx s c = .error t → Keeps a₀ t := by
  intro t ht
  unfold State.ownedCtx at ht
  try dsimp only at ht
  repeat' split at ht
  all_goals first
    | cases ht
    | (simp only [Option.some.injEq, Except.error.injEq] at ht; subst ht)
  all_goals repeat' with_reducible first | assumption | apply State.mFn_keeps | apply State.raiseAs_keeps

theorem State.checkManifest_keeps (s : State) (cid : Nat) (c : Cmd) (body : Option Nat) {a₀ : State} (hk : Keeps a₀ s) :
    Keeps a₀ (State.checkManifest s cid c body) := by
  unfold State.checkManifest
  try dsimp only
  repeat' with_reducible first | assumption | apply State.mStk_keeps | apply State.refuse_keeps | apply State.refuseFn_keeps | apply State.admitEngine_keeps | refine State.ownedCtx_keeps _ _ ?_ _ (by assumption) | split

theorem State.newManifest_keeps (s : State) (fn : Nat) {a₀ : State} (hk : Keeps a₀ s) :
    Keeps a₀ (State.newManifest s fn).2.2 := by
  unfold State.newManifest
  repeat' with_reducible first | assumption | apply State.mStk_keeps | apply State.mFn_keeps | apply State.count_keeps

theorem State.takeManifest_keeps (s : State) (fn : Nat) (bs : List Byte) (body : Option Nat) {a₀ : State} (hk : Keeps a₀ s) :
    Keeps a₀ (State.takeManifest s fn bs body) := by
  unfold State.takeManifest
  repeat' with_reducible first | assumption | apply State.checkManifest_keeps | apply State.newManifest_keeps

theorem State.refuseBody_keeps (s : State) (fn : Nat) (bs : List Byte) (x0 : Nat) {a₀ : State} (hk : Keeps a₀ s) :
    Keeps a₀ (State.refuseBody s fn bs x0) := by
  induction x0 generalizing s fn bs with
  | zero => simpa only [State.refuseBody] using hk
  | succ n ih =>
    simp only [State.refuseBody]
    repeat' with_reducible first | assumption | apply ih | apply State.refuse_keeps | apply State.newManifest_keeps | refine State.ownedCtx_keeps _ _ ?_ _ (by assumption) | split

theorem State.takeEntry_keeps (s : State) (fn : Nat) (bs : List Byte) {a₀ : State} (hk : Keeps a₀ s) :
    Keeps a₀ (State.takeEntry s fn bs) := by
  unfold State.takeEntry
  try dsimp only
  repeat' with_reducible first | assumption | apply State.mFn_keeps | apply State.entryDone_keeps | apply State.takeManifest_keeps | apply State.refuseBody_keeps | split

theorem State.readEntry_keeps (s : State) (fn : Nat) (first : Bool) {a₀ : State} (hk : Keeps a₀ s) :
    Keeps a₀ (State.readEntry s fn first) := by
  unfold State.readEntry
  try dsimp only
  repeat' with_reducible first | assumption | apply State.mFn_keeps | apply State.raise_keeps | apply State.entryDone_keeps | apply State.newManifest_keeps | apply State.takeEntry_keeps | split

end Sys2Proof.Machine
end

