-- ==== Sys2Proof/Laws/Keeps/RegWrites.lean ====
section
/-!
SUPPORT. What the operations of Machine/RegWrites.lean keep.
-/
namespace Sys2Proof.Machine

theorem thenState_keeps (s : State) (o : Host.Outcome State Fault Refusal) {a₀ : State} (ho : ∀ t, o = .next t → Keeps a₀ t) (hk : Keeps a₀ s) :
    Keeps a₀ (thenState s o) := by
  unfold thenState
  split
  · exact ho _ rfl
  · exact hk

theorem execFunctionLogConfig_keeps (fn v : Nat) (s : State) {a₀ : State} (hk : Keeps a₀ s) :
    ∀ t, execFunctionLogConfig fn v s = .next t → Keeps a₀ t := by
  intro t ht
  unfold execFunctionLogConfig at ht
  try dsimp only at ht
  repeat' with_reducible first | cases ht | split at ht
  all_goals repeat' with_reducible first | assumption | apply State.mLog_keeps | split

theorem State.writeWrd_keeps (s : State) (fn r v : Nat) {a₀ : State} (hk : Keeps a₀ s) :
    Keeps a₀ (State.writeWrd s fn r v) := by
  unfold State.writeWrd
  repeat' with_reducible first | assumption | apply State.mLog_keeps

theorem State.writeGlb_keeps (s : State) (fn r v : Nat) {a₀ : State} (hk : Keeps a₀ s) :
    Keeps a₀ (State.writeGlb s fn r v) := by
  unfold State.writeGlb
  repeat' with_reducible first | assumption | apply State.mLog_keeps | split

theorem State.writeTck_keeps (s : State) (r v : Nat) {a₀ : State} (hk : Keeps a₀ s) :
    Keeps a₀ (State.writeTck s r v) := by
  unfold State.writeTck
  repeat' with_reducible first | assumption | apply State.mTck_keeps | split

theorem State.writeLdg_keeps (s : State) (r v : Nat) {a₀ : State} (hk : Keeps a₀ s) :
    Keeps a₀ (State.writeLdg s r v) := by
  unfold State.writeLdg
  try dsimp only
  repeat' with_reducible first | intro _ | assumption | apply State.mLdg_keeps | apply thenState_keeps | refine execCaptureConfig_keeps _ _ _ ?_ _ (by assumption) | split

theorem State.writeSri_keeps (s : State) (r v : Nat) {a₀ : State} (hk : Keeps a₀ s) :
    Keeps a₀ (State.writeSri s r v) := by
  unfold State.writeSri
  repeat' with_reducible first | intro _ | assumption | apply State.mSerais_keeps | apply State.mSerai_keeps | apply thenState_keeps | refine execAclConfig_keeps _ _ _ ?_ _ (by assumption) | split

theorem State.writeSelector_keeps (s : State) (blk r v : Nat) {a₀ : State} (hk : Keeps a₀ s) :
    Keeps a₀ (State.writeSelector s blk r v) := by
  unfold State.writeSelector
  repeat' with_reducible first | assumption | apply State.mCvn_keeps | apply State.mStk_keeps | apply State.mTally_keeps | apply State.mHearths_keeps | apply State.mSieves_keeps | apply State.mDepot_keeps | apply State.mDampers_keeps | apply State.mRoutes_keeps | apply State.mFlt_keeps | split

theorem State.writeWindow_keeps (s : State) (fn off v : Nat) {a₀ : State} (hk : Keeps a₀ s) :
    Keeps a₀ (State.writeWindow s fn off v) := by
  unfold State.writeWindow
  try dsimp only
  repeat' with_reducible first | assumption | apply State.writeWrd_keeps | apply State.writeGlb_keeps | apply State.writeTck_keeps | apply State.writeLdg_keeps | apply State.writeSri_keeps | apply State.writeSelector_keeps | split

theorem State.writePage_keeps (s : State) (fn r v : Nat) {a₀ : State} (hk : Keeps a₀ s) :
    Keeps a₀ (State.writePage s fn r v) := by
  unfold State.writePage
  try dsimp only
  repeat' with_reducible first | intro _ | assumption | apply State.mFn_keeps | apply State.mLog_keeps | apply State.recordLost_keeps | apply thenState_keeps | refine execDoorbell_keeps _ _ _ ?_ _ (by assumption) | refine execRingEnable_keeps _ _ _ ?_ _ (by assumption) | refine execFunctionLogConfig_keeps _ _ _ ?_ _ (by assumption) | split

theorem State.writeBx_keeps (s : State) (off v : Nat) {a₀ : State} (hk : Keeps a₀ s) :
    Keeps a₀ (State.writeBx s off v) := by
  unfold State.writeBx
  repeat' with_reducible first | assumption | apply State.mBx_keeps | split

theorem State.write4_keeps (s : State) (fn bar off v : Nat) {a₀ : State} (hk : Keeps a₀ s) :
    Keeps a₀ (State.write4 s fn bar off v) := by
  unfold State.write4
  repeat' with_reducible first | assumption | apply State.writeWindow_keeps | apply State.writePage_keeps | apply State.writeBx_keeps | split

end Sys2Proof.Machine
end

