-- ==== Sys2Proof/Laws/Keeps/Resets.lean ====
section
/-!
SUPPORT. What the operations of Machine/Resets.lean keep.
-/
namespace Sys2Proof.Machine

theorem State.resetSelectors_keeps (s : State) {a₀ : State} (hk : Keeps a₀ s) :
    Keeps a₀ (State.resetSelectors s) := by
  unfold State.resetSelectors
  repeat' with_reducible first | assumption | apply State.mCvn_keeps | apply State.mStk_keeps | apply State.mTally_keeps | apply State.mSerais_keeps | apply State.mHearths_keeps | apply State.mSieves_keeps | apply State.mDepot_keeps | apply State.mDampers_keeps | apply State.mRoutes_keeps | apply State.mFlt_keeps

theorem State.resetFn_keeps (s : State) (f : Nat) {a₀ : State} (hk : Keeps a₀ s) :
    Keeps a₀ (State.resetFn s f) := by
  unfold State.resetFn
  repeat' with_reducible first | intro _ | assumption | apply Keeps.foldl | apply State.mStk_keeps | apply State.mFn_keeps | apply State.mLog_keeps | apply State.teardown_keeps | apply State.bxReset_keeps | apply State.resetSelectors_keeps | split

theorem State.resetFns_keeps (s : State) (vfsOnly : Bool) {a₀ : State} (hk : Keeps a₀ s) :
    Keeps a₀ (State.resetFns s vfsOnly) := by
  unfold State.resetFns
  repeat' with_reducible first | intro _ | assumption | apply Keeps.foldl | apply State.resetFn_keeps

end Sys2Proof.Machine
end

