-- ==== Sys2Proof/Laws/Keeps/Sieve.lean ====
section
/-!
SUPPORT. What the operations of Machine/Sieve.lean keep.
-/
namespace Sys2Proof.Machine

theorem State.mSieve_keeps (s : State) (die : Nat) (f : SieveDie → SieveDie) {a₀ : State} (hk : Keeps a₀ s) :
    Keeps a₀ (State.mSieve s die f) := by
  unfold State.mSieve
  repeat' with_reducible first | assumption | apply State.mSieves_keeps

theorem State.sieveRequest_keeps (s : State) (cid : Nat) (c : Cmd) (q : Nat) {a₀ : State} (hk : Keeps a₀ s) :
    Keeps a₀ (State.sieveRequest s cid c q) := by
  unfold State.sieveRequest
  repeat' with_reducible first | assumption | apply State.mCmd_keeps | apply State.count_keeps | apply State.cmdWrite_keeps | apply State.mSieve_keeps | split

theorem State.sieveRun_keeps (s : State) (cid op : Nat) {a₀ : State} (hk : Keeps a₀ s) :
    Keeps a₀ (State.sieveRun s cid op) := by
  unfold State.sieveRun
  repeat' with_reducible first | intro _ | assumption | apply Keeps.foldl | apply State.mCmd_keeps | apply State.tearCmd_keeps | apply State.sieveRequest_keeps | split

end Sys2Proof.Machine
end

