-- ==== Sys2Proof/Laws/Ops.lean ====
section
/-!
SUPPORT. The shared operations, each said once: what an entry reads as after its update, what counting, tracing and raising a fault may change,
and what raising leaves in the Fault Collector.
-/
namespace Sys2Proof.Machine

/-! ### Entries -/

theorem State.mCmd_cmd? (s : State) (cid k : Nat) (f : Cmd → Cmd) :
    (s.mCmd cid f).cmd? k = if k = cid then (s.cmd? k).map f else s.cmd? k := mapGet_mapAdj ..

@[simp] theorem State.mCmd_cmd?_self (s : State) (cid : Nat) (f : Cmd → Cmd) : (s.mCmd cid f).cmd? cid = (s.cmd? cid).map f := mapGet_mapAdj_self ..

theorem State.mWb_wb? (s : State) (i k : Nat) (f : Waybill → Waybill) :
    (s.mWb i f).wb? k = if k = i then (s.wb? k).map f else s.wb? k := mapGet_mapAdj ..

@[simp] theorem State.mWb_wb?_self (s : State) (i : Nat) (f : Waybill → Waybill) : (s.mWb i f).wb? i = (s.wb? i).map f := mapGet_mapAdj_self ..

@[simp] theorem State.mHearth_self (s : State) (h : Nat) (f : Hearth → Hearth) : (s.mHearth h f).hearth h = f (s.hearth h) :=
  mapGetD_mapMod_self ..

theorem State.mHearth_of_ne (s : State) {h k : Nat} (f : Hearth → Hearth) (hk : k ≠ h) : (s.mHearth h f).hearth k = s.hearth k :=
  mapGetD_mapMod_of_ne _ _ _ hk

@[simp] theorem State.mSerai_self (s : State) (q : Nat) (f : Serai → Serai) : (s.mSerai q f).serai q = f (s.serai q) := mapGetD_mapMod_self ..

theorem State.mSerai_of_ne (s : State) {q k : Nat} (f : Serai → Serai) (hk : k ≠ q) : (s.mSerai q f).serai k = s.serai k :=
  mapGetD_mapMod_of_ne _ _ _ hk

@[simp] theorem State.mRt_self (s : State) (t : Nat) (f : TableRt → TableRt) : (s.mRt t f).rt t = f (s.rt t) := mapGetD_mapMod_self ..

@[simp] theorem State.mTable_self (s : State) (t : Nat) (f : Table → Table) : (s.mTable t f).table? t = (s.table? t).map f :=
  mapGet_mapAdj_self ..

@[simp] theorem State.mPort_self (s : State) (p : Nat) (f : RPort → RPort) : (s.mPort p f).port p = f (s.port p) := mapGetD_mapMod_self ..

theorem State.mPort_of_ne (s : State) {p k : Nat} (f : RPort → RPort) (hk : k ≠ p) : (s.mPort p f).port k = s.port k :=
  mapGetD_mapMod_of_ne _ _ _ hk

@[simp] theorem State.mFn_self (s : State) (n : Nat) (f : Fn → Fn) : (s.mFn n f).fn n = f (s.fn n) := mapGetD_mapMod_self ..

theorem State.mFn_of_ne (s : State) {n k : Nat} (f : Fn → Fn) (hk : k ≠ n) : (s.mFn n f).fn k = s.fn k := mapGetD_mapMod_of_ne _ _ _ hk

@[simp] theorem State.mLog_self (s : State) (n : Nat) (f : FnLog → FnLog) : (s.mLog n f).log n = f (s.log n) := mapGetD_mapMod_self ..

theorem State.mLog_of_ne (s : State) {n k : Nat} (f : FnLog → FnLog) (hk : k ≠ n) : (s.mLog n f).log k = s.log k :=
  mapGetD_mapMod_of_ne _ _ _ hk

/-- A projection that every step of a fold keeps, the fold keeps. -/
theorem foldl_proj {α β : Type} (π : State → β) (f : State → α → State) (hf : ∀ (s : State) (x : α), π (f s x) = π s) (l : List α) (s : State) :
    π (l.foldl f s) = π s := by
  induction l generalizing s with
  | nil => rfl
  | cons x t ih => exact (ih _).trans (hf s x)

/-! ### Counting, tracing, raising -/

/-- Counting changes the Chimney's counters only. -/
theorem State.count_frame (s : State) (e n : Nat) (c : Option Nat) (k m : Nat) :
    s.count e n c k m = { s with chm := { s.chm with val := (s.count e n c k m).chm.val } } := rfl

/-- Tracing changes the Chimney only. -/
theorem State.trace_frame (s : State) (k d : Nat) (c : Option Nat) (id : BitVec 32) (p : Nat) :
    s.trace k d c id p = { s with chm := (s.trace k d c id p).chm } := rfl

/-- Raising a fault changes the Fault Collector and the Chimney only. -/
theorem State.raiseAs_frame (s : State) (c : Nat) (r : FaultRec) :
    s.raiseAs c r = { s with chm := (s.raiseAs c r).chm, flt := (s.raiseAs c r).flt } := by
  unfold State.raiseAs State.intake
  generalize ({ r with sev := _, contain := _, tick := _, fn := _, dkind := _, detail := _ } : FaultRec) = q
  split
  · split <;> rfl
  · rfl

/-- Raising a fault changes the Fault Collector and the Chimney only. -/
theorem State.raise_frame (s : State) (r : FaultRec) : s.raise r = { s with chm := (s.raise r).chm, flt := (s.raise r).flt } :=
  s.raiseAs_frame ..

end Sys2Proof.Machine
end

