-- ==== Sys2Proof/WellFormed.lean ====
section
/-!
DEFINITION. Well-formed commands: the ranges of the operands that name a unit or fill a field of stated width. A meaning does
not rest on these; a command outside them names nothing that the part has.
-/
namespace Sys2Proof

/-- A group reference names one of 160 Hearths (R329), a Burner of four and one of its 12 slots (R341, R347). -/
def GroupRef.wf (g : GroupRef) : Bool := decide (g.hearth < 160) && decide (g.burner < 4) && decide (g.slot < 12)

/-- A frame's header fields fill their bits, and its payload is counted in 16 bits (R717). -/
def Frame.wf (f : Frame) : Bool :=
  decide (f.type < 256) && decide (f.channel < 256) && decide (f.kind < 256) && decide (f.rsv < 256) && decide (f.payload.length < 65536)

/-- The operands of a command lie within their ranges. -/
def Instr.wf : Instr → Bool
  | .islandPowerUp _ _ => true
  | .wardenReset _ _ => true
  | .wardenWatchdogExpiry _ _ => true
  | .firmwareSecurityFuse => true
  | .rtcTick => true
  | .czResetAssert => true
  | .czResetRelease _ _ => true
  | .stackDramTrained stack _ => decide (stack < 8)
  | .kindlingEmberTest failed => failed.all (decide <| · < 168)
  | .kindlingKnownAnswerTests _ seed => decide (seed < 2 ^ 64)
  | .cellarEnumeration ctrls => decide (ctrls.length ≤ 16)
  | .kindlingEnd rate0 width0 rate1 width1 => decide (rate0 ≤ 6) && decide (width0 ≤ 16) && decide (rate1 ≤ 6) && decide (width1 ≤ 16)
  | .railTrip => true
  | .computeRailsPowerDown => true
  | .port0ConventionalReset _ rate width => decide (rate ≤ 6) && decide (width ≤ 16)
  | .port1ConventionalReset _ rate width => decide (rate ≤ 6) && decide (width ≤ 16)
  | .functionReset fn _ => decide (fn < 17)
  | .throtInAssert => true
  | .dieTempSample die _ => decide (die < 2)
  | .powerSample _ _ => true
  | .tickBoundary => true
  | .spanExpiry => true
  | .guardBandStart => true
  | .caravanClose => true
  | .tickFrameReceive _ _ => true
  | .holdoverEntry => true
  | .holdoverExpired => true
  | .doorbell fn v => decide (fn < 17) && decide (v < 2 ^ 64)
  | .ringEnable fn v => decide (fn < 17) && decide (v < 2 ^ 64)
  | .ringIdleRecheck fn => decide (fn < 17)
  | .manifestFetch fn => decide (fn < 17)
  | .tagWaitReread fn => decide (fn < 17)
  | .tagStop fn => decide (fn < 17)
  | .admissionResume fn => decide (fn < 17)
  | .delegate fn => decide (fn < 17)
  | .admitCmd _ _ => true
  | .answer _ => true
  | .abandon _ => true
  | .fenceCommand _ => true
  | .clearNumericStatus _ => true
  | .lookup _ => true
  | .update _ => true
  | .replaceRows _ => true
  | .readRows _ => true
  | .launch _ => true
  | .select _ => true
  | .sample _ => true
  | .copy _ _ => true
  | .readLoadCounts _ => true
  | .larderRefresh _ => true
  | .larderFillResume table => decide (table < 65536)
  | .larderWritebackComplete table _ => decide (table < 65536)
  | .recalibrateRows _ => true
  | .migrateShard _ => true
  | .migrationHandoverComplete table => decide (table < 65536)
  | .rehomeSpan _ => true
  | .routeExchange _ => true
  | .routeReduce _ => true
  | .routeOperationStart _ => true
  | .loadRouteKeyPin _ => true
  | .loadRouteKeyUnpin _ => true
  | .loadRouteKeyRekey _ => true
  | .registerTable _ => true
  | .deregisterTable _ => true
  | .registerOptimiser _ => true
  | .registerRecipe _ => true
  | .deregisterRecipe _ => true
  | .invalidateTranslations _ => true
  | .createContext _ => true
  | .destroyContext _ => true
  | .debugHalt _ => true
  | .debugStep _ => true
  | .debugResume _ => true
  | .debugReadGroup _ => true
  | .replayInject _ _ => true
  | .waybillCommit _ => true
  | .commandCommit _ => true
  | .streamSuccessorFile _ _ => true
  | .completionCounterAdvance ctx => decide (ctx < 65536)
  | .waybillDrainComplete _ => true
  | .extensionReadPoison _ => true
  | .ledgerEntryEccError _ _ _ => true
  | .ledgerLockstepMismatch => true
  | .captureConfig fn v => decide (fn < 17) && decide (v < 2 ^ 64)
  | .preemption _ => true
  | .blockPlace _ => true
  | .splitDrainMark _ => true
  | .hearthMove hearth => decide (hearth < 160)
  | .emberTestComplete quarter _ => decide (quarter < 8)
  | .emberOverdue phys => decide (phys < 168)
  | .knownAnswerTest unit _ _ => decide (unit < 16)
  | .groupSelfWait g => g.wf
  | .smov g => g.wf
  | .smovi g => g.wf
  | .smovhi g => g.wf
  | .sadd g => g.wf
  | .saddi g => g.wf
  | .ssub g => g.wf
  | .sand g => g.wf
  | .sor g => g.wf
  | .sxor g => g.wf
  | .sandn g => g.wf
  | .sshl g => g.wf
  | .sshr g => g.wf
  | .ssar g => g.wf
  | .smul g => g.wf
  | .spopc g => g.wf
  | .sff1 g => g.wf
  | .sexecGet g => g.wf
  | .sexecSet g => g.wf
  | .srd g => g.wf
  | .sflrd g => g.wf
  | .scmp g => g.wf
  | .br g => g.wf
  | .jmp g => g.wf
  | .call g => g.wf
  | .vadd g => g.wf
  | .vsub g => g.wf
  | .vmul g => g.wf
  | .vmulhiS g => g.wf
  | .vmulhiU g => g.wf
  | .vmad g => g.wf
  | .vand g => g.wf
  | .vor g => g.wf
  | .vxor g => g.wf
  | .vshl g => g.wf
  | .vshr g => g.wf
  | .vsar g => g.wf
  | .vminS g => g.wf
  | .vmaxS g => g.wf
  | .vminU g => g.wf
  | .vmaxU g => g.wf
  | .vabs g => g.wf
  | .vclz g => g.wf
  | .vpopc g => g.wf
  | .vcmpS g => g.wf
  | .vcmpU g => g.wf
  | .vsel g => g.wf
  | .vmov g => g.wf
  | .vlane g => g.wf
  | .fadd g => g.wf
  | .fsub g => g.wf
  | .fmul g => g.wf
  | .ffma g => g.wf
  | .fdiv g => g.wf
  | .fsqrt g => g.wf
  | .fmin g => g.wf
  | .fmax g => g.wf
  | .fabs g => g.wf
  | .fneg g => g.wf
  | .frcp g => g.wf
  | .frsq g => g.wf
  | .fexp2 g => g.wf
  | .flog2 g => g.wf
  | .fcmp g => g.wf
  | .cvt g => g.wf
  | .cvtI2f g => g.wf
  | .cvtF2i g => g.wf
  | .vrand g => g.wf
  | .vshfl g => g.wf
  | .vrdlane g => g.wf
  | .ld g => g.wf
  | .st g => g.wf
  | .pref g => g.wf
  | .lds g => g.wf
  | .sts g => g.wf
  | .atomAdd g => g.wf
  | .atomAnd g => g.wf
  | .atomOr g => g.wf
  | .atomXor g => g.wf
  | .atomMinS g => g.wf
  | .atomMaxS g => g.wf
  | .atomMinU g => g.wf
  | .atomMaxU g => g.wf
  | .atomExch g => g.wf
  | .atomCas g => g.wf
  | .atomFadd g => g.wf
  | .fence g => g.wf
  | .bar g => g.wf
  | .barRelease g => g.wf
  | .gbind g => g.wf
  | .gbindGrant hearth => decide (hearth < 160)
  | .gfree g => g.wf
  | .gwld g => g.wf
  | .flue g => g.wf
  | .flueStreamStart hearth => decide (hearth < 160)
  | .tileCheck hearth _ grate _ => decide (hearth < 160) && decide (grate < 10)
  | .grateRerun hearth _ grate => decide (hearth < 160) && decide (grate < 10)
  | .grateStateEccError hearth grate _ => decide (hearth < 160) && decide (grate < 10)
  | .grd g => g.wf
  | .tadd g => g.wf
  | .tsub g => g.wf
  | .tmul g => g.wf
  | .tmax g => g.wf
  | .tmin g => g.wf
  | .trelu g => g.wf
  | .texp2 g => g.wf
  | .trivetTileStart hearth burner => decide (hearth < 160) && decide (burner < 4)
  | .trivetParityError hearth burner => decide (hearth < 160) && decide (burner < 4)
  | .nop g => g.wf
  | .exit g => g.wf
  | .brk g => g.wf
  | .flclr g => g.wf
  | .referenceIntake serai input _ => decide (serai < 8) && decide (input < 8)
  | .intakeStallRelease serai input => decide (serai < 8) && decide (input < 8)
  | .windowClose serai => decide (serai < 8)
  | .rowFetchComplete serai table _ _ _ _ => decide (serai < 8) && decide (table < 65536)
  | .partialSumReceive _ _ _ => true
  | .lateRowTimeout serai table _ => decide (serai < 8) && decide (table < 65536)
  | .flashReadComplete ctrl _ _ _ => decide (ctrl < 16)
  | .flashControllerLost ctrl => decide (ctrl < 16)
  | .overlayWriteback serai table _ => decide (serai < 8) && decide (table < 65536)
  | .overlayStageResume serai => decide (serai < 8)
  | .mergeIntakeResume serai => decide (serai < 8)
  | .seraiApply serai table _ => decide (serai < 8) && decide (table < 65536)
  | .aclConfig fn v => decide (fn < 17) && decide (v < 2 ^ 64)
  | .pageWalkComplete hearth ctx _ _ => decide (hearth < 160) && decide (ctx < 65536)
  | .atsTranslationCompletion fn _ _ _ _ => decide (fn < 17)
  | .atsInvalidateRequest fn _ _ _ => decide (fn < 17)
  | .invalidationComplete _ => true
  | .hostStackRead port _ _ => decide (port < 2)
  | .hostStackWrite port fn _ _ _ => decide (port < 2) && decide (fn < 17)
  | .hostSnoop _ _ => true
  | .port1LinkLost => true
  | .port0LinkLost => true
  | .causewayFlitFail _ => true
  | .depotEviction _ _ _ => true
  | .conflictWaitRelease => true
  | .wcBufferDrain hearth _ => decide (hearth < 160)
  | .mergingBufferDrain die => decide (die < 2)
  | .cacheParityError _ _ _ _ _ => true
  | .stackEccError _ chan _ _ _ _ => decide (chan < 64)
  | .poisonConsumed _ _ => true
  | .sieveEccError die _ _ => decide (die < 2)
  | .stackTempSample stack _ => decide (stack < 8)
  | .faultReport _ => true
  | .quenchEntry => true
  | .hostSinkWrite => true
  | .msixHoldoffExpiry fn vec => decide (fn < 17) && decide (vec < 32)
  | .coalesceFlush => true
  | .cperForward => true
  | .pldmEventResend _ => true
  | .mailboxOverrun fn => decide (fn < 17)
  | .getInfo _ req => decide (8 ≤ req.length)
  | .enterBanked _ req => decide (8 ≤ req.length)
  | .leaveBanked _ req => decide (8 ≤ req.length)
  | .readErrorLog _ req => decide (8 ≤ req.length)
  | .readSparingLog _ req => decide (8 ≤ req.length)
  | .chimneyConfig _ req => decide (8 ≤ req.length)
  | .stageBegin _ req => decide (8 ≤ req.length)
  | .stageData _ req => decide (8 ≤ req.length)
  | .stageCommit _ req _ => decide (8 ≤ req.length)
  | .coldReset _ req _ _ => decide (8 ≤ req.length)
  | .setRtc _ req => decide (8 ≤ req.length)
  | .mctpControl _ => true
  | .pldmSetEventReceiver _ => true
  | .pldmSensorRead _ _ => true
  | .pldmFirmwareUpdate _ _ _ _ => true
  | .spdmGetMeasurements _ => true
  | .barAccessDropped fn _ => decide (fn < 17)
  | .latchingLoRead fn bn _ _ => decide (fn < 17) && decide (bn < 3)
  | .registerWrite fn bn _ v _ => decide (fn < 17) && decide (bn < 3) && decide (v < 2 ^ 64)
  | .functionLogConfig fn v => decide (fn < 17) && decide (v < 2 ^ 64)
  | .routeTrainingStart port => decide (port < 8)
  | .routeTrainingComplete port _ _ => decide (port < 8)
  | .routeBringupTimeout port => decide (port < 8)
  | .fecLock port nonce => decide (port < 8) && decide (nonce < 2 ^ 64)
  | .helloFrame port f _ serial nonce _ _ _ => decide (port < 8) && f.wf && decide (serial < 2 ^ 64) && decide (nonce < 2 ^ 64)
  | .spdmFrame port f _ _ _ _ _ => decide (port < 8) && f.wf
  | .quarantineHoldEnd port => decide (port < 8)
  | .dataFrame port f _ => decide (port < 8) && f.wf
  | .startFrame port f _ => decide (port < 8) && f.wf
  | .doneFrame port f _ => decide (port < 8) && f.wf
  | .abortFrame port f _ => decide (port < 8) && f.wf
  | .creditFrame port f _ => decide (port < 8) && f.wf
  | .nakFrame port f _ => decide (port < 8) && f.wf
  | .controlTick port f _ _ => decide (port < 8) && f.wf
  | .controlKeepalive port f _ => decide (port < 8) && f.wf
  | .controlLane port f _ lane => decide (port < 8) && f.wf && decide (lane < 9)
  | .keepaliveSend port => decide (port < 8)
  | .routeLaneFail port lane => decide (port < 8) && decide (lane < 9)
  | .autoKeyUpdate port => decide (port < 8)
  | .lostRecordEmit die => decide (die < 2)
  | .traceFrameSend => true
  | .traceHostExport => true
  | .bxQTailWrite v => decide (v < 2 ^ 64)
  | .bxQueueIdleRecheck => true
  | .bxQueueEnable v => decide (v < 2 ^ 64)
  | .bxSoftReset v _ => decide (v < 2 ^ 64)
  | .bxResume v => decide (v < 2 ^ 64)
  | .bxStatusRead => true
  | .bxNop _ => true
  | .defineTable _ => true
  | .undefineTable _ => true
  | .rowWrite _ => true
  | .lookupPool _ => true
  | .dense _ => true
  | .bxCopy _ => true
  | .bxCommandComplete => true
  | .perstRelease port rate width => decide (port < 2) && decide (rate ≤ 6) && decide (width ≤ 16)

end Sys2Proof
end

