-- ==== Sys2Proof/Laws/PerInstr.lean ====
section
/-!
SUPPORT. What is said of each command as syntax: its operand ranges leave something to command.
-/
namespace Sys2Proof.Laws.Ranges
open Sys2Proof

/-- Some command of the same row is well formed: the ranges of its operands do not exclude each other. -/
def Statement (i : Instr) : Prop := ∃ j : Instr, j.wf = true ∧ j.ctorIdx = i.ctorIdx

theorem islandPowerUp (sigA : Bool) (sigB : Bool) : Statement (.islandPowerUp sigA sigB) := ⟨.islandPowerUp false false, by decide, rfl⟩
theorem wardenReset (sigA : Bool) (sigB : Bool) : Statement (.wardenReset sigA sigB) := ⟨.wardenReset false false, by decide, rfl⟩
theorem wardenWatchdogExpiry (sigA : Bool) (sigB : Bool) :
    Statement (.wardenWatchdogExpiry sigA sigB) :=
  ⟨.wardenWatchdogExpiry false false, by decide, rfl⟩
theorem firmwareSecurityFuse : Statement (.firmwareSecurityFuse) := ⟨.firmwareSecurityFuse, by decide, rfl⟩
theorem rtcTick : Statement (.rtcTick) := ⟨.rtcTick, by decide, rfl⟩
theorem czResetAssert : Statement (.czResetAssert) := ⟨.czResetAssert, by decide, rfl⟩
theorem czResetRelease (sigA : Bool) (sigB : Bool) : Statement (.czResetRelease sigA sigB) := ⟨.czResetRelease false false, by decide, rfl⟩
theorem stackDramTrained (stack : Nat) (ok : Bool) : Statement (.stackDramTrained stack ok) := ⟨.stackDramTrained 0 false, by decide, rfl⟩
theorem kindlingEmberTest (failed : List Nat) : Statement (.kindlingEmberTest failed) := ⟨.kindlingEmberTest [], by decide, rfl⟩
theorem kindlingKnownAnswerTests (failed : Option Nat) (seed : Nat) :
    Statement (.kindlingKnownAnswerTests failed seed) :=
  ⟨.kindlingKnownAnswerTests none 0, by decide, rfl⟩
theorem cellarEnumeration (ctrls : List (List Namespace × Nat)) :
    Statement (.cellarEnumeration ctrls) :=
  ⟨.cellarEnumeration [], by decide, rfl⟩
theorem kindlingEnd (rate0 : Nat) (width0 : Nat) (rate1 : Nat) (width1 : Nat) :
    Statement (.kindlingEnd rate0 width0 rate1 width1) :=
  ⟨.kindlingEnd 0 0 0 0, by decide, rfl⟩
theorem railTrip : Statement (.railTrip) := ⟨.railTrip, by decide, rfl⟩
theorem computeRailsPowerDown : Statement (.computeRailsPowerDown) := ⟨.computeRailsPowerDown, by decide, rfl⟩
theorem port0ConventionalReset (hot : Bool) (rate : Nat) (width : Nat) :
    Statement (.port0ConventionalReset hot rate width) :=
  ⟨.port0ConventionalReset false 0 0, by decide, rfl⟩
theorem port1ConventionalReset (hot : Bool) (rate : Nat) (width : Nat) :
    Statement (.port1ConventionalReset hot rate width) :=
  ⟨.port1ConventionalReset false 0 0, by decide, rfl⟩
theorem functionReset (fn : Nat) (vfEnable : Bool) : Statement (.functionReset fn vfEnable) := ⟨.functionReset 0 false, by decide, rfl⟩
theorem throtInAssert : Statement (.throtInAssert) := ⟨.throtInAssert, by decide, rfl⟩
theorem dieTempSample (die : Nat) (temp : Int) : Statement (.dieTempSample die temp) := ⟨.dieTempSample 0 0, by decide, rfl⟩
theorem powerSample (power : Nat) (throtHigh : Bool) : Statement (.powerSample power throtHigh) := ⟨.powerSample 0 false, by decide, rfl⟩
theorem tickBoundary : Statement (.tickBoundary) := ⟨.tickBoundary, by decide, rfl⟩
theorem spanExpiry : Statement (.spanExpiry) := ⟨.spanExpiry, by decide, rfl⟩
theorem guardBandStart : Statement (.guardBandStart) := ⟨.guardBandStart, by decide, rfl⟩
theorem caravanClose : Statement (.caravanClose) := ⟨.caravanClose, by decide, rfl⟩
theorem tickFrameReceive (frame : Nat) (edge : Nat) : Statement (.tickFrameReceive frame edge) := ⟨.tickFrameReceive 0 0, by decide, rfl⟩
theorem holdoverEntry : Statement (.holdoverEntry) := ⟨.holdoverEntry, by decide, rfl⟩
theorem holdoverExpired : Statement (.holdoverExpired) := ⟨.holdoverExpired, by decide, rfl⟩
theorem doorbell (fn : Nat) (v : Nat) : Statement (.doorbell fn v) := ⟨.doorbell 0 0, by decide, rfl⟩
theorem ringEnable (fn : Nat) (v : Nat) : Statement (.ringEnable fn v) := ⟨.ringEnable 0 0, by decide, rfl⟩
theorem ringIdleRecheck (fn : Nat) : Statement (.ringIdleRecheck fn) := ⟨.ringIdleRecheck 0, by decide, rfl⟩
theorem manifestFetch (fn : Nat) : Statement (.manifestFetch fn) := ⟨.manifestFetch 0, by decide, rfl⟩
theorem tagWaitReread (fn : Nat) : Statement (.tagWaitReread fn) := ⟨.tagWaitReread 0, by decide, rfl⟩
theorem tagStop (fn : Nat) : Statement (.tagStop fn) := ⟨.tagStop 0, by decide, rfl⟩
theorem admissionResume (fn : Nat) : Statement (.admissionResume fn) := ⟨.admissionResume 0, by decide, rfl⟩
theorem delegate (fn : Nat) : Statement (.delegate fn) := ⟨.delegate 0, by decide, rfl⟩
theorem admitCmd (cid : Nat) (idx : Nat) : Statement (.admitCmd cid idx) := ⟨.admitCmd 0 0, by decide, rfl⟩
theorem answer (cid : Nat) : Statement (.answer cid) := ⟨.answer 0, by decide, rfl⟩
theorem abandon (cid : Nat) : Statement (.abandon cid) := ⟨.abandon 0, by decide, rfl⟩
theorem fenceCommand (cid : Nat) : Statement (.fenceCommand cid) := ⟨.fenceCommand 0, by decide, rfl⟩
theorem clearNumericStatus (cid : Nat) : Statement (.clearNumericStatus cid) := ⟨.clearNumericStatus 0, by decide, rfl⟩
theorem lookup (cid : Nat) : Statement (.lookup cid) := ⟨.lookup 0, by decide, rfl⟩
theorem update (cid : Nat) : Statement (.update cid) := ⟨.update 0, by decide, rfl⟩
theorem replaceRows (cid : Nat) : Statement (.replaceRows cid) := ⟨.replaceRows 0, by decide, rfl⟩
theorem readRows (cid : Nat) : Statement (.readRows cid) := ⟨.readRows 0, by decide, rfl⟩
theorem launch (cid : Nat) : Statement (.launch cid) := ⟨.launch 0, by decide, rfl⟩
theorem select (cid : Nat) : Statement (.select cid) := ⟨.select 0, by decide, rfl⟩
theorem sample (cid : Nat) : Statement (.sample cid) := ⟨.sample 0, by decide, rfl⟩
theorem copy (cid : Nat) (errs : List Nat) : Statement (.copy cid errs) := ⟨.copy 0 [], by decide, rfl⟩
theorem readLoadCounts (cid : Nat) : Statement (.readLoadCounts cid) := ⟨.readLoadCounts 0, by decide, rfl⟩
theorem larderRefresh (cid : Nat) : Statement (.larderRefresh cid) := ⟨.larderRefresh 0, by decide, rfl⟩
theorem larderFillResume (table : Nat) : Statement (.larderFillResume table) := ⟨.larderFillResume 0, by decide, rfl⟩
theorem larderWritebackComplete (table : Nat) (key : Nat) :
    Statement (.larderWritebackComplete table key) :=
  ⟨.larderWritebackComplete 0 0, by decide, rfl⟩
theorem recalibrateRows (cid : Nat) : Statement (.recalibrateRows cid) := ⟨.recalibrateRows 0, by decide, rfl⟩
theorem migrateShard (cid : Nat) : Statement (.migrateShard cid) := ⟨.migrateShard 0, by decide, rfl⟩
theorem migrationHandoverComplete (table : Nat) :
    Statement (.migrationHandoverComplete table) :=
  ⟨.migrationHandoverComplete 0, by decide, rfl⟩
theorem rehomeSpan (cid : Nat) : Statement (.rehomeSpan cid) := ⟨.rehomeSpan 0, by decide, rfl⟩
theorem routeExchange (cid : Nat) : Statement (.routeExchange cid) := ⟨.routeExchange 0, by decide, rfl⟩
theorem routeReduce (cid : Nat) : Statement (.routeReduce cid) := ⟨.routeReduce 0, by decide, rfl⟩
theorem routeOperationStart (cid : Nat) : Statement (.routeOperationStart cid) := ⟨.routeOperationStart 0, by decide, rfl⟩
theorem loadRouteKeyPin (cid : Nat) : Statement (.loadRouteKeyPin cid) := ⟨.loadRouteKeyPin 0, by decide, rfl⟩
theorem loadRouteKeyUnpin (cid : Nat) : Statement (.loadRouteKeyUnpin cid) := ⟨.loadRouteKeyUnpin 0, by decide, rfl⟩
theorem loadRouteKeyRekey (cid : Nat) : Statement (.loadRouteKeyRekey cid) := ⟨.loadRouteKeyRekey 0, by decide, rfl⟩
theorem registerTable (cid : Nat) : Statement (.registerTable cid) := ⟨.registerTable 0, by decide, rfl⟩
theorem deregisterTable (cid : Nat) : Statement (.deregisterTable cid) := ⟨.deregisterTable 0, by decide, rfl⟩
theorem registerOptimiser (cid : Nat) : Statement (.registerOptimiser cid) := ⟨.registerOptimiser 0, by decide, rfl⟩
theorem registerRecipe (cid : Nat) : Statement (.registerRecipe cid) := ⟨.registerRecipe 0, by decide, rfl⟩
theorem deregisterRecipe (cid : Nat) : Statement (.deregisterRecipe cid) := ⟨.deregisterRecipe 0, by decide, rfl⟩
theorem invalidateTranslations (cid : Nat) : Statement (.invalidateTranslations cid) := ⟨.invalidateTranslations 0, by decide, rfl⟩
theorem createContext (cid : Nat) : Statement (.createContext cid) := ⟨.createContext 0, by decide, rfl⟩
theorem destroyContext (cid : Nat) : Statement (.destroyContext cid) := ⟨.destroyContext 0, by decide, rfl⟩
theorem debugHalt (cid : Nat) : Statement (.debugHalt cid) := ⟨.debugHalt 0, by decide, rfl⟩
theorem debugStep (cid : Nat) : Statement (.debugStep cid) := ⟨.debugStep 0, by decide, rfl⟩
theorem debugResume (cid : Nat) : Statement (.debugResume cid) := ⟨.debugResume 0, by decide, rfl⟩
theorem debugReadGroup (cid : Nat) : Statement (.debugReadGroup cid) := ⟨.debugReadGroup 0, by decide, rfl⟩
theorem replayInject (cid : Nat) (idx : Nat) : Statement (.replayInject cid idx) := ⟨.replayInject 0 0, by decide, rfl⟩
theorem waybillCommit (wb : Nat) : Statement (.waybillCommit wb) := ⟨.waybillCommit 0, by decide, rfl⟩
theorem commandCommit (cid : Nat) : Statement (.commandCommit cid) := ⟨.commandCommit 0, by decide, rfl⟩
theorem streamSuccessorFile (wb : Nat) (idx : Nat) : Statement (.streamSuccessorFile wb idx) := ⟨.streamSuccessorFile 0 0, by decide, rfl⟩
theorem completionCounterAdvance (ctx : Nat) : Statement (.completionCounterAdvance ctx) := ⟨.completionCounterAdvance 0, by decide, rfl⟩
theorem waybillDrainComplete (wb : Nat) : Statement (.waybillDrainComplete wb) := ⟨.waybillDrainComplete 0, by decide, rfl⟩
theorem extensionReadPoison (wb : Nat) : Statement (.extensionReadPoison wb) := ⟨.extensionReadPoison 0, by decide, rfl⟩
theorem ledgerEntryEccError (idx : Nat) (copyA : Nat) (copyB : Nat) :
    Statement (.ledgerEntryEccError idx copyA copyB) :=
  ⟨.ledgerEntryEccError 0 0 0, by decide, rfl⟩
theorem ledgerLockstepMismatch : Statement (.ledgerLockstepMismatch) := ⟨.ledgerLockstepMismatch, by decide, rfl⟩
theorem captureConfig (fn : Nat) (v : Nat) : Statement (.captureConfig fn v) := ⟨.captureConfig 0 0, by decide, rfl⟩
theorem preemption (cid : Nat) : Statement (.preemption cid) := ⟨.preemption 0, by decide, rfl⟩
theorem blockPlace (cid : Nat) : Statement (.blockPlace cid) := ⟨.blockPlace 0, by decide, rfl⟩
theorem splitDrainMark (cid : Nat) : Statement (.splitDrainMark cid) := ⟨.splitDrainMark 0, by decide, rfl⟩
theorem hearthMove (hearth : Nat) : Statement (.hearthMove hearth) := ⟨.hearthMove 0, by decide, rfl⟩
theorem emberTestComplete (quarter : Nat) (fail : Bool) :
    Statement (.emberTestComplete quarter fail) :=
  ⟨.emberTestComplete 0 false, by decide, rfl⟩
theorem emberOverdue (phys : Nat) : Statement (.emberOverdue phys) := ⟨.emberOverdue 0, by decide, rfl⟩
theorem knownAnswerTest (unit : Nat) (inst : Nat) (pass : Bool) :
    Statement (.knownAnswerTest unit inst pass) :=
  ⟨.knownAnswerTest 0 0 false, by decide, rfl⟩
theorem groupSelfWait (g : GroupRef) : Statement (.groupSelfWait g) := ⟨.groupSelfWait ⟨0, 0, 0⟩, by decide, rfl⟩
theorem smov (g : GroupRef) : Statement (.smov g) := ⟨.smov ⟨0, 0, 0⟩, by decide, rfl⟩
theorem smovi (g : GroupRef) : Statement (.smovi g) := ⟨.smovi ⟨0, 0, 0⟩, by decide, rfl⟩
theorem smovhi (g : GroupRef) : Statement (.smovhi g) := ⟨.smovhi ⟨0, 0, 0⟩, by decide, rfl⟩
theorem sadd (g : GroupRef) : Statement (.sadd g) := ⟨.sadd ⟨0, 0, 0⟩, by decide, rfl⟩
theorem saddi (g : GroupRef) : Statement (.saddi g) := ⟨.saddi ⟨0, 0, 0⟩, by decide, rfl⟩
theorem ssub (g : GroupRef) : Statement (.ssub g) := ⟨.ssub ⟨0, 0, 0⟩, by decide, rfl⟩
theorem sand (g : GroupRef) : Statement (.sand g) := ⟨.sand ⟨0, 0, 0⟩, by decide, rfl⟩
theorem sor (g : GroupRef) : Statement (.sor g) := ⟨.sor ⟨0, 0, 0⟩, by decide, rfl⟩
theorem sxor (g : GroupRef) : Statement (.sxor g) := ⟨.sxor ⟨0, 0, 0⟩, by decide, rfl⟩
theorem sandn (g : GroupRef) : Statement (.sandn g) := ⟨.sandn ⟨0, 0, 0⟩, by decide, rfl⟩
theorem sshl (g : GroupRef) : Statement (.sshl g) := ⟨.sshl ⟨0, 0, 0⟩, by decide, rfl⟩
theorem sshr (g : GroupRef) : Statement (.sshr g) := ⟨.sshr ⟨0, 0, 0⟩, by decide, rfl⟩
theorem ssar (g : GroupRef) : Statement (.ssar g) := ⟨.ssar ⟨0, 0, 0⟩, by decide, rfl⟩
theorem smul (g : GroupRef) : Statement (.smul g) := ⟨.smul ⟨0, 0, 0⟩, by decide, rfl⟩
theorem spopc (g : GroupRef) : Statement (.spopc g) := ⟨.spopc ⟨0, 0, 0⟩, by decide, rfl⟩
theorem sff1 (g : GroupRef) : Statement (.sff1 g) := ⟨.sff1 ⟨0, 0, 0⟩, by decide, rfl⟩
theorem sexecGet (g : GroupRef) : Statement (.sexecGet g) := ⟨.sexecGet ⟨0, 0, 0⟩, by decide, rfl⟩
theorem sexecSet (g : GroupRef) : Statement (.sexecSet g) := ⟨.sexecSet ⟨0, 0, 0⟩, by decide, rfl⟩
theorem srd (g : GroupRef) : Statement (.srd g) := ⟨.srd ⟨0, 0, 0⟩, by decide, rfl⟩
theorem sflrd (g : GroupRef) : Statement (.sflrd g) := ⟨.sflrd ⟨0, 0, 0⟩, by decide, rfl⟩
theorem scmp (g : GroupRef) : Statement (.scmp g) := ⟨.scmp ⟨0, 0, 0⟩, by decide, rfl⟩
theorem br (g : GroupRef) : Statement (.br g) := ⟨.br ⟨0, 0, 0⟩, by decide, rfl⟩
theorem jmp (g : GroupRef) : Statement (.jmp g) := ⟨.jmp ⟨0, 0, 0⟩, by decide, rfl⟩
theorem call (g : GroupRef) : Statement (.call g) := ⟨.call ⟨0, 0, 0⟩, by decide, rfl⟩
theorem vadd (g : GroupRef) : Statement (.vadd g) := ⟨.vadd ⟨0, 0, 0⟩, by decide, rfl⟩
theorem vsub (g : GroupRef) : Statement (.vsub g) := ⟨.vsub ⟨0, 0, 0⟩, by decide, rfl⟩
theorem vmul (g : GroupRef) : Statement (.vmul g) := ⟨.vmul ⟨0, 0, 0⟩, by decide, rfl⟩
theorem vmulhiS (g : GroupRef) : Statement (.vmulhiS g) := ⟨.vmulhiS ⟨0, 0, 0⟩, by decide, rfl⟩
theorem vmulhiU (g : GroupRef) : Statement (.vmulhiU g) := ⟨.vmulhiU ⟨0, 0, 0⟩, by decide, rfl⟩
theorem vmad (g : GroupRef) : Statement (.vmad g) := ⟨.vmad ⟨0, 0, 0⟩, by decide, rfl⟩
theorem vand (g : GroupRef) : Statement (.vand g) := ⟨.vand ⟨0, 0, 0⟩, by decide, rfl⟩
theorem vor (g : GroupRef) : Statement (.vor g) := ⟨.vor ⟨0, 0, 0⟩, by decide, rfl⟩
theorem vxor (g : GroupRef) : Statement (.vxor g) := ⟨.vxor ⟨0, 0, 0⟩, by decide, rfl⟩
theorem vshl (g : GroupRef) : Statement (.vshl g) := ⟨.vshl ⟨0, 0, 0⟩, by decide, rfl⟩
theorem vshr (g : GroupRef) : Statement (.vshr g) := ⟨.vshr ⟨0, 0, 0⟩, by decide, rfl⟩
theorem vsar (g : GroupRef) : Statement (.vsar g) := ⟨.vsar ⟨0, 0, 0⟩, by decide, rfl⟩
theorem vminS (g : GroupRef) : Statement (.vminS g) := ⟨.vminS ⟨0, 0, 0⟩, by decide, rfl⟩
theorem vmaxS (g : GroupRef) : Statement (.vmaxS g) := ⟨.vmaxS ⟨0, 0, 0⟩, by decide, rfl⟩
theorem vminU (g : GroupRef) : Statement (.vminU g) := ⟨.vminU ⟨0, 0, 0⟩, by decide, rfl⟩
theorem vmaxU (g : GroupRef) : Statement (.vmaxU g) := ⟨.vmaxU ⟨0, 0, 0⟩, by decide, rfl⟩
theorem vabs (g : GroupRef) : Statement (.vabs g) := ⟨.vabs ⟨0, 0, 0⟩, by decide, rfl⟩
theorem vclz (g : GroupRef) : Statement (.vclz g) := ⟨.vclz ⟨0, 0, 0⟩, by decide, rfl⟩
theorem vpopc (g : GroupRef) : Statement (.vpopc g) := ⟨.vpopc ⟨0, 0, 0⟩, by decide, rfl⟩
theorem vcmpS (g : GroupRef) : Statement (.vcmpS g) := ⟨.vcmpS ⟨0, 0, 0⟩, by decide, rfl⟩
theorem vcmpU (g : GroupRef) : Statement (.vcmpU g) := ⟨.vcmpU ⟨0, 0, 0⟩, by decide, rfl⟩
theorem vsel (g : GroupRef) : Statement (.vsel g) := ⟨.vsel ⟨0, 0, 0⟩, by decide, rfl⟩
theorem vmov (g : GroupRef) : Statement (.vmov g) := ⟨.vmov ⟨0, 0, 0⟩, by decide, rfl⟩
theorem vlane (g : GroupRef) : Statement (.vlane g) := ⟨.vlane ⟨0, 0, 0⟩, by decide, rfl⟩
theorem fadd (g : GroupRef) : Statement (.fadd g) := ⟨.fadd ⟨0, 0, 0⟩, by decide, rfl⟩
theorem fsub (g : GroupRef) : Statement (.fsub g) := ⟨.fsub ⟨0, 0, 0⟩, by decide, rfl⟩
theorem fmul (g : GroupRef) : Statement (.fmul g) := ⟨.fmul ⟨0, 0, 0⟩, by decide, rfl⟩
theorem ffma (g : GroupRef) : Statement (.ffma g) := ⟨.ffma ⟨0, 0, 0⟩, by decide, rfl⟩
theorem fdiv (g : GroupRef) : Statement (.fdiv g) := ⟨.fdiv ⟨0, 0, 0⟩, by decide, rfl⟩
theorem fsqrt (g : GroupRef) : Statement (.fsqrt g) := ⟨.fsqrt ⟨0, 0, 0⟩, by decide, rfl⟩
theorem fmin (g : GroupRef) : Statement (.fmin g) := ⟨.fmin ⟨0, 0, 0⟩, by decide, rfl⟩
theorem fmax (g : GroupRef) : Statement (.fmax g) := ⟨.fmax ⟨0, 0, 0⟩, by decide, rfl⟩
theorem fabs (g : GroupRef) : Statement (.fabs g) := ⟨.fabs ⟨0, 0, 0⟩, by decide, rfl⟩
theorem fneg (g : GroupRef) : Statement (.fneg g) := ⟨.fneg ⟨0, 0, 0⟩, by decide, rfl⟩
theorem frcp (g : GroupRef) : Statement (.frcp g) := ⟨.frcp ⟨0, 0, 0⟩, by decide, rfl⟩
theorem frsq (g : GroupRef) : Statement (.frsq g) := ⟨.frsq ⟨0, 0, 0⟩, by decide, rfl⟩
theorem fexp2 (g : GroupRef) : Statement (.fexp2 g) := ⟨.fexp2 ⟨0, 0, 0⟩, by decide, rfl⟩
theorem flog2 (g : GroupRef) : Statement (.flog2 g) := ⟨.flog2 ⟨0, 0, 0⟩, by decide, rfl⟩
theorem fcmp (g : GroupRef) : Statement (.fcmp g) := ⟨.fcmp ⟨0, 0, 0⟩, by decide, rfl⟩
theorem cvt (g : GroupRef) : Statement (.cvt g) := ⟨.cvt ⟨0, 0, 0⟩, by decide, rfl⟩
theorem cvtI2f (g : GroupRef) : Statement (.cvtI2f g) := ⟨.cvtI2f ⟨0, 0, 0⟩, by decide, rfl⟩
theorem cvtF2i (g : GroupRef) : Statement (.cvtF2i g) := ⟨.cvtF2i ⟨0, 0, 0⟩, by decide, rfl⟩
theorem vrand (g : GroupRef) : Statement (.vrand g) := ⟨.vrand ⟨0, 0, 0⟩, by decide, rfl⟩
theorem vshfl (g : GroupRef) : Statement (.vshfl g) := ⟨.vshfl ⟨0, 0, 0⟩, by decide, rfl⟩
theorem vrdlane (g : GroupRef) : Statement (.vrdlane g) := ⟨.vrdlane ⟨0, 0, 0⟩, by decide, rfl⟩
theorem ld (g : GroupRef) : Statement (.ld g) := ⟨.ld ⟨0, 0, 0⟩, by decide, rfl⟩
theorem st (g : GroupRef) : Statement (.st g) := ⟨.st ⟨0, 0, 0⟩, by decide, rfl⟩
theorem pref (g : GroupRef) : Statement (.pref g) := ⟨.pref ⟨0, 0, 0⟩, by decide, rfl⟩
theorem lds (g : GroupRef) : Statement (.lds g) := ⟨.lds ⟨0, 0, 0⟩, by decide, rfl⟩
theorem sts (g : GroupRef) : Statement (.sts g) := ⟨.sts ⟨0, 0, 0⟩, by decide, rfl⟩
theorem atomAdd (g : GroupRef) : Statement (.atomAdd g) := ⟨.atomAdd ⟨0, 0, 0⟩, by decide, rfl⟩
theorem atomAnd (g : GroupRef) : Statement (.atomAnd g) := ⟨.atomAnd ⟨0, 0, 0⟩, by decide, rfl⟩
theorem atomOr (g : GroupRef) : Statement (.atomOr g) := ⟨.atomOr ⟨0, 0, 0⟩, by decide, rfl⟩
theorem atomXor (g : GroupRef) : Statement (.atomXor g) := ⟨.atomXor ⟨0, 0, 0⟩, by decide, rfl⟩
theorem atomMinS (g : GroupRef) : Statement (.atomMinS g) := ⟨.atomMinS ⟨0, 0, 0⟩, by decide, rfl⟩
theorem atomMaxS (g : GroupRef) : Statement (.atomMaxS g) := ⟨.atomMaxS ⟨0, 0, 0⟩, by decide, rfl⟩
theorem atomMinU (g : GroupRef) : Statement (.atomMinU g) := ⟨.atomMinU ⟨0, 0, 0⟩, by decide, rfl⟩
theorem atomMaxU (g : GroupRef) : Statement (.atomMaxU g) := ⟨.atomMaxU ⟨0, 0, 0⟩, by decide, rfl⟩
theorem atomExch (g : GroupRef) : Statement (.atomExch g) := ⟨.atomExch ⟨0, 0, 0⟩, by decide, rfl⟩
theorem atomCas (g : GroupRef) : Statement (.atomCas g) := ⟨.atomCas ⟨0, 0, 0⟩, by decide, rfl⟩
theorem atomFadd (g : GroupRef) : Statement (.atomFadd g) := ⟨.atomFadd ⟨0, 0, 0⟩, by decide, rfl⟩
theorem fence (g : GroupRef) : Statement (.fence g) := ⟨.fence ⟨0, 0, 0⟩, by decide, rfl⟩
theorem bar (g : GroupRef) : Statement (.bar g) := ⟨.bar ⟨0, 0, 0⟩, by decide, rfl⟩
theorem barRelease (g : GroupRef) : Statement (.barRelease g) := ⟨.barRelease ⟨0, 0, 0⟩, by decide, rfl⟩
theorem gbind (g : GroupRef) : Statement (.gbind g) := ⟨.gbind ⟨0, 0, 0⟩, by decide, rfl⟩
theorem gbindGrant (hearth : Nat) : Statement (.gbindGrant hearth) := ⟨.gbindGrant 0, by decide, rfl⟩
theorem gfree (g : GroupRef) : Statement (.gfree g) := ⟨.gfree ⟨0, 0, 0⟩, by decide, rfl⟩
theorem gwld (g : GroupRef) : Statement (.gwld g) := ⟨.gwld ⟨0, 0, 0⟩, by decide, rfl⟩
theorem flue (g : GroupRef) : Statement (.flue g) := ⟨.flue ⟨0, 0, 0⟩, by decide, rfl⟩
theorem flueStreamStart (hearth : Nat) : Statement (.flueStreamStart hearth) := ⟨.flueStreamStart 0, by decide, rfl⟩
theorem tileCheck (hearth : Nat) (idx : Nat) (grate : Nat) (fail : Option Nat) :
    Statement (.tileCheck hearth idx grate fail) :=
  ⟨.tileCheck 0 0 0 none, by decide, rfl⟩
theorem grateRerun (hearth : Nat) (idx : Nat) (grate : Nat) :
    Statement (.grateRerun hearth idx grate) :=
  ⟨.grateRerun 0 0 0, by decide, rfl⟩
theorem grateStateEccError (hearth : Nat) (grate : Nat) (correctable : Bool) :
    Statement (.grateStateEccError hearth grate correctable) :=
  ⟨.grateStateEccError 0 0 false, by decide, rfl⟩
theorem grd (g : GroupRef) : Statement (.grd g) := ⟨.grd ⟨0, 0, 0⟩, by decide, rfl⟩
theorem tadd (g : GroupRef) : Statement (.tadd g) := ⟨.tadd ⟨0, 0, 0⟩, by decide, rfl⟩
theorem tsub (g : GroupRef) : Statement (.tsub g) := ⟨.tsub ⟨0, 0, 0⟩, by decide, rfl⟩
theorem tmul (g : GroupRef) : Statement (.tmul g) := ⟨.tmul ⟨0, 0, 0⟩, by decide, rfl⟩
theorem tmax (g : GroupRef) : Statement (.tmax g) := ⟨.tmax ⟨0, 0, 0⟩, by decide, rfl⟩
theorem tmin (g : GroupRef) : Statement (.tmin g) := ⟨.tmin ⟨0, 0, 0⟩, by decide, rfl⟩
theorem trelu (g : GroupRef) : Statement (.trelu g) := ⟨.trelu ⟨0, 0, 0⟩, by decide, rfl⟩
theorem texp2 (g : GroupRef) : Statement (.texp2 g) := ⟨.texp2 ⟨0, 0, 0⟩, by decide, rfl⟩
theorem trivetTileStart (hearth : Nat) (burner : Nat) : Statement (.trivetTileStart hearth burner) := ⟨.trivetTileStart 0 0, by decide, rfl⟩
theorem trivetParityError (hearth : Nat) (burner : Nat) :
    Statement (.trivetParityError hearth burner) :=
  ⟨.trivetParityError 0 0, by decide, rfl⟩
theorem nop (g : GroupRef) : Statement (.nop g) := ⟨.nop ⟨0, 0, 0⟩, by decide, rfl⟩
theorem exit (g : GroupRef) : Statement (.exit g) := ⟨.exit ⟨0, 0, 0⟩, by decide, rfl⟩
theorem brk (g : GroupRef) : Statement (.brk g) := ⟨.brk ⟨0, 0, 0⟩, by decide, rfl⟩
theorem flclr (g : GroupRef) : Statement (.flclr g) := ⟨.flclr ⟨0, 0, 0⟩, by decide, rfl⟩
theorem referenceIntake (serai : Nat) (input : Nat) (n : Nat) :
    Statement (.referenceIntake serai input n) :=
  ⟨.referenceIntake 0 0 0, by decide, rfl⟩
theorem intakeStallRelease (serai : Nat) (input : Nat) :
    Statement (.intakeStallRelease serai input) :=
  ⟨.intakeStallRelease 0 0, by decide, rfl⟩
theorem windowClose (serai : Nat) : Statement (.windowClose serai) := ⟨.windowClose 0, by decide, rfl⟩
theorem rowFetchComplete (serai : Nat) (table : Nat) (row : Option Nat) (bad : Option Nat) (replace : Option Nat) (residueOk : Bool) :
    Statement (.rowFetchComplete serai table row bad replace residueOk) :=
  ⟨.rowFetchComplete 0 0 none none none false, by decide, rfl⟩
theorem partialSumReceive (idx : Nat) (bad : Option Nat) (residueOk : Bool) :
    Statement (.partialSumReceive idx bad residueOk) :=
  ⟨.partialSumReceive 0 none false, by decide, rfl⟩
theorem lateRowTimeout (serai : Nat) (table : Nat) (row : Nat) :
    Statement (.lateRowTimeout serai table row) :=
  ⟨.lateRowTimeout 0 0 0, by decide, rfl⟩
theorem flashReadComplete (ctrl : Nat) (nsid : Nat) (lba : Nat) (error : Bool) :
    Statement (.flashReadComplete ctrl nsid lba error) :=
  ⟨.flashReadComplete 0 0 0 false, by decide, rfl⟩
theorem flashControllerLost (ctrl : Nat) : Statement (.flashControllerLost ctrl) := ⟨.flashControllerLost 0, by decide, rfl⟩
theorem overlayWriteback (serai : Nat) (table : Nat) (row : Nat) :
    Statement (.overlayWriteback serai table row) :=
  ⟨.overlayWriteback 0 0 0, by decide, rfl⟩
theorem overlayStageResume (serai : Nat) : Statement (.overlayStageResume serai) := ⟨.overlayStageResume 0, by decide, rfl⟩
theorem mergeIntakeResume (serai : Nat) : Statement (.mergeIntakeResume serai) := ⟨.mergeIntakeResume 0, by decide, rfl⟩
theorem seraiApply (serai : Nat) (table : Nat) (row : Nat) : Statement (.seraiApply serai table row) := ⟨.seraiApply 0 0 0, by decide, rfl⟩
theorem aclConfig (fn : Nat) (v : Nat) : Statement (.aclConfig fn v) := ⟨.aclConfig 0 0, by decide, rfl⟩
theorem pageWalkComplete (hearth : Nat) (ctx : Nat) (da : Nat) (parity : Bool) :
    Statement (.pageWalkComplete hearth ctx da parity) :=
  ⟨.pageWalkComplete 0 0 0 false, by decide, rfl⟩
theorem atsTranslationCompletion (fn : Nat) (addr : Nat) (target : Nat) (read : Bool) (write : Bool) :
    Statement (.atsTranslationCompletion fn addr target read write) :=
  ⟨.atsTranslationCompletion 0 0 0 false false, by decide, rfl⟩
theorem atsInvalidateRequest (fn : Nat) (addr : Nat) (len : Nat) (same : Bool) :
    Statement (.atsInvalidateRequest fn addr len same) :=
  ⟨.atsInvalidateRequest 0 0 0 false, by decide, rfl⟩
theorem invalidationComplete (idx : Nat) : Statement (.invalidationComplete idx) := ⟨.invalidationComplete 0, by decide, rfl⟩
theorem hostStackRead (port : Nat) (off : Nat) (len : Nat) :
    Statement (.hostStackRead port off len) :=
  ⟨.hostStackRead 0 0 0, by decide, rfl⟩
theorem hostStackWrite (port : Nat) (fn : Nat) (off : Nat) (data : List Byte) (poisoned : Bool) :
    Statement (.hostStackWrite port fn off data poisoned) :=
  ⟨.hostStackWrite 0 0 0 [] false, by decide, rfl⟩
theorem hostSnoop (addr : Nat) (own : Bool) : Statement (.hostSnoop addr own) := ⟨.hostSnoop 0 false, by decide, rfl⟩
theorem port1LinkLost : Statement (.port1LinkLost) := ⟨.port1LinkLost, by decide, rfl⟩
theorem port0LinkLost : Statement (.port0LinkLost) := ⟨.port0LinkLost, by decide, rfl⟩
theorem causewayFlitFail (replays : Nat) : Statement (.causewayFlitFail replays) := ⟨.causewayFlitFail 0, by decide, rfl⟩
theorem depotEviction (space : Space) (addr : Nat) (prov : Option Nat) :
    Statement (.depotEviction space addr prov) :=
  ⟨.depotEviction .stack 0 none, by decide, rfl⟩
theorem conflictWaitRelease : Statement (.conflictWaitRelease) := ⟨.conflictWaitRelease, by decide, rfl⟩
theorem wcBufferDrain (hearth : Nat) (idx : Nat) : Statement (.wcBufferDrain hearth idx) := ⟨.wcBufferDrain 0 0, by decide, rfl⟩
theorem mergingBufferDrain (die : Nat) : Statement (.mergingBufferDrain die) := ⟨.mergingBufferDrain 0, by decide, rfl⟩
theorem cacheParityError (kind : Nat) (h : Nat) (idx : Nat) (loc : Nat) (prov : Option Nat) :
    Statement (.cacheParityError kind h idx loc prov) :=
  ⟨.cacheParityError 0 0 0 0 none, by decide, rfl⟩
theorem stackEccError (addr : Nat) (chan : Nat) (bank : Nat) (row : Nat) (correctable : Bool) (lane : Option Nat) :
    Statement (.stackEccError addr chan bank row correctable lane) :=
  ⟨.stackEccError 0 0 0 0 false none, by decide, rfl⟩
theorem poisonConsumed (cid : Nat) (addr : Nat) : Statement (.poisonConsumed cid addr) := ⟨.poisonConsumed 0 0, by decide, rfl⟩
theorem sieveEccError (die : Nat) (cid : Nat) (correctable : Bool) :
    Statement (.sieveEccError die cid correctable) :=
  ⟨.sieveEccError 0 0 false, by decide, rfl⟩
theorem stackTempSample (stack : Nat) (temp : Int) : Statement (.stackTempSample stack temp) := ⟨.stackTempSample 0 0, by decide, rfl⟩
theorem faultReport (r : FaultRec) : Statement (.faultReport r) := ⟨.faultReport {}, by decide, rfl⟩
theorem quenchEntry : Statement (.quenchEntry) := ⟨.quenchEntry, by decide, rfl⟩
theorem hostSinkWrite : Statement (.hostSinkWrite) := ⟨.hostSinkWrite, by decide, rfl⟩
theorem msixHoldoffExpiry (fn : Nat) (vec : Nat) : Statement (.msixHoldoffExpiry fn vec) := ⟨.msixHoldoffExpiry 0 0, by decide, rfl⟩
theorem coalesceFlush : Statement (.coalesceFlush) := ⟨.coalesceFlush, by decide, rfl⟩
theorem cperForward : Statement (.cperForward) := ⟨.cperForward, by decide, rfl⟩
theorem pldmEventResend (acked : Bool) : Statement (.pldmEventResend acked) := ⟨.pldmEventResend false, by decide, rfl⟩
theorem mailboxOverrun (fn : Nat) : Statement (.mailboxOverrun fn) := ⟨.mailboxOverrun 0, by decide, rfl⟩
theorem getInfo (src : Option Nat) (req : List Byte) : Statement (.getInfo src req) := ⟨.getInfo none (List.replicate 8 0), by decide, rfl⟩
theorem enterBanked (src : Option Nat) (req : List Byte) :
    Statement (.enterBanked src req) :=
  ⟨.enterBanked none (List.replicate 8 0), by decide, rfl⟩
theorem leaveBanked (src : Option Nat) (req : List Byte) :
    Statement (.leaveBanked src req) :=
  ⟨.leaveBanked none (List.replicate 8 0), by decide, rfl⟩
theorem readErrorLog (src : Option Nat) (req : List Byte) :
    Statement (.readErrorLog src req) :=
  ⟨.readErrorLog none (List.replicate 8 0), by decide, rfl⟩
theorem readSparingLog (src : Option Nat) (req : List Byte) :
    Statement (.readSparingLog src req) :=
  ⟨.readSparingLog none (List.replicate 8 0), by decide, rfl⟩
theorem chimneyConfig (src : Option Nat) (req : List Byte) :
    Statement (.chimneyConfig src req) :=
  ⟨.chimneyConfig none (List.replicate 8 0), by decide, rfl⟩
theorem stageBegin (src : Option Nat) (req : List Byte) :
    Statement (.stageBegin src req) :=
  ⟨.stageBegin none (List.replicate 8 0), by decide, rfl⟩
theorem stageData (src : Option Nat) (req : List Byte) :
    Statement (.stageData src req) :=
  ⟨.stageData none (List.replicate 8 0), by decide, rfl⟩
theorem stageCommit (src : Option Nat) (req : List Byte) (sig : Bool) :
    Statement (.stageCommit src req sig) :=
  ⟨.stageCommit none (List.replicate 8 0) false, by decide, rfl⟩
theorem coldReset (src : Option Nat) (req : List Byte) (sigA : Bool) (sigB : Bool) :
    Statement (.coldReset src req sigA sigB) :=
  ⟨.coldReset none (List.replicate 8 0) false false, by decide, rfl⟩
theorem setRtc (src : Option Nat) (req : List Byte) : Statement (.setRtc src req) := ⟨.setRtc none (List.replicate 8 0), by decide, rfl⟩
theorem mctpControl (assign : Option Nat) : Statement (.mctpControl assign) := ⟨.mctpControl none, by decide, rfl⟩
theorem pldmSetEventReceiver (receiver : Option Nat) :
    Statement (.pldmSetEventReceiver receiver) :=
  ⟨.pldmSetEventReceiver none, by decide, rfl⟩
theorem pldmSensorRead (sensor : Nat) (railCurrent : Nat) :
    Statement (.pldmSensorRead sensor railCurrent) :=
  ⟨.pldmSensorRead 0 0, by decide, rfl⟩
theorem pldmFirmwareUpdate (image : Bool) (data : List Byte) (sig : Bool) (activate : Bool) :
    Statement (.pldmFirmwareUpdate image data sig activate) :=
  ⟨.pldmFirmwareUpdate false [] false false, by decide, rfl⟩
theorem spdmGetMeasurements (idx : Nat) : Statement (.spdmGetMeasurements idx) := ⟨.spdmGetMeasurements 0, by decide, rfl⟩
theorem barAccessDropped (fn : Nat) (isRead : Bool) : Statement (.barAccessDropped fn isRead) := ⟨.barAccessDropped 0 false, by decide, rfl⟩
theorem latchingLoRead (fn : Nat) (bar : Nat) (off : Nat) (wide : Bool) :
    Statement (.latchingLoRead fn bar off wide) :=
  ⟨.latchingLoRead 0 0 0 false, by decide, rfl⟩
theorem registerWrite (fn : Nat) (bar : Nat) (off : Nat) (v : Nat) (wide : Bool) :
    Statement (.registerWrite fn bar off v wide) :=
  ⟨.registerWrite 0 0 0 0 false, by decide, rfl⟩
theorem functionLogConfig (fn : Nat) (v : Nat) : Statement (.functionLogConfig fn v) := ⟨.functionLogConfig 0 0, by decide, rfl⟩
theorem routeTrainingStart (port : Nat) : Statement (.routeTrainingStart port) := ⟨.routeTrainingStart 0, by decide, rfl⟩
theorem routeTrainingComplete (port : Nat) (rxBad : Nat) (txBad : Nat) :
    Statement (.routeTrainingComplete port rxBad txBad) :=
  ⟨.routeTrainingComplete 0 0 0, by decide, rfl⟩
theorem routeBringupTimeout (port : Nat) : Statement (.routeBringupTimeout port) := ⟨.routeBringupTimeout 0, by decide, rfl⟩
theorem fecLock (port : Nat) (nonce : Nat) : Statement (.fecLock port nonce) := ⟨.fecLock 0 0, by decide, rfl⟩
theorem helloFrame (port : Nat) (f : Frame) (trailer : Bool) (serial : Nat) (nonce : Nat) (enc : Bool) (rtt : Nat) (again : Nat) :
    Statement (.helloFrame port f trailer serial nonce enc rtt again) :=
  ⟨.helloFrame 0 {} false 0 0 false 0 0, by decide, rfl⟩
theorem spdmFrame (port : Nat) (f : Frame) (trailer : Bool) (update : Bool) (final : Bool) (ok : Bool) (digest : List Byte) :
    Statement (.spdmFrame port f trailer update final ok digest) :=
  ⟨.spdmFrame 0 {} false false false false [], by decide, rfl⟩
theorem quarantineHoldEnd (port : Nat) : Statement (.quarantineHoldEnd port) := ⟨.quarantineHoldEnd 0, by decide, rfl⟩
theorem dataFrame (port : Nat) (f : Frame) (trailer : Bool) :
    Statement (.dataFrame port f trailer) :=
  ⟨.dataFrame 0 {} false, by decide, rfl⟩
theorem startFrame (port : Nat) (f : Frame) (trailer : Bool) :
    Statement (.startFrame port f trailer) :=
  ⟨.startFrame 0 {} false, by decide, rfl⟩
theorem doneFrame (port : Nat) (f : Frame) (trailer : Bool) :
    Statement (.doneFrame port f trailer) :=
  ⟨.doneFrame 0 {} false, by decide, rfl⟩
theorem abortFrame (port : Nat) (f : Frame) (trailer : Bool) :
    Statement (.abortFrame port f trailer) :=
  ⟨.abortFrame 0 {} false, by decide, rfl⟩
theorem creditFrame (port : Nat) (f : Frame) (trailer : Bool) :
    Statement (.creditFrame port f trailer) :=
  ⟨.creditFrame 0 {} false, by decide, rfl⟩
theorem nakFrame (port : Nat) (f : Frame) (trailer : Bool) : Statement (.nakFrame port f trailer) := ⟨.nakFrame 0 {} false, by decide, rfl⟩
theorem controlTick (port : Nat) (f : Frame) (trailer : Bool) (edge : Nat) :
    Statement (.controlTick port f trailer edge) :=
  ⟨.controlTick 0 {} false 0, by decide, rfl⟩
theorem controlKeepalive (port : Nat) (f : Frame) (trailer : Bool) :
    Statement (.controlKeepalive port f trailer) :=
  ⟨.controlKeepalive 0 {} false, by decide, rfl⟩
theorem controlLane (port : Nat) (f : Frame) (trailer : Bool) (lane : Nat) :
    Statement (.controlLane port f trailer lane) :=
  ⟨.controlLane 0 {} false 0, by decide, rfl⟩
theorem keepaliveSend (port : Nat) : Statement (.keepaliveSend port) := ⟨.keepaliveSend 0, by decide, rfl⟩
theorem routeLaneFail (port : Nat) (lane : Nat) : Statement (.routeLaneFail port lane) := ⟨.routeLaneFail 0 0, by decide, rfl⟩
theorem autoKeyUpdate (port : Nat) : Statement (.autoKeyUpdate port) := ⟨.autoKeyUpdate 0, by decide, rfl⟩
theorem lostRecordEmit (die : Nat) : Statement (.lostRecordEmit die) := ⟨.lostRecordEmit 0, by decide, rfl⟩
theorem traceFrameSend : Statement (.traceFrameSend) := ⟨.traceFrameSend, by decide, rfl⟩
theorem traceHostExport : Statement (.traceHostExport) := ⟨.traceHostExport, by decide, rfl⟩
theorem bxQTailWrite (v : Nat) : Statement (.bxQTailWrite v) := ⟨.bxQTailWrite 0, by decide, rfl⟩
theorem bxQueueIdleRecheck : Statement (.bxQueueIdleRecheck) := ⟨.bxQueueIdleRecheck, by decide, rfl⟩
theorem bxQueueEnable (v : Nat) : Statement (.bxQueueEnable v) := ⟨.bxQueueEnable 0, by decide, rfl⟩
theorem bxSoftReset (v : Nat) (flr : Bool) : Statement (.bxSoftReset v flr) := ⟨.bxSoftReset 0 false, by decide, rfl⟩
theorem bxResume (v : Nat) : Statement (.bxResume v) := ⟨.bxResume 0, by decide, rfl⟩
theorem bxStatusRead : Statement (.bxStatusRead) := ⟨.bxStatusRead, by decide, rfl⟩
theorem bxNop (failed : Bool) : Statement (.bxNop failed) := ⟨.bxNop false, by decide, rfl⟩
theorem defineTable (failed : Bool) : Statement (.defineTable failed) := ⟨.defineTable false, by decide, rfl⟩
theorem undefineTable (failed : Bool) : Statement (.undefineTable failed) := ⟨.undefineTable false, by decide, rfl⟩
theorem rowWrite (failed : Bool) : Statement (.rowWrite failed) := ⟨.rowWrite false, by decide, rfl⟩
theorem lookupPool (failed : Bool) : Statement (.lookupPool failed) := ⟨.lookupPool false, by decide, rfl⟩
theorem dense (failed : Bool) : Statement (.dense failed) := ⟨.dense false, by decide, rfl⟩
theorem bxCopy (failed : Bool) : Statement (.bxCopy failed) := ⟨.bxCopy false, by decide, rfl⟩
theorem bxCommandComplete : Statement (.bxCommandComplete) := ⟨.bxCommandComplete, by decide, rfl⟩
theorem perstRelease (port : Nat) (rate : Nat) (width : Nat) :
    Statement (.perstRelease port rate width) :=
  ⟨.perstRelease 0 0 0, by decide, rfl⟩

end Sys2Proof.Laws.Ranges
end

