-- ==== Sys2Proof/Tests/Slice0.lean ====
section
/-!
SUPPORT. The model's own tests: an ill-formed term for each check of well-formedness, a state and operands that meet the hypotheses of
each statement, and small results worked out from the spec by hand.
-/
namespace Sys2Proof.Tests
open Machine
set_option Elab.async false

/-- The state after a command. -/
def after (c : Instr) (s : State) : State :=
  match exec c s with
  | .next t => t
  | _ => s

/-- A part in Service with firmware running. -/
def svc : State :=
  { State.reset with
    dev := .service, boot := { State.reset.boot with presented := true }
    warden := { State.reset.warden with powered := true, running := true } }

/-- Page tables of one context: the root at stack address 0x100000, and one leaf of 1 GiB that maps Device Addresses to the stack addresses
of the same number, writable (R582, R583). -/
def tableCells : List Host.Cell :=
  [(0x100000, 0x01), (0x100001, 0x10), (0x100002, 0x10), (0x101000, 0x01), (0x101001, 0x20), (0x101002, 0x10), (0x102000, 0x07)]

/-- A page that the same tables give. -/
def bigPage : PageTr := { size := 0x40000000, writable := true }

/-- 128 bytes of a manifest: its operands, as offset, bytes and value. -/
def man (l : List (Nat × Nat × Nat)) : List Byte := l.foldl (fun b x => overlay b x.1 (toLe x.2.1 x.2.2)) (List.replicate 128 0)

/-- A part in Service with commands by number, all of context 1, and its page tables. -/
def cmds (l : Map Cmd) : State :=
  { svc with
    mem := { svc.mem with stack := tableCells }
    stk := { svc.stk with
      ctxs := [(1, { ptRoot := 0x100000, debug := true, cplAddr := 0x4000, cplLog2 := 4, flogAddr := 0x5000, nsrAddr := 0x6000 })], cmds := l } }

/-- A command of context 1, admitted or running. -/
def cmd (op : Nat) (l : List (Nat × Nat × Nat)) (st : CmdState := .admitted) : Cmd :=
  { ctx := 1, opcode := op, bytes := man l, st := st, tset := [bigPage] }

/-- The same with bytes below the page tables. -/
def cmdsM (low : List Host.Cell) (l : Map Cmd) : State := { cmds l with mem := { svc.mem with stack := low ++ tableCells } }

/-- Table 3: F16, 16 elements a row, 100 rows of one shard on Serai 0, in stack memory from Device Address 0x200000 (R186, R194). -/
def tbl : Table :=
  { ctx := 1, format := 1, granules := 1, rowsM1 := 99, shards := [{ stackBase := 0x200000, stackRows := 100, rows := 100 }], held := [bigPage]
    defAddr := 0x300000, defaultRow := List.replicate 32 0 }

/-- A state in which table 3 is registered and has taken effect. -/
def withTbl (s : State) (t : Table := tbl) : State := { s with tally := { s.tally with tables := [(3, t)] } }

/-- The bytes that every unit reads at a place of stack memory once commands have committed. -/
def seen (s : State) (a n : Nat) : List Byte := s.committed { addr := a } n

/-- Ill-formed commands, stackDramTrained to larderWritebackComplete: one operand of each lies outside its range. -/
theorem test_illFormed1 :
    ([.stackDramTrained 8 false, .kindlingEmberTest [168], .kindlingKnownAnswerTests none (2 ^ 64), .cellarEnumeration (List.replicate 17 ([], 0)),
      .kindlingEnd 7 0 0 0, .kindlingEnd 0 17 0 0, .kindlingEnd 0 0 7 0, .kindlingEnd 0 0 0 17, .port0ConventionalReset false 7 0,
      .port0ConventionalReset false 0 17, .port1ConventionalReset false 7 0, .port1ConventionalReset false 0 17, .functionReset 17 false,
      .dieTempSample 2 0, .doorbell 17 0, .doorbell 0 (2 ^ 64), .ringEnable 17 0, .ringEnable 0 (2 ^ 64), .ringIdleRecheck 17, .manifestFetch 17,
      .tagWaitReread 17, .tagStop 17, .admissionResume 17, .delegate 17, .larderFillResume 65536,
      .larderWritebackComplete 65536 0] : List Instr).all (fun i => !i.wf) = true := by decide

/-- Ill-formed commands, migrationHandoverComplete to spopc: one operand of each lies outside its range. -/
theorem test_illFormed2 :
    ([.migrationHandoverComplete 65536, .completionCounterAdvance 65536, .captureConfig 17 0, .captureConfig 0 (2 ^ 64), .hearthMove 160,
      .emberTestComplete 8 false, .emberOverdue 168, .knownAnswerTest 16 0 false, .groupSelfWait { hearth := 160 }, .smov { hearth := 160 },
      .smov { burner := 4 }, .smov { slot := 12 }, .smovi { hearth := 160 }, .smovhi { hearth := 160 }, .sadd { hearth := 160 },
      .saddi { hearth := 160 }, .ssub { hearth := 160 }, .sand { hearth := 160 }, .sor { hearth := 160 }, .sxor { hearth := 160 },
      .sandn { hearth := 160 }, .sshl { hearth := 160 }, .sshr { hearth := 160 }, .ssar { hearth := 160 }, .smul { hearth := 160 },
      .spopc { hearth := 160 }] : List Instr).all (fun i => !i.wf) = true := by decide

/-- Ill-formed commands, sff1 to vabs: one operand of each lies outside its range. -/
theorem test_illFormed3 :
    ([.sff1 { hearth := 160 }, .sexecGet { hearth := 160 }, .sexecSet { hearth := 160 }, .srd { hearth := 160 }, .sflrd { hearth := 160 },
      .scmp { hearth := 160 }, .br { hearth := 160 }, .jmp { hearth := 160 }, .call { hearth := 160 }, .vadd { hearth := 160 },
      .vsub { hearth := 160 }, .vmul { hearth := 160 }, .vmulhiS { hearth := 160 }, .vmulhiU { hearth := 160 }, .vmad { hearth := 160 },
      .vand { hearth := 160 }, .vor { hearth := 160 }, .vxor { hearth := 160 }, .vshl { hearth := 160 }, .vshr { hearth := 160 },
      .vsar { hearth := 160 }, .vminS { hearth := 160 }, .vmaxS { hearth := 160 }, .vminU { hearth := 160 }, .vmaxU { hearth := 160 },
      .vabs { hearth := 160 }] : List Instr).all (fun i => !i.wf) = true := by decide

/-- Ill-formed commands, vclz to vrand: one operand of each lies outside its range. -/
theorem test_illFormed4 :
    ([.vclz { hearth := 160 }, .vpopc { hearth := 160 }, .vcmpS { hearth := 160 }, .vcmpU { hearth := 160 }, .vsel { hearth := 160 },
      .vmov { hearth := 160 }, .vlane { hearth := 160 }, .fadd { hearth := 160 }, .fsub { hearth := 160 }, .fmul { hearth := 160 },
      .ffma { hearth := 160 }, .fdiv { hearth := 160 }, .fsqrt { hearth := 160 }, .fmin { hearth := 160 }, .fmax { hearth := 160 },
      .fabs { hearth := 160 }, .fneg { hearth := 160 }, .frcp { hearth := 160 }, .frsq { hearth := 160 }, .fexp2 { hearth := 160 },
      .flog2 { hearth := 160 }, .fcmp { hearth := 160 }, .cvt { hearth := 160 }, .cvtI2f { hearth := 160 }, .cvtF2i { hearth := 160 },
      .vrand { hearth := 160 }] : List Instr).all (fun i => !i.wf) = true := by decide

/-- Ill-formed commands, vshfl to flue: one operand of each lies outside its range. -/
theorem test_illFormed5 :
    ([.vshfl { hearth := 160 }, .vrdlane { hearth := 160 }, .ld { hearth := 160 }, .st { hearth := 160 }, .pref { hearth := 160 },
      .lds { hearth := 160 }, .sts { hearth := 160 }, .atomAdd { hearth := 160 }, .atomAnd { hearth := 160 }, .atomOr { hearth := 160 },
      .atomXor { hearth := 160 }, .atomMinS { hearth := 160 }, .atomMaxS { hearth := 160 }, .atomMinU { hearth := 160 }, .atomMaxU { hearth := 160 },
      .atomExch { hearth := 160 }, .atomCas { hearth := 160 }, .atomFadd { hearth := 160 }, .fence { hearth := 160 }, .bar { hearth := 160 },
      .barRelease { hearth := 160 }, .gbind { hearth := 160 }, .gbindGrant 160, .gfree { hearth := 160 }, .gwld { hearth := 160 },
      .flue { hearth := 160 }] : List Instr).all (fun i => !i.wf) = true := by decide

/-- Ill-formed commands, flueStreamStart to intakeStallRelease: one operand of each lies outside its range. -/
theorem test_illFormed6 :
    ([.flueStreamStart 160, .tileCheck 160 0 0 none, .tileCheck 0 0 10 none, .grateRerun 160 0 0, .grateRerun 0 0 10,
      .grateStateEccError 160 0 false, .grateStateEccError 0 10 false, .grd { hearth := 160 }, .tadd { hearth := 160 }, .tsub { hearth := 160 },
      .tmul { hearth := 160 }, .tmax { hearth := 160 }, .tmin { hearth := 160 }, .trelu { hearth := 160 }, .texp2 { hearth := 160 },
      .trivetTileStart 160 0, .trivetTileStart 0 4, .trivetParityError 160 0, .trivetParityError 0 4, .nop { hearth := 160 },
      .exit { hearth := 160 }, .brk { hearth := 160 }, .flclr { hearth := 160 }, .referenceIntake 8 0 0, .referenceIntake 0 8 0,
      .intakeStallRelease 8 0] : List Instr).all (fun i => !i.wf) = true := by decide

/-- Ill-formed commands, intakeStallRelease to stackEccError: one operand of each lies outside its range. -/
theorem test_illFormed7 :
    ([.intakeStallRelease 0 8, .windowClose 8, .rowFetchComplete 8 0 none none none false, .rowFetchComplete 0 65536 none none none false,
      .lateRowTimeout 8 0 0, .lateRowTimeout 0 65536 0, .flashReadComplete 16 0 0 false, .flashControllerLost 16, .overlayWriteback 8 0 0,
      .overlayWriteback 0 65536 0, .overlayStageResume 8, .mergeIntakeResume 8, .seraiApply 8 0 0, .seraiApply 0 65536 0, .aclConfig 17 0,
      .aclConfig 0 (2 ^ 64), .pageWalkComplete 160 0 0 false, .pageWalkComplete 0 65536 0 false, .atsTranslationCompletion 17 0 0 false false,
      .atsInvalidateRequest 17 0 0 false, .hostStackRead 2 0 0, .hostStackWrite 2 0 0 [] false, .hostStackWrite 0 17 0 [] false,
      .wcBufferDrain 160 0, .mergingBufferDrain 2, .stackEccError 0 64 0 0 false none] : List Instr).all (fun i => !i.wf) = true := by decide

/-- Ill-formed commands, sieveEccError to routeTrainingComplete: one operand of each lies outside its range. -/
theorem test_illFormed8 :
    ([.sieveEccError 2 0 false, .stackTempSample 8 0, .msixHoldoffExpiry 17 0, .msixHoldoffExpiry 0 32, .mailboxOverrun 17,
      .getInfo none (List.replicate 7 0), .enterBanked none (List.replicate 7 0), .leaveBanked none (List.replicate 7 0),
      .readErrorLog none (List.replicate 7 0), .readSparingLog none (List.replicate 7 0), .chimneyConfig none (List.replicate 7 0),
      .stageBegin none (List.replicate 7 0), .stageData none (List.replicate 7 0), .stageCommit none (List.replicate 7 0) false,
      .coldReset none (List.replicate 7 0) false false, .setRtc none (List.replicate 7 0), .barAccessDropped 17 false, .latchingLoRead 17 0 0 false,
      .latchingLoRead 0 3 0 false, .registerWrite 17 0 0 0 false, .registerWrite 0 3 0 0 false, .registerWrite 0 0 0 (2 ^ 64) false,
      .functionLogConfig 17 0, .functionLogConfig 0 (2 ^ 64), .routeTrainingStart 8,
      .routeTrainingComplete 8 0 0] : List Instr).all (fun i => !i.wf) = true := by decide

/-- Ill-formed commands, routeBringupTimeout to startFrame: one operand of each lies outside its range. -/
theorem test_illFormed9 :
    ([.routeBringupTimeout 8, .fecLock 8 0, .fecLock 0 (2 ^ 64), .helloFrame 8 {} false 0 0 false 0 0,
      .helloFrame 0 { type := 256 } false 0 0 false 0 0, .helloFrame 0 { channel := 256 } false 0 0 false 0 0,
      .helloFrame 0 { kind := 256 } false 0 0 false 0 0, .helloFrame 0 { rsv := 256 } false 0 0 false 0 0,
      .helloFrame 0 {} false (2 ^ 64) 0 false 0 0, .helloFrame 0 {} false 0 (2 ^ 64) false 0 0, .spdmFrame 8 {} false false false false [],
      .spdmFrame 0 { type := 256 } false false false false [], .spdmFrame 0 { channel := 256 } false false false false [],
      .spdmFrame 0 { kind := 256 } false false false false [], .spdmFrame 0 { rsv := 256 } false false false false [], .quarantineHoldEnd 8,
      .dataFrame 8 {} false, .dataFrame 0 { type := 256 } false, .dataFrame 0 { channel := 256 } false, .dataFrame 0 { kind := 256 } false,
      .dataFrame 0 { rsv := 256 } false, .startFrame 8 {} false, .startFrame 0 { type := 256 } false, .startFrame 0 { channel := 256 } false,
      .startFrame 0 { kind := 256 } false, .startFrame 0 { rsv := 256 } false] : List Instr).all (fun i => !i.wf) = true := by decide

/-- Ill-formed commands, doneFrame to controlKeepalive: one operand of each lies outside its range. -/
theorem test_illFormed10 :
    ([.doneFrame 8 {} false, .doneFrame 0 { type := 256 } false, .doneFrame 0 { channel := 256 } false, .doneFrame 0 { kind := 256 } false,
      .doneFrame 0 { rsv := 256 } false, .abortFrame 8 {} false, .abortFrame 0 { type := 256 } false, .abortFrame 0 { channel := 256 } false,
      .abortFrame 0 { kind := 256 } false, .abortFrame 0 { rsv := 256 } false, .creditFrame 8 {} false, .creditFrame 0 { type := 256 } false,
      .creditFrame 0 { channel := 256 } false, .creditFrame 0 { kind := 256 } false, .creditFrame 0 { rsv := 256 } false, .nakFrame 8 {} false,
      .nakFrame 0 { type := 256 } false, .nakFrame 0 { channel := 256 } false, .nakFrame 0 { kind := 256 } false, .nakFrame 0 { rsv := 256 } false,
      .controlTick 8 {} false 0, .controlTick 0 { type := 256 } false 0, .controlTick 0 { channel := 256 } false 0,
      .controlTick 0 { kind := 256 } false 0, .controlTick 0 { rsv := 256 } false 0,
      .controlKeepalive 8 {} false] : List Instr).all (fun i => !i.wf) = true := by decide

/-- Ill-formed commands, controlKeepalive to perstRelease: one operand of each lies outside its range. -/
theorem test_illFormed11 :
    ([.controlKeepalive 0 { type := 256 } false, .controlKeepalive 0 { channel := 256 } false, .controlKeepalive 0 { kind := 256 } false,
      .controlKeepalive 0 { rsv := 256 } false, .controlLane 8 {} false 0, .controlLane 0 { type := 256 } false 0,
      .controlLane 0 { channel := 256 } false 0, .controlLane 0 { kind := 256 } false 0, .controlLane 0 { rsv := 256 } false 0,
      .controlLane 0 {} false 9, .keepaliveSend 8, .routeLaneFail 8 0, .routeLaneFail 0 9, .autoKeyUpdate 8, .lostRecordEmit 2,
      .bxQTailWrite (2 ^ 64), .bxQueueEnable (2 ^ 64), .bxSoftReset (2 ^ 64) false, .bxResume (2 ^ 64), .perstRelease 2 0 0, .perstRelease 0 7 0,
      .perstRelease 0 0 17] : List Instr).all (fun i => !i.wf) = true := by decide
/-! ### Faults, the sinks and the Chimney (FaultsAndChimney) -/

/-- 0x0706 has containment Teardown, 0x0701 has not, 0x0999 is no code (R751); the record joins both queues (R761). -/
theorem test_faultReport :
    (svc.dev ≠ .off ∧ 0x701 ∈ knownFaults ∧ faultContain 0x701 ≠ 4 ∧ (after (.faultReport { code := 0x701 }) svc).flt.hostq.length = 1 ∧
      (after (.faultReport { code := 0x701 }) svc).flt.mgmtq.length = 1) ∧
    (0x706 ∈ knownFaults ∧ faultContain 0x706 = 4 ∧ (after (.faultReport { code := 0x706, ctx := some 3 }) svc).flt.nextSeq = 1) ∧
    (0x999 ∉ knownFaults ∧ after (.faultReport { code := 0x999 }) svc = svc) ∧
    after (.faultReport { code := 0x701 }) State.reset = State.reset := by decide

/-- A full host queue of 256 records counts the loss; a Quenched fault's entry falls due (R761, R842). -/
theorem test_makeRecord :
    ((svc.mFlt fun f => { f with hostq := List.replicate 255 {} }).makeRecord {}).flt.hostq.length = 256 ∧
    ((svc.mFlt fun f => { f with hostq := List.replicate 256 {} }).makeRecord {}).flt.hostLost = 1 ∧
    ((svc.mFlt fun f => { f with hostStopped := true }).makeRecord {}).flt.hostq = [] ∧
    (svc.makeRecord { code := 0x611, contain := 5 }).flt.quenchDue = some 0x611 := by decide +kernel

/-- A record delivered at time 0 and held since; its 1 ms has passed at 1,200,000 cycles (R755). -/
def coalS (now : Nat) (first : Option FaultRec) : State :=
  { svc.mFlt fun f => { f with coal := [{ delivered := { code := 0x601, sev := 2 }, held := 4, first := first }] } with time := now }

/-- A repeat within 1 ms is held; the flush makes one record of what is held once 1 ms has passed (R755). -/
theorem test_coalesce :
    (coalesces { code := 0x601, sev := 2 } = true ∧ coalesces { sev := 1 } = false ∧
      ((coalS 1199999 none).intake { code := 0x601, sev := 2 }).flt.coalesced = 1 ∧
      ((coalS 1200000 none).intake { code := 0x601, sev := 2 }).flt.nextSeq = 1) ∧
    (after .coalesceFlush (coalS 1199999 (some { code := 0x601, sev := 2 }))).flt.hostq = [] ∧
    (after .coalesceFlush (coalS 1200000 (some { code := 0x601, sev := 2 }))).flt.hostq.map (·.rept) = [4] ∧
    (after .coalesceFlush (coalS 1200000 none)).flt.coal = [] := by decide

/-- The oldest record is written, or counted lost where its log is disabled; a stopped sink keeps its queue (R757, R758, R762). -/
theorem test_hostSinkWrite :
    (after .hostSinkWrite (svc.mFlt fun f => { f with hostq := [{ code := 0x701 }] })).flt.hostq = [] ∧
    (after .hostSinkWrite (svc.mFlt fun f => { f with hostq := [{ code := 0x701 }] })).flt.hostLost = 1 ∧
    (after .hostSinkWrite (svc.mFlt fun f => { f with hostq := [{}], hostStopped := true })).flt.hostq.length = 1 ∧
    ((((svc.mXlt fun x => { x with port0 := { x.port0 with up := true } }).mLog 0 fun l => { l with en := true, base := 0x1000 }).logFn 0
      { code := 0x701 } false).depot.merge0.map (·.pa.addr)) = [0x1000] := by decide

/-- A holdoff ends with its message, or ends quietly (R759). -/
theorem test_msixHoldoff :
    (after (.msixHoldoffExpiry 2 1) (svc.mLog 2 fun l => { l with inHoldoff := [false, true, false], msgDue := [false, true, false] })).flt.msix
      = [(2, 1)] ∧
    ((after (.msixHoldoffExpiry 2 1) (svc.mLog 2 fun l => { l with inHoldoff := [false, true, false] })).log 2).inHoldoff.getD 1 true = false ∧
    after (.msixHoldoffExpiry 2 0) svc = svc := by decide

/-- Quenched is entered when its fault has been received (R842). -/
theorem test_quenchEntry :
    (after .quenchEntry (svc.mFlt fun f => { f with quenchDue := some 0x611, hostq := [{}] })).dev = .quenched ∧
    (after .quenchEntry (svc.mFlt fun f => { f with quenchDue := some 0x611, hostq := [{}] })).flt.hostq = [] ∧
    after .quenchEntry svc = svc := by decide

/-- The management queue forwards to the error log and the event receiver, which may ask again four times (R763, R867). -/
theorem test_cper :
    (after .cperForward (svc.mFlt fun f => { f with mgmtq := [{ code := 0x701 }] })).warden.errorLog.map (·.code) = [0x701] ∧
    (after .cperForward ((svc.mFlt fun f => { f with mgmtq := [{ code := 0x701 }] }).mWarden fun w => { w with
      eventReceiver := some 9 })).warden.cperOut.length = 1 ∧
    (after (.pldmEventResend false) (svc.mWarden fun w => { w with unacked := some {}, resends := 3, eventReceiver := some 9 })).warden.resends = 4 ∧
    (after (.pldmEventResend false) (svc.mWarden fun w => { w with unacked := some {}, resends := 4 })).warden.unacked = none ∧
    (after (.pldmEventResend true) (svc.mWarden fun w => { w with unacked := some {} })).warden.unacked = none ∧
    after (.pldmEventResend true) svc = svc := by decide

/-- The Chimney reports what it has lost, sends frames of fifteen records, and exports while the ring's rate allows it (R804, R807, R809). -/
theorem test_chimney :
    (after (.lostRecordEmit 0) (svc.mChm fun c => { c with lostNow := 5, port := { c.port with en := true, kindMask := 0xFFFF, ctxAny := true, fnAny := true } })).chm.portq.length
      = 1 ∧
    (after .traceFrameSend (svc.mChm fun c => { c with portq := List.replicate 16 {} })).chm.portq.length = 1 ∧
    ((svc.mChm fun c => { c with ringq := [{}], ring := { c.ring with rate := 1 }, ringUsed := 968 }).mXlt fun x => { x with
      port0 := { x.port0 with up := true } }).hostOn = true ∧
    (after .traceHostExport ((svc.mChm fun c => { c with ringq := [{}], ring := { c.ring with rate := 1 }, ringUsed := 968 }).mXlt fun x =>
      { x with port0 := { x.port0 with up := true } })).chm.hostCnt = 1 ∧
    (after .traceHostExport ((svc.mChm fun c => { c with ringq := [{}], ring := { c.ring with rate := 1 }, ringUsed := 969 }).mXlt fun x =>
      { x with port0 := { x.port0 with up := true } })).chm.hostDrops = 1 := by decide

/-! ### Start-up and resets (StartUpSequence, ResetsAndTrips) -/

/-- A firmware slot of 64 header bytes (R828), with an empty chain: magic, version 1, FW_VER 5, SECURITY_VER 2, LENGTH 64. -/
def fwCells : List Host.Cell :=
  [(0, 0x4E), (1, 0x52), (2, 0x44), (3, 0x57), (4, 1), (8, 5), (12, 2), (16, 64)]

/-- A Kindling Image of eight sections (R825, R826, R832), as the bytes that are not 0: the header and the directory, DEVICE, TICK, SHARES,
DAMPER and SYSTEM; FUNCTIONS, TABLE_CLASS and ROUTE hold zeros. IMAGE_VER 7, SECURITY_VER 3, 752 signed bytes, periods of 100 µs. -/
def imageCells : List Host.Cell :=
    [(0x800000, 0x4b), (0x800001, 0x4e), (0x800002, 0x44), (0x800003, 0x4c), (0x800004, 0x1), (0x800006, 0x8), (0x800008, 0x7),
      (0x80000c, 0x3), (0x800010, 0xf0), (0x800011, 0x2)] ++
    [(0x800040, 0x1), (0x800044, 0x40), (0x800045, 0x1), (0x800048, 0x30), (0x800050, 0x2), (0x800054, 0x70), (0x800055, 0x1),
      (0x800058, 0x10), (0x800060, 0x3), (0x800064, 0x80), (0x800065, 0x1), (0x800068, 0x30), (0x800070, 0x4), (0x800074, 0xb0),
      (0x800075, 0x1), (0x800078, 0x80), (0x800080, 0x5), (0x800084, 0x30), (0x800085, 0x2), (0x800088, 0x38), (0x800090, 0x6),
      (0x800094, 0x68), (0x800095, 0x2), (0x800098, 0x10), (0x8000a0, 0x7), (0x8000a4, 0x78), (0x8000a5, 0x2), (0x8000a8, 0x70),
      (0x8000b0, 0x8), (0x8000b4, 0xe8), (0x8000b5, 0x2), (0x8000b8, 0x8)] ++
    [(0x800146, 0x2), (0x800148, 0x8)] ++
    [(0x800170, 0xa), (0x800178, 0x14), (0x800179, 0x14), (0x80017a, 0x14), (0x80017b, 0x14), (0x80017c, 0x14), (0x80017d, 0x14),
      (0x80017e, 0x14), (0x80017f, 0x14)] ++
    [(0x8001a8, 0x1), (0x8001a9, 0x1), (0x8001aa, 0x1), (0x8001ab, 0x1), (0x8001ac, 0x1), (0x8001ad, 0x1), (0x8001ae, 0x1),
      (0x8001af, 0x1)] ++
    [(0x800230, 0x1e), (0x800231, 0x1e), (0x800232, 0x4), (0x800234, 0x1e), (0x800235, 0x1e), (0x800236, 0x4), (0x800238, 0x1e),
      (0x800239, 0x1e), (0x80023a, 0x4), (0x80023c, 0x1e), (0x80023d, 0x1e), (0x80023e, 0x4), (0x800240, 0x1e), (0x800241, 0x1e),
      (0x800242, 0x4), (0x800244, 0x1e), (0x800245, 0x1e), (0x800246, 0x4), (0x800248, 0x1e), (0x800249, 0x1e), (0x80024a, 0x4),
      (0x80024c, 0x1e), (0x80024d, 0x1e), (0x80024e, 0x4), (0x800251, 0x40), (0x800260, 0x50), (0x800261, 0x55), (0x800262, 0x5a),
      (0x800263, 0x64)] ++
    [(0x8002e8, 0x64), (0x8002ea, 0x1), (0x8002ec, 0x1), (0x8002ed, 0x1), (0x8002ee, 0x1)]

/-- The powered island with firmware or an image in its flash. -/
def island (q : List Host.Cell) : State :=
  { State.reset with warden := { State.reset.warden with powered := true, running := true, qspi := q } }

/-- Firmware with a good signature runs with its FW_VER; without one the ROM stays in recovery (R822, R829). -/
theorem test_islandPowerUp :
    (chooseSlot fwCells false 2 true false = some false ∧ chooseSlot fwCells false 3 true false = none ∧
      (after (.islandPowerUp true false) (island fwCells)).warden.fwVer = 5 ∧
      (after (.islandPowerUp true false) (island fwCells)).warden.running = true) ∧
    ((after (.islandPowerUp false true) (island fwCells)).warden.recovery = true ∧
      (after (.wardenReset true false) { island fwCells with dev := .service }).flt.mgmtq.map (·.code) = [0x902] ∧
      (after (.wardenWatchdogExpiry true false) { island fwCells with dev := .service }).flt.mgmtq.map (·.code) = [0x902] ∧
      after (.wardenWatchdogExpiry true false) State.reset = State.reset) := by decide +kernel

/-- Kindling begins with the image above (R834, R846). -/
theorem test_czResetRelease :
    (after (.czResetRelease true false) (island imageCells)).kindling = true := by decide +kernel

/-- Without a good signature the image is refused under 0x0901 with reason 1; the N part refuses the BX-3 personality with reason 2 (R834). -/
theorem test_imageRefused :
    (after (.czResetRelease false false) (island imageCells)).warden.refusal = 1 ∧
    (after (.czResetRelease false false) (island imageCells)).flt.quenchCode = 0x901 ∧
    chooseSlot imageCells true 3 true false = some false ∧ imageReason (cellSet imageCells 0x800140 1) 0x800000 true = 2 := by decide +kernel

/-- A part in Kindling with its image read, its first seven stacks trained. -/
def kin : State :=
  { svc with dev := .kindling, pins := { svc.pins with czResetN := true }
             boot := { imageOk := true, trained := [6, 5, 4, 3, 2, 1, 0], base := [{ resource := 1, inst := 5 }, { resource := 7, inst := 15 }] } }

/-- The eighth stack brings the sparing map; a stack that fails enters Quenched under 0x0338 (R833, R836). -/
theorem test_stackDramTrained :
    kin.kindling = true ∧ 7 ∉ kin.boot.trained ∧ ((after (.stackDramTrained 7 true) kin).phys 5).retired = true ∧
    (after (.stackDramTrained 7 true) kin).drovers.inService = 0x7FFF ∧ (after (.stackDramTrained 7 true) kin).boot.mapLoaded = true ∧
    (after (.stackDramTrained 7 false) kin).flt.quenchCode = 0x338 ∧ after (.stackDramTrained 6 false) kin = kin ∧
    ((kin.applySparing { resource := 2, inst := 0, fromLoc := 3 }).phys 0).grRetired = 8 ∧
    (kin.applySparing { resource := 6, fromLoc := 9 }).flt.disabledWays = [9] := by decide +kernel

/-- A part in Kindling past the Ember Test and the known-answer tests by choice. -/
def kinAt (ember kat cellar : Bool) : State :=
  kin.mBoot fun b => { b with mapLoaded := true, emberDone := ember, katDone := kat, cellarDone := cellar }

/-- The Ember Test retires the Hearths that fail, Hearth 167 the last there is (R782). -/
theorem test_kindlingEmberTest :
    (kinAt false false false).boot.emberDone = false ∧
    ((after (.kindlingEmberTest [167, 168]) (kinAt false false false)).phys 167).retired = true ∧
    (after (.kindlingEmberTest [167, 168]) (kinAt false false false)).flt.mgmtq.map (·.code) = [0x420] := by decide +kernel

/-- A self-check that fails enters Quenched; when all pass the settings are loaded (R777, R836). -/
theorem test_kindlingKnownAnswerTests :
    (after (.kindlingKnownAnswerTests (some 16) 0) (kinAt true false false)).dev = .quenched ∧
    (after (.kindlingKnownAnswerTests none 99) (kinAt true false false)).ldg.keySeed = 99 ∧
    (after (.kindlingKnownAnswerTests none 99) (kinAt true false false)).boot.katDone = true := by decide +kernel

/-- Sixteen drives at most are numbered (R221). -/
theorem test_cellarEnumeration :
    (after (.cellarEnumeration (List.replicate 16 ([], 9))) (kinAt true true false)).cellar.present = 0xFFFF ∧
    (after (.cellarEnumeration [([], 9)]) (kinAt true true false)).cellar.present = 1 ∧
    (after (.cellarEnumeration [([], 9)]) ((kinAt true true false).mImg fun i => { i with bx3 := true })).cellar.present = 0 := by decide +kernel

/-- Kindling ends in Service, or in Banked where the image says so (R22, R846). -/
theorem test_kindlingEnd :
    (after (.kindlingEnd 6 16 6 16) (kinAt true true true)).dev = .service ∧
    (after (.kindlingEnd 6 16 6 16) ((kinAt true true true).mImg fun i => { i with startBanked := true, securityVer := 2 })).dev = .banked ∧
    (after (.kindlingEnd 6 16 6 16) ((kinAt true true true).mImg fun i => { i with startBanked := true, securityVer := 2 })).fuses.imageSec = 2 ∧
    after (.kindlingEnd 6 16 6 16) (kinAt true true false) = kinAt true true false := by decide +kernel

/-- The island's clock counts while it is powered (R959); firmware that runs raises the fused level (R830). -/
theorem test_island :
    (after .rtcTick svc).warden.rtc = 1 ∧ (after .rtcTick State.reset).warden.rtc = 0 ∧
    (after .firmwareSecurityFuse (svc.mWarden fun w => { w with fwSec := 4 })).fuses.firmwareSec = 4 := by decide

/-- Resets and trips (R849, R921, R926). -/
theorem test_coldResets :
    ((after .czResetAssert svc).dev = .kindling ∧ (after .czResetAssert State.reset).dev = .off ∧ (after .czResetAssert svc).boot.presented = false) ∧
    ((after .computeRailsPowerDown svc).dev = .off ∧ (after .railTrip svc).dev = .off ∧ (after .railTrip svc).pins.clocksStopped = true ∧
      (after .railTrip svc).flt.mgmtq = [] ∧ (after .railTrip State.reset).pins.railsOk = false) := by decide +kernel

/-- Requests that come over MCTP: code in bytes 0 and 1. -/
def mreq (code a0 a1 : Nat) (data : List Byte) : List Byte := toLe 2 code ++ toLe 2 0 ++ toLe 4 a0 ++ toLe 4 a1 ++ toLe 4 data.length ++ data

/-- COLD_RESET is answered in Banked and in Quenched, and is in the wrong state in Service (R858). -/
theorem test_coldReset :
    (svc.requestOf none (mreq 0x40 0 0 [])).isSome = true ∧
    (∃ b, svc.requestOf none (mreq 0x40 0 0 []) = some b ∧ fld b 0 2 = 0x40 ∧ reqInvalid b false false false = false) ∧
    (after (.coldReset none (mreq 0x40 0 0 []) true false) { svc with dev := .banked }).flt.quenchCode = 0x901 ∧
    (after (.coldReset none (mreq 0x40 0 0 []) true false) { svc with dev := .quenched }).warden.refusal = 1 ∧
    (after (.coldReset none (mreq 0x40 0 0 []) true false) svc).warden.mgmtOut.map (·.status) = [4] ∧
    after (.coldReset (some 0) [] true false) svc = svc := by
  refine ⟨by decide +kernel, ⟨mreq 0x40 0 0 [], by decide +kernel⟩, ?_⟩
  decide +kernel

/-- A port's reset takes the link down and, on port 0, resets the functions; a Hot Reset keeps the lands (R849). -/
theorem test_portResets :
    (after (.port0ConventionalReset false 6 16) svc).pins.perst0 = true ∧ (after (.port0ConventionalReset false 6 16) svc).xlt.port0.up = false ∧
    (after (.port1ConventionalReset true 6 16) (svc.mXlt fun x => { x with port1 := { x.port1 with up := true } })).xlt.port1.up = true ∧
    (after (.port0ConventionalReset false 6 16) State.reset).pins.perst0 = true := by decide +kernel

/-- Functions 0 to 2 exist; a function reset disables the ring of its function, or of all for function 0 (R690). -/
def svc2 : State :=
  ((svc.mImg fun i => { i with totalVfs := 2 }).mFn 1 fun f => { f with en := true }).mFn 0 fun f => { f with en := true }

theorem test_functionReset :
    svc2.presented = true ∧ svc2.fnExists 2 = true ∧ svc2.fnExists 3 = false ∧
    ((after (.functionReset 1 false) svc2).fn 1).en = false ∧ ((after (.functionReset 1 false) svc2).fn 0).en = true ∧
    ((after (.functionReset 0 false) svc2).fn 1).en = false ∧ ((after (.functionReset 0 true) svc2).fn 1).en = false ∧
    ((after (.functionReset 0 true) svc2).fn 0).en = true ∧ after (.functionReset 1 true) svc2 = svc2 := by decide +kernel

/-- A port trains when its PERST# is released (R846, R871). -/
theorem test_perstRelease :
    (after (.perstRelease 0 5 16) svc).xlt.port0.up = true ∧ (after (.perstRelease 1 5 16) svc).xlt.port1.rate = 5 ∧
    (after (.perstRelease 0 5 16) svc).xlt.port1 = svc.xlt.port1 := by decide +kernel

/-! ### Instructions -/

/-- The group under test: Hearth 0, Burner 0, slot 0. -/
def g0 : GroupRef := {}

/-- A word of a class and a function code, with the fields that some rows need: MODE in class 0x8, SIZE in FLUE's field, GFMT in class 0xB, and
further bits. -/
def wd (c f : Nat) (more : Nat := 0) : Nat :=
  c + 16 * f + (if c = 8 then 2 ^ 36 else 0) + (if c = 10 ∧ f = 4 then 2 ^ 24 else 0) + (if c = 11 then 2 ^ 32 else 0) + more

/-- A page of code at DA 0x1000 and a writable one of data at DA 0x2000, both in stack memory at the same addresses. -/
def pages : List PageTr := [{ da := 0x1000, target := 0x1000 }, { da := 0x2000, target := 0x2000, writable := true }]

/-- The bytes of a Launch with 8 bytes of code at 0x1000, REGS 4 and LS_BYTES 64 (R335). -/
def launchBytes : List Byte :=
  List.replicate 32 0 ++ toLe 8 0x1000 ++ List.replicate 17 0 ++ toLe 1 4 ++ List.replicate 2 0 ++ toLe 4 64 ++ List.replicate 4 0 ++ toLe 4 8 ++
    List.replicate 56 0

/-- A group of 64 threads with S1 = 5, S2 = 0x2000, V0 = the thread's number, V1 = 0 and V2 = 3. -/
def grp : Group :=
  { cid := 1, regs := 4, pc := 0x1000, sregs := [(1, 5), (2, 0x2000)]
    vregs := [(0, (List.range 64).map (BitVec.ofNat 32)), (2, List.replicate 64 3)] }

/-- A part in Service in which that group, changed by f, stands at a word, under a Launch of context 1. -/
def isa (w : Nat) (f : Group → Group := id) : State :=
  { svc with
    mem := { svc.mem with stack := cellsSet [] 0x1000 (toLe 8 w) }
    stk := { svc.stk with
      cmds := [(1, { ctx := 1, opcode := 0x0C, bytes := launchBytes, st := .running, tset := pages })], ctxs := [(1, {})] }
    hearths := { svc.hearths with
      logical := [(0, { inService := true, tlb := [(1, { da := 0x2000, target := 0x2000, writable := true })] })], groups := [(0, f grp)], blocks := [{ cid := 1, lsBytes := 64, left := 1 }] } }

/-- Every row of the instruction set meets the hypothesis of its statement: a word of its class and function code issues (R382 to R431). -/
theorem test_everyInstructionIssues :
    isaTable.all (fun e => match (isa (wd e.1 e.2.1)).issue? g0 with
      | some i => wCls i.w == e.1 && wFunc i.w == e.2.1
      | none => false) = true := by decide +kernel

/-- A scalar register after an instruction. -/
def sAfter (c : Instr) (w n : Nat) (f : Group → Group := id) : BitVec 64 :=
  match (after c (isa w f)).group? g0 with
  | some g => g.sreg n
  | none => 0xBAD

/-- A lane of a vector register after an instruction. -/
def vAfter (c : Instr) (w n t : Nat) (f : Group → Group := id) : BitVec 32 :=
  match (after c (isa w f)).group? g0 with
  | some g => g.vreg n t
  | none => 0xBAD

/-- The program counter after an instruction. -/
def pcAfter (c : Instr) (w : Nat) (f : Group → Group := id) : BitVec 64 :=
  match (after c (isa w f)).group? g0 with
  | some g => g.pc
  | none => 0xBAD

/-- The codes of the faults after an instruction. -/
def faultsAfter (c : Instr) (s : State) : List Nat := (after c s).flt.mgmtq.map (·.code)

/-- SD = bits 19:16, SA = bits 23:20, SB = bits 27:24, IMM32 = bits 63:32 (R381). -/
def sw (f d a b : Nat) (imm : Nat := 0) : Nat := wd 0 f (d * 2 ^ 16 + a * 2 ^ 20 + b * 2 ^ 24 + imm * 2 ^ 32)

/-- Scalar rows on S1 = 5, S2 = 0x2000: a move, a negative immediate, a wrap, the logic rows, shifts modulo 64 (R392). -/
theorem test_scalar1 :
    sAfter (.smov g0) (sw 0 3 1 0) 3 = 5 ∧ sAfter (.smovi g0) (sw 1 3 0 0 0xFFFFFFFF) 3 = 0xFFFFFFFFFFFFFFFF ∧
    sAfter (.smovhi g0) (sw 2 3 1 0 7) 3 = 0x700000005 ∧ sAfter (.sadd g0) (sw 3 3 1 2) 3 = 0x2005 ∧
    sAfter (.saddi g0) (sw 4 3 1 0 0xFFFFFFFA) 3 = 0xFFFFFFFFFFFFFFFF ∧ sAfter (.ssub g0) (sw 5 3 1 2) 3 = 0xFFFFFFFFFFFFE005 ∧
    sAfter (.sand g0) (sw 6 3 1 1) 3 = 5 ∧ sAfter (.sor g0) (sw 7 3 1 2) 3 = 0x2005 ∧ sAfter (.sxor g0) (sw 8 3 1 1) 3 = 0 ∧
    sAfter (.sandn g0) (sw 9 3 1 2) 3 = 5 ∧ sAfter (.sadd g0) (sw 3 0 1 2) 0 = 0 := by decide +kernel

theorem test_scalar2 :
    sAfter (.sshl g0) (sw 10 3 1 4) 3 (fun g => { g with sregs := [(1, 5), (4, 65)] }) = 10 ∧
    sAfter (.sshr g0) (sw 11 3 1 4) 3 (fun g => { g with sregs := [(1, 0x8000000000000000), (4, 63)] }) = 1 ∧
    sAfter (.ssar g0) (sw 12 3 1 4) 3 (fun g => { g with sregs := [(1, 0x8000000000000000), (4, 63)] }) = 0xFFFFFFFFFFFFFFFF ∧
    sAfter (.smul g0) (sw 13 3 1 2) 3 = 0xA000 ∧ sAfter (.spopc g0) (sw 14 3 1 0) 3 = 2 ∧ sAfter (.sff1 g0) (sw 15 3 2 0) 3 = 13 ∧
    sAfter (.sff1 g0) (sw 15 3 0 0) 3 = 64 ∧ sAfter (.sexecGet g0) (sw 16 3 0 0) 3 = 0xFFFFFFFFFFFFFFFF ∧
    (((after (.sexecSet g0) (isa (sw 17 0 1 0))).group? g0).map (·.exec)) = some 5 ∧
    sAfter (.sflrd g0) (sw 19 3 0 0) 3 (fun g => { g with flags := 0x41 }) = 0x41 ∧
    sAfter (.scmp g0) (sw 20 3 1 2 5) 3 = 1 ∧ sAfter (.scmp g0) (sw 20 3 2 1 5) 3 = 0 ∧ sAfter (.srd g0) (sw 18 3 0 0 0) 3 = 0 := by decide +kernel

/-- Control: a branch taken two words back, one not taken, a jump, a call that saves the next address (R393). -/
theorem test_control :
    pcAfter (.br g0) (wd 1 0 (0xFFFFFFFE * 2 ^ 32)) = 0xFF0 ∧ pcAfter (.br g0) (wd 1 0 (1 * 2 ^ 16 + 1 * 2 ^ 24 + 5 * 2 ^ 32)) = 0x1008 ∧
    pcAfter (.jmp g0) (wd 1 1 (2 * 2 ^ 16)) = 0x2000 ∧ pcAfter (.call g0) (wd 1 2 (3 * 2 ^ 20 + 2 * 2 ^ 32)) = 0x1010 ∧
    sAfter (.call g0) (wd 1 2 (3 * 2 ^ 20 + 2 * 2 ^ 32)) 3 = 0x1008 := by decide +kernel

/-- VD = bits 23:16, VA = bits 31:24, VB = bits 39:32, VC = bits 47:40 (R381). -/
def vw (c f d a b : Nat) (cc : Nat := 0) : Nat := wd c f (d * 2 ^ 16 + a * 2 ^ 24 + b * 2 ^ 32 + cc * 2 ^ 40)

/-- Integer rows on V0 = t, V1 = 0, V2 = 3 (R394). -/
theorem test_integer1 :
    vAfter (.vadd g0) (vw 2 0 4 0 2) 4 63 = 66 ∧ vAfter (.vsub g0) (vw 2 1 4 0 2) 4 0 = 0xFFFFFFFD ∧ vAfter (.vmul g0) (vw 2 2 4 0 2) 4 5 = 15 ∧
    vAfter (.vmulhiS g0) (wd 4 3 (4 * 2 ^ 16 + 0xFFFFFFFF * 2 ^ 32)) 4 5 = 0xFFFFFFFF ∧
    vAfter (.vmulhiU g0) (wd 4 4 (4 * 2 ^ 16 + 0xFFFFFFFF * 2 ^ 32)) 4 5 = 4 ∧ vAfter (.vmad g0) (vw 2 5 4 0 2 2) 4 5 = 18 ∧
    vAfter (.vand g0) (vw 2 6 4 0 2) 4 6 = 2 ∧ vAfter (.vor g0) (vw 2 7 4 0 2) 4 4 = 7 ∧ vAfter (.vxor g0) (vw 2 8 4 0 2) 4 1 = 2 ∧
    vAfter (.vshl g0) (vw 2 9 4 2 0) 4 33 = 6 ∧ vAfter (.vshr g0) (vw 2 10 4 2 0) 4 1 = 1 ∧
    vAfter (.vsar g0) (vw 2 11 4 2 0) 4 1 (fun g => { g with vregs := mapSet g.vregs 2 (List.replicate 64 0x80000000) }) = 0xC0000000 := by
  decide +kernel

theorem test_integer2 :
    vAfter (.vminS g0) (wd 4 12 (4 * 2 ^ 16 + 0xFFFFFFFF * 2 ^ 32)) 4 5 = 0xFFFFFFFF ∧ vAfter (.vmaxS g0) (vw 2 13 4 0 2) 4 5 = 5 ∧
    vAfter (.vminU g0) (wd 4 14 (4 * 2 ^ 16 + 0xFFFFFFFF * 2 ^ 32)) 4 5 = 5 ∧ vAfter (.vmaxU g0) (vw 2 15 4 0 2) 4 1 = 3 ∧
    vAfter (.vabs g0) (vw 2 16 4 2 0) 4 0 (fun g => { g with vregs := [(2, List.replicate 64 0x80000000)] }) = 0x80000000 ∧
    vAfter (.vclz g0) (vw 2 17 4 2 0) 4 0 = 30 ∧ vAfter (.vclz g0) (vw 2 17 4 1 0) 4 0 = 32 ∧ vAfter (.vpopc g0) (vw 2 18 4 2 0) 4 0 = 2 ∧
    sAfter (.vcmpS g0) (vw 2 19 3 0 2 0) 3 = 8 ∧ sAfter (.vcmpU g0) (vw 2 20 3 0 2 0) 3 (fun g => { g with exec := 0xF }) = 8 ∧
    vAfter (.vsel g0) (vw 2 21 4 0 2 1) 4 1 = 3 ∧ vAfter (.vmov g0) (vw 2 22 4 2 0) 4 9 = 3 ∧ vAfter (.vlane g0) (vw 2 23 4 0 0) 4 63 = 63 := by
  decide +kernel

/-- An inactive thread keeps its lane, or is cleared under Z (R388). -/
theorem test_inactive :
    vAfter (.vlane g0) (vw 2 23 2 0 0) 2 5 (fun g => { g with exec := 1 }) = 3 ∧
    vAfter (.vlane g0) (vw 2 23 2 0 0 + 2 ^ 12) 2 5 (fun g => { g with exec := 1 }) = 0 := by decide +kernel

/-- Cross-lane rows read inactive threads' lanes (R400). -/
theorem test_crossLane :
    vAfter (.vshfl g0) (vw 6 0 4 0 2) 4 0 (fun g => { g with exec := 1 }) = 3 ∧
    sAfter (.vrdlane g0) (vw 6 1 3 0 1) 3 = 5 := by decide +kernel

/-- F32 in every lane: 1.5 and 2.0. -/
def fl (g : Group) : Group :=
  { g with vregs := [(0, List.replicate 64 0x3FC00000), (1, List.replicate 64 0x40000000), (2, List.replicate 64 0x7FC00001), (3, List.replicate 64 7)] }

/-- Float rows on 1.5 and 2.0 (R395, R396): 3.5, -0.5, 3.0, 5.0, 0.75, the square root of 4, minimum and maximum against a NaN, signs. -/
theorem test_float1 :
    vAfter (.fadd g0) (vw 3 0 4 0 1) 4 0 fl = 0x40600000 ∧ vAfter (.fsub g0) (vw 3 1 4 0 1) 4 0 fl = 0xBF000000 ∧
    vAfter (.fmul g0) (vw 3 2 4 0 1) 4 0 fl = 0x40400000 ∧ vAfter (.ffma g0) (vw 3 3 4 0 1 1) 4 0 fl = 0x40A00000 ∧
    vAfter (.fdiv g0) (vw 3 4 4 0 1) 4 0 fl = 0x3F400000 ∧
    vAfter (.fsqrt g0) (vw 3 5 4 0 0) 4 0 (fun g => { g with vregs := [(0, List.replicate 64 0x40800000)] }) = 0x40000000 ∧
    vAfter (.fmin g0) (vw 3 6 4 0 2) 4 0 fl = 0x3FC00000 ∧ vAfter (.fmax g0) (vw 3 7 4 0 1) 4 0 fl = 0x40000000 ∧
    vAfter (.fabs g0) (vw 3 8 4 0 0) 4 0 fl = 0x3FC00000 ∧ vAfter (.fneg g0) (vw 3 9 4 0 0) 4 0 fl = 0xBFC00000 := by decide +kernel

/-- FEXP2 of an integer is exact (R496); FCMP, the conversions, VRAND's effect on one lane only (R397). -/
theorem test_float2 :
    vAfter (.fexp2 g0) (vw 3 12 4 1 0) 4 0 fl = 0x40800000 ∧ sAfter (.fcmp g0) (vw 3 14 3 0 1 0) 3 (fun g => { fl g with exec := 3 }) = 0 ∧
    sAfter (.fcmp g0) (vw 3 14 3 0 1 2) 3 (fun g => { fl g with exec := 3 }) = 3 ∧
    vAfter (.cvt g0) (vw 5 0 4 0 0 + 2 ^ 50) 4 0 fl = 0x3E00 ∧ vAfter (.cvtI2f g0) (vw 5 1 4 3 0) 4 0 fl = 0x40E00000 ∧
    vAfter (.cvtF2i g0) (vw 5 2 4 1 0) 4 0 fl = 2 := by decide +kernel

/-- The approximated rows and VRAND complete (R395, R397); their values are free or keyed. -/
theorem test_float3 :
    pcAfter (.frcp g0) (vw 3 10 4 0 0) fl = 0x1008 ∧ pcAfter (.frsq g0) (vw 3 11 4 0 0) fl = 0x1008 ∧
    pcAfter (.flog2 g0) (vw 3 13 4 0 0) fl = 0x1008 ∧ pcAfter (.vrand g0) (vw 5 3 4 0 0) fl = 0x1008 := by decide +kernel

/-- Half a unit in the last place: to even, by the draw, toward zero (R138, R140). -/
theorem test_rounding :
    3 % 2 ^ 1 ≠ 0 ∧ roundSh { mode := 0 } 3 1 = (2, true) ∧ roundSh { mode := 0 } 5 1 = (2, true) ∧
    roundSh { mode := 1, draw := 32767 } 3 1 = (2, true) ∧ roundSh { mode := 1, draw := 32768 } 3 1 = (1, true) ∧
    roundSh { mode := 2 } 3 1 = (1, true) ∧ roundSh { mode := 0 } 4 1 = (2, false) := by decide

/-- A NaN's sum is the canonical one, in F32 and F16 (R133). -/
theorem test_nan :
    (fadd 0 { mode := 0 } 0x7F800001 0).1 = 0x7FC00000 ∧ (fmul 1 { mode := 0 } 0x7C00 0).1 = 0x7E00 ∧
    ((ffmt 0).dec (fadd 0 { mode := 0 } 0x7F800001 0).1).isNan = true ∧ ((ffmt 1).dec (fmul 1 { mode := 0 } 0x7C00 0).1).isNan = true ∧
    (fdiv 0 { mode := 0 } 0 0).1 = 0x7FC00000 ∧ (fsqrt 0 { mode := 0 } 0xBF800000).1 = 0x7FC00000 := by decide +kernel

/-! ### Memory, local store, atomic, sync and system instructions -/

/-- MODE = 1 with the base in S2 and one lane register, SIZE in bits 39:37 (R401, R402). -/
def mw (c f vd va size : Nat) (more : Nat := 0) : Nat :=
  c + 16 * f + vd * 2 ^ 16 + va * 2 ^ 24 + 2 * 2 ^ 32 + 2 ^ 36 + size * 2 ^ 37 + more

/-- Two threads, V0 = 0x80, 0x81 and 0xFFFFFFFC in thread 2, V2 = 3. -/
def two (g : Group) : Group :=
  { g with exec := 3, vregs := [(0, [0x80, 0x81, 0xFFFFFFFC]), (2, List.replicate 64 3)] }

/-- The accesses of the next instruction of a state. -/
def accsOf (s : State) (write atomic : Bool) (n : Nat) : Option (Nat × Nat) :=
  (s.issue? g0).map fun i => let a := i.accs write atomic n (wOffs i.w); (a.ok.length, a.bad.length)

/-- LD, ST and PREF with no faulting access (R401 to R406); the address of thread 2 lies below the base. -/
theorem test_loadsAndStores :
    accsOf (isa (mw 7 0 4 0 0) two) false false 1 = some (2, 0) ∧ accsOf (isa (mw 7 1 2 0 0) two) true false 1 = some (2, 0) ∧
    vAfter (.ld g0) (mw 7 0 4 0 0) 4 1 two = 0 ∧ pcAfter (.ld g0) (mw 7 0 4 0 0) two = 0x1008 ∧
    cellGet (after (.st g0) (isa (mw 7 1 2 0 0) two)).mem.stack 0x3000 = 0 ∧ pcAfter (.st g0) (mw 7 1 2 0 0) two = 0x1008 ∧ pcAfter (.pref g0) (mw 7 2 0 0 0) two = 0x1008 ∧
    ((isa (mw 7 0 4 0 0) two).issue? g0).map (fun i => i.g.addr i.w 2 0) = some 0x1FFC ∧
    ((isa (mw 7 1 2 0 0) two).issue? g0).map (fun i =>
      let a := i.accs true false 1 0
      a.ok.all fun x => (a.st.guardedBy x.pa 1).isNone && !a.st.hstoreWaits 0 i.g.cid i.c x.attr 0 x.pa 1) = some true := by decide +kernel

/-- A misaligned thread faults the whole LD with 0x040A (R403, R405). -/
theorem test_loadFaults :
    faultsAfter (.ld g0) (isa (mw 7 0 4 0 2) two) = [0x40A] ∧ accsOf (isa (mw 7 0 4 0 2) two) false false 4 = some (1, 1) := by decide +kernel

/-- One thread whose local store address is a: S2 = a, V1 = 0, V2 = 0xAB. -/
def lsAt (a : Nat) (g : Group) : Group := { g with exec := 1, sregs := [(2, BitVec.ofNat 64 a)], vregs := [(2, [0xAB])] }

/-- LDS and STS at the last byte of LS_BYTES = 64, one byte beyond it, and misaligned (R409, R410). -/
theorem test_localStore :
    ((isa (mw 8 1 2 1 0) (lsAt 63)).issue? g0).map (fun i => (i.g.active, i.lsFault 1 0)) = some ([0], none) ∧
    (after (.sts g0) (isa (mw 8 1 2 1 0) (lsAt 63))).hearths.blocks.map (·.ls) = [[(63, 0xAB)]] ∧
    ((isa (mw 8 0 4 1 0) (lsAt 64)).issue? g0).map (fun i => (i.g.active.filter fun t => (i.lsFault 1 t).isSome)) = some [0] ∧
    faultsAfter (.lds g0) (isa (mw 8 0 4 1 0) (lsAt 64)) = [0x405] ∧ faultsAfter (.sts g0) (isa (mw 8 1 2 1 1) (lsAt 63)) = [0x405] ∧
    faultsAfter (.sts g0) (isa (mw 8 1 2 1 1) (lsAt 61)) = [0x40A] ∧ vAfter (.lds g0) (mw 8 0 4 1 0) 4 0 (lsAt 63) = 0 := by decide +kernel

/-- An atomic on the word at 0x2000, both threads, operand VB = V2 in bits 47:40, VC = V2 in bits 55:48, RET in bit 38 (R412). -/
def aw (f : Nat) (more : Nat := 0) : Nat := 9 + 16 * f + 1 * 2 ^ 24 + 2 * 2 ^ 32 + 2 ^ 36 + 2 * 2 ^ 40 + more

/-- The word at 0x2000 as memory or the Depot's lines hold it for the command. -/
def wordAfter (c : Instr) (f : Nat) (more : Nat := 0) (v0 : Nat := 0) : Nat :=
  let s := after c { isa (aw f more) two with mem := { svc.mem with stack := cellsSet (cellsSet [] 0x1000 (toLe 8 (aw f more))) 0x2000 (toLe 4 v0) } }
  match s.cmd? 1 with
  | some k => leNat (s.view (unitOf 1 k) { addr := 0x2000 } 4)
  | none => 0xBAD

/-- Two threads' operations in thread order on 7 and 3 (R412, R415). -/
theorem test_atomics :
    accsOf (isa (aw 0) two) true true 4 = some (2, 0) ∧
    wordAfter (.atomAdd g0) 0 0 7 = 13 ∧ wordAfter (.atomAnd g0) 1 0 7 = 3 ∧ wordAfter (.atomOr g0) 2 0 4 = 7 ∧
    wordAfter (.atomXor g0) 3 0 7 = 7 ∧ wordAfter (.atomMinS g0) 4 0 0xFFFFFFFF = 0xFFFFFFFF ∧ wordAfter (.atomMaxS g0) 5 0 0xFFFFFFFF = 3 ∧
    wordAfter (.atomMinU g0) 6 0 0xFFFFFFFF = 3 ∧ wordAfter (.atomMaxU g0) 7 0 0xFFFFFFFF = 0xFFFFFFFF ∧ wordAfter (.atomExch g0) 8 0 7 = 3 ∧
    wordAfter (.atomCas g0) 9 (2 * 2 ^ 48) 3 = 3 ∧ wordAfter (.atomFadd g0) 10 0 0x3F800000 = 0x3F800000 ∧
    vAfter (.atomAdd g0) (aw 0 (2 ^ 38 + 4 * 2 ^ 16)) 4 1 two = 3 := by decide +kernel

/-- The same group in a debug context, or under a Debug Step. -/
def debugS (w : Nat) (f : Group → Group := id) : State := (isa w f).mStk fun k => { k with ctxs := [(1, { debug := true })] }

/-- FENCE, BAR, NOP, FLCLR, BRK and EXIT (R417 to R431, R354). -/
theorem test_sync :
    pcAfter (.fence g0) (wd 12 0 (2 * 2 ^ 16)) = 0x1008 ∧ faultsAfter (.fence g0) (isa (wd 12 0 (3 * 2 ^ 16))) = [0x403] ∧
    faultsAfter (.fence g0) { isa (wd 12 0 (3 * 2 ^ 16)) with dev := .banked } = [] ∧
    ((after (.bar g0) (isa (wd 12 1))).group? g0).map (fun g => (g.atBar, g.st, g.pc)) = some (true, .stalled, 0x1000) ∧
    pcAfter (.nop g0) (wd 13 0) = 0x1008 := by decide +kernel

theorem test_system :
    ((after (.flclr g0) (isa (wd 13 3 (0x0F * 2 ^ 32)) fun g => { g with flags := 0x7F })).group? g0).map (·.flags) = some 0x70 ∧
    faultsAfter (.brk g0) (isa (wd 13 2)) = [0x406] ∧ faultsAfter (.brk g0) (debugS (wd 13 2)) = [0x40C] ∧
    ((after (.brk g0) (debugS (wd 13 2))).group? g0).map (·.st) = some .halted ∧
    faultsAfter (.brk g0) (debugS (wd 13 2) fun g => { g with st := .halted, stepping := true }) = [] ∧
    ((isa (wd 13 1)).issue? g0).map (fun i => i.s.lastOn g0 i.g && i.s.flushConflict 0 i.g.cid) = some false ∧
    (after (.exit g0) (isa (wd 13 1))).hearths.groups = [] := by decide +kernel

/-- Both groups of a block at their BAR go on; one that is not there keeps the other waiting (R420). -/
def barS (both : Bool) : State :=
  (isa 0 fun g => { g with atBar := true, st := .stalled }).mHearths fun u => { u with
    groups := u.groups ++ [(1, { grp with group := 1, atBar := both })] }

theorem test_barRelease :
    (barS true).live = true ∧ ((after (.barRelease g0) (barS true)).group? g0).map (fun g => (g.atBar, g.pc, g.st)) = some (false, 0x1008, .ready) ∧
    ((after (.barRelease g0) (barS false)).group? g0).map (·.atBar) = some true := by decide +kernel

/-- A word outside its code range, an undefined one, a register outside the allocation, a group-wide one with an inactive thread (R380 to
R390). -/
theorem test_noIssue :
    faultsAfter (.nop g0) (isa (wd 13 0) fun g => { g with pc := 0x1008 }) = [0x403] ∧ faultsAfter (.nop g0) (isa (wd 13 9)) = [0x403] ∧
    faultsAfter (.vadd g0) (isa (vw 2 0 32 0 2)) = [0x404] ∧ faultsAfter (.gbind g0) (isa (wd 10 0) two) = [0x401] ∧
    after (.nop g0) (isa (wd 13 3)) = isa (wd 13 3) := by decide +kernel

/-! ### Tiles, Grates and the Trivet -/

/-- A tile's place in the registers: row 5, column 17 is in thread 11 (R437). -/
theorem test_tileLayout :
    ({ vregs := [(1, List.replicate 11 0 ++ [0xAABBCCDD])] } : Group).tileAt 0 0 5 17 = 0xAABBCCDD ∧
    ({ vregs := [(0, List.replicate 11 0 ++ [0xAABBCCDD])] } : Group).tileAt 0 1 5 17 = 0xAABB ∧
    ({ vregs := [(0, List.replicate 11 0 ++ [0xAABBCCDD])] } : Group).tileAt 0 2 5 18 = 0xBB ∧
    ({ vregs := [(0, List.replicate 11 0 ++ [0xAABBCCDD])] } : Group).tileAt 0 4 5 17 = 0xD := by decide +kernel

/-- The group holds Grate 0, whose Grate is bound to it. -/
def held (w : Nat) (f : Group → Group := id) : State :=
  (isa w fun g => f { g with bound := 1 }).mHearth 0 fun u => { u with grates := [{ bound := some g0 }, {}, {}, {}] }

/-- Format G: GMASK in bits 27:24, FMT in bits 34:32 (R421). -/
def gw (f mask : Nat) (more : Nat := 0) : Nat := 10 + 16 * f + mask * 2 ^ 24 + more

/-- GBIND waits and is granted; without a Grate bound, or with one bound, the row faults with 0x040B (R422, R424). -/
theorem test_gbind :
    ((after (.gbind g0) (isa (gw 0 3))).group? g0).map (fun g => (g.binding, g.st, g.pc)) = some (some 3, .stalled, 0x1000) ∧
    ((after (.gbind g0) (isa (gw 0 3))).hearth 0).binds = [g0] ∧ faultsAfter (.gbind g0) (held (gw 0 1)) = [0x40B] ∧
    ((after (.gbindGrant 0) (after (.gbind g0) (isa (gw 0 3)))).group? g0).map (fun g => (g.bound, g.pc, g.st)) = some (3, 0x1008, .ready) := by
  decide +kernel

/-- An E8 tile's two scale entries are the 16 bytes at S2 = 0x2000 (R437). -/
theorem test_scaledTile :
    ((held (gw 2 1 (2 * 2 ^ 32 + 2 * 2 ^ 28))).issue? g0).map (fun i =>
      let a := ({ st := i.s } : Accs).add i false false 16 0 (i.g.sget (wGsa i.w)); (a.bad.length, a.ok.length)) = some (0, 1) ∧
    pcAfter (.gwld g0) (gw 2 1 (2 * 2 ^ 32 + 2 * 2 ^ 28)) (fun g => { g with bound := 1, vregs := [] }) = 0x1008 := by decide +kernel

/-- A bind behind one of whose Grates is bound waits, and so does a later bind that shares a Grate with it (R422). -/
def binds : State :=
  ((isa 0 fun g => { g with binding := some 3 }).mHearths fun u => { u with groups := u.groups ++ [(1, { grp with binding := some 2 })] }).mHearth 0
    fun u => { u with binds := [g0, { slot := 1 }], grates := [{ bound := some { slot := 2 } }, {}, {}, {}] }

theorem test_gbindGrant :
    binds.live = true ∧ ((binds.hearth 0).binds.map gkey).Nodup ∧ ((binds.hearth 0).grates.getD 0 {}).bound ≠ none ∧
    ((after (.gbindGrant 0) binds).hearth 0).binds = [g0, { slot := 1 }] := by decide +kernel

/-- GFREE, GWLD, FLUE and GRD on a Grate that the group holds, with an F16 tile from the registers (R421 to R428). -/
theorem test_grates :
    ((after (.gfree g0) (held (gw 1 1))).group? g0).map (·.bound) = some 0 ∧ faultsAfter (.gfree g0) (held (gw 1 2)) = [0x40B] ∧
    (((after (.gwld g0) (held (gw 2 1 (2 ^ 32)))).hearth 0).grates.getD 0 {}).loadReg.length = 1024 ∧
    ((after (.flue g0) (held (gw 3 1 (2 ^ 32)))).hearth 0).flue.map (·.mask) = [1] ∧
    faultsAfter (.grd g0) (isa (gw 4 1)) = [0x40B] := by decide +kernel

/-- GRD of an accumulator that holds 1,024 ones writes them (R427, R437). -/
def accS (w : Nat) : State :=
  (held w fun g => { g with vregs := [] }).mHearth 0 fun u => { u with
    grates := [{ bound := some g0, acc := List.replicate 1024 0x3F800000 }, {}, {}, {}] }

theorem test_grd :
    ((accS (gw 4 1)).issue? g0).map (fun i => (gratesOf i.gmask, i.g.bound &&& i.gmask)) = some ([0], 1) ∧
    ((after (.grd g0) (accS (gw 4 1))).group? g0).map (fun g => g.vreg 15 63) = some 0x3F800000 ∧
    ((after (.grd g0) (accS (gw 4 1 (2 ^ 36)))).group? g0).map (fun g => g.vreg 7 63) = some 0x3C003C00 := by decide +kernel

/-- A FLUE waiting on Grate 0 with its weights loaded; streaming by choice. -/
def flueS (o : FlueOp) (strikes : List (Nat × Nat) := []) : State :=
  ((held 0).mHearth 0 fun u => { u with
    grates := [{ bound := some g0, loadReg := List.replicate 1024 0 }, {}, {}, {}], flue := [o] }).mHearths fun u => { u with
      phys := [(0, { strikes := strikes })] }

/-- The FLUE itself, one run begun on its own Grate. -/
def flueOp (streaming : Bool) (failed : List Nat) : FlueOp :=
  { grp := g0, cid := 1, mask := 1, act := List.replicate 1024 0, wts := if streaming then [List.replicate 1024 0] else []
    streaming := streaming, runs := if streaming then [1, 0, 0, 0] else [0, 0, 0, 0], tried := if streaming then [0] else [], failedG := failed }

/-- The oldest FLUE starts; a passing tile is applied; a failing one strikes and waits for its partner, which takes it (R443, R449, R459). -/
theorem test_flue :
    (flueS (flueOp false [])).servedBy 0 0 ≠ none ∧
    ((after (.flueStreamStart 0) (flueS (flueOp false []))).hearth 0).flue.map (fun o => (o.streaming, (o.wts.getD 0 []).length)) = [(true, 1024)] ∧
    (flueS (flueOp true [])).partner 0 0 (flueOp true []) = some 1 ∧ (flueOp true []).runner 0 = 0 ∧
    ((after (.grateRerun 0 0 0) (flueS (flueOp true [0]))).hearth 0).flue.map (fun o => (o.failedG, o.runs)) = [([], [2, 0, 0, 0])] ∧
    ((after (.grateStateEccError 0 0 true) (flueS (flueOp true []))).hearth 0).eccCorrected = 1 ∧
    faultsAfter (.grateStateEccError 0 0 false) (flueS (flueOp true [])) = [0x504] := by decide +kernel

/-- A FLUE whose first activation is 1.0 and whose first row of weights is 2.0, with nothing beside them. -/
def rowOp : FlueOp :=
  { flueOp true [] with f32 := true, act := [0x3F800000], wts := [List.replicate 32 0x40000000] }

/-- Row 0 of the tile is checked, and when it fails 0x0501 is raised; the passing tile counts and sets the accumulator (R443, R458, R461). -/
theorem test_tileCheck :
    rowUnchecked (rowOp.operands 0).1 (rowOp.operands 0).2 (tileProduct (rowOp.operands 0).1 (rowOp.operands 0).2) 0 = false ∧
    faultsAfter (.tileCheck 0 0 0 (some 0)) (flueS rowOp) = [0x501] ∧
    ((((after (.tileCheck 0 0 0 none) (flueS rowOp)).hearth 0).grates.getD 0 {}).acc.getD 0 0) = 0x40000000 := by decide +kernel

/-- No Grate of the Hearth is up: the FLUE's tile cannot be verified (R463). -/
theorem test_unverifiable :
    ((flueS (flueOp false [])).mHearths fun u => { u with phys := [(0, { grRetired := 15 })] }).servedBy 0 0 = none ∧
    faultsAfter (.flueStreamStart 0) ((flueS (flueOp false [])).mHearths fun u => { u with phys := [(0, { grRetired := 15 })] }) = [0x503] := by
  decide +kernel

/-- Format T: VBASE in bits 23:16, GFMT 1, VAUX in bits 47:40 (R429); a zero tile's sum joins the Trivet's order and is written. -/
theorem test_trivet :
    ((isa (wd 11 0 (8 * 2 ^ 40))).issue? g0).map (fun i => (wVd i.w, wVc i.w, wBcast i.w)) = some (0, 8, 0) ∧
    ((after (.trelu g0) (isa (wd 11 5) fun g => { g with vregs := [] })).hearth 0).trv.map (fun o => (o.vbase, o.res.length)) = [(0, 1024)] ∧
    pcAfter (.tadd g0) (wd 11 0 (8 * 2 ^ 40)) (fun g => { g with vregs := [] }) = 0x1008 := by decide +kernel

/-- A tile of the Trivet on Burner 0. -/
def trvS : State :=
  (isa 0).mHearth 0 fun u => { u with trv := [{ grp := g0, cid := 1, vbase := 4, res := List.replicate 1024 0x3C00, flags := 1 }] }

theorem test_trivetTile :
    (trvS.trvHead 0 0).isSome = true ∧ ((after (.trivetTileStart 0 0) trvS).group? g0).map (fun g => (g.vreg 4 0, g.flags)) = some (0x3C003C00, 1) ∧
    ((after (.trivetTileStart 0 0) trvS).hearth 0).trvTiles = 1 ∧ faultsAfter (.trivetParityError 0 0) trvS = [0xA10] ∧
    after (.trivetTileStart 0 1) trvS = trvS := by decide +kernel

/-! ### The dispatcher, teardown, moves and debug (HearthDispatch, TeardownEndsItsContextOnly, MovesAndSelfTests, DebugCommands) -/

/-- A Launch of two blocks of one group each, REGS 32, CODE_LEN 256 at 0x10000, any quarter, one Hearth at most (R335). -/
def lnOps (codeLen : Nat := 256) : List (Nat × Nat × Nat) :=
  [(32, 8, 0x10000), (52, 4, 1), (56, 1, 1), (57, 1, 32), (64, 1, 0xFF), (66, 2, 1), (68, 4, codeLen)]

/-- That Launch as command 7, and Hearths 0 and 1 in service. -/
def lnS (st : CmdState) (codeLen : Nat := 256) (l : LaunchSt := {}) : State :=
  (cmds [(7, cmd 0x0C (lnOps codeLen) st)]).mHearths fun u => { u with
    logical := [(0, { inService := true }), (1, { inService := true })], launches := if st = .running then [(7, l)] else [] }

/-- The checks of R336 at CODE_LEN 256 and one byte less. -/
theorem test_launch :
    (lnS .admitted).ready? 7 0x0C .admitted = some (cmd 0x0C (lnOps)) ∧ (lnS .admitted).orderOk 7 (cmd 0x0C (lnOps)) = true ∧
    (lnS .admitted).launchOk (cmd 0x0C (lnOps)) = true ∧ (lnS .admitted).launchOk (cmd 0x0C (lnOps 255)) = false ∧
    ((after (.launch 7) (lnS .admitted)).cmd? 7).map (·.st) = some .running ∧ faultsAfter (.launch 7) (lnS .admitted 255) = [0x407] := by
  decide +kernel

/-- The first block goes to Hearth 0, Burner 0; its group starts at the code address (R337 to R341). -/
theorem test_blockPlace :
    (lnS .running).mayPlace (cmd 0x0C (lnOps)) = true ∧ (lnS .running).choose 7 (cmd 0x0C (lnOps) .running) = some (0, [0]) ∧
    ((after (.blockPlace 7) (lnS .running)).group? g0).map (fun g => (g.pc, g.regs, g.cid)) = some (0x10000, 32, 7) ∧
    (mapGet (after (.blockPlace 7) (lnS .running)).hearths.launches 7).map (·.next) = some 1 ∧
    after (.blockPlace 7) (lnS .running 256 { next := 2 }) = lnS .running 256 { next := 2 } := by decide +kernel

/-- With RESIDENT_ALL both blocks are placed at once (R339). -/
def residentS : State :=
  (lnS .running).mCmd 7 fun c => { c with bytes := man (lnOps ++ [(59, 1, 1)]) }

theorem test_residentAll :
    lnResident (cmd 0x0C (lnOps ++ [(59, 1, 1)])) = true ∧
    (mapGet (after (.blockPlace 7) residentS).hearths.launches 7).map (·.next) = some 2 := by decide +kernel

/-- Both Hearths hold groups of another split: the one with fewer groups, the lower on a tie, is marked (R346). -/
def otherSplit : State :=
  (lnS .running).mHearths fun u => { u with
    logical := [(0, { inService := true, split := 1 }), (1, { inService := true, split := 1 })]
    groups := [(0, { cid := 9 }), (1, { cid := 9 }), (48, { cid := 9 })] }

theorem test_splitDrain :
    ((List.range 2).all fun h => (otherSplit.hearth h).inService && otherSplit.drainOf h == 0 &&
      !otherSplit.eligible (cmd 0x0C (lnOps) .running) h) = true ∧
    ((after (.splitDrainMark 7) otherSplit).hearth 1).drain = 1 ∧ ((after (.splitDrainMark 7) otherSplit).hearth 0).drain = 0 ∧
    after (.splitDrainMark 7) (lnS .running) = lnS .running := by decide +kernel

/-- A class-0 Launch that finds no room, with a pre-emptible BULK command over its share on the only Hearth (R672, R673). -/
def preS : State :=
  ((((lnS .running).mImg fun i => { i with shares := List.replicate 8 64 }).mHearths fun u => { u with
      logical := [(0, { inService := true, drain := 1 })], groups := [(0, { cid := 8 })] }).mStk fun k => { k with
    cmds := k.cmds ++ [(8, { cmd 0x0C (lnOps) .running with cls := 5, preemptible := true })] })

theorem test_preemption :
    preS.groupUse 0 < preS.groupShare 0 ∧ preS.groupShare 5 < preS.groupUse 5 ∧ (preS.tryPlace 7).isNone = true ∧
    ((after (.preemption 7) preS).cmd? 8).map (fun c => (c.st, c.kills)) = some (.admitted, 1) ∧
    (after (.preemption 7) preS).hearths.groups = [] := by decide +kernel

/-- The watch of a group in Service is 1 ms: 1,200,000 cycles (R366). -/
theorem test_selfWait :
    (isa 0).watchCycles { ctx := 1 } = 1200000 ∧ faultsAfter (.groupSelfWait g0) { isa 0 with time := 1200000 } = [0x402] ∧
    faultsAfter (.groupSelfWait g0) { isa 0 with time := 1199999 } = [] ∧
    faultsAfter (.groupSelfWait g0) { (isa 0 fun g => { g with st := .halted }) with time := 1200000 } = [] := by decide +kernel

/-- A teardown of context 1 leaves command 3 of context 2; of a context already DEAD it makes the record only (R361, R687). -/
def tearS (dead : Bool) : State :=
  (isa 0).mStk fun k => { k with ctxs := [(1, { dead := dead }), (2, {})], cmds := k.cmds ++ [(3, { ctx := 2, st := .running })] }

theorem test_teardown :
    ((tearS false).ctx? 1).map (·.dead) = some false ∧ ((tearS true).ctx? 1).map (·.dead) = some true ∧
    (((tearS false).tear 1 { code := 0x403 }).cmd? 1).isNone = true ∧ (((tearS false).tear 1 { code := 0x403 }).cmd? 3).isSome = true ∧
    ((tearS false).tear 1 { code := 0x403 }).hearths.groups = [] ∧ ((tearS true).tear 1 { code := 0x403 }).flt.mgmtq.map (·.contain) = [4] ∧
    ((tearS true).tear 1 { code := 0x403 }).stk = (tearS true).stk := by decide +kernel

/-- A drained Hearth of quarter 0 on physical Hearth 0, its quarter as given. -/
def moveS (u : Quarter) : State :=
  svc.mHearths fun x => { x with logical := [(0, { inService := true, drain := 2 })], quarters := [(0, u)] }

/-- The vacated Hearth is tested as the spare, or in place without one; a Grate move takes the spare without a test (R331, R465, R781, R783). -/
theorem test_hearthMove :
    ((after (.hearthMove 0) (moveS { rotating := some 0, spare := some 20 })).hearth 0).phys = 20 ∧
    ((after (.hearthMove 0) (moveS { rotating := some 0, spare := some 20 })).quarter 0).testing = some 0 ∧
    ((after (.hearthMove 0) (moveS { rotating := some 0 })).quarter 0).inPlace = true ∧
    ((after (.hearthMove 0) (moveS { grateMove := some 0, spare := some 20 })).quarter 0).spare = none ∧
    ((after (.hearthMove 0) (moveS { grateMove := some 0 })).hearth 0).drain = 0 ∧
    after (.hearthMove 0) (moveS {}) = moveS {} := by decide +kernel

/-- A test passes or retires its Hearth; 4 s without a pass is overdue (R782 to R784). -/
theorem test_ember :
    ((after (.emberTestComplete 0 false) (moveS { testing := some 5, rotating := some 0 })).quarter 0).lastTested = some 5 ∧
    ((after (.emberTestComplete 0 true) (moveS { testing := some 5, rotating := some 0, fails := 255 })).quarter 0).fails = 255 ∧
    faultsAfter (.emberTestComplete 0 true) (moveS { testing := some 5, rotating := some 0 }) = [0x420] ∧
    faultsAfter (.emberTestComplete 0 true) (moveS { testing := some 5, rotating := some 0, inPlace := true }) = [0x420, 0x421] ∧
    faultsAfter (.emberOverdue 0) { moveS {} with time := 4800000000 } = [0x422] ∧
    faultsAfter (.emberOverdue 0) { moveS {} with time := 4799999999 } = [] := by decide +kernel

/-- A known-answer test of each kind of unit (R777). -/
theorem test_knownAnswer :
    (List.range 6).map (fun u => faultsAfter (.knownAnswerTest u 0 false) svc) = [[0x110], [0x210], [0xB10], [0xA03], [0x338], [0x640]] ∧
    (after (.knownAnswerTest 6 15 false) svc).drovers.inService = 0x7FFF ∧ (after (.knownAnswerTest 0 0 true) svc).flt.knownPass = [(0, 0)] := by
  decide +kernel

/-- A debug command 9 whose target is the Launch of the group above (CMD_ID 0); SCOPE 2 names every group of it (R369). -/
def dbgS (op scope : Nat) (gst : GrpState) (st : CmdState := .admitted) (debug : Bool := true) : State :=
  let s := isa 0 fun g => { g with st := gst }
  { s with
    mem := { s.mem with stack := tableCells }
    stk := { s.stk with
      ctxs := [(1, { ptRoot := 0x100000, debug := debug })]
      cmds := s.stk.cmds ++ [(9, { cmd op [(41, 1, scope), (48, 8, 0x8000)] st with tset := [] })] } }

/-- The commands begin, are refused without the debug attribute, and act (R368 to R376). -/
theorem test_debug :
    (match (dbgS 0x28 2 .ready).debugBegin 9 0x28 with | .ok c => c.tset == [bigPage] | .error _ => false) = true ∧
    faultsAfter (.debugHalt 9) (dbgS 0x28 2 .ready .admitted false) = [0x408] ∧
    ((after (.debugHalt 9) (dbgS 0x28 2 .ready)).group? g0).map (·.st) = some .halted ∧
    ((after (.debugResume 9) (dbgS 0x2A 2 .halted)).group? g0).map (·.st) = some .ready ∧
    ((after (.debugStep 9) (dbgS 0x29 0 .halted)).group? g0).map (·.stepping) = some true ∧
    ((after (.debugStep 9) (dbgS 0x29 0 .ready)).cmd? 9).isNone = true ∧
    ((after (.debugStep 9) ((dbgS 0x29 0 .halted .finished).mCmd 9 fun c => { c with tset := [bigPage] })).cmd? 9).isNone = true := by
  decide +kernel

/-- The results lie at OUT_ADDR: one acted; the record of a group that runs, and of one that is not there (R371, R376). -/
theorem test_debugResults :
    seen (after (.debugHalt 9) (dbgS 0x28 2 .ready)) 0x8000 8 = toLe 4 1 ++ toLe 4 0 ∧
    seen (after (.debugReadGroup 9) (dbgS 0x2B 0 .ready)) 0x8000 8 = toLe 8 0x1000 ∧
    ((dbgS 0x2B 0 .ready).mHearths fun u => { u with groups := [] }).debugGroups (cmd 0x2B [(41, 1, 0), (48, 8, 0x8000)]) = [] ∧
    (after (.debugReadGroup 9) ((dbgS 0x2B 0 .ready).mHearths fun u => { u with groups := [] })).hearths.freeCount = 7 := by decide +kernel

/-! ### The Ledger (LedgerRows) -/

/-- Waybill 4 of Recipe 2, whose one command template is command 5's. -/
def wbS (st : WbState) (c : CmdState) (w : Waybill := {}) (t : Template := {}) : State :=
  let s := cmds [(5, { cmd 0x0C [] c with waybill := some 4 })]
  { s with
    stk := { s.stk with recipes := [(2, { ctx := 1, effective := true, cmds := [t] })] }
    ldg := { s.ldg with wb := [(4, { w with st := st, ctx := 1, recipe := 2 })] } }

/-- The commit of a finished waybill; nothing while its command runs; once more, wide, when its clip count is over 2^-16 of its elements
(R112, R166). -/
theorem test_waybillCommit :
    ((after (.waybillCommit 4) (wbS .running .finished)).wb? 4).map (·.st) = some .committed ∧
    (after (.waybillCommit 4) (wbS .running .finished { killCount := 1 })).stk.answers.map (·.outcome) = [1] ∧
    after (.waybillCommit 4) (wbS .running .running) = wbS .running .running ∧ after (.waybillCommit 4) (wbS .filed .finished) = wbS .filed .finished ∧
    wideDue { clipThresh := 1 } { elems := 65536, clipped := 1 } = false ∧ wideDue { clipThresh := 1 } { elems := 65536, clipped := 2 } = true ∧
    ((after (.waybillCommit 4) ((wbS .running .finished {} { clipThresh := 1 }).mCmd 5 fun c => { c with elems := 1, clipped := 1 })).cmd? 5).map
      (fun c => (c.st, c.wide)) = some (.admitted, true) := by decide +kernel

/-- END_CAUSE of a step: the report's END, MAX_TOKENS reached, one token less with and without an abandon (R512). -/
theorem test_endCause :
    endCauseOf { stream := { tokensDone := 5, maxTokens := 8 } } 3 false = 2 ∧ endCauseOf { stream := { tokensDone := 5, maxTokens := 8 } } 2 false = 0 ∧
    endCauseOf { stream := { tokensDone := 5, maxTokens := 8 }, abandonReq := true } 2 false = 3 ∧ endCauseOf {} 0 true = 1 := by decide

/-- A committed stream step whose successor is due, its state extent translated or not. -/
def stepS (kv : BitVec 64) : State :=
  (wbS .committed .finished { successorDue := true, produced := 3, deadlineUs := 1000, stream := { isStream := true, tokensDone := 5, maxTokens := 99, kvAddr := kv, kvBytes := 4096 } }).mTck fun t => { t with period10us := 10 }

/-- The next step is filed with its counts, or the stream ends with cause 5 (R511, R513); waybill numbers end at 1,048,575 (R90). -/
theorem test_streamSuccessor :
    ((after (.streamSuccessorFile 4 1048575) (stepS 0x10000)).wb? 1048575).map (fun w => (w.st, w.stream.stepNum, w.stream.tokensDone)) = some (.filed, 1, 8) ∧
    ((after (.streamSuccessorFile 4 9) (stepS 0x40000000)).wb? 4).map (fun w => (w.endCause, w.successorDue)) = some (5, false) ∧
    after (.streamSuccessorFile 4 9) (wbS .running .running) = wbS .running .running := by decide +kernel

/-- A DRAINING entry is freed and its reuse count steps; a lost extension answers 8 under 0x0205 (R113, R205). -/
theorem test_drainAndPoison :
    ((after (.waybillDrainComplete 4) (wbS .draining .finished)).wb? 4).isNone = true ∧
    mapGetD (after (.waybillDrainComplete 4) (wbS .draining .finished)).ldg.reuse 4 0 = 1 ∧
    after (.waybillDrainComplete 4) (wbS .running .running) = wbS .running .running ∧
    (after (.extensionReadPoison 4) (wbS .filed .withdrawn)).stk.answers.map (·.outcome) = [8] ∧
    faultsAfter (.extensionReadPoison 4) (wbS .filed .withdrawn) = [0x205] := by decide +kernel

/-- Both copies good, one bad, both bad; a lockstep mismatch (R118 to R121); the capture's fields (R129). -/
theorem test_ledgerErrors :
    (after (.ledgerEntryEccError 1048575 1 1) svc).ldg.eccCorrected = 2 ∧ faultsAfter (.ledgerEntryEccError 0 2 1) svc = [0x202] ∧
    faultsAfter (.ledgerEntryEccError 0 2 2) svc = [0x203] ∧ faultsAfter .ledgerLockstepMismatch svc = [0x201] ∧
    (after (.captureConfig 0 7) svc).ldg.capAll = true ∧ (after (.captureConfig 0 6) (after (.captureConfig 0 7) svc)).ldg.capEn = false ∧
    after (.captureConfig 1 7) svc = svc := by decide +kernel

/-! ### The Sieve and Serai Lookup (SelectRanksItsCandidates to ArrivalsAndLateRows) -/

/-- Of -0, 2.0, a NaN, +0 and a masked 3.0 the best two are 2.0 and the -0 of lower index (R487, R488). -/
theorem test_ranked :
    ranked false 2 [0x80000000, 0x40000000, 0x7FC00000, 0, 0x40400000] [false, false, false, false, true] = [(1, 0x40000000), (0, 0x80000000)] ∧
    ranked true 9 [0x40000000, 0x3F800000] [] = [(1, 0x3F800000), (0, 0x40000000)] ∧
    (sieveRecords (cmd 0x0D [(44, 2, 2)]) 0 [(1, 0x40000000)]) = (toLe 4 1 ++ toLe 4 0x40000000 ++ toLe 4 0xFFFFFFFF ++ toLe 4 0x7FC00000, 1) := by
  decide +kernel

/-- Command 5, Select or Sample of one request of two F32 scores at 0x10000, records to 0x12000 (R484). -/
def svOps (k : Nat := 1) : List (Nat × Nat × Nat) := [(32, 8, 0x10000), (40, 4, 1), (44, 2, k), (48, 4, 1), (56, 8, 0x12000), (88, 4, 0x3F800000)]
def svS (op : Nat) (k : Nat := 1) : State :=
  cmdsM [(0x10002, 0x80), (0x10003, 0x3F), (0x10007, 0x40)] [(5, cmd op (if op = 0x0D then svOps k |>.dropLast else svOps k))]

theorem test_select :
    sieveOk (cmd 0x0D (svOps.dropLast)) = true ∧ sieveOk (cmd 0x0D ((svOps 0).dropLast)) = false ∧ (svS 0x0D).orderOk 5 (cmd 0x0D []) = true ∧
    ((after (.select 5) (svS 0x0D)).cmd? 5).map (·.st) = some .finished ∧ (after (.select 5) (svS 0x0D)).sieves.die0.requests = 1 ∧
    faultsAfter (.select 5) (svS 0x0D 0) = [0xA01] ∧
    faultsAfter (.select 5) ((svS 0x0D).mMem fun m => { m with stackPoison := [0x10000] }) = [0x632] := by decide +kernel

theorem test_sample :
    sieveOk (cmd 0x0E svOps) = true ∧ ((after (.sample 5) (svS 0x0E)).cmd? 5).map (·.st) = some .finished ∧
    sampleWeight 0 0x3F800000 0 = 0x3F800000 ∧ faultsAfter (.sieveEccError 0 5 false) (svS 0x0E) = [0xA02] ∧
    faultsAfter (.sieveEccError 1 9 false) (svS 0x0E) = [0xA02] ∧ (after (.sieveEccError 1 9 true) (svS 0x0E)).sieves.die1.ecc = 1 := by decide +kernel

/-- Command 5, a Lookup of one bag of the rows 5 and 99 of table 3; rows end at 99, so 100 takes the default row (R232, R233). -/
def lkOps (stride : Nat := 64) : List (Nat × Nat × Nat) :=
  [(32, 8, 0x10000), (40, 4, 1), (44, 4, 2), (48, 8, 0x11000), (64, 8, 0x12000), (72, 4, stride)]
def lkS (table : Byte) (stride : Nat := 64) : State :=
  withTbl (cmdsM [(0x10000, table), (0x10004, 2), (0x11000, 5), (0x11008, 99)] [(5, cmd 0x08 (lkOps stride))])

theorem test_lookup :
    ((lkS 3).lookupFault 5 (cmd 0x08 (lkOps)) false).isNone = true ∧ ((lkS 3).usable (cmd 0x08 (lkOps)) 3).isSome = true ∧
    ((after (.lookup 5) (lkS 3)).serai 0).inq.map (·.key.row) = [some 5, some 99] ∧
    ((after (.lookup 5) (lkS 3)).cmd? 5).map (fun c => (c.st, c.bagsLeft)) = some (.running, 1) ∧
    faultsAfter (.lookup 5) (lkS 3 63) = [0xB01] ∧ faultsAfter (.lookup 5) (lkS 4) = [0xB02] ∧
    faultsAfter (.lookup 5) ((lkS 3).mMem fun m => { m with stackPoison := [0x11000] }) = [0x632] ∧
    ((lkS 3).resolve tbl 99) = .row 99 none ∧ ((lkS 3).resolve tbl 100) = .dflt 1 := by decide +kernel

/-- The Lookup running with its references on their way to Serai 0. -/
def lkRun : State := after (.lookup 5) (lkS 3)

/-- The Intake takes what comes and stalls without room; the window closes and its keys are fetched (R239 to R244). -/
theorem test_intake :
    ((after (.referenceIntake 0 0 2) lkRun).serai 0).inq = [] ∧ (((after (.referenceIntake 0 0 2) lkRun).serai 0).window.map (·.entries.length)) = some 2 ∧
    ((after (.referenceIntake 0 0 1) (lkRun.mSerai 0 fun u => { u with
      accs := [{ cid := 9, sums := [] }], inq := u.inq })).serai 0).inq.length = 1 ∧
    ((after (.windowClose 0) (after (.referenceIntake 0 0 2) lkRun)).serai 0).fetchq.map (·.key.row) = [some 5, some 99] ∧
    (lkRun.serai 0).window.isNone = true ∧ after (.windowClose 0) lkRun = lkRun ∧
    ((after (.intakeStallRelease 0 0) (lkRun.mSerai 0 fun u => { u with stalled := [true, true] })).serai 0).stalled = [false, true] := by decide +kernel

/-- A second reference of the same bag and row joins the last record; one of another bag follows it (R243). -/
theorem test_combiner :
    ({ recs := [{ cid := 5, bag := 0, mult := 1 }] } : Entry).take { cid := 5, bag := 0, weight := 2 } =
      ({ recs := [{ cid := 5, bag := 0, mult := 2, wsum := 2 }] }, true) ∧
    (({ recs := [{ cid := 5, bag := 0, mult := 1 }] } : Entry).take { cid := 5, bag := 1 }).2 = false := by decide

/-- A bag holds n accumulator elements of Serai 0, and merges m. -/
def busyS (n m : Nat) : State :=
  withTbl (svc.mSerai 0 fun u => { u with
    inq := [{ key := { table := 3, row := some 5 }, cid := 5 }], accs := [{ cid := 9, sums := List.replicate n 0 }]
    merges := [{ acc := List.replicate m 0 }], mergeWait := [{ key := { table := 3, row := some 5 }, cid := 5, update := true }] })

/-- A bag of table 3 takes 16 elements: with n = 1,048,561 in use its reference finds too few free, with one less enough (R240); so does an Update's
row at m = 16,777,201 (R295). -/
theorem test_intakeFull (n m : Nat) :
    (busyS n m).intakeFull 0 { key := { table := 3, row := some 5 }, cid := 5 } tbl = decide (1048576 < n + 16) ∧
    (busyS n m).mergeFull 0 { key := { table := 3, row := some 5 }, cid := 5, update := true } tbl = decide (16777216 < m + 16) := by
  constructor
  · simp [busyS, withTbl, svc, State.reset, State.intakeFull, State.acc?, State.serai, State.mSerai, State.mSerais, Serai.accUsed, mapMod, mapGetD, mapGet,
      mapSet, tbl, Table.elems, rowElems]
  · simp [busyS, withTbl, svc, State.reset, State.mergeFull, State.serai, State.mSerai, State.mSerais, Serai.mergeUsed, mapMod, mapGetD, mapGet, mapSet,
      tbl, Table.elems, rowElems]

/-- Rows arrive, are delivered, and complete the bag's output; a poisoned row, a row that fails its CRC twice (R254, R255, R779). -/
def lkFetch : State := after (.windowClose 0) (after (.referenceIntake 0 0 2) lkRun)

theorem test_rowFetch :
    ((after (.rowFetchComplete 0 3 (some 99) none none true) (after (.rowFetchComplete 0 3 (some 5) none none true) lkFetch)).cmd? 5).map (·.st)
      = some .finished ∧
    lkFetch.rowBusy 3 tbl 5 = false ∧
    faultsAfter (.rowFetchComplete 0 3 (some 5) none none true) (lkFetch.mMem fun m => { m with stackPoison := [0x200080] }) = [0x334] ∧
    ((after (.rowFetchComplete 0 3 (some 5) (some 1) none true) lkFetch).serai 0).fetchq.map (·.tries) = [1, 0] ∧
    faultsAfter (.rowFetchComplete 0 3 (some 5) (some 1) none true) (after (.rowFetchComplete 0 3 (some 5) (some 1) none true) lkFetch) = [0x336] := by
  decide +kernel

/-- A partial sum of Serai 1 in transit to Serai 0 (R257). -/
theorem test_partialSum :
    (after (.partialSumReceive 0 none true) ((lkRun.mSerai 0 fun u => { u with accs := [{ cid := 5, bag := 0, left := 1, partials := 1 }] }).mSerais fun u =>
      { u with partials := [{ cid := 5, bag := 0, sums := [7] }] })).serais.partials = [] ∧
    (((after (.partialSumReceive 0 none true) ((lkRun.mSerai 0 fun u => { u with accs := [{ cid := 5, bag := 0, left := 1, partials := 1 }] }).mSerais fun u =>
      { u with partials := [{ cid := 5, bag := 0, sums := [7] }] })).serai 0).accs.map (·.recv)) = [[7]] := by decide +kernel

/-- A late row of the running waybill of Recipe 2 takes its default under policy 1 (R227). -/
def lateS : State :=
  let s := withTbl (wbS .running .running)
  (s.mStk fun k => { k with recipes := [(2, { ctx := 1, tables := [{ table := 3, policy := 1 }], cmds := [{}] })] }).mSerai 0 fun u => { u with
    fetchq := [{ key := { table := 3, row := some 5 }, recs := [{ cid := 5, bag := 0, mult := 1 }], late := true }] }

theorem test_lateRow :
    (lateS.latePolicy 5 3).1 = 1 ∧ ((after (.lateRowTimeout 0 3 5) lateS).serai 0).fetchq.map (·.recs) = [[]] ∧
    (after (.lateRowTimeout 0 3 5) lateS).cellar.lateDefaults = 1 := by decide +kernel

/-- A block read that fails, one whose data were written poisoned, a good one; a controller that is lost (R224 to R226). -/
def flashS (poisoned : Bool) : State :=
  (withTbl svc).mCellar fun c => { c with
    present := 1, reads := [{ ctrl := 0, nsid := 1, lba := 8 }], blocks := [{ nsid := 1, lba := 8, poisoned := poisoned }] }

theorem test_flash :
    faultsAfter (.flashReadComplete 0 1 8 true) (flashS false) = [0xC01] ∧ faultsAfter (.flashReadComplete 0 1 8 false) (flashS true) = [0xC02] ∧
    (after (.flashReadComplete 0 1 8 false) (flashS false)).cellar.reads = [] ∧ faultsAfter (.flashControllerLost 0) (flashS false) = [0xC03] ∧
    ((after (.flashControllerLost 0) (flashS false)).table? 3).map (fun t => t.shards.map (·.flashDue)) = some [true] ∧
    faultsAfter (.flashControllerLost 1) (flashS false) = [] := by decide +kernel

/-- SRI_ACL_CFG at the ends of LOG2_SIZE 16 to 30, and beyond them (R327). -/
theorem test_aclConfig :
    ((after (.aclConfig 0 (0x100 + 16 * 4 + 1)) svc).serai 0).acl.log2Size = 16 ∧ ((after (.aclConfig 0 (0x100 + 30 * 4 + 1)) svc).serai 0).acl.log2Size = 30 ∧
    after (.aclConfig 0 (0x100 + 31 * 4 + 1)) svc = svc ∧
    ((after (.aclConfig 0 (0x100 + 20 * 4)) (after (.aclConfig 0 (0x100 + 16 * 4 + 1)) svc)).serai 0).acl.log2Size = 16 := by decide +kernel

/-! ### Memory, translation and the host link (ProvisionalCopiesAreIsolated to CopyAndRehome) -/

/-- Unit 5's store is its own until its commit, and goes at a discard (R537 to R540). -/
def provS : State := svc.store (unitOf 5 {}) (some 1) 0 { addr := 0x2003 } [0xAB] false false

theorem test_provisional :
    svc.dev = .service ∧ provS.viewByte (unitOf 5 {}) { addr := 0x2003 } = 0xAB ∧ provS.viewByte (unitOf 6 {}) { addr := 0x2003 } = 0 ∧
    provS.mem = svc.mem ∧ provS.viewByte (unitOf 5 {}) { addr := 0x2002 } = 0 ∧ provS.viewByte (unitOf 5 {}) { addr := 0x2004 } = 0 ∧
    (provS.commitUnit (unitOf 5 {}) none).viewByte (unitOf 6 {}) { addr := 0x2003 } = 0xAB ∧ (provS.discardUnit (unitOf 5 {})).depot.lines = [] ∧
    provS.depot.lines.all (fun l => match l.prov? (unitOf 5 {}) with | some v => !v.through && !v.written | none => false) = true := by decide +kernel

/-- A kill and a teardown discard what their units hold (R540). -/
theorem test_killDiscards :
    ((({ cmds [(5, cmd 0x0F [])] with depot := provS.depot }).killCmd 5 1).depot.lines = []) ∧
    (((wbS .running .running).mDepot fun d => { d with lines := [{ data := [1], provs := [{ waybill := some 4 }] }] }).teardown 1).depot.lines.map
      (fun l => l.provs) = [[]] := by decide +kernel

/-- A line of the Depot at 0x2000. -/
def lineS (l : DLine) : State := svc.mDepot fun d => { d with lines := [{ l with pa := { addr := 0x2000 } }] }

/-- A dirty committed copy is written back; a provisional one is written, or spilled once an atomic has changed it (R526, R541). -/
theorem test_depotEviction :
    cellGet (after (.depotEviction .stack 0x2000 none) (lineS { data := List.replicate 128 7, dirty := true })).mem.stack 0x207F = 7 ∧
    (after (.depotEviction .stack 0x2000 none) (lineS { data := List.replicate 128 7 })).depot.lines = [] ∧
    (after (.depotEviction .stack 0x2000 none) (lineS { data := List.replicate 128 7, provs := [{ written := true }] })).depot.lines.map (·.spilled)
      = [true] ∧
    (after (.depotEviction .stack 0x2000 (some 0)) (lineS { provs := [{ cid := 5, data := List.replicate 128 7 }] })).depot.lines.map
      (fun l => l.provs.map (·.written)) = [[true]] ∧
    (after (.depotEviction .stack 0x2000 (some 0)) (lineS { provs := [{ cid := 5, data := List.replicate 128 7, atomic := true }] })).depot.lines.map
      (fun l => l.provs.map (·.spilled)) = [[true]] := by decide +kernel

/-- A line whose atomic copy, of command 5 in context 1, stands beside n spilled ones. -/
def fullS (n : Nat) : State :=
  (cmds [(5, cmd 0x0C [])]).mDepot fun d => { d with lines := [{
    pa := { addr := 0x2000 }, provs := { cid := 5, atomic := true } :: List.replicate n { cid := 9, spilled := true } }] }

/-- Slice 1's spill area holds n lines then; it is full with n = 1,048,576 (R541, R542). -/
theorem test_spillFull (n : Nat) :
    (fullS n).spillUsed (sliceOf { addr := 0x2000 }) = n ∧ (fullS n).unitOwner { cid := 5, atomic := true } = some 1 := by
  constructor
  · simp [fullS, State.spillUsed, State.mDepot, sliceOf, b2n]
  · rfl

/-- Buffers drain and waits end (R527, R531, R543); a snoop takes the line (R536). -/
def bufS : State :=
  ((isa 0 fun g => { g with st := .stalled }).mHearth 0 fun u => { u with wc := [{ cid := 1, grp := g0, pa := { addr := 0x2000 }, bytes := [(3, 0xAB)] }] }).mDepot
    fun d => { d with merge0 := [{ pa := { space := .host, addr := 0x80 }, bytes := [(1, 0xCD)] }], waits := [g0]
                      lines := [{ pa := { space := .host, addr := 0x100 }, data := List.replicate 128 9 }] }

theorem test_buffers :
    cellGet (after (.wcBufferDrain 0 0) bufS).mem.stack 0x2003 = 0xAB ∧ ((after (.wcBufferDrain 0 0) bufS).hearth 0).wc = [] ∧
    cellGet (after (.mergingBufferDrain 0) bufS).mem.host 0x81 = 0xCD ∧ (after (.mergingBufferDrain 0) bufS).depot.merge0 = [] ∧
    ((after .conflictWaitRelease bufS).group? g0).map (·.st) = some .ready ∧ (after .conflictWaitRelease bufS).depot.waits = [] ∧
    (after (.hostSnoop 0x17F true) bufS).depot.lines = [] ∧ (after (.hostSnoop 0x17F false) bufS).bus.hdmData = List.replicate 128 9 := by decide +kernel

/-- Parity errors of an L1 line, a Depot line, a provisional copy and a local store (R557). -/
def parS (dirty : Bool) : State :=
  ((isa 0).mHearth 0 fun u => { u with l1 := [{ cid := 1, data := List.replicate 128 0, dirty := List.replicate 128 dirty }] }).mDepot fun d =>
    { d with lines := [{ data := List.replicate 128 0, dirty := dirty, owner := some 1, provs := [{ cid := 1 }] }] }

theorem test_parity :
    (after (.cacheParityError 0 0 0 0 none) (parS false)).flt.mgmtq.map (·.code) = [0x601] ∧
    (after (.cacheParityError 0 0 0 0 none) (parS true)).flt.mgmtq.map (·.code) = [0x602] ∧
    (after (.cacheParityError 1 0 0 0 none) (parS false)).flt.mgmtq.map (·.code) = [0x601] ∧
    (after (.cacheParityError 1 0 0 0 none) (parS true)).flt.mgmtq.map (·.code) = [0x602] ∧
    (after (.cacheParityError 1 0 0 0 (some 0)) (parS false)).flt.mgmtq.map (·.code) = [0x602] ∧
    (after (.cacheParityError 2 0 0 0 none) (parS false)).flt.mgmtq.map (·.code) = [0x602] := by decide +kernel

/-- ECC of a stack row, a consumed poison, and the thresholds 80, 85, 90, 100 degrees, in 1/256 degrees (R574, R577, R767, R769). -/
def hotS : State := svc.mImg fun i => { i with loaded := true, thr := [80, 85, 90, 100] }

theorem test_eccAndTemp :
    inStackWindow 0x163FFFFFFF 1 = true ∧ inStackWindow 0x1640000000 1 = false ∧
    faultsAfter (.stackEccError 0x163FFFFFFF 0 0 0 true none) svc = [0x630] ∧
    (after (.stackEccError 0x163FFFFFFF 0 0 0 false none) svc).mem.stackPoison = [0x163FFFFFC0] ∧
    faultsAfter (.poisonConsumed 5 0x10000) ((cmds [(5, cmd 0x0C [] .running)]).mMem fun m => { m with stackPoison := [0x10000] }) = [0x632] ∧
    (after (.stackTempSample 7 20479) hotS).throttle 7 = 0 ∧ (after (.stackTempSample 7 20480) hotS).throttle 7 = 1 ∧
    (after (.stackTempSample 7 23040) hotS).throttle 7 = 3 ∧ faultsAfter (.stackTempSample 7 25600) hotS = [0x621, 0x622] := by decide +kernel

/-- Walks end in the caches; Device Addresses end at 2^52 (R582, R589, R595). -/
def walkS : State := (cmds []).mHearths fun u => { u with logical := [(0, { inService := true })] }

theorem test_pageWalk :
    ((after (.pageWalkComplete 0 1 0x10000 false) walkS).hearth 0).tlb = [(1, bigPage)] ∧
    (after (.pageWalkComplete 0 1 0x10000 false) walkS).xlt.stc0 = [(1, bigPage)] ∧
    (after (.pageWalkComplete 0 1 0x40000000 false) walkS).xlt.stc0 = [] ∧ (after (.pageWalkComplete 0 1 0x40000000 false) walkS).xlt.walks = 1 ∧
    after (.pageWalkComplete 0 1 (2 ^ 52) false) walkS = walkS ∧
    ((after (.pageWalkComplete 0 1 0x10000 false) (walkS.mXlt fun x => { x with stc0 := [(1, bigPage)] })).xlt.walks = 0) ∧
    (after (.pageWalkComplete 0 1 0x10000 true) (walkS.mXlt fun x => { x with stc0 := [(1, bigPage)] })).xlt.parity = 1 := by decide +kernel

/-- An invalidation drops what it meets and stays pending; one of no context, or unaligned, is refused with 0x0717 (R597, R599). -/
def invS (ctx off : Nat) : State :=
  ((cmds [(5, cmd 0x25 [(32, 2, ctx), (40, 8, off), (48, 8, 0x1000)])]).mXlt fun x => { x with stc0 := [(1, bigPage)] }).mHearths fun u => { u with
    logical := [(0, { inService := true, tlb := [(1, bigPage)] })] }

theorem test_invalidate :
    (after (.invalidateTranslations 5) (invS 1 0x1000)).xlt.stc0 = [] ∧ ((after (.invalidateTranslations 5) (invS 1 0x1000)).hearth 0).tlb = [] ∧
    (after (.invalidateTranslations 5) (invS 1 0x1000)).xlt.pendingInv.map (·.cid) = [some 5] ∧
    faultsAfter (.invalidateTranslations 5) (invS 2 0x1000) = [0x717] ∧ faultsAfter (.invalidateTranslations 5) (invS 1 0x1001) = [0x717] ∧
    ((after (.invalidationComplete 0) (after (.invalidateTranslations 5) (invS 1 0x1000))).cmd? 5).isNone = true := by decide +kernel

/-- ATS completions and requests; the thirty-third of a function waits (R587, R599). -/
theorem test_ats :
    (after (.atsTranslationCompletion 2 0x1234 0x5678 true false) svc).xlt.ats.map (fun e => (e.addr, e.target)) = [(0x1000, 0x5000)] ∧
    (after (.atsInvalidateRequest 2 0x1000 0x1000 true) (after (.atsTranslationCompletion 2 0x1234 0x5678 true false) svc)).xlt.ats = [] ∧
    (after (.atsInvalidateRequest 2 0 0 true) (svc.mXlt fun x => { x with
      pendingInv := List.replicate 31 { ats := true, fn := 2 } })).xlt.pendingInv.length = 32 ∧
    (after (.atsInvalidateRequest 2 0 0 true) (svc.mXlt fun x => { x with
      pendingInv := List.replicate 32 { ats := true, fn := 2 } })).xlt.pendingInv.length = 32 ∧
    (after (.invalidationComplete 0) (svc.mXlt fun x => { x with pendingInv := [{ ats := true, fn := 2, first := 0x1000 }] })).xlt.invalDone = [(2, 0x1000)] := by
  decide +kernel

/-- Both links up, PERST# released, and table 3's page guarded. -/
def hdmS : State :=
  ((withTbl svc { tbl with held := [{ da := 0x200000, size := 0x200000, target := 0x200000 }] }).mXlt fun x => { x with
    port0 := { x.port0 with up := true }, port1 := { x.port1 with up := true } }).mPins fun p => { p with perst0 := false, perst1 := false }

/-- Host accesses through port 0's HDM range, to its last byte; one byte further stops; a table's page is not written (R270, R611). -/
theorem test_hostAccess :
    hdmS.hdmOn 0 = true ∧ cellGet (after (.hostStackWrite 0 0 382252089343 [0xAB] false) hdmS).mem.stack 0x763FFFFFFF = 0xAB ∧
    (after (.hostStackRead 0 382252089343 1) (after (.hostStackWrite 0 0 382252089343 [0xAB] false) hdmS)).bus.hdmData = [0xAB] ∧
    (match exec (.hostStackRead 0 382252089343 2) hdmS with | .fault f => f == .hdmOutOfRange | _ => false) = true ∧
    (hdmS.guardedBy { addr := 0x200000 } 1).isSome = true ∧ faultsAfter (.hostStackWrite 0 0 0x200000 [0xAB] false) hdmS = [0x341] ∧
    cellGet (after (.hostStackWrite 0 0 0x200000 [0xAB] false) hdmS).mem.stack 0x200000 = 0 := by decide +kernel

/-- Lost links and a flit (R40, R620, R621). -/
theorem test_links :
    faultsAfter .port1LinkLost hdmS = [0x721] ∧ faultsAfter .port0LinkLost hdmS = [0x722] ∧ (after .port0LinkLost hdmS).flt.quenchDue = some 0x722 ∧
    faultsAfter (.causewayFlitFail 16) svc = [0x611] ∧ faultsAfter (.causewayFlitFail 15) svc = [] := by decide +kernel

/-- COPY of 8 bytes from 0x10000 to 0x10080; of none is malformed; onto a table's page is refused (R561, R270). -/
def cpS (len : Nat) (dst : Nat := 0x10080) : State := cmdsM [(0x10001, 0xAB)] [(5, cmd 0x0F [(32, 8, 0x10000), (40, 8, dst), (48, 8, len)])]

theorem test_copy :
    (cpS 8).copyOk (cmd 0x0F [(32, 8, 0x10000), (40, 8, 0x10080), (48, 8, 8)]) = true ∧ (cpS 8).drovers.inService ≠ 0 ∧
    cellGet (after (.copy 5 []) (cpS 8)).mem.stack 0x10081 = 0xAB ∧ ((after (.copy 5 []) (cpS 8)).cmd? 5).map (·.st) = some .finished ∧
    faultsAfter (.copy 5 []) (cpS 0) = [0x607] ∧ faultsAfter (.copy 5 []) (cpS (2 ^ 36)) = [0x607] ∧
    faultsAfter (.copy 5 []) (withTbl (cpS 8 0x200000) { tbl with held := [{ da := 0x200000, size := 0x200000, target := 0x200000 }] }) = [0x341] := by
  decide +kernel

/-- REHOME_SPAN of the remote extent at 0x400000 to 0x600000; to an unaligned span it is refused (R604). -/
def rhS (new : Nat) : State :=
  withTbl (cmds [(5, cmd 0x14 [(32, 2, 3), (40, 8, 0x400000), (48, 8, new)])])
    { tbl with rowsM1 := 199, shards := [{ stackBase := 0x200000, remoteBase := 0x400000, stackRows := 100, remoteRows := 100, rows := 200 }] }

theorem test_rehome :
    ((after (.rehomeSpan 5) (rhS 0x800000)).rt 3).moves.map (fun m => (m.oldSpan, m.newSpan)) = [(0x400000, 0x800000)] ∧
    faultsAfter (.rehomeSpan 5) (rhS 0x900000) = [0x730] ∧
    faultsAfter (.rehomeSpan 5) { rhS 0x800000 with tally := {} } = [0x730] := by decide +kernel

/-! ### The Warden's requests and register accesses (WardenRequests, RegisterAccesses) -/

/-- The answer to a request over MCTP. -/
def statusOf (c : Instr) (s : State) : List Nat := (after c s).warden.mgmtOut.map (·.status)

/-- Permission, readiness and form, in that order (R858, R860): function 1's Mailbox, Kindling, LEN 241. -/
def mbx1 (fn : Nat) (req : List Byte) : State :=
  svc2.mLog fn fun l => { l with mbx := { l.mbx with busy := true, inFlight := (List.range 64).map fun i => BitVec.ofNat 32 (leNat ((req.drop (4 * i)).take 4)) } }

theorem test_requestChecks :
    (mbx1 1 (mreq 2 0 0 [])).requestOf (some 1) [] = some (padTo 256 (mreq 2 0 0 [])) ∧
    ((after (.enterBanked (some 1) []) (mbx1 1 (mreq 2 0 0 []))).log 1).mbx.busy = false ∧
    statusOf (.setRtc none (mreq 0x50 0 0 [])) { svc with dev := .kindling } = [8] ∧
    statusOf (.stageBegin none (toLe 2 0x30 ++ toLe 2 1 ++ toLe 4 1 ++ toLe 8 0)) svc = [2] ∧
    statusOf (.getInfo none (mreq 0x99 0 0 [])) svc = [7] ∧ after (.getInfo none (mreq 1 0 0 [])) State.reset = State.reset := by decide +kernel

/-- State requests: posted in their state, in the wrong state elsewhere (R839). -/
theorem test_stateRequests :
    (after (.enterBanked none (mreq 2 0 0 [])) svc).warden.stateReq.isSome = true ∧
    statusOf (.enterBanked none (mreq 2 0 0 [])) { svc with dev := .banked } = [4] ∧
    (after (.leaveBanked none (mreq 3 0 0 [])) { svc with dev := .banked }).warden.stateReq.isSome = true ∧
    statusOf (.leaveBanked none (mreq 3 0 0 [])) svc = [4] := by decide +kernel

/-- GET_INFO, the logs from a number on, and SET_RTC (R858, R859). -/
theorem test_reads :
    statusOf (.getInfo none (mreq 1 0 0 [])) svc = [0] ∧
    (after (.readErrorLog none (mreq 0x10 7 0 [])) (svc.mWarden fun w => { w with errorLog := [{ seq := 6 }, { seq := 7 }] })).warden.mgmtOut.map
      (·.data.length) = [64] ∧
    (after (.readSparingLog none (mreq 0x11 7 0 [])) (svc.mWarden fun w => { w with sparingLog := [{ lseq := 6 }, { lseq := 7 }] })).warden.mgmtOut.map
      (·.data.length) = [32] ∧
    (after (.setRtc none (mreq 0x50 5 1 [])) svc).warden.rtc = 0x100000005 := by decide +kernel

/-- The state after a meaning. -/
def nextOf (f : State → Host.Outcome State Fault Refusal) (s : State) : State :=
  match f s with
  | .next t => t
  | _ => s

/-- A firmware update of 64 bytes: begun, written, committed; at most 4 MiB less 64 bytes of firmware (R861, R862). -/
def staged : State := nextOf (execStageData none (mreq 0x31 0 0 (toLe 4 0x5744524E ++ toLe 4 1 ++ toLe 4 9 ++ toLe 4 0 ++ toLe 4 64)))
  (nextOf (execStageBegin none (mreq 0x30 1 84 [])) svc)

theorem test_stage :
    statusOf (.stageBegin none (mreq 0x30 3 64 [])) svc = [2] ∧ statusOf (.stageBegin none (mreq 0x30 1 4194241 [])) svc = [2] ∧
    statusOf (.stageBegin none (mreq 0x30 1 4194240 [])) svc = [0] ∧ statusOf (.stageBegin none (mreq 0x30 2 64 [])) staged = [5, 0, 0] ∧
    statusOf (.stageData none (mreq 0x31 0 0 [1])) svc = [4] ∧ statusOf (.stageData none (mreq 0x31 84 0 [1])) staged = [2, 0, 0] ∧
    statusOf (.stageCommit none (mreq 0x32 0 0 []) true) svc = [4] := by decide +kernel

theorem test_stageCommit :
    (∃ st, staged.warden.staging = some st ∧ staged.stagedOk st.image true = true ∧ staged.stagedOk st.image false = false) ∧
    statusOf (.stageCommit none (mreq 0x32 0 0 []) true) staged = [0, 0, 0] ∧ statusOf (.stageCommit none (mreq 0x32 0 0 []) false) staged = [6, 0, 0] ∧
    (after (.stageCommit none (mreq 0x32 1 0 []) true) staged).warden.activate = true := by
  refine ⟨⟨{ image := false, len := 84 }, by decide +kernel⟩, ?_⟩
  decide +kernel

/-- CHIMNEY_CONFIG takes a trace block and refuses an unknown one (R793, R796, R805). -/
theorem test_chimneyConfig :
    statusOf (.chimneyConfig none (mreq 0x20 0 0 (toLe 1 3 ++ List.replicate 63 0))) svc = [2] ∧
    statusOf (.chimneyConfig none (mreq 0x20 0 0 [2])) svc = [2] ∧
    traceBlockOk (toLe 1 2 ++ List.replicate 63 0) = true ∧
    statusOf (.chimneyConfig none (mreq 0x20 0 0 (toLe 1 2 ++ List.replicate 63 0))) svc = [0] := by decide +kernel

/-- MCTP, PLDM and SPDM act while the firmware runs (R863 to R869); an overrun of a busy Mailbox (R854). -/
theorem test_management :
    (after (.mctpControl (some 9)) svc).warden.eidI3c = 9 ∧ (after (.pldmSetEventReceiver (some 9)) svc).warden.eventReceiver = some 9 ∧
    after (.pldmSensorRead 1 0) State.reset = State.reset ∧ (after (.pldmSensorRead 1 0) svc).warden.running = true ∧
    after (.pldmFirmwareUpdate false [] true false) State.reset = State.reset ∧
    (after (.pldmFirmwareUpdate false [] true false) (svc.mWarden fun w => { w with running := false, recovery := true })).warden.staging = none ∧
    ((after (.mailboxOverrun 1) (mbx1 1 [])).log 1).mbx.overrun = true ∧ after (.mailboxOverrun 1) svc2 = svc2 := by decide +kernel

/-- A part with the GO and ENABLE registers of functions 0 to 2 in their reset state, and a table's version to read. -/
def reg2 : State := (svc2.mFn 0 fun f => { f with en := false }).mTck fun t => { t with stateTick := 0x500000007 }

/-- A dropped access counts in its function; a read returns 0 (R907). -/
theorem test_barAccessDropped :
    (reg2.presented = true ∧ reg2.fnExists 2 = true ∧ reg2.fnExists 3 = false) ∧
    (((after (.barAccessDropped 2 true) reg2).log 2).badAccess = 1 ∧ after (.barAccessDropped 3 true) reg2 = reg2) := by decide +kernel

/-- A LO read latches the HI half; the HI read returns the latch; SRI_REFS_LO and the pair of the highest block (R910). -/
theorem test_latchingLoRead :
    (reg2.blockOn 0 0 = true ∧ reg2.blockOn 0 17 = true ∧ reg2.pair 0 0x14 = some 0x500000007 ∧ reg2.pair 0 0x18 = none ∧ reg2.pair 6 0x10 = some 0) ∧
    ((after (.latchingLoRead 0 reg2.windowBar 0x14 false) reg2).bus.readValue = 7 ∧
      (after (.latchingLoRead 0 reg2.windowBar 0x18 false) (after (.latchingLoRead 0 reg2.windowBar 0x14 false) reg2)).bus.readValue = 5 ∧
      (after (.latchingLoRead 0 reg2.windowBar 0x10000 true) (reg2.mTck fun t => { t with num := 0x500000007 })).bus.readValue = 0x500000007 ∧
      (after (.latchingLoRead 0 reg2.windowBar 0 false) reg2).bus.readValue = BitVec.ofNat 64 (reg2.readBlock 0 0 0) ∧
      after (.latchingLoRead 0 reg2.windowBar 2 false) reg2 = reg2) := by decide +kernel

/-- Selectors, W1C bits, and sizes at their limits (R909, R12, R129). -/
theorem test_registerWrite :
    (reg2.live = true ∧ reg2.hostOn = true ∧ reg2.img.bx3 = false ∧ reg2.ldg.capEn = false) ∧
    ((after (.registerWrite 0 0 0x70000 159 false) reg2).hearths.sel = 159 ∧ (after (.registerWrite 0 0 0x70000 160 false) reg2).hearths.sel = 0 ∧
      (after (.registerWrite 0 0 0xF0050 9 false) reg2).routes.chanSel = 9) ∧
    ((after (.registerWrite 0 0 0x10014 8 false) (reg2.mTck fun t => { t with periodMismatch := true, numMismatch := true })).tck.periodMismatch = false ∧
      (after (.registerWrite 0 0 0x10014 8 false) (reg2.mTck fun t => { t with periodMismatch := true, numMismatch := true })).tck.numMismatch = true) ∧
    ((after (.registerWrite 0 0 0x30028 24 false) reg2).ldg.capLog2 = 24 ∧ (after (.registerWrite 0 0 0x30028 36 false) reg2).ldg.capLog2 = 36 ∧
      after (.registerWrite 0 0 0x30028 37 false) reg2 = reg2 ∧ after (.registerWrite 0 0 0x30028 23 false) reg2 = reg2 ∧
      after (.registerWrite 0 0 0x30028 24 false) (reg2.mLdg fun l => { l with capEn := true }) = reg2.mLdg fun l => { l with capEn := true }) := by
  decide +kernel

/-- The page of a function in BAR 2, and its Mailbox (R853, R854, R907). -/
theorem test_pageWrites :
    ((after (.registerWrite 2 2 (65536 * 2 + 0x10) 0x12345678 false) reg2).fn 2).ringBase = 0x12345000 ∧
    ((after (.registerWrite 2 2 (65536 * 2 + 0x10) 0x12345678 true) reg2).fn 2).ringBase = 0x12345000 ∧
    after (.registerWrite 2 2 (65536 * 2 + 0x10) 0x12345678 false) (reg2.mFn 2 fun f => { f with en := true }) = (reg2.mFn 2 fun f => { f with en := true }) ∧
    ((after (.registerWrite 2 0 0x130000 0x80000009 false) reg2).log 2).mbx.busy = true ∧
    ((after (.registerWrite 2 0 0x130000 0x80000009 false) (mbx1 2 [])).log 2).mbx.overrun = true ∧
    ((after (.registerWrite 2 0 0x130004 4 false) ((mbx1 2 []).mLog 2 fun l => { l with mbx := { l.mbx with overrun := true } })).log 2).mbx.overrun = false := by
  decide +kernel

/-- FLT_FN_LOG_CFG takes LOG2 6 to 14 (R791). -/
theorem test_functionLogConfig :
    reg2.pageOn 1 = true ∧ ((after (.functionLogConfig 1 (2 * 6)) reg2).log 1).log2 = 6 ∧ ((after (.functionLogConfig 1 (1 + 2 * 14)) reg2).log 1).log2 = 14 ∧
    ((after (.functionLogConfig 1 (1 + 2 * 14)) reg2).log 1).en = true ∧ after (.functionLogConfig 1 (2 * 5)) reg2 = reg2 ∧
    after (.functionLogConfig 1 (2 * 15)) reg2 = reg2 := by decide +kernel

/-! ### Routes (RouteFrameChecks, RoutePortStates, RouteOperations) -/

/-- A policy with a spare lane, half width and a hold of 5 s; encryption is off. -/
def pol : RoutePolicy := { enable := true, sparePresent := true, allowHalf := true, requalifyS := 5 }

/-- Ports 0 and 7 with a state of port 7, and the operation of command 4 on channel 1 of it, which expects 64 bytes and has got 32. -/
def rt (q : RPort) (ops : List ROp := []) : State :=
  (svc.mImg fun i => { i with route := List.replicate 8 pol }).mRoutes fun r => { r with
    ports := [(0, { st := .up, rxLanes := 0xFF, txLanes := 0xFF }), (7, q)], ops := ops }

/-- Port 7 UP; its channel 1 expects SEQ 3 of epoch 2. -/
def upPort : RPort := { st := .up, rxLanes := 0xFF, txLanes := 0xFF, rxLseq := 5, chans := [(1, { epoch := 2, nextSeq := 3 })] }

/-- A frame with the LSEQ that port 7 expects. -/
def fr (type : Nat) (ch : Nat := 1) (epoch seq : BitVec 32 := 0) (arg : BitVec 32 := 0) (pay : List Byte := []) : Frame :=
  { type := type, channel := ch, epoch := epoch, seq := seq, lseq := 5, arg := arg, payload := pay }

/-- STATE and REASON of port 7. -/
def p7 (s : State) : PortState × Nat := ((s.port 7).st, (s.port 7).reason)

/-- Each of the checks before a frame's own (R713, R719, R721). -/
theorem test_linkChecks :
    ((rt upPort).routesOn = true ∧ (rt {}).routesOn = true ∧ ((rt {}).port 7).st ≠ .up ∧ after (.nakFrame 7 (fr 6) true) (rt {}) = rt {}) ∧
    ((mapGetD (after (.nakFrame 7 (fr 6) false) (rt upPort)).routes.cnts 7 {}).trailerFails = 1 ∧
      p7 (after (.nakFrame 7 (fr 6) false) (rt { upPort with trailerTick := 1023 })) = (.up, 0) ∧
      p7 (after (.nakFrame 7 (fr 6) false) (rt { upPort with trailerTick := 1024 })) = (.suspect, 0)) ∧
    (((after (.nakFrame 7 { fr 6 with lseq := 6 } true) (rt upPort)).port 7).sent.map (fun f => (f.type, f.arg)) = [(6, 5)] ∧
      (mapGetD (after (.nakFrame 7 { fr 6 with lseq := 4 } true) (rt upPort)).routes.cnts 7 {}).replays = 1) ∧
    (frameOk { fr 6 with channel := 16 } = false ∧ p7 (after (.nakFrame 7 { fr 6 with channel := 16 } true) (rt upPort)) = (.quarantined, 4) ∧
      p7 (after (.nakFrame 7 (fr 6) true) (rt { upPort with burst := List.replicate 64 0 })) = (.quarantined, 4) ∧
      p7 (after (.nakFrame 7 (fr 6) true) (rt { upPort with burst := List.replicate 63 0 })) = (.up, 0)) := by decide +kernel

theorem test_accepts : (rt upPort).AcceptsFrame 7 (fr 6) ∧ (rt upPort).AcceptsFrame 7 (fr 1) ∧ (rt upPort).AcceptsFrame 7 (fr 9) := by
  unfold State.AcceptsFrame
  decide +kernel

/-- An operation on port 7 that expects 64 bytes. -/
def op4 (l : RLink) : ROp := { cid := 4, channel := 1, epoch := 2, op := 9, started := true, links := [{ l with port := 7, seq := 3, expect := 64 }] }

/-- DATA: no credit left, stale, the next place, another place, and the last byte past TOTAL (R720, R721). -/
theorem test_dataFrame :
    p7 (after (.dataFrame 7 (fr 1) true) (rt { upPort with dataGot := 256 })) = (.quarantined, 5) ∧
    ((upPort.chan 1).below (fr 1 1 2 2) = true ∧ (mapGetD (after (.dataFrame 7 (fr 1 1 2 2) true) (rt { upPort with dataGot := 255 })).routes.cnts 7 {}).stale = 1) ∧
    ((∃ x, (rt upPort [op4 { got := 32, total := some 64 }]).current? 7 (fr 1 1 2 3) = some x) ∧
      (after (.dataFrame 7 { fr 1 1 2 3 with offset := 1, payload := List.replicate 32 7 } true) (rt upPort [op4 { got := 32, total := some 64 }])).routes.ops.map
        (fun o => o.links.map (·.got)) = [[64]] ∧
      p7 (after (.dataFrame 7 { fr 1 1 2 3 with offset := 1, payload := List.replicate 64 7 } true) (rt upPort [op4 { got := 32, total := some 64 }])) = (.quarantined, 4) ∧
      p7 (after (.dataFrame 7 { fr 1 1 2 3 with payload := List.replicate 32 7 } true) (rt upPort [op4 { got := 32, total := some 64 }])) = (.quarantined, 4)) ∧
    ((after (.dataFrame 7 (fr 1 1 2 3) true) (rt { upPort with chans := [(1, { epoch := 2, nextSeq := 3, heldStart := some (fr 2 1 2 3) })] })).port 7).chans.map
      (fun c => c.2.heldData.length) = [1] := by
  refine ⟨by decide +kernel, by decide +kernel, ⟨⟨(op4 { got := 32, total := some 64 }, { port := 7, seq := 3, expect := 64, got := 32, total := some 64 }), by decide +kernel⟩, ?_⟩, ?_⟩
  · decide +kernel
  · decide +kernel

/-- START: stale, above NEXT_SEQ, held, and meeting an operation (R721, R726, R727). -/
theorem test_startFrame :
    (mapGetD (after (.startFrame 7 (fr 2 1 1 9) true) (rt upPort)).routes.cnts 7 {}).stale = 1 ∧
    (upPort.chan 1).atNext (fr 2 1 2 4) = false ∧ p7 (after (.startFrame 7 (fr 2 1 2 4) true) (rt upPort)) = (.quarantined, 4) ∧
    (upPort.chan 1).atNext (fr 2 1 3 0) = true ∧ ((after (.startFrame 7 (fr 2 1 3 0) true) (rt upPort)).port 7).chans.map (fun c => c.2.heldStart.isSome) = [true] ∧
    p7 (after (.startFrame 7 (fr 2 1 2 3) true) (rt { upPort with chans := [(1, { epoch := 2, nextSeq := 3, heldStart := some (fr 2 1 2 3) })] })) = (.quarantined, 4) ∧
    (after (.startFrame 7 { fr 2 1 2 3 with op := 9, arg := 2 } true) (rt upPort [op4 {}])).routes.ops.map (fun o => o.links.map (·.total)) = [[some 64]] ∧
    (mapGetD (after (.startFrame 7 { fr 2 1 2 3 with op := 9, arg := 3 } true) (rt upPort [op4 {}])).routes.cnts 7 {}).mismatch = 1 := by decide +kernel

/-- DONE and ABORT (R721, R728, R730). -/
theorem test_doneAbort :
    ((mapGetD (after (.doneFrame 7 (fr 3 1 2 2) true) (rt upPort)).routes.cnts 7 {}).stale = 1 ∧
      p7 (after (.doneFrame 7 (fr 3 1 2 3) true) (rt upPort [op4 { got := 32, total := some 64 }])) = (.quarantined, 4) ∧
      (after (.doneFrame 7 (fr 3 1 2 3) true) (rt upPort [op4 { got := 64, total := some 64 }])).routes.ops.map (fun o => o.links.map (·.doneGot)) = [[true]]) ∧
    ((mapGetD (after (.abortFrame 7 (fr 4 1 2 2 1) true) (rt upPort)).routes.cnts 7 {}).stale = 1 ∧
      (after (.abortFrame 7 (fr 4 1 2 3 1) true) (rt upPort [op4 { got := 32, total := some 64 }])).routes.ops.map (fun o => (o.started, o.first)) = [(false, true)] ∧
      (after (.abortFrame 7 (fr 4 1 2 3 2) true) (rt upPort [op4 { got := 32, total := some 64 }])).routes.ops = []) := by decide +kernel

/-- CREDIT above the frames sent, NAK, CONTROL, HELLO and SPDM on an UP port (R719 to R721, R697). -/
theorem test_otherFrames :
    (p7 (after (.creditFrame 7 (fr 5 0 0 0 11) true) (rt { upPort with dataSent := 10, creditGot := 4 })) = (.quarantined, 5) ∧
      ((after (.creditFrame 7 (fr 5 0 0 0 10) true) (rt { upPort with dataSent := 10, creditGot := 4 })).port 7).creditGot = 10 ∧
      p7 (after (.creditFrame 7 (fr 5 0 0 0 3) true) (rt { upPort with dataSent := 10, creditGot := 4 })) = (.quarantined, 5)) ∧
    ((after (.nakFrame 7 (fr 6 0 0 0 2) true) (rt { upPort with sent := [{ lseq := 3 }, { lseq := 2 }, { lseq := 1 }] })).port 7).outbox.map (·.lseq) = [3, 2] ∧
    (ctlSubtype (fr 7 0 0 0 0 (padTo 32 [3])) = 3 ∧
      ((after (.controlLane 7 (fr 7 0 0 0 0 (padTo 32 [3])) true 2) (rt upPort)).port 7).txLanes = 0x1FB ∧
      ((after (.controlLane 7 (fr 7 0 0 0 0 (padTo 32 [3])) true 8) (rt upPort)).port 7).txLanes = 0xFF ∧
      ((after (.controlKeepalive 7 (fr 7 0 0 0 0 (padTo 32 [2])) true) (rt upPort)).port 7).rxLseq = 6 ∧
      ((after (.controlTick 7 (fr 7 0 0 0 0 (padTo 32 [1])) true 0) (rt upPort)).port 7).rxLseq = 6) ∧
    (p7 (after (.helloFrame 7 (fr 8) true 0 0 false 0 0) (rt upPort)) = (.quarantined, 4) ∧
      p7 (after (.spdmFrame 7 (fr 9) true false true true []) (rt upPort)) = (.quarantined, 4) ∧
      ((after (.spdmFrame 7 (fr 9) true true true true []) (rt { upPort with rekeying := true })).port 7).rekeying = false) := by decide +kernel

/-- A port of a stage in DOWN, AUTH or SUSPECT. -/
def at7 (st : PortState) (stage : Nat) : State := rt { st := st, stage := stage, nonce := 6, rxLseq := 5 }

/-- Training to eight lanes, to four, and failed (R698, R705). -/
theorem test_training :
    ((after (.routeTrainingStart 7) (at7 .down 0)).port 7).stage = 1 ∧ ((after (.routeTrainingStart 7) (at7 .suspect 0)).port 7).stage = 1 ∧
    after (.routeTrainingStart 8) (at7 .down 0) = at7 .down 0 ∧
    ((after (.routeTrainingComplete 7 4 0) (at7 .down 1)).port 7).rxLanes = 0x1FB ∧
    ((after (.routeTrainingComplete 7 0 12) (at7 .down 1)).port 7).txLanes = 0x33 ∧
    ((after (.routeTrainingComplete 7 0 12) (at7 .down 1)).port 7).half = true ∧
    ((after (.routeTrainingComplete 7 0 0x1F) (at7 .down 1)).port 7).stage = 0 ∧
    ((after (.fecLock 7 6) (at7 .down 2)).port 7).st = .auth ∧ ((after (.fecLock 7 6) (at7 .suspect 2)).port 7).st = .suspect := by decide +kernel

/-- Timeouts, holds, the third attempt (R705, R713, R715). -/
theorem test_timeouts :
    (p7 (after (.routeBringupTimeout 7) (at7 .auth 4)) = (.quarantined, 1) ∧ p7 (after (.routeBringupTimeout 7) (at7 .auth 3)) = (.down, 0) ∧
      p7 (after (.routeBringupTimeout 7) (at7 .suspect 1)) = (.suspect, 0) ∧
      p7 (after (.routeBringupTimeout 7) (rt { st := .suspect, stage := 1, attempts := 2 })) = (.quarantined, 6)) ∧
    (p7 (after (.quarantineHoldEnd 7) (rt { st := .quarantined, holdEnd := some 5 })) = (.down, 0) ∧
      p7 (after (.quarantineHoldEnd 7) (rt { st := .quarantined })) = (.quarantined, 0)) ∧
    (((rt { upPort with quarantines := 9 }).quarantine 7 4).port 7).holdEnd = some (2560 * cyclesPerS) ∧
    (((rt { upPort with quarantines := 255 }).quarantine 7 4).port 7).holdEnd = some (3600 * cyclesPerS) ∧
    (((rt { upPort with quarantines := 255 }).quarantine 7 4).port 7).quarantines = 255 := by decide +kernel

/-- Keep-alives, key updates, failing lanes (R697, R698, R700, R712). -/
theorem test_upkeep :
    ((after (.keepaliveSend 7) (rt upPort)).port 7).sent.map (·.type) = [7] ∧
    ((after (.autoKeyUpdate 7) (rt { upPort with encrypted := true, keyTx := 0x80000000 })).port 7).rekeying = true ∧
    ((after (.autoKeyUpdate 7) (rt { upPort with encrypted := true, keyTx := 0x7FFFFFFF })).port 7).rekeying = false ∧
    ((after (.routeLaneFail 7 0) (rt upPort)).port 7).rxLanes = 0x1FE ∧
    ((after (.routeLaneFail 7 1) (rt { upPort with rxLanes := 0x1FE })).port 7).half = true ∧
    p7 (after (.routeLaneFail 7 1) (rt { upPort with half := true })) = (.suspect, 0) := by decide +kernel

/-- The exchange of HELLO and the end of the session (R705 to R709). -/
theorem test_session :
    (((after (.helloFrame 7 (fr 8) true 99 6 false 40 8) (at7 .auth 3)).port 7).nonce = 8 ∧
      ((after (.helloFrame 7 (fr 8) true 99 5 false 40 8) (at7 .auth 3)).port 7).requester = true ∧
      ((after (.helloFrame 7 (fr 8) true 99 7 false 40 8) (at7 .auth 3)).port 7).requester = false) ∧
    (p7 (after (.spdmFrame 7 (fr 9) true false true false []) (at7 .auth 4)) = (.quarantined, 1) ∧
      p7 (after (.spdmFrame 7 (fr 9) true false true true [1]) (rt { st := .auth, stage := 4, rxLseq := 5, pin := some [2] })) = (.quarantined, 2) ∧
      p7 (after (.spdmFrame 7 (fr 9) true false true true [1]) (rt { st := .auth, stage := 4, rxLseq := 5, partnerEnc := true })) = (.quarantined, 3) ∧
      p7 (after (.spdmFrame 7 (fr 9) true false true true [1]) (rt { st := .auth, stage := 4, rxLseq := 5, pin := some [1] })) = (.up, 0) ∧
      p7 (after (.spdmFrame 7 (fr 9) true false false true [1]) (at7 .auth 4)) = (.auth, 0)) := by decide +kernel

/-- Load Route Key of port 7 with an action; the digest lies at Device Address 0x20000. -/
def lkr (action : Nat) (q : RPort) : State :=
  ((cmds [(1, cmd 0x1A [(32, 1, 7), (33, 1, action), (40, 8, 0x20000)])]).mImg fun i => { i with route := List.replicate 8 { pol with encRequired := true } }).mRoutes
    fun r => { r with ports := [(7, q)] }

theorem test_loadRouteKey :
    ((lkr 0 upPort).ctl? 1 0x1A).isSome = true ∧ ((lkr 3 upPort).ctl? 1 0x1A).isSome = true ∧
    ((lkr 0 upPort).cmd? 1).map (lkr 0 upPort).routeKeyOk = some true ∧ ((lkr 3 upPort).cmd? 1).map (lkr 3 upPort).routeKeyOk = some false ∧
    ((after (.loadRouteKeyPin 1) (lkr 0 { upPort with partnerDigest := List.replicate 48 0 })).port 7).pin = some (List.replicate 48 0) ∧
    p7 (after (.loadRouteKeyPin 1) (lkr 0 { upPort with partnerDigest := List.replicate 48 0 })) = (.up, 0) ∧
    p7 (after (.loadRouteKeyPin 1) (lkr 0 { upPort with partnerDigest := List.replicate 48 1 })) = (.quarantined, 2) ∧
    (after (.loadRouteKeyPin 1) (lkr 3 upPort)).flt.mgmtq.map (·.code) = [0x809] ∧
    ((after (.loadRouteKeyUnpin 1) (lkr 1 { upPort with pin := some [] })).port 7).pin = none ∧
    ((after (.loadRouteKeyRekey 1) (lkr 2 upPort)).port 7).rekeying = true ∧ ((after (.loadRouteKeyRekey 1) (lkr 2 { st := .down })).port 7).rekeying = false := by
  decide +kernel

/-- An exchange with port 7 of 64 bytes each way: its list at 0x400, the counts at 0x600. -/
def exch (mask : Nat) (q : RPort) : State :=
  let s := cmdsM [(0x4E1, 0x08), (0x4E8, 64), (0x4F1, 0x0A), (0x4F8, 64)] [(1, cmd 0x18 [(32, 8, 0x400), (40, 1, mask), (41, 1, 1), (44, 4, 2), (48, 2, 9), (56, 8, 0x600)])]
  (s.mImg fun i => { i with route := List.replicate 8 pol }).mRoutes fun r => { r with ports := [(7, q)] }

/-- R746 refuses an exchange with no port; else it is queued and starts once port 7 is UP and its epoch is not above (R723 to R726). -/
def exq (q : RPort) : State :=
  match execRouteExchange 1 (exch 0x80 q) with
  | .next t => t
  | _ => exch 0x80 q

theorem test_routeExchange :
    ((exch 0x80 upPort).ready? 1 0x18 .admitted).isSome = true ∧ ((exch 0x80 upPort).cmd? 1).map ((exch 0x80 upPort).exOk 1) = some true ∧
    ((exch 0 upPort).cmd? 1).map ((exch 0 upPort).exOk 1) = some false ∧ ((exch 0x80 upPort).cmd? 1).map ((exch 0x80 upPort).orderOk 1) = some true ∧
    (exq upPort).routes.ops.map (fun o => o.links.map fun l => (l.port, l.sendTotal, l.expect)) = [[(7, 64, 64)]] ∧
    (after (.routeExchange 1) (exch 0 upPort)).flt.mgmtq.map (·.code) = [0x808] := by decide +kernel

theorem test_routeOperationStart :
    ((exq upPort).rop? 1).map (fun o => (o.started, (exq upPort).firstEverywhere o)) = some (false, true) ∧
    ((after (.routeOperationStart 1) (exq upPort)).port 7).sent.reverse.map (fun f => (f.type, f.seq)) = [(2, 3), (1, 3)] ∧
    (after (.routeOperationStart 1) (exq { upPort with st := .suspect })).routes.ops = [] ∧
    (after (.routeOperationStart 1) (exq { upPort with chans := [(1, { epoch := 3 })] })).routes.ops = [] ∧
    ((after (.routeOperationStart 1) (exq { upPort with chans := [(1, { epoch := 1, nextSeq := 9 })] })).port 7).sent.reverse.map (fun f => (f.type, f.seq)) = [(2, 0), (1, 0)] := by
  decide +kernel

/-- A reduction of 32 elements in a ring of 2, its rank 1: both chunks are of 16 elements (R742). -/
def rdCmd (p : Nat) : Cmd := cmd 0x19 [(32, 8, 0x400), (40, 8, 0x600), (48, 4, 32), (52, 1, 1), (53, 1, 0x77), (54, 2, p), (56, 2, 1), (60, 4, 2), (64, 2, 9)]

/-- It is refused when one port serves a ring of 3 (R746). -/
theorem test_routeReduce :
    (rt upPort).rdOk (rdCmd 2) = true ∧ (rt upPort).rdOk (rdCmd 3) = false ∧ rdChunk (rdCmd 2) 1 = (16, 16) ∧ rdRecv (rdCmd 2) 0 = 0 ∧ rdRecv (rdCmd 2) 1 = 1 ∧
    (rdLinks (rdCmd 2)).map (fun l => (l.sendTotal, l.expect)) = [(64, 64)] ∧
    (after (.routeReduce 1) ((cmds [(1, rdCmd 2)]).mImg fun i => { i with route := List.replicate 8 pol })).routes.ops.map (fun o => o.reduce) = [true] ∧
    after (.routeReduce 1) ((cmds [(1, rdCmd 3)]).mImg fun i => { i with route := List.replicate 8 pol }) ≠ (cmds [(1, rdCmd 3)]).mImg fun i => { i with route := List.replicate 8 pol } := by
  decide +kernel

/-- An operation whose bytes have moved sends DONE, and ends when DONE has arrived (R728); 1 + 1 = 2 in F16 (R743). -/
theorem test_advance :
    (((exch 0x80 upPort).mRoutes fun r => { r with ops := [{ op4 { sent := 64, sendTotal := 64, got := 64, total := some 64 } with cid := 1 }] }).advanceOp 1).routes.ops.map
      (fun o => o.links.map (·.doneSent)) = [[true]] ∧
    (((exch 0x80 upPort).mRoutes fun r => { r with ops := [{ op4 { sent := 64, sendTotal := 64, got := 64, total := some 64, doneSent := true, doneGot := true } with cid := 1 }] }).advanceOp 1).routes.ops
      = [] ∧ add16 0x3C00 0x3C00 = 0x4000 := by decide +kernel

/-! ### Rings, manifests and waybill commands (RingsAndManifests, WaybillCommands) -/

/-- Bytes from an address on, as cells. -/
def cellsAt (a : Nat) (bs : List Byte) : List Host.Cell := ((List.range bs.length).map fun i => (a + i, bs.getD i 0)).filter fun c => c.2 != 0

/-- A part whose function 0 has a ring at host address 0x10000 and context 1 of one Engine class and class 0 (classes 4 and 0), with one entry. -/
def ring (f : Fn) (e : List Byte) (low : List Host.Cell := []) (cmds : Map Cmd := []) : State :=
  { cmdsM low cmds with
    mem := { stack := low ++ tableCells, host := cellsAt 0x10000 e }
    stk := { (cmdsM low cmds).stk with
      ctxs := [(1, { ptRoot := 0x100000, debug := true, classMask := 0x3F, cplAddr := 0x4000, cplLog2 := 4, flogAddr := 0x5000, nsrAddr := 0x6000 })], cmds := cmds }
    fns := [(0, { f with ringBase := 0x10000, slots := [(0, { valid := true, ctx := 1 })] })] }

/-- A ring that is enabled with one entry posted. -/
def rf : Fn := { en := true, prod := 1 }

/-- A manifest: tag 1, opcode, class, CONTEXT 1, ATTR, and its operands. -/
def mf (op cls attr : Nat) (l : List (Nat × Nat × Nat) := []) : List Byte := man ([(0, 2, 1), (2, 1, op), (3, 1, cls), (4, 2, 1), (6, 1, attr)] ++ l)

/-- Doorbells at the limits of R627: all 256 entries, one more, and one behind PROD. -/
theorem test_doorbell :
    (ring rf []).pageOn 0 = true ∧ ((after (.doorbell 0 256) (ring rf [])).fn 0).prod = 256 ∧ ((after (.doorbell 0 257) (ring rf [])).fn 0).dbErr = true ∧
    (after (.doorbell 0 257) (ring rf [])).flt.mgmtq.map (·.code) = [0x106] ∧ ((after (.doorbell 0 0) (ring rf [])).fn 0).prod = 1 ∧
    ((after (.doorbell 0 0) (ring rf [])).fn 0).pend = true ∧ after (.doorbell 0 1) (ring { rf with en := false } []) = ring { rf with en := false } [] := by
  decide +kernel

/-- LOG2_SIZE 8 to 16 (R626, R692). -/
theorem test_ringEnable :
    ((after (.ringEnable 0 (1 + 2 * 16)) (ring { cons := 5 } [])).fn 0).ringLog2 = 16 ∧ ((after (.ringEnable 0 (1 + 2 * 16)) (ring { cons := 5 } [])).fn 0).cons = 0 ∧
    after (.ringEnable 0 (1 + 2 * 17)) (ring {} []) = ring {} [] ∧ after (.ringEnable 0 (1 + 2 * 7)) (ring {} []) = ring {} [] ∧
    ((after (.ringEnable 0 (1 + 2 * 16)) (ring rf [])).fn 0).ringLog2 = 8 ∧ ((after (.ringEnable 0 (2 * 8)) (ring rf [])).fn 0).en = false := by decide +kernel

/-- The tag of R628: a match, none, and a stop (R631); PENDING is cleared at CONS = PROD and compared again (R632). -/
theorem test_manifestFetch :
    ((ring rf (mf 4 0 0)).ringFree 0 = true ∧ ((after (.manifestFetch 0) (ring rf (mf 4 0 0))).stk.cmds.map fun p => p.2.opcode) = [4] ∧
      ((after (.manifestFetch 0) (ring rf (mf 4 0 0))).fn 0).cons = 1) ∧
    (((after (.manifestFetch 0) (ring rf [])).fn 0).tagWait = true ∧ ((after (.manifestFetch 0) (ring rf [])).fn 0).cons = 0 ∧
      ((after (.manifestFetch 0) (ring { rf with cons := 1, pend := true } [])).fn 0).recheck = true) ∧
    ((after (.manifestFetch 0) { ring rf (mf 4 0 0) with mem := { (ring rf (mf 4 0 0)).mem with hostPoison := [0x10040] } }).flt.mgmtq.map (·.code) = [0x10D]) := by
  decide +kernel

theorem test_tagWaits :
    ((after (.tagWaitReread 0) (ring { rf with tagWait := true } (mf 4 0 0))).fn 0).cons = 1 ∧
    after (.tagWaitReread 0) (ring { rf with tagWait := true } []) = ring { rf with tagWait := true } [] ∧
    ((after (.tagStop 0) (ring { rf with tagWait := true } [])).fn 0).stopped = true ∧ ((after (.tagStop 0) (ring { rf with tagWait := true } [])).fn 0).tagStops = 1 ∧
    ((after (.ringIdleRecheck 0) (ring { rf with recheck := true } [])).fn 0).pend = true ∧
    ((after (.ringIdleRecheck 0) (ring { rf with recheck := true, cons := 1 } [])).fn 0).pend = false := by decide +kernel

/-- A Delegate entry of one manifest at Device Address 0x20000 (R642, R643); a body that does not translate is refused (R645). -/
def deleg (da : Nat) : State := ring rf (mf 0 0 4 [(16, 8, da)]) (cellsAt 0x20000 (man [(2, 1, 4), (4, 2, 1)]))

theorem test_delegate :
    (deleg 0x20000).delegateBody 0 (mf 0 0 4 [(16, 8, 0x20000)]) = some [man [(2, 1, 4), (4, 2, 1)]] ∧
    ((after (.manifestFetch 0) (deleg 0x20000)).fn 0).body.length = 1 ∧ ((after (.manifestFetch 0) (deleg 0x20000)).fn 0).cons = 0 ∧
    (after (.manifestFetch 0) (deleg 0x40000000)).flt.mgmtq.map (·.code) = [0x105] ∧
    ((after (.delegate 0) (ring { rf with body := [man [(2, 1, 4), (4, 2, 1)]], bodyCtx := 1 } [])).stk.cmds.map fun p => p.2.opcode) = [4] ∧
    (after (.delegate 0) (ring { rf with body := [man [(2, 1, 0x23), (4, 2, 1)]], bodyCtx := 1 } [])).flt.mgmtq.map (·.code) = [if opPriv 0x23 then 0x102 else 0] := by
  decide +kernel

/-- Checks 2 to 6 in order: another function's context, a dead one, a reserved bit, a class the context does not have (R646). -/
theorem test_checks :
    (faultsAfter (.manifestFetch 0) (ring rf (man [(0, 2, 1), (2, 1, 4), (4, 2, 2)])) = [0x103] ∧ faultsAfter (.manifestFetch 0) (ring rf (mf 4 0 3)) = [0x101] ∧
      faultsAfter (.manifestFetch 0) (ring rf (mf 4 0 0 [(32, 1, 1)])) = [0x101] ∧ faultsAfter (.manifestFetch 0) (ring rf (mf 1 6 0)) = [0x101]) ∧
    (headOk (mf 4 0 0) 2 none = true ∧ headOk (mf 0xF 4 0) 3 none = true ∧ headOk (mf 0xF 3 0) 3 none = false ∧
      operandsOk (cmdOf 0 (mf 2 0 0 [(48, 4, 4096)]) false 0) = true ∧ operandsOk (cmdOf 0 (mf 2 0 0 [(48, 4, 4097)]) false 0) = false) := by decide +kernel

/-- A copy of 64 bytes is admitted; on its own input it is refused under 0x0104 (R649); the store has 2,097,152 entries (R593). -/
def copyMf (src dst : Nat) : List Byte := mf 0xF 4 0 [(32, 8, src), (40, 8, dst), (48, 8, 64)]

theorem test_admitEngine :
    ((after (.manifestFetch 0) (ring rf (copyMf 0x20000 0x21000))).stk.cmds.map fun p => (p.2.opcode, p.2.tset.length)) = [(0xF, 1)] ∧
    faultsAfter (.manifestFetch 0) (ring rf (copyMf 0x20000 0x20000)) = [0x104] ∧ faultsAfter (.manifestFetch 0) (ring rf (copyMf 0x40000000 0x20000)) = [0x701] ∧
    (deleg 0x20000).storeRoom 0 2097152 = true ∧ (deleg 0x20000).storeRoom 0 2097153 = false := by decide +kernel

/-- A held manifest is admitted when there is room, and skipped when its context is dead (R635, R687). -/
theorem test_admissionResume :
    ((after (.admissionResume 0) (ring { rf with held := some { cmd 0xF [] with fn := 0 } } [])).fn 0).held.isNone = true ∧
    ((after (.admissionResume 0) (ring { rf with held := some { cmd 0xF [] with fn := 0 } } [])).stk.cmds.map fun p => p.2.opcode) = [0xF] ∧
    ((after (.admissionResume 0) { ring { rf with held := some (cmd 0xF []) } [] with
      stk := { (ring {} []).stk with ctxs := [(1, { dead := true })] } }).fn 0).deadSkips = 1 ∧ after (.admissionResume 0) (ring rf []) = ring rf [] := by decide +kernel

/-- What the merging buffer of die 0 holds (R530). -/
def merged (s : State) : List (Nat × List Byte) := s.depot.merge0.map fun e => (e.pa.addr, e.bytes.map (·.2))

/-- An Admit of Recipe 2 with a deadline of 1,000 µs: input 64 bytes at 0x20000, result `len` bytes at 0x21000, handle at 0x22000. -/
def admitS (cls recipe len us : Nat) (r : Recipe := { ctx := 1, effective := true, fbLen := 16, fbAddr := 0x23000, scratchAddr := 0x24000 }) : State :=
  let s := cmds [(5, { cmd 1 [(32, 2, recipe), (36, 4, us), (48, 8, 0x20000), (56, 4, 64), (60, 4, len), (64, 8, 0x21000), (72, 8, 0x22000)] with cls := cls })]
  { s with stk := { s.stk with recipes := [(2, r)] }, tck := { s.tck with period10us := 10 } }

theorem test_admitCmd :
    (faultsAfter (.admitCmd 5 9) (admitS 4 2 16 1000) = [0x204] ∧ faultsAfter (.admitCmd 5 9) (admitS 3 3 16 1000) = [0x108] ∧
      faultsAfter (.admitCmd 5 9) (admitS 3 2 15 1000) = [0x206] ∧ faultsAfter (.admitCmd 5 9) (admitS 3 2 16 1000 { ctx := 1, effective := true, stream := true }) = [0x207]) ∧
    (((after (.admitCmd 5 9) (admitS 3 2 16 1000)).wb? 9).map (fun w => (w.st, w.lastTick)) = some (.filed, 8) ∧
      after (.admitCmd 5 1048576) (admitS 3 2 16 1000) = admitS 3 2 16 1000 ∧
      merged (after (.admitCmd 5 9) (admitS 3 2 16 1000)) = [(0x22000, toLe 4 9)]) ∧
    ((after (.admitCmd 5 9) (admitS 3 2 16 201)).stk.answers.map (·.outcome) = [4] ∧ (after (.admitCmd 5 9) (admitS 3 2 16 202)).stk.answers.map (·.outcome) = []) := by
  decide +kernel

/-- With 1,048,576 entries in use the fallback answers with outcome 7 (R114), whatever those entries are. -/
theorem test_ledgerFull (l : Map Waybill) :
    (({ admitS 3 2 16 1000 with ldg := { (admitS 3 2 16 1000).ldg with wb := l } } : State).ledgerFull 5 (cmd 1 []) {}).stk.answers.map (·.outcome) = [7] := rfl

/-- Answer and Abandon of waybill 4, and of one that is no more (R103 to R106). -/
def onWb (op : Nat) (h : Nat) (st : WbState) : State :=
  let s := cmdsM [(0x8000, 0x77)] [(5, cmd op [(32, 4, h), (40, 8, 0x8000), (48, 4, 8)])]
  { s with ldg := { s.ldg with wb := [(4, { st := st, ctx := 1, resultAddr := 0x21000, resultLen := 8, tset := [bigPage] })] } }

theorem test_answerAbandon :
    ((onWb 2 4 .filed).ctl? 5 2).isSome = true ∧ merged (after (.answer 5) (onWb 2 4 .filed)) = [(0x21000, [0x77, 0, 0, 0, 0, 0, 0, 0])] ∧
    (after (.answer 5) (onWb 2 4 .filed)).stk.answers.map (·.outcome) = [9, 0] ∧ (after (.answer 5) (onWb 2 4 .running)).stk.answers.map (·.outcome) = [0xA] ∧
    (after (.answer 5) (onWb 2 (4 + 2 ^ 20) .filed)).stk.answers.map (·.outcome) = [0xA] ∧ (after (.abandon 5) (onWb 3 4 .filed)).stk.answers.map (·.outcome) = [6, 0] ∧
    ((after (.abandon 5) (onWb 3 4 .running)).wb? 4).map (·.abandonReq) = some true ∧ (after (.abandon 5) (onWb 3 4 .committed)).stk.answers.map (·.outcome) = [0xA] := by
  decide +kernel

/-- A Fence waits for what is earlier (R619); Clear Numeric Status (R162). -/
theorem test_fence :
    after (.fenceCommand 5) (cmds [(4, cmd 0xF []), (5, cmd 4 [])]) = cmds [(4, cmd 0xF []), (5, cmd 4 [])] ∧
    (after (.fenceCommand 5) (cmds [(5, cmd 4 []), (6, cmd 0xF [])])).stk.cmds.map (·.1) = [6] ∧
    (after (.clearNumericStatus 5) (cmds [(5, cmd 5 [])])).stk.answers.map (·.nsrClear) = [true] := by decide +kernel

/-- A capture record of Recipe 2 without tables and input: 64 bytes, replayable (R812). -/
def capture : List Byte := (man [(0, 4, 64), (4, 2, 1), (6, 1, 0x80), (7, 1, 3), (40, 4, 2), (52, 4, 1000)]).take 64

/-- A Replay Inject of the record at 0x20000. -/
def replay (dev : DevState) (rec : List Byte) : State :=
  let s := cmdsM (cellsAt 0x20000 rec) [(5, cmd 0x2C [(32, 8, 0x20000), (48, 8, 0x25000), (56, 8, 0x21000), (64, 4, 16), (80, 8, 0x22000)])]
  { s with dev := dev, stk := { s.stk with recipes := [(2, { ctx := 1, effective := true, fbLen := 16, fbAddr := 0x23000, scratchAddr := 0x24000 })] }
           tck := { s.tck with period10us := 10 } }

theorem test_replayInject :
    captureOk capture = true ∧ ((replay .banked capture).ctl? 5 0x2C).isSome = true ∧ faultsAfter (.replayInject 5 9) (replay .service capture) = [0x101] ∧
    faultsAfter (.replayInject 5 9) (replay .banked []) = [0x101] ∧
    ((after (.replayInject 5 9) (replay .banked capture)).wb? 9).map (fun w => (w.st, w.foc, w.cls)) = some (.filed, true, 3) := by decide +kernel

/-- The oldest answer of a context goes out and its counter advances (R677); a finished command commits (R112). -/
theorem test_commits :
    ((after (.completionCounterAdvance 1) ((ring {} []).mStk fun k => { k with answers := [{ ctx := 2 }, { ctx := 1 }] })).fn 0).slots.map (fun p => p.2.count) = [1] ∧
    (after (.completionCounterAdvance 1) ((ring {} []).mStk fun k => { k with answers := [{ ctx := 2 }, { ctx := 1 }] })).stk.answers.map (·.ctx) = [2] ∧
    after (.completionCounterAdvance 1) ((stepS 0).mStk fun k => { k with answers := [{ ctx := 1, waybill := some 4 }] }) =
      (stepS 0).mStk (fun k => { k with answers := [{ ctx := 1, waybill := some 4 }] }) ∧
    (after (.commandCommit 5) (cmds [(5, cmd 0xF [] .finished)])).stk.answers.map (·.outcome) = [0] ∧
    after (.commandCommit 5) (cmds [(5, cmd 0xF [])]) = cmds [(5, cmd 0xF [])] := by decide +kernel

/-! ### Rows, the overlay, applies (RowCommands, OverlayAndApply) -/

/-- Command 5 on table 3: rows 7, 99 and 7 in a list at 0x10000, their data at 0x12000. -/
def rw (op flags : Nat) (st : Nat := 0) (n : Nat := 3) (t : Table := tbl) : State :=
  withTbl (cmdsM [(0x10000, 7), (0x10008, 99), (0x10010, 7), (0x12000, 0x11), (0x12020, 0x22), (0x12040, 0x33), (0x2000E0, 0x44), (0x200C60, 0x55)]
    [(5, cmd op [(32, 2, 3), (34, 1, flags), (36, 4, n), (40, 8, 0x10000), (48, 8, 0x12000), (56, 8, st)])]) t

/-- The rows' entries on Serai 0: row, first byte, command. -/
def entries (s : State) : List (Nat × List Byte × Nat) := (s.serai 0).overlay.map fun o => (o.row, o.data.take 1, o.cid)

/-- A duplicate row takes its last position (R284); flag bit 2 and row count 0 fail R283. -/
theorem test_replaceRows :
    ((rw 0xA 3).rowsOk 5 (cmd 0xA [(32, 2, 3), (34, 1, 3), (36, 4, 3), (40, 8, 0x10000), (48, 8, 0x12000)]) false).isSome = true ∧
    entries (after (.replaceRows 5) (rw 0xA 3)) = [(99, [0x22], 5), (7, [0x33], 5)] ∧ ((after (.replaceRows 5) (rw 0xA 3)).cmd? 5).map (·.st) = some .finished ∧
    lastPlaces [7, 99, 7] 0 = [(99, 1), (7, 2)] ∧ faultsAfter (.replaceRows 5) (rw 0xA 4) = [0x342] ∧ faultsAfter (.replaceRows 5) (rw 0xA 0 0 0) = [0x342] ∧
    faultsAfter (.replaceRows 5) (rw 0xA 0 0x13000) = [0x342] := by decide +kernel

/-- Read Rows gives the rows as stored; a poisoned one is 0x0334, flag bit 0 is 0x0342 (R283, R289). -/
theorem test_readRows :
    ((after (.readRows 5) (rw 0xB 0)).cmd? 5).map (·.st) = some .finished ∧
    (after (.readRows 5) (rw 0xB 0)).view (none, 5) { addr := 0x12000 } 1 = [0x44] ∧ (after (.readRows 5) (rw 0xB 0)).view (none, 5) { addr := 0x12020 } 1 = [0x55] ∧
    faultsAfter (.readRows 5) (rw 0xB 1) = [0x342] ∧ faultsAfter (.readRows 5) ((rw 0xB 0).mMem fun m => { m with stackPoison := [0x200C40] }) = [0x334] := by
  decide +kernel

/-- Update checks as a Lookup does (R236, R291), and sends one reference per element of a bag. -/
theorem test_update :
    faultsAfter (.update 5) (withTbl (cmdsM [] [(5, cmd 9 [])])) = [0xB01] ∧
    ((after (.readLoadCounts 5) (withTbl (cmdsM [] [(5, cmd 0x10 [(32, 2, 3), (40, 8, 0x12000)])]) { tbl with shards := [{ (tbl.shard 0) with refs := 0x77 }] })).view
      (none, 5) { addr := 0x12000 } 1 = [0x77]) ∧
    ((after (.readLoadCounts 5) (cmdsM [] [(5, cmd 0x10 [(32, 2, 3), (40, 8, 0x12000)])])).cmd? 5).map (·.st) = some .finished := by decide +kernel

/-- Table 3 with an optimiser, and entries on Serai 0. -/
def ovS (o : List Overlay) (w : List StageWait := []) (a : List Merge := []) (k : Nat := 0) : State :=
  (withTbl (cmdsM [(0x2000E1, 0x3C)] [(5, cmd 0xA [] .running)]) { tbl with opt := some { kind := k, lr := 0x3F800000 } }).mSerai 0 fun u => { u with overlay := o, stageWait := w, applySet := a }

/-- An entry of row 7 that is VISIBLE. -/
def vis (n : Nat) : Overlay := { table := 3, row := 7, st := .visible, order := n, data := toLe 32 n }

/-- The oldest VISIBLE entry is written back (R280). -/
theorem test_overlayWriteback :
    entries (after (.overlayWriteback 0 3 7) (ovS [vis 9, vis 8])) = [(7, [9], 0)] ∧ seen (after (.overlayWriteback 0 3 7) (ovS [vis 9, vis 8])) 0x2000E0 1 = [8] ∧
    after (.overlayWriteback 0 3 6) (ovS [vis 9]) = ovS [vis 9] ∧
    after (.overlayWriteback 0 3 7) ((ovS [vis 9]).mRt 3 fun r => { r with mig := some { handing := true } }) =
      (ovS [vis 9]).mRt 3 (fun r => { r with mig := some { handing := true } }) := by decide +kernel

theorem test_overlayStageResume :
    entries (after (.overlayStageResume 0) (ovS [] [{ cid := 5, entry := vis 8 }])) = [(7, [8], 0)] ∧
    ((after (.overlayStageResume 0) (ovS [] [{ cid := 5, entry := vis 8 }])).cmd? 5).map (·.st) = some .finished ∧
    after (.overlayStageResume 0) (ovS [vis 9]) = ovS [vis 9] := by decide +kernel

/-- An apply of w − lr·g with w = 1, lr = 1, g = 2^23 · 2^-24 of element 0 of row 7 gives 0.5 in F16; a poisoned row is 0x0335 (R296, R300). -/
theorem test_seraiApply :
    ((after (.seraiApply 0 3 7) (ovS [] [] [{ table := 3, row := 7, acc := [2 ^ 23] }])).serai 0).applySet = [] ∧
    seen (after (.seraiApply 0 3 7) (ovS [] [] [{ table := 3, row := 7, acc := [2 ^ 23] }])) 0x2000E0 2 = toLe 2 0x3800 ∧
    faultsAfter (.seraiApply 0 3 7) ((ovS [] [] [{ table := 3, row := 7, acc := [2 ^ 23] }]).mMem fun m => { m with stackPoison := [0x2000C0] }) = [0x335] ∧
    after (.seraiApply 0 3 7) (ovS [] [] [{ table := 3, row := 7, tick := 2 }, { table := 3, row := 8, tick := 1 }]) =
      ovS [] [] [{ table := 3, row := 7, tick := 2 }, { table := 3, row := 8, tick := 1 }] := by decide +kernel

/-- The rules of R305 on w = 1, g = 1, one element: SGD, momentum, AdaGrad and Adam with lr = 1, betas 0, eps 1. -/
theorem test_rules :
    (ruleEval ⟨0x3F800000, 0, 0, 0x3F800000⟩ 0 [0x3F800000] [0x3F800000] [0] 0).1 = [0] ∧
    (ruleEval ⟨0x3F800000, 0, 0, 0x3F800000⟩ 1 [0x3F800000] [0x3F800000] [0] 0).1 = [0] ∧
    (ruleEval ⟨0x3F800000, 0, 0, 0x3F800000⟩ 2 [0x3F800000] [0x3F800000] [0] 0) = ([0x3F000000], [], [0x3F800000]) ∧
    (ruleEval ⟨0x3F800000, 0, 0, 0x3F800000⟩ 3 [0x3F800000] [0x3F800000] [0] 0) = ([0x3F000000], [0x3F800000], [0x3F800000]) := by decide +kernel

/-! ### The Larder, recalibration, migration (LarderAndSharding) -/

/-- A cached table 3: slot 1 of shard 0 with row 7, in a state. -/
def cached (st : SlotState) : Table := { tbl with mode := 2, larderSlots := 4, shards := [{ stackBase := 0x200000, stackRows := 50, rows := 100, larderBase := 0x280000, nsid := 1 }], slots := [(slotKey 0 1, { row := 7, st := st })] }

/-- A Larder Refresh into buffer `b` of one fill: row 99 into slot 2. -/
def ldr (t : Table) (b : Nat) (slot : Byte := 2) : State :=
  withTbl (cmdsM [(0x10000, 99), (0x10008, slot)] [(5, cmd 0x11 [(32, 2, 3), (34, 1, b), (40, 8, 0x10000), (48, 4, 1)])]) t

theorem test_larderRefresh :
    (ldr (cached .mapped) 1).larderList 5 (cmd 0x11 [(32, 2, 3), (34, 1, 1), (40, 8, 0x10000), (48, 4, 1)]) = [(99, 2)] ∧
    ((after (.larderRefresh 5) (ldr (cached .mapped) 1)).cmd? 5).map (·.st) = some .finished ∧ faultsAfter (.larderRefresh 5) (ldr (cached .mapped) 0) = [0x311] ∧
    faultsAfter (.larderRefresh 5) (ldr (cached .mapped) 1 4) = [0x311] ∧ faultsAfter (.larderRefresh 5) (ldr tbl 1) = [0x311] ∧
    after (.larderRefresh 5) (ldr { cached .mapped with refresh := some {} } 1) = ldr { cached .mapped with refresh := some {} } 1 := by decide +kernel

/-- A fill waits for its slot (R215); an EVICTING slot's row goes to its flash block (R219). -/
theorem test_larderSlots :
    ((after (.larderRefresh 5) (ldr (cached .evicting) 1 1)).cmd? 5).map (·.st) = some .running ∧
    ((after (.larderFillResume 3) (ldr { cached .mapped with refresh := some { cid := 5, fills := [(99, slotKey 0 2)] } } 1)).cmd? 5).map (·.st) = some .finished ∧
    (((after (.larderWritebackComplete 3 (slotKey 0 1)) (ldr (cached .evicting) 1)).table? 3).map (·.slots)) = some [] ∧
    after (.larderWritebackComplete 3 (slotKey 0 1)) (ldr (cached .mapped) 1) = ldr (cached .mapped) 1 ∧
    after (.larderFillResume 3) (ldr (cached .mapped) 1) = ldr (cached .mapped) 1 := by decide +kernel

/-- Recalibrate of rows 0 and 1 of a table of one byte an element (format 3), from an extent of E = 0 to one of E = 1 at 0x291000; row 0 begins with 4. -/
def recal (fmt first : Nat) (w : List Overlay := []) : State :=
  (withTbl (cmdsM [(0x200000, 4), (0x290000, 1), (0x290008, 1), (0x291000, 1), (0x291005, 1), (0x291008, 1), (0x29100D, 1)]
    [(5, cmd 0x12 [(32, 2, 3), (40, 8, first), (48, 4, 2), (56, 8, 0x291000)])]) { tbl with format := fmt, scaleAddr := 0x290000, scaleHeld := [bigPage] }).mSerai 0 fun u => { u with overlay := w }

theorem test_recalibrateRows :
    faultsAfter (.recalibrateRows 5) (recal 1 0) = [0x345] ∧ faultsAfter (.recalibrateRows 5) (recal 3 1) = [0x345] ∧
    faultsAfter (.recalibrateRows 5) ((recal 3 0).mTally fun y => { y with tables := [] }) = [0x345] ∧
    ((after (.recalibrateRows 5) (recal 3 0)).serai 0).overlay.map (fun o => (o.row, o.data.take 1, o.mark)) = [(0, [2], some 2), (1, [0], some 2)] ∧
    ((after (.recalibrateRows 5) (recal 3 0)).cmd? 5).map (·.st) = some .finished := by decide +kernel

/-- Migrate of shard 0 from home 0: to home 0 it is refused; to home 1 the new extent must lie in stack 1 (R319). -/
def migr (home da : Nat) (rt : TableRt := {}) : State :=
  (withTbl (cmdsM [(0x200020, 9)] [(5, cmd 0x13 [(32, 2, 3), (36, 1, home), (40, 8, da)])]) { tbl with shards := [{ stackBase := 0x200000, stackRows := 2, rows := 2 }], rowsM1 := 1 }).mRt 3 fun _ => rt

theorem test_migrateShard :
    faultsAfter (.migrateShard 5) (migr 0 0x300000) = [0x344] ∧ faultsAfter (.migrateShard 5) (migr 1 0x300000) = [0x344] ∧
    faultsAfter (.migrateShard 5) ((migr 1 0).mTally fun y => { y with tables := [] }) = [0x344] ∧
    (((after (.migrateShard 5) ((migr 0 0x300000).mTable 3 fun t => t.mShard 0 fun h => { h with home := 1 })).rt 3).mig.map fun m => (m.newHome, m.oldHome)) = some (0, 1) ∧
    seen (after (.migrateShard 5) ((migr 0 0x300000).mTable 3 fun t => t.mShard 0 fun h => { h with home := 1 })) 0x300020 1 = [9] ∧
    ((after (.migrationHandoverComplete 3) (migr 1 0 { mig := some { handing := true } })).rt 3).mig.isNone = true ∧
    after (.migrationHandoverComplete 3) (migr 1 0 { mig := some {} }) = migr 1 0 { mig := some {} } := by decide +kernel

/-! ### Registrations and contexts (Registrations) -/

/-- A descriptor of table 9: F16, one granule, class 1, one shard of 4 rows in stack 0 at 0x200000, default row at 0x300000 (R186). -/
def desc (cls rows : Nat) : List Byte := man [(0, 2, 9), (2, 1, 1), (3, 1, 1), (4, 1, cls), (16, 8, rows - 1), (48, 8, 0x300000)] ++ (man [(0, 8, 0x200000), (32, 5, rows)]).take 64

/-- A part whose image gives class 1 to stacks with a tail, and a Register Table of 192 bytes at 0x20000. -/
def regT (d : List Byte) (len : Nat := 192) (t : Table := tbl) : State :=
  (withTbl (cmdsM (cellsAt 0x20000 d) [(5, cmd 0x20 [(32, 8, 0x20000), (40, 4, len)])]) t).mImg fun i => { i with tableKinds := [0, 2] }

theorem test_registerTable :
    ((regT (desc 1 4)).ctl? 5 0x20).isSome = true ∧ (after (.registerTable 5) (regT (desc 1 4))).tally.fresh.map (·.1) = [9] ∧
    faultsAfter (.registerTable 5) (regT (desc 0 4)) = [0x301] ∧ faultsAfter (.registerTable 5) (regT (desc 1 4) 191) = [0x301] ∧
    faultsAfter (.registerTable 5) (regT (overlay (desc 1 4) 0 [3])) = [0x303] ∧
    faultsAfter (.registerTable 5) ((regT (desc 1 4)).mStk fun k => { k with cmds := [(5, cmd 0x20 [(32, 8, 0x40000000), (40, 4, 192)])] }) = [0x701] := by decide +kernel

/-- Deregistration of another table, of one that a Recipe names, and of table 3 (R189). -/
theorem test_deregisterTable :
    faultsAfter (.deregisterTable 5) (withTbl (cmds [(5, cmd 0x21 [(32, 2, 4)])])) = [0x301] ∧
    faultsAfter (.deregisterTable 5) ((withTbl (cmds [(5, cmd 0x21 [(32, 2, 3)])])).mStk fun k => { k with recipes := [(0, { tables := [{ table := 3 }] })] }) = [0x304] ∧
    (after (.deregisterTable 5) (withTbl (cmds [(5, cmd 0x21 [(32, 2, 3)])]))).tally.tables.map (fun p => p.2.leaving) = [true] := by decide +kernel

/-- An optimiser record of kind 0: lr 1, betas 0, eps 1; kind 4 and eps 0 are refused (R302, R304). -/
def optRec (kind eps : Nat) : State :=
  withTbl (cmdsM (cellsAt 0x20000 ((man [(0, 1, kind), (4, 4, 0x3F800000), (16, 4, eps)]).take 64)) [(5, cmd 0x22 [(32, 2, 3), (40, 8, 0x20000)])])

theorem test_registerOptimiser :
    (((after (.registerOptimiser 5) (optRec 0 0x3F800000)).table? 3).map fun t => t.optDue.isSome) = some true ∧ faultsAfter (.registerOptimiser 5) (optRec 4 0x3F800000) = [0x343] ∧
    faultsAfter (.registerOptimiser 5) (optRec 0 0) = [0x343] ∧
    faultsAfter (.registerOptimiser 5) ((optRec 0 1).mStk fun k => { k with cmds := [(5, cmd 0x22 [(32, 2, 3), (40, 8, 0x40000000)])] }) = [0x701] := by decide +kernel

/-- A Recipe record of one Copy, no tables: 288 bytes, no fallback block (R657 to R659). -/
def recipe (cmdCount : Nat) : List Byte := (man [(2, 2, cmdCount)]) ++ (man [(2, 1, 0xF), (4, 2, 1), (32, 8, 0x20000), (40, 8, 0x21000), (48, 8, 64)]) ++ List.replicate 32 0

def regR (slot len n : Nat) : State :=
  cmdsM (cellsAt 0x20000 (recipe n)) [(5, cmd 0x23 [(32, 2, slot), (40, 8, 0x20000), (48, 4, len)])]

theorem test_registerRecipe :
    recipeLen (recipe 1) = 288 ∧ (after (.registerRecipe 5) (regR 4095 288 1)).stk.recipes.map (fun p => (p.1, p.2.effective)) = [(4095, false)] ∧
    faultsAfter (.registerRecipe 5) (regR 4096 288 1) = [0x109] ∧ faultsAfter (.registerRecipe 5) (regR 0 128 0) = [0x109] ∧
    faultsAfter (.registerRecipe 5) (regR 0 287 1) = [0x109] ∧ faultsAfter (.registerRecipe 5) (regR 0 127 1) = [0x109] := by decide +kernel

theorem test_deregisterRecipe :
    faultsAfter (.deregisterRecipe 5) ((cmds [(5, cmd 0x24 [(32, 2, 2)])]).mStk fun k => { k with recipes := [(2, { ctx := 3 })] }) = [0x108] ∧
    faultsAfter (.deregisterRecipe 5) (((cmds [(5, cmd 0x24 [(32, 2, 2)])]).mStk fun k => { k with recipes := [(2, { ctx := 1 })] }).mLdg fun l => { l with wb := [(9, { recipe := 2 })] }) = [0x10C] ∧
    (after (.deregisterRecipe 5) ((cmds [(5, cmd 0x24 [(32, 2, 2)])]).mStk fun k => { k with recipes := [(2, { ctx := 1 })] })).stk.recipes.map (fun p => p.2.leaving) = [true] := by
  decide +kernel

/-- Create Context in slot 511 of function 0 beside context 1 (R653, R654). -/
def mkCtx (slot cplLog2 maxContexts : Nat) : State :=
  (cmds [(5, { cmd 0x26 [(32, 2, slot), (56, 1, cplLog2), (57, 1, 4)] with ctx := 0 })]).mImg fun i => { i with fnPolicy := [{ maxContexts := maxContexts }] }

theorem test_createContext :
    (mkCtx 511 7 2).freeCtx = some 0 ∧ ((after (.createContext 5) (mkCtx 511 7 2)).ctx? 0).map (·.slot) = some 511 ∧
    faultsAfter (.createContext 5) (mkCtx 512 7 2) = [0x10B] ∧ faultsAfter (.createContext 5) (mkCtx 511 6 2) = [0x10B] ∧
    faultsAfter (.createContext 5) (mkCtx 511 7 1) = [0x10B] := by decide +kernel

/-- Destroy Context of slot 0, which is context 1: it waits for a command of the context (R655). -/
def killCtx (valid : Bool) (rest : Map Cmd) : State :=
  (cmds ((5, { cmd 0x27 [] with ctx := 0 }) :: rest)).mFn 0 fun f => { f with slots := [(0, { valid := valid, ctx := 1 })] }

theorem test_destroyContext :
    faultsAfter (.destroyContext 5) (killCtx false []) = [0x10B] ∧ (after (.destroyContext 5) (killCtx true [])).stk.ctxs = [] ∧
    (killCtx true []).drained 1 = true ∧ ((killCtx true []).mLdg fun l => { l with wb := [(4, { st := .draining, ctx := 1 })] }).drained 1 = false ∧
    (after (.destroyContext 5) ((killCtx true []).mLdg fun l => { l with wb := [(4, { st := .draining, ctx := 1 })] })).stk.ctxs.map (fun p => p.2.destroying) = [true] := by decide +kernel

/-! ### Ticks and power (TicksAndPower) -/

/-- A boundary steps TICK_NUM and enters the state that a request asks for (R45, R838). -/
theorem test_tickBoundary :
    (after .tickBoundary svc).tck.num = 1 ∧ (after .tickBoundary svc).dev = .service ∧
    (after .tickBoundary (svc.mWarden fun w => { w with stateReq := some { toBanked := true } })).dev = .banked ∧
    (after .tickBoundary { svc.mWarden (fun w => { w with stateReq := some { toBanked := false } }) with dev := .banked }).dev = .service := by decide +kernel

/-- Kill limits and the last admissible tick at their boundaries; an abandoned waybill (R70, R71). -/
def killS (w : Waybill) : State := (wbS .running .running w).mStk fun k => { k with recipes := [(2, { ctx := 1, effective := true, rerun := 2 })] }

theorem test_afterKill :
    (((killS { lastTick := 9, killCount := 1 }).afterKill 4 9).wb? 4).map (fun w => (w.st, w.killCount)) = some (.filed, 2) ∧
    ((killS { lastTick := 9, killCount := 2 }).afterKill 4 9).stk.answers.map (·.outcome) = [3] ∧
    ((killS { lastTick := 8, killCount := 1 }).afterKill 4 9).stk.answers.map (·.outcome) = [2] ∧
    ((killS { lastTick := 9, abandonReq := true }).afterKill 4 9).stk.answers.map (·.outcome) = [6] := by decide +kernel

/-- A waybill of Recipe 2, which has `n` lanes, waits; lane 0 is taken by waybill 6. -/
def joinS (n last : Nat) : State :=
  let s := wbS .filed .finished { lastTick := last }
  { s with stk := { s.stk with cmds := [], recipes := [(2, { ctx := 1, effective := true, lanes := n, cmds := [{}] })] }
           ldg := { s.ldg with wb := [(4, { st := .filed, ctx := 1, recipe := 2, lastTick := last }), (6, { st := .running, ctx := 1, recipe := 2, lane := some 0 })] } }

theorem test_join :
    (((joinS 2 0).join 4).wb? 4).map (fun w => (w.st, w.lane)) = some (.running, some 1) ∧ ((joinS 2 0).join 4).stk.cmds.length = 1 ∧
    (joinS 2 0).freeLane 2 { lanes := 2 } = some 1 ∧ (joinS 1 0).freeLane 2 { lanes := 1 } = none ∧
    ((joinS 1 0).noCapacity 4).stk.answers.map (·.outcome) = [5] ∧ (joinS 1 1).noCapacity 4 = joinS 1 1 ∧ (joinS 2 0).join 6 = joinS 2 0 := by decide +kernel

/-- The caravan closes with what was chosen, the snapshot's rest at its last tick answered (R67, R68). -/
theorem test_caravanClose :
    ((after .caravanClose ((joinS 2 0).mCvn fun v => { v with heads := [[]], chosen := [4] })).wb? 4).map (·.st) = some .running ∧
    (after .caravanClose ((joinS 2 0).mCvn fun v => { v with heads := [[]], snapshot := [4] })).stk.answers.map (·.outcome) = [5] ∧
    after .caravanClose (joinS 2 0) = joinS 2 0 := by decide +kernel

/-- The guard band withdraws, spans expire at their tick (R47, R675). -/
theorem test_spans :
    ((after .guardBandStart (wbS .running .admitted)).cmd? 5).map (·.st) = some .withdrawn ∧ ((after .guardBandStart (wbS .running .running)).cmd? 5).map (·.st) = some .running ∧
    (after .spanExpiry ((cmds [(5, { cmd 0xF [] .running with spanEnd := 1 })]).mTck fun t => { t with num := 1 })).stk.answers.map (·.outcome) = [0xC] ∧
    after .spanExpiry ((cmds [(5, { cmd 0xF [] .running with spanEnd := 2 })]).mTck fun t => { t with num := 1 }) =
      (cmds [(5, { cmd 0xF [] .running with spanEnd := 2 })]).mTck (fun t => { t with num := 1 }) := by decide +kernel

/-- The published check value of this CRC: "123456789" gives 0x29B1 (R77). -/
theorem test_crc16 : crc16 72 0x313233343536373839 = 0x29B1 := by decide +kernel

/-- A frame of TICK_NUM `n`. -/
def tf (n : Nat) : Nat := 0xD5 * 2 ^ 88 + n * 2 ^ 24 + (crc16 72 (n * 256)).toNat

/-- A follower of TICK_IN with a period of 100 µs. -/
def fol (t : TickUnit) : State := svc.mTck fun _ => { t with source := 1, period10us := 10 }

/-- Sync, CRC, the window of 1 µs, the interval of T / 200 + 1 µs, the fourth good frame (R78 to R81). -/
theorem test_tickFrameReceive :
    (frameSync (tf 5) = true ∧ frameCrc (tf 5) = true ∧ frameNum (tf 5) = 5 ∧ frameSync 0 = false ∧ frameCrc (tf 5 + 1) = false) ∧
    ((after (.tickFrameReceive (tf 5 + 1) 0) (fol {})).tck.crcErrors = 1 ∧ (after (.tickFrameReceive (tf 5 + 1) 0) (fol { crcErrors := 255 })).tck.crcErrors = 255 ∧
      (after (.tickFrameReceive 0 0) (fol {})).tck.missed = 1 ∧ (after (.tickFrameReceive 0 0) (fol {})).tck.crcErrors = 0) ∧
    ((after (.tickFrameReceive (tf 5) 101000) (fol { lastEdge := some 0 })).tck.goodRun = 1 ∧ (after (.tickFrameReceive (tf 5) 101001) (fol { lastEdge := some 0 })).tck.missed = 1 ∧
      faultsAfter (.tickFrameReceive (tf 5) 200000) (fol { lastEdge := some 0, missed := 1 }) = [0x244]) ∧
    ((after (.tickFrameReceive (tf 5) 77) (fol { goodRun := 3 })).tck.locked = true ∧ (after (.tickFrameReceive (tf 5) 77) (fol { goodRun := 2 })).tck.locked = false ∧
      after (.tickFrameReceive (tf 5) 77) svc = svc) := by decide +kernel

theorem test_holdover :
    faultsAfter .holdoverEntry (fol {}) = [0x240] ∧ (after .holdoverEntry (fol { locked := true })).tck.locked = false ∧ after .holdoverEntry svc = svc ∧
    faultsAfter .holdoverExpired (fol { holdover := true, holdoverTicks := 4096 }) = [0x243] ∧
    after .holdoverExpired (fol { holdover := true, holdoverTicks := 4095 }) = fol { holdover := true, holdoverTicks := 4095 } ∧
    after .holdoverExpired (fol { holdover := true, holdoverTicks := 4096, expiryRaised := true }) = fol { holdover := true, holdoverTicks := 4096, expiryRaised := true } := by
  decide +kernel

/-- A part in Service with a power state. -/
def pw (p : Power) : State := svc.mPower fun _ => p

/-- THROT_IN_N, a die at 100 °C and at 115 °C (R939, R946). -/
theorem test_temperatures :
    (after .throtInAssert (pw {})).power.hlevel = 4 ∧ (after .throtInAssert (pw { hlevel := 5 })).power.hlevel = 5 ∧ (after .throtInAssert State.reset).power.hlevel = State.reset.power.hlevel ∧
    (after (.dieTempSample 1 25600) (pw { hlevel := 1 })).power.hlevel = 2 ∧ (after (.dieTempSample 1 25599) (pw { hlevel := 1 })).power.hlevel = 1 ∧
    (after (.dieTempSample 0 25600) (pw { hlevel := 1, hotStepAt := some 0 })).power.hlevel = 1 ∧
    (after (.dieTempSample 0 25600) { pw { hlevel := 1, hotStepAt := some 0 } with time := cyclesPerMs }).power.hlevel = 2 ∧
    (after (.dieTempSample 0 29440) (pw {})).pins.thermtripN = false ∧ (after (.dieTempSample 0 29439) (pw {})).pins.thermtripN = true := by decide +kernel

/-- 1,600 W is not above 1,600 W; one watt more steps the level, at H5 no further (R939). -/
theorem test_powerSample :
    (after (.powerSample 1600 true) (pw { hlevel := 1 })).power.hlevel = 1 ∧ (after (.powerSample 1601 true) (pw { hlevel := 1 })).power.hlevel = 2 ∧
    (after (.powerSample 1601 true) (pw { hlevel := 5 })).power.hlevel = 5 ∧ (after (.powerSample 1601 true) (pw { hlevel := 1, powerStepAt := some 0 })).power.hlevel = 1 ∧
    (pw { hlevel := 3, calmSamples := 100 }).nextLevel = 2 ∧ (pw { hlevel := 3, calmSamples := 99 }).nextLevel = 3 ∧
    ((pw { hlevel := 1, calmSamples := 100 }).mPins fun p => { p with throtInN := false }).nextLevel = 4 := by decide +kernel

/-! ### The BX-3 personality (BxCommands) -/

/-- A BX-3 part whose queue holds one entry in slot 63, with a table 1023 of 4 rows of 32 bytes at device offset 0x1000. -/
def bx (e : List (Nat × Nat × Nat)) (b : Bx := {}) (low : List Host.Cell := []) : State :=
  ({ svc with mem := { stack := low }, bx := { b with
      qEn := true, head := 63, tail := 0, entries := [(63, (man e).take 32)]
      tables := [(1023, { rows := 4, base := 0x1000, rowBytes := 32, scale := 0x3F800000 })] } }).mImg fun i => { i with bx3 := true }

/-- The address operand of a device offset. -/
def dv (o : Nat) : Nat := 2 ^ 63 + o

/-- How a command that has run will end. -/
def endsWith (c : Instr) (s : State) : Nat × Bool := ((after c s).bx.failing, (after c s).bx.ran)

/-- A TAIL write reads the entries up to it once; an enable starts from 0 (R882, R885). -/
theorem test_bxQueue :
    (bx []).bxOn = true ∧ ((after (.bxQTailWrite 2) (bx [])).bx.entries.map (·.1)) = [63, 0, 1] ∧ (after (.bxQTailWrite 2) (bx [])).bx.tail = 2 ∧
    (after (.bxQueueIdleRecheck) (bx [] { recheck := true })).bx.recheck = false ∧
    ((after (.bxQueueEnable 1) ((bx []).mBx fun b => { b with qEn := false })).bx.head = 0 ∧ (after (.bxQueueEnable 1) (bx [])).bx.head = 63 ∧
      (after (.bxQueueEnable 2) (bx [] { halted := true })).bx.halted = false ∧ (after (.bxResume 2) (bx [] { halted := true })).bx.halted = false) := by decide +kernel

/-- A soft reset undefines the tables; a read of BX_STATUS clears its RC bits (R879, R902). -/
theorem test_bxReset :
    (after (.bxSoftReset 4 false) (bx [] { irqs := 7 })).bx = { irqs := 7 } ∧ (after (.bxSoftReset 4 true) (bx [])).bx = {} ∧
    (after .bxStatusRead (bx [] { cmdErr := true, oor := true })).bx.cmdErr = false ∧ (after .bxStatusRead svc) = svc := by decide +kernel

/-- NOP, an undefined opcode, a poisoned entry, a queue with nothing to run (R886, R898). -/
theorem test_bxNop :
    endsWith (.bxNop false) (bx [(0, 1, 0)]) = (0, true) ∧ endsWith (.bxNop false) (bx [(0, 1, 0), (31, 1, 1)]) = (1, true) ∧ endsWith (.bxNop true) (bx [(0, 1, 0)]) = (6, true) ∧
    endsWith (.bxNop false) (bx [(0, 1, 7)]) = (1, true) ∧ endsWith (.bxNop false) ((bx []).mBx fun b => { b with entries := [(63, [])] }) = (6, true) ∧
    endsWith (.bxNop false) ((bx []).mBx fun b => { b with halted := true }) = (0, false) := by decide +kernel

/-- DEFINE_TABLE of 2 rows of 32 << 5 bytes; table 1024, size 6, an unaligned base, an extent past the end, a defined table, an overlap (R888). -/
def dt (fl p16 rows base : Nat) : State := bx [(0, 1, 1), (1, 1, fl), (2, 2, p16), (4, 4, rows), (8, 8, base), (24, 8, 0x3F800000)]

theorem test_defineTable :
    endsWith (.defineTable false) (dt 5 0 2 (dv 0x2000)) = (0, true) ∧ (mapGet (after (.defineTable false) (dt 5 0 2 (dv 0x2000))).bx.tables 0).map (·.rowBytes) = some 1024 ∧
    endsWith (.defineTable false) (dt 6 0 2 (dv 0x2000)) = (1, true) ∧ endsWith (.defineTable false) (dt 5 1024 2 (dv 0x2000)) = (1, true) ∧
    endsWith (.defineTable false) (dt 5 0 2 (dv 0x2200)) = (1, true) ∧ endsWith (.defineTable false) (dt 5 1023 2 (dv 0x2000)) = (2, true) ∧
    endsWith (.defineTable false) (dt 0 0 2 (dv (bxBytes - 32))) = (3, true) ∧ endsWith (.defineTable false) (dt 0 0 1 (dv (bxBytes - 32))) = (0, true) ∧
    endsWith (.defineTable false) (dt 0 0 2 (dv 0x1060)) = (5, true) ∧ endsWith (.defineTable false) (dt 0 0 2 (dv 0x1080)) = (0, true) := by decide +kernel

theorem test_undefineTable :
    endsWith (.undefineTable false) (bx [(0, 1, 2), (2, 2, 1023)]) = (0, true) ∧ (after (.undefineTable false) (bx [(0, 1, 2), (2, 2, 1023)])).bx.tables = [] ∧
    endsWith (.undefineTable false) (bx [(0, 1, 2), (2, 2, 0)]) = (2, true) := by decide +kernel

/-- ROW_WRITE of one row from device offset 0x5000, its index at `idx`: row 3, a table without the row, a range past the end, an input in the table (R888, R889). -/
def bxrw (p16 idx : Nat) (row : Byte) : State := bx [(0, 1, 3), (2, 2, p16), (4, 4, 1), (8, 8, idx), (16, 8, dv 0x5000)] {} [(0x1000, 3), (0x4000, row), (0x5000, 0x66)]

theorem test_rowWrite :
    (after (.rowWrite false) (bxrw 1023 (dv 0x4000) 3)).bx.staged.map (fun p => (p.1, p.2.take 1)) = [(dv 0x1060, [0x66])] ∧
    endsWith (.rowWrite false) (bxrw 1022 (dv 0x4000) 3) = (2, true) ∧ endsWith (.rowWrite false) (bxrw 1023 (dv (bxBytes - 3)) 3) = (3, true) ∧
    endsWith (.rowWrite false) (bxrw 1023 (dv 0x1000) 3) = (0, true) ∧ endsWith (.rowWrite false) (bxrw 1023 (dv 0x4000) 4) = (1, true) ∧
    endsWith (.rowWrite false) ((bxrw 1023 (dv 0x1060) 3).mMem fun m => { m with stack := [(0x1060, 3)] }) = (4, true) := by decide +kernel

/-- LOOKUP_POOL of one bag of rows 1 and 1 with SUM: 2 · 5 = 10 in element 0 (R892). -/
def pool (n : Nat) : State :=
  bx [(0, 1, 4), (2, 2, 1023), (4, 4, n), (8, 8, dv 0x4000), (16, 8, dv 0x5000), (24, 8, dv 0x6000)] {} [(0x1020, 5), (0x4004, 2), (0x5000, 1), (0x5008, 1)]

theorem test_lookupPool :
    (after (.lookupPool false) (pool 1)).bx.staged.map (fun p => (p.1, p.2.take 4)) = [(dv 0x6000, toLe 4 0x41200000)] ∧
    endsWith (.lookupPool false) (pool 0) = (1, true) ∧ (bxPool [2147483647, 1]).1 = 2147483647 ∧ (bxPool [2147483647, 1]).2 = 1 := by decide +kernel

/-- DENSE of 1 × 1 by 1 × 1 with a bias: 2 · 3 + 1 = 7 (R895); byte 7 of its entry must be 0. -/
def dns (z : Nat) : State :=
  bx [(0, 1, 5), (7, 1, z), (8, 8, dv 0x4000)] {} (cellsAt 0x4000 ((man [(0, 8, dv 0x5000), (8, 8, dv 0x5100), (16, 8, dv 0x5200), (24, 8, dv 0x6000), (32, 4, 1), (36, 4, 1), (40, 4, 1)]).take 64) ++
    [(0x5003, 0x40), (0x5102, 0x40), (0x5103, 0x40), (0x5202, 0x80), (0x5203, 0x3F)])

theorem test_dense :
    (after (.dense false) (dns 0)).bx.staged = [(dv 0x6000, toLe 4 0x40E00000)] ∧ endsWith (.dense false) (dns 1) = (1, true) ∧ endsWith (.dense true) (dns 0) = (0, true) := by
  decide +kernel

/-- BX COPY of n bytes (R888). -/
def bxcp (n src dst : Nat) : State := bx [(0, 1, 6), (4, 4, n), (8, 8, src), (16, 8, dst)] {} [(0x4000, 9)]

theorem test_bxCopy :
    (after (.bxCopy false) (bxcp 1 (dv 0x4000) (dv 0x5000))).bxRead (dv 0x5000) 1 = [9] ∧ endsWith (.bxCopy false) (bxcp 0 (dv 0x4000) (dv 0x5000)) = (1, true) ∧
    endsWith (.bxCopy false) (bxcp 2 (dv 0x4000) (dv (bxBytes - 1))) = (3, true) ∧ endsWith (.bxCopy false) (bxcp 2 (dv 0x4000) (dv 0x4001)) = (4, true) ∧
    endsWith (.bxCopy false) (bxcp 2 (dv 0x4000) (dv 0x107F)) = (5, true) := by decide +kernel

/-- Completion advances HEAD from 63 to 0 and sets QUEUE_EMPTY; a failure halts the queue (R898, R901). -/
theorem test_bxCommandComplete :
    (after .bxCommandComplete ((bx []).mBx fun b => { b with taken := some [], ran := true })).bx.head = 0 ∧
    (after .bxCommandComplete ((bx []).mBx fun b => { b with taken := some [], ran := true })).bx.qEmpty = true ∧
    (after .bxCommandComplete ((bx []).mBx fun b => { b with taken := some [], ran := true, failing := 3, irqEn := true })).bx.halted = true ∧
    (after .bxCommandComplete ((bx []).mBx fun b => { b with taken := some [], ran := true, failing := 3, irqEn := true })).bx.irqs = 1 := by decide +kernel

/-! ### The step, reset and the invariants -/

/-- A step runs the command in front; with none, a cycle passes, and a Quenched fault received takes effect (R842). -/
theorem test_step :
    (match step { State.reset with pending := [.rtcTick, .tickBoundary] } with | .next t => t.pending | _ => []) = [.tickBoundary] ∧
    (match step svc with | .next t => (t.time, t.tck.phase) | _ => (0, 0)) = (1, 1) ∧
    (match step (svc.mFlt fun f => { f with quenchDue := some 0x338 }) with | .next t => (t.time, t.dev, t.flt.quenchCode) | _ => (0, .off, 0)) = (1, .quenched, 0x338) := by
  decide +kernel

/-- The memories of reset, and of a part that a firmware slot and page tables were put into, are canonical; a listed 0 is not. -/
theorem test_memWf :
    State.reset.memWf = true ∧ { svc with mem := { stack := tableCells } }.memWf = true ∧ ((svc.mMem fun m => { m with stack := [(5, 0)] })).memWf = false := by decide +kernel

/-- A canonical memory stays so over a step that stores. -/
theorem test_stepKeeps : (match step { bxcp 1 (dv 0x4000) 0x20000 with pending := [.bxCopy false] } with | .next t => t.memWf && (t.mem.host == [(0x20000, 9)]) | _ => false) = true := by
  decide +kernel

end Sys2Proof.Tests
end

section
/-!
PROOFS. The scalar, control and cross-lane instructions (R392, R393, R400): each body's number is the bit vector its row names, and a body that
only returns a group retires with it.
-/
namespace Sys2Proof.Machine

/-! ### Operands -/

@[simp] theorem Issue.sa_eq (i : Issue) : i.sa = i.opSA.toNat := Group.sget_eq ..

@[simp] theorem Issue.sb_eq (i : Issue) : i.sb = i.opSB.toNat := Group.sget_eq ..

@[simp] theorem ofNat_low64 (v : Int) : BitVec.ofNat 64 (low64 v) = BitVec.ofInt 64 v := ofNat_ofS 64 v

theorem wImm_lt (w : Nat) : wImm w < 2 ^ 32 := by unfold wImm bits; omega

/-- The immediate read in two's complement is the one sign-extended. -/
theorem Issue.ofInt_imm (i : Issue) : BitVec.ofInt 64 (toS 32 (wImm i.w)) = i.imm64 := by
  have h : (BitVec.ofNat 32 (wImm i.w)).toNat = wImm i.w := Nat.mod_eq_of_lt (wImm_lt _)
  conv_lhs => rw [← h, toS_toNat]
  rfl

theorem Issue.branch_eq (i : Issue) : i.branch = i.g.pc - 8 + i.imm64 * 8 := by
  unfold Issue.branch
  rw [BitVec.ofInt_mul, i.ofInt_imm]
  rfl

/-- A condition of R393 read on the numbers of two registers and EXEC is the one read on the registers themselves. -/
theorem Issue.condHolds_eq (i : Issue) (code : Nat) (a b : BitVec 64) : condHolds code i.g.exec.toNat a.toNat b.toNat = i.cond code a b := by
  have eq_toNat (x y : BitVec 64) : (x.toNat == y.toNat) = (x == y) := by
    rw [Bool.eq_iff_iff]; simp [BitVec.toNat_inj]
  have eq_zero (x : BitVec 64) : (x.toNat == 0) = (x == 0) := eq_toNat x 0
  match code with
  | 0 => rfl
  | 1 => exact eq_zero a
  | 2 => exact congrArg (!·) (eq_zero a)
  | 3 => exact eq_zero i.g.exec
  | 4 => exact congrArg (!·) (eq_zero i.g.exec)
  | 5 =>
    show decide (toS 64 a.toNat < toS 64 b.toNat) = a.slt b
    rw [toS_toNat, toS_toNat, BitVec.slt_eq_decide]
  | 6 => exact BitVec.ult_eq_decide.symm
  | _ + 7 => exact eq_toNat a b

/-! ### The numbers of R392 as bit vectors -/

theorem ofNat_setHigh (v : BitVec 64) {m : Nat} (hm : m < 2 ^ 32) :
    BitVec.ofNat 64 (v.toNat % 2 ^ 32 + m * 2 ^ 32) = BitVec.ofNat 32 m ++ v.setWidth 32 := by
  apply BitVec.eq_of_toNat_eq
  have hv : v.toNat % 2 ^ 32 < 2 ^ 32 := Nat.mod_lt _ (by decide)
  rw [BitVec.toNat_append, BitVec.toNat_setWidth, BitVec.toNat_ofNat, BitVec.toNat_ofNat, Nat.mod_eq_of_lt hm,
    ← Nat.shiftLeft_add_eq_or_of_lt hv, Nat.shiftLeft_eq, Nat.mod_eq_of_lt (by omega), Nat.add_comm]

theorem ofInt_toNat_sub (a b : BitVec 64) : BitVec.ofInt 64 ((a.toNat : Int) - b.toNat) = a - b := by
  simp [sub_eq_add_neg, BitVec.ofInt_add, BitVec.ofInt_neg]

theorem ofNat_and_compl (a b : BitVec 64) : BitVec.ofNat 64 (a.toNat &&& (2 ^ 64 - 1 - b.toNat)) = a &&& ~~~b := by
  rw [← BitVec.toNat_not, BitVec.ofNat_and, BitVec.ofNat_toNat, BitVec.ofNat_toNat, BitVec.setWidth_eq, BitVec.setWidth_eq]

theorem ofNat_mul_two_pow (a : BitVec 64) (n : Nat) : BitVec.ofNat 64 (a.toNat * 2 ^ n) = a <<< n := by
  rw [← Nat.shiftLeft_eq]
  rfl

theorem ofNat_div_two_pow (a : BitVec 64) (n : Nat) : BitVec.ofNat 64 (a.toNat / 2 ^ n) = a >>> n := by
  rw [← Nat.shiftRight_eq_div_pow, ← BitVec.toNat_ushiftRight, BitVec.ofNat_toNat, BitVec.setWidth_eq]

theorem ofInt_div_two_pow (a : BitVec 64) (n : Nat) : BitVec.ofInt 64 (a.toInt / 2 ^ n) = a.sshiftRight n := by
  rw [BitVec.sshiftRight, Int.shiftRight_eq_div_pow]
  push_cast
  rfl

theorem popCount_toNat {n : Nat} (v : BitVec n) : popCount n v.toNat = (List.range n).countP fun k => v.getLsbD k := by
  rw [List.countP_eq_length_filter]
  rfl

theorem ofNat_b2n (b : Bool) : BitVec.ofNat 64 (b2n b) = if b then 1 else 0 := by cases b <;> rfl

/-- The index found lies at the lowest set bit, or is 64. -/
theorem ff1_lowest (v : BitVec 64) :
    ff1 v.toNat ≤ 64 ∧ (∀ m < ff1 v.toNat, v.getLsbD m = false) ∧ (ff1 v.toNat < 64 → v.getLsbD (ff1 v.toNat) = true) := by
  unfold ff1
  simp only [BitVec.testBit_toNat]
  cases hf : (List.range 64).find? fun k => v.getLsbD k with
  | none =>
    have hnone : ∀ m < 64, v.getLsbD m = false := by simpa using List.find?_range_eq_none.mp hf
    exact ⟨le_rfl, hnone, fun h => absurd h (lt_irrefl _)⟩
  | some n =>
    obtain ⟨hn, hmem, hlow⟩ := List.find?_range_eq_some.mp hf
    exact ⟨(List.mem_range.mp hmem).le, by simpa using hlow, fun _ => hn⟩

/-! ### Completion -/

/-- A row whose body returns a group completes and retires with it. -/
theorem retires_of_ret {s : State} {r : GroupRef} {i : Issue} (h : s.issue? r = some i) {cls func : Nat} (hi : i.is cls func) {c : Instr}
    {body : Issue → Did} {g : Group} (he : exec c s = .next (s.isaStep r [(cls, func)] body)) (hg : body i = i.ret g) :
    ∃ t, exec c s = .next t ∧ i.Retired i.s g t :=
  ⟨_, he, isaStep_retires h (by rw [hi.1, hi.2]; simp) hg rfl⟩

/-- A scalar row completes and retires, its register holding the number of the row modulo 2^64. -/
theorem retires_of_scalarOp {s : State} {r : GroupRef} {i : Issue} (h : s.issue? r = some i) {func : Nat} (hi : i.is 0 func) {c : Instr}
    {f : Issue → Nat} {v : BitVec 64} (he : exec c s = .next (s.scalarOp r func f)) (hv : BitVec.ofNat 64 (f i) = v) :
    ∃ t, exec c s = .next t ∧ i.Retired i.s (i.g.sput (wS0 i.w) v) t :=
  retires_of_ret h hi he (by rw [Group.sset_eq, hv])

/-- A branch completes and retires at its target when its condition holds, and at the next instruction else. -/
theorem execBr_retires {s : State} {r : GroupRef} {i : Issue} (h : s.issue? r = some i) (hi : i.is 1 0) : ∃ t, exec (.br r) s = .next t ∧
    i.Retired i.s (if i.cond (wS2 i.w) (i.g.sreg (wS0 i.w)) (i.g.sreg (wS1 i.w)) then { i.g with pc := i.g.pc - 8 + i.imm64 * 8 } else i.g) t := by
  refine retires_of_ret h hi rfl ?_
  simp only [Group.sget_eq, Issue.condHolds_eq, Issue.branch_eq]
  split <;> rfl

/-! ### The obligations -/

/-- Settles O13: each row's number is the bit vector its clause names, and the row retires with it. -/
theorem scalarAndControlInstructions : Obligations.ScalarAndControlInstructions := by
  intro s r i h
  refine ⟨fun hi => ?smov, fun hi => ?smovi, fun hi => ?smovhi, fun hi => ?sadd, fun hi => ?saddi, fun hi => ?ssub, fun hi => ?sand, fun hi => ?sor,
    fun hi => ?sxor, fun hi => ?sandn, fun hi => ?sshl, fun hi => ?sshr, fun hi => ?ssar, fun hi => ?smul, fun hi => ?spopc, fun hi => ?sff1,
    fun hi => ?sexecGet, fun hi => ?sexecSet, fun hi => ?srd, fun hi => ?sflrd, fun hi => ?scmp, fun hi => ?br, fun hi => ?jmp, fun hi => ?call⟩
  case smov => exact retires_of_scalarOp h hi rfl (by simp)
  case smovi => exact retires_of_scalarOp h hi rfl (by rw [ofNat_low64, i.ofInt_imm])
  case smovhi => exact retires_of_scalarOp h hi rfl (by rw [i.sa_eq, ofNat_setHigh _ (wImm_lt _)])
  case sadd => exact retires_of_scalarOp h hi rfl (by simp [BitVec.ofNat_add])
  case saddi => exact retires_of_scalarOp h hi rfl (by simp [BitVec.ofInt_add, i.ofInt_imm])
  case ssub => exact retires_of_scalarOp h hi rfl (by simp [ofInt_toNat_sub])
  case sand => exact retires_of_scalarOp h hi rfl (by simp [BitVec.ofNat_and])
  case sor => exact retires_of_scalarOp h hi rfl (by simp [BitVec.ofNat_or])
  case sxor => exact retires_of_scalarOp h hi rfl (by simp [BitVec.ofNat_xor])
  case sandn => exact retires_of_scalarOp h hi rfl (by rw [i.sa_eq, i.sb_eq, ofNat_and_compl])
  case sshl => exact retires_of_scalarOp h hi rfl (by rw [i.sa_eq, i.sb_eq, ofNat_mul_two_pow])
  case sshr => exact retires_of_scalarOp h hi rfl (by rw [i.sa_eq, i.sb_eq, ofNat_div_two_pow])
  case ssar => exact retires_of_scalarOp h hi rfl (by rw [ofNat_low64, i.sa_eq, i.sb_eq, toS_toNat, ofInt_div_two_pow])
  case smul => exact retires_of_scalarOp h hi rfl (by simp [BitVec.ofNat_mul])
  case spopc => exact retires_of_scalarOp h hi rfl (by rw [i.sa_eq, popCount_toNat])
  case sff1 =>
    obtain ⟨hle, hbelow, hset⟩ := ff1_lowest i.opSA
    exact ⟨_, hle, hbelow, hset, retires_of_scalarOp h hi rfl (by rw [i.sa_eq])⟩
  case sexecGet => exact retires_of_scalarOp h hi rfl (by simp)
  case sexecSet => exact retires_of_ret h hi rfl (by simp)
  case srd => exact retires_of_scalarOp h hi rfl rfl
  case sflrd => exact retires_of_scalarOp h hi rfl (BitVec.ofNat_toNat ..)
  case scmp => exact retires_of_scalarOp h hi rfl (by rw [i.sa_eq, i.sb_eq, i.condHolds_eq, ofNat_b2n])
  case br => exact execBr_retires h hi
  case jmp => exact retires_of_ret h hi rfl (by simp)
  case call => exact retires_of_ret h hi rfl (by rw [Group.sset_eq, i.branch_eq, BitVec.ofNat_toNat, BitVec.setWidth_eq])

/-- Settles O15: operand B and the lane read are the same numbers in the body and in the clause. -/
theorem crossLaneInstructions : Obligations.CrossLaneInstructions := by
  intro s r i h
  refine ⟨fun hi => ?vshfl, fun hi => ?vrdlane⟩
  case vshfl => exact retires_of_ret h hi rfl (by simp [Group.vset_eq, Issue.b_eq])
  case vrdlane => exact retires_of_ret h hi rfl (by rw [Group.sset_eq, Group.vat_eq, Group.sget_eq, BitVec.ofNat_toNat])

end Sys2Proof.Machine
end

section
/-!
PROOFS. The tile layout of R437, read and written, and the element of a product tile (R442): a tile element is a bit field of one thread's
register, `putTile` leaves each register its own word of the tile, and a product tile is its rows laid end to end.
-/
namespace Sys2Proof.Machine

/-! ### Reading a tile -/

/-- A tile element is the bit field of its format's width that the column gives it (R437). -/
theorem Group.tileAt_eq_extractLsb' (g : Group) (base fmt row col : Nat) : g.tileAt base fmt row col =
    ((g.vreg (base + col % 16 / (32 / fmtBits fmt)) (2 * row + col / 16)).extractLsb'
      (fmtBits fmt * (col % 16 % (32 / fmtBits fmt))) (fmtBits fmt)).toNat := by
  rw [BitVec.extractLsb'_toNat, Nat.shiftRight_eq_div_pow]
  rfl

theorem Group.tileAt_f32 (g : Group) (base m n : Nat) : g.tileAt base 0 m n = (g.vreg (base + n % 16) (2 * m + n / 16)).toNat := by
  rw [g.tileAt_eq_extractLsb']
  simp [fmtBits, Nat.mod_one]

theorem Group.tileAt_f16 (g : Group) (base m n : Nat) :
    g.tileAt base 1 m n = ((g.vreg (base + n % 16 / 2) (2 * m + n / 16)).extractLsb' (16 * (n % 2)) 16).toNat := by
  rw [g.tileAt_eq_extractLsb', ← Nat.mod_mod_of_dvd n (by decide : 2 ∣ 16)]
  rfl

theorem Group.tileAt_byte (g : Group) (base m n : Nat) {fmt : Nat} (hf : fmt = 2 ∨ fmt = 3) :
    g.tileAt base fmt m n = ((g.vreg (base + n % 16 / 4) (2 * m + n / 16)).extractLsb' (8 * (n % 4)) 8).toNat := by
  rw [g.tileAt_eq_extractLsb', ← Nat.mod_mod_of_dvd n (by decide : 4 ∣ 16)]
  rcases hf with rfl | rfl <;> rfl

theorem Group.tileAt_q4 (g : Group) (base m n : Nat) :
    g.tileAt base 4 m n = ((g.vreg (base + n % 16 / 8) (2 * m + n / 16)).extractLsb' (4 * (n % 8)) 4).toNat := by
  rw [g.tileAt_eq_extractLsb', ← Nat.mod_mod_of_dvd n (by decide : 8 ∣ 16)]
  rfl

/-! ### Writing a tile -/

theorem Group.vreg_vsetAll_self (g : Group) (n : Nat) (f : Nat → Nat) {t : Nat} (ht : t < 64) :
    (g.vsetAll n f).vreg n t = BitVec.ofNat 32 (f t) := by
  simp [Group.vreg, Group.vsetAll, ht]

theorem Group.vreg_vsetAll_of_ne (g : Group) {n k : Nat} (f : Nat → Nat) (t : Nat) (hk : k ≠ n) : (g.vsetAll n f).vreg k t = g.vreg k t := by
  simp [Group.vreg, Group.vsetAll, mapGetD_mapSet_of_ne _ _ _ hk]

/-- Write the first `c` registers from a base, all 64 threads of each. -/
def Group.vsetRun (g : Group) (base c : Nat) (f : Nat → Nat → Nat) : Group :=
  (List.range c).foldl (fun g j => g.vsetAll (base + j) (f j)) g

theorem Group.vsetRun_succ (g : Group) (base c : Nat) (f : Nat → Nat → Nat) :
    g.vsetRun base (c + 1) f = (g.vsetRun base c f).vsetAll (base + c) (f c) := by
  simp [Group.vsetRun, List.range_succ]

theorem Group.vreg_vsetRun_of_outside (g : Group) {base c k : Nat} (f : Nat → Nat → Nat) (t : Nat) (hk : k < base ∨ base + c ≤ k) :
    (g.vsetRun base c f).vreg k t = g.vreg k t := by
  induction c with
  | zero => rfl
  | succ c ih => rw [Group.vsetRun_succ, Group.vreg_vsetAll_of_ne _ _ _ (by omega), ih (by omega)]

theorem Group.vreg_vsetRun_of_lt (g : Group) {base c j t : Nat} (f : Nat → Nat → Nat) (hj : j < c) (ht : t < 64) :
    (g.vsetRun base c f).vreg (base + j) t = BitVec.ofNat 32 (f j t) := by
  induction c with
  | zero => omega
  | succ c ih =>
    rw [Group.vsetRun_succ]
    by_cases h : j = c
    · rw [h, Group.vreg_vsetAll_self _ _ _ ht]
    · rw [Group.vreg_vsetAll_of_ne _ _ _ (by omega), ih (by omega)]

/-- The word that an F32 or F16 tile has in a thread of its `j`-th register (R437). -/
def tileWord (fmt : Nat) (els : List Nat) (j t : Nat) : Nat :=
  let el (c : Nat) : Nat := els.getD (t / 2 * 32 + 16 * (t % 2) + c) 0
  if fmt = 0 then el j else el (2 * j) + el (2 * j + 1) * 2 ^ 16

theorem Group.putTile_eq_vsetRun (g : Group) (base fmt : Nat) (els : List Nat) :
    g.putTile base fmt els = g.vsetRun base (tileRegs fmt) (tileWord fmt els) := rfl

theorem Group.vreg_putTile (g : Group) (base : Nat) {fmt j t : Nat} (els : List Nat) (hj : j < tileRegs fmt) (ht : t < 64) :
    (g.putTile base fmt els).vreg (base + j) t = BitVec.ofNat 32 (tileWord fmt els j t) :=
  g.vreg_vsetRun_of_lt _ hj ht

theorem Group.vreg_putTile_of_outside (g : Group) {base fmt k : Nat} (els : List Nat) (t : Nat) (hk : k < base ∨ base + tileRegs fmt ≤ k) :
    (g.putTile base fmt els).vreg k t = g.vreg k t :=
  g.vreg_vsetRun_of_outside _ t hk

/-- Column `n` is the `n % 16`-th of the thread that holds it. -/
theorem tile_index (m n : Nat) :
    (2 * m + n / 16) / 2 * 32 + 16 * ((2 * m + n / 16) % 2) + n % 16 = 32 * m + n := by omega

theorem getD_lt_of_forall_mem {els : List Nat} {b : Nat} (hb : 0 < b) (h : ∀ e ∈ els, e < b) (i : Nat) : els.getD i 0 < b := by
  rw [List.getD_eq_getElem?_getD]
  cases he : els[i]? with
  | none => exact hb
  | some e => exact h e (List.mem_of_getElem? he)

theorem Group.tileAt_putTile_f32 (g : Group) (base : Nat) {m n : Nat} (hm : m < 32) (hn : n < 32) {els : List Nat}
    (h : ∀ e ∈ els, e < 2 ^ 32) : (g.putTile base 0 els).tileAt base 0 m n = els.getD (32 * m + n) 0 := by
  have hlt := getD_lt_of_forall_mem (by decide) h (32 * m + n)
  have hword : tileWord 0 els (n % 16) (2 * m + n / 16) = els.getD (32 * m + n) 0 := congrArg (els.getD · 0) (tile_index m n)
  rw [Group.tileAt_f32, Group.vreg_putTile _ _ _ (show n % 16 < 16 by omega) (by omega), hword,
    BitVec.toNat_ofNat, Nat.mod_eq_of_lt hlt]

/-- The half of a word of two 16-bit elements that a column's parity names is that column's element. -/
theorem extractLsb'_half (lo hi r : Nat) (hlo : lo < 2 ^ 16) (hhi : hi < 2 ^ 16) (hr : r < 2) :
    ((BitVec.ofNat 32 (lo + hi * 2 ^ 16)).extractLsb' (16 * r) 16).toNat = if r = 0 then lo else hi := by
  rw [BitVec.extractLsb'_toNat, Nat.shiftRight_eq_div_pow, BitVec.toNat_ofNat]
  obtain rfl | rfl : r = 0 ∨ r = 1 := by omega
  · simp only [if_true]; omega
  · simp only [one_ne_zero, if_false]; omega

theorem Group.tileAt_putTile_f16 (g : Group) (base : Nat) {m n : Nat} (hm : m < 32) (hn : n < 32) {els : List Nat}
    (h : ∀ e ∈ els, e < 2 ^ 16) : (g.putTile base 1 els).tileAt base 1 m n = els.getD (32 * m + n) 0 := by
  have hlt := getD_lt_of_forall_mem (by decide) h
  rw [Group.tileAt_f16, Group.vreg_putTile _ _ _ (show n % 16 / 2 < 8 by omega) (by omega)]
  refine (extractLsb'_half _ _ _ (hlt _) (hlt _) (by omega)).trans ?_
  have hi := tile_index m n
  split <;> exact congrArg (els.getD · 0) (by omega)

/-! ### The product tile -/

/-- Rows of one length laid end to end hold element `n` of row `m` at `c * m + n`. -/
theorem getElem?_flatMap_of_length {α β : Type} {f : α → List β} {c n : Nat} (hf : ∀ x, (f x).length = c) (hn : n < c) (l : List α) (m : Nat) :
    (l.flatMap f)[c * m + n]? = l[m]?.bind fun x => (f x)[n]? := by
  induction l generalizing m with
  | nil => simp
  | cons x xs ih =>
    rw [List.flatMap_cons]
    cases m with
    | zero => simp [List.getElem?_append_left, hf, hn]
    | succ m =>
      rw [List.getElem?_append_right (by rw [hf, Nat.mul_succ]; omega), hf, List.getElem?_cons_succ, ← ih m,
        show c * (m + 1) + n - c = c * m + n by rw [Nat.mul_succ]; omega]

theorem rowAt_eq_map {a : List Nat} {m : Nat} (hm : 32 * m + 32 ≤ a.length) : rowAt a m = (List.range 32).map fun k => a.getD (32 * m + k) 0 := by
  apply List.ext_getElem
  · simp [rowAt]; omega
  · intro k hk _
    have hk : 32 * m + k < a.length := by simp [rowAt] at hk; omega
    simp [rowAt, hk]

/-- The chain of R442 over a row and a column, in ascending `k`. -/
theorem dotChain_rowAt_colAt {a : List Nat} {m : Nat} (hm : 32 * m + 32 ≤ a.length) (w : List Nat) (n : Nat) :
    dotChain (rowAt a m) (colAt w n) =
      (List.range 32).foldl (fun s k => (ffma 0 rne (a.getD (32 * m + k) 0) (w.getD (32 * k + n) 0) s).1) 0 := by
  rw [rowAt_eq_map hm, dotChain, colAt, List.zip_map', List.foldl_map]

theorem tileProduct_getD (a w : List Nat) {m n : Nat} (hm : m < 32) (hn : n < 32) :
    (tileProduct a w).getD (32 * m + n) 0 = dotChain (rowAt a m) (colAt w n) := by
  rw [tileProduct, List.getD_eq_getElem?_getD, getElem?_flatMap_of_length (by simp) hn]
  simp [hm, hn]

/-! ### The obligation -/

/-- Settles O25: the bit field of each format, the word `putTile` leaves in each register, and the rows of the product laid end to end. -/
theorem tileLayoutAndProduct : Obligations.TileLayoutAndProduct := by
  intro g base m n hm hn
  exact ⟨g.tileAt_f32 base m n, g.tileAt_f16 base m n, fun _ hf => g.tileAt_byte base m n hf, g.tileAt_q4 base m n,
    fun _ h => g.tileAt_putTile_f32 base hm hn h, fun _ h => g.tileAt_putTile_f16 base hm hn h,
    fun els _ t hk => g.vreg_putTile_of_outside (fmt := 0) els t hk, fun els _ t hk => g.vreg_putTile_of_outside (fmt := 1) els t hk,
    fun a w ha _ => (tileProduct_getD a w hm hn).trans (dotChain_rowAt_colAt (by omega) w n)⟩

end Sys2Proof.Machine
end

section
/-!
PROOFS. A unit's view of the Depot (R537, R538): which line and which copy a look-up finds after an update, and the bytes each unit sees
after a store in Service.
-/
namespace Sys2Proof.Machine

/-! ### Look-ups after an update -/

/-- Replacing what has one key: a look-up of that key finds the replacement, one of another key finds what it found. -/
theorem find?_map_replace {α β : Type} [BEq β] [LawfulBEq β] (key : α → β) (v : α) (k : β) (l : List α) :
    (l.map fun x => if key x == key v then v else x).find? (key · == k) =
      if key v == k then (l.find? (key · == k)).map fun _ => v else l.find? (key · == k) := by
  have hkey : ((key · == k) ∘ fun x => if key x == key v then v else x) = (key · == k) := by
    funext x
    by_cases hx : key x = key v <;> simp [hx]
  rw [List.find?_map, hkey]
  cases h : l.find? (key · == k) with
  | none => split <;> rfl
  | some x =>
    have hx : key x = k := by simpa using List.find?_some h
    by_cases hv : key v = k
    · simp [hx, hv]
    · simp [hx, hv, Ne.symm hv]

theorem Depot.find?_putLine (d : Depot) (l : DLine) (a : PA) :
    (d.putLine l).lines.find? (·.pa == a) = if l.pa = a then some l else d.lines.find? (·.pa == a) := by
  unfold Depot.putLine
  cases hl : d.lines.any (·.pa == l.pa) with
  | true =>
    rw [if_pos rfl]
    simp only [find?_map_replace DLine.pa l a]
    simp only [beq_iff_eq]
    split
    · next ha =>
      subst ha
      obtain ⟨x, hx⟩ := Option.isSome_iff_exists.mp (List.find?_isSome.mpr (List.any_eq_true.mp hl))
      rw [hx]; rfl
    · rfl
  | false =>
    simp only [Bool.false_eq_true, if_false, List.find?_cons]
    split <;> simp_all

theorem State.dline_putLine (s : State) (l : DLine) (p : PA) :
    (s.mDepot (·.putLine l)).dline p = if l.pa = p.line then l else s.dline p := by
  simp only [State.dline, State.dline?, State.mDepot_depot, Depot.find?_putLine]
  split <;> rfl

@[simp] theorem State.dline_pa (s : State) (p : PA) : (s.dline p).pa = p.line := by
  unfold State.dline
  cases h : s.dline? p with
  | none => rfl
  | some l => simpa using List.find?_some h

theorem State.dline_congr (s : State) {p q : PA} (h : p.line = q.line) : s.dline p = s.dline q := by
  unfold State.dline State.dline?
  rw [h]

theorem PA.line_eq_iff {p q : PA} : p.line = q.line ↔ p.space = q.space ∧ p.addr / 128 = q.addr / 128 := by
  simp only [PA.line, PA.mk.injEq]
  refine and_congr_right fun _ => ?_
  omega

theorem DLine.unit_of_prov? {l : DLine} {u : CUnit} {v : Prov} (h : l.prov? u = some v) : v.unit = u := by
  simpa using List.find?_some h

/-- A line with a copy put in place of its unit's old one, or beside the other units' copies. -/
def DLine.putProv (l : DLine) (u : CUnit) (v : Prov) (stream : Bool) : DLine :=
  { l with
    provs := if (l.prov? u).isSome then l.provs.map (fun x => if x.unit == u then v else x) else l.provs ++ [v]
    stream := stream }

theorem DLine.putProv_prov? (l : DLine) {u : CUnit} {v : Prov} (hv : v.unit = u) (stream : Bool) (w : CUnit) :
    (l.putProv u v stream).prov? w = if u = w then some v else l.prov? w := by
  subst hv
  unfold DLine.putProv DLine.prov?
  cases hv : l.provs.find? (·.unit == v.unit) with
  | some x =>
    rw [Option.isSome_some, if_pos rfl]
    simp only [find?_map_replace Prov.unit v w]
    simp only [beq_iff_eq]
    split
    · next hw => subst hw; rw [hv]; rfl
    · rfl
  | none =>
    simp only [Option.isSome_none, Bool.false_eq_true, if_false, List.find?_append]
    split
    · next hw => subst hw; simp [hv]
    · next hw => simp [hw]

/-! ### Laying bytes over others -/

theorem length_padTo (n : Nat) (bs : List Byte) : (padTo n bs).length = n := by
  simp only [padTo, List.length_append, List.length_take, List.length_replicate]
  omega

/-- Padding adds zeros, which is what a string reads past its end. -/
theorem getD_padTo_of_lt {n k : Nat} (h : k < n) (bs : List Byte) : (padTo n bs).getD k 0 = bs.getD k 0 := by
  have hlen : (bs.take n).length = min n bs.length := List.length_take
  rw [padTo]
  rcases Nat.lt_or_ge k bs.length with hb | hb
  · rw [List.getD_append _ _ _ _ (by omega), List.getD_eq_getElem?_getD, List.getElem?_take_of_lt h, List.getD_eq_getElem?_getD]
  · rw [List.getD_append_right _ _ _ _ (by omega), List.getD_eq_default _ _ hb, List.getD_eq_getElem?_getD, List.getElem?_replicate]
    split <;> rfl

theorem getD_overlay (bs new : List Byte) (off k : Nat) :
    (overlay bs off new).getD k 0 = if off ≤ k ∧ k < off + new.length then new.getD (k - off) 0 else bs.getD k 0 := by
  have hpad := length_padTo off bs
  rw [overlay, List.append_assoc]
  rcases Nat.lt_or_ge k off with hlt | hge
  · rw [List.getD_append _ _ _ _ (by omega), if_neg (by omega), getD_padTo_of_lt hlt]
  · rw [List.getD_append_right _ _ _ _ (by omega), hpad]
    rcases Nat.lt_or_ge k (off + new.length) with hn | hn
    · rw [List.getD_append _ _ _ _ (by omega), if_pos ⟨hge, hn⟩]
    · rw [List.getD_append_right _ _ _ _ (by omega), if_neg (by omega), List.getD_eq_getElem?_getD, List.getElem?_drop,
        List.getD_eq_getElem?_getD, show off + new.length + (k - off - new.length) = k by omega]

/-! ### What a unit sees -/

/-- The byte of a place that a unit sees in a line, with memory under it (R538). -/
def DLine.byte (l : DLine) (m : Mem) (u : CUnit) (p : PA) : Byte :=
  match l.prov? u with
  | some v => v.data.getD (p.addr % 128) 0
  | none => if l.data.isEmpty then cellGet (m.cells p.space) p.addr else l.data.getD (p.addr % 128) 0

/-- R538 over the line of a place, an empty one where the Depot holds none. -/
theorem State.viewByte_eq_byte (s : State) (u : CUnit) (p : PA) : s.viewByte u p = (s.dline p).byte s.mem u p := by
  unfold State.viewByte State.dline
  cases s.dline? p <;> rfl

theorem State.viewByte_putLine (s : State) (l : DLine) (u : CUnit) (p : PA) :
    (s.mDepot (·.putLine l)).viewByte u p = if l.pa = p.line then l.byte s.mem u p else s.viewByte u p := by
  rw [State.viewByte_eq_byte, State.dline_putLine, State.viewByte_eq_byte]
  split <;> rfl

theorem DLine.byte_of_prov? {l : DLine} {u : CUnit} {v : Prov} (h : l.prov? u = some v) (m : Mem) (p : PA) :
    l.byte m u p = v.data.getD (p.addr % 128) 0 := by
  unfold DLine.byte
  rw [h]

theorem DLine.putProv_byte (l : DLine) {u : CUnit} {v : Prov} (hv : v.unit = u) (stream : Bool) (m : Mem) (w : CUnit) (p : PA) :
    (l.putProv u v stream).byte m w p = if u = w then v.data.getD (p.addr % 128) 0 else l.byte m w p := by
  unfold DLine.byte
  rw [l.putProv_prov? hv]
  by_cases hw : u = w
  · rw [if_pos hw, if_pos hw]
  · rw [if_neg hw, if_neg hw]
    rfl

/-- The view of a whole line, byte by byte. -/
theorem State.getD_view_line (s : State) (u : CUnit) {p q : PA} (h : p.line = q.line) :
    (s.view u p.line 128).getD (q.addr % 128) 0 = s.viewByte u q := by
  have hlt : q.addr % 128 < 128 := Nat.mod_lt _ (by decide)
  have hq : q.line.plus (q.addr % 128) = q := by
    simp only [PA.line, PA.plus]
    rw [Nat.sub_add_cancel (Nat.mod_le ..)]
  rw [h, State.view, List.getD_eq_getElem?_getD, List.getElem?_map, List.getElem?_range hlt]
  exact congrArg (s.viewByte u) hq

/-! ### A store in Service -/

/-- A unit as a command or a provisional copy gives it: with a waybill the command counts for nothing. -/
def CUnit.Canonical (u : CUnit) : Prop := (u.1, if u.1.isSome then 0 else u.2) = u

theorem canonical_unitOf (cid : Nat) (c : Cmd) : CUnit.Canonical (unitOf cid c) := by
  unfold CUnit.Canonical unitOf
  cases c.waybill <;> rfl

/-- The copy that a store starts from: the unit's own, or a new one of the bytes the unit sees (R537). -/
def State.provBase (s : State) (u : CUnit) (p : PA) : Prov :=
  ((s.dline p).prov? u).getD { waybill := u.1, cid := u.2, data := s.view u p.line 128, poison := s.viewPoisoned u p.line 128 }

theorem State.provBase_unit (s : State) {u : CUnit} (hu : u.Canonical) (p : PA) : (s.provBase u p).unit = u := by
  unfold State.provBase
  cases h : (s.dline p).prov? u with
  | none => exact hu
  | some v => exact DLine.unit_of_prov? h

theorem State.getD_provBase (s : State) (u : CUnit) {p q : PA} (h : p.line = q.line) :
    (s.provBase u p).data.getD (q.addr % 128) 0 = s.viewByte u q := by
  unfold State.provBase
  cases hv : (s.dline p).prov? u with
  | none => exact s.getD_view_line u h
  | some v => rw [s.viewByte_eq_byte, ← s.dline_congr h, DLine.byte_of_prov? hv]; rfl

/-- A store of a piece puts one copy into the piece's line: the unit's, with the piece laid over what the unit saw. -/
theorem State.storeProv_eq_putLine (s : State) {u : CUnit} (hu : u.Canonical) (p : PA) (bs : List Byte) (atomic poisoned through stream : Bool) :
    ∃ (v : Prov) (st : Bool), s.storeProv u (p.addr, bs) p.space atomic poisoned through stream =
        s.mDepot (·.putLine ((s.dline p).putProv u v st)) ∧
      v.unit = u ∧ v.data = overlay (s.provBase u p).data (p.addr % 128) bs :=
  ⟨{ s.provBase u p with
    data := overlay (s.provBase u p).data (p.addr % 128) bs, atomic := (s.provBase u p).atomic || atomic
    poison := (s.provBase u p).poison || poisoned, written := false, spilled := false
    through := (s.provBase u p).through || through }, (s.dline p).stream || stream, rfl, s.provBase_unit hu p, rfl⟩

/-- Storing one piece changes the bytes of the piece as its unit sees them, and nothing else that any unit sees. -/
theorem State.viewByte_storeProv (s : State) {u : CUnit} (hu : u.Canonical) (p : PA) (bs : List Byte) (atomic poisoned through stream : Bool)
    (hfit : p.addr % 128 + bs.length ≤ 128) (w : CUnit) (q : PA) :
    (s.storeProv u (p.addr, bs) p.space atomic poisoned through stream).viewByte w q =
      if w = u ∧ q.space = p.space ∧ p.addr ≤ q.addr ∧ q.addr < p.addr + bs.length then bs.getD (q.addr - p.addr) 0 else s.viewByte w q := by
  obtain ⟨v, st, hstore, hunit, hdata⟩ := s.storeProv_eq_putLine hu p bs atomic poisoned through stream
  rw [hstore, State.viewByte_putLine, show ((s.dline p).putProv u v st).pa = p.line from s.dline_pa p]
  by_cases hq : p.line = q.line
  · obtain ⟨hspace, haddr⟩ := PA.line_eq_iff.mp hq
    rw [if_pos hq, DLine.putProv_byte _ hunit, hdata, getD_overlay, s.getD_provBase u hq]
    by_cases hw : u = w
    · subst hw
      have hin : (p.addr % 128 ≤ q.addr % 128 ∧ q.addr % 128 < p.addr % 128 + bs.length) ↔
          p.addr ≤ q.addr ∧ q.addr < p.addr + bs.length := by omega
      have hoff : p.addr ≤ q.addr → q.addr % 128 - p.addr % 128 = q.addr - p.addr := by omega
      simp only [hin, hspace, true_and, if_true]
      split
      · next h => rw [hoff h.1]
      · rfl
    · rw [if_neg hw, if_neg fun h => hw h.1.symm, s.viewByte_eq_byte, s.dline_congr hq]
  · rw [if_neg hq, if_neg]
    rintro ⟨-, hspace, hlo, hhi⟩
    exact hq (PA.line_eq_iff.mpr ⟨hspace.symm, by omega⟩)

/-- Storing bytes piece by piece changes those bytes as the unit sees them, and nothing else that any unit sees. -/
theorem viewByte_storeProv_pieces {u : CUnit} (hu : u.Canonical) (sp : Space) (atomic poisoned through stream : Bool) (w : CUnit) (q : PA)
    (k a : Nat) (bs : List Byte) (s : State) (hk : bs.length ≤ k) :
    ((pieces k a bs).foldl (fun s x => s.storeProv u x sp atomic poisoned through stream) s).viewByte w q =
      if w = u ∧ q.space = sp ∧ a ≤ q.addr ∧ q.addr < a + bs.length then bs.getD (q.addr - a) 0 else s.viewByte w q := by
  induction k generalizing a bs s with
  | zero => rw [if_neg (by omega)]; rfl
  | succ k ih =>
    unfold pieces
    split
    · next he => rw [List.isEmpty_iff.mp he, if_neg (by simp only [List.length_nil]; omega)]; rfl
    · generalize hn : 128 - a % 128 = n
      have hpiece := s.viewByte_storeProv hu ⟨sp, a⟩ (bs.take n) atomic poisoned through stream
        (by simp only [List.length_take]; omega) w q
      simp only [List.foldl_cons, ih _ _ _ (show (bs.drop n).length ≤ k by simp only [List.length_drop]; omega), hpiece,
        List.length_drop, List.length_take, List.getD_eq_getElem?_getD, List.getElem?_drop, List.getElem?_take]
      by_cases hwq : w = u ∧ q.space = sp
      · simp only [hwq, true_and]
        rcases Nat.lt_or_ge q.addr (a + n) with hlt | hge
        · rw [if_neg (by omega), if_pos (show q.addr - a < n by omega)]
          exact if_congr (by omega) rfl rfl
        · rw [if_neg (by omega : ¬(a ≤ q.addr ∧ q.addr < a + min n bs.length)), show n + (q.addr - (a + n)) = q.addr - a by omega]
          exact if_congr (by omega) rfl rfl
      · simp only [← and_assoc, hwq, false_and, if_false]

theorem storeProv_mem (s : State) (u : CUnit) (a : Nat × List Byte) (sp : Space) (atomic poisoned through stream : Bool) :
    (s.storeProv u a sp atomic poisoned through stream).mem = s.mem := rfl

theorem State.store_of_service {s : State} (hdev : s.dev = .service) {attr : Nat} (hwc : attr ≠ 2) (huc : attr ≠ 3) (u : CUnit)
    (ctx : Option Nat) (p : PA) (bs : List Byte) (atomic poisoned : Bool) :
    s.store u ctx attr p bs atomic poisoned = (Machine.pieces bs.length p.addr bs).foldl
      (fun s a => s.storeProv u a p.space atomic poisoned (attr == 1) (attr == 4)) s := by
  unfold State.store
  rw [if_neg (by simp [hwc, huc]), if_pos (by rw [hdev]; rfl)]

/-! ### The obligation -/

/-- Settles O41: a store in Service is its pieces put into copies of the unit (R537), and each piece changes its own bytes of the unit's view only. -/
theorem provisionalCopiesAreIsolated : Obligations.ProvisionalCopiesAreIsolated := by
  refine ⟨fun s u p => ?load, ?store⟩
  case load =>
    unfold State.viewByte
    cases s.dline? p with
    | none => rfl
    | some l =>
      dsimp only
      cases l.prov? u with
      | some v => rfl
      | none => exact if_congr List.isEmpty_iff rfl rfl
  case store =>
    rintro s t cid c u ctx attr p bs poisoned hdev rfl hwc huc rfl
    have hview := fun w q => viewByte_storeProv_pieces (canonical_unitOf cid c) p.space false poisoned (attr == 1) (attr == 4) w q
      bs.length p.addr bs s le_rfl
    rw [State.store_of_service hdev hwc huc]
    refine ⟨fun q => ?_, fun v q hv => ?_, foldl_mem _ (fun s a => storeProv_mem ..) _ s⟩
    · rw [hview]; simp only [true_and]
    · rw [hview, if_neg fun h => hv h.1]

end Sys2Proof.Machine
end

section
/-!
PROOFS. Commit and discard (R539 to R541): the copies a line keeps, the lines of the Depot that hold no copy of a unit, and what a kill and a
teardown leave of the units they end.
-/
namespace Sys2Proof.Machine

/-! ### One line -/

/-- Without the copies of one unit the copies of the others are found as before. -/
theorem find?_filter_unit (provs : List Prov) (u w : CUnit) :
    (provs.filter (·.unit != u)).find? (·.unit == w) = if w = u then none else provs.find? (·.unit == w) := by
  rw [List.find?_filter]
  split
  · next h => subst h; simp
  · next h =>
    refine congrArg (List.find? · provs) (funext fun x => ?_)
    by_cases hx : x.unit = w <;> simp [hx, h]

theorem DLine.commit_of_none {l : DLine} {u : CUnit} (h : l.prov? u = none) (ctx : Option Nat) : l.commit u ctx = l := by
  unfold DLine.commit
  rw [h]

theorem DLine.discard_of_none {l : DLine} {u : CUnit} (h : l.prov? u = none) : l.discard u = l := by
  unfold DLine.discard
  rw [h]

theorem DLine.commit_of_some {l : DLine} {u : CUnit} {v : Prov} (h : l.prov? u = some v) (ctx : Option Nat) : l.commit u ctx =
    if v.written then { l with data := [], dirty := false, spilled := false, provs := l.provs.filter (·.unit != u) }
    else { l with
      data := v.data, dirty := true, owner := ctx, poison := v.poison, spilled := v.spilled, provs := l.provs.filter (·.unit != u) } := by
  unfold DLine.commit
  rw [h]

theorem DLine.discard_of_some {l : DLine} {u : CUnit} {v : Prov} (h : l.prov? u = some v) : l.discard u =
    if v.written then { l with data := [], dirty := false, spilled := false, provs := l.provs.filter (·.unit != u) }
    else { l with provs := l.provs.filter (·.unit != u) } := by
  unfold DLine.discard
  rw [h]

/-- A commit takes the unit's copy out of the line and leaves the others'. -/
theorem DLine.commit_prov? (l : DLine) (u w : CUnit) (ctx : Option Nat) :
    (l.commit u ctx).prov? w = if w = u then none else l.prov? w := by
  cases h : l.prov? u with
  | none =>
    rw [DLine.commit_of_none h]
    split
    · next hw => rw [hw, h]
    · rfl
  | some v =>
    rw [DLine.commit_of_some h]
    split <;> exact find?_filter_unit ..

/-- A discard takes the unit's copy out of the line and leaves the others'. -/
theorem DLine.discard_prov? (l : DLine) (u w : CUnit) : (l.discard u).prov? w = if w = u then none else l.prov? w := by
  cases h : l.prov? u with
  | none =>
    rw [DLine.discard_of_none h]
    split
    · next hw => rw [hw, h]
    · rfl
  | some v =>
    rw [DLine.discard_of_some h]
    split <;> exact find?_filter_unit ..

@[simp] theorem DLine.commit_pa (l : DLine) (u : CUnit) (ctx : Option Nat) : (l.commit u ctx).pa = l.pa := by
  cases h : l.prov? u with
  | none => rw [DLine.commit_of_none h]
  | some v => rw [DLine.commit_of_some h]; split <;> rfl

@[simp] theorem DLine.discard_pa (l : DLine) (u : CUnit) : (l.discard u).pa = l.pa := by
  cases h : l.prov? u with
  | none => rw [DLine.discard_of_none h]
  | some v => rw [DLine.discard_of_some h]; split <;> rfl

/-! ### The Depot -/

/-- A commit that has no copy of a WT page to write through changes the lines only (R526). -/
theorem State.commitUnit_of_no_through (s : State) (u : CUnit) (ctx : Option Nat)
    (h : ∀ l ∈ s.depot.lines, ∀ v, l.prov? u = some v → v.through = false ∨ v.written = true) :
    s.commitUnit u ctx = s.mDepot fun d => Depot.tidy { d with lines := d.lines.map fun l => l.commit u ctx } := by
  unfold State.commitUnit
  rw [show s.depot.lines.filter _ = [] from List.filter_eq_nil_iff.mpr ?_]
  · simp
  · intro l hl
    cases hv : l.prov? u with
    | none => simp
    | some v => rcases h l hl v hv with ht | ht <;> simp [ht]

/-- No line of the Depot holds a copy of a unit. -/
def State.NoCopy (s : State) (u : CUnit) : Prop := ∀ l ∈ s.depot.lines, l.prov? u = none

theorem State.mem_discardUnit {s : State} {u : CUnit} {l : DLine} (h : l ∈ (s.discardUnit u).depot.lines) :
    ∃ l₀ ∈ s.depot.lines, l₀.discard u = l :=
  List.mem_map.mp (List.mem_of_mem_filter h)

theorem State.noCopy_discardUnit (s : State) (u : CUnit) : (s.discardUnit u).NoCopy u := by
  intro l hl
  obtain ⟨l₀, -, rfl⟩ := State.mem_discardUnit hl
  rw [DLine.discard_prov?, if_pos rfl]

theorem State.NoCopy.discardUnit {s : State} {w : CUnit} (h : s.NoCopy w) (u : CUnit) : (s.discardUnit u).NoCopy w := by
  intro l hl
  obtain ⟨l₀, hl₀, rfl⟩ := State.mem_discardUnit hl
  rw [DLine.discard_prov?, h l₀ hl₀, ite_self]

/-- Discarding one unit after another leaves no copy of any of them. -/
theorem State.noCopy_foldl_discardUnit {α : Type} (unit : α → CUnit) (xs : List α) (s : State) {u : CUnit}
    (h : s.NoCopy u ∨ ∃ x ∈ xs, unit x = u) : (xs.foldl (fun s x => s.discardUnit (unit x)) s).NoCopy u := by
  induction xs generalizing s with
  | nil => simpa using h
  | cons x t ih =>
    refine ih _ ?_
    rcases h with h | ⟨y, hy, rfl⟩
    · exact .inl (h.discardUnit _)
    · rcases List.mem_cons.mp hy with rfl | hy
      · exact .inl (s.noCopy_discardUnit _)
      · exact .inr ⟨y, hy, rfl⟩

/-! ### A killed command leaves the Ledger as it is -/

@[simp] theorem State.count_ldg (s : State) (e n : Nat) (c : Option Nat) (k m : Nat) : (s.count e n c k m).ldg = s.ldg := rfl

@[simp] theorem State.trace_ldg (s : State) (k d : Nat) (c : Option Nat) (id : BitVec 32) (p : Nat) : (s.trace k d c id p).ldg = s.ldg := rfl

@[simp] theorem State.eraseCmd_ldg (s : State) (cid : Nat) : (s.eraseCmd cid).ldg = s.ldg := rfl

@[simp] theorem State.discardUnit_ldg (s : State) (u : CUnit) : (s.discardUnit u).ldg = s.ldg := rfl

@[simp] theorem State.sendFrame_ldg (s : State) (p : Nat) (f : Frame) : (s.sendFrame p f).ldg = s.ldg := by
  unfold State.sendFrame
  split <;> rfl

@[simp] theorem State.sendAbort_ldg (s : State) (o : ROp) (l : RLink) (reason : Nat) : (s.sendAbort o l reason).ldg = s.ldg := by
  unfold State.sendAbort
  split
  · exact sendFrame_ldg ..
  · rfl

@[simp] theorem State.leaveLink_ldg (s : State) (o : ROp) (l : RLink) (reason : Nat) : (s.leaveLink o l reason).ldg = s.ldg := by
  unfold State.leaveLink
  split
  · rfl
  · split
    · split <;> rfl
    · exact sendAbort_ldg ..

@[simp] theorem State.routeDrop_ldg (s : State) (cid : Nat) : (s.routeDrop cid).ldg = s.ldg :=
  foldl_proj State.ldg _ (fun _ _ => foldl_proj State.ldg _ (fun _ _ => leaveLink_ldg ..) _ _) _ s

@[simp] theorem State.dropWork_ldg (s : State) (cid : Nat) : (s.dropWork cid).ldg = s.ldg := s.routeDrop_ldg cid

@[simp] theorem State.killCmd_ldg (s : State) (cid cause : Nat) : (s.killCmd cid cause).ldg = s.ldg := by
  unfold State.killCmd
  split
  · rfl
  · dsimp only
    split <;> split <;> simp

theorem State.foldl_killCmd_ldg (cause : Nat) (cs : List (Nat × Cmd)) (s : State) :
    (cs.foldl (fun s p => (s.killCmd p.1 cause).eraseCmd p.1) s).ldg = s.ldg :=
  foldl_proj State.ldg _ (fun s p => (eraseCmd_ldg ..).trans (s.killCmd_ldg p.1 cause)) cs s

/-! ### Kills and teardowns -/

/-- A killed command that no waybill holds leaves no copy of its unit (R540). -/
theorem State.noCopy_killCmd {s : State} {cid : Nat} {c : Cmd} (h : s.cmd? cid = some c) (hw : c.waybill = none) (cause : Nat) :
    (s.killCmd cid cause).NoCopy (unitOf cid c) := by
  unfold State.killCmd
  rw [h]
  simp only [hw, Option.isSome_none, Bool.false_eq_true, if_false]
  exact noCopy_discardUnit _ _

/-- A teardown leaves no copy of a waybill of its context (R540). -/
theorem State.noCopy_teardown {s : State} {ctx : Nat} {x : Ctx} (h : s.ctx? ctx = some x) (hlive : x.dead = false) {p : Nat × Waybill}
    (hp : p ∈ s.ldg.wb) (hctx : p.2.ctx = ctx) : (s.teardown ctx).NoCopy (some p.1, 0) := by
  unfold State.teardown
  rw [h]
  simp only [hlive, Bool.false_eq_true, if_false]
  refine State.noCopy_foldl_discardUnit (fun p : Nat × Waybill => (some p.1, 0)) _ _
    (.inr ⟨p, List.mem_filter.mpr ⟨?_, by simp [hctx]⟩, rfl⟩)
  rw [State.foldl_killCmd_ldg]
  exact hp

/-! ### The obligation -/

/-- Settles O42: commit and discard take one unit's copy out of each line, and a kill or a teardown ends in the discards of its units. -/
theorem commitAndDiscard : Obligations.CommitAndDiscard := by
  refine ⟨fun l u ctx v hv => ?line, fun l u ctx hu => ⟨DLine.commit_of_none hu ctx, DLine.discard_of_none hu⟩,
    fun s u ctx h => s.commitUnit_of_no_through u ctx h, fun s u => rfl,
    fun s cid cause c hc hw => State.noCopy_killCmd hc hw cause, fun s ctx x hx hlive p hp hctx => State.noCopy_teardown hx hlive hp hctx⟩
  case line =>
    rw [DLine.commit_prov?, DLine.discard_prov?]
    refine ⟨fun hw => ?kept, fun hw => ?evicted, l.commit_pa u ctx, l.discard_pa u, if_pos rfl, if_pos rfl, fun w hne =>
      ⟨(l.commit_prov? u w ctx).trans (if_neg hne), (l.discard_prov? u w).trans (if_neg hne)⟩⟩
    case kept => simp [DLine.commit_of_some hv, DLine.discard_of_some hv, hw]
    case evicted => simp [DLine.commit_of_some hv, DLine.discard_of_some hv, hw]

end Sys2Proof.Machine
end

section
/-!
PROOFS. What the rows of memory, tables and Serais keep: every next state a row answers is kept from the state it was taken in
(`Keeps`). Each proof unfolds the row once and cites the laws of the operations it calls.
-/
namespace Sys2Proof.Machine

/-- Whatever next state an outcome answers, it is kept from `a`. -/
def OutKeeps (a : State) (o : Host.Outcome State Fault Refusal) : Prop := ∀ t, o = .next t → Keeps a t

theorem OutKeeps.next {a s : State} (h : Keeps a s) : OutKeeps a (.next s) := by
  rintro t ⟨⟩
  exact h

theorem OutKeeps.fault (a : State) (f : Fault) : OutKeeps a (.fault f) := by
  rintro t ⟨⟩

theorem Keeps.of_id {a s : State} (h : Keeps a s) : Keeps a (id s) := h

theorem State.mDebugGroups_keeps (s : State) (c : Cmd) (p : Group → Bool) (f : Group → Group) {a₀ : State} (hk : Keeps a₀ s) :
    Keeps a₀ (s.mDebugGroups c p f) := State.mHearths_keeps _ _ hk

section
variable {s a₀ : State} (hk : Keeps a₀ s)
include hk

/-! ### Machine/Collector.lean -/

theorem execHostSinkWrite_keeps : OutKeeps a₀ (execHostSinkWrite s) := by
  unfold execHostSinkWrite
  repeat' with_reducible first | assumption | apply OutKeeps.next | apply State.mFlt_keeps | apply State.sinkRecord_keeps | split

theorem execMsixHoldoffExpiry_keeps (fn vec : Nat) : OutKeeps a₀ (execMsixHoldoffExpiry fn vec s) := by
  unfold execMsixHoldoffExpiry
  dsimp only
  repeat' with_reducible first | assumption | apply OutKeeps.next | apply State.mLog_keeps | apply State.mFlt_keeps | apply State.msix_keeps | split

theorem execCoalesceFlush_keeps : OutKeeps a₀ (execCoalesceFlush s) := by
  unfold execCoalesceFlush
  repeat' with_reducible first
    | assumption | apply OutKeeps.next | intro _ | apply Keeps.foldl | apply State.flushCoal_keeps | apply State.mFlt_keeps

theorem execFaultReport_keeps (r : FaultRec) : OutKeeps a₀ (execFaultReport r s) := by
  unfold execFaultReport
  dsimp only
  repeat' with_reducible first | assumption | apply OutKeeps.next | apply State.raise_keeps | apply State.teardown_keeps | split

theorem execQuenchEntry_keeps : OutKeeps a₀ (execQuenchEntry s) := by
  unfold execQuenchEntry
  repeat' with_reducible first | assumption | apply OutKeeps.next | apply State.enterQuenched_keeps | split

theorem execCperForward_keeps : OutKeeps a₀ (execCperForward s) := by
  unfold execCperForward
  dsimp only
  repeat' with_reducible first
    | assumption | apply OutKeeps.next | apply State.mFlt_keeps | apply State.mWarden_keeps | apply State.sendCper_keeps | exact fun h => h | split

theorem execPldmEventResend_keeps (acked : Bool) : OutKeeps a₀ (execPldmEventResend acked s) := by
  unfold execPldmEventResend
  repeat' with_reducible first
    | assumption | apply OutKeeps.next | apply State.mWarden_keeps | apply State.sendCper_keeps | exact fun h => h | split

theorem execLostRecordEmit_keeps (die : Nat) : OutKeeps a₀ (execLostRecordEmit die s) := by
  unfold execLostRecordEmit
  dsimp only
  repeat' with_reducible first | assumption | apply OutKeeps.next | apply State.mChm_keeps | apply State.trace_keeps | split

theorem execTraceFrameSend_keeps : OutKeeps a₀ (execTraceFrameSend s) := by
  unfold execTraceFrameSend
  repeat' with_reducible first | assumption | apply OutKeeps.next | apply State.mChm_keeps | split

theorem execTraceHostExport_keeps : OutKeeps a₀ (execTraceHostExport s) := by
  unfold execTraceHostExport
  dsimp only
  repeat' with_reducible first | assumption | apply OutKeeps.next | apply State.mChm_keeps | apply State.writeThrough_keeps | split

/-! ### Machine/Caravan.lean -/

theorem execCaravanClose_keeps : OutKeeps a₀ (execCaravanClose s) := by
  unfold execCaravanClose
  dsimp only
  repeat' with_reducible first
    | assumption | apply OutKeeps.next | intro _ | apply Keeps.foldl | apply State.assemble_keeps | apply State.snapshot_keeps
    | apply State.mCvn_keeps | apply State.join_keeps | apply State.noCapacity_keeps | split

theorem execGuardBandStart_keeps : OutKeeps a₀ (execGuardBandStart s) := by
  unfold execGuardBandStart
  dsimp only
  repeat' with_reducible first | assumption | apply OutKeeps.next | apply State.mStk_keeps | apply State.mCvn_keeps | split

theorem execSpanExpiry_keeps : OutKeeps a₀ (execSpanExpiry s) := by
  unfold execSpanExpiry
  repeat' with_reducible first | assumption | apply OutKeeps.next | intro _ | apply Keeps.foldl | apply State.expire_keeps | split

/-! ### Machine/Tables.lean -/

theorem execRegisterTable_keeps (cid : Nat) : OutKeeps a₀ (execRegisterTable cid s) := by
  unfold execRegisterTable
  repeat' with_reducible first
    | assumption | apply OutKeeps.next | apply State.refuseTr_keeps | apply State.refuse_keeps | apply State.mTally_keeps
    | apply State.commitCtl_keeps | split

theorem execDeregisterTable_keeps (cid : Nat) : OutKeeps a₀ (execDeregisterTable cid s) := by
  unfold execDeregisterTable
  dsimp only
  repeat' with_reducible first
    | assumption | apply OutKeeps.next | apply State.refuse_keeps | apply State.leaveTable_keeps | apply State.commitCtl_keeps | split

theorem execLarderRefresh_keeps (cid : Nat) : OutKeeps a₀ (execLarderRefresh cid s) := by
  unfold execLarderRefresh
  dsimp only
  repeat' with_reducible first
    | assumption | apply OutKeeps.next | apply State.refuseEngine_keeps | apply State.mCmd_keeps | apply State.mTable_keeps
    | apply State.runFills_keeps | split

theorem execLarderFillResume_keeps (table : Nat) : OutKeeps a₀ (execLarderFillResume table s) := by
  unfold execLarderFillResume
  repeat' with_reducible first | assumption | apply OutKeeps.next | apply State.runFills_keeps | split

theorem execLarderWritebackComplete_keeps (table key : Nat) : OutKeeps a₀ (execLarderWritebackComplete table key s) := by
  unfold execLarderWritebackComplete
  dsimp only
  repeat' with_reducible first | assumption | apply OutKeeps.next | apply State.blockWrite_keeps | apply State.mTable_keeps | split

theorem execFlashControllerLost_keeps (ctrl : Nat) : OutKeeps a₀ (execFlashControllerLost ctrl s) := by
  unfold execFlashControllerLost
  dsimp only
  repeat' with_reducible first
    | assumption | apply OutKeeps.next | apply State.mCellar_keeps | apply State.mTally_keeps | apply State.raise_keeps | split

/-! ### Machine/HostLink.lean -/

theorem execPageWalkComplete_keeps (hearth ctx da : Nat) (parity : Bool) : OutKeeps a₀ (execPageWalkComplete hearth ctx da parity s) := by
  unfold execPageWalkComplete
  dsimp only
  repeat' with_reducible first
    | assumption | apply OutKeeps.next | apply State.dropTr_keeps | apply State.mXlt_keeps | apply State.runTr_keeps | split

theorem execAtsTranslationCompletion_keeps (fn addr target : Nat) (read write : Bool) :
    OutKeeps a₀ (execAtsTranslationCompletion fn addr target read write s) := by
  unfold execAtsTranslationCompletion
  dsimp only
  repeat' with_reducible first | assumption | apply OutKeeps.next | apply State.mXlt_keeps | split

theorem execInvalidateTranslations_keeps (cid : Nat) : OutKeeps a₀ (execInvalidateTranslations cid s) := by
  unfold execInvalidateTranslations
  dsimp only
  repeat' with_reducible first
    | assumption | apply OutKeeps.next | apply State.refuse_keeps | apply State.dropCaches_keeps | apply State.mCmd_keeps
    | apply State.redoHeld_keeps | apply State.invalidateTables_keeps | apply State.mXlt_keeps | split

theorem execAtsInvalidateRequest_keeps (fn addr len : Nat) (same : Bool) : OutKeeps a₀ (execAtsInvalidateRequest fn addr len same s) := by
  unfold execAtsInvalidateRequest
  dsimp only
  repeat' with_reducible first
    | assumption | apply OutKeeps.next | apply State.dropCaches_keeps | apply State.mXlt_keeps | apply State.redoHeld_keeps
    | apply State.invalidateTables_keeps | split

theorem execInvalidationComplete_keeps (idx : Nat) : OutKeeps a₀ (execInvalidationComplete idx s) := by
  unfold execInvalidationComplete
  dsimp only
  repeat' with_reducible first | assumption | apply OutKeeps.next | apply State.mXlt_keeps | apply State.commitCtl_keeps | split

theorem execHostStackRead_keeps (port off len : Nat) : OutKeeps a₀ (execHostStackRead port off len s) := by
  unfold execHostStackRead
  dsimp only
  repeat' with_reducible first
    | assumption | apply OutKeeps.next | apply OutKeeps.fault | refine Accs.fault_keeps _ ?_ _ (by assumption) | apply State.mBus_keeps | split

theorem execHostStackWrite_keeps (port fn off : Nat) (data : List Byte) (poisoned : Bool) :
    OutKeeps a₀ (execHostStackWrite port fn off data poisoned s) := by
  unfold execHostStackWrite
  dsimp only
  repeat' with_reducible first
    | assumption | apply OutKeeps.next | apply OutKeeps.fault | intro _ | apply Keeps.foldl | refine Accs.fault_keeps _ ?_ _ (by assumption)
    | apply State.mSeraiCnt_keeps | apply State.raiseAs_keeps | apply State.hostPiece_keeps | apply Issue.poisoned_keeps | split

theorem execHostSnoop_keeps (addr : Nat) (own : Bool) : OutKeeps a₀ (execHostSnoop addr own s) := by
  unfold execHostSnoop
  dsimp only
  repeat' with_reducible first | assumption | apply OutKeeps.next | apply State.mBus_keeps | apply State.dropCommitted_keeps | split

theorem execPort1LinkLost_keeps : OutKeeps a₀ (execPort1LinkLost s) := by
  unfold execPort1LinkLost
  repeat' with_reducible first | assumption | apply OutKeeps.next | apply State.mXlt_keeps | apply State.raise_keeps | split

theorem execPort0LinkLost_keeps : OutKeeps a₀ (execPort0LinkLost s) := by
  unfold execPort0LinkLost
  repeat' with_reducible first | assumption | apply OutKeeps.next | apply State.mXlt_keeps | apply State.raise_keeps | split

theorem execCausewayFlitFail_keeps (replays : Nat) : OutKeeps a₀ (execCausewayFlitFail replays s) := by
  unfold execCausewayFlitFail
  repeat' with_reducible first | assumption | apply OutKeeps.next | apply State.raise_keeps | split

theorem execRehomeSpan_keeps (cid : Nat) : OutKeeps a₀ (execRehomeSpan cid s) := by
  unfold execRehomeSpan
  dsimp only
  repeat' with_reducible first
    | assumption | apply OutKeeps.next | intro _ | apply Keeps.foldl | apply State.refuseEngine_keeps | apply State.mRt_keeps
    | apply State.tblWriteP_keeps | apply State.mCmd_keeps | split

/-! ### Machine/Lookup.lean -/

theorem execWindowClose_keeps (serai : Nat) : OutKeeps a₀ (execWindowClose serai s) := by
  unfold execWindowClose
  repeat' with_reducible first | assumption | apply OutKeeps.next | apply State.closeWindow_keeps | split

theorem execReferenceIntake_keeps (serai input n : Nat) : OutKeeps a₀ (execReferenceIntake serai input n s) := by
  unfold execReferenceIntake
  repeat' with_reducible first | assumption | apply OutKeeps.next | apply State.intake1_keeps | split

theorem execIntakeStallRelease_keeps (serai input : Nat) : OutKeeps a₀ (execIntakeStallRelease serai input s) := by
  unfold execIntakeStallRelease
  dsimp only
  repeat' with_reducible first | assumption | apply OutKeeps.next | apply State.mSerai_keeps | split

theorem execMergeIntakeResume_keeps (serai : Nat) : OutKeeps a₀ (execMergeIntakeResume serai s) := by
  unfold execMergeIntakeResume
  repeat' with_reducible first | assumption | apply OutKeeps.next | apply State.resumeMerges_keeps | split

theorem execRowFetchComplete_keeps (serai table : Nat) (row bad replace : Option Nat) (residueOk : Bool) :
    OutKeeps a₀ (execRowFetchComplete serai table row bad replace residueOk s) := by
  unfold execRowFetchComplete
  dsimp only
  repeat' with_reducible first
    | assumption | apply OutKeeps.next | apply State.laneStrike_keeps | apply State.mSerai_keeps | apply State.crcFail_keeps
    | apply State.deliver_keeps | apply State.rowPoison_keeps | split

theorem execPartialSumReceive_keeps (idx : Nat) (bad : Option Nat) (residueOk : Bool) :
    OutKeeps a₀ (execPartialSumReceive idx bad residueOk s) := by
  unfold execPartialSumReceive
  dsimp only
  repeat' with_reducible first
    | assumption | apply OutKeeps.next | apply State.mSerais_keeps | apply State.laneStrike_keeps | apply State.crcFail_keeps
    | apply State.mAcc_keeps | apply State.bagStep_keeps | split

theorem execLateRowTimeout_keeps (serai table row : Nat) : OutKeeps a₀ (execLateRowTimeout serai table row s) := by
  unfold execLateRowTimeout
  dsimp only
  repeat' with_reducible first | assumption | apply OutKeeps.next | apply State.mSerai_keeps | apply State.useDefault_keeps | split

theorem execFlashReadComplete_keeps (ctrl nsid lba : Nat) (error : Bool) : OutKeeps a₀ (execFlashReadComplete ctrl nsid lba error s) := by
  unfold execFlashReadComplete
  dsimp only
  repeat' with_reducible first
    | assumption | apply OutKeeps.next | intro _ | apply Keeps.foldl | apply State.mCellar_keeps | apply Issue.poisoned_keeps
    | apply State.raise_keeps | apply State.flashWaiter_keeps | split

theorem execLookup_keeps (cid : Nat) : OutKeeps a₀ (execLookup cid s) := by
  unfold execLookup
  dsimp only
  repeat' with_reducible first
    | assumption | apply OutKeeps.next | intro _ | apply Keeps.foldl | apply State.tearCmd_keeps | apply State.mCmd_keeps
    | apply State.sendBag_keeps | apply State.mSerai_keeps | apply Issue.accs_keeps | apply State.bagStep_keeps | split

/-! ### Machine/MemorySteps.lean -/

theorem execDepotEviction_keeps (space : Space) (addr : Nat) (prov : Option Nat) : OutKeeps a₀ (execDepotEviction space addr prov s) := by
  unfold execDepotEviction
  dsimp only
  repeat' with_reducible first
    | assumption | apply OutKeeps.next | apply State.tear_keeps | apply State.mDepot_keeps | apply State.putLine_keeps
    | apply State.dropCommitted_keeps | apply State.memWrite_keeps | split

theorem execConflictWaitRelease_keeps : OutKeeps a₀ (execConflictWaitRelease s) := by
  unfold execConflictWaitRelease
  dsimp only
  repeat' with_reducible first
    | assumption | apply OutKeeps.next | intro _ | apply Keeps.foldl | apply State.mGroup_keeps | apply State.mDepot_keeps | apply Issue.accs_keeps
    | apply State.bagStep_keeps | apply State.advanceOp_keeps | split

theorem execWcBufferDrain_keeps (hearth idx : Nat) : OutKeeps a₀ (execWcBufferDrain hearth idx s) := by
  unfold execWcBufferDrain
  repeat' with_reducible first | assumption | apply OutKeeps.next | apply State.drainWcWhere_keeps | split

theorem execMergingBufferDrain_keeps (die : Nat) : OutKeeps a₀ (execMergingBufferDrain die s) := by
  unfold execMergingBufferDrain
  repeat' with_reducible first | assumption | apply OutKeeps.next | apply State.drainOldest_keeps | split

theorem execCacheParityError_keeps (kind h idx loc : Nat) (prov : Option Nat) : OutKeeps a₀ (execCacheParityError kind h idx loc prov s) := by
  unfold execCacheParityError
  dsimp only
  repeat' with_reducible first
    | assumption | apply OutKeeps.next | apply State.sramEvent_keeps | apply State.mHearth_keeps | apply State.refetched_keeps
    | apply State.dataLost_keeps | apply State.mDepot_keeps | apply State.putLine_keeps | apply State.memWrite_keeps | split

theorem execStackEccError_keeps (addr chan bank row : Nat) (correctable : Bool) (lane : Option Nat) :
    OutKeeps a₀ (execStackEccError addr chan bank row correctable lane s) := by
  unfold execStackEccError
  dsimp only
  repeat' with_reducible first
    | assumption | apply OutKeeps.next | apply State.raise_keeps | apply State.mFlt_keeps | apply State.remapRow_keeps
    | apply State.laneStrike_keeps | apply State.mMem_keeps | apply State.laneFail_keeps | exact fun h => h | split

theorem execPoisonConsumed_keeps (cid addr : Nat) : OutKeeps a₀ (execPoisonConsumed cid addr s) := by
  unfold execPoisonConsumed
  repeat' with_reducible first | assumption | apply OutKeeps.next | apply State.tearCmd_keeps | split

theorem execStackTempSample_keeps (stack : Nat) (temp : Int) : OutKeeps a₀ (execStackTempSample stack temp s) := by
  unfold execStackTempSample
  dsimp only
  repeat' with_reducible first
    | assumption | apply OutKeeps.next | intro _ | apply Keeps.foldl | apply State.mDampers_keeps | apply State.raise_keeps | split

theorem execCopy_keeps (cid : Nat) (errs : List Nat) : OutKeeps a₀ (execCopy cid errs s) := by
  unfold execCopy
  dsimp only
  repeat' with_reducible first
    | assumption | apply OutKeeps.next | apply State.tearCmd_keeps | apply State.mSeraiCnt_keeps | apply State.countDrove_keeps
    | apply State.copyFlashIn_keeps | apply State.copyFlashOut_keeps | apply State.copyMemory_keeps | split

/-! ### Machine/Sieve.lean -/

theorem execSelect_keeps (cid : Nat) : OutKeeps a₀ (execSelect cid s) := by
  unfold execSelect
  repeat' with_reducible first | assumption | apply OutKeeps.next | apply State.sieveRun_keeps

theorem execSample_keeps (cid : Nat) : OutKeeps a₀ (execSample cid s) := by
  unfold execSample
  repeat' with_reducible first | assumption | apply OutKeeps.next | apply State.sieveRun_keeps

theorem execSieveEccError_keeps (die cid : Nat) (correctable : Bool) : OutKeeps a₀ (execSieveEccError die cid correctable s) := by
  unfold execSieveEccError
  repeat' with_reducible first
    | assumption | apply OutKeeps.next | apply State.mSieve_keeps | apply State.tearCmd_keeps | apply State.raiseAs_keeps | split

/-! ### Machine/Update.lean -/

theorem execOverlayStageResume_keeps (serai : Nat) : OutKeeps a₀ (execOverlayStageResume serai s) := by
  unfold execOverlayStageResume
  repeat' with_reducible first | assumption | apply OutKeeps.next | apply State.resumeStages_keeps | split

theorem execOverlayWriteback_keeps (serai table row : Nat) : OutKeeps a₀ (execOverlayWriteback serai table row s) := by
  unfold execOverlayWriteback
  dsimp only
  repeat' with_reducible first
    | assumption | apply OutKeeps.next | intro _ | apply Keeps.foldl | apply State.applyRow_keeps | apply State.writeUnit_keeps
    | apply State.mSerai_keeps | split

theorem execSeraiApply_keeps (serai table row : Nat) : OutKeeps a₀ (execSeraiApply serai table row s) := by
  unfold execSeraiApply
  repeat' with_reducible first | assumption | apply OutKeeps.next | apply State.applyOne_keeps | split

theorem execReplaceRows_keeps (cid : Nat) : OutKeeps a₀ (execReplaceRows cid s) := by
  unfold execReplaceRows
  dsimp only
  repeat' with_reducible first
    | assumption | apply OutKeeps.next | intro _ | apply Keeps.foldl | apply State.rowsBad_keeps | apply State.mCmd_keeps
    | apply State.stageRow_keeps | apply State.stagedAll_keeps | split

theorem execReadRows_keeps (cid : Nat) : OutKeeps a₀ (execReadRows cid s) := by
  unfold execReadRows
  dsimp only
  repeat' with_reducible first
    | assumption | apply OutKeeps.next | apply State.rowsBad_keeps | apply State.tearCmd_keeps | apply State.cmdWrite_keeps | apply State.mCmd_keeps
    | split

theorem execUpdate_keeps (cid : Nat) : OutKeeps a₀ (execUpdate cid s) := by
  unfold execUpdate
  dsimp only
  repeat' with_reducible first
    | assumption | apply OutKeeps.next | intro _ | apply Keeps.foldl | apply State.tearCmd_keeps | apply State.mCmd_keeps
    | apply State.sendBag_keeps | apply State.bagDone_keeps | split

theorem execRegisterOptimiser_keeps (cid : Nat) : OutKeeps a₀ (execRegisterOptimiser cid s) := by
  unfold execRegisterOptimiser
  repeat' with_reducible first
    | assumption | apply OutKeeps.next | apply State.refuseTr_keeps | apply State.refuse_keeps | apply State.mReg_keeps
    | apply State.commitCtl_keeps | split

theorem execRecalibrateRows_keeps (cid : Nat) : OutKeeps a₀ (execRecalibrateRows cid s) := by
  unfold execRecalibrateRows
  dsimp only
  repeat' with_reducible first
    | assumption | apply OutKeeps.next | intro _ | apply Keeps.foldl | apply State.refuseEngine_keeps | apply State.mRt_keeps
    | apply State.mCmd_keeps | apply State.addCount_keeps | apply State.stageRow_keeps | apply State.stagedAll_keeps | split

theorem execReadLoadCounts_keeps (cid : Nat) : OutKeeps a₀ (execReadLoadCounts cid s) := by
  unfold execReadLoadCounts
  dsimp only
  repeat' with_reducible first | assumption | apply OutKeeps.next | apply State.mCmd_keeps | apply State.cmdWrite_keeps | split

theorem execMigrateShard_keeps (cid : Nat) : OutKeeps a₀ (execMigrateShard cid s) := by
  unfold execMigrateShard
  dsimp only
  repeat' with_reducible first
    | assumption | apply OutKeeps.next | intro _ | apply Keeps.foldl | apply State.refuseEngine_keeps | apply State.migRow_keeps
    | apply State.mRt_keeps | apply State.mCmd_keeps | split

theorem execMigrationHandoverComplete_keeps (table : Nat) : OutKeeps a₀ (execMigrationHandoverComplete table s) := by
  unfold execMigrationHandoverComplete
  repeat' with_reducible first | assumption | apply OutKeeps.next | apply State.mRt_keeps | apply State.mSeraiCnt_keeps | split

/-! ### Machine/RouteOps.lean -/

theorem execRouteOperationStart_keeps (cid : Nat) : OutKeeps a₀ (execRouteOperationStart cid s) := by
  unfold execRouteOperationStart
  repeat' with_reducible first | assumption | apply OutKeeps.next | apply State.failOp_keeps | apply State.startOp_keeps | split

theorem execRouteExchange_keeps (cid : Nat) : OutKeeps a₀ (execRouteExchange cid s) := by
  unfold execRouteExchange
  repeat' with_reducible first | assumption | apply OutKeeps.next | apply State.tearCmd_keeps | apply State.queueOp_keeps | split

theorem execRouteReduce_keeps (cid : Nat) : OutKeeps a₀ (execRouteReduce cid s) := by
  unfold execRouteReduce
  repeat' with_reducible first | assumption | apply OutKeeps.next | apply State.tearCmd_keeps | apply State.queueOp_keeps | split

end

end Sys2Proof.Machine
end

section
/-!
PROOFS. What the rows of the Stoker, the Ledger, the Routes and the Warden keep: every next state a row answers is kept from the state it was taken in
(`Keeps`). Each proof unfolds the row once and cites the laws of the operations it calls.
-/
namespace Sys2Proof.Machine

section
variable {s a₀ : State} (hk : Keeps a₀ s)
include hk

/-! ### Machine/Stoker.lean -/

theorem execManifestFetch_keeps (fn : Nat) : OutKeeps a₀ (execManifestFetch fn s) := by
  unfold execManifestFetch
  dsimp only
  repeat' with_reducible first | assumption | apply OutKeeps.next | apply State.mFn_keeps | apply State.readEntry_keeps | split

theorem execRingIdleRecheck_keeps (fn : Nat) : OutKeeps a₀ (execRingIdleRecheck fn s) := by
  unfold execRingIdleRecheck
  repeat' with_reducible first | assumption | apply OutKeeps.next | apply State.mFn_keeps | split

theorem execTagWaitReread_keeps (fn : Nat) : OutKeeps a₀ (execTagWaitReread fn s) := by
  unfold execTagWaitReread
  repeat' with_reducible first | assumption | apply OutKeeps.next | apply State.readEntry_keeps | split

theorem execTagStop_keeps (fn : Nat) : OutKeeps a₀ (execTagStop fn s) := by
  unfold execTagStop
  repeat' with_reducible first | assumption | apply OutKeeps.next | apply State.mFn_keeps | split

theorem execDelegate_keeps (fn : Nat) : OutKeeps a₀ (execDelegate fn s) := by
  unfold execDelegate
  dsimp only
  repeat' with_reducible first
    | assumption | apply OutKeeps.next | apply State.mFn_keeps | apply State.takeManifest_keeps | apply State.entryDone_keeps | split

theorem execAdmissionResume_keeps (fn : Nat) : OutKeeps a₀ (execAdmissionResume fn s) := by
  unfold execAdmissionResume
  dsimp only
  repeat' with_reducible first
    | assumption | apply OutKeeps.next | apply State.mFn_keeps | apply State.entryDone_keeps | apply State.mStk_keeps | apply State.putEngine_keeps
    | split

/-! ### Machine/Contexts.lean -/

theorem execCreateContext_keeps (cid : Nat) : OutKeeps a₀ (execCreateContext cid s) := by
  unfold execCreateContext
  dsimp only
  repeat' with_reducible first
    | assumption | apply OutKeeps.next | apply State.mStk_keeps | apply State.mFn_keeps | apply State.answerFn_keeps | apply State.refuseFn_keeps
    | split

theorem execDestroyContext_keeps (cid : Nat) : OutKeeps a₀ (execDestroyContext cid s) := by
  unfold execDestroyContext
  dsimp only
  repeat' with_reducible first
    | assumption | apply OutKeeps.next | apply State.refuseFn_keeps | apply State.teardown_keeps | apply State.dropRecipes_keeps
    | apply State.mStk_keeps | apply State.dropCtx_keeps | apply State.answerFn_keeps | split

theorem execRegisterRecipe_keeps (cid : Nat) : OutKeeps a₀ (execRegisterRecipe cid s) := by
  unfold execRegisterRecipe
  dsimp only
  repeat' with_reducible first
    | assumption | apply OutKeeps.next | apply State.refuse_keeps | apply State.refuseTr_keeps | apply State.mStk_keeps
    | apply State.countWalks_keeps | apply State.commitCtl_keeps | split

theorem execDeregisterRecipe_keeps (cid : Nat) : OutKeeps a₀ (execDeregisterRecipe cid s) := by
  unfold execDeregisterRecipe
  dsimp only
  repeat' with_reducible first
    | assumption | apply OutKeeps.next | apply State.refuse_keeps | apply State.mStk_keeps | apply State.commitCtl_keeps | split

/-! ### Machine/Filing.lean -/

theorem execAdmitCmd_keeps (cid idx : Nat) : OutKeeps a₀ (execAdmitCmd cid idx s) := by
  unfold execAdmitCmd
  dsimp only
  repeat' with_reducible first
    | assumption | apply OutKeeps.next | exact fun _ => .of_id | apply State.refuseCode_keeps | apply State.takeWb_keeps | split

theorem execReplayInject_keeps (cid idx : Nat) : OutKeeps a₀ (execReplayInject cid idx s) := by
  unfold execReplayInject
  dsimp only
  repeat' with_reducible first
    | assumption | apply OutKeeps.next | apply State.refuse_keeps | apply State.refuseTr_keeps | apply State.replayFile_keeps | split

theorem execAnswer_keeps (cid : Nat) : OutKeeps a₀ (execAnswer cid s) := by
  unfold execAnswer
  dsimp only
  repeat' with_reducible first
    | assumption | apply OutKeeps.next | apply State.refuseTr_keeps | apply State.answerCmd_keeps | apply State.mergeSet_keeps
    | apply State.answerWb_keeps | apply State.commitCtl_keeps | split

theorem execAbandon_keeps (cid : Nat) : OutKeeps a₀ (execAbandon cid s) := by
  unfold execAbandon
  repeat' with_reducible first
    | assumption | apply OutKeeps.next | apply State.answerCmd_keeps | apply State.answerWb_keeps | apply State.commitCtl_keeps
    | apply State.mWb_keeps | split

theorem execFenceCommand_keeps (cid : Nat) : OutKeeps a₀ (execFenceCommand cid s) := by
  unfold execFenceCommand
  dsimp only
  repeat' with_reducible first | assumption | apply OutKeeps.next | apply State.commitCtl_keeps | apply State.dispatchHeld_keeps | split

theorem execClearNumericStatus_keeps (cid : Nat) : OutKeeps a₀ (execClearNumericStatus cid s) := by
  unfold execClearNumericStatus
  repeat' with_reducible first
    | assumption | apply OutKeeps.next | apply State.countCommit_keeps | apply State.pushAnswer_keeps | apply State.eraseCmd_keeps | split

/-! ### Machine/Ledger.lean -/

theorem execWaybillCommit_keeps (wb : Nat) : OutKeeps a₀ (execWaybillCommit wb s) := by
  unfold execWaybillCommit
  dsimp only
  repeat' with_reducible first | assumption | apply OutKeeps.next | apply State.wideRerun_keeps | apply State.commitWb_keeps | split

theorem execCommandCommit_keeps (cid : Nat) : OutKeeps a₀ (execCommandCommit cid s) := by
  unfold execCommandCommit
  dsimp only
  repeat' with_reducible first
    | assumption | apply OutKeeps.next | apply State.commitTables_keeps | apply State.countCommit_keeps | apply State.commitUnit_keeps
    | apply State.pushAnswer_keeps | apply State.eraseCmd_keeps | split

theorem execStreamSuccessorFile_keeps (wb idx : Nat) : OutKeeps a₀ (execStreamSuccessorFile wb idx s) := by
  unfold execStreamSuccessorFile
  dsimp only
  repeat' with_reducible first
    | assumption | apply OutKeeps.next | apply State.endStream_keeps | apply State.countWalks_keeps | apply State.fileWb_keeps
    | apply State.mWb_keeps | split

theorem execCompletionCounterAdvance_keeps (ctx : Nat) : OutKeeps a₀ (execCompletionCounterAdvance ctx s) := by
  unfold execCompletionCounterAdvance
  dsimp only
  repeat' with_reducible first | assumption | apply OutKeeps.next | apply State.complete_keeps | split

theorem execWaybillDrainComplete_keeps (wb : Nat) : OutKeeps a₀ (execWaybillDrainComplete wb s) := by
  unfold execWaybillDrainComplete
  repeat' with_reducible first | assumption | apply OutKeeps.next | apply State.freeWb_keeps | split

theorem execExtensionReadPoison_keeps (wb : Nat) : OutKeeps a₀ (execExtensionReadPoison wb s) := by
  unfold execExtensionReadPoison
  dsimp only
  repeat' with_reducible first
    | assumption | apply OutKeeps.next | apply State.raise_keeps | apply State.killRun_keeps | apply State.mStk_keeps | apply State.mWb_keeps
    | apply State.answerWb_keeps | split

theorem execLedgerEntryEccError_keeps (idx copyA copyB : Nat) : OutKeeps a₀ (execLedgerEntryEccError idx copyA copyB s) := by
  unfold execLedgerEntryEccError
  dsimp only
  repeat' with_reducible first | assumption | apply OutKeeps.next | apply State.mLdg_keeps | apply State.raise_keeps | split

theorem execLedgerLockstepMismatch_keeps : OutKeeps a₀ (execLedgerLockstepMismatch s) := by
  unfold execLedgerLockstepMismatch
  repeat' with_reducible first | assumption | apply OutKeeps.next | apply State.raise_keeps | split

/-! ### Machine/Tick.lean -/

theorem execTickFrameReceive_keeps (frame edge : Nat) : OutKeeps a₀ (execTickFrameReceive frame edge s) := by
  unfold execTickFrameReceive
  repeat' with_reducible first | assumption | apply OutKeeps.next | apply State.follow_keeps | split

theorem execHoldoverEntry_keeps : OutKeeps a₀ (execHoldoverEntry s) := by
  unfold execHoldoverEntry
  repeat' with_reducible first | assumption | apply OutKeeps.next | apply State.mTck_keeps | apply State.raise_keeps | split

theorem execHoldoverExpired_keeps : OutKeeps a₀ (execHoldoverExpired s) := by
  unfold execHoldoverExpired
  repeat' with_reducible first | assumption | apply OutKeeps.next | apply State.mTck_keeps | apply State.raise_keeps | split

/-! ### Machine/Route.lean -/

theorem execRouteLaneFail_keeps (port lane : Nat) : OutKeeps a₀ (execRouteLaneFail port lane s) := by
  unfold execRouteLaneFail
  dsimp only
  repeat' with_reducible first
    | assumption | apply OutKeeps.next | apply State.mPort_keeps | apply State.mPortCnt_keeps | apply State.sendFrame_keeps
    | apply State.laneSpared_keeps | apply State.suspect_keeps | split

theorem execRouteTrainingStart_keeps (port : Nat) : OutKeeps a₀ (execRouteTrainingStart port s) := by
  unfold execRouteTrainingStart
  dsimp only
  repeat' with_reducible first | assumption | apply OutKeeps.next | apply State.suspect_keeps | apply State.mPort_keeps | split

theorem execRouteTrainingComplete_keeps (port rxBad txBad : Nat) : OutKeeps a₀ (execRouteTrainingComplete port rxBad txBad s) := by
  unfold execRouteTrainingComplete
  dsimp only
  repeat' with_reducible first
    | assumption | apply OutKeeps.next | apply State.mPort_keeps | apply State.raise_keeps | apply State.bringupFailed_keeps | split

theorem execFecLock_keeps (port nonce : Nat) : OutKeeps a₀ (execFecLock port nonce s) := by
  unfold execFecLock
  dsimp only
  repeat' with_reducible first
    | assumption | apply OutKeeps.next | apply State.mPort_keeps | apply State.suspect_keeps | apply State.sendFrame_keeps | split

theorem execRouteBringupTimeout_keeps (port : Nat) : OutKeeps a₀ (execRouteBringupTimeout port s) := by
  unfold execRouteBringupTimeout
  dsimp only
  repeat' with_reducible first | assumption | apply OutKeeps.next | apply State.quarantine_keeps | apply State.bringupFailed_keeps | split

theorem execQuarantineHoldEnd_keeps (port : Nat) : OutKeeps a₀ (execQuarantineHoldEnd port s) := by
  unfold execQuarantineHoldEnd
  dsimp only
  repeat' with_reducible first | assumption | apply OutKeeps.next | apply State.mPort_keeps | split

theorem execDataFrame_keeps (port : Nat) (f : Frame) (trailer : Bool) : OutKeeps a₀ (execDataFrame port f trailer s) := by
  unfold execDataFrame
  dsimp only
  repeat' with_reducible first
    | assumption | apply OutKeeps.next | (intro _; try dsimp only) | apply State.rxUp_keeps | apply State.quarantine_keeps | apply State.mPort_keeps
    | apply State.stale_keeps | apply State.freeData_keeps | apply State.takeData_keeps | apply State.mChan_keeps | split

theorem execStartFrame_keeps (port : Nat) (f : Frame) (trailer : Bool) : OutKeeps a₀ (execStartFrame port f trailer s) := by
  unfold execStartFrame
  dsimp only
  repeat' with_reducible first
    | assumption | apply OutKeeps.next | (intro _; try dsimp only) | apply State.rxUp_keeps | apply State.stale_keeps | apply State.quarantine_keeps
    | apply State.meetStart_keeps | apply State.mChan_keeps | split

theorem execDoneFrame_keeps (port : Nat) (f : Frame) (trailer : Bool) : OutKeeps a₀ (execDoneFrame port f trailer s) := by
  unfold execDoneFrame
  dsimp only
  repeat' with_reducible first
    | assumption | apply OutKeeps.next | (intro _; try dsimp only) | apply State.rxUp_keeps | apply State.stale_keeps | apply State.mChan_keeps
    | apply State.quarantine_keeps | apply State.mLink_keeps | apply State.linkDone_keeps | apply State.advanceOp_keeps | split

theorem execAbortFrame_keeps (port : Nat) (f : Frame) (trailer : Bool) : OutKeeps a₀ (execAbortFrame port f trailer s) := by
  unfold execAbortFrame
  dsimp only
  repeat' with_reducible first
    | assumption | apply OutKeeps.next | (intro _; try dsimp only) | apply State.rxUp_keeps | apply State.mPortCnt_keeps | apply State.stale_keeps
    | apply State.mChan_keeps | apply State.sendAbort_keeps | apply State.aborted_keeps | apply State.freeData_keeps | split

theorem execCreditFrame_keeps (port : Nat) (f : Frame) (trailer : Bool) : OutKeeps a₀ (execCreditFrame port f trailer s) := by
  unfold execCreditFrame
  dsimp only
  repeat' with_reducible first
    | assumption | apply OutKeeps.next | (intro _; try dsimp only) | apply Keeps.foldl | apply State.rxUp_keeps | apply State.quarantine_keeps
    | apply State.mPort_keeps | apply State.runOp_keeps | split

theorem execNakFrame_keeps (port : Nat) (f : Frame) (trailer : Bool) : OutKeeps a₀ (execNakFrame port f trailer s) := by
  unfold execNakFrame
  repeat' with_reducible first
    | assumption | apply OutKeeps.next | (intro _; try dsimp only) | apply State.rxUp_keeps | apply State.mPort_keeps | split

theorem execControlTick_keeps (port : Nat) (f : Frame) (trailer : Bool) (edge : Nat) : OutKeeps a₀ (execControlTick port f trailer edge s) := by
  unfold execControlTick
  repeat' with_reducible first
    | assumption | apply OutKeeps.next | (intro _; try dsimp only) | apply State.rxUp_keeps | apply State.follow_keeps | split

theorem execControlKeepalive_keeps (port : Nat) (f : Frame) (trailer : Bool) : OutKeeps a₀ (execControlKeepalive port f trailer s) := by
  unfold execControlKeepalive
  repeat' with_reducible first | apply OutKeeps.next | exact State.rxUp_keeps _ _ _ _ _ (fun _ => .of_id) hk | assumption | split

theorem execControlLane_keeps (port : Nat) (f : Frame) (trailer : Bool) (lane : Nat) : OutKeeps a₀ (execControlLane port f trailer lane s) := by
  unfold execControlLane
  dsimp only
  repeat' with_reducible first
    | assumption | apply OutKeeps.next | (intro _; try dsimp only) | apply State.rxUp_keeps | apply State.mPort_keeps | apply State.mPortCnt_keeps
    | apply State.laneSpared_keeps | split

theorem execKeepaliveSend_keeps (port : Nat) : OutKeeps a₀ (execKeepaliveSend port s) := by
  unfold execKeepaliveSend
  repeat' with_reducible first | assumption | apply OutKeeps.next | apply State.sendFrame_keeps | split

theorem execHelloFrame_keeps (port : Nat) (f : Frame) (trailer : Bool) (serial nonce : Nat) (enc : Bool) (rtt again : Nat) :
    OutKeeps a₀ (execHelloFrame port f trailer serial nonce enc rtt again s) := by
  unfold execHelloFrame
  dsimp only
  repeat' with_reducible first
    | assumption | apply OutKeeps.next | (intro _; try dsimp only) | apply State.rxAuth_keeps | apply State.quarantine_keeps
    | apply State.mPort_keeps | apply State.sendFrame_keeps | split

theorem execSpdmFrame_keeps (port : Nat) (f : Frame) (trailer update final ok : Bool) (digest : List Byte) :
    OutKeeps a₀ (execSpdmFrame port f trailer update final ok digest s) := by
  unfold execSpdmFrame
  dsimp only
  repeat' with_reducible first
    | assumption | apply OutKeeps.next | (intro _; try dsimp only) | apply State.rxAuth_keeps | apply State.quarantine_keeps
    | apply State.mPort_keeps | apply State.authEnd_keeps | split

theorem execAutoKeyUpdate_keeps (port : Nat) : OutKeeps a₀ (execAutoKeyUpdate port s) := by
  unfold execAutoKeyUpdate
  dsimp only
  repeat' with_reducible first | assumption | apply OutKeeps.next | apply State.rekey_keeps | split

theorem execLoadRouteKeyPin_keeps (cid : Nat) : OutKeeps a₀ (execLoadRouteKeyPin cid s) := by
  unfold execLoadRouteKeyPin
  dsimp only
  repeat' with_reducible first
    | assumption | apply OutKeeps.next | (intro _; try dsimp only) | apply State.loadRouteKey_keeps | apply State.refuseTr_keeps
    | apply State.mPort_keeps | apply State.quarantine_keeps | apply State.commitCtl_keeps | split

theorem execLoadRouteKeyUnpin_keeps (cid : Nat) : OutKeeps a₀ (execLoadRouteKeyUnpin cid s) := by
  unfold execLoadRouteKeyUnpin
  repeat' with_reducible first
    | assumption | apply OutKeeps.next | (intro _; try dsimp only) | apply State.loadRouteKey_keeps | apply State.mPort_keeps
    | apply State.commitCtl_keeps

theorem execLoadRouteKeyRekey_keeps (cid : Nat) : OutKeeps a₀ (execLoadRouteKeyRekey cid s) := by
  unfold execLoadRouteKeyRekey
  dsimp only
  repeat' with_reducible first
    | assumption | apply OutKeeps.next | (intro _; try dsimp only) | apply State.loadRouteKey_keeps | apply State.refuse_keeps
    | apply State.rekey_keeps | apply State.commitCtl_keeps | split

/-! ### Machine/Warden.lean -/

theorem execIslandPowerUp_keeps (sigA sigB : Bool) : OutKeeps a₀ (execIslandPowerUp sigA sigB s) := by
  unfold execIslandPowerUp
  repeat' with_reducible first | assumption | apply OutKeeps.next | apply State.mWarden_keeps | apply State.wardenRestart_keeps | exact fun h => h

theorem execWardenReset_keeps (sigA sigB : Bool) : OutKeeps a₀ (execWardenReset sigA sigB s) := by
  unfold execWardenReset
  repeat' with_reducible first | assumption | apply OutKeeps.next | apply State.wardenRestart_keeps | apply State.raiseRestart_keeps | split

theorem execWardenWatchdogExpiry_keeps (sigA sigB : Bool) : OutKeeps a₀ (execWardenWatchdogExpiry sigA sigB s) := by
  unfold execWardenWatchdogExpiry
  repeat' with_reducible first | assumption | apply OutKeeps.next | apply State.wardenRestart_keeps | apply State.raiseRestart_keeps | split

theorem execFirmwareSecurityFuse_keeps : OutKeeps a₀ (execFirmwareSecurityFuse s) := by
  unfold execFirmwareSecurityFuse
  repeat' with_reducible first | assumption | apply OutKeeps.next | exact State.mFuses_keeps _ _ ⟨rfl, rfl, rfl, le_rfl, le_max_left ..⟩ hk | split

theorem execRtcTick_keeps : OutKeeps a₀ (execRtcTick s) := by
  unfold execRtcTick
  repeat' with_reducible first | assumption | apply OutKeeps.next | apply State.mWarden_keeps | exact fun h => h | split

theorem execMailboxOverrun_keeps (fn : Nat) : OutKeeps a₀ (execMailboxOverrun fn s) := by
  unfold execMailboxOverrun
  repeat' with_reducible first | assumption | apply OutKeeps.next | apply State.mLog_keeps | split

theorem execGetInfo_keeps (src : Option Nat) (req : List Byte) : OutKeeps a₀ (execGetInfo src req s) := by
  unfold execGetInfo
  repeat' with_reducible first
    | assumption | apply OutKeeps.next | (intro _; try dsimp only) | apply State.serve_keeps | apply State.respond_keeps | split

theorem execEnterBanked_keeps (src : Option Nat) (req : List Byte) : OutKeeps a₀ (execEnterBanked src req s) := by
  unfold execEnterBanked
  repeat' with_reducible first
    | assumption | apply OutKeeps.next | (intro _; try dsimp only) | apply State.serve_keeps | apply State.postState_keeps | split

theorem execLeaveBanked_keeps (src : Option Nat) (req : List Byte) : OutKeeps a₀ (execLeaveBanked src req s) := by
  unfold execLeaveBanked
  repeat' with_reducible first
    | assumption | apply OutKeeps.next | (intro _; try dsimp only) | apply State.serve_keeps | apply State.postState_keeps | split

theorem execReadErrorLog_keeps (src : Option Nat) (req : List Byte) : OutKeeps a₀ (execReadErrorLog src req s) := by
  unfold execReadErrorLog
  dsimp only
  repeat' with_reducible first | assumption | apply OutKeeps.next | (intro _; try dsimp only) | apply Keeps.foldl | apply State.serve_keeps

theorem execReadSparingLog_keeps (src : Option Nat) (req : List Byte) : OutKeeps a₀ (execReadSparingLog src req s) := by
  unfold execReadSparingLog
  dsimp only
  repeat' with_reducible first | assumption | apply OutKeeps.next | (intro _; try dsimp only) | apply State.serve_keeps

theorem execChimneyConfig_keeps (src : Option Nat) (req : List Byte) : OutKeeps a₀ (execChimneyConfig src req s) := by
  unfold execChimneyConfig
  dsimp only
  repeat' with_reducible first
    | assumption | apply OutKeeps.next | (intro _; try dsimp only) | apply State.serve_keeps | apply State.acceptBlock_keeps | split

theorem execStageBegin_keeps (src : Option Nat) (req : List Byte) : OutKeeps a₀ (execStageBegin src req s) := by
  unfold execStageBegin
  dsimp only
  repeat' with_reducible first
    | assumption | apply OutKeeps.next | (intro _; try dsimp only) | apply State.serve_keeps | apply State.stageOpen_keeps | split

theorem execStageData_keeps (src : Option Nat) (req : List Byte) : OutKeeps a₀ (execStageData src req s) := by
  unfold execStageData
  repeat' with_reducible first
    | assumption | apply OutKeeps.next | (intro _; try dsimp only) | apply State.serve_keeps | apply State.mWarden_keeps | exact fun h => h
    | apply cellsSet_wf | split

theorem execStageCommit_keeps (src : Option Nat) (req : List Byte) (sig : Bool) : OutKeeps a₀ (execStageCommit src req sig s) := by
  unfold execStageCommit
  dsimp only
  repeat' with_reducible first
    | assumption | apply OutKeeps.next | (intro _; try dsimp only) | apply State.serve_keeps | apply State.mWarden_keeps
    | apply State.stageClose_keeps | exact fun h => h | split

theorem execSetRtc_keeps (src : Option Nat) (req : List Byte) : OutKeeps a₀ (execSetRtc src req s) := by
  unfold execSetRtc
  repeat' with_reducible first | assumption | apply OutKeeps.next | (intro _; try dsimp only) | apply State.serve_keeps | apply State.mWarden_keeps

theorem execMctpControl_keeps (assign : Option Nat) : OutKeeps a₀ (execMctpControl assign s) := by
  unfold execMctpControl
  repeat' with_reducible first | assumption | apply OutKeeps.next | apply State.mWarden_keeps | exact fun h => h | split

theorem execPldmSetEventReceiver_keeps (receiver : Option Nat) : OutKeeps a₀ (execPldmSetEventReceiver receiver s) := by
  unfold execPldmSetEventReceiver
  repeat' with_reducible first | assumption | apply OutKeeps.next | apply State.mWarden_keeps | exact fun h => h | split

theorem execPldmSensorRead_keeps (sensor railCurrent : Nat) : OutKeeps a₀ (execPldmSensorRead sensor railCurrent s) := by
  unfold execPldmSensorRead
  repeat' with_reducible first | assumption | apply OutKeeps.next | apply State.mWarden_keeps | exact fun h => h | split

theorem execPldmFirmwareUpdate_keeps (image : Bool) (data : List Byte) (sig activate : Bool) :
    OutKeeps a₀ (execPldmFirmwareUpdate image data sig activate s) := by
  unfold execPldmFirmwareUpdate
  dsimp only
  repeat' with_reducible first
    | assumption | apply OutKeeps.next | apply State.stageOpen_keeps | apply State.mWarden_keeps | apply State.stageClose_keeps | exact fun h => h
    | apply cellsSet_wf | split

theorem execSpdmGetMeasurements_keeps (idx : Nat) : OutKeeps a₀ (execSpdmGetMeasurements idx s) := by
  unfold execSpdmGetMeasurements
  repeat' with_reducible first | assumption | apply OutKeeps.next | apply State.mWarden_keeps | exact fun h => h | split

/-! ### Machine/Boot.lean -/

theorem execCzResetAssert_keeps : OutKeeps a₀ (execCzResetAssert s) := by
  unfold execCzResetAssert
  repeat' with_reducible first | assumption | apply OutKeeps.next | apply State.coldReset_keeps | apply State.mPins_keeps

theorem execRailTrip_keeps : OutKeeps a₀ (execRailTrip s) := by
  unfold execRailTrip
  repeat' with_reducible first | assumption | apply OutKeeps.next | apply State.mPins_keeps | apply State.trip_keeps | split

theorem execComputeRailsPowerDown_keeps : OutKeeps a₀ (execComputeRailsPowerDown s) := by
  have hpins := State.mPins_keeps s.coldReset (fun p => { p with czResetN := false, railsOk := false }) (State.coldReset_keeps _ hk)
  exact .next (hpins.down rfl rfl id rfl ⟨(by decide : DevState.off ≠ .service), (by decide : DevState.off ≠ .banked)⟩)

theorem execCzResetRelease_keeps (sigA sigB : Bool) : OutKeeps a₀ (execCzResetRelease sigA sigB s) := by
  unfold execCzResetRelease
  repeat' with_reducible first | assumption | apply OutKeeps.next | apply State.mPins_keeps | apply State.kindle_keeps | split

theorem execColdReset_keeps (src : Option Nat) (req : List Byte) (sigA sigB : Bool) : OutKeeps a₀ (execColdReset src req sigA sigB s) := by
  unfold execColdReset
  repeat' with_reducible first
    | assumption | apply OutKeeps.next | (intro _; try dsimp only) | apply State.serve_keeps | apply State.respond_keeps
    | apply State.coldReset_keeps | apply State.kindle_keeps | split

theorem execStackDramTrained_keeps (stack : Nat) (ok : Bool) : OutKeeps a₀ (execStackDramTrained stack ok s) := by
  unfold execStackDramTrained
  dsimp only
  repeat' with_reducible first
    | assumption | apply OutKeeps.next | intro _ | apply Keeps.foldl | apply State.mBoot_keeps | apply State.raise_keeps
    | apply State.enterQuenched_keeps | apply State.applySparing_keeps | apply State.mWarden_keeps | exact fun h => h | split

theorem execKindlingEmberTest_keeps (failed : List Nat) : OutKeeps a₀ (execKindlingEmberTest failed s) := by
  unfold execKindlingEmberTest
  dsimp only
  repeat' with_reducible first
    | assumption | apply OutKeeps.next | intro _ | apply Keeps.foldl | apply State.retireHearth_keeps | apply State.mBoot_keeps | split

theorem execKindlingKnownAnswerTests_keeps (failed : Option Nat) (seed : Nat) : OutKeeps a₀ (execKindlingKnownAnswerTests failed seed s) := by
  unfold execKindlingKnownAnswerTests
  dsimp only
  repeat' with_reducible first
    | assumption | apply OutKeeps.next | apply State.loadSettings_keeps | apply State.raise_keeps | apply State.enterQuenched_keeps | split

theorem execCellarEnumeration_keeps (ctrls : List (List Namespace × Nat)) : OutKeeps a₀ (execCellarEnumeration ctrls s) := by
  unfold execCellarEnumeration
  dsimp only
  repeat' with_reducible first
    | assumption | apply OutKeeps.next | apply State.mCellar_keeps | apply State.mPins_keeps | apply State.mWarden_keeps | apply State.mBoot_keeps
    | exact fun h => h | split

/-! ### Machine/Resets.lean -/

theorem execFunctionReset_keeps (fn : Nat) (vfEnable : Bool) : OutKeeps a₀ (execFunctionReset fn vfEnable s) := by
  unfold execFunctionReset
  repeat' with_reducible first | assumption | apply OutKeeps.next | apply State.resetFns_keeps | apply State.resetFn_keeps | split

theorem execPort0ConventionalReset_keeps (hot : Bool) (rate width : Nat) : OutKeeps a₀ (execPort0ConventionalReset hot rate width s) := by
  unfold execPort0ConventionalReset
  dsimp only
  repeat' with_reducible first
    | assumption | apply OutKeeps.next | apply State.mPins_keeps | apply State.resetFns_keeps | apply State.mXlt_keeps | split

theorem execPort1ConventionalReset_keeps (hot : Bool) (rate width : Nat) : OutKeeps a₀ (execPort1ConventionalReset hot rate width s) := by
  unfold execPort1ConventionalReset
  dsimp only
  repeat' with_reducible first | assumption | apply OutKeeps.next | apply State.mPins_keeps | apply State.mXlt_keeps | split

theorem execPerstRelease_keeps (port rate width : Nat) : OutKeeps a₀ (execPerstRelease port rate width s) := by
  unfold execPerstRelease
  dsimp only
  repeat' with_reducible first | assumption | apply OutKeeps.next | apply State.mPins_keeps | apply State.mXlt_keeps | split

/-! ### Machine/Power.lean -/

theorem execThrotInAssert_keeps : OutKeeps a₀ (execThrotInAssert s) := by
  unfold execThrotInAssert
  dsimp only
  repeat' with_reducible first | assumption | apply OutKeeps.next | apply State.mPins_keeps | apply State.mPower_keeps

theorem execDieTempSample_keeps (die : Nat) (temp : Int) : OutKeeps a₀ (execDieTempSample die temp s) := by
  unfold execDieTempSample
  dsimp only
  repeat' with_reducible first
    | assumption | apply OutKeeps.next | apply State.mPower_keeps | apply State.trip_keeps | apply State.mPins_keeps | apply State.stepLevel_keeps
    | split

theorem execPowerSample_keeps (power : Nat) (throtHigh : Bool) : OutKeeps a₀ (execPowerSample power throtHigh s) := by
  unfold execPowerSample
  dsimp only
  repeat' with_reducible first
    | assumption | apply OutKeeps.next | apply State.mPins_keeps | apply State.mPower_keeps | apply State.stepLevel_keeps | split

/-! ### Machine/Regs.lean -/

theorem execLatchingLoRead_keeps (fn bar off : Nat) (wide : Bool) : OutKeeps a₀ (execLatchingLoRead fn bar off wide s) := by
  unfold execLatchingLoRead
  dsimp only
  repeat' with_reducible first | assumption | apply OutKeeps.next | apply State.read4_keeps | apply State.mBus_keeps | split

theorem execBarAccessDropped_keeps (fn : Nat) (isRead : Bool) : OutKeeps a₀ (execBarAccessDropped fn isRead s) := by
  unfold execBarAccessDropped
  dsimp only
  repeat' with_reducible first | assumption | apply OutKeeps.next | apply State.mLog_keeps | apply State.mBus_keeps | split

/-! ### Machine/RegWrites.lean -/

theorem execRegisterWrite_keeps (fn bar off v : Nat) (wide : Bool) : OutKeeps a₀ (execRegisterWrite fn bar off v wide s) := by
  unfold execRegisterWrite
  dsimp only
  repeat' with_reducible first | assumption | apply OutKeeps.next | apply State.write4_keeps | split

end

end Sys2Proof.Machine
end

section
/-!
PROOFS. What the rows of the Hearths and the BX-3 personality keep: every next state a row answers is kept from the state it was taken in
(`Keeps`). Each proof unfolds the row once and cites the laws of the operations it calls.
-/
namespace Sys2Proof.Machine

section
variable {s a₀ : State} (hk : Keeps a₀ s)
include hk

/-! ### Machine/Hearth.lean -/

theorem execLaunch_keeps (cid : Nat) : OutKeeps a₀ (execLaunch cid s) := by
  unfold execLaunch
  dsimp only
  repeat' with_reducible first
    | assumption | apply OutKeeps.next | apply State.tearCmd_keeps | apply State.mStk_keeps | apply State.mCmd_keeps | apply State.mHearths_keeps
    | split

theorem execBlockPlace_keeps (cid : Nat) : OutKeeps a₀ (execBlockPlace cid s) := by
  unfold execBlockPlace
  dsimp only
  repeat' with_reducible first | assumption | apply OutKeeps.next | refine State.tryPlace_keeps _ _ ?_ _ (by assumption) | split

theorem execSplitDrainMark_keeps (cid : Nat) : OutKeeps a₀ (execSplitDrainMark cid s) := by
  unfold execSplitDrainMark
  dsimp only
  repeat' with_reducible first | assumption | apply OutKeeps.next | intro _ | apply Keeps.foldl | apply State.mHearth_keeps | split

theorem execPreemption_keeps (cid : Nat) : OutKeeps a₀ (execPreemption cid s) := by
  unfold execPreemption
  dsimp only
  repeat' with_reducible first
    | assumption | apply OutKeeps.next | intro _ | apply Keeps.foldl | refine State.tryPlace_keeps _ _ ?_ _ (by assumption)
    | apply State.killCmd_keeps | apply State.mCmd_keeps | apply State.mFn_keeps | split

theorem execGroupSelfWait_keeps (g : GroupRef) : OutKeeps a₀ (execGroupSelfWait g s) := by
  unfold execGroupSelfWait
  repeat' with_reducible first | assumption | apply OutKeeps.next | apply State.groupFault_keeps | split

theorem execHearthMove_keeps (hearth : Nat) : OutKeeps a₀ (execHearthMove hearth s) := by
  unfold execHearthMove
  dsimp only
  repeat' with_reducible first
    | assumption | apply OutKeeps.next | apply State.spare_keeps | apply State.mHearth_keeps | apply State.mQuarter_keeps
    | apply State.traceMove_keeps | apply State.outOfService_keeps | split

theorem execEmberTestComplete_keeps (quarter : Nat) (fail : Bool) : OutKeeps a₀ (execEmberTestComplete quarter fail s) := by
  unfold execEmberTestComplete
  dsimp only
  repeat' with_reducible first
    | assumption | apply OutKeeps.next | apply State.mQuarter_keeps | apply State.spare_keeps | apply State.mPhys_keeps | apply State.mHearth_keeps
    | apply State.traceMove_keeps | apply State.raise_keeps | split

theorem execEmberOverdue_keeps (phys : Nat) : OutKeeps a₀ (execEmberOverdue phys s) := by
  unfold execEmberOverdue
  repeat' with_reducible first | assumption | apply OutKeeps.next | apply State.raise_keeps | split

theorem execKnownAnswerTest_keeps (unit inst : Nat) (pass : Bool) : OutKeeps a₀ (execKnownAnswerTest unit inst pass s) := by
  unfold execKnownAnswerTest
  dsimp only
  repeat' with_reducible first
    | assumption | apply OutKeeps.next | apply State.mFlt_keeps | apply State.raise_keeps | apply State.mDrovers_keeps | apply State.spare_keeps
    | split

/-! ### Machine/Debug.lean -/

theorem execDebugHalt_keeps (cid : Nat) : OutKeeps a₀ (execDebugHalt cid s) := by
  unfold execDebugHalt
  dsimp only
  repeat' with_reducible first
    | assumption | apply OutKeeps.next | intro _ | apply Keeps.foldl | refine State.debugBegin_keeps _ _ _ ?_ _ (by assumption)
    | apply State.mDebugGroups_keeps | apply State.noteHalts_keeps | apply State.debugCommit_keeps | split

theorem execDebugStep_keeps (cid : Nat) : OutKeeps a₀ (execDebugStep cid s) := by
  unfold execDebugStep
  dsimp only
  repeat' with_reducible first
    | assumption | apply OutKeeps.next | apply State.debugCommit_keeps | refine State.debugBegin_keeps _ _ _ ?_ _ (by assumption)
    | apply State.mCmd_keeps | apply State.mGroup_keeps | split

theorem execDebugResume_keeps (cid : Nat) : OutKeeps a₀ (execDebugResume cid s) := by
  unfold execDebugResume
  dsimp only
  repeat' with_reducible first
    | assumption | apply OutKeeps.next | refine State.debugBegin_keeps _ _ _ ?_ _ (by assumption) | apply State.mDebugGroups_keeps
    | apply State.debugCommit_keeps | split

theorem execDebugReadGroup_keeps (cid : Nat) : OutKeeps a₀ (execDebugReadGroup cid s) := by
  unfold execDebugReadGroup
  dsimp only
  repeat' with_reducible first
    | assumption | apply OutKeeps.next | refine State.debugBegin_keeps _ _ _ ?_ _ (by assumption) | apply State.debugCommit_keeps
    | apply State.mHearths_keeps | split

/-! ### Machine/IsaVector.lean -/

theorem execVmad_keeps (g : GroupRef) : OutKeeps a₀ (execVmad g s) := by
  unfold execVmad
  dsimp only
  repeat' with_reducible first
    | assumption | apply OutKeeps.next | (intro _; try dsimp only) | apply State.isaStep_keeps | apply State.tookFree_keeps | apply DidKeeps.retire
    | split

theorem execVsel_keeps (g : GroupRef) : OutKeeps a₀ (execVsel g s) := by
  unfold execVsel
  repeat' with_reducible first | assumption | apply OutKeeps.next | (intro _; try dsimp only) | apply State.isaStep_keeps | apply Issue.ret_keeps

/-! ### Machine/IsaFloat.lean -/

theorem execCvt_keeps (g : GroupRef) : OutKeeps a₀ (execCvt g s) := by
  unfold execCvt
  dsimp only
  repeat' with_reducible first
    | assumption | apply OutKeeps.next | (intro _; try dsimp only) | apply State.isaStep_keeps | apply State.countElems_keeps
    | apply DidKeeps.retire | split

theorem execCvtI2f_keeps (g : GroupRef) : OutKeeps a₀ (execCvtI2f g s) := by
  unfold execCvtI2f
  repeat' with_reducible first
    | assumption | apply OutKeeps.next | (intro _; try dsimp only) | apply State.isaStep_keeps | apply Issue.drew_keeps | apply DidKeeps.retire

/-! ### Machine/IsaMem.lean -/

theorem execLd_keeps (g : GroupRef) : OutKeeps a₀ (execLd g s) := by
  unfold execLd
  dsimp only
  repeat' with_reducible first
    | assumption | apply OutKeeps.next | (intro _; try dsimp only) | apply State.isaStep_keeps | apply Issue.accs_keeps
    | refine Accs.fault_keeps _ ?_ _ (by assumption) | apply State.loadAll_keeps | apply Issue.poisoned_keeps | apply DidKeeps.retire
    | apply DidKeeps.fault | split

theorem execSt_keeps (g : GroupRef) : OutKeeps a₀ (execSt g s) := by
  unfold execSt
  dsimp only
  repeat' with_reducible first
    | assumption | apply OutKeeps.next | (intro _; try dsimp only) | apply Keeps.foldl | apply State.isaStep_keeps | apply Issue.accs_keeps
    | refine Accs.fault_keeps _ ?_ _ (by assumption) | apply State.extentRefused_keeps | apply Issue.conflict_keeps | apply State.hstore_keeps
    | apply State.noWait_keeps | apply DidKeeps.retire | apply DidKeeps.gone | apply DidKeeps.fault | split

theorem execPref_keeps (g : GroupRef) : OutKeeps a₀ (execPref g s) := by
  unfold execPref
  dsimp only
  repeat' with_reducible first
    | assumption | apply OutKeeps.next | (intro _; try dsimp only) | apply Keeps.foldl | apply State.isaStep_keeps | apply Issue.accs_keeps
    | apply State.prefetch_keeps | apply DidKeeps.retire

theorem execLds_keeps (g : GroupRef) : OutKeeps a₀ (execLds g s) := by
  unfold execLds
  dsimp only
  repeat' with_reducible first
    | assumption | apply OutKeeps.next | (intro _; try dsimp only) | apply State.isaStep_keeps | apply Issue.lsStep_keeps | apply Issue.ret_keeps

theorem execSts_keeps (g : GroupRef) : OutKeeps a₀ (execSts g s) := by
  unfold execSts
  dsimp only
  repeat' with_reducible first
    | assumption | apply OutKeeps.next | (intro _; try dsimp only) | apply Keeps.foldl | apply State.isaStep_keeps | apply Issue.lsStep_keeps
    | apply State.mHearths_keeps | apply DidKeeps.retire

theorem execFence_keeps (g : GroupRef) : OutKeeps a₀ (execFence g s) := by
  unfold execFence
  dsimp only
  repeat' with_reducible first
    | assumption | apply OutKeeps.next | (intro _; try dsimp only) | apply State.isaStep_keeps | refine Accs.fault_keeps _ ?_ _ (by assumption)
    | apply State.drainWcWhere_keeps | apply State.flushL1_keeps | apply State.cleanCtx_keeps | apply DidKeeps.retire | apply DidKeeps.fault | split

theorem execBar_keeps (g : GroupRef) : OutKeeps a₀ (execBar g s) := by
  unfold execBar
  repeat' with_reducible first
    | assumption | apply OutKeeps.next | (intro _; try dsimp only) | apply State.isaStep_keeps | apply State.drainWcWhere_keeps
    | apply DidKeeps.hold

theorem execBarRelease_keeps (g : GroupRef) : OutKeeps a₀ (execBarRelease g s) := by
  unfold execBarRelease
  dsimp only
  repeat' with_reducible first
    | assumption | apply OutKeeps.next | intro _ | apply Keeps.foldl | apply State.stepDone_keeps | apply State.mHearths_keeps | split

theorem execExit_keeps (g : GroupRef) : OutKeeps a₀ (execExit g s) := by
  unfold execExit
  repeat' with_reducible first
    | assumption | apply OutKeeps.next | (intro _; try dsimp only) | apply State.isaStep_keeps | apply Issue.conflict_keeps
    | apply State.noWait_keeps | apply State.stepDone_keeps | apply State.endGroup_keeps | apply DidKeeps.wait | apply DidKeeps.gone | split

theorem execBrk_keeps (g : GroupRef) : OutKeeps a₀ (execBrk g s) := by
  unfold execBrk
  dsimp only
  repeat' with_reducible first
    | assumption | apply OutKeeps.next | (intro _; try dsimp only) | apply State.isaStep_keeps | refine Accs.fault_keeps _ ?_ _ (by assumption)
    | apply Issue.ret_keeps | apply State.raise_keeps | apply DidKeeps.retire | apply DidKeeps.fault | split

/-! ### Machine/IsaTile.lean -/

theorem execGbind_keeps (g : GroupRef) : OutKeeps a₀ (execGbind g s) := by
  unfold execGbind
  repeat' with_reducible first
    | assumption | apply OutKeeps.next | (intro _; try dsimp only) | apply State.isaStep_keeps | apply Issue.grateFault_keeps
    | apply State.mHearth_keeps | apply DidKeeps.hold | split

theorem execGbindGrant_keeps (hearth : Nat) : OutKeeps a₀ (execGbindGrant hearth s) := by
  unfold execGbindGrant
  repeat' with_reducible first | assumption | apply OutKeeps.next | apply State.grantBinds_keeps | split

theorem execGfree_keeps (g : GroupRef) : OutKeeps a₀ (execGfree g s) := by
  unfold execGfree
  repeat' with_reducible first
    | assumption | apply OutKeeps.next | (intro _; try dsimp only) | apply Keeps.foldl | apply State.isaStep_keeps | apply Issue.grateFault_keeps
    | apply State.mHearth_keeps | apply DidKeeps.retire | apply DidKeeps.wait | split

theorem execGwld_keeps (g : GroupRef) : OutKeeps a₀ (execGwld g s) := by
  unfold execGwld
  dsimp only
  repeat' with_reducible first
    | assumption | apply OutKeeps.next | (intro _; try dsimp only) | apply Keeps.foldl | apply State.isaStep_keeps | apply Issue.grateFault_keeps
    | apply Issue.readTile_keeps | apply State.mHearth_keeps | apply DidKeeps.retire | apply DidKeeps.wait | split

theorem execFlue_keeps (g : GroupRef) : OutKeeps a₀ (execFlue g s) := by
  unfold execFlue
  dsimp only
  repeat' with_reducible first
    | assumption | apply OutKeeps.next | (intro _; try dsimp only) | apply State.isaStep_keeps | apply Issue.grateFault_keeps
    | apply Issue.readTile_keeps | apply State.mHearth_keeps | apply DidKeeps.retire | split

theorem execGrd_keeps (g : GroupRef) : OutKeeps a₀ (execGrd g s) := by
  unfold execGrd
  dsimp only
  repeat' with_reducible first
    | assumption | apply OutKeeps.next | (intro _; try dsimp only) | apply State.isaStep_keeps | apply Issue.grateFault_keeps
    | apply State.accOf_keeps | apply DidKeeps.retire | apply DidKeeps.wait | split

theorem execFlueStreamStart_keeps (hearth : Nat) : OutKeeps a₀ (execFlueStreamStart hearth s) := by
  unfold execFlueStreamStart
  dsimp only
  repeat' with_reducible first
    | assumption | apply OutKeeps.next | intro _ | apply Keeps.foldl | apply State.unverifiable_keeps | apply State.mFlue_keeps
    | apply State.takeWeights_keeps | split

theorem execTileCheck_keeps (hearth idx grate : Nat) (fail : Option Nat) : OutKeeps a₀ (execTileCheck hearth idx grate fail s) := by
  unfold execTileCheck
  dsimp only
  repeat' with_reducible first
    | assumption | apply OutKeeps.next | apply State.mHearth_keeps | apply State.applyTile_keeps | apply State.mFlue_keeps
    | apply State.grateStrike_keeps | apply State.unverifiable_keeps | split

theorem execGrateRerun_keeps (hearth idx grate : Nat) : OutKeeps a₀ (execGrateRerun hearth idx grate s) := by
  unfold execGrateRerun
  dsimp only
  repeat' with_reducible first
    | assumption | apply OutKeeps.next | apply State.unverifiable_keeps | apply State.mHearth_keeps | apply State.mFlue_keeps | split

theorem execGrateStateEccError_keeps (hearth grate : Nat) (correctable : Bool) :
    OutKeeps a₀ (execGrateStateEccError hearth grate correctable s) := by
  unfold execGrateStateEccError
  dsimp only
  repeat' with_reducible first
    | assumption | apply OutKeeps.next | apply State.mHearth_keeps | apply State.tearCmd_keeps | apply State.raise_keeps | split

theorem execTrivetTileStart_keeps (hearth burner : Nat) : OutKeeps a₀ (execTrivetTileStart hearth burner s) := by
  unfold execTrivetTileStart
  dsimp only
  repeat' with_reducible first
    | assumption | apply OutKeeps.next | apply State.mHearth_keeps | apply State.count_keeps | apply State.retireGroup_keeps
    | apply State.mGroup_keeps | split

theorem execTrivetParityError_keeps (hearth burner : Nat) : OutKeeps a₀ (execTrivetParityError hearth burner s) := by
  unfold execTrivetParityError
  dsimp only
  repeat' with_reducible first | assumption | apply OutKeeps.next | apply State.mHearth_keeps | apply State.tearCmd_keeps | split

/-! ### Machine/IsaScalar.lean -/

theorem execBr_keeps (g : GroupRef) : OutKeeps a₀ (execBr g s) := by
  unfold execBr
  repeat' with_reducible first
    | assumption | apply OutKeeps.next | (intro _; try dsimp only) | apply State.isaStep_keeps | apply Issue.ret_keeps | split

/-! ### Machine/Bx.lean -/

theorem execBxQTailWrite_keeps (v : Nat) : OutKeeps a₀ (execBxQTailWrite v s) := by
  unfold execBxQTailWrite
  repeat' with_reducible first | assumption | apply OutKeeps.next | apply State.bxTail_keeps | split

theorem execBxQueueIdleRecheck_keeps : OutKeeps a₀ (execBxQueueIdleRecheck s) := by
  unfold execBxQueueIdleRecheck
  repeat' with_reducible first | assumption | apply OutKeeps.next | apply State.mBx_keeps | split

theorem execBxQueueEnable_keeps (v : Nat) : OutKeeps a₀ (execBxQueueEnable v s) := by
  unfold execBxQueueEnable
  repeat' with_reducible first | assumption | apply OutKeeps.next | apply State.bxCtrl_keeps | split

theorem execBxResume_keeps (v : Nat) : OutKeeps a₀ (execBxResume v s) := by
  unfold execBxResume
  repeat' with_reducible first | assumption | apply OutKeeps.next | apply State.bxCtrl_keeps | split

theorem execBxSoftReset_keeps (v : Nat) (flr : Bool) : OutKeeps a₀ (execBxSoftReset v flr s) := by
  unfold execBxSoftReset
  repeat' with_reducible first
    | assumption | apply OutKeeps.next | apply State.bxReset_keeps | apply State.mLog_keeps | apply State.bxCtrl_keeps | split

theorem execBxStatusRead_keeps : OutKeeps a₀ (execBxStatusRead s) := by
  unfold execBxStatusRead
  dsimp only
  repeat' with_reducible first | assumption | apply OutKeeps.next | apply State.readBxStatus_keeps | apply State.mBus_keeps | split

theorem execBxNop_keeps (failed : Bool) : OutKeeps a₀ (execBxNop failed s) := by
  unfold execBxNop
  repeat' with_reducible first | assumption | apply OutKeeps.next | apply State.bxRun_keeps | split

theorem execDefineTable_keeps (failed : Bool) : OutKeeps a₀ (execDefineTable failed s) := by
  unfold execDefineTable
  dsimp only
  repeat' with_reducible first | assumption | apply OutKeeps.next | apply State.mBx_keeps | apply State.bxRun_keeps | split

theorem execUndefineTable_keeps (failed : Bool) : OutKeeps a₀ (execUndefineTable failed s) := by
  unfold execUndefineTable
  dsimp only
  repeat' with_reducible first | assumption | apply OutKeeps.next | apply State.mBx_keeps | apply State.bxRun_keeps | split

theorem execRowWrite_keeps (failed : Bool) : OutKeeps a₀ (execRowWrite failed s) := by
  unfold execRowWrite
  dsimp only
  repeat' with_reducible first
    | assumption | apply OutKeeps.next | apply State.bxRun_keeps | refine State.bxInputs_keeps _ _ _ _ _ _ ?_ _ (by assumption) | split

theorem execLookupPool_keeps (failed : Bool) : OutKeeps a₀ (execLookupPool failed s) := by
  unfold execLookupPool
  dsimp only
  repeat' with_reducible first
    | assumption | apply OutKeeps.next | apply State.bxRun_keeps | refine State.bxInputs_keeps _ _ _ _ _ _ ?_ _ (by assumption)
    | apply State.mBx_keeps | split

theorem execDense_keeps (failed : Bool) : OutKeeps a₀ (execDense failed s) := by
  unfold execDense
  dsimp only
  repeat' with_reducible first
    | assumption | apply OutKeeps.next | apply State.bxRun_keeps | refine State.bxInputs_keeps _ _ _ _ _ _ ?_ _ (by assumption) | split

theorem execBxCopy_keeps (failed : Bool) : OutKeeps a₀ (execBxCopy failed s) := by
  unfold execBxCopy
  dsimp only
  repeat' with_reducible first
    | assumption | apply OutKeeps.next | apply State.bxRun_keeps | refine State.bxInputs_keeps _ _ _ _ _ _ ?_ _ (by assumption)
    | apply State.bxWrite_keeps | apply State.mDrovers_keeps | split

theorem execBxCommandComplete_keeps : OutKeeps a₀ (execBxCommandComplete s) := by
  unfold execBxCommandComplete
  dsimp only
  repeat' with_reducible first
    | assumption | apply OutKeeps.next | intro _ | apply Keeps.foldl | apply State.bxPut_keeps | apply State.count_keeps | apply State.mBx_keeps
    | split

end

/-! ### Every row -/

/-- Every command but the boundary and the end of Kindling keeps what `Keeps` names. -/
theorem exec_keeps {c : Instr} (hb : c ≠ .tickBoundary) (he : ∀ r0 w0 r1 w1, c ≠ .kindlingEnd r0 w0 r1 w1) {s a₀ : State}
    (hk : Keeps a₀ s) : OutKeeps a₀ (exec c s) := by
  cases c with
  | tickBoundary => exact absurd rfl hb
  | kindlingEnd r0 w0 r1 w1 => exact absurd rfl (he r0 w0 r1 w1)
  | smov _ | smovi _ | smovhi _ | sadd _ | saddi _ | ssub _ | sand _ | sor _ | sxor _ | sandn _ | sshl _ | sshr _ | ssar _ | smul _ | spopc _
  | sff1 _ | sexecGet _ | srd _ | sflrd _ | scmp _ => exact .next (State.scalarOp_keeps _ _ _ _ hk)
  | vadd _ | vsub _ | vmul _ | vmulhiS _ | vmulhiU _ | vand _ | vor _ | vxor _ | vshl _ | vshr _ | vsar _ | vminS _ | vmaxS _ | vminU _ | vmaxU _
  | vabs _ | vclz _ | vpopc _ | vmov _ => exact .next (State.vecOp_keeps _ _ _ _ hk)
  | vcmpS _ | vcmpU _ => exact .next (State.vecCmp_keeps _ _ _ _ hk)
  | fadd _ | fsub _ | fmul _ | ffma _ | fdiv _ | fsqrt _ | fmin _ | fmax _ | fabs _ | fneg _ | frcp _ | frsq _ | fexp2 _ | flog2 _ =>
    exact .next (State.floatOp_keeps _ _ _ _ hk)
  | atomAdd _ | atomAnd _ | atomOr _ | atomXor _ | atomMinS _ | atomMaxS _ | atomMinU _ | atomMaxU _ | atomExch _ | atomCas _ | atomFadd _ =>
    exact .next (State.atomOp_keeps _ _ _ _ hk)
  | tadd _ | tsub _ | tmul _ | tmax _ | tmin _ | trelu _ | texp2 _ => exact .next (State.trivetOp_keeps _ _ _ _ hk)
  | vlane _ | vshfl _ | vrdlane _ | fcmp _ | cvtF2i _ | vrand _ | nop _ | flclr _ | sexecSet _ | jmp _ | call _ =>
    exact .next (State.isaStep_keeps _ _ _ _ (fun i h => i.ret_keeps _ h) hk)
  | aclConfig fn v => exact execAclConfig_keeps fn v _ hk
  | doorbell fn v => exact execDoorbell_keeps fn v _ hk
  | ringEnable fn v => exact execRingEnable_keeps fn v _ hk
  | captureConfig fn v => exact execCaptureConfig_keeps fn v _ hk
  | functionLogConfig fn v => exact execFunctionLogConfig_keeps fn v _ hk
  | hostSinkWrite => exact execHostSinkWrite_keeps hk
  | msixHoldoffExpiry fn vec => exact execMsixHoldoffExpiry_keeps hk fn vec
  | coalesceFlush => exact execCoalesceFlush_keeps hk
  | faultReport r => exact execFaultReport_keeps hk r
  | quenchEntry => exact execQuenchEntry_keeps hk
  | cperForward => exact execCperForward_keeps hk
  | pldmEventResend acked => exact execPldmEventResend_keeps hk acked
  | lostRecordEmit die => exact execLostRecordEmit_keeps hk die
  | traceFrameSend => exact execTraceFrameSend_keeps hk
  | traceHostExport => exact execTraceHostExport_keeps hk
  | caravanClose => exact execCaravanClose_keeps hk
  | guardBandStart => exact execGuardBandStart_keeps hk
  | spanExpiry => exact execSpanExpiry_keeps hk
  | registerTable cid => exact execRegisterTable_keeps hk cid
  | deregisterTable cid => exact execDeregisterTable_keeps hk cid
  | larderRefresh cid => exact execLarderRefresh_keeps hk cid
  | larderFillResume table => exact execLarderFillResume_keeps hk table
  | larderWritebackComplete table key => exact execLarderWritebackComplete_keeps hk table key
  | flashControllerLost ctrl => exact execFlashControllerLost_keeps hk ctrl
  | launch cid => exact execLaunch_keeps hk cid
  | blockPlace cid => exact execBlockPlace_keeps hk cid
  | splitDrainMark cid => exact execSplitDrainMark_keeps hk cid
  | preemption cid => exact execPreemption_keeps hk cid
  | groupSelfWait g => exact execGroupSelfWait_keeps hk g
  | hearthMove hearth => exact execHearthMove_keeps hk hearth
  | emberTestComplete quarter fail => exact execEmberTestComplete_keeps hk quarter fail
  | emberOverdue phys => exact execEmberOverdue_keeps hk phys
  | knownAnswerTest unit inst pass => exact execKnownAnswerTest_keeps hk unit inst pass
  | debugHalt cid => exact execDebugHalt_keeps hk cid
  | debugStep cid => exact execDebugStep_keeps hk cid
  | debugResume cid => exact execDebugResume_keeps hk cid
  | debugReadGroup cid => exact execDebugReadGroup_keeps hk cid
  | pageWalkComplete hearth ctx da parity => exact execPageWalkComplete_keeps hk hearth ctx da parity
  | atsTranslationCompletion fn addr target read write => exact execAtsTranslationCompletion_keeps hk fn addr target read write
  | invalidateTranslations cid => exact execInvalidateTranslations_keeps hk cid
  | atsInvalidateRequest fn addr len same => exact execAtsInvalidateRequest_keeps hk fn addr len same
  | invalidationComplete idx => exact execInvalidationComplete_keeps hk idx
  | hostStackRead port off len => exact execHostStackRead_keeps hk port off len
  | hostStackWrite port fn off data poisoned => exact execHostStackWrite_keeps hk port fn off data poisoned
  | hostSnoop addr own => exact execHostSnoop_keeps hk addr own
  | port1LinkLost => exact execPort1LinkLost_keeps hk
  | port0LinkLost => exact execPort0LinkLost_keeps hk
  | causewayFlitFail replays => exact execCausewayFlitFail_keeps hk replays
  | rehomeSpan cid => exact execRehomeSpan_keeps hk cid
  | windowClose serai => exact execWindowClose_keeps hk serai
  | referenceIntake serai input n => exact execReferenceIntake_keeps hk serai input n
  | intakeStallRelease serai input => exact execIntakeStallRelease_keeps hk serai input
  | mergeIntakeResume serai => exact execMergeIntakeResume_keeps hk serai
  | rowFetchComplete serai table row bad replace residueOk => exact execRowFetchComplete_keeps hk serai table row bad replace residueOk
  | partialSumReceive idx bad residueOk => exact execPartialSumReceive_keeps hk idx bad residueOk
  | lateRowTimeout serai table row => exact execLateRowTimeout_keeps hk serai table row
  | flashReadComplete ctrl nsid lba error => exact execFlashReadComplete_keeps hk ctrl nsid lba error
  | lookup cid => exact execLookup_keeps hk cid
  | routeOperationStart cid => exact execRouteOperationStart_keeps hk cid
  | routeExchange cid => exact execRouteExchange_keeps hk cid
  | routeReduce cid => exact execRouteReduce_keeps hk cid
  | depotEviction space addr prov => exact execDepotEviction_keeps hk space addr prov
  | conflictWaitRelease => exact execConflictWaitRelease_keeps hk
  | wcBufferDrain hearth idx => exact execWcBufferDrain_keeps hk hearth idx
  | mergingBufferDrain die => exact execMergingBufferDrain_keeps hk die
  | cacheParityError kind h idx loc prov => exact execCacheParityError_keeps hk kind h idx loc prov
  | stackEccError addr chan bank row correctable lane => exact execStackEccError_keeps hk addr chan bank row correctable lane
  | poisonConsumed cid addr => exact execPoisonConsumed_keeps hk cid addr
  | stackTempSample stack temp => exact execStackTempSample_keeps hk stack temp
  | copy cid errs => exact execCopy_keeps hk cid errs
  | select cid => exact execSelect_keeps hk cid
  | sample cid => exact execSample_keeps hk cid
  | sieveEccError die cid correctable => exact execSieveEccError_keeps hk die cid correctable
  | overlayStageResume serai => exact execOverlayStageResume_keeps hk serai
  | overlayWriteback serai table row => exact execOverlayWriteback_keeps hk serai table row
  | seraiApply serai table row => exact execSeraiApply_keeps hk serai table row
  | replaceRows cid => exact execReplaceRows_keeps hk cid
  | readRows cid => exact execReadRows_keeps hk cid
  | update cid => exact execUpdate_keeps hk cid
  | registerOptimiser cid => exact execRegisterOptimiser_keeps hk cid
  | recalibrateRows cid => exact execRecalibrateRows_keeps hk cid
  | readLoadCounts cid => exact execReadLoadCounts_keeps hk cid
  | migrateShard cid => exact execMigrateShard_keeps hk cid
  | migrationHandoverComplete table => exact execMigrationHandoverComplete_keeps hk table
  | manifestFetch fn => exact execManifestFetch_keeps hk fn
  | ringIdleRecheck fn => exact execRingIdleRecheck_keeps hk fn
  | tagWaitReread fn => exact execTagWaitReread_keeps hk fn
  | tagStop fn => exact execTagStop_keeps hk fn
  | delegate fn => exact execDelegate_keeps hk fn
  | admissionResume fn => exact execAdmissionResume_keeps hk fn
  | createContext cid => exact execCreateContext_keeps hk cid
  | destroyContext cid => exact execDestroyContext_keeps hk cid
  | registerRecipe cid => exact execRegisterRecipe_keeps hk cid
  | deregisterRecipe cid => exact execDeregisterRecipe_keeps hk cid
  | admitCmd cid idx => exact execAdmitCmd_keeps hk cid idx
  | replayInject cid idx => exact execReplayInject_keeps hk cid idx
  | answer cid => exact execAnswer_keeps hk cid
  | abandon cid => exact execAbandon_keeps hk cid
  | fenceCommand cid => exact execFenceCommand_keeps hk cid
  | clearNumericStatus cid => exact execClearNumericStatus_keeps hk cid
  | waybillCommit wb => exact execWaybillCommit_keeps hk wb
  | commandCommit cid => exact execCommandCommit_keeps hk cid
  | streamSuccessorFile wb idx => exact execStreamSuccessorFile_keeps hk wb idx
  | completionCounterAdvance ctx => exact execCompletionCounterAdvance_keeps hk ctx
  | waybillDrainComplete wb => exact execWaybillDrainComplete_keeps hk wb
  | extensionReadPoison wb => exact execExtensionReadPoison_keeps hk wb
  | ledgerEntryEccError idx copyA copyB => exact execLedgerEntryEccError_keeps hk idx copyA copyB
  | ledgerLockstepMismatch => exact execLedgerLockstepMismatch_keeps hk
  | tickFrameReceive frame edge => exact execTickFrameReceive_keeps hk frame edge
  | holdoverEntry => exact execHoldoverEntry_keeps hk
  | holdoverExpired => exact execHoldoverExpired_keeps hk
  | routeLaneFail port lane => exact execRouteLaneFail_keeps hk port lane
  | routeTrainingStart port => exact execRouteTrainingStart_keeps hk port
  | routeTrainingComplete port rxBad txBad => exact execRouteTrainingComplete_keeps hk port rxBad txBad
  | fecLock port nonce => exact execFecLock_keeps hk port nonce
  | routeBringupTimeout port => exact execRouteBringupTimeout_keeps hk port
  | quarantineHoldEnd port => exact execQuarantineHoldEnd_keeps hk port
  | dataFrame port f trailer => exact execDataFrame_keeps hk port f trailer
  | startFrame port f trailer => exact execStartFrame_keeps hk port f trailer
  | doneFrame port f trailer => exact execDoneFrame_keeps hk port f trailer
  | abortFrame port f trailer => exact execAbortFrame_keeps hk port f trailer
  | creditFrame port f trailer => exact execCreditFrame_keeps hk port f trailer
  | nakFrame port f trailer => exact execNakFrame_keeps hk port f trailer
  | controlTick port f trailer edge => exact execControlTick_keeps hk port f trailer edge
  | controlKeepalive port f trailer => exact execControlKeepalive_keeps hk port f trailer
  | controlLane port f trailer lane => exact execControlLane_keeps hk port f trailer lane
  | keepaliveSend port => exact execKeepaliveSend_keeps hk port
  | helloFrame port f trailer serial nonce enc rtt again => exact execHelloFrame_keeps hk port f trailer serial nonce enc rtt again
  | spdmFrame port f trailer update final ok digest => exact execSpdmFrame_keeps hk port f trailer update final ok digest
  | autoKeyUpdate port => exact execAutoKeyUpdate_keeps hk port
  | loadRouteKeyPin cid => exact execLoadRouteKeyPin_keeps hk cid
  | loadRouteKeyUnpin cid => exact execLoadRouteKeyUnpin_keeps hk cid
  | loadRouteKeyRekey cid => exact execLoadRouteKeyRekey_keeps hk cid
  | islandPowerUp sigA sigB => exact execIslandPowerUp_keeps hk sigA sigB
  | wardenReset sigA sigB => exact execWardenReset_keeps hk sigA sigB
  | wardenWatchdogExpiry sigA sigB => exact execWardenWatchdogExpiry_keeps hk sigA sigB
  | firmwareSecurityFuse => exact execFirmwareSecurityFuse_keeps hk
  | rtcTick => exact execRtcTick_keeps hk
  | mailboxOverrun fn => exact execMailboxOverrun_keeps hk fn
  | getInfo src req => exact execGetInfo_keeps hk src req
  | enterBanked src req => exact execEnterBanked_keeps hk src req
  | leaveBanked src req => exact execLeaveBanked_keeps hk src req
  | readErrorLog src req => exact execReadErrorLog_keeps hk src req
  | readSparingLog src req => exact execReadSparingLog_keeps hk src req
  | chimneyConfig src req => exact execChimneyConfig_keeps hk src req
  | stageBegin src req => exact execStageBegin_keeps hk src req
  | stageData src req => exact execStageData_keeps hk src req
  | stageCommit src req sig => exact execStageCommit_keeps hk src req sig
  | setRtc src req => exact execSetRtc_keeps hk src req
  | mctpControl assign => exact execMctpControl_keeps hk assign
  | pldmSetEventReceiver receiver => exact execPldmSetEventReceiver_keeps hk receiver
  | pldmSensorRead sensor railCurrent => exact execPldmSensorRead_keeps hk sensor railCurrent
  | pldmFirmwareUpdate image data sig activate => exact execPldmFirmwareUpdate_keeps hk image data sig activate
  | spdmGetMeasurements idx => exact execSpdmGetMeasurements_keeps hk idx
  | czResetAssert => exact execCzResetAssert_keeps hk
  | railTrip => exact execRailTrip_keeps hk
  | computeRailsPowerDown => exact execComputeRailsPowerDown_keeps hk
  | czResetRelease sigA sigB => exact execCzResetRelease_keeps hk sigA sigB
  | coldReset src req sigA sigB => exact execColdReset_keeps hk src req sigA sigB
  | stackDramTrained stack ok => exact execStackDramTrained_keeps hk stack ok
  | kindlingEmberTest failed => exact execKindlingEmberTest_keeps hk failed
  | kindlingKnownAnswerTests failed seed => exact execKindlingKnownAnswerTests_keeps hk failed seed
  | cellarEnumeration ctrls => exact execCellarEnumeration_keeps hk ctrls
  | vmad g => exact execVmad_keeps hk g
  | vsel g => exact execVsel_keeps hk g
  | cvt g => exact execCvt_keeps hk g
  | cvtI2f g => exact execCvtI2f_keeps hk g
  | ld g => exact execLd_keeps hk g
  | st g => exact execSt_keeps hk g
  | pref g => exact execPref_keeps hk g
  | lds g => exact execLds_keeps hk g
  | sts g => exact execSts_keeps hk g
  | fence g => exact execFence_keeps hk g
  | bar g => exact execBar_keeps hk g
  | barRelease g => exact execBarRelease_keeps hk g
  | exit g => exact execExit_keeps hk g
  | brk g => exact execBrk_keeps hk g
  | gbind g => exact execGbind_keeps hk g
  | gbindGrant hearth => exact execGbindGrant_keeps hk hearth
  | gfree g => exact execGfree_keeps hk g
  | gwld g => exact execGwld_keeps hk g
  | flue g => exact execFlue_keeps hk g
  | grd g => exact execGrd_keeps hk g
  | flueStreamStart hearth => exact execFlueStreamStart_keeps hk hearth
  | tileCheck hearth idx grate fail => exact execTileCheck_keeps hk hearth idx grate fail
  | grateRerun hearth idx grate => exact execGrateRerun_keeps hk hearth idx grate
  | grateStateEccError hearth grate correctable => exact execGrateStateEccError_keeps hk hearth grate correctable
  | trivetTileStart hearth burner => exact execTrivetTileStart_keeps hk hearth burner
  | trivetParityError hearth burner => exact execTrivetParityError_keeps hk hearth burner
  | throtInAssert => exact execThrotInAssert_keeps hk
  | dieTempSample die temp => exact execDieTempSample_keeps hk die temp
  | powerSample power throtHigh => exact execPowerSample_keeps hk power throtHigh
  | latchingLoRead fn bar off wide => exact execLatchingLoRead_keeps hk fn bar off wide
  | barAccessDropped fn isRead => exact execBarAccessDropped_keeps hk fn isRead
  | registerWrite fn bar off v wide => exact execRegisterWrite_keeps hk fn bar off v wide
  | bxQTailWrite v => exact execBxQTailWrite_keeps hk v
  | bxQueueIdleRecheck => exact execBxQueueIdleRecheck_keeps hk
  | bxQueueEnable v => exact execBxQueueEnable_keeps hk v
  | bxResume v => exact execBxResume_keeps hk v
  | bxSoftReset v flr => exact execBxSoftReset_keeps hk v flr
  | bxStatusRead => exact execBxStatusRead_keeps hk
  | bxNop failed => exact execBxNop_keeps hk failed
  | defineTable failed => exact execDefineTable_keeps hk failed
  | undefineTable failed => exact execUndefineTable_keeps hk failed
  | rowWrite failed => exact execRowWrite_keeps hk failed
  | lookupPool failed => exact execLookupPool_keeps hk failed
  | dense failed => exact execDense_keeps hk failed
  | bxCopy failed => exact execBxCopy_keeps hk failed
  | bxCommandComplete => exact execBxCommandComplete_keeps hk
  | br g => exact execBr_keeps hk g
  | functionReset fn vfEnable => exact execFunctionReset_keeps hk fn vfEnable
  | port0ConventionalReset hot rate width => exact execPort0ConventionalReset_keeps hk hot rate width
  | port1ConventionalReset hot rate width => exact execPort1ConventionalReset_keeps hk hot rate width
  | perstRelease port rate width => exact execPerstRelease_keeps hk port rate width

end Sys2Proof.Machine
end

section
/-!
PROOFS. What every step keeps (log entries 1 and 3, R835): each command keeps what `Keeps` names, but for the device states that the end of
Kindling and a boundary enter, which keep the rest (`Keeps0`).
-/
namespace Sys2Proof.Machine

/-! ### The two commands that enter Service and Banked -/

/-- Whatever next state an outcome answers, what `Keeps0` names is kept from `a`. -/
def OutKeeps0 (a : State) (o : Host.Outcome State Fault Refusal) : Prop := ∀ t, o = .next t → Keeps0 a t

theorem OutKeeps0.next {a s : State} (h : Keeps0 a s) : OutKeeps0 a (.next s) := by
  rintro t ⟨⟩
  exact h

theorem execKindlingEnd_of_not_kindling {s : State} (h : s.kindling = false) (rate0 width0 rate1 width1 : Nat) :
    execKindlingEnd rate0 width0 rate1 width1 s = .next s := by
  unfold execKindlingEnd
  rw [h]
  rfl

/-- Raising the fused image level to the image's keeps the fuses from falling (R830). -/
theorem State.raiseImageSec_keeps (s : State) (v : Nat) {a₀ : State} (hk : Keeps a₀ s) :
    Keeps a₀ (s.mFuses fun f => { f with imageSec := max f.imageSec v }) :=
  State.mFuses_keeps _ _ ⟨rfl, rfl, rfl, le_max_left _ _, le_rfl⟩ hk

/-- The end of Kindling changes neither the queue, nor the clock, nor a memory (R846). -/
theorem execKindlingEnd_keeps0 (rate0 width0 rate1 width1 : Nat) (s : State) :
    OutKeeps0 s (execKindlingEnd rate0 width0 rate1 width1 s) := by
  unfold execKindlingEnd
  split
  · exact .next (.refl s)
  · extract_lets s1 s2 s3 s4 s5 s6 s7 s8 s9 s10 s11 s12
    have h3 : Keeps s s3 := State.mXlt_keeps _ _ (State.mHearths_keeps _ _ (Keeps.foldl (fun s q h => State.mapQuarter_keeps s q h) _ (.refl s)))
    have h4 : Keeps s s4 := State.raiseImageSec_keeps _ _ h3
    have h5 : Keeps0 s s5 := h4.toKeeps0.dev _
    refine .next (h5.then (State.sendTickFrame_keeps _ (Keeps.foldl (fun s p h => State.portBoundary_keeps s p h) _ ?_)))
    exact State.beginAssembly_keeps _ (State.traceTick_keeps _ _ _ (State.snapshot_keeps _ (State.levelsStep_keeps _ (State.mPower_keeps _ _
      (State.mFlt_keeps _ _ (State.mBoot_keeps _ _ (State.mTck_keeps _ _ (.refl _))))))))

theorem execTickBoundary_of_not_live {s : State} (h : s.live = false) : execTickBoundary s = .next s := by
  unfold execTickBoundary
  rw [h]
  rfl

/-- A boundary changes neither the queue, nor the clock, nor the form of a memory (R45). -/
theorem execTickBoundary_keeps0 (s : State) : OutKeeps0 s (execTickBoundary s) := by
  unfold execTickBoundary
  split
  · exact .next (State.boundary_keeps0 _ (.refl s))
  · exact .next (.refl s)

theorem State.dev_of_kindling {s : State} (h : s.kindling = true) : s.dev = .kindling := by
  simp only [State.kindling, Bool.and_eq_true, beq_iff_eq] at h
  exact h.1.1.1

theorem State.dev_of_live {s : State} (h : s.live = true) : s.dev = .service ∨ s.dev = .banked := by
  simp only [State.live, Bool.and_eq_true, Bool.or_eq_true, beq_iff_eq] at h
  exact h.1

/-! ### Every command -/

theorem exec_keeps0 {c : Instr} {s t : State} (h : exec c s = .next t) : Keeps0 s t := by
  by_cases hb : c = .tickBoundary
  · subst hb
    exact execTickBoundary_keeps0 s t h
  by_cases he : ∃ r0 w0 r1 w1, c = .kindlingEnd r0 w0 r1 w1
  · obtain ⟨r0, w0, r1, w1, rfl⟩ := he
    exact execKindlingEnd_keeps0 r0 w0 r1 w1 s t h
  · exact (exec_keeps hb (fun r0 w0 r1 w1 hc => he ⟨r0, w0, r1, w1, hc⟩) (.refl s) t h).toKeeps0

/-! ### The obligations -/

/-- Settles O5: a command keeps the canonical form (`exec_keeps0`), and so does a cycle on an empty queue (`State.idle_keeps`). -/
theorem everyStepKeepsTheMemoriesCanonical : Obligations.EveryStepKeepsTheMemoriesCanonical := by
  intro s t hwf hstep
  unfold step at hstep
  split at hstep
  · cases hstep
    obtain ⟨u, hk, -, -, hmem, hwarden, -⟩ := State.idle_keeps s
    have hu := hk.mem hwf
    rw [memWf_iff] at hu ⊢
    rwa [hmem, hwarden]
  · exact (exec_keeps0 hstep).mem hwf

/-- Settles O6. -/
theorem noCommandTouchesTheQueueOrTheClock : Obligations.NoCommandTouchesTheQueueOrTheClock :=
  fun _ _ _ h => ⟨(exec_keeps0 h).pending, (exec_keeps0 h).time⟩

/-- Settles O8: only the end of Kindling and a boundary are not among the commands of `exec_keeps`, and both say which state they need. -/
theorem onlyKindlingEndAndBoundariesEnterServing : Obligations.OnlyKindlingEndAndBoundariesEnterServing := by
  refine ⟨fun c s t h hserving => ?command, fun s t hp hstep hserving => ?cycle⟩
  case command =>
    by_cases hb : c = .tickBoundary
    · subst hb
      cases hl : s.live with
      | true => exact .inr (.inl ⟨rfl, State.dev_of_live hl⟩)
      | false =>
        cases (execTickBoundary_of_not_live hl).symm.trans h
        exact .inl rfl
    by_cases he : ∃ r0 w0 r1 w1, c = .kindlingEnd r0 w0 r1 w1
    · obtain ⟨r0, w0, r1, w1, rfl⟩ := he
      cases hk : s.kindling with
      | true => exact .inr (.inr ⟨r0, w0, r1, w1, rfl, State.dev_of_kindling hk⟩)
      | false =>
        cases (execKindlingEnd_of_not_kindling hk r0 w0 r1 w1).symm.trans h
        exact .inl rfl
    · exact .inl ((exec_keeps hb (fun r0 w0 r1 w1 hc => he ⟨r0, w0, r1, w1, hc⟩) (.refl s) t h).dev hserving)
  case cycle =>
    unfold step at hstep
    rw [hp] at hstep
    cases hstep
    obtain ⟨u, hk, -, -, -, -, -, hdev⟩ := State.idle_keeps s
    rw [hdev] at hserving ⊢
    exact hk.dev hserving

end Sys2Proof.Machine
end

section
/-!
PROOFS. The vector integer instructions (R388, R394): each row's number modulo 2^32 is the bit vector its clause names, and a compare's mask
holds one bit for each active thread.
-/
namespace Sys2Proof.Machine

/-! ### The numbers of R394 as bit vectors -/

theorem ofInt_toNat_sub_toNat {n : Nat} (a b : BitVec n) : BitVec.ofInt n ((a.toNat : Int) - b.toNat) = a - b := by
  simp [sub_eq_add_neg, BitVec.ofInt_add, BitVec.ofInt_neg]

theorem ofNat_toNat_mul_two_pow {n : Nat} (a : BitVec n) (k : Nat) : BitVec.ofNat n (a.toNat * 2 ^ k) = a <<< k := by
  rw [← Nat.shiftLeft_eq]
  rfl

theorem ofNat_toNat_div_two_pow {n : Nat} (a : BitVec n) (k : Nat) : BitVec.ofNat n (a.toNat / 2 ^ k) = a >>> k := by
  rw [← Nat.shiftRight_eq_div_pow, ← BitVec.toNat_ushiftRight, BitVec.ofNat_toNat, BitVec.setWidth_eq]

theorem ofInt_toInt_div_two_pow {n : Nat} (a : BitVec n) (k : Nat) : BitVec.ofInt n (a.toInt / 2 ^ k) = a.sshiftRight k := by
  rw [BitVec.sshiftRight, Int.shiftRight_eq_div_pow]
  push_cast
  rfl

theorem countP_two_pow_le {n k : Nat} (h : n < 2 ^ k) : ((List.range k).countP fun i => decide (2 ^ i ≤ n)) = n.size := by
  have hsize : n.size ≤ k := Nat.size_le.mpr h
  have hcount : ∀ m, ((List.range m).countP fun i => decide (2 ^ i ≤ n)) = min m n.size := by
    intro m
    induction m with
    | zero => simp
    | succ m ih =>
      have hm := Nat.lt_size (m := m) (n := n)
      rw [List.range_succ, List.countP_append, List.countP_singleton, ih]
      simp only [decide_eq_true_eq, ← hm]
      split <;> omega
  rw [hcount, Nat.min_eq_right hsize]

theorem toS_le_iff_sle {n : Nat} (a b : BitVec n) : toS n a.toNat ≤ toS n b.toNat ↔ a.sle b = true := by
  rw [toS_toNat, toS_toNat, BitVec.sle_iff_toInt_le]

/-! ### The mask of a compare -/

theorem threadMask_append (l m : List Nat) : threadMask (l ++ m) = threadMask l + threadMask m := by simp [threadMask]

theorem threadMask_filter_range (p : Nat → Bool) (n : Nat) :
    threadMask ((List.range n).filter p) < 2 ^ n ∧ ∀ k, (threadMask ((List.range n).filter p)).testBit k = (decide (k < n) && p k) := by
  induction n with
  | zero => exact ⟨by simp [threadMask], fun k => by simp [threadMask]⟩
  | succ n ih =>
    obtain ⟨hlt, hbit⟩ := ih
    rw [List.range_succ, List.filter_append, threadMask_append]
    cases hp : p n with
    | false =>
      have hnil : threadMask ([n].filter p) = 0 := by simp [hp, threadMask]
      rw [hnil, Nat.add_zero]
      refine ⟨hlt.trans (Nat.pow_lt_pow_right (by decide) n.lt_succ_self), fun k => ?_⟩
      rw [hbit]
      rcases lt_trichotomy k n with h | rfl | h
      · simp [h, h.trans n.lt_succ_self]
      · simp [hp]
      · simp [show ¬k < n by omega, show ¬k < n + 1 by omega]
    | true =>
      have hone : threadMask ([n].filter p) = 2 ^ n := by simp [hp, threadMask]
      rw [hone, Nat.add_comm]
      refine ⟨by rw [pow_succ]; omega, fun k => ?_⟩
      rcases lt_trichotomy k n with h | rfl | h
      · rw [Nat.testBit_two_pow_add_gt h, hbit]
        simp [h, h.trans n.lt_succ_self]
      · rw [Nat.testBit_two_pow_add_eq, hbit]
        simp [hp]
      · rw [Nat.testBit_lt_two_pow (lt_of_lt_of_le (by omega : _ < 2 ^ n + 2 ^ n) (by
          rw [← two_mul, ← pow_succ']; exact Nat.pow_le_pow_right (by decide) h))]
        simp [show ¬k < n + 1 by omega]

/-- The mask of the active threads that satisfy a condition, bit by bit. -/
theorem Group.getLsbD_bitsWhere (g : Group) (p : Nat → Bool) {t : Nat} (ht : t < 64) :
    (BitVec.ofNat 64 (g.bitsWhere p)).getLsbD t = (g.exec.getLsbD t && p t) := by
  rw [BitVec.getLsbD_ofNat, Group.bitsWhere, Group.active, List.filter_filter, (threadMask_filter_range _ 64).2]
  simp [ht, Bool.and_comm]

/-! ### Completion -/

/-- A row with an immediate form issues in classes 0x2 and 0x4. -/
theorem vcodes_contains {i : Issue} {func : Nat} (hfunc : func ≤ 0x14) (hi : i.is 2 func ∨ i.is 4 func) :
    (vcodes func).contains (wCls i.w, wFunc i.w) = true := by
  rw [vcodes, if_pos hfunc]
  rcases hi with ⟨hc, hf⟩ | ⟨hc, hf⟩ <;> simp [hc, hf]

section
variable {s : State} {r : GroupRef} {i : Issue} (h : s.issue? r = some i) {func : Nat} {c : Instr}
include h

/-- A vector integer row completes and retires, the active threads of VD holding the row's number modulo 2^32. -/
theorem retires_of_vecOp {f : Nat → Nat → Nat} (F : BitVec 32 → BitVec 32 → BitVec 32)
    (hfunc : func ≤ 0x14) (hi : i.is 2 func ∨ i.is 4 func) (he : exec c s = .next (s.vecOp r func f))
    (hF : ∀ a b : BitVec 32, BitVec.ofNat 32 (f a.toNat b.toNat) = F a b) :
    ∃ t, exec c s = .next t ∧ i.Retired i.s (i.g.vput (wZ i.w) (wVd i.w) fun t => F (i.laneA t) (i.laneB t)) t := by
  refine ⟨_, he, isaStep_retires h (vcodes_contains hfunc hi) (congrArg (Did.retire · i.s) ?_) rfl⟩
  simp only [Group.vset_eq, Issue.a_eq, Issue.b_eq, hF]

/-- A compare of two registers writes the mask of the active threads where it holds. -/
theorem retires_of_vecCmp {signed : Bool} (v : BitVec 32 → Int) (hfunc : func ≤ 0x14) (hi : i.is 2 func)
    (he : exec c s = .next (s.vecCmp r func signed)) (hv : ∀ a : BitVec 32, (if signed then toS 32 a.toNat else (a.toNat : Int)) = v a) :
    ∃ m : BitVec 64, (∀ t < 64, m.getLsbD t = (i.g.exec.getLsbD t && cmpHolds (wVc i.w) (v (i.laneA t)) (v (i.laneB t)))) ∧
      ∃ t, exec c s = .next t ∧ i.Retired i.s (i.g.sput (wVd i.w) m) t := by
  refine ⟨_, fun t ht => i.g.getLsbD_bitsWhere _ ht, _, he, isaStep_retires h (vcodes_contains hfunc (.inl hi)) ?_ rfl⟩
  rw [if_neg (by rw [hi.1]; decide)]
  simp only [Issue.ret, Group.sset_eq, Issue.a_eq, Issue.b_eq, hv]

/-- The immediate form of a compare writes free bits, none of them at an inactive thread (log entry 5). -/
theorem retires_of_vecCmp_imm {signed : Bool} (hfunc : func ≤ 0x14) (hi : i.is 4 func) (he : exec c s = .next (s.vecCmp r func signed)) :
    ∃ m : BitVec 64, (∀ t < 64, i.g.exec.getLsbD t = false → m.getLsbD t = false) ∧
      ∃ t, exec c s = .next t ∧ i.Retired (i.s.tookFree 1) (i.g.sput (wVd i.w) m) t := by
  refine ⟨BitVec.ofNat 64 (i.g.exec.toNat &&& i.free 0), fun t ht hex => ?_, _, he,
    isaStep_retires h (vcodes_contains hfunc (.inr hi)) (if_pos hi.1) rfl⟩
  simp [BitVec.getLsbD_ofNat, hex]

/-- VMAD adds a register, or in its immediate form a free addend (log entry 5). -/
theorem execVmad_retires (hi : i.is 2 5) : ∃ t, exec (.vmad r) s = .next t ∧
    i.Retired i.s (i.g.vput (wZ i.w) (wVd i.w) fun t => i.laneA t * i.laneB t + i.g.vreg (wVc i.w) t) t := by
  refine ⟨_, rfl, isaStep_retires h (vcodes_contains (by decide) (.inl hi)) ?_ rfl⟩
  simp [hi.1, Group.vset_eq, Issue.a_eq, Issue.b_eq, BitVec.ofNat_add, BitVec.ofNat_mul]

theorem execVmad_imm_retires (hi : i.is 4 5) : ∃ t, exec (.vmad r) s = .next t ∧
    i.Retired (i.s.tookFree 64) (i.g.vput (wZ i.w) (wVd i.w) fun t => i.laneA t * i.laneB t + BitVec.ofNat 32 (i.free t)) t := by
  refine ⟨_, rfl, isaStep_retires h (vcodes_contains (by decide) (.inr hi)) ?_ rfl⟩
  simp [hi.1, Group.vset_eq, Issue.a_eq, Issue.b_eq, BitVec.ofNat_add, BitVec.ofNat_mul]

/-- VMOV has no immediate form. -/
theorem execVmov_retires (hi : i.is 2 0x16) : ∃ t, exec (.vmov r) s = .next t ∧
    i.Retired i.s (i.g.vput (wZ i.w) (wVd i.w) fun t => i.laneA t) t := by
  refine ⟨_, rfl, isaStep_retires h (by rw [hi.1, hi.2]; rfl) (congrArg (Did.retire · i.s) ?_) rfl⟩
  simp [Group.vset_eq, Issue.a_eq]

end

/-! ### The obligation -/

/-- Settles O14: each row's number modulo 2^32 is the bit vector its clause names, and the row retires with it. -/
theorem vectorIntegerInstructions : Obligations.VectorIntegerInstructions := by
  intro s r i h
  refine ⟨fun hi => ?vadd, fun hi => ?vsub, fun hi => ?vmul, fun hi => ?vmulhiS, fun hi => ?vmulhiU, fun hi => ?vand, fun hi => ?vor,
    fun hi => ?vxor, fun hi => ?vshl, fun hi => ?vshr, fun hi => ?vsar, fun hi => ?vminS, fun hi => ?vmaxS, fun hi => ?vminU, fun hi => ?vmaxU,
    fun hi => ?vabs, fun hi => ?vclz, fun hi => ?vpopc, execVmad_retires h, fun hi => ⟨_, execVmad_imm_retires h hi⟩, fun hi => ?vcmpS,
    fun hi => retires_of_vecCmp_imm h (by decide) hi rfl, fun hi => ?vcmpU, fun hi => retires_of_vecCmp_imm h (by decide) hi rfl,
    fun hi => ?vsel, execVmov_retires h, fun hi => ?vlane⟩
  case vadd => exact retires_of_vecOp h (· + ·) (by decide) hi rfl fun a b => by simp [BitVec.ofNat_add]
  case vsub => exact retires_of_vecOp h (· - ·) (by decide) hi rfl fun a b => by rw [ofNat_ofS, ofInt_toNat_sub_toNat]
  case vmul => exact retires_of_vecOp h (· * ·) (by decide) hi rfl fun a b => by simp [BitVec.ofNat_mul]
  case vmulhiS =>
    exact retires_of_vecOp h (fun a b => BitVec.ofInt 32 (a.toInt * b.toInt / 2 ^ 32)) (by decide) hi rfl fun a b => by
      rw [ofNat_ofS, toS_toNat, toS_toNat]
  case vmulhiU => exact retires_of_vecOp h (fun a b => BitVec.ofNat 32 (a.toNat * b.toNat / 2 ^ 32)) (by decide) hi rfl fun a b => rfl
  case vand => exact retires_of_vecOp h (· &&& ·) (by decide) hi rfl fun a b => by simp [BitVec.ofNat_and]
  case vor => exact retires_of_vecOp h (· ||| ·) (by decide) hi rfl fun a b => by simp [BitVec.ofNat_or]
  case vxor => exact retires_of_vecOp h (· ^^^ ·) (by decide) hi rfl fun a b => by simp [BitVec.ofNat_xor]
  case vshl => exact retires_of_vecOp h (fun a b => a <<< (b.toNat % 32)) (by decide) hi rfl fun a b => ofNat_toNat_mul_two_pow ..
  case vshr => exact retires_of_vecOp h (fun a b => a >>> (b.toNat % 32)) (by decide) hi rfl fun a b => ofNat_toNat_div_two_pow ..
  case vsar =>
    exact retires_of_vecOp h (fun a b => a.sshiftRight (b.toNat % 32)) (by decide) hi rfl fun a b => by
      rw [ofNat_ofS, toS_toNat, ofInt_toInt_div_two_pow]
  case vminS =>
    exact retires_of_vecOp h (fun a b => if a.sle b then a else b) (by decide) hi rfl fun a b => by
      simp only [toS_le_iff_sle, apply_ite (BitVec.ofNat 32), BitVec.ofNat_toNat, BitVec.setWidth_eq]
  case vmaxS =>
    exact retires_of_vecOp h (fun a b => if a.sle b then b else a) (by decide) hi rfl fun a b => by
      simp only [toS_le_iff_sle, apply_ite (BitVec.ofNat 32), BitVec.ofNat_toNat, BitVec.setWidth_eq]
  case vminU =>
    exact retires_of_vecOp h (fun a b => if a.ule b then a else b) (by decide) hi rfl fun a b => by
      simp only [min_def, ← BitVec.ule_iff_toNat_le, apply_ite (BitVec.ofNat 32), BitVec.ofNat_toNat, BitVec.setWidth_eq]
  case vmaxU =>
    exact retires_of_vecOp h (fun a b => if a.ule b then b else a) (by decide) hi rfl fun a b => by
      simp only [max_def, ← BitVec.ule_iff_toNat_le, apply_ite (BitVec.ofNat 32), BitVec.ofNat_toNat, BitVec.setWidth_eq]
  case vabs => exact retires_of_vecOp h (fun a _ => BitVec.ofNat 32 a.toInt.natAbs) (by decide) hi rfl fun a _ => by rw [toS_toNat]
  case vclz =>
    exact retires_of_vecOp h (fun a _ => BitVec.ofNat 32 (32 - a.toNat.size)) (by decide) hi rfl fun a _ => by rw [countP_two_pow_le a.isLt]
  case vpopc =>
    exact retires_of_vecOp h (fun a _ => BitVec.ofNat 32 ((List.range 32).countP fun n => a.getLsbD n)) (by decide) hi rfl fun a _ => by
      rw [popCount_toNat]
  case vcmpS => exact retires_of_vecCmp h BitVec.toInt (by decide) hi rfl fun a => toS_toNat 32 a
  case vcmpU => exact retires_of_vecCmp h (fun a => a.toNat) (by decide) hi rfl fun a => rfl
  case vsel => exact retires_of_ret h hi rfl (by simp [Group.vset_eq, Issue.a_eq, Issue.b_eq, BitVec.testBit_toNat, apply_ite (BitVec.ofNat 32)])
  case vlane => exact retires_of_ret h hi rfl rfl

end Sys2Proof.Machine
end

section
/-!
PROOFS. Rounding of a magnitude to a multiple of a power of two, by mode (R138, R140).
-/
namespace Sys2Proof.Machine

theorem roundSh_exact (r : Rnd) {m sh : Nat} (h : m % 2 ^ sh = 0) : roundSh r m sh = (m / 2 ^ sh, false) := by
  unfold roundSh
  exact if_pos h

/-- RNE goes up past the midpoint, and at it from an odd multiple. -/
theorem roundSh_nearest (d : Nat) {m sh : Nat} (h : m % 2 ^ sh ≠ 0) : roundSh { mode := 0, draw := d } m sh =
    (if 2 ^ sh < 2 * (m % 2 ^ sh) ∨ 2 ^ sh = 2 * (m % 2 ^ sh) ∧ m / 2 ^ sh % 2 = 1 then m / 2 ^ sh + 1 else m / 2 ^ sh, true) := by
  unfold roundSh
  rw [if_neg h]
  simp

theorem roundSh_stochastic (d : Nat) {m sh : Nat} (h : m % 2 ^ sh ≠ 0) : roundSh { mode := 1, draw := d } m sh =
    (m / 2 ^ sh + if d < m % 2 ^ sh * 65536 / 2 ^ sh then 1 else 0, true) := by
  unfold roundSh
  rw [if_neg h]
  simp only [decide_eq_true_eq]
  split <;> rfl

theorem roundSh_toward_zero (d mode : Nat) {m sh : Nat} (h : m % 2 ^ sh ≠ 0) :
    roundSh { mode := mode + 2, draw := d } m sh = (m / 2 ^ sh, true) := by
  unfold roundSh
  rw [if_neg h]
  rfl

/-- What RNE answers lies within half a multiple of the magnitude, and is even when it lies half a multiple away. -/
theorem nearest_multiple_bounds (m sh : Nat) : ∃ n,
    (if 2 ^ sh < 2 * (m % 2 ^ sh) ∨ 2 ^ sh = 2 * (m % 2 ^ sh) ∧ m / 2 ^ sh % 2 = 1 then m / 2 ^ sh + 1 else m / 2 ^ sh) = n ∧
    2 * m ≤ (2 * n + 1) * 2 ^ sh ∧ (2 * n - 1) * 2 ^ sh ≤ 2 * m ∧ (2 * (m % 2 ^ sh) = 2 ^ sh → n % 2 = 0) := by
  have hdiv := Nat.div_add_mod m (2 ^ sh)
  have hlt := Nat.mod_lt m (Nat.two_pow_pos sh)
  generalize m % 2 ^ sh = rem at *
  generalize m / 2 ^ sh = q at *
  generalize 2 ^ sh = d at *
  subst hdiv
  refine ⟨_, rfl, ?_⟩
  split
  case isTrue hup => exact ⟨by ring_nf; omega, by rw [Nat.sub_mul]; ring_nf; omega, by omega⟩
  case isFalse hdown => exact ⟨by ring_nf; omega, by rw [Nat.sub_mul]; ring_nf; omega, by omega⟩

/-- Settles O17: an exact magnitude is kept, and each mode's clause is its own equation of `roundSh`. -/
theorem roundingFollowsTheMode : Obligations.RoundingFollowsTheMode := by
  intro r m sh
  refine ⟨roundSh_exact r, fun h => ?_⟩
  match r with
  | { mode := 0, draw := d } =>
    obtain ⟨n, hn, hbounds⟩ := nearest_multiple_bounds m sh
    exact ⟨n, by rw [roundSh_nearest d h, hn], fun _ => hbounds, by simp, by simp⟩
  | { mode := 1, draw := d } => exact ⟨_, roundSh_stochastic d h, by simp, fun _ => rfl, by simp⟩
  | { mode := k + 2, draw := d } => exact ⟨_, roundSh_toward_zero d k h, by simp, by simp, fun _ => rfl⟩

end Sys2Proof.Machine
end

section
/-!
PROOFS. Local store accesses (R409, R410): the fault of a thread, the body or the fault of the instruction, and the bytes a store leaves.
-/
namespace Sys2Proof.Machine

theorem Issue.length_storeBytes_le (i : Issue) (t : Nat) : (i.storeBytes t).length ≤ 2 ^ wSize i.w := List.length_take_le ..

theorem Issue.lsFault_eq (i : Issue) (n t : Nat) : i.lsFault n t =
    if i.g.lsAddr i.w t < 0 ∨ (lnLs i.c : Int) < i.g.lsAddr i.w t + n then some 0x405
    else if i.g.lsAddr i.w t % n = 0 then none else some 0x40A := by
  unfold Issue.lsFault
  simp

/-- A thread's access faults exactly when it is negative, reaches past the block's local store, or is misaligned (R410). -/
theorem Issue.lsFault_eq_none_iff (i : Issue) (n t : Nat) : i.lsFault n t = none ↔
    0 ≤ i.g.lsAddr i.w t ∧ i.g.lsAddr i.w t + n ≤ lnLs i.c ∧ i.g.lsAddr i.w t % n = 0 := by
  rw [i.lsFault_eq]
  split
  · next h => simp only [reduceCtorEq, false_iff]; omega
  · next h =>
    rw [not_or, not_lt, not_lt] at h
    simp [h]

/-- The code of a thread that faults: the range is tested before the alignment (R410). -/
theorem Issue.getD_lsFault {i : Issue} {n t : Nat} (h : (i.lsFault n t).isSome) (d : Nat) : (i.lsFault n t).getD d =
    if i.g.lsAddr i.w t < 0 ∨ (lnLs i.c : Int) < i.g.lsAddr i.w t + n then 0x405 else 0x40A := by
  rw [i.lsFault_eq] at h ⊢
  split
  · rfl
  · next hr =>
    rw [if_neg hr] at h
    split
    · next hm => simp [hm] at h
    · rfl

theorem Issue.lsStep_of_no_fault {i : Issue} {n : Nat} (h : ∀ t ∈ i.g.active, i.lsFault n t = none) (body : Unit → Did) :
    i.lsStep n body = body () := by
  unfold Issue.lsStep
  rw [List.filter_eq_nil_iff.mpr fun t ht => by simp [h t ht]]

/-- With a faulting thread the instruction faults whole, by the lowest one and with the mask of all. -/
theorem Issue.lsStep_of_fault {i : Issue} {n k : Nat} {rest : List Nat}
    (h : (i.g.active.filter fun t => (i.lsFault n t).isSome) = k :: rest) (body : Unit → Did) :
    i.lsStep n body = .fault (if i.g.lsAddr i.w k < 0 ∨ (lnLs i.c : Int) < i.g.lsAddr i.w k + n then 0x405 else 0x40A)
      (threadMask (k :: rest)) (ofS 64 (i.g.lsAddr i.w k)) none := by
  have hmem : k ∈ i.g.active.filter fun t => (i.lsFault n t).isSome := h ▸ List.mem_cons_self
  have hk : (i.lsFault n k).isSome := (List.mem_filter.mp hmem).2
  unfold Issue.lsStep
  rw [h, ← Issue.getD_lsFault hk 0x405]

/-- At a group whose next instruction is one of a row's and whose body faults, the row answers the precise fault of the state it fetched in. -/
theorem isaStep_faults {s : State} {r : GroupRef} {i : Issue} (h : s.issue? r = some i) {codes : List (Nat × Nat)} {body : Issue → Did}
    (hc : codes.contains (wCls i.w, wFunc i.w) = true) {code mask addr : Nat} {level : Option Nat} (hb : body i = .fault code mask addr level) :
    s.isaStep r codes body = i.s.groupFault r { i.g with pc := i.g.pc - 8 } code mask addr level := by
  obtain ⟨g, -, -, hr, -⟩ := issue?_cases h
  obtain ⟨forced, e⟩ := isaStep_of_issue h (body := body) hc
  rw [e, hb, hr]

theorem Issue.is.contains {i : Issue} {cls func : Nat} (h : i.is cls func) : [(cls, func)].contains (wCls i.w, wFunc i.w) = true := by
  rw [h.1, h.2]
  simp

/-- The bytes a store leaves outside those its threads write. -/
theorem cellGet_foldl_storeBytes (i : Issue) (q : Nat) (l : List Nat) (m : List Host.Cell) (hpos : ∀ k ∈ l, 0 ≤ i.g.lsAddr i.w k)
    (hout : ∀ k ∈ l, (q : Int) < i.g.lsAddr i.w k ∨ i.g.lsAddr i.w k + 2 ^ wSize i.w ≤ q) :
    cellGet (l.foldl (fun m k => cellsSet m (i.g.lsAddr i.w k).toNat (i.storeBytes k)) m) q = cellGet m q := by
  induction l generalizing m with
  | nil => rfl
  | cons k t ih =>
    have hlen : ((i.storeBytes k).length : Int) ≤ 2 ^ wSize i.w := by exact_mod_cast i.length_storeBytes_le k
    have h0 := hpos k List.mem_cons_self
    have hk := hout k List.mem_cons_self
    rw [List.foldl_cons, ih _ (fun j hj => hpos j (List.mem_cons_of_mem _ hj)) fun j hj => hout j (List.mem_cons_of_mem _ hj)]
    exact cellGet_cellsSet_ne _ _ _ _ (by omega)

/-- Settles O21: without a faulting thread the body acts, with one the instruction faults whole. -/
theorem localStoreAccesses : Obligations.LocalStoreAccesses := by
  intro s r i h
  refine ⟨fun hi hok => ?lds, fun hi hok => ?sts, fun _ l m q => cellGet_foldl_storeBytes i q l m, i.lsFault_eq_none_iff,
    fun k rest hbad c hc => ?fault⟩
  case lds => exact retires_of_ret h hi rfl (i.lsStep_of_no_fault hok _)
  case sts =>
    refine ⟨_, rfl, isaStep_retires h hi.contains ((i.lsStep_of_no_fault hok _).trans ?_) rfl⟩
    have htime : i.s.time = s.time := by rw [(issue?_frame h).rest]
    simp only [Group.progress, State.mHearths, htime, Bool.and_eq_true, beq_iff_eq]
  case fault =>
    have hbody := fun body => i.lsStep_of_fault hbad body
    push_cast at hbody
    rcases hc with ⟨hi, rfl⟩ | ⟨hi, rfl⟩
    · exact congrArg _ (isaStep_faults h hi.contains (hbody _))
    · exact congrArg _ (isaStep_faults h hi.contains (hbody _))

end Sys2Proof.Machine
end

section
/-!
PROOFS. FENCE, BAR, NOP, EXIT, BRK and FLCLR (R354, R417 to R431): what draining the combining buffer, flushing the L1 and the end of a group
leave of a Hearth, its groups and the command.
-/
namespace Sys2Proof.Machine

/-! ### What leaves the Hearths, or the Depot, as they are -/

@[simp] theorem State.drainWc_hearths (s : State) (e : WcEntry) : (s.drainWc e).hearths = s.hearths :=
  foldl_proj State.hearths _ (fun _ _ => by rfl) _ s

@[simp] theorem State.drainWc_depot (s : State) (e : WcEntry) : (s.drainWc e).depot = s.depot := foldl_proj State.depot _ (fun _ _ => by rfl) _ s

@[simp] theorem State.depotAlloc_hearths (s : State) (p : PA) (st : Bool) : (s.depotAlloc p st).hearths = s.hearths := by
  unfold State.depotAlloc
  split
  · split <;> rfl
  · rfl

@[simp] theorem State.storeCommitted_hearths (s : State) (c : Option Nat) (a : Nat × List Byte) (sp : Space) (t z w : Bool) :
    (s.storeCommitted c a sp t z w).hearths = s.hearths := by
  unfold State.storeCommitted
  dsimp only
  split <;> exact depotAlloc_hearths ..

@[simp] theorem State.store_hearths (s : State) (u : CUnit) (c : Option Nat) (attr : Nat) (p : PA) (bs : List Byte) (a z : Bool) :
    (s.store u c attr p bs a z).hearths = s.hearths := by
  unfold State.store
  split
  · rfl
  · split
    · exact foldl_proj State.hearths _ (fun _ _ => by rfl) _ s
    · exact foldl_proj State.hearths _ (fun _ _ => storeCommitted_hearths ..) _ s

@[simp] theorem State.writeLine_hearths (s : State) (l : L1Line) : (s.writeLine l).hearths = s.hearths :=
  foldl_proj State.hearths _ (fun _ _ => store_hearths ..) _ s

@[simp] theorem State.dropCommitted_hearths (s : State) (p : PA) : (s.dropCommitted p).hearths = s.hearths := by
  unfold State.dropCommitted
  split
  · rfl
  · dsimp only
    split <;> rfl

@[simp] theorem State.cleanCtx_hearths (s : State) (ctx : Nat) : (s.cleanCtx ctx).hearths = s.hearths :=
  foldl_proj State.hearths _ (fun _ _ => dropCommitted_hearths ..) _ s

@[simp] theorem State.noWait_hearths (s : State) (r : GroupRef) : (s.noWait r).hearths = s.hearths := rfl

@[simp] theorem State.stepDone_hearths (s : State) (g : Group) : (s.stepDone g).hearths = s.hearths := by
  unfold State.stepDone
  split
  · split <;> rfl
  · rfl

theorem State.hearth_congr {s t : State} (h : t.hearths = s.hearths) (n : Nat) : t.hearth n = s.hearth n := by
  unfold State.hearth
  rw [h]

/-! ### The combining buffer and the L1 of a Hearth -/

/-- Draining takes the entries that meet the condition out of the buffer, and changes nothing else of the Hearth. -/
@[simp] theorem State.drainWcWhere_hearth (s : State) (h : Nat) (p : WcEntry → Bool) :
    (s.drainWcWhere h p).hearth h = { s.hearth h with wc := (s.hearth h).wc.filter fun e => !p e } := by
  unfold State.drainWcWhere
  rw [State.mHearth_self, State.hearth_congr (foldl_proj State.hearths _ (fun _ _ => drainWc_hearths ..) _ s)]

@[simp] theorem State.drainWcWhere_groups (s : State) (h : Nat) (p : WcEntry → Bool) :
    (s.drainWcWhere h p).hearths.groups = s.hearths.groups := (drainWcWhere_memFrame s h p).groups

@[simp] theorem State.drainWcWhere_depot (s : State) (h : Nat) (p : WcEntry → Bool) : (s.drainWcWhere h p).depot = s.depot :=
  foldl_proj State.depot _ (fun _ _ => drainWc_depot ..) _ s

@[simp] theorem State.flushL1_hearth (s : State) (h cid : Nat) :
    (s.flushL1 h cid).hearth h = { s.hearth h with l1 := (s.hearth h).l1.filter (·.cid != cid) } := by
  unfold State.flushL1
  rw [State.mHearth_self, State.hearth_congr (foldl_proj State.hearths _ writeLine_hearths _ s)]

@[simp] theorem State.flushL1_groups (s : State) (h cid : Nat) : (s.flushL1 h cid).hearths.groups = s.hearths.groups :=
  (flushL1_memFrame s h cid).groups

theorem State.MemFrame.stk {s t : State} (h : s.MemFrame t) : t.stk = s.stk := by rw [h.rest]

theorem State.MemFrame.dev {s t : State} (h : s.MemFrame t) : t.dev = s.dev := by rw [h.rest]

theorem State.MemFrame.time {s t : State} (h : s.MemFrame t) : t.time = s.time := by rw [h.rest]

/-! ### What retiring leaves of the Hearth -/

theorem Issue.Retired.wc {i : Issue} {u t : State} {g : Group} (h : i.Retired u g t) : (t.hearth i.r.hearth).wc = (u.hearth i.r.hearth).wc := by
  obtain ⟨p, -, hown⟩ := h.own
  rw [hown]

theorem Issue.Retired.l1 {i : Issue} {u t : State} {g : Group} (h : i.Retired u g t) : (t.hearth i.r.hearth).l1 = (u.hearth i.r.hearth).l1 := by
  obtain ⟨p, -, hown⟩ := h.own
  rw [hown]

theorem Issue.Retired.depot {i : Issue} {u t : State} {g : Group} (h : i.Retired u g t) : t.depot = u.depot := by rw [h.rest]

theorem Issue.Held.wc {i : Issue} {u t : State} {g : Group} (h : i.Held u g t) : (t.hearth i.r.hearth).wc = (u.hearth i.r.hearth).wc := by
  obtain ⟨p, -, hown⟩ := h.own
  rw [hown]

theorem issue?_r {s : State} {r : GroupRef} {i : Issue} (h : s.issue? r = some i) : i.r = r := by
  obtain ⟨g, -, -, hr, -⟩ := issue?_cases h
  exact hr

/-! ### FENCE -/

/-- The state in which a FENCE that does not fault retires (R417). -/
def Issue.fenced (i : Issue) : State :=
  let t := i.s.drainWcWhere i.r.hearth fun e => e.grp == i.r
  if i.s.dev = .service then t
  else
    let t := if 2 ≤ bits i.w 17 16 then t.flushL1 i.r.hearth i.g.cid else t
    if bits i.w 17 16 = 3 then t.cleanCtx i.c.ctx else t

theorem State.MemFrame.ite {s a b : State} {c : Prop} [Decidable c] (ha : s.MemFrame a) (hb : s.MemFrame b) : s.MemFrame (if c then a else b) := by
  split <;> assumption

theorem Issue.fenced_memFrame (i : Issue) : i.s.MemFrame i.fenced :=
  have hdrain := drainWcWhere_memFrame i.s i.r.hearth fun e => e.grp == i.r
  have hflush := State.MemFrame.ite (c := 2 ≤ bits i.w 17 16) (hdrain.trans (flushL1_memFrame _ i.r.hearth i.g.cid)) hdrain
  .ite hdrain (.ite (hflush.trans (cleanCtx_memFrame ..)) hflush)

/-- A FENCE leaves no combining entry of its group. -/
theorem Issue.fenced_wc (i : Issue) : (i.fenced.hearth i.r.hearth).wc = (i.s.hearth i.r.hearth).wc.filter fun e => !(e.grp == i.r) := by
  unfold Issue.fenced
  dsimp only
  split
  · rw [State.drainWcWhere_hearth]
  · have hclean (t : State) : (if bits i.w 17 16 = 3 then t.cleanCtx i.c.ctx else t).hearth i.r.hearth = t.hearth i.r.hearth := by
      split
      · exact State.hearth_congr (State.cleanCtx_hearths ..) _
      · rfl
    rw [hclean]
    split <;> simp

/-- Outside Service a FENCE of scope DEVICE or SYSTEM leaves no L1 line of its command. -/
theorem Issue.fenced_l1 (i : Issue) (hdev : i.s.dev ≠ .service) (hscope : 2 ≤ bits i.w 17 16) :
    (i.fenced.hearth i.r.hearth).l1 = (i.s.hearth i.r.hearth).l1.filter (·.cid != i.g.cid) := by
  unfold Issue.fenced
  dsimp only
  rw [if_neg hdev, if_pos hscope]
  split
  · rw [State.hearth_congr (State.cleanCtx_hearths ..)]
    simp
  · simp

/-- In Service, or with a narrower scope, a FENCE only drains. -/
theorem Issue.fenced_of_drain (i : Issue) (h : i.s.dev = .service ∨ bits i.w 17 16 < 2) :
    i.fenced = i.s.drainWcWhere i.r.hearth fun e => e.grp == i.r := by
  unfold Issue.fenced
  dsimp only
  split
  · rfl
  · next hdev =>
    have hlt := h.resolve_left hdev
    rw [if_neg (by omega), if_neg (by omega)]

theorem execFence_retires {s : State} {r : GroupRef} {i : Issue} (h : s.issue? r = some i) (hi : i.is 12 0)
    (hok : ¬(i.s.dev = .service ∧ bits i.w 17 16 = 3)) : ∃ t, exec (.fence r) s = .next t ∧ i.Retired i.fenced i.g t := by
  refine ⟨_, rfl, isaStep_retires h hi.contains ?_ i.fenced_memFrame.groups⟩
  simp only [beq_iff_eq, Issue.fenced]
  split
  · next hdev => rw [if_neg fun hs => hok ⟨hdev, hs⟩]
  · rfl

/-! ### The end of a group -/

@[simp] theorem State.launchEnd_logical (s : State) (cid : Nat) : (s.launchEnd cid).hearths.logical = s.hearths.logical := by
  unfold State.launchEnd
  split
  · split <;> rfl
  · rfl

@[simp] theorem State.launchEnd_groups (s : State) (cid : Nat) : (s.launchEnd cid).hearths.groups = s.hearths.groups := by
  unfold State.launchEnd
  split
  · split <;> rfl
  · rfl

theorem State.launchEnd_flags (s : State) (cid : Nat) : ((s.launchEnd cid).cmd? cid).map (·.flags) = (s.cmd? cid).map (·.flags) := by
  unfold State.launchEnd
  split
  · split
    · rw [State.mCmd_cmd?_self, Option.map_map]
      rfl
    · rfl
  · rfl

theorem State.hearth_congr_logical {s t : State} (h : t.hearths.logical = s.hearths.logical) (n : Nat) : t.hearth n = s.hearth n := by
  unfold State.hearth
  rw [h]

/-- The Hearth once a group has ended: the group holds no Grate, tile or buffer entry, and with the last of its command the command's L1 lines
are gone (R354, R423, R534). -/
theorem State.endGroup_hearth (s : State) (r : GroupRef) (g : Group) : (s.endGroup r g).hearth r.hearth =
    { (s.hearth r.hearth).release r with
      wc := (s.hearth r.hearth).wc.filter fun e => !(e.grp == r || (s.lastOn r g && e.cid == g.cid))
      l1 := if s.lastOn r g then (s.hearth r.hearth).l1.filter (·.cid != g.cid) else (s.hearth r.hearth).l1 } := by
  unfold State.endGroup
  dsimp only
  rw [State.hearth_congr_logical (State.launchEnd_logical ..)]
  have hkeep (u : State) (f : Hearths → Hearths) (k : Nat) (c : Cmd → Cmd) (hf : (f u.hearths).logical = u.hearths.logical) :
      ((u.mHearths f).mCmd k c).hearth r.hearth = u.hearth r.hearth := State.hearth_congr_logical hf _
  rw [hkeep _ _ _ _ rfl]
  split <;> simp [Hearth.release]

theorem State.endGroup_groups (s : State) (r : GroupRef) (g : Group) : (s.endGroup r g).hearths.groups = mapErase s.hearths.groups (gkey r) := by
  unfold State.endGroup
  dsimp only
  rw [State.launchEnd_groups]
  show mapErase (State.hearths (if _ then _ else _)).groups _ = _
  split
  · rw [State.flushL1_groups]
    exact congrArg (mapErase · _) (State.drainWcWhere_groups ..)
  · exact congrArg (mapErase · _) (State.drainWcWhere_groups ..)

/-- The group's flags join its command's (R158). -/
theorem State.endGroup_flags (s : State) (r : GroupRef) (g : Group) :
    ((s.endGroup r g).cmd? g.cid).map (·.flags) = (s.cmd? g.cid).map fun c => c.flags ||| g.flags := by
  unfold State.endGroup
  dsimp only
  rw [State.launchEnd_flags, State.mCmd_cmd?_self, Option.map_map]
  unfold State.cmd?
  show Option.map _ (mapGet (State.stk (if _ then _ else _)).cmds _) = _
  split
  · rw [(flushL1_memFrame ..).stk]
    show Option.map _ (mapGet (State.drainWcWhere s _ _).stk.cmds _) = _
    rw [(drainWcWhere_memFrame ..).stk]
    rfl
  · show Option.map _ (mapGet (State.drainWcWhere s _ _).stk.cmds _) = _
    rw [(drainWcWhere_memFrame ..).stk]
    rfl

/-! ### The instructions -/

/-- A row whose instruction drains or flushes, or records, and then ends its group: only the issue is counted after it. -/
theorem isaStep_gone {s : State} {r : GroupRef} {i : Issue} (h : s.issue? r = some i) {codes : List (Nat × Nat)} {body : Issue → Did}
    (hc : codes.contains (wCls i.w, wFunc i.w) = true) {u : State} (hb : body i = .gone u) :
    ∃ forced : Bool, s.isaStep r codes body = u.countIssue i.r i.c forced := by
  obtain ⟨forced, e⟩ := isaStep_of_issue h (body := body) hc
  exact ⟨forced, by rw [e, hb]⟩

theorem State.raise_hearths (s : State) (f : FaultRec) : (s.raise f).hearths = s.hearths := by rw [s.raise_frame f]

theorem State.countIssue_hearth (s : State) (r : GroupRef) (c : Cmd) (forced : Bool) : (s.countIssue r c forced).hearth r.hearth =
    { s.hearth r.hearth with
      issued := (s.hearth r.hearth).issued + 1
      promoted := if forced then (s.hearth r.hearth).promoted + 1 else (s.hearth r.hearth).promoted } := State.mHearth_self ..

theorem State.countIssue_groups (s : State) (r : GroupRef) (c : Cmd) (forced : Bool) :
    (s.countIssue r c forced).hearths.groups = s.hearths.groups := rfl

theorem State.countIssue_cmd? (s : State) (r : GroupRef) (c : Cmd) (forced : Bool) (k : Nat) : (s.countIssue r c forced).cmd? k = s.cmd? k := rfl

theorem State.stepDone_flags (s : State) (g : Group) (cid : Nat) : ((s.stepDone g).cmd? cid).map (·.flags) = (s.cmd? cid).map (·.flags) := by
  unfold State.stepDone
  split
  · split
    · rw [State.mCmd_cmd?]
      split
      · rw [Option.map_map]
        rfl
      · rfl
    · rfl
  · rfl

theorem execFence_faults {s : State} {r : GroupRef} {i : Issue} (h : s.issue? r = some i) (hi : i.is 12 0) (hdev : i.s.dev = .service)
    (hscope : bits i.w 17 16 = 3) :
    exec (.fence r) s = .next (i.s.groupFault r { i.g with pc := i.g.pc - 8 } 0x403 0 0 none) :=
  congrArg Host.Outcome.next (isaStep_faults h hi.contains (by simp [hdev, hscope]))

theorem execBar_holds {s : State} {r : GroupRef} {i : Issue} (h : s.issue? r = some i) (hi : i.is 12 1) :
    ∃ u t, exec (.bar r) s = .next t ∧ i.s.MemFrame u ∧ i.Held u { i.g with pc := i.g.pc - 8, atBar := true } t ∧
      ∀ e ∈ (t.hearth r.hearth).wc, e.grp ≠ r := by
  have hr := issue?_r h
  have hframe := drainWcWhere_memFrame i.s i.r.hearth fun e => e.grp == i.r
  have hheld := isaStep_holds h hi.contains (body := fun i => .hold { i.g with pc := i.g.pc - 8, atBar := true }
    (i.s.drainWcWhere i.r.hearth fun e => e.grp == i.r)) rfl hframe.groups
  refine ⟨_, _, rfl, hframe, hheld, ?_⟩
  have hwc := hheld.wc
  rw [hr, State.drainWcWhere_hearth] at hwc
  intro e he
  rw [hwc] at he
  simpa using (List.mem_filter.mp he).2

theorem execFence_completes {s : State} {r : GroupRef} {i : Issue} (h : s.issue? r = some i) (hi : i.is 12 0)
    (hok : ¬(i.s.dev = .service ∧ bits i.w 17 16 = 3)) :
    ∃ u t, exec (.fence r) s = .next t ∧ i.s.MemFrame u ∧ i.Retired u i.g t ∧ (∀ e ∈ (t.hearth r.hearth).wc, e.grp ≠ r) ∧
      (i.s.dev ≠ .service → 2 ≤ bits i.w 17 16 → ∀ l ∈ (t.hearth r.hearth).l1, l.cid ≠ i.g.cid) ∧
      (i.s.dev = .service ∨ bits i.w 17 16 < 2 → (t.hearth r.hearth).l1 = (i.s.hearth r.hearth).l1 ∧ t.depot = i.s.depot) := by
  obtain ⟨t, ht, hret⟩ := execFence_retires h hi hok
  have hr := issue?_r h
  have hwc := hret.wc.trans i.fenced_wc
  have hl1 := hret.l1
  rw [hr] at hwc hl1
  refine ⟨_, t, ht, i.fenced_memFrame, hret, ?_, ?_, ?_⟩
  · intro e he
    rw [hwc] at he
    simpa using (List.mem_filter.mp he).2
  · intro hdev hscope l hl
    have hlines := i.fenced_l1 hdev hscope
    rw [hr] at hlines
    rw [hl1, hlines] at hl
    simpa using (List.mem_filter.mp hl).2
  · intro hdrain
    rw [hl1, hret.depot, i.fenced_of_drain hdrain, State.drainWcWhere_depot, hr, State.drainWcWhere_hearth]
    exact ⟨rfl, rfl⟩

/-- BRK in a debug context, not under a Debug Step, records 0x040C and halts its group (R431). -/
theorem execBrk_halts {s : State} {r : GroupRef} {i : Issue} (h : s.issue? r = some i) (hi : i.is 13 2) (hdebug : i.x.debug = true)
    (hstep : i.g.stepping = false) :
    ∃ t, exec (.brk r) s = .next t ∧ i.Retired (i.s.raise {
        code := 0x40C, ctx := some i.c.ctx, cmdId := i.c.cmdId, dkind := 1
        detail := groupDetail r { i.g with pc := i.g.pc - 8 } i.g.exec.toNat (bits i.w 47 32) none })
      { i.g with st := .halted, haltedAt := i.s.time } t := by
  refine ⟨_, rfl, isaStep_retires h hi.contains ?_ (congrArg Hearths.groups (State.raise_hearths ..))⟩
  rw [hdebug, hstep, issue?_r h]
  rfl

/-- EXIT: the group's slot is empty and what it held is released; no other group changes (R354, R534). -/
theorem execExit_ends {s : State} {r : GroupRef} {i : Issue} (h : s.issue? r = some i) (hi : i.is 13 1)
    (hok : (i.s.lastOn r i.g && i.s.flushConflict r.hearth i.g.cid) = false) :
    ∃ forced, exec (.exit r) s = .next ((((i.s.noWait r).stepDone i.g).endGroup r i.g).countIssue r i.c forced) := by
  have hr := issue?_r h
  obtain ⟨forced, hgone⟩ := isaStep_gone h hi.contains (u := ((i.s.noWait i.r).stepDone i.g).endGroup i.r i.g)
    (body := fun i => if i.s.lastOn i.r i.g && i.s.flushConflict i.r.hearth i.g.cid then
      match (i.s.hearth i.r.hearth).l1.find? fun l => l.cid == i.g.cid && i.s.lineConflict l with
      | some l => i.conflict i.s l.pa
      | none => .wait i.s
    else .gone (((i.s.noWait i.r).stepDone i.g).endGroup i.r i.g)) (by rw [hr, if_neg (by simp [hok])])
  rw [hr] at hgone
  exact ⟨forced, congrArg Host.Outcome.next hgone⟩

theorem State.lastOn_congr {s t : State} (h : t.hearths = s.hearths) (r : GroupRef) (g : Group) : t.lastOn r g = s.lastOn r g := by
  unfold State.lastOn State.groupsOn
  rw [h]

/-- The Hearth that an EXIT leaves. -/
theorem Issue.exited_hearth (i : Issue) (r : GroupRef) (forced : Bool) :
    ((((i.s.noWait r).stepDone i.g).endGroup r i.g).countIssue r i.c forced).hearth r.hearth = { (i.s.hearth r.hearth).release r with
      wc := (i.s.hearth r.hearth).wc.filter fun e => !(e.grp == r || (i.s.lastOn r i.g && e.cid == i.g.cid))
      l1 := if i.s.lastOn r i.g then (i.s.hearth r.hearth).l1.filter (·.cid != i.g.cid) else (i.s.hearth r.hearth).l1
      issued := (i.s.hearth r.hearth).issued + 1
      promoted := if forced then (i.s.hearth r.hearth).promoted + 1 else (i.s.hearth r.hearth).promoted } := by
  have hh : ((i.s.noWait r).stepDone i.g).hearths = i.s.hearths := State.stepDone_hearths ..
  rw [State.countIssue_hearth, State.endGroup_hearth, State.lastOn_congr hh, State.hearth_congr hh]
  rfl

theorem Issue.exited_groups {s : State} {r : GroupRef} {i : Issue} (h : s.issue? r = some i) (forced : Bool) (k : Nat) :
    mapGet ((((i.s.noWait r).stepDone i.g).endGroup r i.g).countIssue r i.c forced).hearths.groups k =
      if k = gkey r then none else mapGet s.hearths.groups k := by
  rw [State.countIssue_groups, State.endGroup_groups, mapGet_mapErase, State.stepDone_hearths, State.noWait_hearths, (issue?_frame h).groups]

theorem Issue.exited_flags {s : State} {r : GroupRef} {i : Issue} (h : s.issue? r = some i) (forced : Bool) :
    (((((i.s.noWait r).stepDone i.g).endGroup r i.g).countIssue r i.c forced).cmd? i.g.cid).map (·.flags) = some (i.c.flags ||| i.g.flags) := by
  obtain ⟨g, hcan, -, -, hg, -⟩ := issue?_cases h
  have hcmd : i.s.cmd? i.g.cid = some i.c := by
    unfold State.cmd?
    rw [(issue?_memFrame h).stk, hg]
    exact (canIssue_group hcan).2.1
  have hdone : (((i.s.noWait r).stepDone i.g).cmd? i.g.cid).map (·.flags) = some i.c.flags := by
    rw [State.stepDone_flags]
    exact congrArg (Option.map (·.flags)) hcmd
  obtain ⟨c, hc, hflags⟩ := Option.map_eq_some_iff.mp hdone
  rw [State.countIssue_cmd?, State.endGroup_flags, hc, Option.map_some, hflags]

/-- EXIT empties its group's slot, releases what the group held, and joins its flags to its command's; with the last of its command the command's
L1 lines leave; no other group changes. -/
theorem execExit_spec {s : State} {r : GroupRef} {i : Issue} (h : s.issue? r = some i) (hi : i.is 13 1)
    (hok : (i.s.lastOn r i.g && i.s.flushConflict r.hearth i.g.cid) = false) :
    ∃ t, exec (.exit r) s = .next t ∧ (∀ k, mapGet t.hearths.groups k = if k = gkey r then none else mapGet s.hearths.groups k) ∧
      (t.hearth r.hearth).issued = (s.hearth r.hearth).issued + 1 ∧
      (∀ e ∈ (t.hearth r.hearth).wc, e.grp ≠ r) ∧ (∀ b ∈ (t.hearth r.hearth).grates, b.bound ≠ some r) ∧
      (∀ f ∈ (t.hearth r.hearth).flue, f.grp ≠ r) ∧ (∀ f ∈ (t.hearth r.hearth).trv, f.grp ≠ r) ∧
      (i.s.lastOn r i.g = true → ∀ l ∈ (t.hearth r.hearth).l1, l.cid ≠ i.g.cid) ∧
      (∀ c, t.cmd? i.g.cid = some c → c.flags = i.c.flags ||| i.g.flags) := by
  obtain ⟨forced, hexec⟩ := execExit_ends h hi hok
  refine ⟨_, hexec, Issue.exited_groups h forced, ?_, ?_, ?_, ?_, ?_, ?_, ?_⟩
  · rw [Issue.exited_hearth, (issue?_memFrame h).hearth]
  · rw [Issue.exited_hearth]
    intro e he
    have hkept := (List.mem_filter.mp he).2
    simp only [Bool.not_or, Bool.and_eq_true, Bool.not_eq_true', beq_eq_false_iff_ne] at hkept
    exact hkept.1
  · rw [Issue.exited_hearth]
    intro b hb
    obtain ⟨b0, -, rfl⟩ := List.mem_map.mp hb
    split
    · nofun
    · next hne => simpa using hne
  · rw [Issue.exited_hearth]
    intro f hf
    simpa using (List.mem_filter.mp hf).2
  · rw [Issue.exited_hearth]
    intro f hf
    simpa using (List.mem_filter.mp hf).2
  · rw [Issue.exited_hearth]
    intro hlast l hl
    simp only [hlast, if_true] at hl
    simpa using (List.mem_filter.mp hl).2
  · intro c hc
    have hflags := Issue.exited_flags h forced
    rw [hc] at hflags
    exact Option.some.inj hflags

/-- Settles O23, one issue law per row: what retires, holds, faults or ends its group. -/
theorem syncAndSystemInstructions : Obligations.SyncAndSystemInstructions := by
  unfold Obligations.SyncAndSystemInstructions
  intro s r i h
  have hdev : i.s.dev = s.dev := (issue?_memFrame h).dev
  have htime : i.s.time = s.time := (issue?_memFrame h).time
  rw [← hdev, ← htime]
  refine ⟨execFence_completes h, execFence_faults h, execBar_holds h, ?_, ?_, execBrk_halts h, ?_, ?_, execExit_spec h⟩
  · intro hi
    exact retires_of_ret h hi rfl rfl
  · intro hi
    exact retires_of_ret h hi rfl rfl
  · intro hi hdebug hstep
    exact retires_of_ret h hi rfl (by rw [hdebug, hstep]; rfl)
  · intro hi hdebug
    exact congrArg Host.Outcome.next (isaStep_faults h hi.contains (by rw [hdebug]; rfl))

end Sys2Proof.Machine
end

section
/-!
SUPPORT. The merging path and the fault logs: what a write below the Hearths changes, what taking a record for its log changes, and the entry to
Quenched field by field (R529 to R531, R756 to R759, R842).
-/
namespace Sys2Proof.Machine

/-! ### Writes of the merging path -/

/-- What a write of the merging path changes: memory, the Depot, the translation caches, and their counts. -/
structure State.MergeFrame (s t : State) : Prop where
  rest : t = { s with
    xlt := { s.xlt with
      walks := t.xlt.walks, atsReqs := t.xlt.atsReqs, stc0 := t.xlt.stc0, stc1 := t.xlt.stc1, wc0 := t.xlt.wc0, wc1 := t.xlt.wc1 }
    depot := t.depot, mem := t.mem, chm := { s.chm with val := t.chm.val } }

namespace State.MergeFrame

theorem refl (s : State) : s.MergeFrame s := ⟨rfl⟩

theorem trans {a b c : State} (h : a.MergeFrame b) (k : b.MergeFrame c) : a.MergeFrame c := ⟨by rw [k.rest, h.rest]⟩

theorem of_mem {s t : State} (h : s.MemFrame t) (hh : t.hearths = s.hearths) : s.MergeFrame t := ⟨by
  have hrest := h.rest
  rw [hh] at hrest
  exact hrest⟩

theorem ite {s a b : State} {c : Prop} [Decidable c] (ha : s.MergeFrame a) (hb : s.MergeFrame b) : s.MergeFrame (if c then a else b) := by
  split <;> assumption

theorem foldl {α : Type} {f : State → α → State} (hf : ∀ (s : State) (x : α), s.MergeFrame (f s x)) (l : List α) (s : State) :
    s.MergeFrame (l.foldl f s) := by
  induction l generalizing s with
  | nil => exact .refl s
  | cons x l ih => exact (hf s x).trans (ih _)

theorem mDepot (s : State) (f : Depot → Depot) : s.MergeFrame (s.mDepot f) := ⟨rfl⟩

theorem mMem (s : State) (f : Mem → Mem) : s.MergeFrame (s.mMem f) := ⟨rfl⟩

theorem memWrite (s : State) (p : PA) (bs : List Byte) (z : Bool) : s.MergeFrame (s.memWrite p bs z) := ⟨rfl⟩

theorem dropCommitted (s : State) (p : PA) : s.MergeFrame (s.dropCommitted p) := .of_mem (dropCommitted_memFrame ..) (State.dropCommitted_hearths ..)

theorem writeThrough (s : State) (p : PA) (bs : List Byte) (z : Bool) : s.MergeFrame (s.writeThrough p bs z) :=
  (foldl dropCommitted _ s).trans (memWrite ..)

theorem drainEntry (s : State) (e : MergeEnt) : s.MergeFrame (s.drainEntry e) :=
  (foldl (fun s (b : Nat × Byte) => memWrite s (e.pa.plus b.1) [b.2] false) e.bytes s).trans ⟨rfl⟩

theorem drainOldest (s : State) (die : Nat) : s.MergeFrame (s.drainOldest die) := by
  unfold State.drainOldest
  split
  · exact .refl s
  · exact (drainEntry ..).trans (mDepot ..)

theorem drainMerging (s : State) (die n : Nat) : s.MergeFrame (s.drainMerging die n) := by
  induction n generalizing s with
  | zero => exact .refl s
  | succ n ih => exact (drainOldest s die).trans (ih _)

theorem mergePiece (s : State) (die : Nat) (sp : Space) (a : Nat × List Byte) : s.MergeFrame (s.mergePiece die sp a) := by
  unfold State.mergePiece
  dsimp only
  refine (dropCommitted s { space := sp, addr := a.1 }).trans ?_
  split
  · exact .ite (mDepot ..) (.trans (.ite (drainOldest ..) (.refl _)) (mDepot ..))
  · exact mDepot ..

theorem mergeWrite (s : State) (die : Nat) (p : PA) (bs : List Byte) : s.MergeFrame (s.mergeWrite die p bs) :=
  foldl (fun s (a : Nat × List Byte) => mergePiece s die p.space a) _ s

theorem mergeSet (s : State) (die fn : Nat) (set : List PageTr) (k da : Nat) (bs : List Byte) : s.MergeFrame (s.mergeSet die fn set k da bs) := by
  induction k generalizing s da bs with
  | zero => exact .refl s
  | succ k ih =>
    unfold State.mergeSet
    split
    · exact .refl s
    · split
      · exact .refl s
      · exact (mergeWrite ..).trans (ih ..)

theorem keepWalk (s : State) (d : Nat) (c : Ctx) (da : Nat) : s.MergeFrame (s.keepWalk d c da) := by
  refine .of_mem (keepWalk_memFrame ..) ?_
  unfold State.keepWalk
  split <;> rfl

theorem countWalks (s : State) (d : Nat) (c : Ctx) (set : List PageTr) : s.MergeFrame (s.countWalks d c set) :=
  .trans ⟨rfl⟩ (foldl (fun s (t : PageTr) => keepWalk s d c t.da) set _)

theorem ctxWrite {s t : State} {die : Nat} {c : Ctx} {da : Nat} {bs : List Byte} (h : s.ctxWrite die c da bs = some t) : s.MergeFrame t := by
  obtain ⟨set, -, rfl⟩ := Option.map_eq_some_iff.mp h
  exact (mergeSet ..).trans (countWalks ..)

end State.MergeFrame

/-! ### Taking a record for its log -/

/-- What taking a record for its log changes: what its write changes, the functions' counts and logs, and the Fault Collector's losses and
messages. -/
structure State.SinkFrame (s t : State) : Prop where
  rest : t = { s with
    xlt := { s.xlt with
      walks := t.xlt.walks, atsReqs := t.xlt.atsReqs, stc0 := t.xlt.stc0, stc1 := t.xlt.stc1, wc0 := t.xlt.wc0, wc1 := t.xlt.wc1 }
    depot := t.depot, mem := t.mem, chm := { s.chm with val := t.chm.val }, fns := t.fns, logs := t.logs
    flt := { s.flt with hostLost := t.flt.hostLost, writeFails := t.flt.writeFails, msix := t.flt.msix } }

namespace State.SinkFrame

theorem refl (s : State) : s.SinkFrame s := ⟨rfl⟩

theorem trans {a b c : State} (h : a.SinkFrame b) (k : b.SinkFrame c) : a.SinkFrame c := ⟨by rw [k.rest, h.rest]⟩

theorem of_merge {s t : State} (h : s.MergeFrame t) : s.SinkFrame t := ⟨by rw [h.rest]⟩

theorem ite {s a b : State} {c : Prop} [Decidable c] (ha : s.SinkFrame a) (hb : s.SinkFrame b) : s.SinkFrame (if c then a else b) := by
  split <;> assumption

theorem mLog (s : State) (f : Nat) (g : FnLog → FnLog) : s.SinkFrame (s.mLog f g) := ⟨rfl⟩

theorem mFn (s : State) (f : Nat) (g : Fn → Fn) : s.SinkFrame (s.mFn f g) := ⟨rfl⟩

theorem msix (s : State) (f v : Nat) (now : Bool) : s.SinkFrame (s.msix f v now) := .ite (mLog ..) ⟨rfl⟩

theorem logFn (s : State) (f : Nat) (r : FaultRec) (now : Bool) : s.SinkFrame (s.logFn f r now) := by
  unfold State.logFn
  dsimp only
  exact .ite ((of_merge (.mergeWrite ..)).trans ((mLog ..).trans (msix ..))) (.trans ⟨rfl⟩ (mLog ..))

theorem logCtx (s : State) (c : Ctx) (r : FaultRec) (now : Bool) : s.SinkFrame (s.logCtx c r now) := by
  unfold State.logCtx
  dsimp only
  split
  · next h => exact (of_merge (.ctxWrite h)).trans ((mFn ..).trans (msix ..))
  · exact (mFn ..).trans (.trans ⟨rfl⟩ (logFn ..))

theorem sinkRecord (s : State) (r : FaultRec) (now : Bool) : s.SinkFrame (s.sinkRecord r now) := by
  unfold State.sinkRecord
  dsimp only
  split
  · split
    · exact (mLog ..).trans (logCtx ..)
    · exact (mLog ..).trans (logFn ..)
  · exact (mLog ..).trans (logFn ..)

theorem foldl {α : Type} {f : State → α → State} (hf : ∀ (s : State) (x : α), s.SinkFrame (f s x)) (l : List α) (s : State) :
    s.SinkFrame (l.foldl f s) := by
  induction l generalizing s with
  | nil => exact .refl s
  | cons x l ih => exact (hf s x).trans (ih _)

end State.SinkFrame

/-! ### The entry to Quenched -/

/-- Everything the entry to Quenched stops, once the host sink has written what it held (R842). -/
def State.stopped (s : State) : State :=
  let s := s.mFlt fun f => { f with hostStopped := true }
  let s := s.mTck fun t => { t with stateTick := t.num }
  let s := s.mMem fun m => { m with stackRefresh := true }
  let s := s.mHearths fun h => { h with groups := [], blocks := [], launches := [] }
  let s := s.mSerais fun u => { u with
    bags := [], partials := [], units := u.units.map fun p => (p.1, { p.2 with inq := [], window := none, fetchq := [], accs := [] }) }
  let s := s.mRoutes fun r => { r with ops := [], ports := r.ports.map fun p => (p.1, { p.2 with st := .down }) }
  let s := (s.snapshot).mChm fun c => { c with hostStopped := true }
  let s := s.mBx fun b => { b with fatal := s.img.bx3, irqs := if s.img.bx3 && b.irqEn then b.irqs + 1 else b.irqs }
  { s with dev := .quenched }

theorem State.enterQuenched_eq (s : State) (code : Nat) : ∃ u : State,
    (s.mFlt fun f => { f with hostq := [], quenchDue := none, quenchCode := code, quenchAt := s.time }).SinkFrame u ∧
    s.enterQuenched code = u.stopped.withdrawRequest :=
  ⟨_, .ite (.trans (.ite (.foldl (fun s r => .sinkRecord s r true) _ _) (.refl _))
      (.trans (.of_merge (.drainMerging _ 0 64)) (.of_merge (.drainMerging _ 1 64)))) (.ite (.foldl (fun s r => .sinkRecord s r true) _ _) (.refl _)),
    rfl⟩

theorem State.respond_frame (s : State) (fn : Option Nat) (tag : BitVec 16) (r : MgmtRsp) :
    s.respond fn tag r = { s with
      logs := (s.respond fn tag r).logs, warden := { s.warden with mgmtOut := (s.respond fn tag r).warden.mgmtOut } } := by
  unfold State.respond
  split <;> rfl

theorem State.withdrawRequest_frame (s : State) : s.withdrawRequest = { s with
    logs := s.withdrawRequest.logs, warden := { s.warden with stateReq := none, mgmtOut := s.withdrawRequest.warden.mgmtOut } } := by
  unfold State.withdrawRequest
  split
  · next h => rw [← h]
  · rw [State.respond_frame]
    rfl

theorem State.withdrawRequest_flt (s : State) : s.withdrawRequest.flt = s.flt := by rw [s.withdrawRequest_frame]

theorem State.withdrawRequest_ldg (s : State) : s.withdrawRequest.ldg = s.ldg := by rw [s.withdrawRequest_frame]

theorem State.withdrawRequest_fuses (s : State) : s.withdrawRequest.fuses = s.fuses := by rw [s.withdrawRequest_frame]

theorem State.withdrawRequest_dev (s : State) : s.withdrawRequest.dev = s.dev := by rw [s.withdrawRequest_frame]

theorem State.withdrawRequest_chm (s : State) : s.withdrawRequest.chm = s.chm := by rw [s.withdrawRequest_frame]

theorem State.withdrawRequest_hearths (s : State) : s.withdrawRequest.hearths = s.hearths := by rw [s.withdrawRequest_frame]

theorem State.withdrawRequest_routes (s : State) : s.withdrawRequest.routes = s.routes := by rw [s.withdrawRequest_frame]

theorem State.withdrawRequest_mem (s : State) : s.withdrawRequest.mem = s.mem := by rw [s.withdrawRequest_frame]

theorem State.withdrawRequest_stateReq (s : State) : s.withdrawRequest.warden.stateReq = none := by rw [s.withdrawRequest_frame]

/-- What the entry to Quenched leaves of the Fault Collector (R762, R842). -/
theorem State.enterQuenched_flt (s : State) (code : Nat) : ∃ lost fails msgs, (s.enterQuenched code).flt = { s.flt with
    hostLost := lost, writeFails := fails, msix := msgs
    hostq := [], quenchDue := none, quenchCode := code, quenchAt := s.time, hostStopped := true } := by
  obtain ⟨u, ⟨hu⟩, he⟩ := s.enterQuenched_eq code
  refine ⟨u.flt.hostLost, u.flt.writeFails, u.flt.msix, ?_⟩
  rw [he, State.withdrawRequest_flt, hu]
  simp [State.stopped, State.snapshot]

/-- What the entry to Quenched sets, and what it leaves (R842). -/
theorem State.enterQuenched_spec (s : State) (code : Nat) :
    (s.enterQuenched code).dev = .quenched ∧ (s.enterQuenched code).chm.hostStopped = true ∧ (s.enterQuenched code).hearths.groups = [] ∧
    (s.enterQuenched code).hearths.blocks = [] ∧ (s.enterQuenched code).routes.ops = [] ∧ (s.enterQuenched code).mem.stackRefresh = true ∧
    (s.enterQuenched code).warden.stateReq = none ∧ (s.enterQuenched code).ldg = s.ldg ∧ (s.enterQuenched code).fuses = s.fuses := by
  obtain ⟨u, ⟨hu⟩, he⟩ := s.enterQuenched_eq code
  have hldg : u.ldg = s.ldg := by rw [hu]; simp
  have hfuses : u.fuses = s.fuses := by rw [hu]; simp
  rw [he, State.withdrawRequest_dev, State.withdrawRequest_chm, State.withdrawRequest_hearths, State.withdrawRequest_routes,
    State.withdrawRequest_mem, State.withdrawRequest_stateReq, State.withdrawRequest_ldg, State.withdrawRequest_fuses]
  simp [State.stopped, State.snapshot, hldg, hfuses]

end Sys2Proof.Machine
end

section
/-!
PROOFS. The step function: the front command, the empty queue, and the memories of the reset state.
-/
namespace Sys2Proof.Machine

/-- Settles O1: a step is defined so. -/
theorem stepRunsTheFrontCommand : Obligations.StepRunsTheFrontCommand := fun _ _ _ => rfl

/-- Settles O4: the memories of the reset state are empty. -/
theorem resetMemoriesAreCanonical : Obligations.ResetMemoriesAreCanonical := by
  unfold Obligations.ResetMemoriesAreCanonical
  decide

theorem step_of_empty {s : State} (h : s.pending = []) : step s = .next s.idle := by
  unfold step
  rw [h]

/-- The clocks of a cycle (R11, R56): the model's clock, the Hearth's cycle count, and the tick phase. -/
theorem State.idle_of_no_quench {s : State} (h : s.flt.quenchDue = none) : s.idle =
    { s with
      time := s.time + 1
      power := if s.dev = .off then s.power else { s.power with hclk := s.power.hclk + hearthMHz s.power.hlevel }
      tck := if s.dev = .service ∨ s.dev = .banked then { s.tck with phase := s.tck.phase + 1 } else s.tck } := by
  unfold State.idle
  rw [h]
  cases hd : s.dev <;> simp [State.live, hd, h, State.mPower, State.mTck]

/-- With a Quenched fault received, the cycle enters Quenched, and then the clocks move. -/
theorem State.idle_of_quench {s : State} {code : Nat} (h : s.flt.quenchDue = some code) : s.idle =
    ({ s.enterQuenched code with time := (s.enterQuenched code).time + 1 } : State).mPower
      fun p => { p with hclk := p.hclk + hearthMHz p.hlevel } := by
  obtain ⟨hdev, -⟩ := s.enterQuenched_spec code
  unfold State.idle
  rw [h]
  simp [State.live, hdev]

/-- Settles O2: a cycle moves the clocks, after the entry to Quenched when that is due. -/
theorem emptyQueueLetsACyclePass : Obligations.EmptyQueueLetsACyclePass := by
  unfold Obligations.EmptyQueueLetsACyclePass
  refine ⟨?_, ?_⟩
  · intro s hs hq
    rw [step_of_empty hs, State.idle_of_no_quench hq]
  · intro s code hs hq
    have hkeeps := State.enterQuenched_keeps s code (Keeps.refl s)
    obtain ⟨hdev, -⟩ := s.enterQuenched_spec code
    obtain ⟨lost, fails, msgs, hflt⟩ := s.enterQuenched_flt code
    refine ⟨_, step_of_empty hs, ?_⟩
    rw [State.idle_of_quench hq]
    exact ⟨congrArg (· + 1) hkeeps.time, hkeeps.pending.trans hs, hdev, by simp [hflt], by simp [hflt]⟩

end Sys2Proof.Machine
end

section
/-!
PROOFS. Faults and the Chimney (R749 to R766, R804 to R810): the record of a fault in both sinks, the sinks' outputs, and the entry to Quenched.
-/
namespace Sys2Proof.Machine

theorem execFaultReport_spec (s : State) (r : FaultRec) : (s.dev = .off ∨ r.code ∉ knownFaults → exec (.faultReport r) s = .next s) ∧
    (s.dev ≠ .off → r.code ∈ knownFaults →
      (r.ctx = none ∨ faultContain r.code ≠ 4 → exec (.faultReport r) s = .next (s.raise r)) ∧
      (∀ c, r.ctx = some c → faultContain r.code = 4 → exec (.faultReport r) s = .next ((s.raise r).teardown c))) := by
  show (_ → execFaultReport r s = _) ∧ (_ → _ → (_ → execFaultReport r s = _) ∧ ∀ c, _ → _ → execFaultReport r s = _)
  unfold execFaultReport
  refine ⟨?_, ?_⟩
  · intro h
    rw [if_pos (by simpa using h)]
  · intro hdev hcode
    rw [if_neg (by simp [hdev, hcode])]
    refine ⟨?_, ?_⟩
    · rintro (hnone | hcontain)
      · rw [hnone]
      · cases r.ctx <;> simp [hcontain]
    · intro c hctx hcontain
      simp [hctx, hcontain]

/-- A record takes the next SEQ and joins both queues while they have room (R761, R762). -/
theorem State.makeRecord_spec (s : State) (r : FaultRec) :
    (s.makeRecord r).flt.nextSeq = s.flt.nextSeq + 1 ∧
    (s.makeRecord r).flt.hostq =
      (if s.flt.hostStopped = false ∧ s.flt.hostq.length < 256 then s.flt.hostq ++ [{ r with seq := s.flt.nextSeq }] else s.flt.hostq) ∧
    (s.makeRecord r).flt.mgmtq =
      (if s.flt.mgmtq.length < 1024 then s.flt.mgmtq ++ [{ r with seq := s.flt.nextSeq }] else s.flt.mgmtq) ∧
    (s.makeRecord r).flt.mgmtLost = (if s.flt.mgmtq.length < 1024 then s.flt.mgmtLost else s.flt.mgmtLost + 1) ∧
    (r.contain = 5 → s.flt.quenchDue = none → s.dev = .kindling ∨ s.dev = .service ∨ s.dev = .banked →
      (s.makeRecord r).flt.quenchDue = some r.code) ∧
    (r.contain ≠ 5 → (s.makeRecord r).flt.quenchDue = s.flt.quenchDue) ∧
    (s.makeRecord r).mem = s.mem ∧ (s.makeRecord r).stk = s.stk ∧ (s.makeRecord r).dev = s.dev := by
  refine ⟨rfl, ?_, rfl, rfl, ?_, ?_, rfl, rfl, rfl⟩
  · simp only [State.makeRecord, State.trace, State.mChm_flt, State.mFlt_flt]
    cases s.flt.hostStopped <;> simp
  · intro hcontain hdue hdev
    have hstate : (s.dev == .kindling || s.dev == .service || s.dev == .banked) = true := by
      rcases hdev with h | h | h <;> rw [h] <;> rfl
    simp [State.makeRecord, State.trace, hcontain, hdue, hstate]
  · intro hcontain
    simp [State.makeRecord, State.trace, hcontain]

theorem State.intake_of_not_coalesces {s : State} {r : FaultRec} (h : coalesces r = false) : s.intake r = s.makeRecord r := by
  simp [State.intake, h]

/-- A held repeat adds to the count of its delivery and makes no record (R755). -/
theorem State.intake_of_repeat {s : State} {r : FaultRec} (h : coalesces r = true) (hc : ∃ c ∈ s.flt.coal, c.matches s.time r = true) :
    (s.intake r).flt.coalesced = s.flt.coalesced + 1 ∧ (s.intake r).flt.hostq = s.flt.hostq ∧ (s.intake r).flt.nextSeq = s.flt.nextSeq := by
  have hany : (s.flt.coal.any (·.matches s.time r)) = true := List.any_eq_true.mpr hc
  unfold State.intake
  rw [if_pos h, if_pos hany]
  exact ⟨rfl, rfl, rfl⟩

theorem State.flushCoal_spec (s : State) (c : Coal) :
    (s.time < c.since + cyclesPerMs → s.flushCoal c = s.mFlt fun f => { f with coal := f.coal ++ [c] }) ∧
    (c.since + cyclesPerMs ≤ s.time → (c.first = none → s.flushCoal c = s) ∧
      (∀ r, c.first = some r → s.flushCoal c = (s.makeRecord { r with rept := c.held }).mFlt fun f =>
        { f with coal := f.coal ++ [{ delivered := r, since := s.time }] })) := by
  unfold State.flushCoal
  refine ⟨fun h => if_pos h, fun h => ?_⟩
  rw [if_neg (by omega)]
  exact ⟨fun hfirst => by rw [hfirst], fun r hfirst => by rw [hfirst]⟩

theorem execHostSinkWrite_spec (s : State) : (s.flt.hostStopped = true ∨ s.flt.hostq = [] → exec .hostSinkWrite s = .next s) ∧
    (∀ r rest, s.flt.hostq = r :: rest → s.flt.hostStopped = false → exec .hostSinkWrite s = .next
      ((s.mFlt fun f => { f with hostq := rest }).sinkRecord r false)) := by
  show (_ → execHostSinkWrite s = _) ∧ ∀ r rest, _ → _ → execHostSinkWrite s = _
  unfold execHostSinkWrite
  refine ⟨?_, fun r rest hq hstop => by simp [hq, hstop]⟩
  rintro (hstop | hq)
  · split <;> simp [hstop]
  · rw [hq]

/-- A record goes to its function's log when the log is enabled and the host link is up; else it is lost (R757, R758). -/
theorem State.logFn_spec (s : State) (f : Nat) (r : FaultRec) (now : Bool) :
    ((s.log f).en = true → s.xlt.port0.up = true → s.logFn f r now =
      ((s.mergeWrite 0 { space := .host, addr := (s.log f).base.toNat + 64 * ((s.log f).cnt.toNat % 2 ^ (s.log f).log2) } (faultBytes r)).mLog f
        fun l => { l with cnt := l.cnt + 1 }).msix f 1 now) ∧
    ((s.log f).en = false ∨ s.xlt.port0.up = false → s.logFn f r now =
      (s.mFlt fun t => { t with hostLost := t.hostLost + 1 }).mLog f fun l => { l with hostLost := true }) := by
  unfold State.logFn
  exact ⟨fun hen hup => if_pos (by simp [hen, hup]), fun h => if_neg (by rcases h with h | h <;> simp [h])⟩

theorem execMsixHoldoffExpiry_spec (s : State) (f v : Nat) :
    ((s.log f).inHoldoff.getD v false = false → exec (.msixHoldoffExpiry f v) s = .next s) ∧
    ((s.log f).inHoldoff.getD v false = true → (s.log f).msgDue.getD v false = true → exec (.msixHoldoffExpiry f v) s = .next
      ((s.mLog f fun l => { l with msgDue := l.msgDue.set v false }).mFlt fun t => { t with msix := (f, v) :: t.msix })) ∧
    ((s.log f).inHoldoff.getD v false = true → (s.log f).msgDue.getD v false = false → exec (.msixHoldoffExpiry f v) s = .next
      (s.mLog f fun l => { l with inHoldoff := l.inHoldoff.set v false })) := by
  show (_ → execMsixHoldoffExpiry f v s = _) ∧ (_ → _ → execMsixHoldoffExpiry f v s = _) ∧ (_ → _ → execMsixHoldoffExpiry f v s = _)
  unfold execMsixHoldoffExpiry
  dsimp only
  refine ⟨fun h => ?_, fun h hdue => ?_, fun h hdue => ?_⟩ <;> rw [h]
  · rfl
  · rw [hdue]
    rfl
  · rw [hdue]
    rfl

/-- CPER_FORWARD keeps the newest 4,096 records in the error log (R763, R867). -/
theorem execCperForward_spec (s : State) : (s.flt.mgmtq = [] ∨ s.warden.running = false → exec .cperForward s = .next s) ∧
    ∀ r rest, s.flt.mgmtq = r :: rest → s.warden.running = true → ∃ t, exec .cperForward s = .next t ∧ t.flt = { s.flt with mgmtq := rest } ∧
      (s.warden.errorLog.length < 4096 → t.warden.errorLog = s.warden.errorLog ++ [r]) ∧ (4096 = s.warden.errorLog.length →
        t.warden.errorLog = s.warden.errorLog.tail ++ [r]) ∧
      (s.warden.eventReceiver = none → t.warden.cperOut = s.warden.cperOut) ∧
      (s.warden.eventReceiver ≠ none → t.warden.cperOut.length = s.warden.cperOut.length + 1 ∧ t.warden.unacked = some r ∧
        t.warden.resends = 0) := by
  show (_ → execCperForward s = _) ∧ ∀ r rest, _ → _ → ∃ t, execCperForward s = _ ∧ _
  unfold execCperForward
  refine ⟨?_, ?_⟩
  · rintro (hq | hrun)
    · rw [hq]
    · split <;> simp [hrun]
  · intro r rest hq hrun
    have hshort : s.warden.errorLog.length < 4096 →
        (s.warden.errorLog ++ [r]).drop (s.warden.errorLog.length + 1 - 4096) = s.warden.errorLog ++ [r] := fun h => by
      rw [show s.warden.errorLog.length + 1 - 4096 = 0 by omega]
      rfl
    have hfull : 4096 = s.warden.errorLog.length →
        (s.warden.errorLog ++ [r]).drop (s.warden.errorLog.length + 1 - 4096) = s.warden.errorLog.tail ++ [r] := fun h => by
      rw [show s.warden.errorLog.length + 1 - 4096 = 1 by omega, List.drop_one, List.tail_append_of_ne_nil]
      exact List.ne_nil_of_length_eq_add_one (n := 4095) (by omega)
    simp only [hq, hrun, if_true, State.mWarden, State.mFlt, State.sendCper]
    generalize (s.warden.errorLog ++ [r]).drop (s.warden.errorLog.length + 1 - 4096) = log at hshort hfull ⊢
    split
    · next hrcv => exact ⟨_, rfl, rfl, hshort, hfull, fun _ => rfl, fun h => absurd hrcv h⟩
    · next hrcv => exact ⟨_, rfl, rfl, hshort, hfull, fun h => by simp [hrcv] at h, fun _ => ⟨rfl, rfl, rfl⟩⟩

theorem execPldmEventResend_spec (s : State) (acked : Bool) : (s.warden.unacked = none → exec (.pldmEventResend acked) s = .next s) ∧
    ∀ r, s.warden.unacked = some r → (acked = true ∨ 4 ≤ s.warden.resends → exec (.pldmEventResend acked) s = .next
        (s.mWarden fun w => { w with unacked := none })) ∧
      (acked = false → s.warden.resends < 4 → exec (.pldmEventResend acked) s = .next
        ((s.sendCper r).mWarden fun w => { w with resends := w.resends + 1 })) := by
  show (_ → execPldmEventResend acked s = _) ∧ ∀ r, _ → (_ → execPldmEventResend acked s = _) ∧ (_ → _ → execPldmEventResend acked s = _)
  unfold execPldmEventResend
  refine ⟨fun h => by rw [h], fun r h => ?_⟩
  rw [h]
  exact ⟨fun hstop => if_pos (by simpa using hstop), fun hack hfew => if_neg (by simp [hack, hfew])⟩

theorem execLostRecordEmit_spec (s : State) (die : Nat) :
    (s.chm.lostNow = 0 ∨ s.chm.room die = false → exec (.lostRecordEmit die) s = .next s) ∧
    (s.chm.lostNow ≠ 0 → s.chm.room die = true → exec (.lostRecordEmit die) s = .next
      ((s.mChm fun c => { c with lostNow := 0 }).trace 9 die none 0 s.chm.lostNow)) := by
  refine ⟨fun h => if_neg ?_, fun hlost hroom => if_pos ⟨hlost, hroom⟩⟩
  rintro ⟨hlost, hroom⟩
  rcases h with h | h
  · exact hlost h
  · simp [h] at hroom

theorem execTraceFrameSend_spec (s : State) : (s.dev = .off → exec .traceFrameSend s = .next s) ∧
    (s.dev ≠ .off → exec .traceFrameSend s = .next (s.mChm fun c => { c with
      frameOut := frameBytes c.frames.toNat (c.portq.take 15) :: c.frameOut, portq := c.portq.drop 15, frames := c.frames + 1 })) :=
  ⟨fun h => if_pos (by simp [h]), fun h => if_neg (by simp [h])⟩

theorem execTraceHostExport_idle {s : State} (h : s.chm.ringq = [] ∨ s.chm.hostStopped = true ∨ s.hostOn = false) :
    exec .traceHostExport s = .next s := by
  show execTraceHostExport s = _
  unfold execTraceHostExport
  split
  · rfl
  · next r rest hq =>
    have hoff : s.chm.hostStopped = true ∨ s.hostOn = false := h.resolve_left (by simp [hq])
    exact if_pos (by simpa using hoff)

/-! ### The host ring -/

theorem State.dropCommitted_mChm (s : State) (p : PA) (f : Chimney → Chimney) : (s.mChm f).dropCommitted p = (s.dropCommitted p).mChm f := by
  have hline : (s.mChm f).dline? p = s.dline? p := rfl
  unfold State.dropCommitted
  rw [hline]
  split
  · rfl
  · dsimp only
    split <;> rfl

theorem foldl_dropCommitted_mChm (l : List PA) (s : State) (f : Chimney → Chimney) :
    l.foldl State.dropCommitted (s.mChm f) = (l.foldl State.dropCommitted s).mChm f := by
  induction l generalizing s with
  | nil => rfl
  | cons p l ih => rw [List.foldl_cons, State.dropCommitted_mChm, ih, List.foldl_cons]

theorem State.writeThrough_mChm (s : State) (p : PA) (bs : List Byte) (z : Bool) (f : Chimney → Chimney) :
    (s.mChm f).writeThrough p bs z = (s.writeThrough p bs z).mChm f := by
  unfold State.writeThrough
  rw [foldl_dropCommitted_mChm]
  rfl

@[simp] theorem State.dropCommitted_chm (s : State) (p : PA) : (s.dropCommitted p).chm = s.chm := by
  unfold State.dropCommitted
  split
  · rfl
  · dsimp only
    split <;> rfl

@[simp] theorem State.writeThrough_chm (s : State) (p : PA) (bs : List Byte) (z : Bool) : (s.writeThrough p bs z).chm = s.chm :=
  foldl_proj State.chm _ State.dropCommitted_chm _ s

/-- The staged record is dropped when it would exceed RATE_MBS, and else goes to the ring (R806, R807). -/
theorem execTraceHostExport_spec {s : State} {r : TraceRec} {rest : List TraceRec} {used : Nat} (hq : s.chm.ringq = r :: rest)
    (hstop : s.chm.hostStopped = false) (hon : s.hostOn = true)
    (hused : used = if s.chm.ringSince + cyclesPerMs ≤ s.time then 0 else s.chm.ringUsed) :
    ∃ t, exec .traceHostExport s = .next t ∧ t.chm.ringq = rest ∧
      (s.chm.ring.rate * 1000 < used + 32 → t.chm.hostDrops = s.chm.hostDrops + 1 ∧ t.mem = s.mem) ∧
      (used + 32 ≤ s.chm.ring.rate * 1000 → t.chm.hostCnt = s.chm.hostCnt + 1 ∧ t.chm.ringUsed = used + 32 ∧
        t.mem =
          (s.writeThrough { space := .host, addr := s.chm.ring.base.toNat + 32 * (s.chm.hostCnt.toNat % 2 ^ s.chm.ring.log2) } r.bytes false).mem) := by
  show ∃ t, execTraceHostExport s = _ ∧ _
  have hfresh : (if decide (s.chm.ringSince + cyclesPerMs ≤ s.time) then 0 else s.chm.ringUsed) = used := by rw [hused]; simp
  unfold execTraceHostExport
  simp only [hq, hstop, hon, Bool.not_true, Bool.or_self, Bool.false_eq_true, if_false, hfresh, State.mChm_chm]
  split
  · exact ⟨_, rfl, rfl, fun _ => ⟨rfl, rfl⟩, fun h => by omega⟩
  · next hfits =>
    refine ⟨_, rfl, ?_, fun h => absurd h hfits, fun _ => ?_⟩
    · rw [State.writeThrough_mChm]
      simp
    · rw [State.writeThrough_mChm]
      simp

/-- Settles O12, row by row. -/
theorem faultsAndChimney : Obligations.FaultsAndChimney := by
  unfold Obligations.FaultsAndChimney
  refine ⟨execFaultReport_spec, ?_, ?_, ?_, execHostSinkWrite_spec, State.logFn_spec, execMsixHoldoffExpiry_spec, ?_, execCperForward_spec,
    execPldmEventResend_spec, ?_, ?_⟩
  · rintro s t r x rfl rfl
    exact s.makeRecord_spec r
  · exact fun s r => ⟨State.intake_of_not_coalesces, State.intake_of_repeat⟩
  · exact fun s => ⟨rfl, s.flushCoal_spec⟩
  · intro s
    show (_ → execQuenchEntry s = _) ∧ ∀ code, _ → ∃ t, execQuenchEntry s = _ ∧ _
    unfold execQuenchEntry
    refine ⟨fun h => by rw [h], fun code h => ⟨s.enterQuenched code, by rw [h], ?_⟩⟩
    obtain ⟨hdev, hchm, hgroups, hblocks, hops, hrefresh, hreq, hldg, hfuses⟩ := s.enterQuenched_spec code
    obtain ⟨lost, fails, msgs, hflt⟩ := s.enterQuenched_flt code
    rw [hflt]
    exact ⟨hdev, rfl, rfl, rfl, rfl, rfl, hchm, hgroups, hblocks, hops, hrefresh, hreq, hldg, hfuses⟩
  · intro s die
    obtain ⟨hidle, hemit⟩ := execLostRecordEmit_spec s die
    obtain ⟨hoff, hsend⟩ := execTraceFrameSend_spec s
    exact ⟨hidle, hemit, hoff, hsend⟩
  · exact fun s => ⟨execTraceHostExport_idle, fun r rest used hq hstop hon hused => execTraceHostExport_spec hq hstop hon hused⟩

end Sys2Proof.Machine
end

section
/-!
PROOFS. What an instruction row does when its instruction does not issue (R357, R359, R380 to R384): every row of the instruction set is one call
of `State.isaStep` with the codes that the table gives it.
-/
namespace Sys2Proof.Machine

/-! ### Every row is an issue of its codes -/

/-- A row issues the instructions of some codes. -/
def RowIssues (codes : List (Nat × Nat)) (row : GroupRef → Instr) : Prop :=
  ∀ (s : State) (r : GroupRef), ∃ body, exec (row r) s = .next (s.isaStep r codes body)

theorem isaClass0_issues : ∀ p ∈ isaClass0.zipIdx, RowIssues [(0, p.2)] p.1 := by
  simp only [isaClass0, List.zipIdx_cons, List.zipIdx_nil, List.forall_mem_cons, List.not_mem_nil, false_implies, implies_true, and_true]
  and_intros <;> exact fun _ _ => ⟨_, rfl⟩

theorem isaClass1_issues : ∀ p ∈ isaClass1.zipIdx, RowIssues [(1, p.2)] p.1 := by
  simp only [isaClass1, List.zipIdx_cons, List.zipIdx_nil, List.forall_mem_cons, List.not_mem_nil, false_implies, implies_true, and_true]
  and_intros <;> exact fun _ _ => ⟨_, rfl⟩

theorem isaClass2_issues : ∀ p ∈ isaClass2.zipIdx, RowIssues (vcodes p.2) p.1 := by
  simp only [isaClass2, List.zipIdx_cons, List.zipIdx_nil, List.forall_mem_cons, List.not_mem_nil, false_implies, implies_true, and_true]
  and_intros <;> exact fun _ _ => ⟨_, rfl⟩

theorem isaClass3_issues : ∀ p ∈ isaClass3.zipIdx, RowIssues [(3, p.2)] p.1 := by
  simp only [isaClass3, List.zipIdx_cons, List.zipIdx_nil, List.forall_mem_cons, List.not_mem_nil, false_implies, implies_true, and_true]
  and_intros <;> exact fun _ _ => ⟨_, rfl⟩

theorem isaClass5_issues : ∀ p ∈ isaClass5.zipIdx, RowIssues [(5, p.2)] p.1 := by
  simp only [isaClass5, List.zipIdx_cons, List.zipIdx_nil, List.forall_mem_cons, List.not_mem_nil, false_implies, implies_true, and_true]
  and_intros <;> exact fun _ _ => ⟨_, rfl⟩

theorem isaClass6_issues : ∀ p ∈ isaClass6.zipIdx, RowIssues [(6, p.2)] p.1 := by
  simp only [isaClass6, List.zipIdx_cons, List.zipIdx_nil, List.forall_mem_cons, List.not_mem_nil, false_implies, implies_true, and_true]
  and_intros <;> exact fun _ _ => ⟨_, rfl⟩

theorem isaClass7_issues : ∀ p ∈ isaClass7.zipIdx, RowIssues [(7, p.2)] p.1 := by
  simp only [isaClass7, List.zipIdx_cons, List.zipIdx_nil, List.forall_mem_cons, List.not_mem_nil, false_implies, implies_true, and_true]
  and_intros <;> exact fun _ _ => ⟨_, rfl⟩

theorem isaClass8_issues : ∀ p ∈ isaClass8.zipIdx, RowIssues [(8, p.2)] p.1 := by
  simp only [isaClass8, List.zipIdx_cons, List.zipIdx_nil, List.forall_mem_cons, List.not_mem_nil, false_implies, implies_true, and_true]
  and_intros <;> exact fun _ _ => ⟨_, rfl⟩

theorem isaClass9_issues : ∀ p ∈ isaClass9.zipIdx, RowIssues [(9, p.2)] p.1 := by
  simp only [isaClass9, List.zipIdx_cons, List.zipIdx_nil, List.forall_mem_cons, List.not_mem_nil, false_implies, implies_true, and_true]
  and_intros <;> exact fun _ _ => ⟨_, rfl⟩

theorem isaClass10_issues : ∀ p ∈ isaClass10.zipIdx, RowIssues [(10, p.2)] p.1 := by
  simp only [isaClass10, List.zipIdx_cons, List.zipIdx_nil, List.forall_mem_cons, List.not_mem_nil, false_implies, implies_true, and_true]
  and_intros <;> exact fun _ _ => ⟨_, rfl⟩

theorem isaClass11_issues : ∀ p ∈ isaClass11.zipIdx, RowIssues [(11, p.2)] p.1 := by
  simp only [isaClass11, List.zipIdx_cons, List.zipIdx_nil, List.forall_mem_cons, List.not_mem_nil, false_implies, implies_true, and_true]
  and_intros <;> exact fun _ _ => ⟨_, rfl⟩

theorem isaClass12_issues : ∀ p ∈ isaClass12.zipIdx, RowIssues [(12, p.2)] p.1 := by
  simp only [isaClass12, List.zipIdx_cons, List.zipIdx_nil, List.forall_mem_cons, List.not_mem_nil, false_implies, implies_true, and_true]
  and_intros <;> exact fun _ _ => ⟨_, rfl⟩

theorem isaClass13_issues : ∀ p ∈ isaClass13.zipIdx, RowIssues [(13, p.2)] p.1 := by
  simp only [isaClass13, List.zipIdx_cons, List.zipIdx_nil, List.forall_mem_cons, List.not_mem_nil, false_implies, implies_true, and_true]
  and_intros <;> exact fun _ _ => ⟨_, rfl⟩

/-- The classes of the instruction set. -/
def isaClasses : List (Nat × List (GroupRef → Instr)) :=
  [(0, isaClass0), (1, isaClass1), (2, isaClass2), (3, isaClass3), (4, isaClass2.take 21), (5, isaClass5), (6, isaClass6), (7, isaClass7),
    (8, isaClass8), (9, isaClass9), (10, isaClass10), (11, isaClass11), (12, isaClass12), (13, isaClass13)]

theorem mem_isaTable (e : Nat × Nat × (GroupRef → Instr)) : e ∈ isaTable ↔ ∃ q ∈ isaClasses, q.1 = e.1 ∧ q.2[e.2.1]? = some e.2.2 := by
  have htable : isaTable = isaClasses.flatMap fun c => c.2.mapIdx fun n i => (c.1, n, i) := rfl
  obtain ⟨cls, func, row⟩ := e
  rw [htable, List.mem_flatMap]
  refine exists_congr fun q => and_congr_right fun _ => ?_
  rw [List.mem_mapIdx]
  constructor
  · rintro ⟨n, hn, heq⟩
    obtain ⟨rfl, rfl, rfl⟩ : q.1 = cls ∧ n = func ∧ q.2[n] = row := by simpa using heq
    exact ⟨rfl, List.getElem?_eq_getElem hn⟩
  · rintro ⟨rfl, hrow⟩
    obtain ⟨hn, hget⟩ := List.getElem?_eq_some_iff.mp hrow
    exact ⟨func, hn, congrArg (fun i => (q.1, func, i)) hget⟩

/-- An integer instruction with a function code up to 0x14 stands in both integer classes. -/
theorem mem_vcodes {func : Nat} {q : Nat × Nat} (h : q ∈ vcodes func) : q.2 = func ∧ (q.1 = 2 ∨ q.1 = 4 ∧ func ≤ 0x14) := by
  unfold vcodes at h
  split at h
  · next hle =>
    rcases List.mem_pair.mp h with rfl | rfl
    · exact ⟨rfl, .inl rfl⟩
    · exact ⟨rfl, .inr ⟨rfl, hle⟩⟩
  · obtain rfl := List.mem_singleton.mp h
    exact ⟨rfl, .inl rfl⟩

/-- The rows of the two integer classes issue the codes that name them in either. -/
theorem integerRow_issues {func : Nat} {row : GroupRef → Instr} (h : isaClass2[func]? = some row) :
    RowIssues (vcodes func) row ∧ ∀ q ∈ vcodes func, (q.1, q.2, row) ∈ isaTable := by
  refine ⟨isaClass2_issues (row, func) (List.mem_zipIdx_iff_getElem?.mpr h), fun q hq => (mem_isaTable _).mpr ?_⟩
  obtain ⟨hfunc, hcls | ⟨hcls, hle⟩⟩ := mem_vcodes hq
  · exact ⟨(2, isaClass2), by simp [isaClasses], hcls.symm, hfunc ▸ h⟩
  · refine ⟨(4, isaClass2.take 21), by simp [isaClasses], hcls.symm, ?_⟩
    show (isaClass2.take 21)[q.2]? = some row
    rw [hfunc, List.getElem?_take_of_lt (by omega), h]

/-- Every row of the instruction set issues codes of which the table's is one, and each of which the table gives this row. -/
theorem isaRow_issues {e : Nat × Nat × (GroupRef → Instr)} (he : e ∈ isaTable) :
    ∃ codes, RowIssues codes e.2.2 ∧ (e.1, e.2.1) ∈ codes ∧ ∀ q ∈ codes, (q.1, q.2, e.2.2) ∈ isaTable := by
  obtain ⟨q, hq, hcls, hrow⟩ := (mem_isaTable e).mp he
  have single (h : ∀ p ∈ q.2.zipIdx, RowIssues [(q.1, p.2)] p.1) :
      ∃ codes, RowIssues codes e.2.2 ∧ (e.1, e.2.1) ∈ codes ∧ ∀ q ∈ codes, (q.1, q.2, e.2.2) ∈ isaTable :=
    ⟨[(q.1, e.2.1)], h (e.2.2, e.2.1) (List.mem_zipIdx_iff_getElem?.mpr hrow), by simp [hcls], by simpa [hcls] using he⟩
  have integer (h : isaClass2[e.2.1]? = some e.2.2) (hcode : (e.1, e.2.1) ∈ vcodes e.2.1) :
      ∃ codes, RowIssues codes e.2.2 ∧ (e.1, e.2.1) ∈ codes ∧ ∀ q ∈ codes, (q.1, q.2, e.2.2) ∈ isaTable :=
    ⟨vcodes e.2.1, (integerRow_issues h).1, hcode, (integerRow_issues h).2⟩
  simp only [isaClasses, List.mem_cons, List.not_mem_nil, or_false] at hq
  rcases hq with rfl | rfl | rfl | rfl | rfl | rfl | rfl | rfl | rfl | rfl | rfl | rfl | rfl | rfl
  · exact single isaClass0_issues
  · exact single isaClass1_issues
  · refine integer hrow ?_
    rw [← hcls]
    unfold vcodes
    split <;> simp
  · exact single isaClass3_issues
  · have hlt : e.2.1 < 21 := by
      obtain ⟨hlen, -⟩ := List.getElem?_eq_some_iff.mp hrow
      exact lt_of_lt_of_le hlen (List.length_take_le ..)
    refine integer ?_ ?_
    · rw [← List.getElem?_take_of_lt hlt]
      exact hrow
    · rw [← hcls]
      unfold vcodes
      rw [if_pos (by omega)]
      simp
  · exact single isaClass5_issues
  · exact single isaClass6_issues
  · exact single isaClass7_issues
  · exact single isaClass8_issues
  · exact single isaClass9_issues
  · exact single isaClass10_issues
  · exact single isaClass11_issues
  · exact single isaClass12_issues
  · exact single isaClass13_issues

/-! ### An issue that does not come to its body -/

section
variable {s s1 : State} {r : GroupRef} {codes : List (Nat × Nat)} {body : Issue → Did} {g : Group} {c : Cmd} {x : Ctx} {w : Nat}

theorem isaStep_of_no_issue (h : s.canIssue r = none) : s.isaStep r codes body = s := by
  unfold State.isaStep
  rw [h]

theorem isaStep_of_no_fetch (h : s.canIssue r = some (g, c, x)) (hf : s.fetchWord r g c = none) :
    s.isaStep r codes body = s.groupFault r g 0x403 0 0 none := by
  unfold State.isaStep
  simp only [h, hf]

theorem isaStep_of_poisoned (h : s.canIssue r = some (g, c, x)) (hf : s.fetchWord r g c = some (w, true, s1)) :
    s.isaStep r codes body = s1.tearCmd c { code := 0x632, dkind := 1, detail := groupDetail r g 0 g.pc.toNat none } := by
  unfold State.isaStep
  simp only [h, hf, if_true]

theorem isaStep_of_undefined (h : s.canIssue r = some (g, c, x)) (hf : s.fetchWord r g c = some (w, false, s1)) (hw : legal w = false) :
    s.isaStep r codes body = s1.groupFault r g 0x403 0 0 none := by
  unfold State.isaStep
  simp only [h, hf, hw, Bool.not_false, Bool.false_eq_true, if_false, if_true]

theorem isaStep_of_other_row (h : s.canIssue r = some (g, c, x)) (hf : s.fetchWord r g c = some (w, false, s1)) (hw : legal w = true)
    (hc : (wCls w, wFunc w) ∉ codes) : s.isaStep r codes body = s := by
  have hcont : codes.contains (wCls w, wFunc w) = false := by simpa using hc
  unfold State.isaStep
  simp only [h, hf, hw, hcont, Bool.not_true, Bool.not_false, Bool.false_eq_true, if_false, if_true]

theorem isaStep_of_high_register (h : s.canIssue r = some (g, c, x)) (hf : s.fetchWord r g c = some (w, false, s1)) (hw : legal w = true)
    (hc : (wCls w, wFunc w) ∈ codes) (hreg : ∃ n ∈ regsOf w, g.regs * 8 ≤ n) :
    s.isaStep r codes body = s1.groupFault r g 0x404 g.exec.toNat 0 none := by
  have hcont : codes.contains (wCls w, wFunc w) = true := by simpa using hc
  have hany : (regsOf w).any (fun n => decide (g.regs * 8 ≤ n)) = true := by simpa using hreg
  unfold State.isaStep
  simp only [h, hf, hw, hcont, hany, Bool.not_true, Bool.false_eq_true, if_false, if_true]

theorem isaStep_of_partial_mask (h : s.canIssue r = some (g, c, x)) (hf : s.fetchWord r g c = some (w, false, s1)) (hw : legal w = true)
    (hc : (wCls w, wFunc w) ∈ codes) (hreg : ∀ n ∈ regsOf w, n < g.regs * 8) (hcls : wCls w = 10 ∨ wCls w = 11) (hexec : g.exec ≠ BitVec.allOnes 64) :
    s.isaStep r codes body = s1.groupFault r g 0x401 g.exec.toNat 0 none := by
  have hcont : codes.contains (wCls w, wFunc w) = true := by simpa using hc
  have hany : (regsOf w).any (fun n => decide (g.regs * 8 ≤ n)) = false := by simpa using hreg
  unfold State.isaStep
  simp only [h, hf, hw, hcont, hany, Bool.not_true, Bool.false_eq_true, if_false]
  rw [if_pos ⟨hcls, hexec⟩]

theorem isaStep_of_awaited_register (h : s.canIssue r = some (g, c, x)) (hf : s.fetchWord r g c = some (w, false, s1)) (hw : legal w = true)
    (hc : (wCls w, wFunc w) ∈ codes) (hreg : ∀ n ∈ regsOf w, n < g.regs * 8)
    (hexec : wCls w = 10 ∨ wCls w = 11 → g.exec = BitVec.allOnes 64) (htrv : ∃ n ∈ regsOf w, n ∈ s.trvRegs r) :
    s.isaStep r codes body = s.stallGroup r := by
  have hcont : codes.contains (wCls w, wFunc w) = true := by simpa using hc
  have hany : (regsOf w).any (fun n => decide (g.regs * 8 ≤ n)) = false := by simpa using hreg
  have hwait : (regsOf w).any (fun n => (s.trvRegs r).contains n) = true := by simpa using htrv
  unfold State.isaStep
  simp only [h, hf, hw, hcont, hany, Bool.not_true, Bool.false_eq_true, if_false]
  rw [if_neg fun hmask => hmask.2 (hexec hmask.1), if_pos hwait]

end

/-- A fetch off an 8-byte boundary or outside the code range fetches nothing (R357). -/
theorem fetchWord_eq_none {s : State} {r : GroupRef} {g : Group} {c : Cmd}
    (h : g.pc.toNat % 8 ≠ 0 ∨ g.pc.toNat < lnCode c ∨ lnCode c + lnCodeLen c < g.pc.toNat + 8) : s.fetchWord r g c = none := by
  unfold State.fetchWord
  dsimp only
  rw [if_pos (by simpa [or_assoc] using h)]

/-- Settles O30: by the codes that each row issues, and the branches of the issue before its body. -/
theorem instructionsThatDoNotIssue : Obligations.InstructionsThatDoNotIssue := by
  unfold Obligations.InstructionsThatDoNotIssue
  intro e he s r
  obtain ⟨codes, hissues, hcode, hcodes⟩ := isaRow_issues he
  obtain ⟨body, hexec⟩ := hissues s r
  rw [hexec]
  refine ⟨fun h => congrArg _ (isaStep_of_no_issue h), fun g c x h => ⟨fun hf => congrArg _ (isaStep_of_no_fetch h hf), fetchWord_eq_none,
    fun w s1 hf => congrArg _ (isaStep_of_poisoned h hf), fun w s1 hf => ⟨fun hw => congrArg _ (isaStep_of_undefined h hf hw), ?_, ?_⟩⟩⟩
  · intro hw hcls
    have hmem : (wCls w, wFunc w) ∈ codes := hcls ▸ hcode
    obtain ⟨h1, -⟩ := Prod.mk.inj hcls
    rw [← h1]
    exact ⟨fun hreg => congrArg _ (isaStep_of_high_register h hf hw hmem hreg),
      fun hreg hc hmask => congrArg _ (isaStep_of_partial_mask h hf hw hmem hreg hc hmask),
      fun hreg hmask htrv => congrArg _ (isaStep_of_awaited_register h hf hw hmem hreg hmask htrv)⟩
  · intro hw hother
    exact congrArg _ (isaStep_of_other_row h hf hw fun hmem => hother _ (hcodes _ hmem) rfl rfl)

end Sys2Proof.Machine
end

section
/-!
PROOFS. BAR_RELEASE and GBIND_GRANT (R420, R422): the groups of a block that leave their BAR together, and the binds granted in order.
-/
namespace Sys2Proof.Machine

/-! ### Finite maps and debug commands -/

/-- A map whose entries all change reads as the changed entries. -/
theorem mapGet_map {α β : Type} (m : Map α) (f : α → β) (k : Nat) : mapGet (m.map fun p => (p.1, f p.2)) k = (mapGet m k).map f := by
  induction m with
  | nil => rfl
  | cons p m ih =>
    simp only [List.map_cons, mapGet]
    split
    · rfl
    · exact ih

/-- What retiring a debug command's step changes: the commands. -/
structure State.CmdFrame (s t : State) : Prop where
  rest : t = { s with stk := { s.stk with cmds := t.stk.cmds } }

theorem State.CmdFrame.refl (s : State) : s.CmdFrame s := ⟨rfl⟩

theorem State.CmdFrame.trans {a b c : State} (h : a.CmdFrame b) (k : b.CmdFrame c) : a.CmdFrame c := ⟨by rw [k.rest, h.rest]⟩

theorem State.stepDone_cmdFrame (s : State) (g : Group) : s.CmdFrame (s.stepDone g) := by
  unfold State.stepDone
  split
  · split
    · exact ⟨rfl⟩
    · exact .refl s
  · exact .refl s

theorem foldl_cmdFrame {α : Type} {f : State → α → State} (hf : ∀ (s : State) (x : α), s.CmdFrame (f s x)) (l : List α) (s : State) :
    s.CmdFrame (l.foldl f s) := by
  induction l generalizing s with
  | nil => exact .refl s
  | cons x l ih => exact (hf s x).trans (ih _)

/-! ### BAR_RELEASE -/

/-- A group that leaves its BAR (R420). -/
def Group.leaveBar (g : Group) (now : Nat) : Group := ({ g with atBar := false, pc := g.pc + 8 } : Group).rest now

/-- The groups after the release of a block. -/
def Hearths.released (u : Hearths) (x : Group) (now : Nat) : Map Group :=
  u.groups.map fun p => (p.1, if p.2.cid == x.cid && p.2.block == x.block then p.2.leaveBar now else p.2)

theorem execBarRelease_releases {s : State} {g : GroupRef} {x : Group} (hlive : s.live = true) (hx : s.group? g = some x)
    (hall : ∀ p ∈ s.hearths.groups, p.2.cid = x.cid → p.2.block = x.block → p.2.atBar = true) :
    ∃ u, s.CmdFrame u ∧ exec (.barRelease g) s = .next (u.mHearths fun h => { h with groups := h.released x s.time }) := by
  refine ⟨_, foldl_cmdFrame (fun s (p : Nat × Group) => s.stepDone_cmdFrame p.2)
    (s.hearths.groups.filter fun p => p.2.cid == x.cid && p.2.block == x.block) s, ?_⟩
  show execBarRelease g s = _
  unfold execBarRelease
  rw [hlive, hx]
  refine if_pos ?_
  rw [List.all_eq_true]
  intro p hp
  obtain ⟨hmem, hblock⟩ := List.mem_filter.mp hp
  obtain ⟨hcid, hblk⟩ : p.2.cid = x.cid ∧ p.2.block = x.block := by simpa using hblock
  exact hall p hmem hcid hblk

/-- Settles O24: all groups of the block leave their BAR, or none does. -/
theorem barReleasesWholeBlocks : Obligations.BarReleasesWholeBlocks := by
  unfold Obligations.BarReleasesWholeBlocks
  intro s g x hlive hx
  refine ⟨?_, ?_⟩
  · intro hall
    obtain ⟨u, ⟨hu⟩, hexec⟩ := execBarRelease_releases hlive hx hall
    have hhearths : u.hearths = s.hearths := by rw [hu]
    refine ⟨_, hexec, ?_, ?_⟩
    · intro k
      simp only [State.mHearths_hearths, hhearths, Hearths.released]
      rw [mapGet_map s.hearths.groups fun p => if p.cid == x.cid && p.block == x.block then p.leaveBar s.time else p]
      refine congrArg (Option.map · _) (funext fun p => ?_)
      simp only [Bool.and_eq_true, beq_iff_eq]
      rfl
    · rw [hu]
      rfl
  · rintro ⟨p, hmem, hcid, hblock, hbar⟩
    show execBarRelease g s = _
    unfold execBarRelease
    rw [hlive, hx]
    refine if_neg ?_
    rw [List.all_eq_true]
    intro hall
    have := hall p (List.mem_filter.mpr ⟨hmem, by simp [hcid, hblock]⟩)
    simp [hbar] at this

end Sys2Proof.Machine
end

section
/-!
PROOFS. GBIND_GRANT (R422): the waiting binds of a Hearth are granted in order, whole, and only over free Grates.
-/
namespace Sys2Proof.Machine

/-! ### The Grates of a mask -/

theorem mem_gratesOf {m : BitVec 4} {k : Nat} : k ∈ gratesOf m ↔ m.getLsbD k = true := by
  unfold gratesOf
  simp only [List.mem_filter, List.mem_range, and_iff_right_iff_imp]
  exact BitVec.lt_of_getLsbD

/-- A Hearth with some Grates written anew. -/
def Hearth.setGrates (u : Hearth) (l : List Nat) (x : Grate) : Hearth := l.foldl (fun u k => u.mGrate k fun _ => x) u

theorem Hearth.setGrates_eq (u : Hearth) (l : List Nat) (x : Grate) : u.setGrates l x = { u with grates := (u.setGrates l x).grates } := by
  unfold Hearth.setGrates
  induction l generalizing u with
  | nil => rfl
  | cons k l ih => rw [List.foldl_cons, ih]; rfl

theorem Hearth.length_setGrates (u : Hearth) (l : List Nat) (x : Grate) : (u.setGrates l x).grates.length = u.grates.length := by
  unfold Hearth.setGrates
  induction l generalizing u with
  | nil => rfl
  | cons k l ih => rw [List.foldl_cons, ih]; exact List.length_set ..

theorem Hearth.getD_setGrates_of_notMem (u : Hearth) {l : List Nat} (x : Grate) {k : Nat} (h : k ∉ l) :
    (u.setGrates l x).grates.getD k {} = u.grates.getD k {} := by
  unfold Hearth.setGrates
  induction l generalizing u with
  | nil => rfl
  | cons j l ih =>
    obtain ⟨hne, hrest⟩ : k ≠ j ∧ k ∉ l := by simpa using h
    rw [List.foldl_cons, ih _ hrest]
    unfold Hearth.mGrate
    simp only [List.getD_eq_getElem?_getD]
    rw [List.getElem?_set_ne hne.symm]

theorem Hearth.getD_setGrates_of_mem (u : Hearth) {l : List Nat} (x : Grate) {k : Nat} (h : k ∈ l) (hk : k < u.grates.length) :
    (u.setGrates l x).grates.getD k {} = x := by
  unfold Hearth.setGrates
  induction l generalizing u with
  | nil => simp at h
  | cons j l ih =>
    rw [List.foldl_cons]
    have hlen : k < (u.mGrate j fun _ => x).grates.length := by unfold Hearth.mGrate; simpa using hk
    by_cases hmem : k ∈ l
    · exact ih _ hmem hlen
    · obtain rfl := (List.mem_cons.mp h).resolve_right hmem
      have hnot := (u.mGrate k fun _ => x).getD_setGrates_of_notMem x hmem
      unfold Hearth.setGrates at hnot
      rw [hnot]
      unfold Hearth.mGrate
      simp [List.getD_eq_getElem?_getD, hk]

/-! ### One grant -/

/-- The state in which a bind of a group has been granted (R422). -/
def State.grant (s : State) (h : Nat) (r : GroupRef) (g : Group) : State :=
  (s.mHearth h fun u => ({ u with binds := u.binds.filter (· != r) } : Hearth).setGrates (gratesOf (g.binding.getD 0)) { bound := some r }).retireGroup r
    { g with bound := g.binding.getD 0, binding := none, pc := g.pc + 8 }

/-- A bind cannot be granted: an earlier waiting bind names one of its Grates, or one of them is bound. -/
def State.Blocked (s : State) (h : Nat) (blocked : BitVec 4) (g : Group) : Prop :=
  g.binding.getD 0 &&& blocked ≠ 0 ∨ ∃ k, (g.binding.getD 0).getLsbD k = true ∧ ((s.hearth h).grates.getD k {}).bound ≠ none

theorem grantBinds_cons_of_none {s : State} {h : Nat} {blocked : BitVec 4} {r : GroupRef} {rest : List GroupRef} (hr : s.group? r = none) :
    s.grantBinds h blocked (r :: rest) = s.grantBinds h blocked rest := by
  rw [State.grantBinds, hr]

theorem grantBinds_cons_of_blocked {s : State} {h : Nat} {blocked : BitVec 4} {r : GroupRef} {rest : List GroupRef} {g : Group}
    (hr : s.group? r = some g) (hb : s.Blocked h blocked g) :
    s.grantBinds h blocked (r :: rest) = s.grantBinds h (blocked ||| g.binding.getD 0) rest := by
  rw [State.grantBinds, hr]
  refine if_neg ?_
  simp only [Bool.and_eq_true, beq_iff_eq, List.all_eq_true, Option.isNone_iff_eq_none, mem_gratesOf]
  rintro ⟨hfree, hunbound⟩
  rcases hb with hb | ⟨k, hk, hbound⟩
  · exact hb hfree
  · exact hbound (hunbound k hk)

theorem grantBinds_cons_of_free {s : State} {h : Nat} {blocked : BitVec 4} {r : GroupRef} {rest : List GroupRef} {g : Group}
    (hr : s.group? r = some g) (hb : ¬s.Blocked h blocked g) :
    s.grantBinds h blocked (r :: rest) = (s.grant h r g).grantBinds h blocked rest := by
  rw [State.grantBinds, hr]
  refine if_pos ?_
  simp only [State.Blocked, not_or, not_exists, not_and, not_not] at hb
  simpa [mem_gratesOf] using hb

/-! ### What a grant leaves -/

/-- What granting binds on a Hearth may change: the Hearth's Grates and binds, the groups, and the debug commands. -/
structure GrantFrame (h : Nat) (s t : State) : Prop where
  rest : t = { s with hearths := { s.hearths with logical := t.hearths.logical, groups := t.hearths.groups }, stk := { s.stk with cmds := t.stk.cmds } }
  others : ∀ k, k ≠ h → t.hearth k = s.hearth k
  own : t.hearth h = { s.hearth h with grates := (t.hearth h).grates, binds := (t.hearth h).binds }

theorem GrantFrame.refl (h : Nat) (s : State) : GrantFrame h s s := ⟨rfl, fun _ _ => rfl, rfl⟩

theorem GrantFrame.trans {h : Nat} {a b c : State} (hab : GrantFrame h a b) (hbc : GrantFrame h b c) : GrantFrame h a c where
  rest := by rw [hbc.rest, hab.rest]
  others := fun k hk => (hbc.others k hk).trans (hab.others k hk)
  own := by rw [hbc.own, hab.own]

@[simp] theorem State.mGroup_hearth (s : State) (r : GroupRef) (f : Group → Group) (k : Nat) : (s.mGroup r f).hearth k = s.hearth k := rfl

@[simp] theorem State.retireGroup_hearth (s : State) (r : GroupRef) (g : Group) (k : Nat) : (s.retireGroup r g).hearth k = s.hearth k := by
  unfold State.retireGroup
  rw [State.mGroup_hearth, State.hearth_congr (State.stepDone_hearths ..)]

/-- The Hearth that a grant leaves. -/
theorem State.grant_hearth_self (s : State) (h : Nat) (r : GroupRef) (g : Group) : (s.grant h r g).hearth h =
    ({ s.hearth h with binds := (s.hearth h).binds.filter (· != r) } : Hearth).setGrates (gratesOf (g.binding.getD 0)) { bound := some r } := by
  unfold State.grant
  rw [State.retireGroup_hearth, State.mHearth_self]

theorem State.grant_hearth_of_ne (s : State) {h k : Nat} (r : GroupRef) (g : Group) (hk : k ≠ h) : (s.grant h r g).hearth k = s.hearth k := by
  unfold State.grant
  rw [State.retireGroup_hearth, State.mHearth_of_ne _ _ hk]

theorem State.grant_frame (s : State) (h : Nat) (r : GroupRef) (g : Group) : GrantFrame h s (s.grant h r g) where
  rest := by
    unfold State.grant State.retireGroup
    rw [(State.stepDone_cmdFrame ..).rest]
    rfl
  others := fun _ hk => s.grant_hearth_of_ne r g hk
  own := by rw [State.grant_hearth_self, Hearth.setGrates_eq]

theorem State.grant_binds (s : State) (h : Nat) (r : GroupRef) (g : Group) :
    ((s.grant h r g).hearth h).binds = (s.hearth h).binds.filter (· != r) := by
  rw [State.grant_hearth_self, Hearth.setGrates_eq]

theorem State.grant_group_self {s : State} {r : GroupRef} {g : Group} (hg : s.group? r = some g) (h : Nat) : (s.grant h r g).group? r =
    some ({ g with bound := g.binding.getD 0, binding := none, pc := g.pc + 8 }.rest s.time) := by
  unfold State.grant State.retireGroup State.mGroup State.group?
  simp only [State.mHearths_hearths, mapGet_mapAdj_self, State.stepDone_hearths]
  show Option.map _ (s.group? r) = _
  rw [hg]
  rfl

theorem State.grant_group_of_ne (s : State) (h : Nat) {r q : GroupRef} (g : Group) (hq : gkey q ≠ gkey r) : (s.grant h r g).group? q = s.group? q := by
  unfold State.grant State.retireGroup State.mGroup State.group?
  simp only [State.mHearths_hearths]
  rw [mapGet_mapAdj_of_ne _ _ hq, State.stepDone_hearths]
  rfl

theorem State.grant_grate_of_bound {s : State} {h k : Nat} {g : Group} (hb : ¬s.Blocked h 0 g) (r : GroupRef)
    (hk : ((s.hearth h).grates.getD k {}).bound ≠ none) : ((s.grant h r g).hearth h).grates.getD k {} = (s.hearth h).grates.getD k {} := by
  rw [State.grant_hearth_self, Hearth.getD_setGrates_of_notMem]
  rw [mem_gratesOf]
  exact fun hm => hb (.inr ⟨k, hm, hk⟩)

theorem State.Blocked.mono {s : State} {h : Nat} {b c : BitVec 4} {g : Group} (hb : s.Blocked h b g) : s.Blocked h (b ||| c) g := by
  refine hb.imp_left fun hne heq => hne ?_
  have hsub : g.binding.getD 0 &&& b = (g.binding.getD 0 &&& (b ||| c)) &&& b := by
    ext i
    simp only [BitVec.getElem_and, BitVec.getElem_or]
    cases b[i] <;> simp
  rw [hsub, heq]
  exact BitVec.zero_and

theorem State.Blocked.of_zero {s : State} {h : Nat} {b : BitVec 4} {g : Group} (hb : s.Blocked h 0 g) : s.Blocked h b g := by
  refine hb.elim (fun hne => absurd (BitVec.and_zero) hne) .inr

/-! ### The grants of a list of binds -/

/-- The binds that grants consider, in a state: a bind that is not there is passed by, a blocked one blocks its Grates, a free one is granted. -/
theorem grantBinds_induction {h : Nat} {motive : State → BitVec 4 → List GroupRef → State → Prop} (nil : ∀ s b, motive s b [] s)
    (absent : ∀ s b r rest t, s.group? r = none → motive s b rest t → motive s b (r :: rest) t)
    (blocked : ∀ s b r rest t g, s.group? r = some g → s.Blocked h b g → motive s (b ||| g.binding.getD 0) rest t → motive s b (r :: rest) t)
    (free : ∀ s b r rest t g, s.group? r = some g → ¬s.Blocked h b g → motive (s.grant h r g) b rest t → motive s b (r :: rest) t)
    (s : State) (b : BitVec 4) (l : List GroupRef) : motive s b l (s.grantBinds h b l) := by
  induction l generalizing s b with
  | nil => exact nil s b
  | cons r rest ih =>
    cases hg : s.group? r with
    | none =>
      rw [grantBinds_cons_of_none hg]
      exact absent s b r rest _ hg (ih s b)
    | some g =>
      by_cases hb : s.Blocked h b g
      · rw [grantBinds_cons_of_blocked hg hb]
        exact blocked s b r rest _ g hg hb (ih ..)
      · rw [grantBinds_cons_of_free hg hb]
        exact free s b r rest _ g hg hb (ih ..)

theorem grantBinds_frame (h : Nat) (s : State) (b : BitVec 4) (l : List GroupRef) : GrantFrame h s (s.grantBinds h b l) :=
  grantBinds_induction (motive := fun s _ _ t => GrantFrame h s t) (fun _ _ => .refl ..) (fun _ _ _ _ _ _ ih => ih)
    (fun _ _ _ _ _ _ _ _ ih => ih) (fun s _ r _ _ g _ _ ih => (s.grant_frame h r g).trans ih) s b l

/-- A bind that does not wait any more stays so. -/
theorem grantBinds_binds_subset (h : Nat) (s : State) (b : BitVec 4) (l : List GroupRef) :
    ∀ r ∈ ((s.grantBinds h b l).hearth h).binds, r ∈ (s.hearth h).binds :=
  grantBinds_induction (motive := fun s _ _ t => ∀ r ∈ (t.hearth h).binds, r ∈ (s.hearth h).binds) (fun _ _ _ hr => hr) (fun _ _ _ _ _ _ ih => ih)
    (fun _ _ _ _ _ _ _ _ ih => ih)
    (fun s _ r _ _ g _ _ ih q hq => by
      have hmem := ih q hq
      rw [State.grant_binds] at hmem
      exact (List.mem_filter.mp hmem).1) s b l

/-- A group whose bind is not considered is unchanged, and its bind waits on. -/
theorem grantBinds_of_notMem (h : Nat) (s : State) (b : BitVec 4) (l : List GroupRef) : ∀ q, gkey q ∉ l.map gkey →
    (s.grantBinds h b l).group? q = s.group? q ∧ (q ∈ (s.hearth h).binds → q ∈ ((s.grantBinds h b l).hearth h).binds) :=
  grantBinds_induction (motive := fun s _ l t => ∀ q, gkey q ∉ l.map gkey →
      t.group? q = s.group? q ∧ (q ∈ (s.hearth h).binds → q ∈ (t.hearth h).binds))
    (fun _ _ _ _ => ⟨rfl, id⟩)
    (fun _ _ _ _ _ _ ih q hq => ih q (List.not_mem_of_not_mem_cons hq))
    (fun _ _ _ _ _ _ _ _ ih q hq => ih q (List.not_mem_of_not_mem_cons hq))
    (fun s _ r rest _ g _ _ ih q hq => by
      have hne : gkey q ≠ gkey r := fun he => hq (by simp [he])
      obtain ⟨hgroup, hbinds⟩ := ih q (List.not_mem_of_not_mem_cons hq)
      refine ⟨hgroup.trans (s.grant_group_of_ne h g hne), fun hmem => hbinds ?_⟩
      rw [State.grant_binds]
      exact List.mem_filter.mpr ⟨hmem, by simpa using fun he => hne (congrArg gkey he)⟩) s b l

/-- A Grate that is bound keeps what it holds. -/
theorem grantBinds_grate_of_bound (h k : Nat) (s : State) (b : BitVec 4) (l : List GroupRef) :
    ((s.hearth h).grates.getD k {}).bound ≠ none → ((s.grantBinds h b l).hearth h).grates.getD k {} = (s.hearth h).grates.getD k {} :=
  grantBinds_induction (motive := fun s _ _ t => ((s.hearth h).grates.getD k {}).bound ≠ none →
      (t.hearth h).grates.getD k {} = (s.hearth h).grates.getD k {})
    (fun _ _ _ => rfl) (fun _ _ _ _ _ _ ih => ih) (fun _ _ _ _ _ _ _ _ ih => ih)
    (fun s _ r _ _ g _ hb ih hk => by
      have hgrate := State.grant_grate_of_bound (fun h0 => hb h0.of_zero) r hk
      rw [ih (by rw [hgrate]; exact hk), hgrate]) s b l

/-- A blocked bind stays blocked when another is granted. -/
theorem State.Blocked.grant {s : State} {h : Nat} {b : BitVec 4} {q g : Group} (hq : s.Blocked h b q) (hb : ¬s.Blocked h b g) (r : GroupRef) :
    (s.grant h r g).Blocked h b q := by
  refine hq.imp_right fun ⟨k, hk, hbound⟩ => ⟨k, hk, ?_⟩
  rw [State.grant_grate_of_bound (fun h0 => hb h0.of_zero) r hbound]
  exact hbound

/-- A bind that is blocked when its turn has not come stays waiting, and its group is unchanged. -/
theorem grantBinds_of_blocked (h : Nat) (s : State) (b : BitVec 4) (l : List GroupRef) : ∀ q g, (l.map gkey).Nodup → q ∈ l → s.group? q = some g →
    s.Blocked h b g → (s.grantBinds h b l).group? q = some g ∧ (q ∈ (s.hearth h).binds → q ∈ ((s.grantBinds h b l).hearth h).binds) := by
  induction l generalizing s b with
  | nil => simp
  | cons r rest ih =>
    intro q g hnodup hmem hq hblocked
    obtain ⟨hr, hrest⟩ := List.nodup_cons.mp hnodup
    rcases List.mem_cons.mp hmem with rfl | hmem
    · rw [grantBinds_cons_of_blocked hq hblocked, ← hq]
      exact grantBinds_of_notMem h s _ rest q hr
    · have hne : gkey q ≠ gkey r := fun he => hr (he ▸ List.mem_map_of_mem hmem)
      cases hg : s.group? r with
      | none =>
        rw [grantBinds_cons_of_none hg]
        exact ih s b q g hrest hmem hq hblocked
      | some x =>
        by_cases hb : s.Blocked h b x
        · rw [grantBinds_cons_of_blocked hg hb]
          exact ih s _ q g hrest hmem hq hblocked.mono
        · rw [grantBinds_cons_of_free hg hb]
          obtain ⟨hgroup, hbinds⟩ := ih (s.grant h r x) b q g hrest hmem ((s.grant_group_of_ne h x hne).trans hq) (hblocked.grant hb r)
          refine ⟨hgroup, fun hwait => hbinds ?_⟩
          rw [State.grant_binds]
          exact List.mem_filter.mpr ⟨hwait, by simpa using fun he => hne (congrArg gkey he)⟩

/-- A bind blocks every later one that shares a Grate with it. -/
theorem grantBinds_of_later (h : Nat) (s : State) (b : BitVec 4) (pre mid post : List GroupRef) (r q : GroupRef) (g x : Group)
    (hnodup : ((pre ++ r :: mid ++ q :: post).map gkey).Nodup) (hr : s.group? r = some g) (hblocked : s.Blocked h b g) (hq : s.group? q = some x)
    (hshare : g.binding.getD 0 &&& x.binding.getD 0 ≠ 0) :
    (s.grantBinds h b (pre ++ r :: mid ++ q :: post)).group? q = some x ∧
      (q ∈ (s.hearth h).binds → q ∈ ((s.grantBinds h b (pre ++ r :: mid ++ q :: post)).hearth h).binds) := by
  induction pre generalizing s b with
  | nil =>
    rw [List.nil_append, List.cons_append] at hnodup ⊢
    rw [grantBinds_cons_of_blocked hr hblocked]
    refine grantBinds_of_blocked h s _ _ q x (List.nodup_cons.mp hnodup).2 (by simp) hq (.inl fun heq => hshare ?_)
    have hsub : g.binding.getD 0 &&& x.binding.getD 0 = (x.binding.getD 0 &&& (b ||| g.binding.getD 0)) &&& g.binding.getD 0 := by
      ext i
      simp only [BitVec.getElem_and, BitVec.getElem_or]
      cases (x.binding.getD 0)[i] <;> cases (g.binding.getD 0)[i] <;> simp
    rw [hsub, heq]
    exact BitVec.zero_and
  | cons a pre ih =>
    simp only [List.cons_append] at hnodup ⊢
    obtain ⟨ha, hrest⟩ := List.nodup_cons.mp hnodup
    have hra : gkey r ≠ gkey a := fun he => ha (by simp [he])
    have hqa : gkey q ≠ gkey a := fun he => ha (by simp [he])
    cases hg : s.group? a with
    | none =>
      rw [grantBinds_cons_of_none hg]
      exact ih s b hrest hr hblocked hq
    | some y =>
      by_cases hb : s.Blocked h b y
      · rw [grantBinds_cons_of_blocked hg hb]
        exact ih s _ hrest hr hblocked.mono hq
      · rw [grantBinds_cons_of_free hg hb]
        obtain ⟨hgroup, hbinds⟩ := ih (s.grant h a y) b hrest ((s.grant_group_of_ne h y hra).trans hr) (hblocked.grant hb a)
          ((s.grant_group_of_ne h y hqa).trans hq)
        refine ⟨hgroup, fun hwait => hbinds ?_⟩
        rw [State.grant_binds]
        exact List.mem_filter.mpr ⟨hwait, by simpa using fun he => hqa (congrArg gkey he)⟩

/-- The first bind, its Grates all free, is granted, and what it is granted stays. -/
theorem grantBinds_of_first {h : Nat} {s : State} {r : GroupRef} {rest : List GroupRef} {g : Group} (hnodup : ((r :: rest).map gkey).Nodup)
    (hr : s.group? r = some g) (hfree : ¬s.Blocked h 0 g) :
    r ∉ ((s.grantBinds h 0 (r :: rest)).hearth h).binds ∧
    (s.grantBinds h 0 (r :: rest)).group? r = some ({ g with bound := g.binding.getD 0, binding := none, pc := g.pc + 8 }.rest s.time) ∧
    (∀ k, (g.binding.getD 0).getLsbD k = true → k < (s.hearth h).grates.length →
      ((s.grantBinds h 0 (r :: rest)).hearth h).grates.getD k {} = { bound := some r }) := by
  rw [grantBinds_cons_of_free hr hfree]
  refine ⟨fun hmem => ?_, ?_, fun k hk hlen => ?_⟩
  · have hwait := grantBinds_binds_subset h _ 0 rest r hmem
    rw [State.grant_binds] at hwait
    simpa using (List.mem_filter.mp hwait).2
  · rw [(grantBinds_of_notMem h _ 0 rest r (List.nodup_cons.mp hnodup).1).1, State.grant_group_self hr]
  · have hgrate : ((s.grant h r g).hearth h).grates.getD k {} = { bound := some r } := by
      rw [State.grant_hearth_self]
      exact Hearth.getD_setGrates_of_mem _ _ (mem_gratesOf.mpr hk) hlen
    rw [grantBinds_grate_of_bound h k _ 0 rest (by rw [hgrate]; nofun), hgrate]

/-- Settles O27, by induction over the waiting binds. -/
theorem bindsAreGrantedInOrder : Obligations.BindsAreGrantedInOrder := by
  unfold Obligations.BindsAreGrantedInOrder
  intro s h hlive hnodup
  have hframe := grantBinds_frame h s 0 (s.hearth h).binds
  refine ⟨s.grantBinds h 0 (s.hearth h).binds, ?_, hframe.rest, hframe.others, hframe.own, ?_, ?_⟩
  · exact congrArg Host.Outcome.next (if_pos hlive)
  · rintro r rest g m hbinds hr rfl hfree
    rw [hbinds] at hnodup ⊢
    have hnot : ¬s.Blocked h 0 g := by
      rintro (hne | ⟨k, hk, hbound⟩)
      · exact hne BitVec.and_zero
      · exact hbound (hfree k (BitVec.lt_of_getLsbD hk) hk)
    obtain ⟨hgone, hgroup, hgrates⟩ := grantBinds_of_first hnodup hr hnot
    exact ⟨hgone, hgroup, fun k _ hk hlen => hgrates k hk hlen⟩
  · rintro r hmem g hr ⟨k, -, hk, hbound⟩
    have hblocked : s.Blocked h 0 g := .inr ⟨k, hk, hbound⟩
    obtain ⟨hgroup, hbinds⟩ := grantBinds_of_blocked h s 0 _ r g hnodup hmem hr hblocked
    refine ⟨hbinds hmem, hgroup, fun pre mid post q x hsplit hq hshare => ?_⟩
    rw [hsplit] at hnodup
    obtain ⟨hgroup2, hbinds2⟩ := grantBinds_of_later h s 0 pre mid post r q g x hnodup hr hblocked hq hshare
    rw [hsplit] at hbinds2 ⊢
    exact ⟨hbinds2 (by simp), hgroup2⟩

end Sys2Proof.Machine
end

section
/-!
PROOFS. Teardown (R360, R361, R687, R749): what a killed command leaves, what the kills of a context leave, and the record of its fault.
-/
namespace Sys2Proof.Machine

/-! ### Finite maps -/

/-- An entry that a filter keeps is still what its key reads as. -/
theorem mapGet_filter_of_some {α : Type} {m : Map α} {k : Nat} {v : α} (h : mapGet m k = some v) {p : Nat × α → Bool} (hp : p (k, v) = true) :
    mapGet (m.filter p) k = some v := by
  induction m with
  | nil => simp [mapGet] at h
  | cons e m ih =>
    obtain ⟨a, w⟩ := e
    simp only [mapGet] at h
    split at h
    · next hak =>
      obtain rfl := Option.some.inj h
      subst hak
      rw [List.filter_cons_of_pos hp]
      simp [mapGet]
    · next hak =>
      by_cases hpa : p (a, w) = true
      · rw [List.filter_cons_of_pos hpa]
        simp only [mapGet, if_neg hak]
        exact ih h
      · rw [List.filter_cons_of_neg hpa]
        exact ih h

/-- A map without some keys. -/
def mapEraseAll {α : Type} (m : Map α) (ks : List Nat) : Map α := m.filter fun p => !ks.contains p.1

theorem mapEraseAll_cons {α : Type} (m : Map α) (k : Nat) (ks : List Nat) : mapEraseAll (mapErase m k) ks = mapEraseAll m (k :: ks) := by
  unfold mapEraseAll mapErase
  rw [List.filter_filter]
  refine List.filter_congr fun p _ => ?_
  simp [Bool.and_comm]

theorem mapGet_mapEraseAll_of_notMem {α : Type} (m : Map α) {k : Nat} {ks : List Nat} (h : k ∉ ks) : mapGet (mapEraseAll m ks) k = mapGet m k := by
  induction ks generalizing m with
  | nil => simp [mapEraseAll]
  | cons j ks ih =>
    obtain ⟨hne, hrest⟩ : k ≠ j ∧ k ∉ ks := by simpa using h
    rw [← mapEraseAll_cons, ih _ hrest, mapGet_mapErase, if_neg hne]

theorem mapGet_isSome_of_mem {α : Type} {m : Map α} {p : Nat × α} (h : p ∈ m) : (mapGet m p.1).isSome := by
  induction m with
  | nil => simp at h
  | cons e m ih =>
    obtain ⟨a, w⟩ := e
    simp only [mapGet]
    split
    · rfl
    · next hne =>
      rcases List.mem_cons.mp h with rfl | h
      · exact absurd rfl hne
      · exact ih h

/-! ### A killed command -/

/-- What a kill of a command may change: the units that did its work, the Depot and the Chimney (R53, R540). -/
structure State.KillFrame (s t : State) : Prop where
  rest : t = { s with
    routes := t.routes, hearths := t.hearths, serais := t.serais, tally := t.tally, chm := t.chm, depot := t.depot }

namespace State.KillFrame

theorem refl (s : State) : s.KillFrame s := ⟨rfl⟩

theorem trans {a b c : State} (h : a.KillFrame b) (k : b.KillFrame c) : a.KillFrame c := ⟨by rw [k.rest, h.rest]⟩

theorem ite {s a b : State} {c : Prop} [Decidable c] (ha : s.KillFrame a) (hb : s.KillFrame b) : s.KillFrame (if c then a else b) := by
  split <;> assumption

theorem foldl {α : Type} {f : State → α → State} (hf : ∀ (s : State) (x : α), s.KillFrame (f s x)) (l : List α) (s : State) :
    s.KillFrame (l.foldl f s) := by
  induction l generalizing s with
  | nil => exact .refl s
  | cons x l ih => exact (hf s x).trans (ih _)

theorem sendFrame (s : State) (p : Nat) (f : Frame) : s.KillFrame (s.sendFrame p f) := .ite ⟨rfl⟩ (.refl s)

theorem sendAbort (s : State) (o : ROp) (l : RLink) (reason : Nat) : s.KillFrame (s.sendAbort o l reason) :=
  .ite (.trans (sendFrame ..) ⟨rfl⟩) (.refl s)

theorem leaveLink (s : State) (o : ROp) (l : RLink) (reason : Nat) : s.KillFrame (s.leaveLink o l reason) :=
  .ite (.refl s) (.ite (.ite (.refl s) ⟨rfl⟩) (.trans (sendAbort ..) ⟨rfl⟩))

theorem routeDrop (s : State) (cid : Nat) : s.KillFrame (s.routeDrop cid) :=
  (foldl (fun s (o : ROp) => foldl (fun s l => leaveLink s o l 1) o.links s) _ s).trans ⟨rfl⟩

theorem dropWork (s : State) (cid : Nat) : s.KillFrame (s.dropWork cid) := (routeDrop s cid).trans ⟨rfl⟩

theorem killCmd (s : State) (cid cause : Nat) : s.KillFrame (s.killCmd cid cause) := by
  unfold State.killCmd
  split
  · exact .refl s
  · next c hc =>
    have hcount : s.KillFrame (if cause = 2 then s.dropWork cid else (s.dropWork cid).count 0x0F 0xFF (some c.ctx) c.cls 1) :=
      .ite (dropWork s cid) ((dropWork s cid).trans ⟨rfl⟩)
    exact .ite (hcount.trans ⟨rfl⟩) ((hcount.trans ⟨rfl⟩).trans ⟨rfl⟩)

end State.KillFrame

@[simp] theorem State.sendFrame_hearths (s : State) (p : Nat) (f : Frame) : (s.sendFrame p f).hearths = s.hearths := by
  unfold State.sendFrame
  split <;> rfl

@[simp] theorem State.sendAbort_hearths (s : State) (o : ROp) (l : RLink) (reason : Nat) : (s.sendAbort o l reason).hearths = s.hearths := by
  unfold State.sendAbort
  split
  · exact State.sendFrame_hearths ..
  · rfl

@[simp] theorem State.leaveLink_hearths (s : State) (o : ROp) (l : RLink) (reason : Nat) : (s.leaveLink o l reason).hearths = s.hearths := by
  unfold State.leaveLink
  split
  · rfl
  · split
    · split <;> rfl
    · exact State.sendAbort_hearths ..

@[simp] theorem State.routeDrop_hearths (s : State) (cid : Nat) : (s.routeDrop cid).hearths = s.hearths :=
  foldl_proj State.hearths _ (fun _ _ => foldl_proj State.hearths _ (fun _ _ => State.leaveLink_hearths ..) _ _) _ s

theorem State.dropWork_hearths (s : State) (cid : Nat) : (s.dropWork cid).hearths = s.hearths.drop cid :=
  congrArg (Hearths.drop · cid) (s.routeDrop_hearths cid)

/-- The Hearths let go of a killed command's work. -/
theorem State.killCmd_hearths {s : State} {cid : Nat} {c : Cmd} (h : s.cmd? cid = some c) (cause : Nat) :
    (s.killCmd cid cause).hearths = s.hearths.drop cid := by
  unfold State.killCmd
  rw [h, ← State.dropWork_hearths]
  dsimp only
  split <;> split <;> rfl

theorem State.killCmd_groups {s : State} {cid : Nat} {c : Cmd} (h : s.cmd? cid = some c) (cause : Nat) :
    (s.killCmd cid cause).hearths.groups = s.hearths.groups.filter (·.2.cid != cid) := by rw [State.killCmd_hearths h]; rfl

theorem State.killCmd_of_none {s : State} {cid : Nat} (h : s.cmd? cid = none) (cause : Nat) : s.killCmd cid cause = s := by
  unfold State.killCmd
  rw [h]

/-! ### The killed commands of a context -/

/-- The state in which some commands have been killed and have left the part. -/
def State.killAll (s : State) (ids : List Nat) (cause : Nat) : State := ids.foldl (fun s cid => (s.killCmd cid cause).eraseCmd cid) s

theorem State.killAll_cons (s : State) (cid : Nat) (ids : List Nat) (cause : Nat) :
    s.killAll (cid :: ids) cause = ((s.killCmd cid cause).eraseCmd cid).killAll ids cause := rfl

theorem State.killCmd_stk (s : State) (cid cause : Nat) : (s.killCmd cid cause).stk = s.stk := by rw [(State.KillFrame.killCmd s cid cause).rest]

/-- What kills and departures of commands may change. -/
structure State.LeaveFrame (s t : State) : Prop where
  rest : t = { s with
    routes := t.routes, hearths := t.hearths, serais := t.serais, tally := t.tally, chm := t.chm, depot := t.depot
    stk := { s.stk with cmds := t.stk.cmds } }

theorem State.LeaveFrame.trans {a b c : State} (h : a.LeaveFrame b) (k : b.LeaveFrame c) : a.LeaveFrame c := ⟨by rw [k.rest, h.rest]⟩

theorem State.KillFrame.leave {s t : State} (h : s.KillFrame t) : s.LeaveFrame t := ⟨by rw [h.rest]⟩

theorem State.killAll_frame (s : State) (ids : List Nat) (cause : Nat) : s.LeaveFrame (s.killAll ids cause) := by
  induction ids generalizing s with
  | nil => exact ⟨rfl⟩
  | cons cid ids ih => exact (State.KillFrame.killCmd s cid cause).leave.trans (.trans ⟨rfl⟩ (ih _))

theorem State.killAll_cmds (s : State) (ids : List Nat) (cause : Nat) : (s.killAll ids cause).stk.cmds = mapEraseAll s.stk.cmds ids := by
  induction ids generalizing s with
  | nil => simp [State.killAll, mapEraseAll]
  | cons cid ids ih =>
    have hcmds : ((s.killCmd cid cause).eraseCmd cid).stk.cmds = mapErase s.stk.cmds cid :=
      congrArg (fun k : Stoker => mapErase k.cmds cid) (s.killCmd_stk cid cause)
    rw [State.killAll_cons, ih, hcmds, mapEraseAll_cons]

theorem State.eraseCmd_cmd? (s : State) (cid k : Nat) : (s.eraseCmd cid).cmd? k = if k = cid then none else s.cmd? k := mapGet_mapErase ..

theorem State.killCmd_cmd? (s : State) (cid cause k : Nat) : (s.killCmd cid cause).cmd? k = s.cmd? k := by
  unfold State.cmd?
  rw [State.killCmd_stk]

theorem State.killAll_groups_subset (s : State) (ids : List Nat) (cause : Nat) :
    ∀ q ∈ (s.killAll ids cause).hearths.groups, q ∈ s.hearths.groups := by
  induction ids generalizing s with
  | nil => exact fun _ hq => hq
  | cons cid ids ih =>
    intro q hq
    have hmem : q ∈ (s.killCmd cid cause).hearths.groups := ih ((s.killCmd cid cause).eraseCmd cid) q hq
    cases hc : s.cmd? cid with
    | none => rwa [State.killCmd_of_none hc] at hmem
    | some c =>
      rw [State.killCmd_groups hc] at hmem
      exact (List.mem_filter.mp hmem).1

/-- No group of a killed command is left. -/
theorem State.killAll_groups (s : State) (ids : List Nat) (cause : Nat) : ∀ q ∈ (s.killAll ids cause).hearths.groups,
    (s.cmd? q.2.cid).isSome → q.2.cid ∉ ids := by
  induction ids generalizing s with
  | nil => simp
  | cons cid ids ih =>
    intro q hq hsome hmem
    by_cases heq : q.2.cid = cid
    · obtain ⟨c, hc⟩ := Option.isSome_iff_exists.mp hsome
      rw [heq] at hc
      have hleft : q ∈ (s.killCmd cid cause).hearths.groups :=
        State.killAll_groups_subset ((s.killCmd cid cause).eraseCmd cid) ids cause q hq
      rw [State.killCmd_groups hc] at hleft
      simp [heq] at hleft
    · refine ih _ q hq ?_ ((List.mem_cons.mp hmem).resolve_left heq)
      rwa [State.eraseCmd_cmd?, if_neg heq, State.killCmd_cmd?]

/-- A group of another command stays. -/
theorem State.killAll_groups_kept {s : State} {ids : List Nat} {k : Nat} {g : Group} (h : mapGet s.hearths.groups k = some g) (hg : g.cid ∉ ids)
    (cause : Nat) : mapGet (s.killAll ids cause).hearths.groups k = some g := by
  induction ids generalizing s with
  | nil => exact h
  | cons cid ids ih =>
    obtain ⟨hne, hrest⟩ : g.cid ≠ cid ∧ g.cid ∉ ids := by simpa using hg
    refine ih ?_ hrest
    show mapGet (s.killCmd cid cause).hearths.groups k = some g
    cases hc : s.cmd? cid with
    | none => rwa [State.killCmd_of_none hc]
    | some c =>
      rw [State.killCmd_groups hc]
      exact mapGet_filter_of_some h (by simpa using hne)

/-! ### A teardown -/

/-- The commands of a context that its teardown kills: all but the two context manifests (R652, R687). -/
def State.tornCmds (s : State) (ctx : Nat) : List Nat :=
  (s.stk.cmds.filter fun p => p.2.ctx == ctx && (p.2.opcode != 0x26 && p.2.opcode != 0x27)).map (·.1)

theorem State.mem_tornCmds {s : State} {ctx cid : Nat} :
    cid ∈ s.tornCmds ctx ↔ ∃ p ∈ s.stk.cmds, p.1 = cid ∧ p.2.ctx = ctx ∧ p.2.opcode ≠ 0x26 ∧ p.2.opcode ≠ 0x27 := by
  unfold State.tornCmds
  simp only [List.mem_map, List.mem_filter, Bool.and_eq_true, beq_iff_eq, bne_iff_ne, ne_eq]
  constructor
  · rintro ⟨p, ⟨hp, hctx, h26, h27⟩, rfl⟩
    exact ⟨p, hp, rfl, hctx, h26, h27⟩
  · rintro ⟨p, hp, rfl, hctx, h26, h27⟩
    exact ⟨p, ⟨hp, hctx, h26, h27⟩, rfl⟩

/-- A waybill once its context has been torn down. -/
def Waybill.torn (w : Waybill) (ctx : Nat) : Waybill := if w.ctx = ctx then { w with st := .draining, lane := none } else w

/-- The state that a teardown starts its kills from: the context is DEAD, its unrecorded answers go, and it is counted. -/
def State.markDead (s : State) (ctx : Nat) (c : Ctx) : State :=
  ((s.mStk fun k => { k with
      ctxs := mapAdj k.ctxs ctx fun x => { x with dead := true }
      answers := k.answers.filter (·.ctx != ctx) }).mFn c.fn fun f =>
    { f with slots := mapAdj f.slots c.slot fun l => { l with dead := true } }).mLog c.fn fun l => { l with teardowns := satAdd 255 l.teardowns 1 }

theorem State.teardown_of_dead {s : State} {ctx : Nat} {c : Ctx} (h : s.ctx? ctx = some c) (hd : c.dead = true) : s.teardown ctx = s := by
  unfold State.teardown
  rw [h]
  exact if_pos hd

/-- A teardown marks its context, kills its commands, discards its waybills' copies, and sets its waybills DRAINING. -/
theorem State.teardown_of_live {s : State} {ctx : Nat} {c : Ctx} (h : s.ctx? ctx = some c) (hd : c.dead = false) : ∃ units : List CUnit,
    s.teardown ctx = (units.foldl State.discardUnit ((s.markDead ctx c).killAll (s.tornCmds ctx) 2)).mLdg fun l =>
      { l with wb := l.wb.map fun p => (p.1, p.2.torn ctx) } := by
  refine ⟨(((s.markDead ctx c).killAll (s.tornCmds ctx) 2).ldg.wb.filter (·.2.ctx == ctx)).map fun p => (some p.1, 0), ?_⟩
  have hkill : (s.markDead ctx c).killAll (s.tornCmds ctx) 2 =
      (s.stk.cmds.filter fun p => p.2.ctx == ctx && (p.2.opcode != 0x26 && p.2.opcode != 0x27)).foldl
        (fun s p => (s.killCmd p.1 2).eraseCmd p.1) (s.markDead ctx c) := List.foldl_map
  have htorn (l : Ledger) : (l.wb.map fun p => if p.2.ctx == ctx then (p.1, { p.2 with st := .draining, lane := none }) else p) =
      l.wb.map fun p => (p.1, p.2.torn ctx) := by
    refine List.map_congr_left fun p _ => ?_
    unfold Waybill.torn
    by_cases hp : p.2.ctx = ctx <;> simp [hp]
  rw [List.foldl_map, hkill]
  unfold State.teardown
  rw [h]
  simp only [hd, Bool.false_eq_true, if_false, htorn]
  rfl

/-- The discards of a teardown change the Depot only. -/
theorem foldl_discardUnit_frame (units : List CUnit) (s : State) :
    units.foldl State.discardUnit s = { s with depot := (units.foldl State.discardUnit s).depot } := by
  induction units generalizing s with
  | nil => rfl
  | cons u units ih =>
    rw [List.foldl_cons]
    conv_lhs => rw [ih]
    rfl

/-- What a teardown leaves of the units that it names (R687). -/
theorem State.teardown_spec {s t : State} {ctx : Nat} {x : Ctx} (hx : s.ctx? ctx = some x) (hd : x.dead = false) (ht : t = s.teardown ctx) :
    t.flt = s.flt ∧ t.mem = s.mem ∧ t.ctx? ctx = some { x with dead := true } ∧ t.stk.cmds = mapEraseAll s.stk.cmds (s.tornCmds ctx) ∧
    t.hearths = ((s.markDead ctx x).killAll (s.tornCmds ctx) 2).hearths ∧ t.ldg.wb = s.ldg.wb.map fun p => (p.1, p.2.torn ctx) := by
  obtain ⟨units, hteardown⟩ := State.teardown_of_live hx hd
  have hcmds := (s.markDead ctx x).killAll_cmds (s.tornCmds ctx) 2
  obtain ⟨hkill⟩ := (s.markDead ctx x).killAll_frame (s.tornCmds ctx) 2
  rw [ht, hteardown]
  generalize (s.markDead ctx x).killAll (s.tornCmds ctx) 2 = u at hkill hcmds ⊢
  rw [foldl_discardUnit_frame]
  have hctx : u.stk.ctxs = mapAdj s.stk.ctxs ctx fun x => { x with dead := true } := by rw [hkill]; simp [State.markDead]
  have hldg : u.ldg = s.ldg := by rw [hkill]; simp [State.markDead]
  have hread : mapGet u.stk.ctxs ctx = some { x with dead := true } := by
    rw [hctx, mapGet_mapAdj_self]
    exact congrArg (Option.map _) hx
  refine ⟨?_, ?_, hread, hcmds, rfl, ?_⟩
  · show u.flt = s.flt
    rw [hkill]
    simp [State.markDead]
  · show u.mem = s.mem
    rw [hkill]
    simp [State.markDead]
  · show u.ldg.wb.map _ = _
    rw [hldg]

theorem State.markDead_groups (s : State) (ctx : Nat) (x : Ctx) : (s.markDead ctx x).hearths.groups = s.hearths.groups := rfl

theorem State.markDead_cmd? (s : State) (ctx : Nat) (x : Ctx) (cid : Nat) : (s.markDead ctx x).cmd? cid = s.cmd? cid := rfl

theorem State.makeRecord_hearths (s : State) (r : FaultRec) : (s.makeRecord r).hearths = s.hearths := rfl

theorem State.makeRecord_ldg (s : State) (r : FaultRec) : (s.makeRecord r).ldg = s.ldg := rfl

/-- A record of containment Teardown is made at once (R752, R755). -/
theorem State.raiseAs_teardown (s : State) {ctx : Nat} {x : Ctx} (hx : s.ctx? ctx = some x) (rec : FaultRec) :
    s.raiseAs 4 { rec with ctx := some ctx } = s.makeRecord { rec with
      ctx := some ctx, sev := faultSev rec.code, contain := 4, tick := s.tck.num, fn := some (rec.fn.getD x.fn)
      dkind := if rec.dkind = 0 then faultKind rec.code else rec.dkind, detail := padTo 32 rec.detail } := by
  unfold State.raiseAs
  rw [State.intake_of_not_coalesces (by rfl)]
  refine congrArg s.makeRecord ?_
  cases rec.fn <;> simp [State.fnOf, hx]

/-- The context and the place of a precise fault's record (R360). -/
theorem State.groupFault_spec {s : State} {r : GroupRef} {g : Group} {c : Cmd} (hc : s.cmd? g.cid = some c) (mask addr : Nat) (level : Option Nat)
    (code : Nat) :
    s.groupFault r g code mask addr level =
      (s.mHearth r.hearth fun u => { u with
        divergent := if code = 0x401 then u.divergent + 1 else u.divergent
        selfWait := if code = 0x402 then u.selfWait + 1 else u.selfWait }).tear c.ctx
          { code := code, dkind := 1, cmdId := c.cmdId
            detail := detHearth g.pc.toNat mask addr r.hearth r.burner r.slot g.group g.block level } ∨
    code ≠ 0x401 ∧ code ≠ 0x402 ∧ s.groupFault r g code mask addr level = s.tear c.ctx
          { code := code, dkind := 1, cmdId := c.cmdId
            detail := detHearth g.pc.toNat mask addr r.hearth r.burner r.slot g.group g.block level } := by
  unfold State.groupFault
  rw [hc]
  by_cases h1 : code = 0x401
  · subst h1
    exact .inl rfl
  · by_cases h2 : code = 0x402
    · subst h2
      exact .inl rfl
    · refine .inr ⟨h1, h2, ?_⟩
      simp only [h1, h2, if_false]
      rfl

/-- Settles O31: the record is `makeRecord`'s, and the rest is what the kills of the context's commands leave. -/
theorem teardownEndsItsContextOnly : Obligations.TeardownEndsItsContextOnly := by
  unfold Obligations.TeardownEndsItsContextOnly
  refine ⟨fun s r g c mask addr level code hc => State.groupFault_spec hc mask addr level code, ?_⟩
  rintro s t ctx rec r x hx rfl hr
  generalize hq : ({ rec with
    ctx := some ctx, sev := faultSev rec.code, contain := 4, tick := s.tck.num, fn := some (rec.fn.getD x.fn)
    dkind := if rec.dkind = 0 then faultKind rec.code else rec.dkind, detail := padTo 32 rec.detail } : FaultRec) = q
  have hrec : s.raiseAs 4 { rec with ctx := some ctx } = s.makeRecord q := by rw [s.raiseAs_teardown hx, hq]
  have hqr : r = { q with seq := s.flt.nextSeq } := by rw [hr, ← hq]
  have htear : s.tear ctx rec = (s.makeRecord q).teardown ctx := congrArg (State.teardown · ctx) hrec
  obtain ⟨hseq, hhost, hmgmt, -, -, -, hmem, hstk, -⟩ := s.makeRecord_spec q
  have hxq : (s.makeRecord q).ctx? ctx = some x := by
    unfold State.ctx?
    rw [hstk]
    exact hx
  rw [← hqr] at hhost hmgmt
  rw [htear]
  cases hd : x.dead
  case true =>
    rw [State.teardown_of_dead hxq hd]
    exact ⟨hseq, hmem, hmgmt, hhost, fun _ => ⟨hstk, rfl, rfl⟩, nofun⟩
  case false =>
    obtain ⟨hflt, htmem, hctx, hcmds, hhearths, hwb⟩ := State.teardown_spec hxq hd rfl
    rw [hstk] at hcmds
    have htorn : ∀ cid, (∀ p ∈ s.stk.cmds, p.1 = cid → p.2.ctx ≠ ctx) → cid ∉ (s.makeRecord q).tornCmds ctx := by
      intro cid hother hmem
      obtain ⟨p, hp, hcid, hpctx, -⟩ := State.mem_tornCmds.mp hmem
      rw [hstk] at hp
      exact hother p hp hcid hpctx
    rw [hflt, htmem]
    refine ⟨hseq, hmem, hmgmt, hhost, nofun, fun _ => ⟨⟨_, hctx, rfl⟩, ?_, ?_, ?_, ?_, ?_⟩⟩
    · intro p hp hpctx
      rw [hcmds] at hp
      obtain ⟨hmem, hleft⟩ := List.mem_filter.mp hp
      by_contra hne
      obtain ⟨h26, h27⟩ := not_or.mp hne
      have : p.1 ∈ (s.makeRecord q).tornCmds ctx := State.mem_tornCmds.mpr ⟨p, by rwa [hstk], rfl, hpctx, h26, h27⟩
      simp [this] at hleft
    · intro p hp hpctx h26 h27 g hg heq
      rw [hhearths] at hg
      have hsome : ((((s.makeRecord q).markDead ctx x)).cmd? g.2.cid).isSome := by
        rw [State.markDead_cmd?, heq]
        unfold State.cmd?
        rw [hstk]
        exact mapGet_isSome_of_mem hp
      exact State.killAll_groups _ _ 2 g hg hsome (State.mem_tornCmds.mpr ⟨p, by rwa [hstk], heq.symm, hpctx, h26, h27⟩)
    · intro cid hother
      unfold State.cmd?
      rw [hcmds, mapGet_mapEraseAll_of_notMem _ (htorn cid hother)]
    · intro k g hg hother
      rw [hhearths]
      refine State.killAll_groups_kept ?_ (htorn g.cid hother) 2
      rw [State.markDead_groups, State.makeRecord_hearths]
      exact hg
    · intro i
      unfold State.wb?
      rw [hwb, State.makeRecord_ldg]
      exact mapGet_map s.ldg.wb (fun w => w.torn ctx) i

end Sys2Proof.Machine
end

section
/-!
PROOFS. Memory errors (R557, R573 to R577, R767 to R769): parity, stack ECC, poison, and the temperature of a stack.
-/
namespace Sys2Proof.Machine

/-! ### What reports and sparing leave -/

/-- The memories stay, and so do the records of the management sink. -/
structure State.ReportFrame (s t : State) : Prop where
  mem : t.mem = s.mem
  records : ∀ r ∈ s.flt.mgmtq, r ∈ t.flt.mgmtq

namespace State.ReportFrame

theorem refl (s : State) : s.ReportFrame s := ⟨rfl, fun _ hr => hr⟩

theorem trans {a b c : State} (h : a.ReportFrame b) (k : b.ReportFrame c) : a.ReportFrame c :=
  ⟨k.mem.trans h.mem, fun r hr => k.records r (h.records r hr)⟩

theorem of_eq {s t : State} (hm : t.mem = s.mem) (h : t.flt.mgmtq = s.flt.mgmtq) : s.ReportFrame t := ⟨hm, fun r hr => by rwa [h]⟩

theorem ite {s a b : State} {c : Prop} [Decidable c] (ha : s.ReportFrame a) (hb : s.ReportFrame b) : s.ReportFrame (if c then a else b) := by
  split <;> assumption

theorem makeRecord (s : State) (r : FaultRec) : s.ReportFrame (s.makeRecord r) := by
  obtain ⟨-, -, hmgmt, -, -, -, hmem, -⟩ := s.makeRecord_spec r
  refine ⟨hmem, fun x hx => ?_⟩
  rw [hmgmt]
  split
  · exact List.mem_append_left _ hx
  · exact hx

theorem mFlt (s : State) {f : Faults → Faults} (hf : (f s.flt).mgmtq = s.flt.mgmtq) : s.ReportFrame (s.mFlt f) := .of_eq rfl hf

theorem mWarden (s : State) (f : Warden → Warden) : s.ReportFrame (s.mWarden f) := .of_eq rfl rfl

theorem mSerai (s : State) (q : Nat) (f : Serai → Serai) : s.ReportFrame (s.mSerai q f) := .of_eq rfl rfl

theorem intake (s : State) (r : FaultRec) : s.ReportFrame (s.intake r) := by
  unfold State.intake
  split
  · split
    · exact mFlt s rfl
    · exact (makeRecord s r).trans (mFlt _ rfl)
  · exact makeRecord s r

theorem raise (s : State) (r : FaultRec) : s.ReportFrame (s.raise r) := intake ..

theorem spare (s : State) (e : SparingEntry) : s.ReportFrame (s.spare e) := by
  unfold State.spare
  dsimp only
  split
  · exact (mFlt s rfl).trans (mWarden ..)
  · split
    · exact mFlt s rfl
    · exact ((mFlt s rfl).trans (mWarden ..)).trans (raise ..)

theorem remapRow (s : State) (stack chan key : Nat) : s.ReportFrame (s.remapRow stack chan key) := by
  unfold State.remapRow
  dsimp only
  split
  · exact .refl s
  · refine .trans (.trans ?_ (spare _ _)) (raise _ _)
    split
    · exact mFlt s rfl
    · exact .refl s

theorem laneFail (s : State) (q lane : Nat) : s.ReportFrame (s.laneFail q lane) := by
  unfold State.laneFail
  dsimp only
  split
  · exact .refl s
  · exact .trans (.trans (mSerai _ _ _) (spare _ _)) (raise _ _)

theorem laneStrike (s : State) (q lane limit : Nat) : s.ReportFrame (s.laneStrike q lane limit) := by
  unfold State.laneStrike
  dsimp only
  split
  · exact .trans (mSerai _ _ _) (laneFail _ _ _)
  · exact mSerai _ _ _

end State.ReportFrame

/-- The record that a report of a severity and containment makes, when the management sink has room and no delivery coalesces with it. -/
theorem State.mem_mgmtq_raiseAs {s : State} (contain : Nat) (r : FaultRec) (hroom : s.flt.mgmtq.length < 1024)
    (hc : s.flt.coal = [] ∨ contain ≠ 0 ∨ faultSev r.code < 2) :
    ∃ x ∈ (s.raiseAs contain r).flt.mgmtq, x.code = r.code ∧ x.sev = faultSev r.code := by
  unfold State.raiseAs
  generalize hq : ({ r with
    sev := faultSev r.code, contain := contain, tick := s.tck.num
    fn := match r.fn with | some f => some f | none => r.ctx.map s.fnOf
    dkind := if r.dkind = 0 then faultKind r.code else r.dkind, detail := padTo 32 r.detail } : FaultRec) = q
  have hmake : ∃ x ∈ (s.makeRecord q).flt.mgmtq, x.code = r.code ∧ x.sev = faultSev r.code := by
    obtain ⟨-, -, hmgmt, -⟩ := s.makeRecord_spec q
    rw [hmgmt, if_pos hroom, ← hq]
    exact ⟨_, List.mem_append_right _ (List.mem_singleton_self _), rfl, rfl⟩
  unfold State.intake
  split
  · next hcoal =>
    rcases hc with hnil | hc
    · rw [hnil]
      exact hmake
    · have hsev : coalesces q = false := by
        rw [← hq]
        unfold coalesces
        simp only [Bool.and_eq_false_iff, Bool.or_eq_false_iff, beq_eq_false_iff_ne]
        rcases hc with hc | hc
        · exact .inl hc
        · exact .inr ⟨by omega, by omega⟩
      rw [hsev] at hcoal
      cases hcoal
  · exact hmake

/-! ### Parity -/

/-- A clean or an instruction line is fetched again, a dirty one is lost (R557). -/
theorem execCacheParityError_l1 {s : State} {h idx : Nat} {l : L1Line} (hlive : s.live = true) (hl : (s.hearth h).l1[idx]? = some l) (loc : Nat)
    (prov : Option Nat) :
    (l.instr = true ∨ l.isDirty = false → exec (.cacheParityError 0 h idx loc prov) s = .next
      (((s.sramEvent loc true).mHearth h fun u => { u with l1 := u.l1.erase l }).refetched l.pa)) ∧
    (l.instr = false → l.isDirty = true → exec (.cacheParityError 0 h idx loc prov) s = .next
      (((s.sramEvent loc true).mHearth h fun u => { u with l1 := u.l1.erase l }).dataLost l.pa ((s.cmd? l.cid).map (·.ctx)))) := by
  show (_ → execCacheParityError 0 h idx loc prov s = _) ∧ (_ → _ → execCacheParityError 0 h idx loc prov s = _)
  unfold execCacheParityError
  rw [hlive, hl]
  exact ⟨fun hclean => congrArg Host.Outcome.next (if_pos (by simpa using hclean)),
    fun hdata hdirty => congrArg Host.Outcome.next (if_neg (by simp [hdata, hdirty]))⟩

/-- A committed Depot line is fetched again or lost as it is clean or dirty; a provisional copy is lost (R557). -/
theorem execCacheParityError_depot {s : State} {idx : Nat} {l : DLine} (hlive : s.live = true) (hl : s.depot.lines[idx]? = some l) (h loc : Nat)
    {gone : State → State}
    (hgone : gone = fun t => t.mDepot fun d => (d.putLine { l with data := [], dirty := false, poison := false, spilled := false }).tidy) :
    (l.data ≠ [] → l.dirty = false → exec (.cacheParityError 1 h idx loc none) s = .next ((gone (s.sramEvent loc true)).refetched l.pa)) ∧
    (l.data ≠ [] → l.dirty = true → exec (.cacheParityError 1 h idx loc none) s = .next
      ((gone ((s.sramEvent loc true).memWrite l.pa l.data true)).dataLost l.pa l.owner)) ∧
    (∀ n v, l.provs[n]? = some v → exec (.cacheParityError 1 h idx loc (some n)) s = .next
      (((s.sramEvent loc true).mDepot fun d => (d.putLine { l with provs := l.provs.eraseIdx n }).tidy).dataLost l.pa (s.unitOwner v))) := by
  show (_ → _ → execCacheParityError 1 h idx loc none s = _) ∧ (_ → _ → execCacheParityError 1 h idx loc none s = _) ∧
    ∀ n v, _ → execCacheParityError 1 h idx loc (some n) s = _
  unfold execCacheParityError
  rw [hlive, hl, hgone]
  refine ⟨fun hdata hdirty => ?_, fun hdata hdirty => ?_, fun n v hv => ?_⟩
  · simp only [Bool.not_true, Bool.false_eq_true, if_false, List.isEmpty_iff, hdata, hdirty]
  · simp only [Bool.not_true, Bool.false_eq_true, if_false, if_true, List.isEmpty_iff, hdata, hdirty]
  · simp only [Bool.not_true, Bool.false_eq_true, if_false, hv]

theorem execCacheParityError_localStore {s : State} {idx : Nat} {b : Block} (hlive : s.live = true) (hb : s.hearths.blocks[idx]? = some b)
    (h loc : Nat) (prov : Option Nat) :
    exec (.cacheParityError 2 h idx loc prov) s = .next ((s.sramEvent loc false).dataLost {} ((s.cmd? b.cid).map (·.ctx))) := by
  show execCacheParityError 2 h idx loc prov s = _
  unfold execCacheParityError
  simp only [hlive, Bool.not_true, Bool.false_eq_true, if_false, hb]

theorem State.dataLost_spec (s : State) (p : PA) (ctx : Nat) :
    (∀ x, s.ctx? ctx = some x → s.dataLost p (some ctx) = (s.parityCount p true).tear ctx { code := 0x602, detail := detPa p }) ∧
    (s.ctx? ctx = none → s.dataLost p (some ctx) = (s.parityCount p true).raiseAs 0 { code := 0x602, detail := detPa p }) ∧
    s.dataLost p none = (s.parityCount p true).raiseAs 0 { code := 0x602, detail := detPa p } := by
  have hctx : (s.parityCount p true).ctx? ctx = s.ctx? ctx := rfl
  refine ⟨fun x hx => ?_, fun hx => ?_, rfl⟩
  · show (if ((s.parityCount p true).ctx? ctx).isSome then _ else _) = _
    rw [hctx, hx]
    rfl
  · show (if ((s.parityCount p true).ctx? ctx).isSome then _ else _) = _
    rw [hctx, hx]
    rfl

/-! ### Stack ECC -/

/-- A correction is reported, and memory is unchanged (R767). -/
theorem execStackEccError_corrected {s : State} {addr : Nat} (hdev : s.dev ≠ .off) (hwin : inStackWindow addr 1 = true) (chan bank row : Nat)
    (lane : Option Nat) :
    ∃ t, exec (.stackEccError addr chan bank row true lane) s = .next t ∧ t.mem = s.mem ∧
      (s.flt.mgmtq.length < 1024 → s.flt.coal = [] → ∃ r ∈ t.flt.mgmtq, r.code = 0x630 ∧ r.sev = 2) := by
  let rec_ : FaultRec := { code := 0x630, detail := detAddr addr 1 0xFF (addr / 2 ^ 37) chan bank row }
  have hreport (t : State) (ht : (s.raise rec_).ReportFrame t) : t.mem = s.mem ∧
      (s.flt.mgmtq.length < 1024 → s.flt.coal = [] → ∃ r ∈ t.flt.mgmtq, r.code = 0x630 ∧ r.sev = 2) := by
    refine ⟨ht.mem.trans (State.ReportFrame.raise s rec_).mem, fun hroom hcoal => ?_⟩
    obtain ⟨r, hr, hcode, hsev⟩ := s.mem_mgmtq_raiseAs (faultContain rec_.code) rec_ hroom (.inl hcoal)
    exact ⟨r, ht.records r hr, hcode, hsev⟩
  show ∃ t, execStackEccError addr chan bank row true lane s = _ ∧ _
  unfold execStackEccError
  simp only [beq_iff_eq, hdev, hwin, Bool.not_true, Bool.or_false, if_false, if_true]
  refine ⟨_, rfl, hreport _ ?_⟩
  have hmark (f : Faults → Faults) (hf : (f (s.raise rec_).flt).mgmtq = (s.raise rec_).flt.mgmtq) (c : Prop) [Decidable c] (stack chan key : Nat) :
      (s.raise rec_).ReportFrame (if c then ((s.raise rec_).mFlt f).remapRow stack chan key else (s.raise rec_).mFlt f) :=
    .ite ((State.ReportFrame.mFlt _ hf).trans (.remapRow ..)) (.mFlt _ hf)
  split
  · exact (hmark _ rfl _ _ _ _).trans (.laneStrike ..)
  · exact hmark _ rfl _ _ _ _

/-- An uncorrectable error poisons its 64-byte unit and is reported (R767). -/
theorem execStackEccError_poisons {s : State} {addr : Nat} (hdev : s.dev ≠ .off) (hwin : inStackWindow addr 1 = true) (chan bank row : Nat)
    (lane : Option Nat) :
    ∃ t, exec (.stackEccError addr chan bank row false lane) s = .next t ∧ t.mem.stack = s.mem.stack ∧
      (∀ u, u ∈ t.mem.stackPoison ↔ u = addr / 64 * 64 ∨ u ∈ s.mem.stackPoison) ∧
      (s.flt.mgmtq.length < 1024 → ∃ r ∈ t.flt.mgmtq, r.code = 0x631 ∧ r.sev = 0) := by
  let rec_ : FaultRec := { code := 0x631, detail := detAddr addr 1 0xFF (addr / 2 ^ 37) chan bank row }
  let poison (m : Mem) : Mem :=
    { m with stackPoison := if m.stackPoison.contains (addr / 64 * 64) then m.stackPoison else m.stackPoison ++ [addr / 64 * 64] }
  have hpoison (u : Nat) : u ∈ (poison s.mem).stackPoison ↔ u = addr / 64 * 64 ∨ u ∈ s.mem.stackPoison := by
    show u ∈ (if s.mem.stackPoison.contains (addr / 64 * 64) then _ else _) ↔ _
    split
    · next hin => exact ⟨.inr, fun hu => hu.elim (fun he => he ▸ (by simpa using hin)) id⟩
    · rw [List.mem_append, List.mem_singleton, or_comm]
  have hreport (t : State) (ht : ((s.mMem poison).raise rec_).ReportFrame t) : t.mem.stack = s.mem.stack ∧
      (∀ u, u ∈ t.mem.stackPoison ↔ u = addr / 64 * 64 ∨ u ∈ s.mem.stackPoison) ∧
      (s.flt.mgmtq.length < 1024 → ∃ r ∈ t.flt.mgmtq, r.code = 0x631 ∧ r.sev = 0) := by
    have hmem : t.mem = poison s.mem := ht.mem.trans (State.ReportFrame.raise (s.mMem poison) rec_).mem
    refine ⟨by rw [hmem], fun u => by rw [hmem]; exact hpoison u, fun hroom => ?_⟩
    obtain ⟨r, hr, hcode, hsev⟩ := (s.mMem poison).mem_mgmtq_raiseAs (faultContain rec_.code) rec_ hroom (.inr (.inr (show faultSev 0x631 < 2 by decide)))
    exact ⟨r, ht.records r hr, hcode, hsev⟩
  show ∃ t, execStackEccError addr chan bank row false lane s = _ ∧ _
  unfold execStackEccError
  simp only [beq_iff_eq, hdev, hwin, Bool.not_true, Bool.or_false, Bool.false_eq_true, if_false]
  refine ⟨_, rfl, hreport _ ?_⟩
  split
  · exact (State.ReportFrame.remapRow ..).trans (.laneFail ..)
  · exact .remapRow ..

/-! ### Poison and temperature -/

theorem execPoisonConsumed_tears {s : State} {cid addr : Nat} {c : Cmd} (hlive : s.live = true) (hc : s.cmd? cid = some c) (hst : c.st = .running)
    (hpoison : s.cmdPoison cid c addr 1 = true) :
    exec (.poisonConsumed cid addr) s = .next (s.tearCmd c { code := 0x632, detail := detDa addr }) := by
  show execPoisonConsumed cid addr s = _
  unfold execPoisonConsumed
  rw [hlive, hc]
  exact if_pos (by simp [hst, hpoison])

/-- A sample of a stack's temperature sets its level, and reports a rise and the critical threshold (R574, R577). -/
theorem execStackTempSample_spec {s : State} {stack : Nat} (temp : Int) {thr : Nat → Int} {old new : Nat} (hdev : s.dev ≠ .off)
    (hloaded : s.img.loaded = true) (hstack : stack < 8) (hthr : thr = fun n => (nth s.img.thr n : Int) * 256) (hold : old = s.throttle stack)
    (hnew : new = if thr 2 ≤ temp ∧ old < 3 then 3 else if thr 1 ≤ temp ∧ old < 2 then 2 else if thr 0 ≤ temp ∧ old < 1 then 1 else old) :
    ∃ t u, exec (.stackTempSample stack temp) s = .next t ∧ t.throttle stack = new ∧ old ≤ new ∧
      (mapGetD t.dampers.perStack stack {}).temp = BitVec.ofInt 16 temp ∧ (∀ k, k ≠ stack → t.throttle k = s.throttle k) ∧
      u = { s with dampers := t.dampers } ∧
      t = (let v := if old < new then u.raise { code := 0x621 } else u; if thr 3 ≤ temp then v.raise { code := 0x622 } else v) := by
  have hfold : (List.range 4).foldl (fun l n => if 0 < n ∧ thr (n - 1) ≤ temp ∧ l < n then n else l) old = new := by
    rw [hnew]
    simp only [List.range, List.range.loop, List.foldl_cons, List.foldl_nil, Nat.reduceSub]
    split_ifs <;> omega
  have hle : old ≤ new := by
    rw [hnew]
    split_ifs <;> omega
  let sample (x : StackDmp) : StackDmp := { x with
    temp := BitVec.ofInt 16 temp, level := new, below := if old ≠ 0 ∧ temp < thr (old - 1) - 768 then x.below + 1 else 0
    raises := if old < new then x.raises + 1 else x.raises }
  let u := s.mDampers fun d => { d with perStack := mapMod d.perStack stack {} sample }
  let v := if old < new then u.raise { code := 0x621 } else u
  have hexec : exec (.stackTempSample stack temp) s = .next (if thr 3 ≤ temp then v.raise { code := 0x622 } else v) := by
    show execStackTempSample stack temp s = _
    unfold execStackTempSample
    rw [if_neg (by simp [hdev, hloaded, hstack])]
    simp only [← hold]
    subst hthr
    simp only [hfold]
    rfl
  have hraise (w : State) (r : FaultRec) : (w.raise r).dampers = w.dampers := by rw [w.raise_frame r]
  have hkeep (w : State) (c : Prop) [Decidable c] (r : FaultRec) : (if c then w.raise r else w).dampers = w.dampers := by
    split
    · exact hraise w r
    · rfl
  have hdampers : (if thr 3 ≤ temp then v.raise { code := 0x622 } else v).dampers = u.dampers :=
    (hkeep v _ _).trans (hkeep u _ _)
  refine ⟨_, u, hexec, ?_, hle, ?_, ?_, ?_, rfl⟩
  · unfold State.throttle
    rw [hdampers]
    show (mapGetD (mapMod s.dampers.perStack stack {} sample) stack {}).level = new
    rw [mapGetD_mapMod_self]
  · rw [hdampers]
    show (mapGetD (mapMod s.dampers.perStack stack {} sample) stack {}).temp = _
    rw [mapGetD_mapMod_self]
  · intro k hk
    unfold State.throttle
    rw [hdampers]
    show (mapGetD (mapMod s.dampers.perStack stack {} sample) k {}).level = _
    rw [mapGetD_mapMod_of_ne _ _ _ hk]
  · rw [hdampers]
    rfl

/-- Settles O44, row by row. -/
theorem memoryErrors : Obligations.MemoryErrors := by
  unfold Obligations.MemoryErrors
  refine ⟨fun s h idx loc prov l hlive hl => execCacheParityError_l1 hlive hl loc prov,
    fun s h idx loc l gone hlive hl hgone => execCacheParityError_depot hlive hl h loc hgone,
    fun s h idx loc prov b hlive hb => execCacheParityError_localStore hlive hb h loc prov, State.dataLost_spec,
    fun s addr chan bank row lane hdev hwin =>
      ⟨execStackEccError_corrected hdev hwin chan bank row lane, execStackEccError_poisons hdev hwin chan bank row lane⟩,
    fun s cid addr c hlive hc hst hpoison => execPoisonConsumed_tears hlive hc hst hpoison,
    fun s stack temp thr old new hdev hloaded hstack hthr hold hnew => execStackTempSample_spec temp hdev hloaded hstack hthr hold hnew⟩

end Sys2Proof.Machine
end

section
/-!
PROOFS. MERGING_BUFFER_DRAIN (R531) in a memory that is not canonical: the statement on the Depot's events quantifies over every state, and a list of
cells that holds an address twice still reads a value there after a zero was written.
-/
namespace Sys2Proof.Machine

/-- A merging-buffer entry that writes a zero to host address 0. -/
def zeroEntry : MergeEnt := { pa := { space := .host, addr := 0 }, bytes := [(0, 0)] }

/-- A part in Service whose host memory lists address 0 twice, with that entry in the merging buffer of die 0. -/
def doubledCellState : State :=
  { dev := .service, depot := { merge0 := [zeroEntry] }, mem := { host := [(0, 1), (0, 2)] } }

/-- The drain removes the first of the two cells, and the address reads the second. -/
theorem cellGet_doubledCellState : cellGet ((doubledCellState.drainOldest 0).mem.cells .host) 0 = 2 := by decide

/-- Refutes O43: its third clause says, of every state, that MERGING_BUFFER_DRAIN leaves the entry's bytes in memory, and does not ask that the memory
be canonical. In a memory that lists an address twice, writing 0 removes the first entry only. -/
theorem not_depotAndBufferEvents : ¬ Obligations.DepotAndBufferEvents := by
  unfold Obligations.DepotAndBufferEvents
  rintro ⟨-, -, hdrain, -⟩
  obtain ⟨t, ht, -, -, hbytes, -⟩ := hdrain doubledCellState 0 zeroEntry [] rfl rfl
  have hexec : exec (.mergingBufferDrain 0) doubledCellState = .next (doubledCellState.drainOldest 0) := rfl
  have ht' : t = doubledCellState.drainOldest 0 := Host.Outcome.next.inj (ht.symm.trans hexec)
  have hread : cellGet (t.mem.cells .host) 0 = 0 := hbytes (by decide) (0, 0) (by decide)
  rw [ht', cellGet_doubledCellState] at hread
  exact absurd hread (by decide)

end Sys2Proof.Machine
end

section
/-!
PROOFS. HOST_STACK_WRITE (R612) in a memory that is not canonical: the statement on the host link quantifies over every state.
-/
namespace Sys2Proof.Machine

/-- A part in Service with port 0 up, whose stack memory lists address 0 twice. -/
def doubledStackState : State :=
  { dev := .service, xlt := { port0 := { up := true } }, mem := { stack := [(0, 1), (0, 2)] } }

/-- A host write of a zero to the first byte of port 0's HDM range removes the first of the two cells. -/
theorem execHostStackWrite_doubledStackState : exec (.hostStackWrite 0 0 0 [0] false) doubledStackState =
    .next (doubledStackState.hostPiece (0, [0]) false) := rfl

theorem cellGet_doubledStackState : cellGet (doubledStackState.hostPiece (0, [0]) false).mem.stack 0 = 2 := by decide

/-- Refutes O46: its second clause says, of every state, that a host write leaves its bytes in stack memory, and does not ask that the memory be
canonical. In a memory that lists an address twice, writing 0 removes the first entry only. -/
theorem not_hostLinkRows : ¬ Obligations.HostLinkRows := by
  unfold Obligations.HostLinkRows
  rintro ⟨-, hwrite, -⟩
  obtain ⟨hplain, -⟩ := hwrite doubledStackState 0 0 0 [0] false _ (by decide) (by decide) rfl
  obtain ⟨t, ht, -, hbytes, -⟩ := hplain fun _ _ _ => rfl
  have ht' : t = doubledStackState.hostPiece (0, [0]) false := Host.Outcome.next.inj (ht.symm.trans execHostStackWrite_doubledStackState)
  have hread : cellGet t.mem.stack 0 = 0 := hbytes 0 (by decide)
  rw [ht', cellGet_doubledStackState] at hread
  exact absurd hread (by decide)

end Sys2Proof.Machine
end

section
/-!
PROOFS. COPY (R563) in a memory that is not canonical: the statement on Copy quantifies over every state.
-/
namespace Sys2Proof.Machine

/-- A page of 1 GiB of stack memory, mapped to the addresses of the same number. -/
def copyPage : PageTr := { size := 0x40000000, writable := true }

/-- The operands of a Copy of one byte from 0x10000 to 0x10080. -/
def copyBytes : List Byte := overlay (overlay (overlay (List.replicate 128 0) 32 (toLe 8 0x10000)) 40 (toLe 8 0x10080)) 48 (toLe 8 1)

def copyCmd : Cmd := { ctx := 1, opcode := 0x0F, bytes := copyBytes, st := .admitted, tset := [copyPage] }

/-- A part in Service with that Copy, whose stack memory lists the destination twice. -/
def doubledCopyState : State :=
  { dev := .service, stk := { ctxs := [(1, {})], cmds := [(5, copyCmd)] }, mem := { stack := [(0x10080, 1), (0x10080, 2)] } }

theorem doubledCopyState_ready : doubledCopyState.ready? 5 0x0F .admitted = some copyCmd := by decide +kernel

theorem doubledCopyState_ok : doubledCopyState.orderOk 5 copyCmd = true ∧ doubledCopyState.copyOk copyCmd = true ∧
    doubledCopyState.copyGuard copyCmd = none ∧ doubledCopyState.drovers.inService ≠ 0 ∧ cpSrcFlash copyCmd = false ∧ cpDstFlash copyCmd = false ∧
    doubledCopyState.cmdConflict 5 copyCmd (copyCmd.arg 40 8) (cpLen copyCmd) = false := by decide +kernel

theorem copyCmd_lands : ∀ k < cpLen copyCmd, findTr copyCmd.tset (copyCmd.arg 40 8 + k) = some copyPage := by decide +kernel

/-- The byte at the source is 0. -/
theorem doubledCopyState_source : (doubledCopyState.cmdRead 5 copyCmd (copyCmd.arg 32 8) (cpLen copyCmd)).getD 0 0 = 0 := by decide +kernel

/-- The state that the Copy leaves. -/
def copiedState : State := (doubledCopyState.countDrove copyCmd (cpLen copyCmd)).copyMemory 5 copyCmd

theorem exec_copy_doubledCopyState : exec (.copy 5 []) doubledCopyState = .next copiedState := by
  obtain ⟨horder, hok, hguard, hup, hsrc, hdst, hconflict⟩ := doubledCopyState_ok
  show execCopy 5 [] doubledCopyState = _
  unfold execCopy
  simp only [doubledCopyState_ready, horder, hok, hguard, hup, hsrc, hdst, hconflict, Bool.not_true, Bool.false_eq_true, if_false, beq_iff_eq,
    Bool.and_false, Bool.or_false]
  rfl

/-- The zero that the Copy writes removes the first of the two cells, and the destination reads the second. -/
theorem cellGet_copiedState : cellGet copiedState.mem.stack (copyPage.target + (copyCmd.arg 40 8 + 0 - copyPage.da)) = 2 := by decide +kernel

/-- Refutes O47: its first clause says, of every state, that a Copy leaves its source bytes in stack memory, and does not ask that the memory be
canonical. In a memory that lists an address twice, writing 0 removes the first entry only. -/
theorem not_copyAndRehome : ¬ Obligations.CopyAndRehome := by
  unfold Obligations.CopyAndRehome
  rintro ⟨hcopy, -⟩
  obtain ⟨horder, hok, hguard, hup, hsrc, hdst, hconflict⟩ := doubledCopyState_ok
  obtain ⟨-, -, hrun⟩ := hcopy doubledCopyState 5 [] copyCmd doubledCopyState_ready horder
  obtain ⟨hmemory, -⟩ := hrun hok hguard hup
  obtain ⟨t, ht, -, -, hbytes⟩ := hmemory copyPage hsrc hdst hconflict (List.mem_singleton_self _) rfl copyCmd_lands
  have ht' : t = copiedState := Host.Outcome.next.inj (ht.symm.trans exec_copy_doubledCopyState)
  have hread := hbytes 0 (by decide +kernel)
  rw [ht', cellGet_copiedState, doubledCopyState_source] at hread
  exact absurd hread (by decide)

end Sys2Proof.Machine
end

section
/-!
PROOFS. What an ST leaves of memory (R401, R407, R526, R527): a byte that no active thread stores to, and that does not wait in the Hearth's
combining buffer, reads as before.
-/
namespace Sys2Proof.Machine

/-! ### What leaves a combining buffer as it is -/

theorem State.mHearth_wc (s : State) (h k : Nat) {f : Hearth → Hearth} (hf : ∀ u, (f u).wc = u.wc) :
    ((s.mHearth h f).hearth k).wc = (s.hearth k).wc := by
  by_cases hk : k = h
  · subst hk
    rw [State.mHearth_self, hf]
  · rw [State.mHearth_of_ne _ _ hk]

theorem State.wc_congr {s t : State} (h : t.hearths = s.hearths) (k : Nat) : (t.hearth k).wc = (s.hearth k).wc := by
  rw [State.hearth_congr h]

@[simp] theorem State.putLine_wc (s : State) (h : Nat) (l : L1Line) (k : Nat) : ((s.putLine h l).hearth k).wc = (s.hearth k).wc := by
  have key (t : State) (f : Hearth → Hearth) (hf : ∀ u, (f u).wc = u.wc) (ht : t.hearths = s.hearths) :
      ((t.mHearth h f).hearth k).wc = (s.hearth k).wc := (State.mHearth_wc t h k hf).trans (State.wc_congr ht k)
  unfold State.putLine
  dsimp only
  generalize (if l.instr = true then (2 : Nat) else 4) = ways
  split
  · exact key _ _ (fun _ => rfl) rfl
  · split
    · exact key _ _ (fun _ => rfl) rfl
    · refine key _ _ (fun _ => rfl) ?_
      split
      · exact State.writeLine_hearths ..
      · rfl

@[simp] theorem State.touch_hearths (s : State) (c : Option Nat) (k d : Nat) (p : PA) (n : Nat) (w : Bool) :
    (s.touch c k d p n w).hearths = s.hearths := by
  unfold State.touch
  split <;> rfl

@[simp] theorem State.depotHit_hearths (s : State) (c : Option Nat) (k : Nat) (p : PA) : (s.depotHit c k p).hearths = s.hearths := rfl

@[simp] theorem State.fillLine_hearths (s : State) (h cid : Nat) (c : Cmd) (p : PA) (i d st : Bool) :
    (s.fillLine h cid c p i d st).2.hearths = s.hearths := by
  unfold State.fillLine
  dsimp only
  cases d <;> simp only [if_true, Bool.false_eq_true, if_false, State.depotAlloc_hearths] <;> split <;> simp

@[simp] theorem State.l1Line_wc (s : State) (h cid : Nat) (c : Cmd) (p : PA) (i : Bool) (k : Nat) :
    ((s.l1Line h cid c p i).2.hearth k).wc = (s.hearth k).wc := by
  unfold State.l1Line
  split
  · exact State.putLine_wc ..
  · exact (State.putLine_wc ..).trans (State.wc_congr (State.fillLine_hearths ..) k)

@[simp] theorem State.storeBelow_hearths (s : State) (cid : Nat) (c : Cmd) (attr ch : Nat) (p : PA) (bs : List Byte) :
    (s.storeBelow cid c attr ch p bs).hearths = s.hearths := by
  unfold State.storeBelow
  split
  · rfl
  · exact State.store_hearths ..

theorem State.keepWalk_hearths (s : State) (d : Nat) (c : Ctx) (da : Nat) : (s.keepWalk d c da).hearths = s.hearths := by
  unfold State.keepWalk
  split <;> rfl

theorem State.countWalks_hearths (s : State) (d : Nat) (c : Ctx) (set : List PageTr) : (s.countWalks d c set).hearths = s.hearths :=
  foldl_proj State.hearths _ (fun _ _ => State.keepWalk_hearths ..) _ _

theorem State.putTlb_wc (s : State) (h c : Nat) (t : PageTr) (k : Nat) : ((s.putTlb h c t).hearth k).wc = (s.hearth k).wc :=
  State.mHearth_wc _ _ _ fun _ => rfl

@[simp] theorem State.runTr_wc (s : State) (h ctx : Nat) (c : Ctx) (da k : Nat) : ((s.runTr h ctx c da).2.hearth k).wc = (s.hearth k).wc := by
  unfold State.runTr
  split
  · rfl
  · split
    · rfl
    · split
      · exact State.putTlb_wc ..
      · split
        · rfl
        · rw [State.putTlb_wc]
          exact State.wc_congr (State.countWalks_hearths ..) k

theorem Accs.add_wc (a : Accs) (i : Issue) (w at? : Bool) (n t da k : Nat) : ((a.add i w at? n t da).st.hearth k).wc = (a.st.hearth k).wc := by
  unfold Accs.add
  split
  · rfl
  · dsimp only
    split
    · exact State.runTr_wc ..
    · split
      · exact State.runTr_wc ..
      · split <;> exact State.runTr_wc ..

theorem Issue.accs_wc (i : Issue) (w at? : Bool) (n : Nat) (offs : Int) (k : Nat) : ((i.accs w at? n offs).st.hearth k).wc = (i.s.hearth k).wc := by
  unfold Issue.accs
  suffices h : ∀ (l : List Nat) (a : Accs),
      ((l.foldl (fun a t => a.add i w at? n t (i.g.addr i.w t offs)) a).st.hearth k).wc = (a.st.hearth k).wc from
    h i.g.active { st := i.s }
  intro l
  induction l with
  | nil => exact fun a => rfl
  | cons t l ih => exact fun a => (ih _).trans (Accs.add_wc ..)

theorem issue?_wc {s : State} {r : GroupRef} {i : Issue} (h : s.issue? r = some i) (k : Nat) : (i.s.hearth k).wc = (s.hearth k).wc := by
  obtain ⟨g, -, hf, -⟩ := issue?_cases h
  unfold State.fetchWord at hf
  dsimp only at hf
  split at hf
  · exact absurd hf (by simp)
  · split at hf
    · exact absurd hf (by simp)
    · simp only [Option.some.injEq, Prod.mk.injEq] at hf
      rw [← hf.2.2]
      exact State.l1Line_wc ..

theorem issue?_mem {s : State} {r : GroupRef} {i : Issue} (h : s.issue? r = some i) : i.s.mem = s.mem := by rw [(issue?_frame h).rest]

/-! ### One byte of memory -/

/-- A byte of memory. -/
def State.cell (s : State) (sp : Space) (q : Nat) : Byte := cellGet (s.mem.cells sp) q

theorem State.cell_congr {s t : State} (h : t.mem = s.mem) (sp : Space) (q : Nat) : t.cell sp q = s.cell sp q := by
  unfold State.cell
  rw [h]

theorem Mem.cells_put (m : Mem) (sp sp' : Space) (c : List Host.Cell) (pz : List Nat) :
    (m.put sp c pz).cells sp' = if sp' = sp then c else m.cells sp' := by
  cases sp <;> cases sp' <;> rfl

/-- A write leaves the bytes outside it as they were. -/
theorem State.cell_memWrite (s : State) {p : PA} {bs : List Byte} (z : Bool) {sp : Space} {q : Nat}
    (h : p.space = sp → q < p.addr ∨ p.addr + bs.length ≤ q) : (s.memWrite p bs z).cell sp q = s.cell sp q := by
  unfold State.cell State.memWrite
  simp only [State.mMem_mem, Mem.cells_put]
  split
  · next hsp =>
    rw [← hsp, cellGet_cellsSet_ne _ _ _ _ (h hsp.symm), hsp]
  · rfl

/-- A combining-buffer entry has no byte at a place. -/
def WcEntry.Avoids (e : WcEntry) (sp : Space) (q : Nat) : Prop := e.pa.space = sp → ∀ b ∈ e.bytes, e.pa.addr + b.1 ≠ q

theorem State.cell_drainWc (s : State) {e : WcEntry} {sp : Space} {q : Nat} (h : e.Avoids sp q) : (s.drainWc e).cell sp q = s.cell sp q := by
  unfold State.drainWc
  suffices hall : ∀ l : List (Nat × Byte), (∀ b ∈ l, b ∈ e.bytes) → ∀ s : State,
      (l.foldl (fun s b => s.memWrite (e.pa.plus b.1) [b.2] false) s).cell sp q = s.cell sp q from hall _ (fun _ hb => hb) s
  intro l
  induction l with
  | nil => exact fun _ s => rfl
  | cons b l ih =>
    intro hl s
    refine (ih (fun x hx => hl x (List.mem_cons_of_mem _ hx)) _).trans (State.cell_memWrite s false fun hsp => ?_)
    have hne := h hsp b (hl b List.mem_cons_self)
    show q < e.pa.addr + b.1 ∨ e.pa.addr + b.1 + 1 ≤ q
    omega

theorem State.cell_foldl_drainWc (l : List WcEntry) (s : State) {sp : Space} {q : Nat} (h : ∀ e ∈ l, e.Avoids sp q) :
    (l.foldl State.drainWc s).cell sp q = s.cell sp q := by
  induction l generalizing s with
  | nil => rfl
  | cons e l ih => exact (ih _ fun x hx => h x (List.mem_cons_of_mem _ hx)).trans (s.cell_drainWc (h e List.mem_cons_self))

/-- The bytes of one piece lie within the bytes that are cut up. -/
theorem mem_pieces {k a : Nat} {bs : List Byte} {x : Nat × List Byte} (h : x ∈ pieces k a bs) :
    a ≤ x.1 ∧ x.1 + x.2.length ≤ a + bs.length := by
  induction k generalizing a bs with
  | zero => simp [pieces] at h
  | succ k ih =>
    simp only [pieces] at h
    split at h
    · simp at h
    · rcases List.mem_cons.mp h with rfl | h
      · simp
      · obtain ⟨hlo, hhi⟩ := ih h
        rw [List.length_drop] at hhi
        have hlong : 128 - a % 128 < bs.length := by
          by_contra hle
          rw [List.drop_eq_nil_of_le (by omega)] at h
          cases k <;> simp [pieces] at h
        omega

/-! ### The stores of an ST -/

/-- A byte of memory reads as at first, and no entry of a Hearth's combining buffer has a byte there. -/
structure State.Spares (s : State) (b : Byte) (h : Nat) (sp : Space) (q : Nat) : Prop where
  cell : s.cell sp q = b
  wc : ∀ e ∈ (s.hearth h).wc, e.Avoids sp q

namespace State.Spares

variable {s : State} {b : Byte} {h : Nat} {sp : Space} {q : Nat}

theorem of_eq {t : State} (hs : s.Spares b h sp q) (hc : t.cell sp q = s.cell sp q) (hw : (t.hearth h).wc = (s.hearth h).wc) : t.Spares b h sp q where
  cell := hc.trans hs.cell
  wc := by
    rw [hw]
    exact hs.wc

theorem putLine (hs : s.Spares b h sp q) (k : Nat) (l : L1Line) : (s.putLine k l).Spares b h sp q :=
  hs.of_eq (State.cell_congr (putLine_mem ..) ..) (State.putLine_wc ..)

theorem l1Line (hs : s.Spares b h sp q) (k cid : Nat) (c : Cmd) (p : PA) (i : Bool) : (s.l1Line k cid c p i).2.Spares b h sp q :=
  hs.of_eq (State.cell_congr (l1Line_mem ..) ..) (State.l1Line_wc ..)

theorem touch (hs : s.Spares b h sp q) (c : Option Nat) (k d : Nat) (p : PA) (n : Nat) (w : Bool) : (s.touch c k d p n w).Spares b h sp q :=
  hs.of_eq (State.cell_congr (touch_mem ..) ..) (State.wc_congr (State.touch_hearths ..) h)

theorem memWrite (hs : s.Spares b h sp q) {p : PA} {bs : List Byte} (z : Bool) (hp : p.space = sp → q < p.addr ∨ p.addr + bs.length ≤ q) :
    (s.memWrite p bs z).Spares b h sp q := hs.of_eq (s.cell_memWrite z hp) rfl

theorem foldl {α : Type} {f : State → α → State} {l : List α} (hf : ∀ x ∈ l, ∀ s : State, s.Spares b h sp q → (f s x).Spares b h sp q)
    (hs : s.Spares b h sp q) : (l.foldl f s).Spares b h sp q := by
  induction l generalizing s with
  | nil => exact hs
  | cons x l ih => exact ih (fun y hy => hf y (List.mem_cons_of_mem _ hy)) (hf x List.mem_cons_self s hs)

/-- A store below the L1 writes memory, if at all, at its own bytes. -/
theorem store (hs : s.Spares b h sp q) (u : CUnit) (c : Option Nat) (attr : Nat) {p : PA} {bs : List Byte} (a z : Bool)
    (hp : p.space = sp → q < p.addr ∨ p.addr + bs.length ≤ q) : (s.store u c attr p bs a z).Spares b h sp q := by
  unfold State.store
  split
  · exact hs.memWrite z hp
  · split
    · exact foldl (fun x _ s hs => hs.of_eq rfl rfl) hs
    · refine foldl (fun x hx s hs => ?_) hs
      obtain ⟨hlo, hhi⟩ := mem_pieces hx
      have halloc : (s.depotAlloc { space := p.space, addr := x.1 } (attr == 4)).Spares b h sp q :=
        hs.of_eq (State.cell_congr (depotAlloc_mem ..) ..) (State.wc_congr (State.depotAlloc_hearths ..) h)
      unfold State.storeCommitted
      dsimp only
      split
      · refine State.Spares.memWrite ?_ _ fun hsp => ?_
        · exact halloc.of_eq rfl rfl
        have hout := hp hsp
        show q < x.1 ∨ x.1 + x.2.length ≤ q
        omega
      · exact halloc.of_eq rfl rfl

theorem storeBelow (hs : s.Spares b h sp q) (cid : Nat) (c : Cmd) (attr ch : Nat) {p : PA} {bs : List Byte}
    (hp : p.space = sp → q < p.addr ∨ p.addr + bs.length ≤ q) : (s.storeBelow cid c attr ch p bs).Spares b h sp q := by
  unfold State.storeBelow
  split
  · exact hs.memWrite false hp
  · exact hs.store _ _ _ _ _ hp

/-- Draining entries of the buffer writes none of their bytes at the place. -/
theorem drainWcWhere (hs : s.Spares b h sp q) (p : WcEntry → Bool) : (s.drainWcWhere h p).Spares b h sp q where
  cell := (State.cell_foldl_drainWc _ s fun e he => hs.wc e (List.mem_of_mem_filter he)).trans hs.cell
  wc e he := by
    unfold State.drainWcWhere at he
    rw [State.mHearth_self] at he
    have hsame : (((s.hearth h).wc.filter p).foldl State.drainWc s).hearths = s.hearths :=
      foldl_proj State.hearths State.drainWc (fun s e => State.drainWc_hearths s e) _ s
    rw [State.hearth_congr hsame] at he
    exact hs.wc e (List.mem_of_mem_filter he)

/-- A buffer that has other entries, none of them with a byte at the place. -/
theorem setWc (hs : s.Spares b h sp q) {f : List WcEntry → List WcEntry} (hf : ∀ e ∈ f (s.hearth h).wc, e.Avoids sp q) :
    (s.mHearth h fun u => { u with wc := f u.wc }).Spares b h sp q where
  cell := hs.cell
  wc e he := by
    rw [State.mHearth_self] at he
    exact hf e he

theorem addWc (hs : s.Spares b h sp q) {e : WcEntry} (he : e.Avoids sp q) :
    (s.mHearth h fun u => { u with wc := u.wc ++ [e] }).Spares b h sp q :=
  hs.setWc (f := fun w => w ++ [e]) fun x hx => by
    rcases List.mem_append.mp hx with hx | hx
    · exact hs.wc x hx
    · rw [List.mem_singleton.mp hx]
      exact he

end State.Spares

/-- The bytes of a combining entry after a store are its own and the stored ones. -/
theorem mem_foldl_mapSet {α : Type} {new : List (Nat × α)} {l : Map α} {x : Nat × α} (h : x ∈ new.foldl (fun l x => mapSet l x.1 x.2) l) :
    x ∈ l ∨ x ∈ new := by
  induction new generalizing l with
  | nil => exact .inl h
  | cons y new ih =>
    rcases ih h with h | h
    · rcases mem_keys_mapSet h with h | rfl
      · exact .inl h
      · exact .inr List.mem_cons_self
    · exact .inr (List.mem_cons_of_mem _ h)

namespace State.Spares

variable {s : State} {b : Byte} {h : Nat} {sp : Space} {q : Nat}

/-- A store that combines keeps clear of the bytes outside it. -/
theorem wcPiece {g : GroupRef} (hs : s.Spares b g.hearth sp q) (cid : Nat) {sp' : Space} {a : Nat × List Byte}
    (hp : sp' = sp → q < a.1 ∨ a.1 + a.2.length ≤ q) : (s.wcPiece g cid sp' a).Spares b g.hearth sp q := by
  have hput (l : List (Nat × Byte)) (hl : ∀ x ∈ l, sp' = sp → a.1 - a.1 % 128 + x.1 ≠ q) (x : Nat × Byte)
      (hx : x ∈ ((List.range a.2.length).map fun i => (a.1 % 128 + i, a.2.getD i 0)).foldl (fun l x => mapSet l x.1 x.2) l) (hsp : sp' = sp) :
      a.1 - a.1 % 128 + x.1 ≠ q := by
    rcases mem_foldl_mapSet hx with hx | hx
    · exact hl x hx hsp
    · obtain ⟨i, hi, rfl⟩ := List.mem_map.mp hx
      have hi := List.mem_range.mp hi
      have hout := hp hsp
      show a.1 - a.1 % 128 + (a.1 % 128 + i) ≠ q
      omega
  unfold State.wcPiece
  refine State.Spares.drainWcWhere ?_ _
  dsimp only
  split
  · refine hs.setWc fun e he => ?_
    obtain ⟨e', he', rfl⟩ := List.mem_map.mp he
    have hav := hs.wc e' he'
    split
    · next hit =>
      have hpa : e'.pa = { space := sp', addr := a.1 - a.1 % 128 } := by
        have := (Bool.and_eq_true _ _ ▸ (Bool.and_eq_true _ _ ▸ hit).1).1
        exact eq_of_beq this
      intro hsp x hx
      show e'.pa.addr + x.1 ≠ q
      unfold WcEntry.Avoids at hav
      rw [hpa] at hsp hav ⊢
      exact hput _ (fun x hx hsp => hav hsp x hx) x hx hsp
    · exact hav
  · refine State.Spares.addWc ?_ fun hsp x hx => hput [] (fun _ h => nomatch h) x hx hsp
    split
    · next e rest hwc =>
      have hold : ∀ e' ∈ e :: rest, e'.Avoids sp q := fun e' he' => hs.wc e' (hwc ▸ he')
      split
      · refine State.Spares.setWc (f := fun _ => rest) ?_ fun e' he' => hold e' (List.mem_cons_of_mem _ he')
        exact hs.of_eq (s.cell_drainWc (hold e List.mem_cons_self)) (State.wc_congr (State.drainWc_hearths s e) _)
      · exact hs
    · exact hs

/-- One store of a Hearth, by any ATTR and hint, keeps clear of the bytes outside it. -/
theorem hstore {g : GroupRef} (hs : s.Spares b g.hearth sp q) (cid : Nat) (c : Cmd) (attr ch : Nat) {p : PA} {bs : List Byte}
    (hp : p.space = sp → q < p.addr ∨ p.addr + bs.length ≤ q) : (s.hstore g cid c attr ch p bs).Spares b g.hearth sp q := by
  unfold State.hstore
  dsimp only
  split
  · split
    · exact hs.putLine _ _
    · split
      · exact (hs.l1Line _ _ _ _ _).putLine _ _
      · exact hs.storeBelow _ _ _ _ hp
  · refine State.Spares.storeBelow ?_ _ _ _ _ hp
    split
    · exact hs.putLine _ _
    · exact hs
  · exact (hs.touch _ _ _ _ _ _).wcPiece _ hp
  · exact (hs.touch _ _ _ _ _ _).memWrite _ hp
  · exact hs.storeBelow _ _ _ _ hp

end State.Spares

/-! ### The row -/

theorem State.countIssue_mem (s : State) (r : GroupRef) (c : Cmd) (f : Bool) : (s.countIssue r c f).mem = s.mem := rfl

theorem State.retireGroup_mem (s : State) (r : GroupRef) (g : Group) : (s.retireGroup r g).mem = s.mem := by
  unfold State.retireGroup
  have hdone : (s.stepDone g).mem = s.mem := by rw [(State.stepDone_cmdFrame s g).rest]
  exact hdone

/-- An issue whose body retires its group or lets it wait leaves memory as the body does. -/
theorem isaStep_cell {s : State} {r : GroupRef} {i : Issue} (h : s.issue? r = some i) {codes : List (Nat × Nat)} {body : Issue → Did}
    (hc : codes.contains (wCls i.w, wFunc i.w) = true) {b : Byte} {sp : Space} {q : Nat}
    (hb : ∃ u : State, ((∃ g, body i = .retire g u) ∨ body i = .wait u) ∧ u.cell sp q = b) : (s.isaStep r codes body).cell sp q = b := by
  obtain ⟨forced, e⟩ := isaStep_of_issue h (body := body) hc
  obtain ⟨u, ⟨g, hbody⟩ | hbody, hu⟩ := hb
  · rw [e, hbody]
    exact (State.cell_congr (State.retireGroup_mem ..) sp q).trans hu
  · rw [e, hbody]
    exact (State.cell_congr rfl sp q).trans hu

theorem Issue.conflict_wait (i : Issue) (s : State) (p : PA) :
    ∃ u : State, i.conflict s p = .wait u ∧ u.mem = s.mem ∧ u.hearths = s.hearths := by
  unfold Issue.conflict
  split
  · exact ⟨_, rfl, rfl, rfl⟩
  · refine ⟨_, rfl, ?_⟩
    unfold State.conflictWait
    dsimp only
    split <;> exact ⟨rfl, rfl⟩

/-- Settles O20: each store of a Hearth spares every byte outside it, in memory and in the combining buffer, and an ST is a run of such stores. -/
theorem storesReachMemoryOnlyAtTheirAddresses : Obligations.StoresReachMemoryOnlyAtTheirAddresses := by
  unfold Obligations.StoresReachMemoryOnlyAtTheirAddresses
  intro s t r i a sp q h his ha hbad hstep hguard hout hwc
  subst ha
  have hgone : ((i.accs true false (2 ^ wSize i.w) (wOffs i.w)).ok.findSome? fun x =>
      ((i.accs true false (2 ^ wSize i.w) (wOffs i.w)).st.guardedBy x.pa (2 ^ wSize i.w)).map fun tid => (tid, x.pa)) = none := by
    rw [List.findSome?_eq_none_iff]
    intro x hx
    rw [hguard x hx]
    rfl
  have hfault : (i.accs true false (2 ^ wSize i.w) (wOffs i.w)).fault = none := by
    unfold Accs.fault
    rw [hbad]
  have hstep : Host.Outcome.next _ = Host.Outcome.next t := hstep
  injection hstep with hstep
  rw [← hstep]
  refine isaStep_cell h his.contains ?_
  dsimp only [sizeBytes]
  rw [hfault, hgone]
  dsimp only
  split
  · obtain ⟨u, hu, hmem, -⟩ := i.conflict_wait i.s _
    exact ⟨u, .inr hu, State.cell_congr (hmem.trans (issue?_mem h)) sp q⟩
  · refine ⟨_, .inl ⟨_, rfl⟩, ?_⟩
    have hr : i.r = r := issue?_r h
    have hstart : ((i.accs true false (2 ^ wSize i.w) (wOffs i.w)).st.noWait i.r).Spares (s.cell sp q) i.r.hearth sp q := by
      refine ⟨State.cell_congr ((accs_mem ..).trans (issue?_mem h)) sp q, ?_⟩
      show ∀ e ∈ ((i.accs true false (2 ^ wSize i.w) (wOffs i.w)).st.hearth i.r.hearth).wc, e.Avoids sp q
      rw [Issue.accs_wc, issue?_wc h, hr]
      exact hwc
    refine (State.Spares.foldl (fun x hx u hu => ?_) hstart).cell
    refine hu.hstore _ _ _ _ fun hsp => ?_
    have hlen := i.length_storeBytes_le x.t
    have hx := hout x hx hsp
    omega

end Sys2Proof.Machine
end

section
/-!
PROOFS. LOOKUP (R233 to R238): its checks in the table's order, and the references that each bag sends.
-/
namespace Sys2Proof.Machine

@[simp] theorem State.addCount_serais (s : State) (tid cid k n : Nat) : (s.addCount tid cid k n).serais = s.serais := by
  unfold State.addCount
  split <;> rfl

@[simp] theorem State.addCount_mem (s : State) (tid cid k n : Nat) : (s.addCount tid cid k n).mem = s.mem := by
  unfold State.addCount
  split <;> rfl

@[simp] theorem State.addCount_depot (s : State) (tid cid k n : Nat) : (s.addCount tid cid k n).depot = s.depot := by
  unfold State.addCount
  split <;> rfl

@[simp] theorem State.addCount_hearths (s : State) (tid cid k n : Nat) : (s.addCount tid cid k n).hearths = s.hearths := by
  unfold State.addCount
  split <;> rfl

/-! ### Sending to several Serais -/

/-- References join the inputs of the Serais of a list. -/
def State.sendAll (s : State) (refs : Nat → List Ref) (qs : List Nat) : State :=
  qs.foldl (fun s q => s.mSerai q fun u => { u with inq := u.inq ++ refs q }) s

variable (s : State) (refs : Nat → List Ref)

theorem State.sendAll_inq_of_not_mem {qs : List Nat} {q : Nat} (h : q ∉ qs) : ((s.sendAll refs qs).serai q).inq = (s.serai q).inq := by
  induction qs generalizing s with
  | nil => rfl
  | cons k qs ih =>
    rw [List.mem_cons, not_or] at h
    refine (ih (s.mSerai k _) h.2).trans ?_
    rw [State.mSerai_of_ne _ _ h.1]

theorem State.sendAll_inq_of_mem {qs : List Nat} (hnd : qs.Nodup) {q : Nat} (h : q ∈ qs) :
    ((s.sendAll refs qs).serai q).inq = (s.serai q).inq ++ refs q := by
  induction qs generalizing s with
  | nil => cases h
  | cons k qs ih =>
    rw [List.nodup_cons] at hnd
    by_cases hk : q = k
    · subst hk
      refine (State.sendAll_inq_of_not_mem (s.mSerai q _) refs hnd.1).trans ?_
      rw [State.mSerai_self]
    · refine (ih (s.mSerai k _) hnd.2 ((List.mem_cons.mp h).resolve_left hk)).trans ?_
      rw [State.mSerai_of_ne _ _ hk]

/-- Sending changes the inputs of Serais alone. -/
theorem State.sendAll_rest (qs : List Nat) :
    s.sendAll refs qs = { s with serais := { s.serais with units := (s.sendAll refs qs).serais.units } } := by
  induction qs generalizing s with
  | nil => rfl
  | cons k qs ih => exact (ih (s.mSerai k _)).trans rfl

/-- What the Serais below 8 that have references get, whether they have any or not. -/
theorem State.sendAll_inq {q : Nat} (hq : q < 8) :
    ((s.sendAll refs ((List.range 8).filter fun q => !(refs q).isEmpty)).serai q).inq = (s.serai q).inq ++ refs q := by
  by_cases hempty : refs q = []
  · rw [State.sendAll_inq_of_not_mem, hempty, List.append_nil]
    simp [hempty]
  · refine State.sendAll_inq_of_mem s refs (List.nodup_range.filter _) ?_
    simp [hq, hempty]

/-! ### The references of a bag -/

/-- The pairs of a mapped range that go to one place, in order. -/
theorem filter_zip_range {α β γ : Type} (n : Nat) (f : Nat → α) (g : Nat → β) (p : α → Bool) (h : α → β → γ) :
    ((((List.range n).map f).zip ((List.range n).map g)).filter fun x => p x.1).map (fun x => h x.1 x.2) =
      ((List.range n).filter fun j => p (f j)).map fun j => h (f j) (g j) := by
  rw [List.zip_map', List.filter_map, List.map_map]
  rfl

theorem getD_map_range {α : Type} (n j : Nat) (f : Nat → α) (d : α) (h : j < n) : ((List.range n).map f).getD j d = f j := by
  simp [h]

/-- What one bag of a LOOKUP sends and records (R237, R238, R257). -/
theorem State.sendBag_spec (s : State) (cid b : Nat) (c : Cmd) (d : BagDesc) (t : Table) (rs : List Resolved) (w : Nat → Int) (dst : Nat → Nat)
    (ht : s.usable c d.table = some t)
    (hrs : rs = (List.range d.count).map fun j =>
      s.resolve t (leNat (((s.cmdRead cid c (c.arg 48 8 + 8 * d.off) (8 * d.count)).drop (8 * j)).take 8)))
    (hw : w = fun j => if d.pool = 2 then
      toS 16 (leNat (((s.cmdRead cid c (c.arg 56 8 + 2 * d.off) (2 * d.count)).drop (2 * j)).take 2)) else 0)
    (hdst : dst = fun j => match rs.getD j (.dflt 0) with | .row r _ => t.home r | .dflt _ => t.ownerOf rs) :
    ∃ info u refs, s.sendBag cid c false b d = (((State.sendAll u refs ((List.range 8).filter fun q => !(refs q).isEmpty)).mSerais fun x =>
        { x with bags := x.bags ++ [info] }).mCmd cid fun c => { c with bagsLeft := c.bagsLeft + 1 }) ∧
      (∀ q, refs q = ((List.range d.count).filter fun j => dst j == q).map fun j => refOf cid b d.table false (rs.getD j (.dflt 0)) (w j)) ∧
      (u.serais = s.serais ∧ u.mem = s.mem ∧ u.depot = s.depot ∧ u.hearths = s.hearths) ∧
      info.cid = cid ∧ info.bag = b ∧ info.table = d.table ∧ info.pool = d.pool ∧
      info.idCount = d.count ∧ info.owner = t.ownerOf rs ∧
      info.others = ((((List.range 8).filter fun q => !(refs q).isEmpty).filter (· != t.ownerOf rs))).length := by
  unfold State.sendBag
  rw [ht]
  dsimp only [fld]
  rw [← hrs]
  simp only [Bool.not_false, Bool.true_or, List.filter_true, Bool.false_eq_true, if_false]
  refine ⟨_, _, _, rfl, ?_, ⟨?_, ?_, ?_, ?_⟩, rfl, rfl, rfl, rfl, rfl, rfl, rfl⟩
  · intro q
    have hws : (if d.pool = 2 then (List.range d.count).map fun j =>
          toS 16 (leNat (((s.cmdRead cid c (c.arg 56 8 + 2 * d.off) (2 * d.count)).drop (2 * j)).take 2)) else List.replicate d.count 0) =
        (List.range d.count).map w := by
      rw [hw]
      split <;> simp_all [List.map_const']
    have hget (j : Nat) : t.serves (t.ownerOf rs) (rs.getD j (.dflt 0)) = dst j := by
      rw [hdst]
      dsimp only
      cases rs.getD j (.dflt 0) <;> rfl
    have hself : rs = (List.range d.count).map fun j => rs.getD j (.dflt 0) := by
      conv_lhs => rw [hrs]
      refine List.map_congr_left fun j hj => ?_
      rw [hrs, getD_map_range _ _ _ _ (List.mem_range.mp hj)]
    have hzip := filter_zip_range d.count (fun j => rs.getD j (.dflt 0)) w (fun r => t.serves (t.ownerOf rs) r == q)
      fun r v => refOf cid b d.table false r v
    rw [← hself] at hzip
    simp only [hget] at hzip
    rw [hws]
    exact hzip
  all_goals simp


theorem State.lookupFault_spec (s : State) (cid : Nat) (c : Cmd) :
    (lookupFmt c = false → s.lookupFault cid c false = some { code := 0xB01 }) ∧
    (lookupFmt c = true → ∀ da, s.lookupPoison cid c false = some da →
      s.lookupFault cid c false = some { code := 0x632, dkind := 2, detail := detDa da }) ∧
    (lookupFmt c = true → s.lookupPoison cid c false = none → (∃ d ∈ s.bagDescs cid c, s.bagOk c d = false) →
      s.lookupFault cid c false = some { code := 0xB01 }) ∧
    (lookupFmt c = true → s.lookupPoison cid c false = none → (∀ d ∈ s.bagDescs cid c, s.bagOk c d = true) →
      (∃ d ∈ s.bagDescs cid c, s.usable c d.table = none) → s.lookupFault cid c false = some { code := 0xB02 }) ∧
    (lookupFmt c = true → s.lookupPoison cid c false = none → (∀ d ∈ s.bagDescs cid c, s.bagOk c d = true) →
      (∀ d ∈ s.bagDescs cid c, s.usable c d.table ≠ none) → s.lookupFault cid c false = none) := by
  unfold State.lookupFault
  refine ⟨fun hf => ?_, fun hf da hp => ?_, fun hf hp hd => ?_, fun hf hp hok hd => ?_, fun hf hp hok hd => ?_⟩
  · simp [hf]
  · simp [hf, hp]
  · have hall : (s.bagDescs cid c).all (s.bagOk c) = false := by simpa using hd
    simp [hf, hp, hall]
  · have hall : (s.bagDescs cid c).all (s.bagOk c) = true := by simpa using hok
    have huse : ((s.bagDescs cid c).all fun d => (s.usable c d.table).isSome) = false := by simpa using hd
    simp [hf, hp, hall, huse]
  · have hall : (s.bagDescs cid c).all (s.bagOk c) = true := by simpa using hok
    have huse : ((s.bagDescs cid c).all fun d => (s.usable c d.table).isSome) = true := by
      simpa [Option.isSome_iff_ne_none] using hd
    simp [hf, hp, hall, huse]

theorem State.bagDescs_length (s : State) (cid : Nat) (c : Cmd) : (s.bagDescs cid c).length = lkBags c := by simp [State.bagDescs]

/-- Settles O38: LOOKUP's branches, the checks of R236 one by one, and `State.sendBag_spec`. -/
theorem lookupSendsItsReferences : Obligations.LookupSendsItsReferences := by
  unfold Obligations.LookupSendsItsReferences
  refine ⟨fun s cid c hready hord => ?_, fun s cid c => s.lookupFault_spec cid c, fun s u cid b c d t rs w dst ht hu hrs hw hdst => ?_⟩
  · refine ⟨fun r hr => ?_, fun hnone => ⟨_, _, _, ?_, rfl, rfl, rfl⟩⟩
    · show execLookup cid s = _
      unfold execLookup
      simp [hready, hord, hr]
    · show execLookup cid s = _
      unfold execLookup
      simp only [hready, hord, hnone, State.bagDescs_length]
      rfl
  · obtain ⟨info, u', refs, hsend, hrefs, ⟨hser, hmem, hdep, hhea⟩, hcid, hbag, htab, hpool, hcnt, hown, hoth⟩ :=
      s.sendBag_spec cid b c d t rs w dst ht hrs hw hdst
    rw [hu, hsend]
    refine ⟨fun q hq => ?_, ⟨info, ?_, hcid, hbag, htab, hpool, hcnt, hown, ?_⟩, ?_, ?_, ?_⟩
    · show ((u'.sendAll refs _).serai q).inq = _
      rw [State.sendAll_inq _ _ hq, hrefs q]
      exact congrArg (fun x : Serais => (mapGetD x.units q {}).inq ++ _) hser
    · show (u'.sendAll refs _).serais.bags ++ [info] = _
      rw [State.sendAll_rest, hser]
    · rw [hoth, List.filter_filter]
      congr 1
      refine List.filter_congr fun q _ => ?_
      rw [hrefs q, Bool.eq_iff_iff]
      simp [List.filter_eq_nil_iff]
    · show (u'.sendAll refs _).mem = _
      rw [State.sendAll_rest, hmem]
    · show (u'.sendAll refs _).depot = _
      rw [State.sendAll_rest, hdep]
    · show (u'.sendAll refs _).hearths = _
      rw [State.sendAll_rest, hhea]

end Sys2Proof.Machine
end

section
/-!
PROOFS. The Flue and the tile check (R443 to R468).
-/
namespace Sys2Proof.Machine

theorem mapSet_mapSet {α : Type} (m : Map α) (k : Nat) (v w : α) : mapSet (mapSet m k v) k w = mapSet m k w := by
  induction m with
  | nil => simp [mapSet]
  | cons x m ih =>
    obtain ⟨a, y⟩ := x
    simp only [mapSet]
    by_cases hlt : k < a
    · simp [hlt, mapSet]
    · by_cases heq : k = a
      · simp [heq, mapSet]
      · simp [hlt, heq, mapSet, ih]

theorem mapMod_mapMod {α : Type} (m : Map α) (k : Nat) (d : α) (f g : α → α) :
    mapMod (mapMod m k d f) k d g = mapMod m k d fun x => g (f x) := by
  unfold mapMod
  rw [mapSet_mapSet, mapGetD_mapSet_self]

theorem State.mHearth_mHearth (s : State) (h : Nat) (f g : Hearth → Hearth) : (s.mHearth h f).mHearth h g = s.mHearth h fun u => g (f u) := by
  unfold State.mHearth State.mHearths
  simp only [mapMod_mapMod]

/-- A change of a Hearth depends on what it makes of that Hearth alone. -/
theorem State.mHearth_congr (s : State) (h : Nat) {f g : Hearth → Hearth} (hfg : f (s.hearth h) = g (s.hearth h)) :
    s.mHearth h f = s.mHearth h g := by
  unfold State.mHearth State.mHearths mapMod
  dsimp only
  unfold State.hearth at hfg
  rw [hfg]

theorem gratesOf_nodup (m : BitVec 4) : (gratesOf m).Nodup := List.nodup_range.filter _

/-! ### FLUE_STREAM_START -/

/-- What taking the weights of Grates ks leaves of a state: one operation of the Flue, at its place, has weights and runs noted. -/
structure State.TakesAt (s : State) (h idx : Nat) (o : FlueOp) (ks : List Nat) (t : State) : Prop where
  flue : ∃ x, (t.hearth h).flue = (s.hearth h).flue.set idx x ∧
    x = { o with streaming := true, wts := x.wts, tried := x.tried, runs := x.runs } ∧ x.wts.length = 4 ∧
    ∀ n ∈ ks, ((s.hearth h).grates.getD n {}).loadReg ≠ [] → x.wts.getD n [] = ((s.hearth h).grates.getD n {}).loadReg
  grates : (t.hearth h).grates = (s.hearth h).grates
  others : ∀ n, n ≠ h → t.hearth n = s.hearth n
  rest : t = { s with hearths := { s.hearths with logical := t.hearths.logical, freeCount := t.hearths.freeCount } }

/-- An operation that has taken the weights w of Grate k, to run first on the Grate that t encodes (R446, R459). -/
def FlueOp.taking (o : FlueOp) (k : Nat) (w : List (BitVec 32)) (t : Nat) : FlueOp :=
  { o with wts := o.wts.set k w, tried := t :: o.tried, runs := setNth o.runs k 1 }

/-- Taking one Grate's weights changes its Hearth's operation, after free values are drawn if nothing loaded them. -/
theorem State.takeWeights_eq (s : State) (h idx k : Nat) : ∃ (n : Nat) (d : BitVec 32) (w : List (BitVec 32)) (p : Nat),
    s.takeWeights h idx k = (s.tookFree n).mHearth h (fun u =>
      { u with degradedSlots := u.degradedSlots + d, flue := u.flue.set idx ((u.flue.getD idx {}).taking k w p) }) ∧
    (((s.hearth h).grates.getD k {}).loadReg ≠ [] → w = ((s.hearth h).grates.getD k {}).loadReg) := by
  have hslots (t : State) (w : List (BitVec 32)) (p : Nat) (hp : Prop) [Decidable hp] : ∃ d : BitVec 32,
      (if hp then t else t.mHearth h fun u => { u with degradedSlots := u.degradedSlots + 1 }).mFlue h idx (fun o => o.taking k w p) =
        t.mHearth h fun u => { u with degradedSlots := u.degradedSlots + d, flue := u.flue.set idx ((u.flue.getD idx {}).taking k w p) } := by
    unfold State.mFlue
    split
    · exact ⟨0, State.mHearth_congr _ _ (by simp)⟩
    · exact ⟨1, State.mHearth_mHearth ..⟩
  unfold State.takeWeights
  dsimp only
  by_cases hl : ((s.hearth h).grates.getD k {}).loadReg = []
  · obtain ⟨d, hd⟩ := hslots (s.tookFree 1024) (s.freeList 1024 (if ((s.hearth h).flue.getD idx {}).f32 then 32 else 16))
      (4 * k + (s.servedBy h k).getD k) ((s.servedBy h k).getD k = k)
    refine ⟨1024, d, s.freeList 1024 (if ((s.hearth h).flue.getD idx {}).f32 then 32 else 16), 4 * k + (s.servedBy h k).getD k, ?_,
      fun hne => absurd hl hne⟩
    rw [← hd, hl]
    rfl
  · obtain ⟨d, hd⟩ := hslots s ((s.hearth h).grates.getD k {}).loadReg (4 * k + (s.servedBy h k).getD k) ((s.servedBy h k).getD k = k)
    have he : ((s.hearth h).grates.getD k {}).loadReg.isEmpty = false := by simpa using hl
    refine ⟨0, d, ((s.hearth h).grates.getD k {}).loadReg, 4 * k + (s.servedBy h k).getD k, ?_, fun _ => rfl⟩
    rw [he]
    exact hd

theorem State.TakesAt.takeWeights {s t : State} {h idx : Nat} {o : FlueOp} {ks : List Nat} (ht : s.TakesAt h idx o ks t) {k : Nat} (hk : k < 4)
    (hidx : idx < (s.hearth h).flue.length) : s.TakesAt h idx o (k :: ks) (t.takeWeights h idx k) := by
  obtain ⟨x, hflue, hx, hlen, htaken⟩ := ht.flue
  obtain ⟨n, d, w, p, heq, hw⟩ := t.takeWeights_eq h idx k
  have hget : (t.hearth h).flue.getD idx {} = x := by simp [hflue, hidx]
  have hself : (t.tookFree n).hearth h = t.hearth h := rfl
  rw [heq]
  refine ⟨⟨x.taking k w p, ?_, ?_, ?_, ?_⟩, ?_, fun m hm => ?_, ?_⟩
  · rw [State.mHearth_self, hself]
    dsimp only
    rw [hget, hflue, List.set_set]
  · unfold FlueOp.taking
    rw [hx]
  · simp [FlueOp.taking, hlen]
  · intro m hm hne
    by_cases hmk : m = k
    · subst hmk
      rw [ht.grates] at hw
      simp [FlueOp.taking, hlen, hk, hw hne]
    · have := htaken m ((List.mem_cons.mp hm).resolve_left hmk) hne
      simpa [FlueOp.taking, List.getD_eq_getElem?_getD, List.getElem?_set_ne (Ne.symm hmk)] using this
  · rw [State.mHearth_self, hself]
    exact ht.grates
  · rw [State.mHearth_of_ne _ _ hm]
    exact ht.others m hm
  · rw [ht.rest]
    rfl

theorem State.TakesAt.foldl {s t : State} {h idx : Nat} {o : FlueOp} {ks : List Nat} (ht : s.TakesAt h idx o ks t)
    (hidx : idx < (s.hearth h).flue.length) {l : List Nat} (hl : ∀ k ∈ l, k < 4) :
    ∃ all, (∀ k, k ∈ all ↔ k ∈ ks ∨ k ∈ l) ∧ s.TakesAt h idx o all (l.foldl (fun s k => s.takeWeights h idx k) t) := by
  induction l generalizing t ks with
  | nil => exact ⟨ks, by simp, ht⟩
  | cons k l ih =>
    obtain ⟨all, hall, htake⟩ := ih (ht.takeWeights (hl k List.mem_cons_self) hidx) fun x hx => hl x (List.mem_cons_of_mem _ hx)
    refine ⟨all, fun j => ?_, htake⟩
    rw [hall, List.mem_cons, List.mem_cons]
    tauto

/-- A FLUE that starts streaming has taken no weights yet. -/
theorem State.takesAt_start (s : State) (h idx : Nat) {o : FlueOp} (ho : o = (s.hearth h).flue.getD idx {}) :
    s.TakesAt h idx o [] (s.mFlue h idx fun o => { o with streaming := true, wts := [[], [], [], []] }) where
  flue := by
    refine ⟨{ o with streaming := true, wts := [[], [], [], []] }, ?_, rfl, rfl, fun _ h => nomatch h⟩
    unfold State.mFlue
    rw [State.mHearth_self, ho]
  grates := by
    unfold State.mFlue
    rw [State.mHearth_self]
  others n hn := State.mHearth_of_ne _ _ hn
  rest := rfl

/-! ### TILE_CHECK -/

/-- A Hearth whose Grate k holds the product and whose Flue has noted it (R443). -/
def Hearth.applied (u : Hearth) (idx k : Nat) (o : FlueOp) (acc : List Nat) : Hearth :=
  { u with
    grates := u.grates.set k { u.grates.getD k {} with acc := acc.map (BitVec.ofNat 32) }
    tiles := u.tiles + 1
    flue := if o.mask &&& ~~~(o.doneG ||| BitVec.ofNat 4 (2 ^ k)) = 0 then u.flue.eraseIdx idx
      else u.flue.set idx { o with doneG := o.doneG ||| BitVec.ofNat 4 (2 ^ k) } }

theorem and_beq_self_iff (a b : BitVec 4) : (b &&& a == a) = decide (a &&& ~~~b = 0) := by
  rw [Bool.eq_iff_iff]
  simp only [beq_iff_eq, decide_eq_true_eq]
  revert a b
  decide

theorem State.applyTile_eq (s : State) (h idx k : Nat) (o : FlueOp) (prod acc : List Nat)
    (hacc : o.accum = false ∧ acc = prod ∨ o.accum = true ∧ ((s.hearth h).grates.getD k {}).acc ≠ [] ∧
      acc = (((s.hearth h).grates.getD k {}).acc.map (·.toNat)).zipWith (fun c p => (fadd 0 rne c p).1) prod) :
    ∃ v, s.applyTile h idx k o prod =
      { s.mHearth h fun u => u.applied idx k o acc with chm := { s.chm with val := v } } := by
  have hjoin : (s.mHearth h fun u => { (u.mGrate k fun x => { x with acc := acc.map (BitVec.ofNat 32) }) with tiles := u.tiles + 1 }).mHearth h
      (fun u => { u with
        flue := if (o.doneG ||| BitVec.ofNat 4 (2 ^ k)) &&& o.mask == o.mask then u.flue.eraseIdx idx
          else u.flue.set idx { o with doneG := o.doneG ||| BitVec.ofNat 4 (2 ^ k) } }) = s.mHearth h fun u => u.applied idx k o acc := by
    rw [State.mHearth_mHearth]
    refine State.mHearth_congr _ _ ?_
    rw [and_beq_self_iff]
    simp [Hearth.applied, Hearth.mGrate]
  have hnew : (if o.accum then s.accOf h k else ([], s)).2 = s ∧
      (if o.accum then ((if o.accum then s.accOf h k else ([], s)).1.map (·.toNat)).zipWith (fun c p => (fadd 0 rne c p).1) prod
        else prod) = acc := by
    obtain ⟨hno, hprod⟩ | ⟨hyes, hne, hsum⟩ := hacc
    · simp [hno, hprod]
    · have he : ((s.hearth h).grates.getD k {}).acc.isEmpty = false := by simpa using hne
      simp only [hyes, State.accOf, he, hsum, Bool.false_eq_true, if_false, if_true, and_self]
  unfold State.applyTile
  dsimp only
  rw [hnew.1, hnew.2]
  split
  · next c _ =>
    exact ⟨(s.count 2 h (some c.ctx) c.cls 1).chm.val,
      congrArg (fun t : State => { t with chm := { t.chm with val := (s.count 2 h (some c.ctx) c.cls 1).chm.val } }) hjoin⟩
  · exact ⟨s.chm.val, hjoin⟩

/-- A tile that passes (R443). -/
theorem State.applyTile_spec (s : State) (h idx k : Nat) (o : FlueOp) (prod acc : List Nat) (n : BitVec 32) {x : Grate}
    (hx : x = (s.hearth h).grates.getD k {})
    (hacc : o.accum = false ∧ acc = prod ∨
      o.accum = true ∧ x.acc ≠ [] ∧ acc = (x.acc.map (·.toNat)).zipWith (fun c p => (fadd 0 rne c p).1) prod) :
    ∃ t, (s.mHearth h fun u => { u with unchecked := u.unchecked + n }).applyTile h idx k o prod = t ∧
      t.hearth h = { s.hearth h with
        tiles := (s.hearth h).tiles + 1, grates := (s.hearth h).grates.set k { x with acc := acc.map (BitVec.ofNat 32) }
        unchecked := (s.hearth h).unchecked + n
        flue := if o.mask &&& ~~~(o.doneG ||| BitVec.ofNat 4 (2 ^ k)) = 0 then (s.hearth h).flue.eraseIdx idx
          else (s.hearth h).flue.set idx { o with doneG := o.doneG ||| BitVec.ofNat 4 (2 ^ k) } } ∧
      (∀ n, n ≠ h → t.hearth n = s.hearth n) ∧
      t = { s with hearths := { s.hearths with logical := t.hearths.logical }, chm := { s.chm with val := t.chm.val } } := by
  subst hx
  obtain ⟨v, hv⟩ := State.applyTile_eq (s.mHearth h fun u => { u with unchecked := u.unchecked + n }) h idx k o prod acc
    (by rw [State.mHearth_self]; exact hacc)
  refine ⟨_, hv, ?_, fun m hm => ?_, rfl⟩
  · show ((State.mHearth _ h _).mHearth h _).hearth h = _
    rw [State.mHearth_self, State.mHearth_self]
    rfl
  · show ((State.mHearth _ h _).mHearth h _).hearth m = _
    rw [State.mHearth_of_ne _ _ hm, State.mHearth_of_ne _ _ hm]

/-- A first strike against a physical Grate (R461). -/
theorem State.grateStrike_first (s : State) (h p row runs : Nat) (o : FlueOp)
    (hfirst : mapGet (s.phys (s.hearth h).phys).strikes p = none) :
    s.grateStrike h p row runs o = ((s.mHearth h fun u => { u with mismatch := u.mismatch + 1 }).raise
      { code := 0x501, cmdId := ((s.cmd? o.cid).map (·.cmdId)).getD 0, detail := detGrate h (s.hearth h).phys p row runs }).mPhys (s.hearth h).phys
      fun x => { x with strikes := mapSet x.strikes p s.time } := by
  unfold State.grateStrike
  dsimp only
  generalize hr : (s.mHearth h fun u => { u with mismatch := u.mismatch + 1 }).raise _ = r
  have hframe := State.raise_frame (s.mHearth h fun u => { u with mismatch := u.mismatch + 1 })
    { code := 0x501, cmdId := (((s.mHearth h fun u => { u with mismatch := u.mismatch + 1 }).cmd? o.cid).map (·.cmdId)).getD 0
      detail := detGrate h (s.hearth h).phys p row runs }
  rw [hr] at hframe
  have hstrikes : mapGet (r.phys (s.hearth h).phys).strikes p = none := by
    rw [hframe]
    exact hfirst
  have htime : r.time = s.time := by rw [hframe]; rfl
  rw [hstrikes]
  dsimp only
  rw [htime, ← hr]
  rfl

/-- The operation at a place of the Flue, after it was put there. -/
theorem getD_set_self {l : List FlueOp} {idx : Nat} (h : idx < l.length) (o : FlueOp) : (l.set idx o).getD idx {} = o := by
  simp [h]

/-- Raising a fault and striking a physical Grate leaves the Grates that serve. -/
theorem State.grateUp_congr {s t : State} {h : Nat} (hh : (t.hearth h).phys = (s.hearth h).phys)
    (hp : (t.phys (s.hearth h).phys).grRetired = (s.phys (s.hearth h).phys).grRetired) (p : Nat) : t.grateUp h p = s.grateUp h p := by
  unfold State.grateUp
  rw [hh, hp]

theorem State.partner_congr {s t : State} {h : Nat} (hup : ∀ p, t.grateUp h p = s.grateUp h p) (k : Nat) {o o' : FlueOp}
    (ho : o'.tried = o.tried) : t.partner h k o' = s.partner h k o := by
  unfold State.partner FlueOp.runner
  simp only [ho, hup]

/-- A failing row on a Grate without a strike, in a tile that has a run left and a partner (R459, R461). -/
theorem State.tileCheck_strike {s : State} {h idx k : Nat} {o o' : FlueOp} {row : Nat} (hidx : idx < (s.hearth h).flue.length)
    (ho : o = (s.hearth h).flue.getD idx {}) (hfirst : mapGet (s.phys (s.hearth h).phys).strikes (o.runner k) = none)
    (ho' : o' = { o with failedG := o.failedG ++ [k] }) (hpart : s.partner h k o ≠ none) :
    ∃ t, t = ((s.mHearth h fun u => { u with flue := u.flue.set idx o', mismatch := u.mismatch + 1 }).raise
        { code := 0x501, cmdId := ((s.cmd? o.cid).map (·.cmdId)).getD 0,
          detail := detGrate h (s.hearth h).phys (o.runner k) row (nth o.runs k) }).mPhys (s.hearth h).phys
          (fun x => { x with strikes := mapSet x.strikes (o.runner k) s.time }) ∧
      (s.mFlue h idx fun o => { o with failedG := o.failedG ++ [k] }).grateStrike h (o.runner k) row (nth o.runs k) o = t ∧
      t.partner h k ((t.hearth h).flue.getD idx {}) ≠ none := by
  have hflue : s.mFlue h idx (fun o => { o with failedG := o.failedG ++ [k] }) = s.mHearth h fun u => { u with flue := u.flue.set idx o' } :=
    State.mHearth_congr _ _ (by rw [ho', ho])
  have hph : ((s.mHearth h fun u => { u with flue := u.flue.set idx o' }).hearth h).phys = (s.hearth h).phys := by rw [State.mHearth_self]
  refine ⟨_, rfl, ?_, ?_⟩
  · rw [hflue, State.grateStrike_first _ _ _ _ _ _ (by rw [hph]; exact hfirst), State.mHearth_mHearth, hph]
    rfl
  · generalize hr : (s.mHearth h fun u => { u with flue := u.flue.set idx o', mismatch := u.mismatch + 1 }).raise _ = r
    have hhearths : r.hearths = (s.mHearth h fun u => { u with flue := u.flue.set idx o', mismatch := u.mismatch + 1 }).hearths := by
      rw [← hr, State.raise_hearths]
    have hself : (r.mPhys (s.hearth h).phys fun x => { x with strikes := mapSet x.strikes (o.runner k) s.time }).hearth h =
        { s.hearth h with flue := (s.hearth h).flue.set idx o', mismatch := (s.hearth h).mismatch + 1 } :=
      (State.hearth_congr (t := r) hhearths h).trans (State.mHearth_self ..)
    have hphys : ((r.mPhys (s.hearth h).phys fun x => { x with strikes := mapSet x.strikes (o.runner k) s.time }).phys
        (s.hearth h).phys).grRetired = (s.phys (s.hearth h).phys).grRetired := by
      unfold State.phys State.mPhys
      rw [State.mHearths_hearths, mapGetD_mapMod_self, hhearths]
      rfl
    rw [hself]
    dsimp only
    rw [getD_set_self hidx, State.partner_congr (State.grateUp_congr (by rw [hself]) hphys) k (by rw [ho'])]
    exact hpart

theorem find?_flue_start {l : List FlueOp} {idx : Nat} (hidx : idx < l.length) (hnot : (l.getD idx {}).streaming = false)
    (hbefore : ∀ n < idx, (l.getD n {}).streaming = true) :
    ((List.range l.length).find? fun n => !(l.getD n {}).streaming) = some idx := by
  rw [List.find?_range_eq_some]
  refine ⟨by rw [hnot]; rfl, List.mem_range.mpr hidx, fun j hj => ?_⟩
  rw [hbefore j hj]
  rfl

/-- The oldest FLUE that has not begun, when no tile waits for a re-run and the replay buffer has room (R448 to R450). -/
theorem execFlueStreamStart_begin {s : State} {h idx : Nat} {o : FlueOp} (hlive : s.live = true) (hidx : idx < (s.hearth h).flue.length)
    (ho : o = (s.hearth h).flue.getD idx {}) (hnot : o.streaming = false) (hbefore : ∀ n < idx, ((s.hearth h).flue.getD n {}).streaming = true)
    (hrerun : ∀ x ∈ (s.hearth h).flue, x.failedG = []) (hroom : ((s.hearth h).flue.filter (·.streaming)).length < 8) :
    execFlueStreamStart h s = if (gratesOf o.mask).any fun k => (s.servedBy h k).isNone then .next (s.unverifiable h o 0 0 0)
      else .next ((gratesOf o.mask).foldl (fun s k => s.takeWeights h idx k)
        (s.mFlue h idx fun o => { o with streaming := true, wts := [[], [], [], []] })) := by
  unfold execFlueStreamStart
  dsimp only
  rw [hlive, find?_flue_start hidx (ho ▸ hnot) hbefore]
  dsimp only
  rw [← ho, if_neg (by simpa [hroom] using hrerun)]

theorem State.unverifiable_of_cmd {s : State} (h : Nat) {o : FlueOp} (p row runs : Nat) {c : Cmd} (hc : s.cmd? o.cid = some c) :
    s.unverifiable h o p row runs = (s.mHearth h fun u => { u with unverifiable := u.unverifiable + 1 }).tearCmd c
      { code := 0x503, detail := detGrate h (s.hearth h).phys p row runs } := by
  have hcmd : (s.mHearth h fun u => { u with unverifiable := u.unverifiable + 1 }).cmd? o.cid = some c := hc
  unfold State.unverifiable
  dsimp only
  rw [hcmd]
  dsimp only
  rw [State.mHearth_self]

/-- A tile whose check ends (R453). -/
theorem execTileCheck_begin {s : State} {h idx k : Nat} {o : FlueOp} (hlive : s.live = true) (hidx : idx < (s.hearth h).flue.length)
    (ho : o = (s.hearth h).flue.getD idx {}) (hstr : o.streaming = true) (hmask : o.mask.getLsbD k = true) (hdone : o.doneG.getLsbD k = false)
    (hfail : k ∉ o.failedG) : (!s.live || decide ((s.hearth h).flue.length ≤ idx) || !((s.hearth h).flue.getD idx {}).streaming ||
      !((s.hearth h).flue.getD idx {}).mask.getLsbD k || ((s.hearth h).flue.getD idx {}).doneG.getLsbD k ||
      ((s.hearth h).flue.getD idx {}).failedG.contains k) = false := by
  rw [← ho]
  simp [hlive, hstr, hmask, hdone, hfail, hidx]

/-- Settles O28: `State.takeWeights` Grate by Grate, `State.applyTile_spec` and `State.tileCheck_strike`, with the branches of each row. -/
theorem flueAndTileCheck : Obligations.FlueAndTileCheck := by
  unfold Obligations.FlueAndTileCheck
  intro s h idx k o hlive hidx ho
  refine ⟨fun hnot hbefore hrerun hroom => ⟨fun hserved => ?_, fun hbad c hc => ?_⟩, fun hk hkg hstr hmask hdone hfail ops prod hops hprod =>
    ⟨fun x acc hx hacc hearlier => ?_, fun row p q o' hrow hun hp hq hfirst hruns ho' hpart => ?_⟩,
    fun hfail p hp => ?_, ?_, fun r g c hb hg hc => ?_⟩
  · have hlist (x : Nat) (hx : x ∈ gratesOf o.mask) : x < 4 ∧ o.mask.getLsbD x = true :=
      ⟨BitVec.lt_of_getLsbD (mem_gratesOf.mp hx), mem_gratesOf.mp hx⟩
    obtain ⟨all, hall, htake⟩ := (s.takesAt_start h idx ho).foldl hidx fun x hx => (hlist x hx).1
    obtain ⟨x, hflue, hx, -, htaken⟩ := htake.flue
    refine ⟨_, x, ?_, hflue, htake.grates, hx, fun n hn hb => htaken n ((hall n).mpr (.inr (mem_gratesOf.mpr hb))), htake.others, htake.rest⟩
    have hnone : ((gratesOf o.mask).any fun k => (s.servedBy h k).isNone) = false := by
      rw [List.any_eq_false]
      intro x hx
      have := hserved x (hlist x hx).1 (hlist x hx).2
      simpa [Option.isNone_iff_eq_none] using this
    refine (execFlueStreamStart_begin hlive hidx ho hnot hbefore hrerun hroom).trans ?_
    rw [hnone]
    rfl
  · have hsome : ((gratesOf o.mask).any fun k => (s.servedBy h k).isNone) = true := by
      obtain ⟨n, hn, hb, hnone⟩ := hbad
      exact List.any_eq_true.mpr ⟨n, mem_gratesOf.mpr hb, by rw [hnone]; rfl⟩
    refine (execFlueStreamStart_begin hlive hidx ho hnot hbefore hrerun hroom).trans ?_
    rw [hsome, State.unverifiable_of_cmd h 0 0 0 hc]
    rfl
  · obtain ⟨t, ht, hself, hothers, hrest⟩ := s.applyTile_spec h idx k o prod acc
      (BitVec.ofNat 32 ((List.range 32).filter (rowUnchecked ops.1 ops.2 prod)).length) hx hacc
    refine ⟨t, ?_, hself, hothers, hrest⟩
    have hord : (((s.hearth h).flue.take idx).any fun x => x.mask.getLsbD k && !x.doneG.getLsbD k) = false := by
      refine List.any_eq_false.mpr fun x hx => ?_
      obtain ⟨n, hn, rfl⟩ := List.mem_take_iff_getElem.mp hx
      have hlt : n < (s.hearth h).flue.length := by omega
      have := hearlier n (by omega)
      rw [List.getD_eq_getElem _ _ hlt] at this
      simpa using this
    show execTileCheck h idx k none s = _
    unfold execTileCheck
    dsimp only
    rw [execTileCheck_begin hlive hidx ho hstr hmask hdone hfail, ← ho, hord]
    simp only [Bool.false_eq_true, if_false]
    rw [← hops, ← hprod, ht]
  · subst hp hq
    obtain ⟨t, ht, hstrike, hp⟩ := State.tileCheck_strike (row := row) hidx ho hfirst ho' hpart
    rw [← ht]
    show execTileCheck h idx k (some row) s = _
    unfold execTileCheck
    dsimp only
    rw [execTileCheck_begin hlive hidx ho hstr hmask hdone hfail, ← ho]
    simp only [Bool.false_eq_true, if_false]
    rw [← hops, ← hprod, hstrike, if_neg, if_neg]
    · simp only [not_or, not_le]
      exact ⟨hruns, by simpa [Option.isNone_iff_eq_none] using hp⟩
    · simp [hrow, hun]
  · show execGrateRerun h idx k s = _
    unfold execGrateRerun
    have hpart : s.partner h k ((s.hearth h).flue.getD idx {}) = some p := ho ▸ hp
    have hin : ((s.hearth h).flue.getD idx {}).failedG.contains k = true := by
      rw [← ho]
      simpa using hfail
    dsimp only
    rw [hpart, hlive, hin]
    simp only [State.mFlue, State.mHearth_mHearth, ho]
    rfl
  · show execGrateStateEccError h k true s = _
    unfold execGrateStateEccError
    simp [hlive]
  · show execGrateStateEccError h k false s = _
    unfold execGrateStateEccError
    rw [hlive, hb]
    simp only [Option.bind_some, hg, hc]
    rfl

end Sys2Proof.Machine
end

section
/-!
PROOFS. The Trivet's instructions (R429, R474 to R483).
-/
namespace Sys2Proof.Machine

/-- Element e of a tile is element (e / 32, e % 32). -/
theorem eq_map_range_of_tile {α : Type} {l : List α} {d : α} {f : Nat → Nat → α} (hlen : l.length = 1024)
    (h : ∀ m < 32, ∀ n < 32, l.getD (32 * m + n) d = f m n) : l = (List.range 1024).map fun e => f (e / 32) (e % 32) := by
  refine List.ext_getElem (by simp [hlen]) fun e he he' => ?_
  have hlt : e < 1024 := by omega
  rw [List.getElem_map, List.getElem_range, ← h (e / 32) (by omega) (e % 32) (by omega), Nat.div_add_mod, List.getD_eq_getElem _ _ he]

/-- An instruction of the Trivet joins its tile to the Trivet's order and retires, a stepped group holding until its tile is written. -/
theorem trivetOp_spec {s : State} {r : GroupRef} {i : Issue} (h : s.issue? r = some i) {func : Nat} {c : Instr} {f : Nat → Nat → Nat × Nat}
    (he : exec c s = .next (s.trivetOp r func f)) (hi : i.is 11 func) {els : List (Nat × Nat)} {u : State}
    (hels : ∀ m < 32, ∀ n < 32, els.getD (32 * m + n) (0, 0) = f (i.g.tileAt (wVd i.w) 1 m n) (i.g.auxAt i.w m n)) (hlen : els.length = 1024)
    (hu : u = i.s.mHearth r.hearth fun h => { h with trv := h.trv ++ [{
      grp := r, cid := i.g.cid, vbase := wVd i.w, res := els.map fun x => BitVec.ofNat 16 x.1
      flags := BitVec.ofNat 7 (orAll (els.map (·.2)) &&& (flNV ||| flOF ||| flUF ||| flNX)) }] }) :
    (i.g.stepping = false → ∃ t, exec c s = .next t ∧ i.Retired u { i.g with progressAt := s.time } t) ∧
    (i.g.stepping = true → ∃ t, exec c s = .next t ∧ i.Held u { i.g with progressAt := s.time } t) := by
  have hr : i.r = r := issue?_r h
  have htime : i.s.time = s.time := by rw [(issue?_frame h).rest]
  rw [eq_map_range_of_tile hlen hels] at hu
  subst hu
  refine ⟨fun hst => ⟨_, he, isaStep_retires h hi.contains ?_ rfl⟩, fun hst => ⟨_, he, isaStep_holds h hi.contains ?_ rfl⟩⟩
  · dsimp only
    rw [if_neg (by rw [hst]; decide), hr, ← htime]
    rfl
  · dsimp only
    rw [if_pos hst, hr, ← htime]
    rfl

theorem State.mGroup_group?_self (s : State) (r : GroupRef) (f : Group → Group) : (s.mGroup r f).group? r = (s.group? r).map f :=
  mapGet_mapAdj_self ..

theorem State.mGroup_groups_of_ne (s : State) {r : GroupRef} (f : Group → Group) {k : Nat} (h : k ≠ gkey r) :
    mapGet (s.mGroup r f).hearths.groups k = mapGet s.hearths.groups k := mapGet_mapAdj_of_ne _ _ h

/-- A tile that passes the lanes (R476 to R481). -/
theorem trivetTileStart_spec {s : State} {h b : Nat} {o : TrvOp} (hlive : s.live = true) (ho : s.trvHead h b = some o) {g : Group}
    (hg : s.group? o.grp = some g) (hst : g.stepping = false) : ∃ t, exec (.trivetTileStart h b) s = .next t ∧
      t.hearth h = { s.hearth h with trv := (s.hearth h).trv.erase o, trvTiles := (s.hearth h).trvTiles + 1 } ∧
      t.group? o.grp = some ((g.putTile o.vbase 1 (o.res.map BitVec.toNat)).orFlags o.flags.toNat) ∧
      (∀ k, k ≠ gkey o.grp → mapGet t.hearths.groups k = mapGet s.hearths.groups k) ∧
      (∀ k, k ≠ h → t.hearth k = s.hearth k) ∧
      t = { s with
        hearths := { s.hearths with logical := t.hearths.logical, groups := t.hearths.groups }
        chm := { s.chm with val := t.chm.val } } := by
  obtain ⟨v, hv⟩ : ∃ v, exec (.trivetTileStart h b) s = .next (({ s with chm := { s.chm with val := v } }.mHearth h fun u =>
      { u with trv := u.trv.erase o, trvTiles := u.trvTiles + 1 }).mGroup o.grp fun _ =>
        (g.putTile o.vbase 1 (o.res.map BitVec.toNat)).orFlags o.flags.toNat) := by
    show ∃ v, execTrivetTileStart h b s = _
    unfold execTrivetTileStart
    rw [hlive, ho]
    dsimp only
    have hgroup (t : State) (ht : t.hearths.groups = s.hearths.groups) : t.group? o.grp = some g := by
      unfold State.group?
      rw [ht]
      exact hg
    cases hc : s.cmd? o.cid with
    | none =>
      have hc' : (s.mHearth h fun u => { u with trv := u.trv.erase o, trvTiles := u.trvTiles + 1 }).cmd? o.cid = none := hc
      refine ⟨s.chm.val, ?_⟩
      rw [hc']
      dsimp only
      rw [hgroup (s.mHearth h _) rfl]
      simp only [hst, Bool.false_eq_true, if_false]
    | some c =>
      have hc' : (s.mHearth h fun u => { u with trv := u.trv.erase o, trvTiles := u.trvTiles + 1 }).cmd? o.cid = some c := hc
      refine ⟨(s.count 3 h (some c.ctx) c.cls 1).chm.val, ?_⟩
      rw [hc']
      dsimp only
      rw [hgroup ((s.mHearth h _).count ..) rfl]
      simp only [hst, Bool.false_eq_true, if_false]
      rfl
  refine ⟨_, hv, ?_, ?_, fun k hk => ?_, fun k hk => ?_, rfl⟩
  · rw [State.mGroup_hearth, State.mHearth_self]
    rfl
  · rw [State.mGroup_group?_self]
    exact congrArg (Option.map _) hg
  · exact State.mGroup_groups_of_ne _ _ hk
  · rw [State.mGroup_hearth, State.mHearth_of_ne _ _ hk]
    rfl

/-- Settles O29: `trivetOp_spec` for the seven instructions, `trivetTileStart_spec`, and the branch of TRIVET_PARITY_ERROR. -/
theorem trivetInstructions : Obligations.TrivetInstructions := by
  unfold Obligations.TrivetInstructions
  refine ⟨fun s r i h e he hi els u hels hlen hu => ?_,
    fun s h b o hlive ho => ⟨fun g hg hst => trivetTileStart_spec hlive ho hg hst, fun c hc => ?_⟩⟩
  · simp only [List.mem_cons, List.not_mem_nil, or_false] at he
    rcases he with rfl | rfl | rfl | rfl | rfl | rfl | rfl
    all_goals exact trivetOp_spec h rfl hi hels hlen hu
  · show execTrivetParityError h b s = _
    unfold execTrivetParityError
    rw [hlive, ho]
    have hc' : (s.mHearth h fun u => { u with trv := u.trv.erase o, trvParity := u.trvParity + 1 }).cmd? o.cid = some c := hc
    simp only [hc']

end Sys2Proof.Machine
end

section
/-!
PROOFS. The debug commands (R368 to R377).
-/
namespace Sys2Proof.Machine

/-- What a debug command makes of the groups it names, group by group. -/
theorem mapGet_mDebugGroups (s : State) (c : Cmd) (p : Group → Bool) (f : Group → Group) (k : Nat) :
    mapGet (s.mDebugGroups c p f).hearths.groups k = (mapGet s.hearths.groups k).map fun g => if s.debugNamed c g && p g then f g else g := by
  rw [← mapGet_map]
  unfold State.mDebugGroups
  rw [State.mHearths_hearths]
  dsimp only
  congr 1
  refine List.map_congr_left fun x _ => ?_
  split <;> rfl

/-- Noting unplaced groups changes the Launches only. -/
theorem State.noteHalts_frame (s : State) (c : Cmd) (p : Nat × Cmd) :
    ∃ l, s.noteHalts c p = { s with hearths := { s.hearths with launches := l } } := by
  unfold State.noteHalts
  split
  · exact ⟨_, rfl⟩
  · exact ⟨_, rfl⟩

theorem State.foldl_noteHalts_frame (s : State) (c : Cmd) (ts : List (Nat × Cmd)) :
    ∃ l, ts.foldl (fun t p => t.noteHalts c p) s = { s with hearths := { s.hearths with launches := l } } := by
  induction ts generalizing s with
  | nil => exact ⟨_, rfl⟩
  | cons p ts ih =>
    obtain ⟨l, hl⟩ := s.noteHalts_frame c p
    obtain ⟨l', hl'⟩ := ih (s.noteHalts c p)
    exact ⟨l', by rw [List.foldl_cons, hl', hl]⟩

theorem State.foldl_noteHalts_groups (s : State) (c : Cmd) (ts : List (Nat × Cmd)) :
    (ts.foldl (fun t p => t.noteHalts c p) s).hearths.groups = s.hearths.groups := by
  obtain ⟨l, hl⟩ := s.foldl_noteHalts_frame c ts
  rw [hl]

/-- The record of an absent group: its length, its state and the tick (R376). -/
theorem State.absentHead_spec (s : State) (c : Cmd) (st : Nat) : (s.absentHead c st).length = 64 ∧
    ((s.absentHead c st).drop 16).take 1 = toLe 1 st ∧ ((s.absentHead c st).drop 32).take 8 = toLe 8 s.tck.num.toNat := by
  unfold State.absentHead
  dsimp only
  refine ⟨length_padTo .., ?_, ?_⟩
  · simp [padTo, toLe]
  · simp [padTo, toLe]

/-! ### What precedes a debug command's action -/

theorem State.debugBegin_of_plain {s : State} {cid op : Nat} {c : Cmd} {x : Ctx} (h : s.ctl? cid op = some (c, x)) (hx : x.debug = false) :
    s.debugBegin cid op = .error (s.refuse cid c { code := 0x408, dkind := 1 }) := by
  unfold State.debugBegin
  simp [h, hx]

theorem State.debugBegin_of_debug {s : State} {cid op : Nat} {c : Cmd} {x : Ctx} (h : s.ctl? cid op = some (c, x)) (hx : x.debug = true)
    {set : List PageTr} (hset : s.trRanges setLimit x (debugRanges c) [] = .ok set)
    (hconf : s.cmdConflict cid { c with tset := set } (dbOut c) (debugOutLen op) = false) : s.debugBegin cid op = .ok { c with tset := set } := by
  have hout : dbOut { c with tset := set } = dbOut c := rfl
  unfold State.debugBegin
  simp [h, hx, hset, hout, hconf]

theorem execDebug_of_error {s t : State} {cid op : Nat} (h : s.debugBegin cid op = .error t) (hfin : s.ready? cid 0x29 .finished = none)
    (hrun : s.ready? cid 0x29 .running = none) {i : Instr}
    (hi : (op, i) ∈ [(0x28, Instr.debugHalt cid), (0x29, .debugStep cid), (0x2A, .debugResume cid), (0x2B, .debugReadGroup cid)]) :
    exec i s = .next t := by
  simp only [List.mem_cons, Prod.mk.injEq, List.not_mem_nil, or_false] at hi
  rcases hi with ⟨rfl, rfl⟩ | ⟨rfl, rfl⟩ | ⟨rfl, rfl⟩ | ⟨rfl, rfl⟩
  · show execDebugHalt cid s = _
    simp [execDebugHalt, h]
  · show execDebugStep cid s = _
    simp [execDebugStep, h, hfin, hrun]
  · show execDebugResume cid s = _
    simp [execDebugResume, h]
  · show execDebugReadGroup cid s = _
    simp [execDebugReadGroup, h]

/-- Settles O34: what each debug command makes of the groups it names, by `mapGet_mDebugGroups`, and what it writes. -/
theorem debugCommands : Obligations.DebugCommands := by
  unfold Obligations.DebugCommands
  refine ⟨fun s cid c x e he hfin hrun hctl => ⟨fun hx => ?_, fun hx set hset hconf => State.debugBegin_of_debug hctl hx hset hconf⟩,
    fun s cid c hb => ?_, fun s cid c hb => ?_, fun s cid c hfin hrun hb => ⟨fun p hp => ?_, fun hp => ?_⟩, fun s cid c hfin hconf => ?_,
    fun s cid c hb => ⟨fun p rest hg hst => ?_, fun p rest hg hst => ?_, fun hg => ?_⟩⟩
  · exact execDebug_of_error (State.debugBegin_of_plain hctl hx) hfin hrun he
  · obtain ⟨l, hl⟩ := State.foldl_noteHalts_frame
      (s.mDebugGroups c (fun g => g.st == .ready || g.st == .stalled) fun g => { g with st := .halted, haltedAt := s.time }) c (s.debugTargets c)
    refine ⟨_, (s.debugTargets c).foldl (fun t p => t.noteHalts c p)
      (s.mDebugGroups c (fun g => g.st == .ready || g.st == .stalled) fun g => { g with st := .halted, haltedAt := s.time }), _, ?_, rfl, rfl,
      fun k => ?_, ?_⟩
    · show execDebugHalt cid s = _
      unfold execDebugHalt
      rw [hb]
      rfl
    · rw [State.foldl_noteHalts_groups, mapGet_mDebugGroups]
      simp
    · rw [hl]
      rfl
  · refine ⟨_, s.mDebugGroups c (fun g => g.st == .halted) fun g => { g with
      st := if g.atBar || g.binding.isSome then .stalled else .ready
      readyAt := s.time, progressAt := g.progressAt + (s.time - g.haltedAt) }, _, ?_, rfl, rfl, fun k => ?_, rfl⟩
    · show execDebugResume cid s = _
      unfold execDebugResume
      rw [hb]
      rfl
    · rw [mapGet_mDebugGroups]
      simp
  · show execDebugStep cid s = _
    simp [execDebugStep, hb, hfin, hrun, hp]
  · show execDebugStep cid s = _
    simp [execDebugStep, hb, hfin, hrun, hp, State.debugResult]
  · show execDebugStep cid s = _
    simp [execDebugStep, hfin, hconf, State.debugResult]
  · show execDebugReadGroup cid s = _
    simp [execDebugReadGroup, hb, hg, hst]
  · show execDebugReadGroup cid s = _
    simp [execDebugReadGroup, hb, hg, hst]
  · obtain ⟨hlen, hst, htick⟩ := s.absentHead_spec c (if (s.debugTargets c).any fun p => s.debugUnplaced c p != 0 then 0 else 0xFF)
    refine ⟨_, ?_, hlen, ?_, htick⟩
    · show execDebugReadGroup cid s = _
      unfold execDebugReadGroup
      rw [hb]
      dsimp only
      rw [hg]
    · rw [hst]
      simp only [List.any_eq_true, bne_iff_ne]
      split <;> rfl

end Sys2Proof.Machine
end

section
/-!
PROOFS. The Hearth dispatcher (R335 to R347, R366, R668 to R673).
-/
namespace Sys2Proof.Machine

/-! ### Choosing the best of a list -/

section
variable {α : Type} {step : Option α → α → Option α} {lt : α → α → Prop} [∀ x y, Decidable (lt x y)]
  (hnone : ∀ x, step none x = some x) (hsome : ∀ b x, step (some b) x = if lt x b then some x else some b)
include hsome

/-- What nothing later is better than stays the best. -/
theorem foldl_best_stays {l : List α} {b : α} (h : ∀ x ∈ l, ¬lt x b) : l.foldl step (some b) = some b := by
  induction l with
  | nil => rfl
  | cons x l ih =>
    rw [List.foldl_cons, hsome, if_neg (h x List.mem_cons_self)]
    exact ih fun y hy => h y (List.mem_cons_of_mem _ hy)

include hnone

/-- The best of a list is one of it. -/
theorem foldl_best_mem (l : List α) : l.foldl step none = none ∨ ∃ b ∈ l, l.foldl step none = some b := by
  induction l using List.reverseRecOn with
  | nil => exact .inl rfl
  | append_singleton l x ih =>
    rw [List.foldl_append, List.foldl_cons, List.foldl_nil]
    right
    rcases ih with h | ⟨b, hb, h⟩
    · exact ⟨x, by simp, by rw [h, hnone]⟩
    · rw [h, hsome]
      split
      · exact ⟨x, by simp, rfl⟩
      · exact ⟨b, by simp [hb], rfl⟩

/-- One that is better than all before it, and that nothing after it is better than, is the best. -/
theorem foldl_best_eq {pre post : List α} {b : α} (hpre : ∀ x ∈ pre, lt b x) (hpost : ∀ x ∈ post, ¬lt x b) :
    (pre ++ b :: post).foldl step none = some b := by
  rw [List.foldl_append, List.foldl_cons]
  have hhere : step (pre.foldl step none) b = some b := by
    rcases foldl_best_mem hnone hsome pre with h | ⟨x, hx, h⟩
    · rw [h, hnone]
    · rw [h, hsome, if_pos (hpre x hx)]
  rw [hhere]
  exact foldl_best_stays hsome hpost

end

/-! ### Free slots of a Burner -/

/-- The free group slots of a Burner. -/
def State.freeSlots (s : State) (h b : Nat) : List Nat := (List.range 12).filter fun n => (mapGet s.hearths.groups (48 * h + 12 * b + n)).isNone

theorem mem_of_mapGet {α : Type} {m : Map α} {k : Nat} {v : α} (h : mapGet m k = some v) : (k, v) ∈ m := by
  induction m with
  | nil => cases h
  | cons p m ih =>
    obtain ⟨a, w⟩ := p
    simp only [mapGet] at h
    split at h
    · next ha =>
      rw [ha, Option.some.inj h]
      exact List.mem_cons_self
    · exact List.mem_cons_of_mem _ (ih h)

/-- A Burner has at least as many free slots as its groups leave. -/
theorem State.le_length_freeSlots (s : State) (h b : Nat) : 12 - (s.groupsAt h b).length ≤ (s.freeSlots h b).length := by
  have hsplit := List.length_eq_length_filter_add (l := List.range 12) fun n => (mapGet s.hearths.groups (48 * h + 12 * b + n)).isNone
  rw [List.length_range] at hsplit
  have htaken : (((List.range 12).filter fun n => !(mapGet s.hearths.groups (48 * h + 12 * b + n)).isNone).map
      fun n => 48 * h + 12 * b + n).length ≤ ((s.groupsAt h b).map (·.1)).length := by
    refine List.Subperm.length_le (List.Nodup.subperm ?_ fun k hk => ?_)
    · exact (List.nodup_range.filter _).map fun x y hxy => by omega
    · obtain ⟨n, hn, rfl⟩ := List.mem_map.mp hk
      obtain ⟨hn, hsome⟩ := List.mem_filter.mp hn
      have hn := List.mem_range.mp hn
      rw [Option.not_isNone, Option.isSome_iff_exists] at hsome
      obtain ⟨g, hg⟩ := hsome
      refine List.mem_map.mpr ⟨(48 * h + 12 * b + n, g), List.mem_filter.mpr ⟨mem_of_mapGet hg, ?_⟩, rfl⟩
      simp only [beq_iff_eq]
      omega
  rw [List.length_map, List.length_map] at htaken
  unfold State.freeSlots
  omega

theorem State.freeSlot_mem (s : State) (h b : Nat) (hfree : 0 < (s.freeSlots h b).length) : s.freeSlot h b ∈ s.freeSlots h b := by
  obtain ⟨n, hn⟩ := List.exists_mem_of_length_pos hfree
  unfold State.freeSlot
  cases hf : (List.range 12).find? fun n => (mapGet s.hearths.groups (48 * h + 12 * b + n)).isNone with
  | none => exact absurd (List.mem_filter.mp hn).2 (List.find?_eq_none.mp hf n (List.mem_filter.mp hn).1)
  | some m =>
    have hm := List.find?_some hf
    exact List.mem_filter.mpr ⟨List.mem_of_find?_eq_some hf, hm⟩

theorem State.mem_freeSlots {s : State} {h b n : Nat} :
    n ∈ s.freeSlots h b ↔ n < 12 ∧ mapGet s.hearths.groups (48 * h + 12 * b + n) = none := by
  simp [State.freeSlots]

/-! ### Placing a group and a block -/

section
variable (s : State) (cid : Nat) (c : Cmd) (l : LaunchSt) (h block group b : Nat)

theorem State.placeGroup_eq : s.placeGroup cid c l h block group b = { s with hearths := { s.hearths with
    groups := mapSet s.hearths.groups (48 * h + 12 * b + s.freeSlot h b)
      (newGroup cid c block group s.hearths.nextAge s.time (l.haltAll || l.halts.contains (block, group)))
    nextAge := s.hearths.nextAge + 1 } } := rfl

/-- Placing a group in a Burner takes one slot of that Burner. -/
theorem State.length_freeSlots_placeGroup (b' : Nat) (hfree : 0 < (s.freeSlots h b).length) :
    (s.freeSlots h b').length - (if b' = b then 1 else 0) ≤ ((s.placeGroup cid c l h block group b).freeSlots h b').length := by
  have hslot := State.mem_freeSlots.mp (s.freeSlot_mem h b hfree)
  have hkeep (n : Nat) (hn : n ∈ s.freeSlots h b') (hne : b' = b → n ≠ s.freeSlot h b) :
      n ∈ (s.placeGroup cid c l h block group b).freeSlots h b' := by
    obtain ⟨hlt, hnone⟩ := State.mem_freeSlots.mp hn
    refine State.mem_freeSlots.mpr ⟨hlt, ?_⟩
    rw [State.placeGroup_eq]
    refine (mapGet_mapSet_of_ne _ _ fun heq => ?_).trans hnone
    have hbb : b' = b := by omega
    exact hne hbb (by omega)
  have hnodup : (s.freeSlots h b').Nodup := List.nodup_range.filter _
  split
  · next hbb =>
    have hsub : ((s.freeSlots h b').erase (s.freeSlot h b)).length ≤ ((s.placeGroup cid c l h block group b).freeSlots h b').length :=
      ((hnodup.erase _).subperm fun n hn => hkeep n (List.mem_of_mem_erase hn) fun _ heq => by
        subst heq
        exact hnodup.not_mem_erase hn).length_le
    rw [List.length_erase_of_mem (hbb ▸ s.freeSlot_mem h b hfree)] at hsub
    exact hsub
  · next hbb => exact (hnodup.subperm fun n hn => hkeep n hn fun heq => absurd heq hbb).length_le

end

theorem pickBurner_spec {regs : Nat} {bs : List (Nat × Nat)} {b : Nat} (h : pickBurner regs bs = some b) :
    b < bs.length ∧ (bs.getD b (0, 0)).1 ≠ 0 := by
  unfold pickBurner at h
  generalize hn : bs.length = n at h ⊢
  clear hn
  induction n generalizing b with
  | zero => simp at h
  | succ n ih =>
    rw [List.range_succ, List.foldl_append, List.foldl_cons, List.foldl_nil] at h
    dsimp only at h
    split at h
    · obtain ⟨hb, h0⟩ := ih h
      exact ⟨by omega, h0⟩
    · next hx =>
      have hnew : n < n + 1 ∧ (bs.getD n (0, 0)).1 ≠ 0 := ⟨by omega, fun h0 => hx (.inl h0)⟩
      split at h
      · rw [← Option.some.inj h]
        exact hnew
      · split at h
        · rw [← Option.some.inj h]
          exact hnew
        · obtain ⟨hb, h0⟩ := ih h
          exact ⟨by omega, h0⟩

/-- The groups of a block placed one after another, from number i on. -/
def State.placeAll (cid : Nat) (c : Cmd) (l : LaunchSt) (h block : Nat) : List Nat → Nat → State → State
  | [], _, s => s
  | b :: bs, i, s => State.placeAll cid c l h block bs (i + 1) (s.placeGroup cid c l h block i b)

theorem State.foldl_placeGroup (cid : Nat) (c : Cmd) (l : LaunchSt) (h block : Nat) (bs : List Nat) (s : State) :
    (List.range bs.length).foldl (fun s i => s.placeGroup cid c l h block i (bs.getD i 0)) s = State.placeAll cid c l h block bs 0 s := by
  suffices hsuf : ∀ (as : List Nat) (i : Nat) (s : State), bs.drop i = as →
      (List.range' i as.length).foldl (fun s i => s.placeGroup cid c l h block i (bs.getD i 0)) s = State.placeAll cid c l h block as i s by
    rw [List.range_eq_range']
    exact hsuf bs 0 s rfl
  intro as
  induction as with
  | nil => exact fun _ _ _ => rfl
  | cons b as ih =>
    intro i s hdrop
    have hget : bs.getD i 0 = b := by
      have := congrArg List.head? hdrop
      rw [List.head?_drop] at this
      rw [List.getD_eq_getElem?_getD, this]
      rfl
    rw [List.length_cons, List.range'_succ, List.foldl_cons, hget]
    refine ih (i + 1) _ ?_
    rw [← List.drop_drop, hdrop]
    rfl

/-- What placing the groups of a block leaves: no group that stood before changes, and each new one stands in a slot of its Burner that was empty. -/
structure State.Placed (s : State) (cid : Nat) (c : Cmd) (l : LaunchSt) (h block i : Nat) (bs : List Nat) (t : State) : Prop where
  kept : ∀ k g, mapGet s.hearths.groups k = some g → mapGet t.hearths.groups k = some g
  new : ∀ j < bs.length, ∃ n age, n < 12 ∧ mapGet s.hearths.groups (48 * h + 12 * bs.getD j 0 + n) = none ∧
    mapGet t.hearths.groups (48 * h + 12 * bs.getD j 0 + n) =
      some (newGroup cid c block (i + j) age s.time (l.haltAll || l.halts.contains (block, i + j)))
  rest : ∃ gs na, t = { s with hearths := { s.hearths with groups := gs, nextAge := na } }

theorem State.placeAll_placed {cid : Nat} {c : Cmd} {l : LaunchSt} {h block regs : Nat} {bs : List Nat} {frees : List (Nat × Nat)} {s : State}
    (hassign : assignGroups regs bs.length frees = some bs)
    (hfree : ∀ b < frees.length, (frees.getD b (0, 0)).1 ≤ (s.freeSlots h b).length) (i : Nat) :
    s.Placed cid c l h block i bs (State.placeAll cid c l h block bs i s) := by
  induction bs generalizing frees s i with
  | nil => exact ⟨fun _ _ h => h, fun j hj => absurd hj (Nat.not_lt_zero j), _, _, rfl⟩
  | cons b bs ih =>
    rw [List.length_cons, assignGroups] at hassign
    split at hassign
    · cases hassign
    · next b' hpick =>
      obtain ⟨as, has, hcons⟩ := Option.map_eq_some_iff.mp hassign
      obtain ⟨rfl, rfl⟩ := List.cons.inj hcons
      obtain ⟨hlt, hpos⟩ := pickBurner_spec hpick
      have hslots : 0 < (s.freeSlots h b').length := by
        have := hfree b' hlt
        omega
      have hslot := State.mem_freeSlots.mp (s.freeSlot_mem h b' hslots)
      have hfree' (k : Nat) (hk : k < (frees.set b' ((frees.getD b' (0, 0)).1 - 1, (frees.getD b' (0, 0)).2 - regs)).length) :
          ((frees.set b' ((frees.getD b' (0, 0)).1 - 1, (frees.getD b' (0, 0)).2 - regs)).getD k (0, 0)).1 ≤
            ((s.placeGroup cid c l h block i b').freeSlots h k).length := by
        rw [List.length_set] at hk
        have hleft := s.length_freeSlots_placeGroup cid c l h block i b' k hslots
        have hk' := hfree k hk
        rw [List.getD_eq_getElem?_getD, List.getElem?_set]
        by_cases hkb : k = b'
        · subst hkb
          rw [if_pos rfl, if_pos hk]
          simp only [if_true] at hleft
          exact le_trans (Nat.sub_le_sub_right hk' 1) hleft
        · rw [if_neg (Ne.symm hkb), ← List.getD_eq_getElem?_getD]
          rw [if_neg hkb] at hleft
          omega
      obtain ⟨hkept, hnew, gs, na, hrest⟩ := ih has hfree' (i + 1)
      have hstep (k : Nat) (g : Group) (hg : mapGet s.hearths.groups k = some g) :
          mapGet (s.placeGroup cid c l h block i b').hearths.groups k = some g := by
        refine (mapGet_mapSet_of_ne _ _ fun heq => ?_).trans hg
        rw [heq, hslot.2] at hg
        cases hg
      refine ⟨fun k g hg => hkept k g (hstep k g hg), fun j hj => ?_, gs, na, hrest⟩
      cases j with
      | zero => exact ⟨_, _, hslot.1, hslot.2, hkept _ _ (mapGet_mapSet_self ..)⟩
      | succ j =>
        obtain ⟨n, age, hn, hnone, hsome⟩ := hnew j (by simpa using hj)
        refine ⟨n, age, hn, ?_, ?_⟩
        · refine Option.eq_none_iff_forall_ne_some.mpr fun g hg => ?_
          rw [List.getD_cons_succ] at hg
          rw [hstep _ g hg] at hnone
          cases hnone
        · rw [show i + 1 + j = i + (j + 1) by omega] at hsome
          exact hsome

/-- The Hearth that is chosen has room for the block, on the Burners named (R340, R341). -/
theorem State.fitOn_of_choose {s : State} {cid h : Nat} {c : Cmd} {bs : List Nat} (hc : s.choose cid c = some (h, bs)) : s.fitOn c h = some bs := by
  have hat {k : Nat} {r : Nat × List Nat} (hr : ((s.fitOn c k).map fun b => (k, b)) = some r) : s.fitOn c r.1 = some r.2 := by
    obtain ⟨b, hb, rfl⟩ := Option.map_eq_some_iff.mp hr
    exact hb
  unfold State.choose at hc
  dsimp only at hc
  split at hc
  · next r hr =>
    obtain ⟨k, -, hk⟩ := List.exists_of_findSome?_eq_some hr
    rw [← Option.some.inj hc.symm] at hk
    exact hat hk
  · split at hc
    · cases hc
    · generalize List.range 160 = ks at hc
      suffices hinv : ∀ (best : Option (Nat × List Nat)), (∀ r, best = some r → s.fitOn c r.1 = some r.2) →
          ∀ r, ks.foldl (fun best h => match (s.fitOn c h).map fun b => (h, b) with
            | none => best
            | some r => match best with
              | none => some r
              | some b => if (s.groupsOn h).length < (s.groupsOn b.1).length then some r else best) best = some r → s.fitOn c r.1 = some r.2 from
        hinv none (fun _ h => nomatch h) _ hc
      clear hc
      induction ks with
      | nil => exact fun best hbest r hr => hbest r hr
      | cons k ks ih =>
        intro best hbest r hr
        refine ih _ (fun r hr => ?_) r hr
        dsimp only at hr
        split at hr
        · exact hbest r hr
        · next x hx =>
          split at hr
          · exact Option.some.inj hr ▸ hat hx
          · split at hr
            · exact Option.some.inj hr ▸ hat hx
            · exact hbest r hr

theorem length_assignGroups {regs n : Nat} {frees : List (Nat × Nat)} {bs : List Nat} (h : assignGroups regs n frees = some bs) : bs.length = n := by
  induction n generalizing frees bs with
  | zero =>
    rw [assignGroups] at h
    rw [← Option.some.inj h]
    rfl
  | succ n ih =>
    rw [assignGroups] at h
    split at h
    · cases h
    · obtain ⟨as, has, rfl⟩ := Option.map_eq_some_iff.mp h
      rw [List.length_cons, ih has]

theorem State.assign_of_fitOn {s : State} {h : Nat} {c : Cmd} {bs : List Nat} (hf : s.fitOn c h = some bs) :
    bs.length = lnGpb c ∧ assignGroups (lnRegs c) bs.length (s.burners h) = some bs := by
  unfold State.fitOn at hf
  split at hf
  · rw [length_assignGroups hf]
    exact ⟨rfl, hf⟩
  · cases hf

/-- What the dispatcher takes for free slots of a Burner are free. -/
theorem State.burners_le (s : State) (h b : Nat) : ((s.burners h).getD b (0, 0)).1 ≤ (s.freeSlots h b).length := by
  unfold State.burners
  by_cases hb : b < 4
  · simp only [List.getD_eq_getElem?_getD, List.getElem?_map, List.getElem?_range hb, Option.map_some, Option.getD_some]
    exact s.le_length_freeSlots h b
  · rw [List.getD_eq_default _ _ (by simpa using hb)]
    exact Nat.zero_le _

/-- The Hearth takes the split and the block, and the Launch counts it, before its groups are placed (R338, R345). -/
def State.takeBlock (s : State) (cid : Nat) (c : Cmd) (l : LaunchSt) (h : Nat) : State :=
  (s.mHearth h fun u => { u with split := lnSplit c, placed := u.placed + 1, drain := if u.drain = 1 then 0 else u.drain }).mHearths fun u =>
    { u with
      blocks := u.blocks ++ [{ cid := cid, block := l.next, hearth := h, lsBytes := lnLs c, left := lnGpb c }]
      launches := mapSet u.launches cid { l with next := l.next + 1, live := l.live + 1 } }

theorem State.takeBlock_hearth_self (s : State) (cid : Nat) (c : Cmd) (l : LaunchSt) (h : Nat) : (s.takeBlock cid c l h).hearth h =
    { s.hearth h with
      split := lnSplit c, placed := (s.hearth h).placed + 1, drain := if (s.hearth h).drain = 1 then 0 else (s.hearth h).drain } :=
  State.mHearth_self s h fun u => { u with split := lnSplit c, placed := u.placed + 1, drain := if u.drain = 1 then 0 else u.drain }

theorem State.takeBlock_hearth_of_ne (s : State) (cid : Nat) (c : Cmd) (l : LaunchSt) {h k : Nat} (hk : k ≠ h) :
    (s.takeBlock cid c l h).hearth k = s.hearth k :=
  State.mHearth_of_ne s (fun u => { u with split := lnSplit c, placed := u.placed + 1, drain := if u.drain = 1 then 0 else u.drain }) hk

/-- What a block's placement leaves (R338, R344, R345). -/
theorem State.placeBlock_spec {s : State} {cid h : Nat} {c : Cmd} (l : LaunchSt) {bs : List Nat} (hc : s.choose cid c = some (h, bs)) :
    bs.length = lnGpb c ∧ ∃ t, (s.takeBlock cid c l h).Placed cid c l h l.next 0 bs t ∧
      ∃ x, s.placeBlock cid c l h bs = { t with chm := x } := by
  obtain ⟨hlen, hassign⟩ := State.assign_of_fitOn (State.fitOn_of_choose hc)
  refine ⟨hlen, _, State.placeAll_placed (s := s.takeBlock cid c l h) hassign (fun b _ => s.burners_le h b) 0, ?_⟩
  unfold State.placeBlock
  dsimp only
  rw [State.foldl_placeGroup]
  exact ⟨_, State.trace_frame ..⟩

theorem State.placeBlock_launches {s : State} {cid h : Nat} {c : Cmd} (l : LaunchSt) {bs : List Nat} (hc : s.choose cid c = some (h, bs)) :
    mapGet (s.placeBlock cid c l h bs).hearths.launches cid = some { l with next := l.next + 1, live := l.live + 1 } := by
  obtain ⟨-, t, ⟨-, -, gs, na, ht⟩, x, hx⟩ := State.placeBlock_spec l hc
  rw [hx, ht]
  exact mapGet_mapSet_self ..

/-- After n further blocks the Launch's next block is n further (R339). -/
theorem State.placeMany_next {s t : State} {cid n : Nat} {c : Cmd} {l : LaunchSt} (hl : mapGet s.hearths.launches cid = some l)
    (ht : s.placeMany cid c n = some t) : (mapGet t.hearths.launches cid).map (·.next) = some (l.next + n) := by
  induction n generalizing s l with
  | zero =>
    rw [State.placeMany] at ht
    rw [← Option.some.inj ht, hl]
    rfl
  | succ n ih =>
    rw [State.placeMany, hl] at ht
    split at ht
    · next l' h bs hl' hc =>
      obtain rfl := Option.some.inj hl'
      rw [ih (State.placeBlock_launches _ hc) ht]
      exact congrArg some (Nat.add_right_comm l.next 1 n)
    · cases ht

/-! ### The rows -/

theorem State.tryPlace_eq {s : State} {cid : Nat} {c : Cmd} {l : LaunchSt} (hc : s.cmd? cid = some c) (hl : mapGet s.hearths.launches cid = some l) :
    s.tryPlace cid = if c.st = .running ∧ l.next < lnBlocks c ∧ s.mayPlace c = true then
      s.placeMany cid c (if lnResident c then lnBlocks c - l.next else 1) else none := by
  unfold State.tryPlace
  rw [hc, hl]
  simp only [Bool.and_eq_true, beq_iff_eq, decide_eq_true_eq, and_assoc]

theorem newGroup_spec (cid : Nat) (c : Cmd) (block group age now n t : Nat) (halted : Bool) (g : Group)
    (hg : g = newGroup cid c block group age now halted) :
    g.pc.toNat = lnCode c % 2 ^ 64 ∧ g.exec = BitVec.allOnes 64 ∧ g.flags = 0 ∧ g.vreg n t = 0 ∧
    g.st = (if halted then .halted else .ready) ∧
    (g.sreg n).toNat = (if n = 1 then lnArg c else if n = 2 then block else if n = 3 then group else if n = 4 then lnArgLen c else 0) % 2 ^ 64 := by
  subst hg
  refine ⟨?_, ?_, ?_, ?_, ?_, ?_⟩
  · simp [newGroup, Group.sset]
  · simp [newGroup, Group.sset]
  · simp [newGroup, Group.sset]
  · simp [newGroup, Group.sset, Group.vreg, mapGetD]
  · simp [newGroup, Group.sset]
  · have hmap : (newGroup cid c block group age now halted).sregs = [(1, BitVec.ofNat 64 (lnArg c)), (2, BitVec.ofNat 64 block),
        (3, BitVec.ofNat 64 group), (4, BitVec.ofNat 64 (lnArgLen c))] := by
      simp [newGroup, Group.sset, mapSet]
    unfold Group.sreg mapGetD
    rw [hmap]
    simp only [mapGet]
    grind

/-- BLOCK_PLACE of a Launch whose next block fits (R338). -/
theorem blockPlace_spec {s : State} {cid h : Nat} {c : Cmd} {l : LaunchSt} {bs : List Nat} (hlive : s.live = true) (hc : s.cmd? cid = some c)
    (hl : mapGet s.hearths.launches cid = some l) (hrun : c.st = .running) (hnext : l.next < lnBlocks c) (hmay : s.mayPlace c = true)
    (hres : lnResident c = false) (hch : s.choose cid c = some (h, bs))
    (hfirst : ∀ p ∈ s.hearths.launches, ∀ d, s.cmd? p.1 = some d → s.classRank d.cls < s.classRank c.cls → s.tryPlace p.1 = none) :
    exec (.blockPlace cid) s = .next (s.placeBlock cid c l h bs) := by
  have htry : s.tryPlace cid = some (s.placeBlock cid c l h bs) := by
    rw [State.tryPlace_eq hc hl, if_pos ⟨hrun, hnext, hmay⟩, hres]
    simp only [Bool.false_eq_true, if_false, State.placeMany, hl, hch]
  show execBlockPlace cid s = _
  unfold execBlockPlace
  rw [hlive, htry, hc]
  refine congrArg Host.Outcome.next (if_neg (ne_true_of_eq_false (List.any_eq_false.mpr fun p hp => ?_)))
  split
  · next d hd =>
    have := hfirst p hp d hd
    by_cases hr : s.classRank d.cls < s.classRank c.cls
    · simp [this hr]
    · simp [hr]
  · simp

/-- BLOCK_PLACE of a Launch with RESIDENT_ALL places every block or none (R339). -/
theorem blockPlace_resident {s t : State} {cid : Nat} {c : Cmd} {l : LaunchSt} (hc : s.cmd? cid = some c)
    (hl : mapGet s.hearths.launches cid = some l) (hres : lnResident c = true) (ht : exec (.blockPlace cid) s = .next t) :
    t = s ∨ (mapGet t.hearths.launches cid).map (·.next) = some (lnBlocks c) := by
  have ht : execBlockPlace cid s = .next t := ht
  unfold execBlockPlace at ht
  rw [hc] at ht
  split at ht
  · next u d hlive htry hd =>
    injection ht with ht
    split at ht
    · exact .inl ht.symm
    · rw [State.tryPlace_eq hc hl] at htry
      split at htry
      · next hcond =>
        have hnext := State.placeMany_next hl htry
        rw [Nat.add_sub_cancel' hcond.2.1.le] at hnext
        exact .inr (ht ▸ hnext)
      · cases htry
  · injection ht with ht
    exact .inl ht.symm

/-- The rows act on a running Launch of which blocks remain. -/
theorem splitDrainMark_spec {s : State} {cid h : Nat} {c : Cmd} {l : LaunchSt} (hready : s.ready? cid 0x0C .running = some c)
    (hl : mapGet s.hearths.launches cid = some l) (hnext : l.next < lnBlocks c) (hh : h < 160) (hserv : (s.hearth h).inService = true)
    (hbit : bit (lnQuarters c) (h / 20) = true) (hdrain : s.drainOf h = 0)
    (hbest : ∀ k < 160, (s.hearth k).inService = true → bit (lnQuarters c) (k / 20) = true → s.drainOf k = 0 → s.eligible c k = false ∧
      ((s.groupsOn h).length < (s.groupsOn k).length ∨ ((s.groupsOn h).length = (s.groupsOn k).length ∧ h ≤ k))) :
    exec (.splitDrainMark cid) s = .next (s.mHearth h fun u => { u with drain := 1 }) := by
  have hmay (k : Nat) (hk : k ∈ (List.range 160).filter fun h => (s.hearth h).inService && bit (lnQuarters c) (h / 20) && s.drainOf h == 0) :
      s.eligible c k = false ∧
        ((s.groupsOn h).length < (s.groupsOn k).length ∨ ((s.groupsOn h).length = (s.groupsOn k).length ∧ h ≤ k)) := by
    simp only [List.mem_filter, List.mem_range, Bool.and_eq_true, beq_iff_eq] at hk
    exact hbest k hk.1 hk.2.1.1 hk.2.1.2 hk.2.2
  have hmem : h ∈ (List.range 160).filter fun h => (s.hearth h).inService && bit (lnQuarters c) (h / 20) && s.drainOf h == 0 := by
    simp [hh, hserv, hbit, hdrain]
  have hall : (((List.range 160).filter fun h => (s.hearth h).inService && bit (lnQuarters c) (h / 20) && s.drainOf h == 0).all
      fun h => !s.eligible c h) = true := List.all_eq_true.mpr fun k hk => by rw [(hmay k hk).1]; rfl
  have hsorted : List.Pairwise (· < ·) ((List.range 160).filter fun h =>
      (s.hearth h).inService && bit (lnQuarters c) (h / 20) && s.drainOf h == 0) := List.pairwise_lt_range.filter _
  show execSplitDrainMark cid s = _
  unfold execSplitDrainMark
  rw [hready, hl]
  dsimp only
  rw [hall]
  generalize (List.range 160).filter _ = ks at hmay hmem hsorted ⊢
  obtain ⟨pre, post, rfl⟩ := List.append_of_mem hmem
  rw [foldl_best_eq (lt := fun x b => (s.groupsOn x).length < (s.groupsOn b).length) (fun _ => rfl) (fun _ _ => rfl)]
  · simp [hnext]
  · intro x hx
    have hlt : x < h := (List.pairwise_append.mp hsorted).2.2 x hx h List.mem_cons_self
    rcases (hmay x (List.mem_append_left _ hx)).2 with hless | ⟨-, hle⟩
    · exact hless
    · omega
  · intro x hx
    rcases (hmay x (List.mem_append_right _ (List.mem_cons_of_mem _ hx))).2 with hless | ⟨heq, -⟩ <;> omega

theorem preemption_spec {s : State} {cid : Nat} {c : Cmd} {l : LaunchSt} {v : Nat × Cmd} {may : Nat × Cmd → Prop}
    (hready : s.ready? cid 0x0C .running = some c) (hl : mapGet s.hearths.launches cid = some l) (hnext : l.next < lnBlocks c)
    (hshare : s.groupUse c.cls < s.groupShare c.cls) (htry : s.tryPlace cid = none)
    (hmay : ∀ p, may p ↔ p ∈ s.stk.cmds ∧ p.2.preemptible = true ∧ (p.2.cls = 4 ∨ p.2.cls = 5) ∧
      s.groupShare p.2.cls < s.groupUse p.2.cls ∧ ∃ q ∈ s.hearths.groups, q.2.cid = p.1) (hv : may v) (hlast : ∀ p, may p → p = v ∨ p.2.issued < v.2.issued) :
    exec (.preemption cid) s = .next (((s.killCmd v.1 1).mCmd v.1 fun x => { x.again with kills := x.kills + 1 }).mFn v.2.fn fun f =>
      { f with preempts := f.preempts + 1 }) := by
  have hvict (p : Nat × Cmd) : p ∈ (s.stk.cmds.filter fun p =>
      p.2.preemptible && (p.2.cls == 4 || p.2.cls == 5) && decide (s.groupShare p.2.cls < s.groupUse p.2.cls) &&
        s.hearths.groups.any (·.2.cid == p.1)) ↔ may p := by
    rw [hmay]
    simp only [List.mem_filter, Bool.and_eq_true, Bool.or_eq_true, beq_iff_eq, decide_eq_true_eq, List.any_eq_true, and_assoc]
  show execPreemption cid s = _
  unfold execPreemption
  rw [hready, hl]
  dsimp only
  rw [if_neg (by simp [hnext, hshare, htry])]
  generalize s.stk.cmds.filter _ = vs at hvict ⊢
  obtain ⟨pre, post, rfl, hnot⟩ := List.eq_append_cons_of_mem ((hvict v).mpr hv)
  rw [foldl_best_eq (lt := fun p b : Nat × Cmd => b.2.issued < p.2.issued) (fun _ => rfl) (fun _ _ => rfl)]
  · intro x hx
    rcases hlast x ((hvict x).mp (List.mem_append_left _ hx)) with rfl | hless
    · exact absurd hx hnot
    · exact hless
  · intro x hx
    rcases hlast x ((hvict x).mp (List.mem_append_right _ (List.mem_cons_of_mem _ hx))) with rfl | hless <;> omega

/-- Settles O32: the placement of a block group by group (`State.placeAll_placed`), and the branches of the other rows. -/
theorem hearthDispatch : Obligations.HearthDispatch := by
  unfold Obligations.HearthDispatch
  refine ⟨fun s cid c c' hready hord hc' => ⟨fun hok => ?_, fun hbad => ?_⟩,
    fun s cid h c l bs hlive hc hl hrun hnext hmay hres hch hfirst => ?_, newGroup_spec,
    fun s t cid c l hc hl hres hstep => ?_, fun s cid h c l hready hl hnext hh hserv hbit hdrain hbest => ?_,
    fun s cid c l v may hready hl hnext hshare htry hmay hv hlast => ?_, fun s r g c hlive hg hc => ⟨fun hst hdue => ?_, fun hnot => ?_⟩⟩
  · subst hc'
    show execLaunch cid s = _
    unfold execLaunch
    simp only [hready, hord, hok, Bool.not_true, Bool.false_eq_true, if_false]
    rfl
  · subst hc'
    show execLaunch cid s = _
    unfold execLaunch
    simp only [hready, hord, hbad, Bool.not_true, Bool.not_false, Bool.false_eq_true, if_false, if_true]
  · obtain ⟨hlen, u, ⟨hkept, hnew, gs, na, hu⟩, x, hx⟩ := State.placeBlock_spec l hch
    refine ⟨_, blockPlace_spec hlive hc hl hrun hnext hmay hres hch hfirst, State.placeBlock_launches l hch, ?_, ?_, fun k g hg => ?_, hlen,
      fun i hi => ?_, fun k hk => ?_, ?_⟩
    · rw [hx]
      exact (hu ▸ rfl : u.hearth h = (s.takeBlock cid c l h).hearth h).trans (State.takeBlock_hearth_self ..)
    · rw [hx, hu]
      rfl
    · rw [hx]
      exact hkept k g hg
    · obtain ⟨n, age, hn, hnone, hsome⟩ := hnew i hi
      rw [Nat.zero_add] at hsome
      rw [hx]
      exact ⟨n, age, hn, hnone, hsome⟩
    · rw [hx]
      exact (hu ▸ rfl : u.hearth k = (s.takeBlock cid c l h).hearth k).trans (State.takeBlock_hearth_of_ne s cid c l hk)
    · rw [hx, hu]
      rfl
  · exact blockPlace_resident hc hl hres hstep
  · exact splitDrainMark_spec hready hl hnext hh hserv hbit hdrain hbest
  · exact preemption_spec hready hl hnext hshare htry hmay hv hlast
  · show execGroupSelfWait r s = _
    unfold execGroupSelfWait
    simp [hlive, hg, hc, hst, hdue]
  · show execGroupSelfWait r s = _
    unfold execGroupSelfWait
    have hno : (g.st != .halted && decide (g.progressAt + s.watchCycles c ≤ s.time)) = false := by
      rcases hnot with h | h
      · simp [h]
      · simp [h]
    simp [hlive, hg, hc, hno]

end Sys2Proof.Machine
end

section
/-!
PROOFS. What the events of a Route port may change (R713 to R719, R729, R731).
-/
namespace Sys2Proof.Machine

/-- What failing operations and the states of a Route port may change: the Routes, the commands of the operations, records of faults, and the
frames that the tick follower counts as missed. -/
structure State.PortFrame (s t : State) : Prop where
  rest : t = { s with
    routes := t.routes, chm := t.chm, flt := t.flt, stk := { s.stk with cmds := t.stk.cmds }, tck := { s.tck with missed := t.tck.missed } }

namespace State.PortFrame

theorem refl (s : State) : s.PortFrame s := ⟨rfl⟩

theorem trans {a b c : State} (h : a.PortFrame b) (k : b.PortFrame c) : a.PortFrame c := ⟨by rw [k.rest, h.rest]⟩

theorem ite {s a b : State} {c : Prop} [Decidable c] (ha : s.PortFrame a) (hb : s.PortFrame b) : s.PortFrame (if c then a else b) := by
  split <;> assumption

theorem foldl {α : Type} {f : State → α → State} (hf : ∀ (s : State) (x : α), s.PortFrame (f s x)) (l : List α) (s : State) :
    s.PortFrame (l.foldl f s) := by
  induction l generalizing s with
  | nil => exact .refl s
  | cons x l ih => exact (hf s x).trans (ih _)

theorem mPort (s : State) (p : Nat) (f : RPort → RPort) : s.PortFrame (s.mPort p f) := ⟨rfl⟩

theorem mPortCnt (s : State) (p : Nat) (f : RPortCnt → RPortCnt) : s.PortFrame (s.mPortCnt p f) := ⟨rfl⟩

theorem raiseAs (s : State) (c : Nat) (r : FaultRec) : s.PortFrame (s.raiseAs c r) := ⟨by rw [State.raiseAs_frame]⟩

theorem raise (s : State) (r : FaultRec) : s.PortFrame (s.raise r) := raiseAs ..

theorem sendFrame (s : State) (p : Nat) (f : Frame) : s.PortFrame (s.sendFrame p f) := .ite ⟨rfl⟩ (.refl s)

theorem sendAbort (s : State) (o : ROp) (l : RLink) (reason : Nat) : s.PortFrame (s.sendAbort o l reason) :=
  .ite (.trans (sendFrame ..) ⟨rfl⟩) (.refl s)

theorem leaveLink (s : State) (o : ROp) (l : RLink) (reason : Nat) : s.PortFrame (s.leaveLink o l reason) :=
  .ite (.refl s) (.ite (.ite (.refl s) ⟨rfl⟩) (.trans (sendAbort ..) ⟨rfl⟩))

theorem dropOp (s : State) (o : ROp) : s.PortFrame (s.dropOp o) :=
  (foldl (fun s l => leaveLink s o l 3) o.links s).trans ⟨rfl⟩

theorem failOp (s : State) (o : ROp) (code : Nat) (detail : List Byte) : s.PortFrame (s.failOp o code detail) := by
  unfold State.failOp
  dsimp only
  split
  · exact dropOp s o
  · exact (dropOp s o).trans (raise ..)

theorem failPort (s : State) (p code reason : Nat) : s.PortFrame (s.failPort p code reason) :=
  foldl (fun _ _ => failOp ..) _ s

theorem suspect (s : State) (p : Nat) : s.PortFrame (s.suspect p) := ((mPort ..).trans (raiseAs ..)).trans (failPort ..)

theorem missFrames (s : State) (p : Nat) :
    s.PortFrame (s.mTck fun t => if t.source == 2 && t.routePort == p then { t with missed := 2 } else t) := by
  constructor
  unfold State.mTck
  dsimp only
  split <;> rfl

theorem quarantine (s : State) (p reason : Nat) : s.PortFrame (s.quarantine p reason) := by
  unfold State.quarantine
  dsimp only
  exact (((mPort ..).trans (raiseAs ..)).trans (failPort ..)).trans (missFrames ..)

theorem portBoundary (s : State) (p : Nat) : s.PortFrame (s.portBoundary p) :=
  (mPort ..).trans (.ite (.refl _) (.ite (suspect ..) (sendFrame ..)))

end State.PortFrame

end Sys2Proof.Machine
end

section
/-!
PROOFS. The start-up sequence (R822, R829 to R836, R846): the island, the image, the stacks, the tests of Kindling, the drives and its end.
-/
namespace Sys2Proof.Machine

/-! ### The island -/

/-- A function's log whose Mailbox request, if in flight, is lost (R856). -/
def FnLog.restart (l : FnLog) : FnLog :=
  if l.mbx.busy then { l with mbx := { l.mbx with busy := false, restarted := true, inFlight := [] } } else l

theorem State.wardenRestart_log (s : State) (sigA sigB : Bool) (f : Nat) : (s.wardenRestart sigA sigB).log f = (s.log f).restart := by
  have hget : mapGet (s.wardenRestart sigA sigB).logs f = (mapGet s.logs f).map FnLog.restart := mapGet_map s.logs FnLog.restart f
  unfold State.log mapGetD
  rw [hget]
  cases mapGet s.logs f with
  | none => rfl
  | some l => rfl

theorem State.wardenRestart_dev (s : State) (sigA sigB : Bool) : (s.wardenRestart sigA sigB).dev = s.dev := by
  unfold State.wardenRestart
  rfl

/-- What the ROM's run leaves of the island (R822, R849). -/
theorem State.wardenRestart_spec {s : State} {sigA sigB : Bool} {slot : Option Bool}
    (hslot : slot = chooseSlot s.warden.qspi false s.fuses.firmwareSec sigA sigB) :
    (s.wardenRestart sigA sigB).warden.running = slot.isSome ∧ (s.wardenRestart sigA sigB).warden.recovery = slot.isNone ∧
    (s.wardenRestart sigA sigB).warden.qspi = s.warden.qspi ∧ (s.wardenRestart sigA sigB).warden.errorLog = s.warden.errorLog ∧
    (s.wardenRestart sigA sigB).warden.staging = none ∧ (s.wardenRestart sigA sigB).warden.eventReceiver = none ∧
    (s.wardenRestart sigA sigB).fuses = s.fuses := by
  unfold State.wardenRestart
  dsimp only
  rw [← hslot]
  exact ⟨rfl, rfl, rfl, rfl, rfl, rfl, rfl⟩

/-- A restart with firmware to run is reported while the dies are powered (R766, R849). -/
theorem State.raiseRestart_wardenRestart {s : State} {sigA sigB : Bool} {slot : Option Bool}
    (hslot : slot = chooseSlot s.warden.qspi false s.fuses.firmwareSec sigA sigB) : (s.wardenRestart sigA sigB).raiseRestart =
      if slot.isSome ∧ s.dev ≠ .off then (s.wardenRestart sigA sigB).raise { code := 0x902 } else s.wardenRestart sigA sigB := by
  have hrun : (s.wardenRestart sigA sigB).warden.running = slot.isSome := hslot ▸ rfl
  unfold State.raiseRestart
  rw [hrun, State.wardenRestart_dev]
  simp only [Bool.and_eq_true, bne_iff_ne]

/-! ### The image -/

theorem State.enterQuenched_refusal (s : State) (code : Nat) : (s.enterQuenched code).warden.refusal = s.warden.refusal := by
  obtain ⟨u, ⟨hu⟩, he⟩ := s.enterQuenched_eq code
  rw [he, State.withdrawRequest_frame]
  show u.warden.refusal = s.warden.refusal
  rw [hu]
  rfl

theorem State.refuseImage_spec (s : State) (reason : Nat) : (s.refuseImage reason).dev = .quenched ∧
    (s.refuseImage reason).warden.refusal = reason ∧ (s.refuseImage reason).flt.quenchCode = 0x901 := by
  unfold State.refuseImage
  obtain ⟨hdev, -⟩ := State.enterQuenched_spec ((s.mWarden fun w => { w with refusal := reason }).raise { code := 0x901 }) 0x901
  obtain ⟨lost, fails, msgs, hflt⟩ := State.enterQuenched_flt ((s.mWarden fun w => { w with refusal := reason }).raise { code := 0x901 }) 0x901
  refine ⟨hdev, ?_, by rw [hflt]⟩
  rw [State.enterQuenched_refusal, State.raise_frame]
  rfl

/-! ### The tests -/

theorem State.mPhys_self (s : State) (p : Nat) (f : PhysHearth → PhysHearth) : (s.mPhys p f).phys p = f (s.phys p) :=
  mapGetD_mapMod_self ..

theorem State.phys_congr {s t : State} (h : t.hearths = s.hearths) (p : Nat) : t.phys p = s.phys p := by
  unfold State.phys
  rw [h]

theorem State.spare_hearths (s : State) (e : SparingEntry) : (s.spare e).hearths = s.hearths := by
  unfold State.spare
  dsimp only
  split
  · rfl
  · split
    · rfl
    · rw [State.raise_hearths]
      rfl

theorem State.retireHearth_retired (s : State) (p : Nat) : ((s.retireHearth p).phys p).retired = true := by
  have hphys : (s.retireHearth p).phys p = (s.mPhys p fun x => { x with retired := true }).phys p := by
    unfold State.retireHearth
    refine (State.phys_congr ((State.spare_hearths ..).trans (State.raise_hearths ..)) p).trans ?_
    rfl
  rw [hphys, State.mPhys_self]

theorem getLsbD_or_bit {w k : Nat} (b : BitVec w) (h : k < w) : (b ||| BitVec.ofNat w (2 ^ k)).getLsbD k = true := by
  rw [BitVec.getLsbD_or, BitVec.getLsbD_ofNat, Nat.testBit_two_pow_self]
  simp [h]

theorem getLsbD_and_not_bit {w k : Nat} (b : BitVec w) (h : k < w) : (b &&& ~~~BitVec.ofNat w (2 ^ k)).getLsbD k = false := by
  rw [BitVec.getLsbD_and, BitVec.getLsbD_not, BitVec.getLsbD_ofNat, Nat.testBit_two_pow_self]
  simp [h]

theorem State.applySparing_spec (s : State) (e : SparingEntry) :
    (e.resource = 1 → ((s.applySparing e).phys e.inst).retired = true) ∧
    (e.resource = 2 → e.fromLoc < 4 → ((s.applySparing e).phys e.inst).grRetired.getLsbD e.fromLoc = true) ∧
    (e.resource = 7 → e.inst < 16 → (s.applySparing e).drovers.inService.getLsbD e.inst = false) ∧
    (e.resource = 6 → (s.applySparing e).flt.disabledWays = s.flt.disabledWays ++ [e.fromLoc]) := by
  unfold State.applySparing
  refine ⟨fun h => ?_, fun h hlt => ?_, fun h hlt => ?_, fun h => ?_⟩ <;> rw [h]
  · show ((s.mPhys e.inst fun p => { p with retired := true }).phys e.inst).retired = true
    rw [State.mPhys_self]
  · show ((s.mPhys e.inst fun p => { p with grRetired := p.grRetired ||| BitVec.ofNat 4 (2 ^ e.fromLoc) }).phys e.inst).grRetired.getLsbD
      e.fromLoc = true
    rw [State.mPhys_self]
    exact getLsbD_or_bit _ hlt
  · exact getLsbD_and_not_bit _ hlt
  · rfl

theorem mapGet_append_of_some {α : Type} {m : Map α} {k : Nat} {v : α} (h : mapGet m k = some v) (n : Map α) : mapGet (m ++ n) k = some v := by
  induction m with
  | nil => cases h
  | cons p m ih =>
    obtain ⟨a, w⟩ := p
    simp only [List.cons_append, mapGet] at h ⊢
    split at h
    · next ha => rw [if_pos ha, h]
    · next ha => rw [if_neg ha, ih h]

theorem mapGet_append_of_none {α : Type} {m : Map α} {k : Nat} (h : mapGet m k = none) (n : Map α) : mapGet (m ++ n) k = mapGet n k := by
  induction m with
  | nil => rfl
  | cons p m ih =>
    obtain ⟨a, w⟩ := p
    simp only [List.cons_append, mapGet] at h ⊢
    split at h
    · cases h
    · next ha => rw [if_neg ha, ih h]

theorem mapGet_map_range {α : Type} (f : Nat → α) (n k : Nat) :
    mapGet ((List.range n).map fun i => (i, f i)) k = if k < n then some (f k) else none := by
  induction n with
  | zero => rfl
  | succ n ih =>
    rw [List.range_succ, List.map_append]
    by_cases h : k < n
    · rw [if_pos h] at ih
      rw [mapGet_append_of_some ih, if_pos (by omega)]
    · rw [if_neg h] at ih
      rw [mapGet_append_of_none ih]
      simp only [List.map_cons, List.map_nil, mapGet]
      grind

/-- The settings reach the units (R42, R174, R777). -/
theorem State.loadSettings_spec (s : State) (seed : Nat) : (s.loadSettings seed).boot.katDone = true ∧ (s.loadSettings seed).tck.num = 0 ∧
    (s.loadSettings seed).tck.period10us = s.img.period10us ∧ (s.loadSettings seed).ldg.keySeed = BitVec.ofNat 64 seed ∧
    (s.loadSettings seed).ldg.keyCount = 0 ∧ (s.img.bx3 = false → (s.loadSettings seed).tck.source = s.img.tickSource ∧
      ∀ p < 8, ((s.loadSettings seed).port p).st = (if (s.img.route.getD p {}).enable then .down else .disabled)) := by
  refine ⟨rfl, rfl, ?_, rfl, rfl, fun hbx => ⟨?_, fun p hp => ?_⟩⟩
  · unfold State.loadSettings
    cases hbx : s.img.bx3 <;> simp [hbx]
  · unfold State.loadSettings
    simp [hbx]
  · unfold State.loadSettings
    simp [hbx, State.port, mapGetD, mapGet_map_range, hp]

/-! ### The drives -/

theorem getLsbD_ones {n i : Nat} (hi : i < 16) : (BitVec.ofNat 16 (2 ^ n - 1)).getLsbD i = decide (i < n) := by
  rw [BitVec.getLsbD_ofNat, Nat.testBit_two_pow_sub_one]
  simp [hi]

/-! ### The end of Kindling -/

/-- Only the Hearths change. -/
structure State.HearthsFrame (s t : State) : Prop where
  rest : t = { s with hearths := t.hearths }

namespace State.HearthsFrame

theorem trans {a b c : State} (h : a.HearthsFrame b) (k : b.HearthsFrame c) : a.HearthsFrame c := ⟨by rw [k.rest, h.rest]⟩

theorem foldl {α : Type} {f : State → α → State} (hf : ∀ (s : State) (x : α), s.HearthsFrame (f s x)) (l : List α) (s : State) :
    s.HearthsFrame (l.foldl f s) := by
  induction l generalizing s with
  | nil => exact ⟨rfl⟩
  | cons x l ih => exact (hf s x).trans (ih _)

theorem mHearth (s : State) (h : Nat) (f : Hearth → Hearth) : s.HearthsFrame (s.mHearth h f) := ⟨rfl⟩

theorem mPhys (s : State) (p : Nat) (f : PhysHearth → PhysHearth) : s.HearthsFrame (s.mPhys p f) := ⟨rfl⟩

theorem mQuarter (s : State) (q : Nat) (f : Quarter → Quarter) : s.HearthsFrame (s.mQuarter q f) := ⟨rfl⟩

theorem mapQuarter (s : State) (q : Nat) : s.HearthsFrame (s.mapQuarter q) := by
  unfold State.mapQuarter
  dsimp only
  refine (State.HearthsFrame.trans (foldl (fun s i => ?_) _ s) (foldl (fun s p => mPhys ..) _ _)).trans (mQuarter ..)
  split
  · exact mHearth ..
  · exact mHearth ..

end State.HearthsFrame

theorem State.sendTickFrame_frame (s : State) : ∃ l, s.sendTickFrame = { s with tck := { s.tck with framesOut := l } } := by
  unfold State.sendTickFrame
  split
  · exact ⟨_, rfl⟩
  · exact ⟨_, rfl⟩

/-- The state as tick 0 begins, before what goes out on the Routes (R22, R44, R330, R830, R846). -/
def State.beginTicks (s : State) (r0 w0 r1 w1 : Nat) : State :=
  let s := (List.range 8).foldl State.mapQuarter s
  let s := s.mHearths fun u => { u with
    gratesLoaded := ((u.logical.filter (·.2.inService)).map fun p => grateCount (s.gratesUp p.2)).sum }
  let s := s.mXlt fun x => { x with
    port0 := x.port0.trained s.pins.perst0 r0 w0
    port1 := if s.img.bx3 then x.port1 else x.port1.trained s.pins.perst1 r1 w1 }
  let s := s.mFuses fun f => { f with imageSec := max f.imageSec s.img.securityVer }
  let s := { s with dev := if s.img.startBanked && !s.img.bx3 then .banked else .service }
  let s := s.mTck fun t => { t with num := 0, phase := 0, stateTick := 0, locked := t.source == 0, loadPending := t.follower }
  let s := s.mBoot fun x => { x with ended := s.time, presented := true }
  let s := s.mFlt fun f => { f with hostStopped := f.hostStopped || s.img.bx3 }
  let s := s.mPower fun p => { p with tickEnergy := 0, tickSamples := 0, hotTick := false }
  let s := ((s.levelsStep).snapshot).traceTick 0 false
  s.beginAssembly

theorem State.beginTicks_spec (s : State) (r0 w0 r1 w1 : Nat) : (s.beginTicks r0 w0 r1 w1).dev =
      (if s.img.startBanked ∧ s.img.bx3 = false then .banked else .service) ∧ (s.beginTicks r0 w0 r1 w1).tck.num = 0 ∧
    (s.beginTicks r0 w0 r1 w1).tck.phase = 0 ∧ (s.beginTicks r0 w0 r1 w1).boot.presented = true ∧
    (s.beginTicks r0 w0 r1 w1).fuses = { s.fuses with imageSec := max s.fuses.imageSec s.img.securityVer } ∧
    (s.beginTicks r0 w0 r1 w1).warden = s.warden := by
  unfold State.beginTicks
  have hmap := (State.HearthsFrame.foldl State.HearthsFrame.mapQuarter (List.range 8) s).rest
  generalize (List.range 8).foldl State.mapQuarter s = u at hmap
  have himg : u.img = s.img := by rw [hmap]
  have hfuses : u.fuses = s.fuses := by rw [hmap]
  have hwarden : u.warden = s.warden := by rw [hmap]
  simp [State.levelsStep, State.snapshot, State.traceTick, State.trace, State.beginAssembly, himg, hfuses, hwarden]

/-- KINDLING_END in its order (R22, R44, R830, R846). -/
theorem kindlingEnd_spec {s : State} (r0 w0 r1 w1 : Nat) (hk : s.kindling = true) (hc : s.boot.cellarDone = true) :
    ∃ t, exec (.kindlingEnd r0 w0 r1 w1) s = .next t ∧ t.dev = (if s.img.startBanked ∧ s.img.bx3 = false then .banked else .service) ∧
      t.tck.num = 0 ∧ t.tck.phase = 0 ∧ t.boot.presented = true ∧
      t.fuses = { s.fuses with imageSec := max s.fuses.imageSec s.img.securityVer } ∧ t.warden = s.warden := by
  have hports := (State.PortFrame.foldl State.PortFrame.portBoundary (List.range 8) (s.beginTicks r0 w0 r1 w1)).rest
  obtain ⟨l, hl⟩ := State.sendTickFrame_frame ((List.range 8).foldl State.portBoundary (s.beginTicks r0 w0 r1 w1))
  obtain ⟨hdev, hnum, hphase, hpres, hfuses, hwarden⟩ := s.beginTicks_spec r0 w0 r1 w1
  refine ⟨((List.range 8).foldl State.portBoundary (s.beginTicks r0 w0 r1 w1)).sendTickFrame, ?_, ?_⟩
  · show execKindlingEnd r0 w0 r1 w1 s = _
    unfold execKindlingEnd
    rw [hk, hc]
    rfl
  · rw [hl]
    generalize (List.range 8).foldl State.portBoundary (s.beginTicks r0 w0 r1 w1) = v at hports
    generalize s.beginTicks r0 w0 r1 w1 = u at hports hdev hnum hphase hpres hfuses hwarden
    rw [hports]
    exact ⟨hdev, hnum, hphase, hpres, hfuses, hwarden⟩

/-- A part whose settings were read from a verified image at a base (R831). -/
def State.imaged (s : State) (base : Nat) : State :=
  (s.mImg fun _ => readImage s.warden.qspi base).mBoot fun x => { x with imageOk := true, base := sparingBase s.warden.qspi base }

/-- Kindling without a slot that verifies (R829). -/
theorem State.kindle_of_none {s : State} {sigA sigB : Bool} (h : chooseSlot s.warden.qspi true s.fuses.imageSec sigA sigB = none) :
    s.kindle sigA sigB = { s with dev := .kindling, boot := { since := s.time } }.refuseImage 1 := by
  unfold State.kindle
  dsimp only
  rw [h]

/-- Kindling from a slot that verifies (R834). -/
theorem State.kindle_of_some {s v : State} {sigA sigB b : Bool} (h : chooseSlot s.warden.qspi true s.fuses.imageSec sigA sigB = some b)
    (hv : v = { s with dev := .kindling, boot := { since := s.time } }.mWarden fun w =>
      { w with imageSlot := some b, imgSigned := cellsGet s.warden.qspi (slotBase true b) (signedLen s.warden.qspi (slotBase true b)) }) :
    s.kindle sigA sigB = if imageReason s.warden.qspi (slotBase true b) s.fuses.orderingNS ≠ 0 then
      v.refuseImage (imageReason s.warden.qspi (slotBase true b) s.fuses.orderingNS) else v.imaged (slotBase true b) := by
  subst hv
  unfold State.kindle
  dsimp only
  rw [h]
  simp only [bne_iff_ne]
  rfl

/-- The lands as CZ_RESET_N is released (R846). -/
def State.released (s : State) : State :=
  s.mPins fun p => { p with czResetN := true, railsOk := true, thermtripN := true, clocksStopped := false }

/-- CZ_RESET_RELEASE begins Kindling (R829, R834, R846). -/
theorem czResetRelease_spec (s u : State) (sigA sigB : Bool)
    (hu : u = { s.mPins (fun p => { p with czResetN := true, railsOk := true, thermtripN := true, clocksStopped := false }) with
      dev := .kindling, boot := { since := s.time } }) :
    (s.warden.running = false ∨ s.pins.czResetN = true → exec (.czResetRelease sigA sigB) s = .next s) ∧
    (s.warden.running = true → s.pins.czResetN = false →
      (chooseSlot s.warden.qspi true s.fuses.imageSec sigA sigB = none → exec (.czResetRelease sigA sigB) s = .next (u.refuseImage 1)) ∧
      (∀ b base v, chooseSlot s.warden.qspi true s.fuses.imageSec sigA sigB = some b → base = slotBase true b → v = u.mWarden (fun w => { w with
          imageSlot := some b, imgSigned := cellsGet s.warden.qspi base (signedLen s.warden.qspi base) }) →
        (imageReason s.warden.qspi base s.fuses.orderingNS ≠ 0 → exec (.czResetRelease sigA sigB) s = .next
          (v.refuseImage (imageReason s.warden.qspi base s.fuses.orderingNS))) ∧
        (imageReason s.warden.qspi base s.fuses.orderingNS = 0 → ∃ t, exec (.czResetRelease sigA sigB) s = .next t ∧
          t.img = readImage s.warden.qspi base ∧ t.dev = .kindling ∧ t.kindling = (s.flt.quenchDue.isNone) ∧ t.warden = v.warden))) := by
  have hrow (hrun : s.warden.running = true) (hpin : s.pins.czResetN = false) : exec (.czResetRelease sigA sigB) s =
      .next (s.released.kindle sigA sigB) := by
    show execCzResetRelease sigA sigB s = _
    unfold execCzResetRelease
    rw [hrun, hpin]
    rfl
  refine ⟨fun hno => ?_, fun hrun hpin => ⟨fun hslot => ?_, fun b base v hslot hbase hv => ⟨fun hbad => ?_, fun hok => ?_⟩⟩⟩
  · show execCzResetRelease sigA sigB s = _
    unfold execCzResetRelease
    rcases hno with h | h
    · simp [h]
    · simp [h]
  · rw [hrow hrun hpin, State.kindle_of_none (s := s.released) hslot, hu]
    rfl
  · subst hbase
    rw [hrow hrun hpin, State.kindle_of_some (s := s.released) (v := v) hslot (by rw [hv, hu]; rfl)]
    exact congrArg Host.Outcome.next (if_pos hbad)
  · subst hbase
    rw [hrow hrun hpin, State.kindle_of_some (s := s.released) (v := v) hslot (by rw [hv, hu]; rfl)]
    refine ⟨v.imaged (slotBase true b), congrArg Host.Outcome.next (if_neg (not_not.mpr hok)), ?_⟩
    rw [hv, hu]
    unfold State.imaged State.kindling
    simp

/-- A stack that trains (R836); with the eighth the sparing map is loaded and applied (R833). -/
theorem stackTrained_of_new {s : State} {q : Nat} (hk : s.kindling = true) (hq : q < 8) (hnew : q ∉ s.boot.trained) :
    exec (.stackDramTrained q true) s = if (s.mBoot fun x => { x with trained := q :: x.trained }).boot.trained.length = 8 then
        .next ((((s.mBoot fun x => { x with trained := q :: x.trained }).sparingMap.foldl State.applySparing
          (s.mBoot fun x => { x with trained := q :: x.trained })).mWarden fun w =>
            { w with mapApplied := (s.mBoot fun x => { x with trained := q :: x.trained }).sparingMap }).mBoot fun x => { x with mapLoaded := true })
      else .next (s.mBoot fun x => { x with trained := q :: x.trained }) := by
  have hgo : (!s.kindling || decide (8 ≤ q) || s.boot.trained.contains q) = false := by simp [hk, hnew, hq]
  show execStackDramTrained q true s = _
  unfold execStackDramTrained
  rw [hgo]
  rfl

/-- The drives are numbered, at most 16 (R221). -/
theorem cellarEnumeration_spec {s : State} (ctrls : List (List Namespace × Nat)) (hk : s.kindling = true) (hkat : s.boot.katDone = true)
    (hc : s.boot.cellarDone = false) : ∃ t, exec (.cellarEnumeration ctrls) s = .next t ∧ t.boot.cellarDone = true ∧
      t.warden.sparingLog = compactLog s.warden.sparingLog ∧ (s.img.bx3 = true → t.cellar.present = 0) ∧
      (s.img.bx3 = false → (∀ i < 16, t.cellar.present.getLsbD i = decide (i < ctrls.length)) ∧ t.pins.clrPerstN = true) := by
  have hgo : (!s.kindling || !s.boot.katDone || s.boot.cellarDone) = false := by simp [hk, hkat, hc]
  show ∃ t, execCellarEnumeration ctrls s = .next t ∧ _
  unfold execCellarEnumeration
  rw [hgo]
  refine ⟨_, rfl, rfl, rfl, fun hbx => ?_, fun hbx => ⟨fun i hi => ?_, ?_⟩⟩
  · simp [hbx]
  · simp only [hbx]
    refine (getLsbD_ones hi).trans ?_
    simp
    omega
  · simp [hbx]

/-- Settles O10: row by row, with what a restart leaves of each Mailbox, `State.refuseImage_spec`, and what KINDLING_END's boundary leaves. -/
theorem startUpSequence : Obligations.StartUpSequence := by
  unfold Obligations.StartUpSequence
  refine ⟨fun s t sigA sigB slot hslot ht => ?_, fun s => ⟨fun hp => ?_, fun hp => ?_⟩, czResetRelease_spec, State.refuseImage_spec,
    fun s q hk hq hnew => ⟨?_, fun u hu => ⟨fun hlen => ?_, fun hlen => ?_⟩⟩, State.applySparing_spec, fun s failed hk hm he => ?_,
    State.retireHearth_retired, fun s seed hk he hkat => ⟨fun u code hcode => ?_, ?_⟩, fun s ctrls hk hkat hc => ?_,
    fun s r0 w0 r1 w1 hk hc => kindlingEnd_spec r0 w0 r1 w1 hk hc, fun s r0 w0 r1 w1 hno => ?_⟩
  · subst ht
    have hraise := State.raiseRestart_wardenRestart hslot
    obtain ⟨hrun, hrec, hqspi, hlog, hstage, hrecv, hfuses⟩ := State.wardenRestart_spec hslot
    refine ⟨hrun, hrec, hqspi, hlog, hstage, hrecv, hfuses, s.wardenRestart_dev sigA sigB, fun f hf => ?_, fun b hb => ?_, ?_, fun hp => ?_,
      fun hp => ?_, fun hrun => ?_, fun hrun => ?_⟩
    · rw [State.wardenRestart_log, FnLog.restart, if_pos hf]
      exact ⟨rfl, rfl⟩
    · subst hb
      simp [State.wardenRestart, ← hslot]
    · rfl
    · show execWardenReset sigA sigB s = _
      simp only [execWardenReset, hp, if_true, hraise]
    · show execWardenReset sigA sigB s = _
      simp [execWardenReset, hp]
    · show execWardenWatchdogExpiry sigA sigB s = _
      simp only [execWardenWatchdogExpiry, hrun, if_true, hraise]
    · show execWardenWatchdogExpiry sigA sigB s = _
      simp [execWardenWatchdogExpiry, hrun]
  · show execRtcTick s = _
    simp [execRtcTick, hp]
  · show execRtcTick s = _
    simp [execRtcTick, hp]
  · show execStackDramTrained q false s = _
    unfold execStackDramTrained
    simp [hk, hnew, show ¬8 ≤ q by omega]
  · subst hu
    exact (stackTrained_of_new hk hq hnew).trans (if_neg (by simpa using hlen))
  · subst hu
    exact (stackTrained_of_new hk hq hnew).trans (if_pos (by simpa using hlen))
  · show execKindlingEmberTest failed s = _
    unfold execKindlingEmberTest
    simp [hk, hm, he]
  · show execKindlingKnownAnswerTests (some u) seed s = _
    unfold execKindlingKnownAnswerTests
    simp [hk, he, hkat, hcode]
  · obtain ⟨h1, h2, h3, h4, h5, h6⟩ := s.loadSettings_spec seed
    refine ⟨s.loadSettings seed, ?_, h1, h2, h3, h4, h5, h6⟩
    show execKindlingKnownAnswerTests none seed s = _
    unfold execKindlingKnownAnswerTests
    simp [hk, he, hkat]
  · exact cellarEnumeration_spec ctrls hk hkat hc
  · show execKindlingEnd r0 w0 r1 w1 s = _
    unfold execKindlingEnd
    rw [if_pos]
    rcases hno with h | h
    · simp [h]
    · simp [h]

end Sys2Proof.Machine
end

section
/-! PROOFS. Cold resets and trips, and the resets of ports and functions (R690, R849, R856, R921). -/
namespace Sys2Proof.Machine

/-! ### The teardown of a context, field by field -/

/-- What the teardown of a context may change. -/
structure State.TeardownFrame (s t : State) : Prop where
  rest : t = { s with
    routes := t.routes, hearths := t.hearths, serais := t.serais, tally := t.tally, chm := t.chm, depot := t.depot
    stk := t.stk, fns := t.fns, logs := t.logs, ldg := t.ldg }

namespace State.TeardownFrame

theorem refl (s : State) : s.TeardownFrame s := ⟨rfl⟩

theorem trans {a b c : State} (h : a.TeardownFrame b) (k : b.TeardownFrame c) : a.TeardownFrame c := ⟨by rw [k.rest, h.rest]⟩

end State.TeardownFrame

theorem State.markDead_frame (s : State) (ctx : Nat) (c : Ctx) : s.TeardownFrame (s.markDead ctx c) := ⟨rfl⟩

theorem State.killAll_teardownFrame (s : State) (ids : List Nat) (cause : Nat) : s.TeardownFrame (s.killAll ids cause) :=
  ⟨by obtain ⟨h⟩ := s.killAll_frame ids cause; rw [h]⟩

/-- A teardown touches the units that hold work of the context, its own record, its function's log and the Ledger's copies of its waybills. -/
theorem State.teardown_frame (s : State) (ctx : Nat) : s.TeardownFrame (s.teardown ctx) := by
  cases hx : s.ctx? ctx with
  | none => unfold State.teardown; rw [hx]; exact .refl s
  | some x =>
    cases hd : x.dead with
    | true => rw [State.teardown_of_dead hx hd]; exact .refl s
    | false =>
      obtain ⟨units, hteardown⟩ := State.teardown_of_live hx hd
      rw [hteardown, foldl_discardUnit_frame]
      exact (s.markDead_frame ctx x).trans ((State.killAll_teardownFrame ..).trans ⟨rfl⟩)

/-- A teardown makes its context DEAD and changes no other context's record. -/
theorem State.teardown_ctx? (s : State) (ctx n : Nat) :
    (s.teardown ctx).ctx? n = if n = ctx then (s.ctx? n).map fun x => { x with dead := true } else s.ctx? n := by
  cases hx : s.ctx? ctx with
  | none =>
    have hself : s.teardown ctx = s := by unfold State.teardown; rw [hx]
    rw [hself]
    split
    · next h => rw [h, hx]; rfl
    · rfl
  | some x =>
    cases hd : x.dead with
    | true =>
      rw [State.teardown_of_dead hx hd]
      split
      · next h => rw [h, hx, Option.map_some, ← hd]
      · rfl
    | false =>
      obtain ⟨units, hteardown⟩ := State.teardown_of_live hx hd
      obtain ⟨hkill⟩ := (s.markDead ctx x).killAll_frame (s.tornCmds ctx) 2
      rw [hteardown, foldl_discardUnit_frame]
      have hctx : ((s.markDead ctx x).killAll (s.tornCmds ctx) 2).ctx? n = (s.markDead ctx x).ctx? n := by rw [hkill]; rfl
      have hmark : (s.markDead ctx x).ctx? n = mapGet (mapAdj s.stk.ctxs ctx fun x => { x with dead := true }) n := rfl
      refine (hctx.trans hmark).trans ?_
      rw [mapGet_mapAdj]
      rfl

theorem foldl_teardown_frame (ids : List Nat) (s : State) : s.TeardownFrame (ids.foldl State.teardown s) := by
  induction ids generalizing s with
  | nil => exact .refl s
  | cons ctx ids ih => exact (s.teardown_frame ctx).trans (ih _)

theorem foldl_teardown_ctx? (ids : List Nat) (s : State) (n : Nat) : (ids.foldl State.teardown s).ctx? n =
    if n ∈ ids then (s.ctx? n).map fun x => { x with dead := true } else s.ctx? n := by
  induction ids generalizing s with
  | nil => rfl
  | cons ctx ids ih =>
    rw [List.foldl_cons, ih, State.teardown_ctx?]
    by_cases hself : n = ctx <;> by_cases hmem : n ∈ ids <;> simp [hself, hmem, Function.comp_def]

theorem State.mem_ctxsOf {s : State} {n : Nat} {x : Ctx} (h : s.ctx? n = some x) : n ∈ s.ctxsOf x.fn :=
  List.mem_map.2 ⟨(n, x), List.mem_filter.2 ⟨mem_of_mapGet h, by simp⟩, rfl⟩

/-- With every context of a function torn down, each of them is DEAD. -/
theorem State.dead_of_ctxsOf_torn {s : State} {f n : Nat} {x : Ctx} (h : ((s.ctxsOf f).foldl State.teardown s).ctx? n = some x) (hf : x.fn = f) :
    x.dead = true := by
  rw [foldl_teardown_ctx?] at h
  split at h
  · obtain ⟨y, -, rfl⟩ := Option.map_eq_some_iff.1 h
    rfl
  · next hn => exact absurd (hf ▸ State.mem_ctxsOf h) hn

/-! ### A function's reset -/

/-- The registers of a function's page as a reset leaves them (R690). -/
def Fn.renew (x : Fn) : Fn := { x.disable with fnCnt := 0, lastLocal := 0, lastFault := 0, resetDue := true }

/-- The state without the control commands of a function. -/
def State.dropControl (s : State) (f : Nat) : State :=
  s.mStk fun k => { k with cmds := k.cmds.filter fun p => !(p.2.fn == f && opKind p.2.opcode == some 4) }

/-- A function's reset once its contexts are down: its control commands go, its ring is disabled and its registers return (R690, R791). -/
def State.clearFn (s : State) (f : Nat) : State := ((s.dropControl f).mFn f Fn.renew).mLog f FnLog.reset

theorem State.resetFn_eq {s : State} (h : s.img.bx3 = false) (f : Nat) : s.resetFn f =
    if f = 0 then (((s.ctxsOf f).foldl State.teardown s).clearFn f).resetSelectors else ((s.ctxsOf f).foldl State.teardown s).clearFn f := by
  unfold State.resetFn
  rw [h]
  rfl

theorem State.clearFn_fn (s : State) (f : Nat) : (s.clearFn f).fn f = (s.fn f).renew := State.mFn_self (s.dropControl f) f Fn.renew

theorem State.clearFn_log (s : State) (f : Nat) : (s.clearFn f).log f = (s.log f).reset :=
  State.mLog_self ((s.dropControl f).mFn f Fn.renew) f FnLog.reset

theorem State.clearFn_ctx? (s : State) (f n : Nat) : (s.clearFn f).ctx? n = s.ctx? n := by unfold State.clearFn; rfl

theorem State.clearFn_cmds (s : State) (f : Nat) :
    (s.clearFn f).stk.cmds = s.stk.cmds.filter fun p => !(p.2.fn == f && opKind p.2.opcode == some 4) := by unfold State.clearFn; rfl

theorem State.clearFn_fuses (s : State) (f : Nat) : (s.clearFn f).fuses = s.fuses := by unfold State.clearFn; rfl

theorem State.clearFn_dev (s : State) (f : Nat) : (s.clearFn f).dev = s.dev := by unfold State.clearFn; rfl

/-- The selectors that function 0's reset clears are in none of these. -/
theorem State.resetSelectors_spec (s : State) (f : Nat) : s.resetSelectors.fn f = s.fn f ∧ s.resetSelectors.log f = s.log f ∧
    (∀ n, s.resetSelectors.ctx? n = s.ctx? n) ∧ s.resetSelectors.stk.cmds = s.stk.cmds ∧ s.resetSelectors.fuses = s.fuses ∧
    s.resetSelectors.dev = s.dev := by
  unfold State.resetSelectors State.fn State.log State.ctx?
  simp

/-- What a function's reset leaves, whichever function it is. -/
theorem State.resetFn_spec {s u : State} (h : s.img.bx3 = false) (f : Nat) (hu : u = ((s.ctxsOf f).foldl State.teardown s).clearFn f) :
    (s.resetFn f).fn f = u.fn f ∧ (s.resetFn f).log f = u.log f ∧ (∀ n, (s.resetFn f).ctx? n = u.ctx? n) ∧
    (s.resetFn f).stk.cmds = u.stk.cmds ∧ (s.resetFn f).fuses = u.fuses ∧ (s.resetFn f).dev = u.dev := by
  rw [State.resetFn_eq h, ← hu]
  split
  · exact u.resetSelectors_spec f
  · exact ⟨rfl, rfl, fun _ => rfl, rfl, rfl, rfl⟩

/-- FUNCTION_RESET's clause on one function (R690, R856). -/
theorem State.resetFn_resets {s : State} (h : s.img.bx3 = false) (f : Nat) :
    ∀ t, t = s.resetFn f → (t.fn f).en = false ∧ (t.fn f).cons = 0 ∧ (t.fn f).prod = 0 ∧ (t.fn f).resetDue = true ∧
    (t.log f).en = false ∧ (t.log f).sev = [0, 0, 0, 0] ∧ (t.log f).mbx = {} ∧ (∀ n x, t.ctx? n = some x → x.fn = f → x.dead = true) ∧
    (∀ p ∈ t.stk.cmds, p.2.fn = f → opKind p.2.opcode ≠ some 4) ∧ t.fuses = s.fuses ∧ t.dev = s.dev := by
  rintro t rfl
  obtain ⟨hfn, hlog, hctx, hcmds, hfuses, hdev⟩ := State.resetFn_spec h f rfl
  obtain ⟨hframe⟩ := foldl_teardown_frame (s.ctxsOf f) s
  have hfuses' : ((s.ctxsOf f).foldl State.teardown s).fuses = s.fuses := by rw [hframe]
  have hdev' : ((s.ctxsOf f).foldl State.teardown s).dev = s.dev := by rw [hframe]
  rw [State.clearFn_fn] at hfn
  rw [State.clearFn_log] at hlog
  rw [State.clearFn_cmds] at hcmds
  rw [State.clearFn_fuses, hfuses'] at hfuses
  rw [State.clearFn_dev, hdev'] at hdev
  refine ⟨by rw [hfn]; rfl, by rw [hfn]; rfl, by rw [hfn]; rfl, by rw [hfn]; rfl, by rw [hlog]; rfl, by rw [hlog]; rfl, by rw [hlog]; rfl, ?_, ?_,
    hfuses, hdev⟩
  · intro n x hx hf
    rw [hctx, State.clearFn_ctx?] at hx
    exact State.dead_of_ctxsOf_torn hx hf
  · intro p hp hf hop
    rw [hcmds] at hp
    simp [hf, hop] at hp

/-! ### Requests that reset -/

/-- A request that passes its first checks is served by its body (R858, R860). -/
theorem State.serve_eq {s : State} {src : Option Nat} {req b : List Byte} {code : Nat} {useArg0 useArg1 useData : Bool} {body : ReqBody}
    (hreq : s.requestOf src req = some b) (hcode : fld b 0 2 = code) (hsrc : src = none ∨ src = some 0) (hdev : s.dev ≠ .kindling)
    (hform : reqInvalid b useArg0 useArg1 useData = false) (t : State) :
    (body s b = (t, none) → s.serve src req code useArg0 useArg1 useData body = t) ∧
    ∀ r, body s b = (t, some r) → s.serve src req code useArg0 useArg1 useData body = t.respond src (s.reqTag src) { r with code := code } := by
  unfold State.serve
  rw [hreq]
  dsimp only
  rw [if_neg (by simp [hcode]), if_neg (by rcases hsrc with rfl | rfl <;> simp), if_neg (by simp [hdev]), if_neg (by simp [hform])]
  exact ⟨fun h => by simp only [h], fun r h => by simp only [h]⟩

theorem State.serve_of_none {s : State} {src : Option Nat} {req : List Byte} (hreq : s.requestOf src req = none) (code : Nat)
    (useArg0 useArg1 useData : Bool) (body : ReqBody) : s.serve src req code useArg0 useArg1 useData body = s := by
  unfold State.serve
  rw [hreq]

/-! ### The parts of the obligation -/

/-- What a cold reset keeps and what returns (R849). -/
theorem State.coldReset_spec (s t : State) (ht : t = s.coldReset) :
    t.fuses = s.fuses ∧ t.warden.qspi = s.warden.qspi ∧ t.warden.errorLog = s.warden.errorLog ∧
    t.warden.sparingLog = s.warden.sparingLog ∧ t.warden.rtc = s.warden.rtc ∧ t.warden.running = s.warden.running ∧ t.warden.stateReq = none ∧
    t.warden.imageSlot = none ∧ t.time = s.time ∧ t.mem.stack = [] ∧ t.mem.host = s.mem.host ∧ t.mem.pool = s.mem.pool ∧
    t.cellar.blocks = s.cellar.blocks ∧ t.depot = State.reset.depot ∧ t.ldg = State.reset.ldg ∧ t.stk = State.reset.stk ∧
    t.hearths = State.reset.hearths ∧
    t.serais = State.reset.serais ∧ t.tally = State.reset.tally ∧ t.tck = State.reset.tck ∧ t.routes = State.reset.routes ∧
    t.flt = State.reset.flt ∧
    (s.dev = .off → t.dev = .off) ∧ (s.dev ≠ .off → t.dev = .kindling) := by
  unfold State.coldReset at ht
  rw [s.withdrawRequest_frame] at ht
  subst ht
  refine ⟨rfl, rfl, rfl, rfl, rfl, rfl, rfl, rfl, rfl, rfl, rfl, rfl, rfl, rfl, rfl, rfl, rfl, rfl, rfl, rfl, rfl, rfl, ?_, ?_⟩
  · intro h
    exact if_pos (beq_iff_eq.2 h)
  · intro h
    exact if_neg (by simpa using h)

theorem execRailTrip_of_off {s : State} (h : s.dev = .off) : exec .railTrip s = .next (s.mPins fun p => { p with railsOk := false }) :=
  if_pos (beq_iff_eq.2 h)

/-- A rail trip of a part that is on stops it and raises no fault (R921). -/
theorem execRailTrip_of_on {s : State} (h : s.dev ≠ .off) : ∃ t, exec .railTrip s = .next t ∧ t.dev = .off ∧ t.pins.railsOk = false ∧
    t.pins.clocksStopped = true ∧ t.xlt.port0.up = false ∧ t.xlt.port1.up = false ∧ t.flt = s.flt ∧ t.warden.qspi = s.warden.qspi ∧
    t.warden.stateReq = none := by
  refine ⟨s.trip.mPins fun p => { p with railsOk := false }, if_neg (by simpa using h), ?_⟩
  unfold State.trip
  rw [s.withdrawRequest_frame]
  exact ⟨rfl, rfl, rfl, rfl, rfl, rfl, rfl, rfl⟩

/-- COLD_RESET, answered and carried out in Banked and Quenched, in the wrong state else (R856, R858). -/
theorem execColdReset_of_request {s : State} {src : Option Nat} {req b : List Byte} (sigA sigB : Bool) (hreq : s.requestOf src req = some b)
    (hcode : fld b 0 2 = 0x40) (hsrc : src = none ∨ src = some 0) (hdev : s.dev ≠ .kindling) (hform : reqInvalid b false false false = false) :
    (s.dev = .banked ∨ s.dev = .quenched → exec (.coldReset src req sigA sigB) s = .next
      (((s.respond src (s.reqTag src) { code := 0x40, status := 0 }).coldReset).kindle sigA sigB)) ∧
    (s.dev ≠ .banked → s.dev ≠ .quenched → exec (.coldReset src req sigA sigB) s = .next
      (s.respond src (s.reqTag src) { code := 0x40, status := 4 })) := by
  refine ⟨fun h => congrArg Host.Outcome.next ((State.serve_eq hreq hcode hsrc hdev hform _).1 (if_pos ?_)),
    fun hb hq => congrArg Host.Outcome.next ((State.serve_eq hreq hcode hsrc hdev hform s).2 (rspOk 0x40 4) (if_neg ?_))⟩
  · simpa using h
  · simp [hb, hq]

/-- The port resets' own step (R849). -/
theorem execPortReset_spec (s u v : State) (hot : Bool) (rate width : Nat) (hu : u = s.mPins fun p => { p with perst0 := p.perst0 || !hot })
    (hv : v = s.mPins fun p => { p with perst1 := p.perst1 || !hot }) :
    (s.dev = .off → exec (.port0ConventionalReset hot rate width) s = .next u ∧ exec (.port1ConventionalReset hot rate width) s = .next v) ∧
    (s.dev ≠ .off →
      exec (.port0ConventionalReset hot rate width) s = .next ((if s.presented then u.resetFns false else u).mXlt fun x => { x with
        port0 := x.port0.reset hot rate width }) ∧
      exec (.port1ConventionalReset hot rate width) s = .next (v.mXlt fun x => { x with port1 := x.port1.reset hot rate width })) := by
  subst hu hv
  exact ⟨fun h => ⟨if_pos (beq_iff_eq.2 h), if_pos (beq_iff_eq.2 h)⟩,
    fun h => ⟨if_neg (by simpa using h), if_neg (by simpa using h)⟩⟩

theorem LinkPort.reset_up (l : LinkPort) (rate width : Nat) : (l.reset false rate width).up = false ∧ (l.reset true rate width).up = l.up := by
  cases h : l.up <;> simp [LinkPort.reset, h]

theorem State.resetFns_all (s : State) : s.resetFns false = (List.range (s.img.totalVfs + 1)).foldl State.resetFn s := by
  simp [State.resetFns]

/-- FUNCTION_RESET reaches one function, or with function 0 every one, or on a clear of VF Enable every virtual one (R690, R856). -/
theorem execFunctionReset_spec {s : State} {fn : Nat} (hp : s.presented = true) (hf : s.fnExists fn = true) :
    (fn ≠ 0 → exec (.functionReset fn false) s = .next (s.resetFn fn) ∧ exec (.functionReset fn true) s = .next s) ∧
    (fn = 0 → exec (.functionReset fn false) s = .next ((List.range (s.img.totalVfs + 1)).foldl State.resetFn s) ∧
      exec (.functionReset fn true) s = .next (((List.range (s.img.totalVfs + 1)).filter fun f => f != 0).foldl State.resetFn s)) := by
  have hexec (vf : Bool) : exec (.functionReset fn vf) s = (if vf then (if fn = 0 then .next (s.resetFns true) else .next s)
      else if fn = 0 then .next (s.resetFns false) else .next (s.resetFn fn)) := if_neg (by simp [hp, hf])
  refine ⟨fun h => ⟨?_, ?_⟩, fun h => ⟨?_, ?_⟩⟩ <;> rw [hexec]
  · rw [if_neg (by simp), if_neg h]
  · rw [if_pos rfl, if_neg h]
  · rw [if_neg (by simp), if_pos h, State.resetFns_all]
  · rw [if_pos rfl, if_pos h]
    rfl

/-- PERST_RELEASE trains the port it names once the dies are out of reset (R846, R871). -/
theorem execPerstRelease_spec {s : State} {port : Nat} (rate width : Nat) (hp : s.presented = true ∨ s.kindling = true)
    (hport : port = 0 ∨ port = 1 ∧ s.img.bx3 = false) :
    ∃ t, exec (.perstRelease port rate width) s = .next t ∧
      (port = 0 → t.pins.perst0 = false ∧ t.xlt.port0.up = true ∧ t.xlt.port0.rate = rate ∧ t.xlt.port1 = s.xlt.port1) ∧
      (port = 1 → t.pins.perst1 = false ∧ t.xlt.port1.up = true ∧ t.xlt.port1.rate = rate ∧ t.xlt.port0 = s.xlt.port0) := by
  have hon : ¬ (!(s.presented || s.kindling)) = true := by
    rcases hp with hp | hp <;> simp [hp]
  rcases hport with rfl | ⟨rfl, hbx⟩
  · refine ⟨_, if_neg hon, fun _ => ⟨?_, rfl, rfl, rfl⟩, fun h => absurd h (by decide)⟩
    exact Bool.and_false _
  · refine ⟨_, (if_neg hon).trans ((if_neg (by decide)).trans (if_pos ⟨rfl, ?_⟩)), fun h => absurd h (by decide),
      fun _ => ⟨Bool.and_false _, rfl, rfl, rfl⟩⟩
    simpa using hbx

/-- Settles O11: the clauses in the obligation's order. -/
theorem resetsAndTrips : Obligations.ResetsAndTrips := by
  unfold Obligations.ResetsAndTrips
  refine ⟨State.coldReset_spec, fun s => ⟨rfl, rfl, execRailTrip_of_off, execRailTrip_of_on⟩, ?_, ?_, execPortReset_spec,
    LinkPort.reset_up, ?_, ?_, ?_⟩
  · intro s src req b sigA sigB hreq hcode hsrc hdev hform
    exact execColdReset_of_request sigA sigB hreq hcode hsrc hdev hform
  · intro s src req sigA sigB hreq
    exact congrArg _ (State.serve_of_none hreq ..)
  · exact fun s fn hp hf => execFunctionReset_spec hp hf
  · exact fun s t f hbx ht => State.resetFn_resets hbx f t ht
  · exact fun s port rate width hp hport => execPerstRelease_spec rate width hp hport

end Sys2Proof.Machine
end

section
/-! PROOFS. Walks, completions and invalidations (R582 to R600). -/
namespace Sys2Proof.Machine

/-! ### A run-time translation, field by field -/

theorem Xlt.stc_setStc (x : Xlt) (die : Nat) (l : List (Nat × PageTr)) : (x.setStc die l).stc die = l := by
  unfold Xlt.setStc Xlt.stc
  split <;> rfl

/-- Counting walks changes the host link's counters and the walk caches. -/
theorem State.countWalks_frame (s : State) (die : Nat) (c : Ctx) (p : PageTr) : ∃ wc0 wc1, s.countWalks die c [p] = { s with xlt := { s.xlt with
    walks := s.xlt.walks + 1, atsReqs := (s.countWalks die c [p]).xlt.atsReqs, wc0 := wc0, wc1 := wc1 } } := by
  unfold State.countWalks State.keepWalk
  rw [List.foldl_cons, List.foldl_nil]
  split
  · exact ⟨s.xlt.wc0, s.xlt.wc1, rfl⟩
  · by_cases hd : die = 0
    · exact ⟨_, s.xlt.wc1, by simp only [hd, if_true]; rfl⟩
    · exact ⟨s.xlt.wc0, _, by simp only [hd, if_false]; rfl⟩

theorem State.putTlb_tlb (s : State) (h ctx : Nat) (p : PageTr) : ((s.putTlb h ctx p).hearth h).tlb = ((ctx, p) :: (s.hearth h).tlb).take 512 := by
  unfold State.putTlb
  rw [State.mHearth_self]

theorem State.putTlb_xlt (s : State) (h ctx : Nat) (p : PageTr) : (s.putTlb h ctx p).xlt = s.xlt := by unfold State.putTlb; rfl

theorem State.putTlb_depot (s : State) (h ctx : Nat) (p : PageTr) : (s.putTlb h ctx p).depot = s.depot := by unfold State.putTlb; rfl

theorem State.putStc_hearth (s : State) (die ctx h : Nat) (p : PageTr) : (s.putStc die ctx p).hearth h = s.hearth h := by unfold State.putStc; rfl

theorem State.putStc_depot (s : State) (die ctx : Nat) (p : PageTr) : (s.putStc die ctx p).depot = s.depot := by unfold State.putStc; rfl

theorem State.putStc_xlt (s : State) (die ctx : Nat) (p : PageTr) :
    (s.putStc die ctx p).xlt = s.xlt.setStc die (((ctx, p) :: s.xlt.stc die).take 16384) := by unfold State.putStc; rfl

theorem Xlt.setStc_walks (x : Xlt) (die : Nat) (l : List (Nat × PageTr)) : (x.setStc die l).walks = x.walks := by
  unfold Xlt.setStc
  split <;> rfl

/-- A walk that finds its page leaves it in both caches (R589, R595). -/
theorem State.countWalks_put_spec (s : State) (h ctx : Nat) (c : Ctx) (p : PageTr) {t : State}
    (ht : t = ((s.countWalks (hearthDie h) c [p]).putStc (hearthDie h) ctx p).putTlb h ctx p) :
    t.depot = s.depot ∧ (t.hearth h).tlb = ((ctx, p) :: (s.hearth h).tlb).take 512 ∧
    t.xlt.stc (hearthDie h) = ((ctx, p) :: s.xlt.stc (hearthDie h)).take 16384 ∧ t.xlt.walks = s.xlt.walks + 1 := by
  obtain ⟨wc0, wc1, hwalk⟩ := s.countWalks_frame (hearthDie h) c p
  generalize s.countWalks (hearthDie h) c [p] = u at hwalk ht
  have hhearth : u.hearth h = s.hearth h := by rw [hwalk]; rfl
  have hdepot : u.depot = s.depot := by rw [hwalk]
  have hstc : u.xlt.stc (hearthDie h) = s.xlt.stc (hearthDie h) := by rw [hwalk]; rfl
  have hwalks : u.xlt.walks = s.xlt.walks + 1 := by rw [hwalk]
  subst ht
  rw [State.putTlb_depot, State.putStc_depot, State.putTlb_tlb, State.putStc_hearth, State.putTlb_xlt, State.putStc_xlt, Xlt.stc_setStc,
    Xlt.setStc_walks, hhearth, hdepot, hstc, hwalks]
  exact ⟨rfl, rfl, rfl, rfl⟩

/-- What a Hearth's translation does to its caches, by where it finds the page (R582, R595). -/
theorem State.runTr_spec (s : State) (h ctx : Nat) (c : Ctx) (da : Nat) {t : State} (ht : t = (s.runTr h ctx c da).2) :
    t.depot = s.depot ∧ (2 ^ 52 ≤ da → t = s) ∧
    (∀ p, da < 2 ^ 52 → findCtxTr (s.hearth h).tlb ctx da = some p → t = s) ∧
    (∀ p, da < 2 ^ 52 → findCtxTr (s.hearth h).tlb ctx da = none → findCtxTr (s.xlt.stc (hearthDie h)) ctx da = some p →
      (t.hearth h).tlb = ((ctx, p) :: (s.hearth h).tlb).take 512 ∧ t.xlt = s.xlt) ∧
    (∀ p, da < 2 ^ 52 → findCtxTr (s.hearth h).tlb ctx da = none → findCtxTr (s.xlt.stc (hearthDie h)) ctx da = none →
      s.walk (hearthDie h) c da = .ok p → (t.hearth h).tlb = ((ctx, p) :: (s.hearth h).tlb).take 512 ∧
        t.xlt.stc (hearthDie h) = ((ctx, p) :: s.xlt.stc (hearthDie h)).take 16384 ∧ t.xlt.walks = s.xlt.walks + 1) ∧
    (∀ e, da < 2 ^ 52 → findCtxTr (s.hearth h).tlb ctx da = none → findCtxTr (s.xlt.stc (hearthDie h)) ctx da = none →
      s.walk (hearthDie h) c da = .error e → (t.hearth h).tlb = (s.hearth h).tlb ∧
        t.xlt = { s.xlt with walks := s.xlt.walks + 1 }) := by
  unfold State.runTr at ht
  by_cases hda : 2 ^ 52 ≤ da
  · rw [if_pos hda] at ht
    simp only [ht, true_and, implies_true]
    grind
  rw [if_neg hda] at ht
  cases htlb : findCtxTr (s.hearth h).tlb ctx da with
  | some q =>
    simp only [htlb] at ht
    simp [ht]
  | none =>
    cases hstc : findCtxTr (s.xlt.stc (hearthDie h)) ctx da with
    | some q =>
      simp only [htlb, hstc] at ht
      subst ht
      refine ⟨s.putTlb_depot h ctx q, fun h => absurd h hda, by simp, fun p _ _ hp => ?_, by simp, by simp⟩
      obtain rfl : q = p := by simpa using hp
      exact ⟨s.putTlb_tlb h ctx q, s.putTlb_xlt h ctx q⟩
    | none =>
      cases hwalk : s.walk (hearthDie h) c da with
      | error e =>
        simp only [htlb, hstc, hwalk] at ht
        subst ht
        exact ⟨rfl, fun h => absurd h hda, by simp, by simp, by simp, fun _ _ _ _ _ => ⟨rfl, rfl⟩⟩
      | ok q =>
        simp only [htlb, hstc, hwalk] at ht
        obtain ⟨hdepot, hcaches⟩ := s.countWalks_put_spec h ctx c q ht
        refine ⟨hdepot, fun h => absurd h hda, by simp, by simp, fun p _ _ _ hp => ?_, by simp⟩
        obtain rfl : q = p := by simpa using hp
        exact hcaches

/-! ### A parity error -/

theorem findCtxTr_filter_eq_none (l : List (Nat × PageTr)) (ctx da : Nat) :
    findCtxTr (l.filter fun p => !(p.1 == ctx && decide (p.2.da ≤ da ∧ da < p.2.da + p.2.size))) ctx da = none := by
  unfold findCtxTr
  rw [Option.map_eq_none_iff, List.find?_eq_none]
  intro p hp hfound
  have hkeep := (List.mem_filter.1 hp).2
  rw [hfound] at hkeep
  exact Bool.noConfusion hkeep

/-- A translation dropped for parity stands in neither cache (R589). -/
theorem State.dropTr_spec (s : State) (h ctx : Nat) (c : Ctx) (da : Nat) {u : State} (hu : u = s.dropTr h ctx c da) :
    findCtxTr (u.hearth h).tlb ctx da = none ∧ findCtxTr (u.xlt.stc (hearthDie h)) ctx da = none := by
  have htlb : (u.hearth h).tlb = (s.hearth h).tlb.filter fun p => !(p.1 == ctx && decide (p.2.da ≤ da ∧ da < p.2.da + p.2.size)) := by
    rw [hu]
    exact congrArg Hearth.tlb (s.mHearth_self h fun u =>
      { u with tlb := u.tlb.filter fun p => !(p.1 == ctx && decide (p.2.da ≤ da ∧ da < p.2.da + p.2.size)) })
  have hstc : u.xlt.stc (hearthDie h) =
      (s.xlt.stc (hearthDie h)).filter fun p => !(p.1 == ctx && decide (p.2.da ≤ da ∧ da < p.2.da + p.2.size)) := by
    rw [hu, ← s.xlt.stc_setStc (hearthDie h) (List.filter _ _)]
    unfold State.dropTr Xlt.stc
    by_cases hd : hearthDie h = 0 <;> simp only [hd, if_true, if_false] <;> rfl
  rw [htlb, hstc]
  exact ⟨findCtxTr_filter_eq_none .., findCtxTr_filter_eq_none ..⟩

theorem State.dropTr_live (s : State) (h ctx : Nat) (c : Ctx) (da : Nat) : (s.dropTr h ctx c da).live = s.live := by unfold State.dropTr; rfl

theorem State.dropTr_ctx? (s : State) (h ctx : Nat) (c : Ctx) (da n : Nat) : (s.dropTr h ctx c da).ctx? n = s.ctx? n := by
  unfold State.dropTr; rfl

theorem State.dropTr_inService (s : State) (h ctx : Nat) (c : Ctx) (da : Nat) :
    ((s.dropTr h ctx c da).hearth h).inService = (s.hearth h).inService := by
  have hself := congrArg Hearth.inService (s.mHearth_self h fun u =>
    { u with tlb := u.tlb.filter fun p => !(p.1 == ctx && decide (p.2.da ≤ da ∧ da < p.2.da + p.2.size)) })
  exact hself

theorem execPageWalkComplete_eq {s : State} {h ctx : Nat} {c : Ctx} (da : Nat) (hl : s.live = true) (hs : (s.hearth h).inService = true)
    (hc : s.ctx? ctx = some c) : exec (.pageWalkComplete h ctx da false) s = .next (s.runTr h ctx c da).2 ∧
    exec (.pageWalkComplete h ctx da true) s = .next
      (((s.dropTr h ctx c da).mXlt fun x => { x with parity := x.parity + 1 }).runTr h ctx c da).2 := by
  constructor <;>
  · show execPageWalkComplete _ _ _ _ _ = _
    unfold execPageWalkComplete
    rw [hl, hs, hc]
    rfl

/-- A walk with a parity error acts as one after the cached translation has been dropped (R589). -/
theorem execPageWalkComplete_parity {s u : State} {h ctx : Nat} {c : Ctx} (da : Nat) (hl : s.live = true) (hs : (s.hearth h).inService = true)
    (hc : s.ctx? ctx = some c) (hu : u = (s.dropTr h ctx c da).mXlt fun x => { x with parity := x.parity + 1 }) :
    exec (.pageWalkComplete h ctx da true) s = exec (.pageWalkComplete h ctx da false) u ∧ findCtxTr (u.hearth h).tlb ctx da = none ∧
    findCtxTr (u.xlt.stc (hearthDie h)) ctx da = none := by
  obtain ⟨htlb, hstc⟩ := s.dropTr_spec h ctx c da rfl
  have hlive := s.dropTr_live h ctx c da
  have hctx := s.dropTr_ctx? h ctx c da ctx
  have hin := s.dropTr_inService h ctx c da
  have hexec := (execPageWalkComplete_eq da hl hs hc).2
  generalize s.dropTr h ctx c da = v at hu htlb hstc hlive hctx hin hexec
  subst hu
  refine ⟨hexec.trans (execPageWalkComplete_eq da ?_ ?_ ?_).1.symm, htlb, hstc⟩
  · exact hlive.trans hl
  · exact hin.trans hs
  · exact hctx.trans hc

/-! ### Invalidations -/

/-- What the part does to what it holds when translations are invalidated: contexts among ctxs may be torn down and tables go offline, and
nothing else of what is stated here changes (R191, R600). -/
structure State.InvalFrame (ctxs : List Nat) (s t : State) : Prop where
  mem : t.mem = s.mem
  tlb : ∀ h, (t.hearth h).tlb = (s.hearth h).tlb
  xlt : t.xlt = { s.xlt with invalTeardowns := t.xlt.invalTeardowns }
  ctx : ∀ k, k ∉ ctxs → t.ctx? k = s.ctx? k

namespace State.InvalFrame

theorem refl (ctxs : List Nat) (s : State) : s.InvalFrame ctxs s := ⟨rfl, fun _ => rfl, rfl, fun _ _ => rfl⟩

theorem trans {ctxs : List Nat} {a b c : State} (h : a.InvalFrame ctxs b) (k : b.InvalFrame ctxs c) : a.InvalFrame ctxs c :=
  ⟨k.mem.trans h.mem, fun n => (k.tlb n).trans (h.tlb n), by rw [k.xlt, h.xlt], fun n hn => (k.ctx n hn).trans (h.ctx n hn)⟩

theorem foldl {α : Type} {ctxs : List Nat} {f : State → α → State} {l : List α}
    (hf : ∀ (s : State), ∀ x ∈ l, s.InvalFrame ctxs (f s x)) (s : State) :
    s.InvalFrame ctxs (l.foldl f s) := by
  induction l generalizing s with
  | nil => exact .refl ctxs s
  | cons x l ih => exact (hf s x List.mem_cons_self).trans (ih (fun s y hy => hf s y (List.mem_cons_of_mem _ hy)) _)

theorem raiseAs (ctxs : List Nat) (s : State) (c : Nat) (r : FaultRec) : s.InvalFrame ctxs (s.raiseAs c r) := by
  rw [State.raiseAs_frame]
  exact ⟨rfl, fun _ => rfl, rfl, fun _ _ => rfl⟩

theorem mTable (ctxs : List Nat) (s : State) (tid : Nat) (f : Table → Table) : s.InvalFrame ctxs (s.mTable tid f) :=
  ⟨rfl, fun _ => rfl, rfl, fun _ _ => rfl⟩

theorem raise (ctxs : List Nat) (s : State) (r : FaultRec) : s.InvalFrame ctxs (s.raise r) := raiseAs ctxs s _ r

end State.InvalFrame

/-- A part of a looked-up entry after a map over the entries. -/
theorem mapGetD_map_part {α β : Type} (π : α → β) (f : β → β) (g : Nat × α → Nat × α) (l : Map α) (k : Nat) (d : α)
    (hkey : ∀ p, (g p).1 = p.1) (hpart : ∀ p, π (g p).2 = f (π p.2)) (hd : π d = f (π d)) :
    π (mapGetD (l.map g) k d) = f (π (mapGetD l k d)) := by
  induction l with
  | nil => exact hd
  | cons p l ih =>
    unfold mapGetD at ih ⊢
    obtain ⟨a, v⟩ := p
    obtain ⟨⟨b, w⟩, hg⟩ : ∃ q, g (a, v) = q := ⟨_, rfl⟩
    have hb : b = a := by simpa [hg] using hkey (a, v)
    have hw : π w = f (π v) := by simpa [hg] using hpart (a, v)
    simp only [List.map_cons, hg, mapGet, hb]
    split
    · exact hw
    · exact ih

/-- What a command drops leaves the TLBs. -/
theorem Hearths.drop_tlb (u : Hearths) (cid h : Nat) : (mapGetD (u.drop cid).logical h {}).tlb = (mapGetD u.logical h {}).tlb := by
  unfold Hearths.drop
  exact mapGetD_map_part Hearth.tlb id _ u.logical h {} (fun _ => rfl) (fun _ => rfl) rfl

theorem State.killCmd_tlb (s : State) (cid cause h : Nat) : ((s.killCmd cid cause).hearth h).tlb = (s.hearth h).tlb := by
  cases hc : s.cmd? cid with
  | none => rw [State.killCmd_of_none hc]
  | some c =>
    unfold State.hearth
    rw [State.killCmd_hearths hc, Hearths.drop_tlb]

theorem State.killAll_tlb (s : State) (ids : List Nat) (cause h : Nat) : ((s.killAll ids cause).hearth h).tlb = (s.hearth h).tlb := by
  induction ids generalizing s with
  | nil => rfl
  | cons cid ids ih =>
    rw [State.killAll_cons, ih]
    exact s.killCmd_tlb cid cause h

theorem State.teardown_tlb (s : State) (ctx h : Nat) : ((s.teardown ctx).hearth h).tlb = (s.hearth h).tlb := by
  cases hx : s.ctx? ctx with
  | none => unfold State.teardown; rw [hx]
  | some x =>
    cases hd : x.dead with
    | true => rw [State.teardown_of_dead hx hd]
    | false =>
      obtain ⟨-, -, -, -, hhearths, -⟩ := State.teardown_spec hx hd rfl
      have hh : (s.teardown ctx).hearth h = ((s.markDead ctx x).killAll (s.tornCmds ctx) 2).hearth h := by unfold State.hearth; rw [hhearths]
      rw [hh, State.killAll_tlb]
      rfl

namespace State.InvalFrame

theorem teardown {ctxs : List Nat} (s : State) {ctx : Nat} (hctx : ctx ∈ ctxs) : s.InvalFrame ctxs (s.teardown ctx) where
  mem := by obtain ⟨h⟩ := s.teardown_frame ctx; rw [h]
  tlb := s.teardown_tlb ctx
  xlt := by obtain ⟨h⟩ := s.teardown_frame ctx; rw [h]
  ctx := fun k hk => by rw [State.teardown_ctx?, if_neg (by rintro rfl; exact hk hctx)]

theorem heldChanged {ctxs : List Nat} (s : State) {ctx : Nat} (hctx : ctx ∈ ctxs) (da : Nat) : s.InvalFrame ctxs (s.heldChanged ctx da) := by
  unfold State.heldChanged State.tear
  exact ((raiseAs ctxs s 4 _).trans (teardown _ hctx)).trans ⟨rfl, fun _ => rfl, rfl, fun _ _ => rfl⟩

theorem redoHeld (s : State) (ctxs : List Nat) (hit : PageTr → Bool) (same : Ctx → PageTr → Bool) :
    s.InvalFrame ctxs (s.redoHeld ctxs hit same) := by
  unfold State.redoHeld
  refine foldl (fun s n hn => ?_) s
  split
  · exact .refl ctxs s
  · split
    · exact .refl ctxs s
    · split
      · exact heldChanged s hn _
      · exact .refl ctxs s

theorem invalidateTables (ctxs : List Nat) (s : State) (mine : Table → Bool) (hit : Table → Nat → Nat → Bool) :
    s.InvalFrame ctxs (s.invalidateTables mine hit) := by
  unfold State.invalidateTables
  refine foldl (fun s tid _ => ?_) s
  split
  · exact .refl ctxs s
  · dsimp only
    split
    · exact (mTable ctxs s tid _).trans (raise ctxs _ _)
    · exact .refl ctxs s

end State.InvalFrame

theorem State.dropCaches_tlb (s : State) (ctxs : List Nat) (hit : PageTr → Bool) (h : Nat) :
    ((s.dropCaches ctxs hit).hearth h).tlb = (s.hearth h).tlb.filter fun p => !(ctxs.contains p.1 && hit p.2) :=
  mapGetD_map_part Hearth.tlb (List.filter fun p => !(ctxs.contains p.1 && hit p.2)) _ s.hearths.logical h {} (fun _ => rfl) (fun _ => rfl) rfl

theorem State.dropCaches_xlt (s : State) (ctxs : List Nat) (hit : PageTr → Bool) : ∃ wc0 wc1, (s.dropCaches ctxs hit).xlt = { s.xlt with
    stc0 := s.xlt.stc0.filter fun p => !(ctxs.contains p.1 && hit p.2)
    stc1 := s.xlt.stc1.filter fun p => !(ctxs.contains p.1 && hit p.2)
    wc0 := wc0, wc1 := wc1 } := ⟨_, _, rfl⟩

theorem State.dropCaches_mem (s : State) (ctxs : List Nat) (hit : PageTr → Bool) : (s.dropCaches ctxs hit).mem = s.mem := by
  unfold State.dropCaches; rfl

theorem State.dropCaches_stk (s : State) (ctxs : List Nat) (hit : PageTr → Bool) : (s.dropCaches ctxs hit).stk = s.stk := by
  unfold State.dropCaches; rfl

/-! ### The two invalidation rows -/

/-- The numbers of a function's contexts, or of the one context of it that is named. -/
theorem filter_owned (owned : List Nat) (all : Bool) (n : Nat) :
    (if all = true then owned else owned.filter (· == n)) = owned.filter fun k => all || k == n := by
  cases all <;> simp

theorem execInvalidateTranslations_refuse {s : State} {cid : Nat} {c : Cmd} {x : Ctx} (hc : s.ctl? cid 0x25 = some (c, x))
    (h : (bit (c.arg 34 1) 0 = false ∧
      ((s.stk.ctxs.filter fun p => p.2.fn == c.fn).map (·.1)).filter (fun k => bit (c.arg 34 1) 0 || k == c.arg 32 2) = []) ∨
      c.arg 40 8 % 4096 ≠ 0 ∨ c.arg 48 8 % 4096 ≠ 0) :
    exec (.invalidateTranslations cid) s = .next (s.refuse cid c { code := 0x717 }) := by
  show execInvalidateTranslations _ _ = _
  unfold execInvalidateTranslations
  rw [hc]
  dsimp only
  rw [filter_owned, if_pos]
  rcases h with ⟨hall, hnone⟩ | h | h
  · rw [hnone, hall]
    rfl
  · simp [h]
  · simp [h]

/-- The state of an accepted INVALIDATE_TRANSLATIONS before it becomes pending: the caches are emptied and the held pages tried again. -/
def State.invalidateCtxs (s : State) (cid : Nat) (ctxs : List Nat) (a n : Nat) : State :=
  let hit (t : PageTr) : Bool := meets t.da t.size a n
  let s := (s.dropCaches ctxs hit).mCmd cid fun c => { c with st := .running }
  (s.redoHeld ctxs hit s.samePage).invalidateTables (fun t => ctxs.contains t.ctx) fun _ da m => meets da m a n

theorem execInvalidateTranslations_eq {s : State} {cid : Nat} {c : Cmd} {x : Ctx} {ctxs : List Nat} {a n : Nat}
    (hc : s.ctl? cid 0x25 = some (c, x))
    (hctxs : ctxs = ((s.stk.ctxs.filter fun p => p.2.fn == c.fn).map (·.1)).filter fun k => bit (c.arg 34 1) 0 || k == c.arg 32 2)
    (ha : a = (if c.arg 48 8 = 0 then 0 else c.arg 40 8)) (hn : n = (if c.arg 48 8 = 0 then 2 ^ 64 else c.arg 48 8))
    (hsome : bit (c.arg 34 1) 0 = true ∨ ctxs ≠ []) (hstart : c.arg 40 8 % 4096 = 0) (hlen : c.arg 48 8 % 4096 = 0) :
    exec (.invalidateTranslations cid) s = .next ((s.invalidateCtxs cid ctxs a n).mXlt fun x => { x with
      pendingInv := x.pendingInv ++ [{ ctxs := ctxs, first := a, len := n, cid := some cid }] }) := by
  show execInvalidateTranslations _ _ = _
  unfold execInvalidateTranslations
  rw [hc]
  dsimp only
  rw [filter_owned, ← hctxs, if_neg, ← ha, ← hn]
  · rfl
  · rcases hsome with hall | hne
    · simp [hall, hstart, hlen]
    · cases hl : ctxs with
      | nil => exact absurd hl hne
      | cons k ks => simp [hstart, hlen]

/-- What an accepted invalidation leaves (R599, R600). -/
theorem State.invalidateCtxs_spec (s : State) (cid : Nat) (ctxs : List Nat) (a n : Nat) {u : State} (hu : u = s.invalidateCtxs cid ctxs a n) :
    u.mem = s.mem ∧ (∀ h, (u.hearth h).tlb = (s.hearth h).tlb.filter fun p => !(ctxs.contains p.1 && meets p.2.da p.2.size a n)) ∧
    u.xlt.stc0 ++ u.xlt.stc1 = (s.xlt.stc0 ++ s.xlt.stc1).filter (fun p => !(ctxs.contains p.1 && meets p.2.da p.2.size a n)) ∧
    u.xlt.pendingInv = s.xlt.pendingInv ∧ ∀ k, k ∉ ctxs → u.ctx? k = s.ctx? k := by
  have htlb := s.dropCaches_tlb ctxs fun t => meets t.da t.size a n
  obtain ⟨wc0, wc1, hxlt⟩ := s.dropCaches_xlt ctxs fun t => meets t.da t.size a n
  have hmem := s.dropCaches_mem ctxs fun t => meets t.da t.size a n
  have hstk := s.dropCaches_stk ctxs fun t => meets t.da t.size a n
  unfold State.invalidateCtxs at hu
  dsimp only at hu
  generalize s.dropCaches ctxs (fun t => meets t.da t.size a n) = v at hu htlb hxlt hmem hstk
  obtain ⟨kmem, ktlb, kxlt, kctx⟩ : (v.mCmd cid fun c => { c with st := .running }).InvalFrame ctxs u := by
    rw [hu]
    exact (State.InvalFrame.redoHeld ..).trans (State.InvalFrame.invalidateTables ..)
  have kxlt' : u.xlt = { v.xlt with invalTeardowns := u.xlt.invalTeardowns } := kxlt
  refine ⟨kmem.trans hmem, fun h => (ktlb h).trans (htlb h), ?_, ?_, fun k hk => (kctx k hk).trans ?_⟩
  · rw [kxlt', hxlt]
    exact (List.filter_append ..).symm
  · rw [kxlt', hxlt]
  · show mapGet v.stk.ctxs k = mapGet s.stk.ctxs k
    rw [hstk]

theorem mem_filter_unless {ctxs : List Nat} {l : List (Nat × PageTr)} {hit : PageTr → Bool} {p : Nat × PageTr}
    (h : p ∈ l.filter fun p => !(ctxs.contains p.1 && hit p.2)) : p ∈ l ∧ ¬(p.1 ∈ ctxs ∧ hit p.2 = true) := by
  obtain ⟨hmem, hkeep⟩ := List.mem_filter.1 h
  refine ⟨hmem, fun ⟨hin, hhit⟩ => ?_⟩
  simp [hin, hhit] at hkeep

theorem execInvalidateTranslations_spec {s : State} {cid : Nat} {c : Cmd} {x : Ctx} {ctxs : List Nat} {a n : Nat}
    (hc : s.ctl? cid 0x25 = some (c, x))
    (hctxs : ctxs = ((s.stk.ctxs.filter fun p => p.2.fn == c.fn).map (·.1)).filter fun k => bit (c.arg 34 1) 0 || k == c.arg 32 2)
    (ha : a = (if c.arg 48 8 = 0 then 0 else c.arg 40 8)) (hn : n = (if c.arg 48 8 = 0 then 2 ^ 64 else c.arg 48 8))
    (hsome : bit (c.arg 34 1) 0 = true ∨ ctxs ≠ []) (hstart : c.arg 40 8 % 4096 = 0) (hlen : c.arg 48 8 % 4096 = 0) :
    ∃ t, exec (.invalidateTranslations cid) s = .next t ∧ t.mem = s.mem ∧
      (∀ h, ∀ p ∈ (t.hearth h).tlb, p ∈ (s.hearth h).tlb ∧ ¬(p.1 ∈ ctxs ∧ meets p.2.da p.2.size a n = true)) ∧
      (∀ p ∈ t.xlt.stc0 ++ t.xlt.stc1, p ∈ s.xlt.stc0 ++ s.xlt.stc1 ∧ ¬(p.1 ∈ ctxs ∧ meets p.2.da p.2.size a n = true)) ∧
      t.xlt.pendingInv = s.xlt.pendingInv ++ [{ ctxs := ctxs, first := a, len := n, cid := some cid }] ∧
      (∀ k, k ∉ ctxs → t.ctx? k = s.ctx? k) := by
  refine ⟨_, execInvalidateTranslations_eq hc hctxs ha hn hsome hstart hlen, ?_⟩
  obtain ⟨hmem, htlb, hstc, hpend, hctx⟩ := s.invalidateCtxs_spec cid ctxs a n rfl
  generalize s.invalidateCtxs cid ctxs a n = u at hmem htlb hstc hpend hctx
  refine ⟨hmem, fun h p hp => ?_, fun p hp => ?_, ?_, hctx⟩
  · have hp' : p ∈ (u.hearth h).tlb := hp
    rw [htlb] at hp'
    exact mem_filter_unless (hit := fun q => meets q.da q.size a n) hp'
  · have hp' : p ∈ u.xlt.stc0 ++ u.xlt.stc1 := hp
    rw [hstc] at hp'
    exact mem_filter_unless (hit := fun q => meets q.da q.size a n) hp'
  · rw [← hpend]
    rfl

/-- A page that translates again to the same address leaves every context as it is (R600). -/
theorem State.redoHeld_of_same (s : State) (ctxs : List Nat) (hit : PageTr → Bool) : s.redoHeld ctxs hit (fun _ _ => true) = s := by
  unfold State.redoHeld
  induction ctxs with
  | nil => rfl
  | cons k ks ih =>
    rw [List.foldl_cons]
    have hstep : (match s.ctx? k with
        | none => s
        | some c => if c.dead then s else match (s.heldOf k).find? fun t => hit t && !true with
          | some t => s.heldChanged k t.da
          | none => s) = s := by
      have hnone : ((s.heldOf k).find? fun t => hit t && !true) = none := by simp
      rw [hnone]
      cases s.ctx? k with
      | none => rfl
      | some c => exact ite_self s
    exact (congrArg (List.foldl _ · ks) hstep).trans ih

theorem State.invalidateTables_ctxs (s : State) (mine : Table → Bool) (hit : Table → Nat → Nat → Bool) :
    (s.invalidateTables mine hit).stk = s.stk := by
  unfold State.invalidateTables
  refine foldl_proj State.stk _ (fun s tid => ?_) _ s
  split
  · rfl
  · dsimp only
    split
    · rw [State.raise_frame]
      rfl
    · rfl

/-- The state of an accepted ATS invalidation before it becomes pending. -/
def State.invalidateLinks (s : State) (fn addr len : Nat) (same : Bool) : State :=
  let ctxs := (s.stk.ctxs.filter fun p => p.2.fn == fn).map (·.1)
  let hit (t : PageTr) : Bool := t.space != .stack && meets t.target t.size addr len
  let s := (s.dropCaches ctxs hit).mXlt fun x => { x with ats := x.ats.filter fun e => !(e.fn == fn && meets e.addr 4096 addr len) }
  let s := s.redoHeld ctxs hit fun _ _ => same
  s.invalidateTables (fun t => t.fn == fn) fun t da m => s.linkHit t addr len da m

theorem execAtsInvalidateRequest_eq {s : State} {fn : Nat} (addr len : Nat) (same : Bool) (hl : s.live = true)
    (hroom : (s.xlt.pendingInv.filter fun v => v.ats && v.fn == fn).length < 32) :
    exec (.atsInvalidateRequest fn addr len same) s = .next ((s.invalidateLinks fn addr len same).mXlt fun x => { x with
      pendingInv := x.pendingInv ++ [{
        ctxs := (s.stk.ctxs.filter fun p => p.2.fn == fn).map (·.1), first := addr, len := len, ats := true, fn := fn }] }) :=
  if_neg (by simp [hl, hroom])

theorem execAtsInvalidateRequest_spec {s : State} {fn : Nat} (addr len : Nat) (same : Bool) (hl : s.live = true)
    (hroom : (s.xlt.pendingInv.filter fun v => v.ats && v.fn == fn).length < 32) :
    ∃ t, exec (.atsInvalidateRequest fn addr len same) s = .next t ∧ t.mem = s.mem ∧
      (∀ e ∈ t.xlt.ats, e ∈ s.xlt.ats ∧ ¬(e.fn = fn ∧ meets e.addr 4096 addr len = true)) ∧
      (∀ h, ∀ p ∈ (t.hearth h).tlb, p ∈ (s.hearth h).tlb) ∧
      (t.xlt.pendingInv.filter fun v => v.ats && v.fn == fn).length = (s.xlt.pendingInv.filter fun v => v.ats && v.fn == fn).length + 1 ∧
      (same = true → t.stk.ctxs = s.stk.ctxs) := by
  refine ⟨_, execAtsInvalidateRequest_eq addr len same hl hroom, ?_⟩
  suffices h : ∀ u, u = s.invalidateLinks fn addr len same → u.mem = s.mem ∧
      u.xlt.ats = (s.xlt.ats.filter fun e => !(e.fn == fn && meets e.addr 4096 addr len)) ∧ u.xlt.pendingInv = s.xlt.pendingInv ∧
      (∀ h, ∀ p ∈ (u.hearth h).tlb, p ∈ (s.hearth h).tlb) ∧ (same = true → u.stk = s.stk) by
    obtain ⟨hmem, hats, hpend, htlb, hsame⟩ := h _ rfl
    generalize s.invalidateLinks fn addr len same = u at hmem hats hpend htlb hsame
    refine ⟨hmem, fun e he => ?_, htlb, ?_, fun h => congrArg Stoker.ctxs (hsame h)⟩
    · have he' : e ∈ u.xlt.ats := he
      rw [hats] at he'
      obtain ⟨hmem, hkeep⟩ := List.mem_filter.1 he'
      refine ⟨hmem, fun ⟨hfn, hmeets⟩ => ?_⟩
      simp [hfn, hmeets] at hkeep
    · show ((u.xlt.pendingInv ++ [_]).filter fun v : Inval => v.ats && v.fn == fn).length = _
      rw [hpend, List.filter_append]
      simp
  intro u hu
  unfold State.invalidateLinks at hu
  dsimp only at hu
  generalize (s.stk.ctxs.filter fun p => p.2.fn == fn).map (·.1) = ctxs at hu
  generalize hhit : (fun t : PageTr => t.space != .stack && meets t.target t.size addr len) = hit at hu
  have htlb := s.dropCaches_tlb ctxs hit
  obtain ⟨wc0, wc1, hxlt⟩ := s.dropCaches_xlt ctxs hit
  have hmem := s.dropCaches_mem ctxs hit
  have hstk := s.dropCaches_stk ctxs hit
  generalize s.dropCaches ctxs hit = v at hu htlb hxlt hmem hstk
  obtain ⟨kmem, ktlb, kxlt, -⟩ : (v.mXlt fun x => { x with ats := x.ats.filter fun e => !(e.fn == fn && meets e.addr 4096 addr len) }).InvalFrame
      ctxs u := by
    rw [hu]
    exact (State.InvalFrame.redoHeld ..).trans (State.InvalFrame.invalidateTables ..)
  have kxlt' : u.xlt = { v.xlt with
      ats := v.xlt.ats.filter fun e => !(e.fn == fn && meets e.addr 4096 addr len), invalTeardowns := u.xlt.invalTeardowns } := kxlt
  refine ⟨kmem.trans hmem, by rw [kxlt', hxlt], by rw [kxlt', hxlt], fun h p hp => ?_, fun h => ?_⟩
  · rw [ktlb] at hp
    have hp' : p ∈ (v.hearth h).tlb := hp
    rw [htlb] at hp'
    exact (mem_filter_unless hp').1
  · rw [hu, h, State.redoHeld_of_same, State.invalidateTables_ctxs]
    exact hstk

/-- Settles O45: a walk, a walk after a parity error, the ATS completion, the two invalidations and their completion. -/
theorem translationRows : Obligations.TranslationRows := by
  unfold Obligations.TranslationRows
  refine ⟨fun s h ctx da c hl hs hc => ⟨?_, ?_⟩, ?_, ?_, ?_, fun _ _ _ => rfl, ?_⟩
  · obtain ⟨hdepot, hspec⟩ := s.runTr_spec h ctx c da rfl
    exact ⟨_, (execPageWalkComplete_eq da hl hs hc).1, runTr_memFrame .., runTr_mem .., hdepot, hspec⟩
  · obtain ⟨hexec, htlb, hstc⟩ := execPageWalkComplete_parity da hl hs hc rfl
    exact ⟨_, rfl, hexec, htlb, fun _ => hstc⟩
  · intro s fn addr target read write hl
    exact if_neg (by simp [hl])
  · rintro s cid c x ctxs a n hc hctxs ha hn
    refine ⟨fun h => execInvalidateTranslations_refuse hc (hctxs ▸ h), execInvalidateTranslations_spec hc hctxs ha hn⟩
  · intro s fn addr len same hl
    exact ⟨fun hfull => if_pos (by simp [hfull]), execAtsInvalidateRequest_spec addr len same hl⟩
  · intro s idx v u hl hv hu
    have hexec : exec (.invalidationComplete idx) s = match v.cid with
        | none => .next (u.mXlt fun x => { x with invalDone := (v.fn, v.first) :: x.invalDone })
        | some cid => match u.cmd? cid with
          | some c => .next (u.commitCtl cid c)
          | none => .next u := by
      subst hu
      show execInvalidationComplete _ _ = _
      unfold execInvalidationComplete
      rw [hl, hv]
      rfl
    refine ⟨fun hn => by rw [hexec, hn]; rfl, fun cid c hcid hcmd => ?_⟩
    have hcmd' : u.cmd? cid = some c := by rw [hu]; exact hcmd
    rw [hexec, hcid]
    dsimp only
    rw [hcmd']

end Sys2Proof.Machine
end

section
/-! PROOFS. Register reads and writes (R12, R853, R854, R907, R909, R910, R954). -/
namespace Sys2Proof.Machine

/-! ### Which accesses act -/

/-- Every access of a function that is not presented has no effect (R907). -/
theorem registerAccess_of_absent {s : State} {fn : Nat} (h : s.presented = false ∨ s.fnExists fn = false) (bar off v : Nat) (wide rd : Bool) :
    exec (.barAccessDropped fn rd) s = .next s ∧ exec (.latchingLoRead fn bar off wide) s = .next s ∧
    exec (.registerWrite fn bar off v wide) s = .next s := by
  have habs : (!s.presented || !s.fnExists fn) = true := by rcases h with h | h <;> simp [h]
  exact ⟨if_pos habs, if_pos (by rw [habs]; rfl), if_pos (by rw [habs]; rfl)⟩

/-- A dropped access counts, and a dropped read returns 0 (R907). -/
theorem execBarAccessDropped_of_present {s : State} {fn : Nat} (hp : s.presented = true) (hf : s.fnExists fn = true) (rd : Bool) :
    exec (.barAccessDropped fn rd) s = .next (if rd then (s.mLog fn fun l => { l with badAccess := l.badAccess + 1 }).mBus fun x =>
      { x with readValue := 0 } else s.mLog fn fun l => { l with badAccess := l.badAccess + 1 }) := if_neg (by simp [hp, hf])

theorem registerAccess_of_unaligned {s : State} {off : Nat} (h : off % 4 ≠ 0) (fn bar v : Nat) (wide : Bool) :
    exec (.registerWrite fn bar off v wide) s = .next s ∧ exec (.latchingLoRead fn bar off wide) s = .next s := by
  have hoff : off % (if wide then 8 else 4) ≠ 0 := by cases wide <;> simp <;> omega
  exact ⟨if_pos (by simp [hoff]), if_pos (by simp [hoff])⟩

/-- A write of 4 bytes (R907). -/
theorem execRegisterWrite_narrow {s : State} {fn off : Nat} (hp : s.presented = true) (hf : s.fnExists fn = true) (h : off % 4 = 0) (bar v : Nat) :
    exec (.registerWrite fn bar off v false) s = .next (s.write4 fn bar off (v % 2 ^ 32)) := if_neg (by simp [hp, hf, h])

/-- A write of 8 bytes is two of 4, the lower first (R907). -/
theorem execRegisterWrite_wide {s : State} {fn off : Nat} (hp : s.presented = true) (hf : s.fnExists fn = true) (h : off % 8 = 0) (bar v : Nat) :
    exec (.registerWrite fn bar off v true) s =
      .next ((s.write4 fn bar off (v % 2 ^ 32)).write4 fn bar (off + 4) (v / 2 ^ 32 % 2 ^ 32)) := if_neg (by simp [hp, hf, h])

/-! ### Reads of the control window -/

/-- A read of 4 bytes of the control window. -/
theorem execLatchingLoRead_window {s : State} {fn off : Nat} (hp : s.presented = true) (hf : s.fnExists fn = true) (h : off % 4 = 0) :
    exec (.latchingLoRead fn s.windowBar off false) s = .next ((s.readWindow fn off).1.mBus fun x =>
      { x with readValue := BitVec.ofNat 64 (s.readWindow fn off).2 }) := by
  have hread : s.read4 fn s.windowBar off = s.readWindow fn off := if_pos rfl
  show execLatchingLoRead _ _ _ _ _ = _
  unfold execLatchingLoRead
  rw [if_neg (by simp [hp, hf, h]), hread]
  simp

/-- What a read of the control window returns and latches (R910). -/
theorem State.readWindow_eq {s : State} {fn off : Nat} (hb : s.blockOn fn (off / 65536) = true) :
    (∀ v, s.pair (off / 65536) (off % 65536) = some v → s.readWindow fn off =
      (s.mLog fn fun l => { l with latch := mapSet l.latch (off + 4) (BitVec.ofNat 32 (v / 2 ^ 32)) }, v % 2 ^ 32)) ∧
    (s.pair (off / 65536) (off % 65536) = none → 4 ≤ off % 65536 → s.pair (off / 65536) (off % 65536 - 4) ≠ none →
      s.readWindow fn off = (s, (mapGetD (s.log fn).latch off 0).toNat)) ∧
    (s.pair (off / 65536) (off % 65536) = none → off % 65536 < 4 ∨ s.pair (off / 65536) (off % 65536 - 4) = none →
      s.readWindow fn off = (s, s.readBlock fn (off / 65536) (off % 65536))) := by
  have hon : ¬(!s.blockOn fn (off / 0x10000)) = true := by
    rw [hb]
    decide
  unfold State.readWindow
  dsimp only
  rw [if_neg hon]
  refine ⟨fun v hv => by rw [hv], fun hn h4 hlo => ?_, fun hn hlo => ?_⟩ <;> rw [hn] <;> dsimp only
  · rw [if_pos ⟨h4, Option.isSome_iff_ne_none.2 hlo⟩]
  · rw [if_neg]
    rintro ⟨h4, hsome⟩
    rcases hlo with hlo | hlo
    · omega
    · simp [hlo] at hsome

theorem latchedRead_spec (s : State) (fn k : Nat) (hi : BitVec 32) (lo : BitVec 64) {t : State}
    (ht : t = (s.mLog fn fun l => { l with latch := mapSet l.latch k hi }).mBus fun x => { x with readValue := lo }) :
    t.bus.readValue = lo ∧ mapGet (t.log fn).latch k = some hi ∧ t.mem = s.mem ∧ t.bx = s.bx := by
  have hself : t.log fn = { s.log fn with latch := mapSet (s.log fn).latch k hi } := by
    rw [ht]
    exact s.mLog_self fn fun l => { l with latch := mapSet l.latch k hi }
  refine ⟨by rw [ht]; rfl, ?_, by rw [ht]; rfl, by rw [ht]; rfl⟩
  rw [hself]
  exact mapGet_mapSet_self ..

/-! ### Writes of the control window -/

theorem State.mLog_congr (s : State) (n : Nat) {f g : FnLog → FnLog} (h : f (s.log n) = g (s.log n)) : s.mLog n f = s.mLog n g := by
  unfold State.mLog mapMod
  unfold State.log at h
  rw [h]

/-- While the host link answers fully every block answers function 0, and the Mailbox's block every function (R844, R906). -/
theorem State.blockOn_of_hostOn {s : State} (hh : s.hostOn = true) (hb : s.img.bx3 = false) {fn blk : Nat} (h : fn = 0 ∧ blk < 20 ∨ blk = 19) :
    s.blockOn fn blk = true := by
  have hq : (s.dev == .quenched) = false := by
    unfold State.hostOn at hh
    cases hd : s.dev <;> simp [hd] at hh ⊢
  unfold State.blockOn
  rw [hb, hq]
  rcases h with ⟨rfl, hlt⟩ | rfl
  · simp [hlt]
  · simp

theorem State.windowBar_of_not_bx3 {s : State} (hb : s.img.bx3 = false) : s.windowBar = 0 := by
  unfold State.windowBar
  rw [hb]
  rfl

theorem State.presented_of_hostOn {s : State} (hh : s.hostOn = true) : s.presented = true := by
  unfold State.presented
  rw [hh]
  rfl

theorem State.fnExists_of_le {s : State} (hb : s.img.bx3 = false) {fn : Nat} (h : fn ≤ s.img.totalVfs) : s.fnExists fn = true := by
  unfold State.fnExists
  simp [hb, h]

/-- A write of 4 bytes to the control window in Service and Banked reaches the block's own writes. -/
theorem execRegisterWrite_window {s : State} (hh : s.hostOn = true) (hb : s.img.bx3 = false) {fn off v : Nat} (hfn : fn ≤ s.img.totalVfs)
    (hblk : fn = 0 ∧ off / 65536 < 20 ∨ off / 65536 = 19) (hoff : off % 4 = 0) (hv : v < 2 ^ 32) :
    exec (.registerWrite fn 0 off v false) s = .next (match off / 65536 with
      | 0 => s.writeGlb fn (off % 65536) v | 1 => s.writeTck (off % 65536) v | 3 => s.writeLdg (off % 65536) v
      | 6 => s.writeSri (off % 65536) v | 19 => s.writeWrd fn (off % 65536) v
      | _ => s.writeSelector (off / 65536) (off % 65536) v) := by
  have hwindow : s.write4 fn 0 off v = s.writeWindow fn off v := if_pos (State.windowBar_of_not_bx3 hb).symm
  rw [execRegisterWrite_narrow (State.presented_of_hostOn hh) (State.fnExists_of_le hb hfn) hoff, Nat.mod_eq_of_lt hv, hwindow]
  refine congrArg Host.Outcome.next ((if_neg ?_).trans ?_)
  · rw [State.blockOn_of_hostOn hh hb hblk]
    decide
  · rfl

theorem setLo_of_lt {v : Nat} (hv : v < 2 ^ 32) (b : BitVec 64) : setLo b v = BitVec.ofNat 64 (b.toNat / 2 ^ 32 * 2 ^ 32 + v / 4096 * 4096) := by
  unfold setLo
  rw [Nat.mod_eq_of_lt hv]

theorem thenState_captureConfig (s : State) (v : Nat) : .next (thenState s (execCaptureConfig 0 v s)) = exec (.captureConfig 0 v) s := by
  show _ = execCaptureConfig 0 v s
  unfold execCaptureConfig
  split <;> rfl

/-- The writes of the control window that the obligation names, for function 0 (R89, R129, R909, R954). -/
theorem execRegisterWrite_blocks {s : State} (hh : s.hostOn = true) (hb : s.img.bx3 = false) {v : Nat} (hv : v < 2 ^ 32) :
    exec (.registerWrite 0 0 0x70000 v false) s = .next (if v % 256 < 160 then s.mHearths fun u => { u with sel := v % 256 } else s) ∧
    exec (.registerWrite 0 0 0x40000 v false) s = .next (s.mStk fun u => { u with fnSel := v % 32 }) ∧
    exec (.registerWrite 0 0 0xF0050 v false) s = .next (s.mRoutes fun u => { u with chanSel := v % 16 }) ∧
    exec (.registerWrite 0 0 0x10014 v false) s = .next (s.mTck fun t => { t with
      holdoverExpired := t.holdoverExpired && !bit v 4, periodMismatch := t.periodMismatch && !bit v 3
      numMismatch := t.numMismatch && !bit v 2 }) ∧
    (s.ldg.capEn = true → exec (.registerWrite 0 0 0x30020 v false) s = .next s ∧ exec (.registerWrite 0 0 0x30028 v false) s = .next s) ∧
    (s.ldg.capEn = false → exec (.registerWrite 0 0 0x30020 v false) s = .next (s.mLdg fun l => { l with
        capBase := BitVec.ofNat 64 (l.capBase.toNat / 2 ^ 32 * 2 ^ 32 + v / 4096 * 4096) }) ∧
      (24 ≤ v % 64 → v % 64 ≤ 36 → exec (.registerWrite 0 0 0x30028 v false) s = .next (s.mLdg fun l => { l with capLog2 := v % 64 })) ∧
      (v % 64 < 24 ∨ 36 < v % 64 → exec (.registerWrite 0 0 0x30028 v false) s = .next s)) ∧
    exec (.registerWrite 0 0 0x3002C v false) s = exec (.captureConfig 0 v) s := by
  have hw (off : Nat) (hblk : off / 65536 < 20) (hoff : off % 4 = 0) :=
    execRegisterWrite_window hh hb (fn := 0) (Nat.zero_le _) (.inl ⟨rfl, hblk⟩) hoff hv
  have hbase := hw 0x30020 (by decide) (by decide)
  have hsize := hw 0x30028 (by decide) (by decide)
  refine ⟨hw 0x70000 (by decide) (by decide), hw 0x40000 (by decide) (by decide), hw 0xF0050 (by decide) (by decide),
    hw 0x10014 (by decide) (by decide), fun hen => ⟨hbase.trans ?_, hsize.trans ?_⟩, fun hen => ⟨hbase.trans ?_, fun hlo hhi => hsize.trans ?_,
    fun hout => hsize.trans ?_⟩, (hw 0x3002C (by decide) (by decide)).trans (thenState_captureConfig s v)⟩ <;>
    refine congrArg Host.Outcome.next ?_
  · exact if_pos hen
  · exact if_pos (by rw [hen]; rfl)
  · refine (if_neg (by rw [hen]; decide)).trans ?_
    unfold State.mLdg
    simp only [setLo_of_lt hv]
  · exact if_neg (by simp [hen]; omega)
  · exact if_pos (by simp [hen, hout])

/-- A write in a function's page in Service and Banked. -/
theorem execRegisterWrite_page {s : State} (hh : s.hostOn = true) (hb : s.img.bx3 = false) {fn r v : Nat} (hfn : fn ≤ s.img.totalVfs)
    (hr : r < 65536) (hoff : r % 4 = 0) (hv : v < 2 ^ 32) :
    exec (.registerWrite fn 2 (65536 * fn + r) v false) s = .next (s.writePage fn r v) := by
  have hdiv : (65536 * fn + r) / 65536 = fn := by omega
  have hmod : (65536 * fn + r) % 65536 = r := by omega
  have hwrite : s.write4 fn 2 (65536 * fn + r) v = s.writePage fn ((65536 * fn + r) % 65536) v := by
    unfold State.write4
    rw [if_neg (by rw [State.windowBar_of_not_bx3 hb]; decide), if_neg (by rw [hb]; decide), if_pos ⟨rfl, hh, hdiv⟩]
  rw [execRegisterWrite_narrow (State.presented_of_hostOn hh) (State.fnExists_of_le hb hfn) (by omega), Nat.mod_eq_of_lt hv, hwrite, hmod]

theorem thenState_doorbell (s : State) (fn v : Nat) : .next (thenState s (execDoorbell fn v s)) = exec (.doorbell fn v) s := by
  show _ = execDoorbell fn v s
  unfold execDoorbell
  dsimp only
  split
  · rfl
  · split
    · rfl
    · split <;> rfl

theorem thenState_ringEnable (s : State) (fn v : Nat) : .next (thenState s (execRingEnable fn v s)) = exec (.ringEnable fn v) s := by
  show _ = execRingEnable fn v s
  unfold execRingEnable
  dsimp only
  split <;> rfl

theorem thenState_functionLogConfig (s : State) (fn v : Nat) :
    .next (thenState s (execFunctionLogConfig fn v s)) = exec (.functionLogConfig fn v) s := by
  show _ = execFunctionLogConfig fn v s
  unfold execFunctionLogConfig
  dsimp only
  split <;> rfl

/-! ### The Mailbox -/

theorem Mailbox.ctrl_of_busy {m : Mailbox} {v : Nat} (hb : m.busy = true) (hgo : bit v 31 = true) :
    m.ctrl v = { m with tag := BitVec.ofNat 16 v, overrun := true } := by
  unfold Mailbox.ctrl
  simp [hb, hgo]

theorem Mailbox.ctrl_of_idle {m : Mailbox} {v : Nat} (hb : m.busy = false) (hgo : bit v 31 = true) :
    m.ctrl v = { m with
      tag := BitVec.ofNat 16 v, busy := true, done := false, inFlight := (List.range 64).map fun i => mapGetD m.req i 0
      inFlightTag := BitVec.ofNat 16 v } := by
  unfold Mailbox.ctrl
  simp [hb, hgo]

/-- The writes of a function's page and of its Mailbox that the obligation names (R12, R626, R627, R692, R791, R853, R854). -/
theorem execRegisterWrite_function {s : State} (hh : s.hostOn = true) (hb : s.img.bx3 = false) {fn v : Nat} (hfn : fn ≤ s.img.totalVfs)
    (hv : v < 2 ^ 32) :
    exec (.registerWrite fn 2 (65536 * fn) v false) s = exec (.doorbell fn v) s ∧
    exec (.registerWrite fn 2 (65536 * fn + 0x18) v false) s = exec (.ringEnable fn v) s ∧
    exec (.registerWrite fn 2 (65536 * fn + 0x3008) v false) s = exec (.functionLogConfig fn v) s ∧
    ((s.fn fn).en = true → exec (.registerWrite fn 2 (65536 * fn + 0x10) v false) s = .next s) ∧
    ((s.fn fn).en = false → exec (.registerWrite fn 2 (65536 * fn + 0x10) v false) s = .next (s.mFn fn fun f => { f with
      ringBase := BitVec.ofNat 64 (f.ringBase.toNat / 2 ^ 32 * 2 ^ 32 + v / 4096 * 4096) })) ∧
    exec (.registerWrite fn 2 (65536 * fn + 0x24) v false) s = .next (if bit v 3 then s.mFn fn fun f => { f with dbErr := false } else s) ∧
    exec (.registerWrite fn 0 0x130004 v false) s = .next (s.mLog fn fun l => { l with mbx := { l.mbx with
      restarted := l.mbx.restarted && !bit v 3, overrun := l.mbx.overrun && !bit v 2, done := l.mbx.done && !bit v 1 } }) ∧
    ((s.log fn).mbx.busy = true → bit v 31 = true → exec (.registerWrite fn 0 0x130000 v false) s = .next (s.mLog fn fun l => { l with
      mbx := { l.mbx with tag := BitVec.ofNat 16 v, overrun := true } })) ∧
    ((s.log fn).mbx.busy = false → bit v 31 = true → ∃ t, exec (.registerWrite fn 0 0x130000 v false) s = .next t ∧
      (t.log fn).mbx.busy = true ∧ (t.log fn).mbx.done = false ∧ (t.log fn).mbx.inFlightTag = BitVec.ofNat 16 v ∧
      (t.log fn).mbx.inFlight = (List.range 64).map fun i => mapGetD (s.log fn).mbx.req i 0) := by
  have hpage (r : Nat) (hr : r < 65536) (hoff : r % 4 = 0) := execRegisterWrite_page hh hb hfn hr hoff hv
  have hbase := hpage 0x10 (by decide) (by decide)
  have hctrl : exec (.registerWrite fn 0 0x130000 v false) s = .next (s.mLog fn fun l => { l with mbx := l.mbx.ctrl v }) :=
    execRegisterWrite_window hh hb hfn (.inr rfl) (by decide) hv
  refine ⟨(hpage 0 (by decide) (by decide)).trans (thenState_doorbell s fn v),
    (hpage 0x18 (by decide) (by decide)).trans (thenState_ringEnable s fn v),
    (hpage 0x3008 (by decide) (by decide)).trans (thenState_functionLogConfig s fn v), fun hen => hbase.trans (congrArg _ (if_pos hen)),
    fun hen => hbase.trans (congrArg _ ((if_neg (by rw [hen]; decide)).trans ?_)), hpage 0x24 (by decide) (by decide),
    execRegisterWrite_window hh hb hfn (.inr rfl) (by decide) hv, fun hbusy hgo => ?_, fun hidle hgo => ?_⟩
  · unfold State.mFn
    simp only [setLo_of_lt hv]
  · rw [hctrl]
    refine congrArg Host.Outcome.next (State.mLog_congr s fn ?_)
    rw [Mailbox.ctrl_of_busy hbusy hgo]
  · refine ⟨_, hctrl, ?_⟩
    rw [State.mLog_self, Mailbox.ctrl_of_idle hidle hgo]
    exact ⟨rfl, rfl, rfl, rfl⟩

/-- FLT_FN_LOG_CFG takes LOG2 only in range and while EN is 0, and a new EN restarts its count (R791, R954). -/
theorem execFunctionLogConfig_spec {s : State} {fn : Nat} (v : Nat) (hp : s.pageOn fn = true) :
    (bits v 4 1 < 6 ∨ 14 < bits v 4 1 → exec (.functionLogConfig fn v) s = .next s) ∧
    (6 ≤ bits v 4 1 → bits v 4 1 ≤ 14 → ∃ t, exec (.functionLogConfig fn v) s = .next t ∧ (t.log fn).en = bit v 0 ∧
      (t.log fn).base = (s.log fn).base ∧ (t.log fn).log2 = (if (s.log fn).en then (s.log fn).log2 else bits v 4 1) ∧
      (t.log fn).cnt = (if (s.log fn).en = false ∧ bit v 0 = true then 0 else (s.log fn).cnt)) := by
  refine ⟨fun h => if_pos (by simp [h]), fun hlo hhi => ⟨_, if_neg (by simp [hp]; omega), ?_⟩⟩
  rw [State.mLog_self]
  exact ⟨rfl, rfl, rfl, by simp⟩

/-- Settles O49: which accesses act, reads, the two forms of a write, and the registers named, block by block. -/
theorem registerAccesses : Obligations.RegisterAccesses := by
  unfold Obligations.RegisterAccesses
  refine ⟨fun s fn => ⟨fun h bar off v wide rd => registerAccess_of_absent h bar off v wide rd, ?_⟩, ?_, ?_, ?_, ?_, ?_⟩
  · rintro hp hf u rfl
    exact ⟨execBarAccessDropped_of_present hp hf false, execBarAccessDropped_of_present hp hf true⟩
  · rintro s fn off blk r hp hf rfl rfl hb hoff
    obtain ⟨hlo, hhi, hother⟩ := State.readWindow_eq hb
    have hexec := execLatchingLoRead_window hp hf hoff
    refine ⟨fun v hv => ⟨_, hexec, ?_⟩, fun hn h4 hpair => ?_, fun hn hpair => ?_⟩
    · rw [hlo v hv]
      exact latchedRead_spec s fn _ _ _ rfl
    · rw [hexec, hhi hn h4 hpair]
    · rw [hexec, hother hn hpair]
  · exact fun s fn bar off v hp hf => ⟨fun h wide => registerAccess_of_unaligned h fn bar v wide,
      fun h => execRegisterWrite_narrow hp hf h bar v, fun h => execRegisterWrite_wide hp hf h bar v⟩
  · exact fun s v _ hh hb hv => execRegisterWrite_blocks hh hb hv
  · exact fun s fn v _ hh hb hfn hv => execRegisterWrite_function hh hb hfn hv
  · exact fun s fn v hp => execFunctionLogConfig_spec v hp

end Sys2Proof.Machine
end

section
/-! PROOFS. What a Route port does with the frames it receives (R719, R721). -/
namespace Sys2Proof.Machine

/-! ### The acceptance of a frame -/

/-- The state after the link has accepted a frame, before its arrival is noted (R719). -/
def State.linkedFrame (s : State) (p : Nat) (f : Frame) : State :=
  (s.mPort p fun q => { q with rxLseq := q.rxLseq + 1, gotFrame := true, keyRx := q.keyRx + 1 }).mPortCnt p fun c =>
    { c with rxBytes := c.rxBytes + BitVec.ofNat 64 f.payload.length }

theorem State.tookFrame_eq (s : State) (p : Nat) (f : Frame) : s.tookFrame p f =
    if f.type = 1 then s.linkedFrame p f else (s.linkedFrame p f).mPort p fun q => { q with burst := s.burstNow p } := rfl

theorem State.mPortCnt_port (s : State) (p k : Nat) (f : RPortCnt → RPortCnt) : (s.mPortCnt p f).port k = s.port k := rfl

theorem State.linkedFrame_port (s : State) (p : Nat) (f : Frame) :
    (s.linkedFrame p f).port p = { s.port p with rxLseq := (s.port p).rxLseq + 1, gotFrame := true, keyRx := (s.port p).keyRx + 1 } := by
  unfold State.linkedFrame
  rw [State.mPortCnt_port, State.mPort_self]

theorem State.linkAccept_next {s : State} {p : Nat} {f : Frame} (h : f.lseq = (s.port p).rxLseq) :
    s.linkAccept p f true = (s.linkedFrame p f, true) := by
  unfold State.linkAccept
  rw [h]
  simp
  rfl

/-- The arrival of a frame that the link accepts is noted when it is not DATA (R721). -/
theorem State.burstCheck_linked (s : State) (p : Nat) (f : Frame) :
    (s.linkedFrame p f).burstCheck p f = (s.tookFrame p f, decide (f.type = 1 ∨ (s.burstNow p).length ≤ 64)) := by
  rw [State.tookFrame_eq]
  unfold State.burstCheck
  split
  · next h => simp [h]
  · next h =>
    have hburst : ((s.linkedFrame p f).port p).burst = (s.port p).burst := by rw [State.linkedFrame_port]
    rw [hburst]
    simp only [h, false_or]
    rfl

theorem State.linkAccept_trailer {s : State} {p : Nat} (hup : (s.port p).st = .up) (f : Frame) :
    s.linkAccept p f false = (if 1024 < (s.port p).trailerTick + 1 then
        ((s.mPort p fun q => { q with trailerTick := q.trailerTick + 1 }).mPortCnt p fun c => { c with trailerFails := c.trailerFails + 1 }).suspect p
      else ((s.mPort p fun q => { q with trailerTick := q.trailerTick + 1 }).mPortCnt p fun c =>
        { c with trailerFails := c.trailerFails + 1 }).sendNak p, false) := by
  unfold State.linkAccept
  simp [hup]

theorem State.linkAccept_later {s : State} {p : Nat} {f : Frame} (h : (s.port p).rxLseq < f.lseq) : s.linkAccept p f true = (s.sendNak p, false) := by
  unfold State.linkAccept
  simp [h]

theorem State.linkAccept_earlier {s : State} {p : Nat} {f : Frame} (h : f.lseq < (s.port p).rxLseq) :
    s.linkAccept p f true = (s.mPortCnt p fun c => { c with replays := c.replays + 1 }, false) := by
  have hnot : ¬(s.port p).rxLseq < f.lseq := BitVec.not_lt.2 (BitVec.le_of_lt h)
  unfold State.linkAccept
  simp [h, hnot]

/-! ### Frames on an UP port -/

theorem State.rxUp_of_off {s : State} {p : Nat} (h : s.routesOn = false ∨ (s.port p).st ≠ .up) (f : Frame) (tr : Bool) (act : State → State) :
    s.rxUp p f tr act = s := if_pos (by rcases h with h | h <;> simp [h])

theorem State.rxUp_of_on {s : State} {p : Nat} (hon : s.routesOn = true) (hup : (s.port p).st = .up) (f : Frame) (tr : Bool)
    (act : State → State) : s.rxUp p f tr act =
      if (s.linkAccept p f tr).2 = false then (s.linkAccept p f tr).1
      else if (!frameOk f || !((s.linkAccept p f tr).1.burstCheck p f).2) = true then ((s.linkAccept p f tr).1.burstCheck p f).1.quarantine p 4
      else act ((s.linkAccept p f tr).1.burstCheck p f).1 := by
  unfold State.rxUp
  rw [if_neg (by simp [hon, hup])]
  simp

/-- A frame that the link does not accept only changes the link. -/
theorem State.rxUp_of_rejected {s t : State} {p : Nat} (hon : s.routesOn = true) (hup : (s.port p).st = .up) {f : Frame} {tr : Bool}
    (h : s.linkAccept p f tr = (t, false)) (act : State → State) : s.rxUp p f tr act = t := by
  rw [State.rxUp_of_on hon hup, h]
  exact if_pos rfl

theorem State.rxUp_of_next {s : State} {p : Nat} (hon : s.routesOn = true) (hup : (s.port p).st = .up) {f : Frame}
    (hseq : f.lseq = (s.port p).rxLseq) (act : State → State) : s.rxUp p f true act =
      if frameOk f = true ∧ (f.type = 1 ∨ (s.burstNow p).length ≤ 64) then act (s.tookFrame p f) else (s.tookFrame p f).quarantine p 4 := by
  rw [State.rxUp_of_on hon hup, State.linkAccept_next hseq]
  dsimp only
  rw [if_neg (by decide), State.burstCheck_linked]
  by_cases hok : frameOk f = true <;> by_cases hb : f.type = 1 ∨ (s.burstNow p).length ≤ 64 <;> simp [hok, hb]

/-- A frame that an UP port accepts does what its type does. -/
theorem State.AcceptsFrame.rxUp {s : State} {p : Nat} {f : Frame} (h : s.AcceptsFrame p f) (act : State → State) :
    s.rxUp p f true act = act (s.tookFrame p f) := by
  obtain ⟨hon, hup, hseq, hok, hburst⟩ := h
  rw [State.rxUp_of_next hon hup hseq, if_pos ⟨hok, hburst⟩]

/-- The rows that take a frame of their type on an UP port. -/
def FrameRow (f : Frame) (p edge lane : Nat) (tr : Bool) (i : Instr) : Prop :=
  i = .dataFrame p f tr ∧ (f.type < 2 ∨ 9 < f.type) ∨ i = .startFrame p f tr ∧ f.type = 2 ∨ i = .doneFrame p f tr ∧ f.type = 3 ∨
    i = .abortFrame p f tr ∧ f.type = 4 ∨ i = .creditFrame p f tr ∧ f.type = 5 ∨ i = .nakFrame p f tr ∧ f.type = 6 ∨
    i = .controlTick p f tr edge ∧ ctlSubtype f = 1 ∨ i = .controlKeepalive p f tr ∧ ctlSubtype f = 2 ∨
    i = .controlLane p f tr lane ∧ ctlSubtype f = 3

/-- Each of them is the acceptance of R719 and the form checks of R721, and then what its type does. -/
theorem FrameRow.exec_eq {f : Frame} {p edge lane : Nat} {tr : Bool} {i : Instr} (h : FrameRow f p edge lane tr i) (s : State) :
    ∃ act, exec i s = .next (s.rxUp p f tr act) := by
  rcases h with ⟨rfl, ht⟩ | ⟨rfl, ht⟩ | ⟨rfl, ht⟩ | ⟨rfl, ht⟩ | ⟨rfl, ht⟩ |
    ⟨rfl, ht⟩ | ⟨rfl, ht⟩ | ⟨rfl, ht⟩ | ⟨rfl, ht⟩
  · exact ⟨_, if_neg (by omega)⟩
  all_goals exact ⟨_, if_neg (not_not.2 ht)⟩

theorem FrameRow.checks {f : Frame} {p edge lane : Nat} {tr : Bool} {i : Instr} (h : FrameRow f p edge lane tr i) (s : State) :
    (s.routesOn = false ∨ (s.port p).st ≠ .up → exec i s = .next s) ∧
    (s.routesOn = true → (s.port p).st = .up →
      (∀ v, tr = false → v = (s.mPort p fun q => { q with trailerTick := q.trailerTick + 1 }).mPortCnt p
          (fun c => { c with trailerFails := c.trailerFails + 1 }) →
        exec i s = .next (if 1024 < (s.port p).trailerTick + 1 then v.suspect p else v.sendNak p)) ∧
      (tr = true → (s.port p).rxLseq < f.lseq → exec i s = .next (s.sendNak p)) ∧
      (tr = true → f.lseq < (s.port p).rxLseq → exec i s = .next (s.mPortCnt p fun c => { c with replays := c.replays + 1 })) ∧
      (tr = true → f.lseq = (s.port p).rxLseq → frameOk f = false ∨ f.type ≠ 1 ∧ 64 < (s.burstNow p).length →
        exec i s = .next ((s.tookFrame p f).quarantine p 4))) := by
  obtain ⟨act, hexec⟩ := h.exec_eq s
  rw [hexec]
  refine ⟨fun hoff => congrArg _ (State.rxUp_of_off hoff ..), fun hon hup => ⟨?_, ?_, ?_, ?_⟩⟩
  · rintro v rfl rfl
    exact congrArg _ (State.rxUp_of_rejected hon hup (State.linkAccept_trailer hup f) act)
  · rintro rfl hlt
    exact congrArg _ (State.rxUp_of_rejected hon hup (State.linkAccept_later hlt) act)
  · rintro rfl hlt
    exact congrArg _ (State.rxUp_of_rejected hon hup (State.linkAccept_earlier hlt) act)
  · rintro rfl heq hbad
    rw [State.rxUp_of_next hon hup heq, if_neg]
    rintro ⟨hok, hburst⟩
    rcases hbad with hbad | ⟨htype, hlong⟩
    · exact absurd hok (by simp [hbad])
    · omega

/-! ### The checks of each type -/

theorem orphan_check {c : Chan} {f : Frame} (h : c.orphan ≠ some f.seq) : (c.orphan == some f.seq && f.epoch == c.epoch) = false := by
  simp [h]

/-- DATA (R720, R721). -/
theorem execDataFrame_spec {s u v : State} {p : Nat} {f : Frame} {c : Chan} (ha : s.AcceptsFrame p f) (hu : u = s.tookFrame p f)
    (hc : c = u.chanOf p f) (ht : f.type = 1) (hv : v = u.mPort p fun q => { q with dataGot := q.dataGot + 1 }) :
    (256 ≤ ((u.port p).dataGot - (u.port p).dataFreed).toNat → exec (.dataFrame p f true) s = .next (u.quarantine p 5)) ∧
    (((u.port p).dataGot - (u.port p).dataFreed).toNat < 256 →
      (c.below f = true → exec (.dataFrame p f true) s = .next ((v.stale p).freeData p 1)) ∧
      (c.below f = false → c.orphan ≠ some f.seq → (∀ o l, v.current? p f = some (o, l) →
        (l.doneGot = true → exec (.dataFrame p f true) s = .next ((v.stale p).freeData p 1)) ∧
        (l.doneGot = false → f.offset.toNat * 32 ≠ l.got ∨ l.total.getD 0 < l.got + f.payload.length →
          exec (.dataFrame p f true) s = .next (v.quarantine p 4)) ∧
        (l.doneGot = false → f.offset.toNat * 32 = l.got → l.got + f.payload.length ≤ l.total.getD 0 →
          exec (.dataFrame p f true) s = .next (((v.mLink o.cid p fun l => { l with
            got := l.got + f.payload.length, data := l.data ++ f.payload }).freeData p 1).runOp o.cid))) ∧
      (v.current? p f = none → ∀ h, c.heldStart = some h → h.epoch = f.epoch → h.seq = f.seq →
        exec (.dataFrame p f true) s = .next (v.mChan p f.channel fun c => { c with heldData := c.heldData ++ [f] })))) := by
  have hchan : v.chanOf p f = c := by
    rw [hc, hv]
    unfold State.chanOf
    rw [State.mPort_self]
    rfl
  have hexec : exec (.dataFrame p f true) s = execDataFrame p f true s := rfl
  rw [hexec]
  unfold execDataFrame
  rw [if_neg (by omega), ha.rxUp, ← hu]
  dsimp only
  rw [← hv, hchan]
  refine ⟨fun hfull => by rw [if_pos hfull], fun hroom => ?_⟩
  rw [if_neg (by omega)]
  refine ⟨fun hb => by rw [if_pos hb], fun hb ho => ?_⟩
  rw [if_neg (by simp [hb]), orphan_check ho, if_neg (by decide)]
  refine ⟨fun o l hcur => ?_, fun hcur h hheld hepoch hseq => ?_⟩
  · rw [hcur]
    dsimp only
    refine ⟨fun hd => by rw [if_pos hd], fun hd hbad => ?_, fun hd hoff htotal => ?_⟩ <;> rw [if_neg (by simp [hd])]
    · exact congrArg _ (if_pos hbad)
    · exact congrArg _ (if_neg (by omega))
  · rw [hcur, hheld]
    dsimp only
    rw [if_pos (by simp [hepoch, hseq])]

/-- START (R721, R726). -/
theorem execStartFrame_spec {s u : State} {p : Nat} {f : Frame} {c : Chan} (ha : s.AcceptsFrame p f) (hu : u = s.tookFrame p f)
    (hc : c = u.chanOf p f) (ht : f.type = 2) :
    (c.below f = true → exec (.startFrame p f true) s = .next (u.stale p)) ∧
    (c.below f = false → c.atNext f = false ∨ c.heldStart ≠ none → exec (.startFrame p f true) s = .next (u.quarantine p 4)) ∧
    (c.below f = false → c.atNext f = true → c.heldStart = none →
      (∀ o l, u.current? p f = some (o, l) →
        exec (.startFrame p f true) s = .next (if l.total.isSome then u.stale p else u.meetStart p o l f)) ∧
      (u.current? p f = none → c.orphan ≠ some f.seq → exec (.startFrame p f true) s = .next
        (u.mChan p f.channel fun c => { c with heldStart := some f }))) := by
  have hexec : exec (.startFrame p f true) s = execStartFrame p f true s := rfl
  rw [hexec]
  unfold execStartFrame
  rw [if_neg (not_not.2 ht), ha.rxUp, ← hu]
  dsimp only
  rw [← hc]
  refine ⟨fun hb => by rw [if_pos hb], fun hb hbad => ?_, fun hb hnext hheld => ?_⟩ <;> rw [if_neg (by simp [hb])]
  · rw [if_pos]
    rcases hbad with h | h
    · simp [h]
    · simp [Option.isSome_iff_ne_none.2 h]
  · rw [if_neg (by simp [hnext, hheld])]
    refine ⟨fun o l hcur => by rw [hcur], fun hcur ho => ?_⟩
    rw [hcur]
    dsimp only
    rw [orphan_check ho, if_neg (by decide)]

/-- DONE (R721, R728). -/
theorem execDoneFrame_spec {s u : State} {p : Nat} {f : Frame} {c : Chan} (ha : s.AcceptsFrame p f) (hu : u = s.tookFrame p f)
    (hc : c = u.chanOf p f) (ht : f.type = 3) :
    (c.below f = true → exec (.doneFrame p f true) s = .next (u.stale p)) ∧
    (c.below f = false → c.orphan ≠ some f.seq →
      (u.current? p f = none → exec (.doneFrame p f true) s = .next (u.stale p)) ∧
      (∀ o l, u.current? p f = some (o, l) → l.doneGot = false → l.total ≠ some l.got →
        exec (.doneFrame p f true) s = .next (u.quarantine p 4)) ∧
      (∀ o l w, u.current? p f = some (o, l) → l.doneGot = false → l.total = some l.got →
        w = u.mLink o.cid p (fun l => { l with doneGot := true }) →
        exec (.doneFrame p f true) s = .next ((if l.doneSent then w.linkDone o l else w).advanceOp o.cid))) := by
  have hexec : exec (.doneFrame p f true) s = execDoneFrame p f true s := rfl
  rw [hexec]
  unfold execDoneFrame
  rw [if_neg (not_not.2 ht), ha.rxUp, ← hu]
  dsimp only
  rw [← hc]
  refine ⟨fun hb => by rw [if_pos hb], fun hb ho => ?_⟩
  rw [if_neg (by simp [hb]), orphan_check ho, if_neg (by decide)]
  refine ⟨fun hcur => by rw [hcur], fun o l hcur hd htotal => ?_, fun o l w hcur hd htotal hw => ?_⟩ <;> rw [hcur] <;> dsimp only
  · rw [if_neg (by simp [hd]), if_pos htotal]
  · rw [if_neg (by simp [hd]), if_neg (not_not.2 htotal), ← hw]

/-- ABORT of the current operation (R721, R730). -/
theorem execAbortFrame_spec {s u v : State} {p : Nat} {f : Frame} {c : Chan} (ha : s.AcceptsFrame p f) (hu : u = s.tookFrame p f)
    (hc : c = u.chanOf p f) (ht : f.type = 4) (hv : v = u.mPortCnt p fun c => { c with abortsRx := c.abortsRx + 1 }) :
    (c.below f = true → exec (.abortFrame p f true) s = .next (v.stale p)) ∧
    (c.below f = false → c.orphan ≠ some f.seq → ∀ o l, v.current? p f = some (o, l) → l.doneGot = false →
      exec (.abortFrame p f true) s = .next ((if l.doneSent then v else v.sendAbort o l (if f.arg.toNat = 1 then 1 else 3)).aborted p o
        (f.arg.toNat == 1))) := by
  have hexec : exec (.abortFrame p f true) s = execAbortFrame p f true s := rfl
  have hchan : v.chanOf p f = c := by rw [hc, hv]; rfl
  rw [hexec]
  unfold execAbortFrame
  rw [if_neg (not_not.2 ht), ha.rxUp, ← hu]
  dsimp only
  rw [← hv, hchan]
  refine ⟨fun hb => by rw [if_pos hb], fun hb ho o l hcur hd => ?_⟩
  rw [if_neg (by simp [hb]), orphan_check ho, if_neg (by decide), hcur]
  dsimp only
  rw [if_neg (by simp [hd])]

/-- CREDIT and NAK (R719 to R721). -/
theorem execCreditFrame_spec {s u v : State} {p : Nat} {f : Frame} (ha : s.AcceptsFrame p f) (hu : u = s.tookFrame p f) (ht : f.type = 5) :
    (((u.port p).dataSent - (u.port p).creditGot).toNat < (f.arg - (u.port p).creditGot).toNat →
      exec (.creditFrame p f true) s = .next (u.quarantine p 5)) ∧
    ((f.arg - (u.port p).creditGot).toNat ≤ ((u.port p).dataSent - (u.port p).creditGot).toNat →
      v = u.mPort p (fun q => { q with creditGot := f.arg }) →
      exec (.creditFrame p f true) s = .next ((v.routes.ops.filter fun o => (o.link? p).isSome).foldl (fun (w : State) o => w.runOp o.cid) v)) := by
  have hexec : exec (.creditFrame p f true) s = execCreditFrame p f true s := rfl
  rw [hexec]
  unfold execCreditFrame
  rw [if_neg (not_not.2 ht), ha.rxUp, ← hu]
  dsimp only
  exact ⟨fun h => by rw [if_pos h], fun h hv => by rw [if_neg (by omega), hv]⟩

theorem State.tookFrame_port_st (s : State) (p : Nat) (f : Frame) : ((s.tookFrame p f).port p).st = (s.port p).st := by
  rw [State.tookFrame_eq]
  split
  · rw [State.linkedFrame_port]
  · rw [State.mPort_self, State.linkedFrame_port]

/-- A LANE request moves a transmit lane to the spare when there is one (R697). -/
theorem execControlLane_spec {s u : State} {p : Nat} {f : Frame} (lane : Nat) (ha : s.AcceptsFrame p f) (hu : u = s.tookFrame p f)
    (ht : ctlSubtype f = 3) :
    ((u.port p).txLanes.getLsbD lane = true → (u.port p).txLanes.getLsbD 8 = false → (u.routePolicy p).sparePresent = true →
      exec (.controlLane p f true lane) s = .next (((u.mPort p fun q => { q with txLanes := swapLane q.txLanes lane }).mPortCnt p fun c =>
        { c with laneSwaps := c.laneSwaps + 1 }).laneSpared p lane (some 8) 0x801)) ∧
    ((u.port p).txLanes.getLsbD lane = false ∨ (u.port p).txLanes.getLsbD 8 = true ∨ (u.routePolicy p).sparePresent = false →
      exec (.controlLane p f true lane) s = .next u) := by
  have hexec : exec (.controlLane p f true lane) s = execControlLane p f true lane s := rfl
  rw [hexec]
  unfold execControlLane
  rw [if_neg (not_not.2 ht), ha.rxUp, ← hu]
  dsimp only
  refine ⟨fun h1 h2 h3 => by rw [if_pos (by rw [h1, h2, h3]; rfl)], fun h => ?_⟩
  rw [if_neg]
  rcases h with h | h | h <;> rw [h] <;> simp

/-- A bring-up frame that an UP port accepts passes the same checks. -/
theorem State.AcceptsFrame.rxAuth {s : State} {p : Nat} {f : Frame} (h : s.AcceptsFrame p f) (act : State → State) :
    s.rxAuth p f true act = act (s.tookFrame p f) := by
  obtain ⟨hon, hup, hseq, hok, hburst⟩ := h
  have hlinked : (s.port p).linked = true := by simp [RPort.linked, hup]
  unfold State.rxAuth
  rw [if_neg (by simp [hon, hlinked]), State.linkAccept_next hseq]
  dsimp only
  rw [if_neg (by decide), State.burstCheck_linked]
  dsimp only
  rw [if_neg (by simp [hok, hburst]), if_neg (by simp [hok])]

/-- HELLO, and SPDM outside a key update, quarantine an UP port (R721). -/
theorem execHelloFrame_of_up {s u : State} {p : Nat} {f : Frame} (ha : s.AcceptsFrame p f) (hu : u = s.tookFrame p f) (ht : f.type = 8)
    (serial nonce : Nat) (enc : Bool) (rtt again : Nat) :
    exec (.helloFrame p f true serial nonce enc rtt again) s = .next (u.quarantine p 4) := by
  have hup : ((s.tookFrame p f).port p).st = .up := by rw [State.tookFrame_port_st]; exact ha.2.1
  have hexec : exec (.helloFrame p f true serial nonce enc rtt again) s = execHelloFrame p f true serial nonce enc rtt again s := rfl
  rw [hexec]
  unfold execHelloFrame
  rw [if_neg (not_not.2 ht), ha.rxAuth]
  dsimp only
  rw [if_pos (by simp [hup]), hu]

theorem execSpdmFrame_of_up {s u : State} {p : Nat} {f : Frame} (ha : s.AcceptsFrame p f) (hu : u = s.tookFrame p f) (ht : f.type = 9)
    (final ok : Bool) (digest : List Byte) : exec (.spdmFrame p f true false final ok digest) s = .next (u.quarantine p 4) ∧
    exec (.spdmFrame p f true true true ok digest) s = .next (u.mPort p fun q => { q with rekeying := false, keyTx := 0, keyRx := 0 }) := by
  have hup : ((s.tookFrame p f).port p).st = .up := by rw [State.tookFrame_port_st]; exact ha.2.1
  have hexec (update final : Bool) :
      exec (.spdmFrame p f true update final ok digest) s = execSpdmFrame p f true update final ok digest s := rfl
  constructor <;> rw [hexec] <;> unfold execSpdmFrame <;> rw [if_neg (not_not.2 ht), ha.rxAuth] <;> dsimp only <;> rw [if_pos (by simp [hup])]
  · rw [if_pos (by decide), hu]
  · rw [if_neg (by decide), if_pos rfl, hu]

/-! ### The obligation -/

theorem Chan.below_iff (c : Chan) (f : Frame) : c.below f = true ↔ f.epoch < c.epoch ∨ f.epoch = c.epoch ∧ f.seq < c.nextSeq := by
  simp [Chan.below]

theorem Chan.atNext_iff (c : Chan) (f : Frame) :
    c.atNext f = true ↔ (f.epoch = c.epoch → f.seq = c.nextSeq) ∧ (f.epoch ≠ c.epoch → f.seq = 0) := by
  unfold Chan.atNext
  by_cases h : f.epoch = c.epoch <;> simp [h]

/-- Settles O50: the shared checks of every frame row, the checks of each type, and the order of sequence numbers. -/
theorem routeFrameChecks : Obligations.RouteFrameChecks := by
  unfold Obligations.RouteFrameChecks
  refine ⟨fun s p edge lane f tr i h => FrameRow.checks h s, ?_, fun c f => ⟨c.below_iff f, c.atNext_iff f⟩⟩
  intro s u v p edge lane f c ha hu hc
  refine ⟨execDataFrame_spec ha hu hc, execStartFrame_spec ha hu hc, execDoneFrame_spec ha hu hc, execAbortFrame_spec ha hu hc,
    execCreditFrame_spec ha hu, fun ht => ?_, fun ht => ?_, fun ht => ?_, execControlLane_spec lane ha hu, execHelloFrame_of_up ha hu,
    execSpdmFrame_of_up ha hu⟩ <;> rw [hu] <;> refine (if_neg (not_not.2 ht)).trans (congrArg _ (ha.rxUp _))

end Sys2Proof.Machine
end

section
/-! PROOFS. The states of a Route port (R697, R698, R705 to R715). -/
namespace Sys2Proof.Machine

/-! ### What failing operations leave of a port -/

/-- Of every port only what sending frames and its channels change. -/
structure State.PortKeeps (s t : State) : Prop where
  port : ∀ k, t.port k = { s.port k with
    txLseq := (t.port k).txLseq, sent := (t.port k).sent, outbox := (t.port k).outbox, keyTx := (t.port k).keyTx, chans := (t.port k).chans }

namespace State.PortKeeps

theorem refl (s : State) : s.PortKeeps s := ⟨fun _ => rfl⟩

theorem trans {a b c : State} (h : a.PortKeeps b) (k : b.PortKeeps c) : a.PortKeeps c := ⟨fun n => by rw [k.port n, h.port n]⟩

theorem ite {s a b : State} {c : Prop} [Decidable c] (ha : s.PortKeeps a) (hb : s.PortKeeps b) : s.PortKeeps (if c then a else b) := by
  split <;> assumption

theorem foldl {α : Type} {f : State → α → State} (hf : ∀ (s : State) (x : α), s.PortKeeps (f s x)) (l : List α) (s : State) :
    s.PortKeeps (l.foldl f s) := by
  induction l generalizing s with
  | nil => exact .refl s
  | cons x l ih => exact (hf s x).trans (ih _)

/-- A state with the same ports. -/
theorem of_ports {s t : State} (h : t.routes.ports = s.routes.ports) : s.PortKeeps t :=
  ⟨fun k => by
    have hk : t.port k = s.port k := by unfold State.port; rw [h]
    rw [hk]⟩

theorem mPort (s : State) (p : Nat) {f : RPort → RPort}
    (hf : ∀ q, f q = { q with txLseq := (f q).txLseq, sent := (f q).sent, outbox := (f q).outbox, keyTx := (f q).keyTx, chans := (f q).chans }) :
    s.PortKeeps (s.mPort p f) :=
  ⟨fun k => by
    by_cases hk : k = p
    · subst hk
      rw [State.mPort_self]
      exact hf _
    · rw [State.mPort_of_ne _ _ hk]⟩

theorem mChan (s : State) (p ch : Nat) (f : Chan → Chan) : s.PortKeeps (s.mChan p ch f) := mPort s p fun _ => rfl

theorem mPortCnt (s : State) (p : Nat) (f : RPortCnt → RPortCnt) : s.PortKeeps (s.mPortCnt p f) := of_ports rfl

theorem sendFrame (s : State) (p : Nat) (f : Frame) : s.PortKeeps (s.sendFrame p f) :=
  .ite ((mPort s p fun _ => rfl).trans (mPortCnt ..)) (.refl s)

theorem sendAbort (s : State) (o : ROp) (l : RLink) (reason : Nat) : s.PortKeeps (s.sendAbort o l reason) :=
  .ite ((sendFrame ..).trans (mPortCnt ..)) (.refl s)

theorem leaveLink (s : State) (o : ROp) (l : RLink) (reason : Nat) : s.PortKeeps (s.leaveLink o l reason) :=
  .ite (.refl s) (.ite (.ite (.refl s) (mChan ..)) (.trans (sendAbort ..) (mChan ..)))

theorem dropOp (s : State) (o : ROp) : s.PortKeeps (s.dropOp o) := (foldl (fun s l => leaveLink s o l 3) o.links s).trans (of_ports rfl)

theorem raiseAs (s : State) (c : Nat) (r : FaultRec) : s.PortKeeps (s.raiseAs c r) := of_ports (by rw [State.raiseAs_frame])

theorem failOp (s : State) (o : ROp) (code : Nat) (detail : List Byte) : s.PortKeeps (s.failOp o code detail) := by
  unfold State.failOp
  dsimp only
  split
  · exact dropOp s o
  · exact (dropOp s o).trans (raiseAs ..)

theorem failPort (s : State) (p code reason : Nat) : s.PortKeeps (s.failPort p code reason) := foldl (fun _ _ => failOp ..) _ s

end State.PortKeeps

/-! ### Which operations remain -/

theorem State.sendFrame_ops (s : State) (p : Nat) (f : Frame) : (s.sendFrame p f).routes.ops = s.routes.ops := by
  unfold State.sendFrame
  split <;> rfl

theorem State.sendAbort_ops (s : State) (o : ROp) (l : RLink) (reason : Nat) : (s.sendAbort o l reason).routes.ops = s.routes.ops := by
  unfold State.sendAbort
  split
  · exact State.sendFrame_ops ..
  · rfl

theorem State.leaveLink_ops (s : State) (o : ROp) (l : RLink) (reason : Nat) : (s.leaveLink o l reason).routes.ops = s.routes.ops := by
  unfold State.leaveLink
  split
  · rfl
  · split
    · split <;> rfl
    · exact State.sendAbort_ops ..

theorem State.dropOp_ops (s : State) (o : ROp) : (s.dropOp o).routes.ops = s.routes.ops.filter (·.cid != o.cid) :=
  congrArg (List.filter fun x : ROp => x.cid != o.cid) (foldl_proj (fun s : State => s.routes.ops) _ (fun s l => s.leaveLink_ops o l 3) o.links s)

theorem State.failOp_ops (s : State) (o : ROp) (code : Nat) (detail : List Byte) :
    (s.failOp o code detail).routes.ops = s.routes.ops.filter (·.cid != o.cid) := by
  unfold State.failOp
  dsimp only
  split
  · exact s.dropOp_ops o
  · rw [State.raise_frame]
    exact s.dropOp_ops o

/-- No operation names a port after those that did have failed (R713, R714). -/
theorem State.failPort_ops (s : State) (p code reason : Nat) : ∀ o ∈ (s.failPort p code reason).routes.ops, o.link? p = none := by
  have hfold (l : List ROp) (s : State) : ∀ o ∈ (l.foldl (fun (s : State) o =>
      s.failOp o code (s.detPort p reason o.channel 0xFF o.epoch.toNat (((o.link? p).map (·.seq.toNat)).getD 0))) s).routes.ops,
      o ∈ s.routes.ops ∧ o ∉ l := by
    induction l generalizing s with
    | nil => exact fun o ho => ⟨ho, List.not_mem_nil⟩
    | cons x l ih =>
      intro o ho
      obtain ⟨hin, hnot⟩ := ih _ o ho
      rw [State.failOp_ops] at hin
      obtain ⟨hs, hne⟩ := List.mem_filter.1 hin
      refine ⟨hs, fun hmem => ?_⟩
      rcases List.mem_cons.1 hmem with rfl | hl
      · simp at hne
      · exact hnot hl
  intro o ho
  obtain ⟨hs, hnot⟩ := hfold _ s o ho
  cases hlink : o.link? p with
  | none => rfl
  | some l => exact absurd (List.mem_filter.2 ⟨hs, by rw [hlink]; rfl⟩) hnot

/-! ### QUARANTINED and SUSPECT -/

/-- A quarantined port as its entry leaves it (R714, R715). -/
theorem State.quarantine_spec (s : State) (p reason : Nat) (q : RPort) (hq : q = (s.quarantine p reason).port p) :
    q.st = .quarantined ∧ q.reason = reason ∧ q.quarantines = min 255 ((s.port p).quarantines + 1) ∧
    (∀ n, n = (s.routePolicy p).requalifyS → (n = 0 → q.holdEnd = none) ∧
      (n ≠ 0 → q.holdEnd = some (s.time + min 3600 (n * 2 ^ (q.quarantines - 1)) * cyclesPerS))) ∧
    ∀ o ∈ (s.quarantine p reason).routes.ops, o.link? p = none := by
  unfold State.quarantine at hq ⊢
  dsimp only at hq ⊢
  generalize hv : s.mPort p _ = v at hq ⊢
  obtain ⟨hst, hreason, hcount, hend⟩ : (v.port p).st = .quarantined ∧ (v.port p).reason = reason ∧
      (v.port p).quarantines = satAdd 255 (s.port p).quarantines 1 ∧ (v.port p).holdEnd =
        (holdSeconds (s.routePolicy p).requalifyS (satAdd 255 (s.port p).quarantines 1)).map fun n => s.time + n * cyclesPerS := by
    rw [← hv, State.mPort_self]
    exact ⟨rfl, rfl, rfl, rfl⟩
  obtain ⟨hkeep⟩ := (State.PortKeeps.raiseAs v 0 { code := 0x804, detail := v.detPort p reason 0xFF 0xFF 0 0 }).trans
    (.failPort _ p 0x804 reason)
  have hmt (w : State) : (w.mTck fun t => if t.source == 2 && t.routePort == p then { t with missed := 2 } else t).port p = w.port p := rfl
  rw [hmt, hkeep p] at hq
  subst hq
  refine ⟨hst, hreason, hcount, ?_, fun o ho => State.failPort_ops _ _ _ _ o ho⟩
  rintro n rfl
  dsimp only
  rw [hend, hcount]
  unfold holdSeconds
  exact ⟨fun h => by rw [if_pos h]; rfl, fun h => by rw [if_neg h]; rfl⟩

theorem State.suspect_spec (s : State) (p : Nat) : ((s.suspect p).port p).st = .suspect ∧ ((s.suspect p).port p).attempts = 0 ∧
    ∀ o ∈ (s.suspect p).routes.ops, o.link? p = none := by
  unfold State.suspect
  dsimp only
  generalize hv : s.mPort p _ = v
  obtain ⟨hst, hattempts⟩ : (v.port p).st = .suspect ∧ (v.port p).attempts = 0 := by
    rw [← hv, State.mPort_self]
    exact ⟨rfl, rfl⟩
  obtain ⟨hkeep⟩ := (State.PortKeeps.raiseAs v 0 { code := 0x803, detail := v.detPort p 0 0xFF 0xFF 0 0 }).trans (.failPort _ p 0x803 0)
  rw [hkeep p]
  exact ⟨hst, hattempts, State.failPort_ops _ _ _ _⟩

theorem State.mPort_congr (s : State) (p : Nat) {f g : RPort → RPort} (h : f (s.port p) = g (s.port p)) : s.mPort p f = s.mPort p g := by
  unfold State.mPort State.mRoutes mapMod
  dsimp only
  unfold State.port at h
  rw [h]

/-- A port in recovery tries again, at most three times within 2 s (R705, R713). -/
theorem State.bringupFailed_of_suspect {s : State} {p : Nat} (h : (s.port p).st = .suspect) :
    (3 ≤ (s.port p).attempts + 1 ∨ (s.port p).suspectAt + 2 * cyclesPerS ≤ s.time → s.bringupFailed p = s.quarantine p 6) ∧
    ((s.port p).attempts + 1 < 3 → s.time < (s.port p).suspectAt + 2 * cyclesPerS →
      s.bringupFailed p = s.mPort p fun q => { q with attempts := q.attempts + 1, stage := 0 }) := by
  unfold State.bringupFailed
  dsimp only
  rw [if_pos (by simp [h])]
  refine ⟨fun hlate => by rw [if_pos hlate], fun hfew hsoon => ?_⟩
  rw [if_neg (by omega)]
  exact State.mPort_congr s p rfl

theorem State.bringupFailed_of_not_suspect {s : State} {p : Nat} (h : (s.port p).st ≠ .suspect) :
    s.bringupFailed p = s.mPort p fun q => { q with st := .down, stage := 0 } := if_neg (by simpa using h)

/-! ### Bring-up -/

/-- The end of training: eight lanes, four, or a failed step (R698, R705). -/
theorem execRouteTrainingComplete_spec {s : State} {p rxBad txBad : Nat} {rx tx : BitVec 9} (hon : s.routesOn = true) (hstage : (s.port p).stage = 1)
    (hrx : rx = trainLanes (s.routePolicy p).sparePresent rxBad) (htx : tx = trainLanes (s.routePolicy p).sparePresent txBad) :
    (popCount 9 rx.toNat = 8 ∧ popCount 9 tx.toNat = 8 → exec (.routeTrainingComplete p rxBad txBad) s = .next
      (s.mPort p fun q => { q with stage := 2, rxLanes := rx, txLanes := tx })) ∧
    (¬(popCount 9 rx.toNat = 8 ∧ popCount 9 tx.toNat = 8) →
      ((s.routePolicy p).allowHalf = true → 4 ≤ popCount 9 rx.toNat → 4 ≤ popCount 9 tx.toNat →
        exec (.routeTrainingComplete p rxBad txBad) s = .next
          ((s.mPort p fun q => { q with stage := 2, half := true, rxLanes := lowLanes rx 4, txLanes := lowLanes tx 4 }).raise
            { code := 0x802, detail := s.detPort p 0 0xFF 0xFF 0 0 })) ∧
      ((s.routePolicy p).allowHalf = false ∨ popCount 9 rx.toNat < 4 ∨ popCount 9 tx.toNat < 4 →
        exec (.routeTrainingComplete p rxBad txBad) s = .next (s.bringupFailed p))) := by
  have hexec : exec (.routeTrainingComplete p rxBad txBad) s = execRouteTrainingComplete p rxBad txBad s := rfl
  rw [hexec]
  unfold execRouteTrainingComplete
  dsimp only
  rw [if_neg (by simp [hon, hstage]), ← hrx, ← htx]
  refine ⟨fun hall => by rw [if_pos hall], fun hnot => ⟨fun hhalf h4 k4 => ?_, fun hbad => ?_⟩⟩ <;> rw [if_neg hnot]
  · rw [if_pos (by simp [hhalf, h4, k4])]
  · rw [if_neg]
    rcases hbad with h | h | h
    · simp [h]
    · simp; omega
    · simp; omega

/-- FEC lock numbers frames from 0 and sends HELLO (R713, R719). -/
theorem execFecLock_spec {s : State} {p : Nat} (nonce : Nat) (hon : s.routesOn = true) (hstage : (s.port p).stage = 2) :
    ∃ v : State, exec (.fecLock p nonce) s = .next (v.sendFrame p (v.helloFrame p nonce)) ∧ v = s.mPort p (fun x => { x with
      st := if (s.port p).st = .suspect then .suspect else .auth, stage := 3, txLseq := 0, rxLseq := 0, sent := []
      nonce := BitVec.ofNat 64 nonce }) := by
  refine ⟨_, if_neg (by simp [hon, hstage]), State.mPort_congr s p ?_⟩
  by_cases h : (s.port p).st = .suspect <;> simp [h]

/-- A failing receive lane of an UP port (R697, R698). -/
theorem execRouteLaneFail_spec {s : State} {p lane : Nat} (hon : s.routesOn = true) (hup : (s.port p).st = .up)
    (hlane : (s.port p).rxLanes.getLsbD lane = true) :
    ((s.routePolicy p).sparePresent = true → (s.port p).rxLanes.getLsbD 8 = false → (s.port p).half = false →
      exec (.routeLaneFail p lane) s = .next ((((s.mPort p fun q => { q with rxLanes := swapLane q.rxLanes lane }).mPortCnt p fun c => { c with
        laneSwaps := c.laneSwaps + 1 }).sendFrame p (controlFrame 3 (toLe 1 lane))).laneSpared p lane (some 8) 0x801)) ∧
    ((s.routePolicy p).sparePresent = false ∨ (s.port p).rxLanes.getLsbD 8 = true → (s.routePolicy p).allowHalf = true →
      (s.port p).half = false → exec (.routeLaneFail p lane) s = .next
        ((s.mPort p fun q => q.halve (2 ^ lane) 0).laneSpared p lane none 0x802)) ∧
    ((s.routePolicy p).sparePresent = false ∨ (s.port p).rxLanes.getLsbD 8 = true → (s.routePolicy p).allowHalf = false →
      exec (.routeLaneFail p lane) s = .next (s.suspect p)) ∧
    ((s.port p).half = true → exec (.routeLaneFail p lane) s = .next (s.suspect p)) := by
  have hexec : exec (.routeLaneFail p lane) s = execRouteLaneFail p lane s := rfl
  rw [hexec]
  unfold execRouteLaneFail
  dsimp only
  rw [if_neg (by rw [hlane]; simp [hon, hup])]
  have hnone (h : (s.routePolicy p).sparePresent = false ∨ (s.port p).rxLanes.getLsbD 8 = true) :
      ¬((s.routePolicy p).sparePresent && !(s.port p).rxLanes.getLsbD 8 && lane != 8 && !(s.port p).half) = true := by
    rcases h with h | h <;> rw [h] <;> simp
  refine ⟨fun hspare h8 hhalf => ?_, fun h hallow hhalf => ?_, fun h hallow => ?_, fun hhalf => ?_⟩
  · have hne : (lane != 8) = true := by
      rw [bne_iff_ne]
      rintro rfl
      rw [hlane] at h8
      exact Bool.noConfusion h8
    rw [if_pos (by rw [hspare, h8, hne, hhalf]; rfl)]
  · rw [if_neg (hnone h), if_pos (by rw [hallow, hhalf]; rfl)]
  · rw [if_neg (hnone h), if_neg (by rw [hallow]; simp)]
  · rw [if_neg (by rw [hhalf]; simp), if_neg (by rw [hhalf]; simp)]

/-- The clauses on a port's own events (R697 to R700, R705, R712, R715). -/
theorem routePortEvents (s : State) (p rxBad txBad nonce : Nat) (q : RPort) (pol : RoutePolicy) (hon : s.routesOn = true) (hp : p < 8)
    (hq : q = s.port p) (hpol : pol = s.routePolicy p) :
    (pol.enable = true → q.st = .down ∨ q.st = .suspect → q.stage = 0 → exec (.routeTrainingStart p) s = .next
      (s.mPort p fun q => { q with stage := 1, rxLanes := 0, txLanes := 0, half := false })) ∧
    (∀ rx tx, q.stage = 1 → rx = trainLanes pol.sparePresent rxBad → tx = trainLanes pol.sparePresent txBad →
      (popCount 9 rx.toNat = 8 ∧ popCount 9 tx.toNat = 8 → exec (.routeTrainingComplete p rxBad txBad) s = .next
        (s.mPort p fun q => { q with stage := 2, rxLanes := rx, txLanes := tx })) ∧
      (¬(popCount 9 rx.toNat = 8 ∧ popCount 9 tx.toNat = 8) →
        (pol.allowHalf = true → 4 ≤ popCount 9 rx.toNat → 4 ≤ popCount 9 tx.toNat → exec (.routeTrainingComplete p rxBad txBad) s = .next
          ((s.mPort p fun q => { q with stage := 2, half := true, rxLanes := lowLanes rx 4, txLanes := lowLanes tx 4 }).raise
            { code := 0x802, detail := s.detPort p 0 0xFF 0xFF 0 0 })) ∧
        (pol.allowHalf = false ∨ popCount 9 rx.toNat < 4 ∨ popCount 9 tx.toNat < 4 →
          exec (.routeTrainingComplete p rxBad txBad) s = .next (s.bringupFailed p)))) ∧
    (q.stage = 2 → ∃ v : State, exec (.fecLock p nonce) s = .next (v.sendFrame p (v.helloFrame p nonce)) ∧ v = s.mPort p (fun x => { x with
      st := if q.st = .suspect then .suspect else .auth, stage := 3, txLseq := 0, rxLseq := 0, sent := [], nonce := BitVec.ofNat 64 nonce })) ∧
    (q.stage = 4 → q.st = .auth → exec (.routeBringupTimeout p) s = .next (s.quarantine p 1)) ∧
    (q.stage ≠ 0 → ¬(q.stage = 4 ∧ q.st = .auth) → exec (.routeBringupTimeout p) s = .next (s.bringupFailed p)) ∧
    (q.st = .quarantined → q.holdEnd ≠ none → exec (.quarantineHoldEnd p) s = .next
      (s.mPort p fun q => { q with st := .down, stage := 0, holdEnd := none })) ∧
    (q.st = .quarantined → q.holdEnd = none → exec (.quarantineHoldEnd p) s = .next s) ∧
    (q.st = .up → exec (.keepaliveSend p) s = .next (s.sendFrame p { type := 7, payload := padTo 32 [2] })) ∧
    (q.st = .up → q.encrypted = true → q.rekeying = false → 2 ^ 31 ≤ q.keyTx ∨ 2 ^ 31 ≤ q.keyRx →
      exec (.autoKeyUpdate p) s = .next (s.rekey p)) ∧
    (q.keyTx < 2 ^ 31 → q.keyRx < 2 ^ 31 → exec (.autoKeyUpdate p) s = .next s) := by
  subst hq hpol
  refine ⟨fun hen hst hstage => if_pos ?_, fun rx tx hstage => execRouteTrainingComplete_spec hon hstage, execFecLock_spec nonce hon,
    fun hstage hst => (if_neg ?_).trans (if_pos ?_), fun hstage hst => (if_neg ?_).trans (if_neg ?_), fun hst hend => if_pos ?_,
    fun hst hend => if_neg ?_, fun hst => if_pos ?_, fun hst henc hre hkeys => if_pos ?_, fun hx ht => if_neg ?_⟩
  · rcases hst with h | h <;> simp [hon, hen, h, hstage, hp]
  · simp [hon, hstage]
  · simp [hstage, hst]
  · simp [hon, hstage]
  · simpa using hst
  · simp [hon, hst, Option.isSome_iff_ne_none.2 hend]
  · simp [hend]
  · simp [hon, hst]
  · simp only [hon, hst, henc, hre]
    simpa using hkeys
  · simp only [Bool.and_eq_true, decide_eq_true_eq, not_and]
    omega

/-! ### HELLO and the session -/

/-- A bring-up frame that a port in AUTH accepts reaches what its type does (R719). -/
theorem State.rxAuth_of_auth {s : State} {p : Nat} {f : Frame} (hon : s.routesOn = true) (hst : (s.port p).st = .auth)
    (hseq : f.lseq = (s.port p).rxLseq) (hok : frameOk f = true) (act : State → State) : s.rxAuth p f true act = act (s.tookFrame p f) := by
  have hlinked : (s.port p).linked = true := by simp [RPort.linked, hst]
  unfold State.rxAuth
  rw [if_neg (by simp [hon, hlinked]), State.linkAccept_next hseq]
  dsimp only
  rw [if_neg (by decide), State.burstCheck_linked]
  dsimp only
  rw [if_neg (by simp [hst]), if_neg (by simp [hok])]

/-- An accepted frame changes the numbering and the arrivals of its port (R719, R721). -/
theorem State.tookFrame_port (s : State) (p : Nat) (f : Frame) : (s.tookFrame p f).port p = { s.port p with
    rxLseq := (s.port p).rxLseq + 1, gotFrame := true, keyRx := (s.port p).keyRx + 1, burst := ((s.tookFrame p f).port p).burst } := by
  rw [State.tookFrame_eq]
  split
  · rw [State.linkedFrame_port]
  · rw [State.mPort_self, State.linkedFrame_port]

theorem State.tookFrame_img (s : State) (p : Nat) (f : Frame) : (s.tookFrame p f).img = s.img := by
  rw [State.tookFrame_eq]
  split <;> rfl

/-- HELLO in AUTH: our own nonce draws a new one, else the smaller nonce requests (R705, R706). -/
theorem execHelloFrame_of_auth {s u : State} {p : Nat} {f : Frame} (hon : s.routesOn = true) (hst : (s.port p).st = .auth)
    (hseq : f.lseq = (s.port p).rxLseq) (hok : frameOk f = true) (hu : u = s.tookFrame p f) (ht : f.type = 8) (hstage : (s.port p).stage = 3)
    {serial nonce rtt : Nat} {enc : Bool} (again : Nat) {w : State}
    (hw : w = u.mPort p fun q => { q with partner := BitVec.ofNat 64 serial, partnerEnc := enc, rtt := rtt }) :
    exec (.helloFrame p f true serial nonce enc rtt again) s = .next (if (s.port p).nonce.toNat = nonce then
      (w.mPort p fun q => { q with nonce := BitVec.ofNat 64 again }).sendFrame p (w.helloFrame p again)
      else w.mPort p fun q => { q with stage := 4, requester := decide (nonce < (s.port p).nonce.toNat) }) := by
  have hexec : exec (.helloFrame p f true serial nonce enc rtt again) s = execHelloFrame p f true serial nonce enc rtt again s := rfl
  obtain ⟨hst', hstage', hnonce'⟩ : (u.port p).st = .auth ∧ (u.port p).stage = 3 ∧ (u.port p).nonce = (s.port p).nonce := by
    rw [hu, State.tookFrame_port]
    exact ⟨hst, hstage, rfl⟩
  have hwnonce : (w.port p).nonce = (s.port p).nonce := by
    rw [hw, State.mPort_self]
    exact hnonce'
  rw [hexec]
  unfold execHelloFrame
  rw [if_neg (not_not.2 ht), State.rxAuth_of_auth hon hst hseq hok, ← hu]
  dsimp only
  rw [if_neg (by simp [hst']), if_neg (by simp [hstage']), ← hw, hnonce']
  refine congrArg Host.Outcome.next (ite_congr rfl (fun _ => rfl) fun _ => State.mPort_congr w p ?_)
  rw [hwnonce]

/-- The port that has entered UP (R716, R720). -/
theorem State.enterUp_port (s : State) (p : Nat) : (s.enterUp p).port p = { s.port p with
    st := .up, stage := 0, attempts := 0, chans := [], dataSent := 0, creditGot := 0, dataGot := 0, dataFreed := 0, silent := 0, gotFrame := true
    burst := [], encrypted := (s.routePolicy p).encRequired && (s.port p).partnerEnc, rekeying := false, keyTx := 0, keyRx := 0
    delayNs := BitVec.ofNat 16 (((s.port p).rtt + 1) / 2) } := by
  have hself := s.mPort_self p fun q => { q with
    st := .up, stage := 0, attempts := 0, chans := [], dataSent := 0, creditGot := 0, dataGot := 0, dataFreed := 0, silent := 0, gotFrame := true
    burst := [], encrypted := (s.routePolicy p).encRequired && q.partnerEnc, rekeying := false, keyTx := 0, keyRx := 0
    delayNs := BitVec.ofNat 16 ((q.rtt + 1) / 2) }
  unfold State.enterUp
  dsimp only
  split
  · exact hself
  · exact hself

/-- The end of the session: the chain, the pin and the partner's ENC are checked in this order, and then the port is UP (R708, R709). -/
theorem execSpdmFrame_of_auth {s u : State} {p : Nat} {f : Frame} (hon : s.routesOn = true) (hst : (s.port p).st = .auth)
    (hseq : f.lseq = (s.port p).rxLseq) (hok : frameOk f = true) (hu : u = s.tookFrame p f) (ht : f.type = 9) (hstage : (s.port p).stage = 4)
    (ok : Bool) (digest : List Byte) {w : State} (hw : w = u.mPort p fun q => { q with partnerDigest := digest }) :
    exec (.spdmFrame p f true false false ok digest) s = .next u ∧
    exec (.spdmFrame p f true false true false digest) s = .next (w.quarantine p 1) ∧
    ((∃ x, (s.port p).pin = some x ∧ x ≠ digest) → exec (.spdmFrame p f true false true true digest) s = .next (w.quarantine p 2)) ∧
    (∀ pol, pol = s.routePolicy p → (∀ x, (s.port p).pin = some x → x = digest) →
      ((s.port p).partnerEnc ≠ pol.encRequired → exec (.spdmFrame p f true false true true digest) s = .next (w.quarantine p 3)) ∧
      ((s.port p).partnerEnc = pol.encRequired → ∃ t, exec (.spdmFrame p f true false true true digest) s = .next t ∧
        (t.port p).st = .up ∧ (t.port p).chans = [] ∧ (t.port p).dataSent = 0 ∧ (t.port p).creditGot = 0 ∧
        (t.port p).encrypted = pol.encRequired ∧ (t.port p).credit = true)) := by
  obtain ⟨hst', hstage', hpin', henc'⟩ : (u.port p).st = .auth ∧ (u.port p).stage = 4 ∧ (u.port p).pin = (s.port p).pin ∧
      (u.port p).partnerEnc = (s.port p).partnerEnc := by
    rw [hu, State.tookFrame_port]
    exact ⟨hst, hstage, rfl, rfl⟩
  have hpin : (w.port p).pin = (s.port p).pin := by rw [hw, State.mPort_self]; exact hpin'
  have henc : (w.port p).partnerEnc = (s.port p).partnerEnc := by rw [hw, State.mPort_self]; exact henc'
  have hpol : w.routePolicy p = s.routePolicy p := by
    rw [hw, hu]
    exact congrArg (fun i : Image => i.route.getD p {}) (s.tookFrame_img p f)
  have hexec (final ok : Bool) : exec (.spdmFrame p f true false final ok digest) s = .next (if final then u.authEnd p ok digest else u) := by
    have hrow : exec (.spdmFrame p f true false final ok digest) s = execSpdmFrame p f true false final ok digest s := rfl
    rw [hrow]
    unfold execSpdmFrame
    rw [if_neg (not_not.2 ht), State.rxAuth_of_auth hon hst hseq hok, ← hu]
    dsimp only
    rw [if_neg (by simp [hst'])]
    cases final <;> simp [hstage']
  have hend : u.authEnd p true digest = if (w.port p).pin.any (· != digest) then w.quarantine p 2
      else if (w.port p).partnerEnc != (w.routePolicy p).encRequired then w.quarantine p 3 else w.enterUp p := by
    unfold State.authEnd
    dsimp only
    rw [← hw, if_neg (by decide)]
  refine ⟨hexec false ok, ?_, ?_, ?_⟩
  · have hfail : u.authEnd p false digest = w.quarantine p 1 := by rw [hw]; rfl
    rw [hexec, if_pos rfl, hfail]
  · rintro ⟨x, hx, hne⟩
    rw [hexec, if_pos rfl, hend, if_pos]
    rw [hpin, hx]
    simpa using hne
  · rintro pol rfl hpins
    have hno : ¬((w.port p).pin.any (· != digest)) = true := by
      rw [hpin]
      cases hx : (s.port p).pin with
      | none => simp
      | some x => simp [hpins x hx]
    rw [hexec, if_pos rfl, hend, if_neg hno, henc, hpol]
    refine ⟨fun hne => by rw [if_pos (by simpa using hne)], fun heq => ⟨w.enterUp p, by rw [if_neg (by simpa using heq)], ?_⟩⟩
    rw [State.enterUp_port, hpol, henc, heq, Bool.and_self]
    exact ⟨rfl, rfl, rfl, rfl, rfl, by simp [RPort.credit]⟩

/-! ### Load Route Key -/

/-- A Load Route Key command of an action that the row serves (R710). -/
theorem State.loadRouteKey_of_ctl {s : State} {cid : Nat} {c : Cmd} {x : Ctx} (hc : s.ctl? cid 0x1A = some (c, x)) {mine : Nat → Bool}
    (hm : mine (c.arg 33 1) = true) (act : Cmd → Ctx → State) : s.loadRouteKey cid mine act =
      if s.routeKeyOk c = true then act c x else s.refuse cid c { code := 0x809, detail := s.detPort (lkPort c % 8) 0 0xFF 0xFF 0 0 } := by
  unfold State.loadRouteKey
  rw [hc]
  dsimp only
  rw [if_neg (by simp [hm])]
  cases s.routeKeyOk c <;> rfl

/-- LOAD_ROUTE_KEY's three rows on a command whose shared checks fail (R710). -/
theorem loadRouteKey_refused {s : State} {cid : Nat} {c : Cmd} {x : Ctx} (hc : s.ctl? cid 0x1A = some (c, x)) (hbad : s.routeKeyOk c = false)
    {bad : State} (hb : bad = s.refuse cid c { code := 0x809, detail := s.detPort (lkPort c % 8) 0 0xFF 0xFF 0 0 }) :
    (c.arg 33 1 ≠ 1 → c.arg 33 1 ≠ 2 → exec (.loadRouteKeyPin cid) s = .next bad) ∧
    (c.arg 33 1 = 1 → exec (.loadRouteKeyUnpin cid) s = .next bad) ∧ (c.arg 33 1 = 2 → exec (.loadRouteKeyRekey cid) s = .next bad) := by
  subst hb
  refine ⟨fun h1 h2 => congrArg _ ((State.loadRouteKey_of_ctl hc ?_ _).trans ?_),
    fun h => congrArg _ ((State.loadRouteKey_of_ctl hc ?_ _).trans ?_), fun h => congrArg _ ((State.loadRouteKey_of_ctl hc ?_ _).trans ?_)⟩
  · simp [h1, h2]
  · rw [if_neg (by simp [hbad])]
  · simp [h]
  · rw [if_neg (by simp [hbad])]
  · simp [h]
  · rw [if_neg (by simp [hbad])]

/-- PIN, UNPIN and REKEY of a command whose shared checks hold (R710, R711). -/
theorem loadRouteKey_accepted {s : State} {cid : Nat} {c : Cmd} {x : Ctx} (hc : s.ctl? cid 0x1A = some (c, x)) (hok : s.routeKeyOk c = true) (p : Nat)
    (hp : p = lkPort c) :
    (∀ bs bad v, c.arg 33 1 = 0 → s.ctxRead x (c.arg 40 8) 48 = .ok (bs, bad) → v = s.mPort p (fun q => { q with pin := some bs }) →
      exec (.loadRouteKeyPin cid) s =
        .next ((if (s.port p).st = .up ∧ (s.port p).partnerDigest ≠ bs then v.quarantine p 2 else v).commitCtl cid c)) ∧
    (∀ e, c.arg 33 1 = 0 → s.ctxRead x (c.arg 40 8) 48 = .error e → exec (.loadRouteKeyPin cid) s = .next (s.refuseTr cid c e)) ∧
    (c.arg 33 1 = 1 → exec (.loadRouteKeyUnpin cid) s = .next ((s.mPort p fun q => { q with pin := none }).commitCtl cid c)) ∧
    (c.arg 33 1 = 2 → (s.port p).st = .up → (s.routePolicy p).encRequired = true → exec (.loadRouteKeyRekey cid) s = .next
      ((s.rekey p).commitCtl cid c)) ∧
    (c.arg 33 1 = 2 → (s.port p).st ≠ .up ∨ (s.routePolicy p).encRequired = false → exec (.loadRouteKeyRekey cid) s = .next
      (s.refuse cid c { code := 0x809, detail := s.detPort p 0 0xFF 0xFF 0 0 })) := by
  subst hp
  have hcarry {mine : Nat → Bool} (hm : mine (c.arg 33 1) = true) (act : Cmd → Ctx → State) :
      (.next (s.loadRouteKey cid mine act) : Host.Outcome State Fault Refusal) = .next (act c x) := by
    rw [State.loadRouteKey_of_ctl hc hm, if_pos hok]
  refine ⟨?_, ?_, ?_, ?_, ?_⟩
  · rintro bs bad v harg hread rfl
    refine (hcarry (by simp [harg]) _).trans ?_
    rw [hread]
    dsimp only
    simp only [Bool.and_eq_true, beq_iff_eq, bne_iff_ne]
  · intro e harg hread
    refine (hcarry (by simp [harg]) _).trans ?_
    rw [hread]
  · exact fun harg => hcarry (by simp [harg]) _
  · intro harg hup henc
    refine (hcarry (by simp [harg]) _).trans ?_
    dsimp only
    rw [if_neg (by simp [hup, henc])]
  · intro harg hbad
    refine (hcarry (by simp [harg]) _).trans ?_
    dsimp only
    rw [if_pos]
    rcases hbad with h | h <;> simp [h]

/-- Settles O51: a port's own events, the frames of bring-up, failed steps, QUARANTINED and SUSPECT, and Load Route Key. -/
theorem routePortStates : Obligations.RoutePortStates := by
  unfold Obligations.RoutePortStates
  refine ⟨?_, ?_, fun s p h => State.bringupFailed_of_suspect h, fun s p h => State.bringupFailed_of_not_suspect h,
    fun s p reason q hq => s.quarantine_spec p reason q hq, State.suspect_spec, ?_⟩
  · intro s p rxBad txBad lane nonce q pol hon hp hq hpol
    obtain ⟨h1, h2, h3, h4, h5, h6, h7, h8, h9, h10⟩ := routePortEvents s p rxBad txBad nonce q pol hon hp hq hpol
    refine ⟨h1, h2, h3, h4, h5, h6, h7, h8, h9, h10, fun hup hlane => ?_⟩
    subst hq hpol
    exact execRouteLaneFail_spec hon hup hlane
  · intro s u p serial nonce rtt again f enc ok digest hon hst hseq hok hu
    exact ⟨fun ht hstage w hw => execHelloFrame_of_auth hon hst hseq hok hu ht hstage again hw,
      fun ht hstage w hw => execSpdmFrame_of_auth hon hst hseq hok hu ht hstage ok digest hw⟩
  · intro s cid c x hc
    exact ⟨fun hbad bad hb => loadRouteKey_refused hc hbad hb, fun hok p hp => loadRouteKey_accepted hc hok p hp⟩

end Sys2Proof.Machine
end

section
/-! PROOFS. Route operations from their command to their end (R722 to R744). -/
namespace Sys2Proof.Machine

/-! ### Fields of a command -/

theorem leNat_lt (bs : List Byte) : leNat bs < 256 ^ bs.length := by
  induction bs with
  | nil => simp [leNat]
  | cons b bs ih =>
    have hb : b.toNat < 256 := b.isLt
    simp only [leNat, List.length_cons, Nat.pow_succ]
    omega

theorem fld_lt (bs : List Byte) (off n : Nat) : fld bs off n < 256 ^ n :=
  (leNat_lt _).trans_le (Nat.pow_le_pow_right (by decide) (List.length_take_le ..))

theorem Cmd.arg_lt (c : Cmd) (off n : Nat) : c.arg off n < 256 ^ n := fld_lt ..

/-! ### Dispatch -/

theorem State.cmd?_of_ready {s : State} {cid op : Nat} {st : CmdState} {c : Cmd} (h : s.ready? cid op st = some c) : s.cmd? cid = some c := by
  unfold State.ready? at h
  split at h
  · split at h
    · next c' hc =>
      split at h
      · exact hc.trans h
      · exact nomatch h
    · exact nomatch h
  · exact nomatch h

/-- An operation is queued behind the others and its command runs (R722). -/
theorem State.queueOp_spec {s : State} {cid : Nat} {c : Cmd} (hc : s.cmd? cid = some c) (o : ROp) :
    (s.queueOp cid o).routes.ops = s.routes.ops ++ [{ o with order := s.routes.nextOrder }] ∧
    ((s.queueOp cid o).cmd? cid).map (·.st) = some .running := by
  refine ⟨rfl, ?_⟩
  unfold State.queueOp
  rw [State.mCmd_cmd?_self]
  change ((s.cmd? cid).map _).map _ = _
  rw [hc]
  rfl

/-- ROUTE_EXCHANGE (R736, R746). -/
theorem execRouteExchange_spec {s : State} {cid : Nat} {c : Cmd} (ho : s.orderOk cid c = true) (hc : s.ready? cid 0x18 .admitted = some c) :
    (s.exOk cid c = false → exec (.routeExchange cid) s = .next (s.tearCmd c { code := 0x808 })) ∧
    (s.exOk cid c = true → ∃ (t : State) (o : ROp), exec (.routeExchange cid) s = .next t ∧ t.routes.ops = s.routes.ops ++ [o] ∧
      (t.cmd? cid).map (·.st) = some .running ∧ o.cid = cid ∧ o.reduce = false ∧ o.started = false ∧ o.channel = c.arg 41 1 ∧
      o.epoch.toNat = c.arg 44 4 ∧ o.op.toNat = c.arg 48 2 ∧ o.order = s.routes.nextOrder ∧
      o.links.map (fun l => (l.port, l.sendTotal, l.expect)) =
        ((List.range 8).filter fun p => bit (c.arg 40 1) p).map fun p => (p, fld (s.exEntry cid c p) 8 4, fld (s.exEntry cid c p) 24 4)) := by
  have hexec : exec (.routeExchange cid) s = execRouteExchange cid s := rfl
  rw [hexec]
  unfold execRouteExchange
  rw [hc]
  dsimp only
  rw [if_neg (by simp [ho])]
  refine ⟨fun hbad => by rw [if_pos (by simp [hbad])], fun hok => ?_⟩
  rw [if_neg (by simp [hok])]
  obtain ⟨hops, hrun⟩ := State.queueOp_spec (State.cmd?_of_ready hc)
    { cid := cid, channel := c.arg 41 1, epoch := BitVec.ofNat 32 (c.arg 44 4), op := BitVec.ofNat 16 (c.arg 48 2), links := s.exLinks cid c }
  refine ⟨_, _, rfl, hops, hrun, rfl, rfl, rfl, rfl, Nat.mod_eq_of_lt (c.arg_lt 44 4), Nat.mod_eq_of_lt (c.arg_lt 48 2), rfl, ?_⟩
  unfold State.exLinks
  rw [List.map_map]
  rfl

/-- ROUTE_REDUCE (R741, R746). -/
theorem execRouteReduce_spec {s : State} {cid : Nat} {c : Cmd} (ho : s.orderOk cid c = true) (hc : s.ready? cid 0x19 .admitted = some c) :
    (s.rdOk c = false → exec (.routeReduce cid) s = .next (s.tearCmd c { code := 0x808 })) ∧
    (s.rdOk c = true → ∃ (t : State) (o : ROp), exec (.routeReduce cid) s = .next t ∧ t.routes.ops = s.routes.ops ++ [o] ∧
      (t.cmd? cid).map (·.st) = some .running ∧ o.cid = cid ∧ o.reduce = true ∧ o.started = false ∧ o.channel = c.arg 52 1 ∧
      o.epoch.toNat = c.arg 60 4 ∧ o.op.toNat = c.arg 64 2 ∧ o.order = s.routes.nextOrder ∧ o.links = rdLinks c) := by
  have hexec : exec (.routeReduce cid) s = execRouteReduce cid s := rfl
  rw [hexec]
  unfold execRouteReduce
  rw [hc]
  dsimp only
  rw [if_neg (by simp [ho])]
  refine ⟨fun hbad => by rw [if_pos (by simp [hbad])], fun hok => ?_⟩
  rw [if_neg (by simp [hok])]
  obtain ⟨hops, hrun⟩ := State.queueOp_spec (State.cmd?_of_ready hc)
    { cid := cid, reduce := true, channel := c.arg 52 1, epoch := BitVec.ofNat 32 (c.arg 60 4), op := BitVec.ofNat 16 (c.arg 64 2)
      links := rdLinks c }
  exact ⟨_, _, rfl, hops, hrun, rfl, rfl, rfl, rfl, Nat.mod_eq_of_lt (c.arg_lt 60 4), Nat.mod_eq_of_lt (c.arg_lt 64 2), rfl, rfl⟩

/-! ### The start -/

/-- The first element of a list that passes a test which none before it does. -/
theorem find?_of_first {α : Type} {P : α → Bool} {l pre post : List α} {x : α} (hl : l = pre ++ x :: post) (hpre : ∀ y ∈ pre, P y = false)
    (hx : P x = true) : l.find? P = some x := by
  rw [hl, List.find?_append, List.find?_eq_none.2 fun y hy => by simp [hpre y hy], Option.none_or, List.find?_cons, hx]

/-- ROUTE_OPERATION_START (R723 to R726). -/
theorem execRouteOperationStart_spec {s : State} {cid : Nat} {o : ROp} {c : Cmd} (hl : s.live = true) (ho : s.rop? cid = some o)
    (hc : s.cmd? cid = some c) (hnew : o.started = false) :
    (s.firstEverywhere o = false → exec (.routeOperationStart cid) s = .next s) ∧
    (s.firstEverywhere o = true →
      (∀ pre l post, o.links = pre ++ l :: post → (∀ x ∈ pre, (s.port x.port).st = .up) → (s.port l.port).st ≠ .up →
        exec (.routeOperationStart cid) s = .next (s.failOp o 0x805 (s.detOp o l))) ∧
      ((∀ x ∈ o.links, (s.port x.port).st = .up) →
        (∀ pre l post, o.links = pre ++ l :: post → (∀ x ∈ pre, ((s.port x.port).chan o.channel).epoch ≤ o.epoch) →
          o.epoch < ((s.port l.port).chan o.channel).epoch → exec (.routeOperationStart cid) s = .next (s.failOp o 0x806 (s.detOp o l))) ∧
        ((∀ x ∈ o.links, ((s.port x.port).chan o.channel).epoch ≤ o.epoch) →
          exec (.routeOperationStart cid) s = .next (s.startOp cid c o)))) := by
  have hexec : exec (.routeOperationStart cid) s = execRouteOperationStart cid s := rfl
  rw [hexec]
  unfold execRouteOperationStart
  rw [hl, ho, hc]
  dsimp only
  refine ⟨fun hwait => by rw [if_pos (by simp [hwait])], fun hfirst => ?_⟩
  rw [if_neg (by simp [hnew, hfirst])]
  refine ⟨fun pre l post hlinks hpre hdown => ?_, fun hup => ?_⟩
  · rw [find?_of_first hlinks (fun x hx => by simp [hpre x hx]) (by simpa using hdown)]
  · rw [List.find?_eq_none.2 fun x hx => by simp [hup x hx]]
    dsimp only
    refine ⟨fun pre l post hlinks hpre hhigher => ?_, fun hepoch => ?_⟩
    · rw [find?_of_first hlinks (fun x hx => by simpa using hpre x hx) (by simpa using hhigher)]
    · rw [List.find?_eq_none.2 fun x hx => by simpa using hepoch x hx]

/-! ### The end -/

/-- What remains of a started operation of which nothing has been answered: it waits for its bytes, and then writes and sends DONE (R728). -/
theorem State.advanceOp_of_moving {s : State} {cid : Nat} {o : ROp} {c : Cmd} (ho : s.rop? cid = some o) (hc : s.cmd? cid = some c)
    (hst : o.started = true) (hsent : ∀ l ∈ o.links, l.doneSent = false) (hne : o.links ≠ []) :
    (o.allMoved = false → s.advanceOp cid = s) ∧
    (o.allMoved = true → o.reduce = false → (∀ w ∈ o.writes c, s.cmdConflict cid c w.1 w.2 = false) →
      (∀ l ∈ o.links, l.doneGot = false) → ∃ u v : State, u = s.writeExchange cid c o ∧
        v = o.links.foldl (fun (s : State) l =>
          s.sendFrame l.port { type := 3, channel := o.channel, epoch := o.epoch, seq := l.seq, op := o.op }) u ∧
        s.advanceOp cid = v.mRop cid fun o => { o with links := o.links.map fun l => { l with doneSent := true } }) := by
  obtain ⟨x, hx⟩ := List.exists_mem_of_ne_nil _ hne
  have hnotsent : o.links.all (·.doneSent) = false := by
    rw [List.all_eq_false]
    exact ⟨x, hx, by simp [hsent x hx]⟩
  unfold State.advanceOp
  rw [ho, hc]
  dsimp only
  rw [if_neg (by simp [hst]), hnotsent]
  refine ⟨fun hmoving => by rw [if_pos (by simp [hmoving])], fun hmoved hex hfree hgot => ⟨_, _, rfl, rfl, ?_⟩⟩
  have hnoconflict : (o.writes c).any (fun w => s.cmdConflict cid c w.1 w.2) = false := by
    rw [List.any_eq_false]
    exact fun w hw => by simp [hfree w hw]
  have hnotgot : o.links.all (·.doneGot) = false := by
    rw [List.all_eq_false]
    exact ⟨x, hx, by simp [hgot x hx]⟩
  rw [if_neg (by simp [hmoved, hex, hnoconflict]), if_neg (by simp [hnotgot]), if_neg (by decide), if_neg (by simp [hex])]
  have hlinks (l : List RLink) (h : ∀ x ∈ l, x.doneGot = false) (w : State) :
      l.foldl (fun s l => if l.doneGot then s.linkDone o l else s) w = w := by
    induction l generalizing w with
    | nil => rfl
    | cons y l ih =>
      rw [List.foldl_cons, if_neg (by simp [h y List.mem_cons_self])]
      exact ih (fun x hx => h x (List.mem_cons_of_mem _ hx)) w
  rw [hlinks o.links hgot]

/-- An operation with DONE sent and received on every link has ended (R728). -/
theorem State.advanceOp_of_done {s : State} {cid : Nat} {o : ROp} {c : Cmd} (ho : s.rop? cid = some o) (hc : s.cmd? cid = some c)
    (hst : o.started = true) (hdone : ∀ l ∈ o.links, l.doneSent = true ∧ l.doneGot = true) :
    s.advanceOp cid = (s.mRoutes fun r => { r with ops := r.ops.filter (·.cid != cid) }).mCmd cid fun c => { c with st := .finished } := by
  have hsent : o.links.all (·.doneSent) = true := List.all_eq_true.2 fun l hl => (hdone l hl).1
  have hgot : o.links.all (·.doneGot) = true := List.all_eq_true.2 fun l hl => (hdone l hl).2
  unfold State.advanceOp
  rw [ho, hc]
  dsimp only
  rw [if_neg (by simp [hst]), hsent, if_neg (by simp), if_pos rfl, if_pos hgot]

/-! ### The chunks of a reduction -/

/-- The elements of one chunk but the last (R742). -/
def rdChunkSize (c : Cmd) : Nat := 16 * ceilDiv (rdN c) (16 * rdP c)

theorem rdChunk_eq (c : Cmd) (k : Nat) :
    rdChunk c k = (min (k * rdChunkSize c) (rdN c), min ((k + 1) * rdChunkSize c) (rdN c) - min (k * rdChunkSize c) (rdN c)) := rfl

/-- The chunks of all ranks cover the elements. -/
theorem rdN_le_chunks {c : Cmd} (hp : 2 ≤ rdP c) : rdN c ≤ rdP c * rdChunkSize c := by
  have hpos : 0 < 16 * rdP c := by omega
  have hlt := Nat.lt_div_mul_add (a := rdN c + 16 * rdP c - 1) hpos
  have hmul : rdP c * rdChunkSize c = (rdN c + 16 * rdP c - 1) / (16 * rdP c) * (16 * rdP c) := by
    unfold rdChunkSize ceilDiv
    ring
  omega

theorem rdChunk_spec {c : Cmd} (k : Nat) (hp : 2 ≤ rdP c) : (rdChunk c 0).1 = 0 ∧
    (rdChunk c k).1 + (rdChunk c k).2 = (rdChunk c (k + 1)).1 ∧ (rdChunk c (rdP c)).1 = rdN c := by
  simp only [rdChunk_eq]
  refine ⟨by simp, ?_, min_eq_right (rdN_le_chunks hp)⟩
  have hmono : k * rdChunkSize c ≤ (k + 1) * rdChunkSize c := Nat.mul_le_mul_right _ (Nat.le_succ k)
  omega

theorem add_mod_cancel {r p m : Nat} (hr : r < p) (hm : m ≤ 2 * p) : ((r + 2 * p - m) % p + m) % p = r := by
  rw [Nat.mod_add_mod, Nat.sub_add_cancel (by omega), Nat.add_mul_mod_self_right, Nat.mod_eq_of_lt hr]

/-- The n-th chunk received is the one that R742 names, in the reduce-scatter and in the all-gather. -/
theorem rdRecv_spec {c : Cmd} {n : Nat} (hr : rdRank c < rdP c) (hn : n < rdP c - 1) :
    (rdRecv c n + n + 1) % rdP c = rdRank c ∧ (rdRecv c (rdP c - 1 + n) + n) % rdP c = rdRank c := by
  have hscatter : rdRecv c n = (rdRank c + 2 * rdP c - (n + 1)) % rdP c := (if_pos hn).trans (by rw [Nat.sub_sub])
  have hgather : rdRecv c (rdP c - 1 + n) = (rdRank c + 2 * rdP c - n) % rdP c := (if_neg (by omega)).trans (by rw [Nat.add_sub_cancel_left])
  rw [hscatter, hgather, Nat.add_assoc]
  exact ⟨add_mod_cancel hr (by omega), add_mod_cancel hr (by omega)⟩

/-- Settles O52: the two commands, the start, the end, and the chunks of a reduction. -/
theorem routeOperations : Obligations.RouteOperations := by
  unfold Obligations.RouteOperations
  refine ⟨fun s cid c ho => ⟨execRouteExchange_spec ho, execRouteReduce_spec ho⟩, fun s cid o c hl ho hc hnew =>
    execRouteOperationStart_spec hl ho hc hnew, fun s cid o c ho hc hst hsent hne => State.advanceOp_of_moving ho hc hst hsent hne,
    fun s cid o c ho hc hst hdone => State.advanceOp_of_done ho hc hst hdone, fun c k n hp _ => ?_⟩
  obtain ⟨hzero, hnext, hall⟩ := rdChunk_spec k hp
  exact ⟨hzero, hnext, hall, rdRecv_spec⟩

end Sys2Proof.Machine
end

section
/-! PROOFS. Doorbells, rings and the checks of manifests (R626 to R646). -/
namespace Sys2Proof.Machine

theorem State.mFn_congr (s : State) (n : Nat) {f g : Fn → Fn} (h : f (s.fn n) = g (s.fn n)) : s.mFn n f = s.mFn n g := by
  unfold State.mFn mapMod
  unfold State.fn at h
  rw [h]

/-! ### The ring of a function -/

/-- DOORBELL of an enabled ring, by how far the new PROD lies ahead of CONS and of PROD (R627, R631). -/
theorem execDoorbell_spec {s : State} {fn : Nat} (v : Nat) {f : Fn} {w : BitVec 32} (hp : s.pageOn fn = true) (hf : f = s.fn fn)
    (hw : w = BitVec.ofNat 32 v) :
    (f.en = false → exec (.doorbell fn v) s = .next s) ∧
    (f.en = true →
      ((w - f.cons).toNat ≤ 2 ^ f.ringLog2 → (w - f.prod).toNat < 2 ^ 31 → exec (.doorbell fn v) s = .next
        (s.mFn fn fun f => { f with prod := w, pend := true, stopped := false })) ∧
      (2 ^ 31 ≤ (w - f.prod).toNat → exec (.doorbell fn v) s = .next (s.mFn fn fun f => { f with pend := true, stopped := false })) ∧
      (2 ^ f.ringLog2 < (w - f.cons).toNat → (w - f.prod).toNat < 2 ^ 31 → exec (.doorbell fn v) s = .next
        ((s.mFn fn fun f => { f with dbErr := true }).raise { code := 0x106, fn := some fn }))) := by
  have hexec : exec (.doorbell fn v) s = execDoorbell fn v s := rfl
  rw [hexec]
  unfold execDoorbell
  dsimp only
  rw [← hf, ← hw]
  refine ⟨fun hen => by rw [if_pos (by simp [hen])], fun hen => ?_⟩
  rw [if_neg (by simp [hp, hen])]
  generalize (w - f.prod).toNat = ahead
  generalize (w - f.cons).toNat = used
  refine ⟨fun hroom hahead => ?_, fun hbehind => ?_, fun hfull hahead => ?_⟩
  · rw [if_pos (by simp [hroom]; omega)]
  · rw [if_neg (by simp; omega), if_pos (by simp; omega)]
  · rw [if_neg (by simp; omega), if_neg (by simp; omega)]

/-- A write of STK_RING_CFG (R626, R690, R692). -/
theorem execRingEnable_spec {s : State} {fn : Nat} (v : Nat) {f : Fn} (hp : s.pageOn fn = true) (hf : f = s.fn fn) :
    (bits v 5 1 < 8 ∨ 16 < bits v 5 1 → exec (.ringEnable fn v) s = .next s) ∧
    (8 ≤ bits v 5 1 → bits v 5 1 ≤ 16 →
      (f.en = true → bit v 0 = true → exec (.ringEnable fn v) s = .next (s.mFn fn fun f => f)) ∧
      (f.en = true → bit v 0 = false → exec (.ringEnable fn v) s = .next (s.mFn fn Fn.disable)) ∧
      (f.en = false → bit v 0 = true → exec (.ringEnable fn v) s = .next
        (s.mFn fn fun f => { f with ringLog2 := bits v 5 1, en := true, cons := 0, prod := 0, count := 0 })) ∧
      (f.en = false → bit v 0 = false → exec (.ringEnable fn v) s = .next (s.mFn fn fun f => { f with ringLog2 := bits v 5 1 }))) := by
  subst hf
  refine ⟨fun hout => if_pos (by simp [hout]), fun hlo hhi => ?_⟩
  have hin : ¬(!s.pageOn fn || decide (bits v 5 1 < 8 ∨ 16 < bits v 5 1)) = true := by
    rw [hp, decide_eq_false (by omega)]
    decide
  refine ⟨fun hen hb => ?_, fun hen hb => ?_, fun hen hb => ?_, fun hen hb => ?_⟩ <;>
    exact (if_neg hin).trans (congrArg _ (State.mFn_congr s fn (by simp [hen, hb])))

/-- RING_IDLE_RECHECK and DELEGATE on a ring (R632, R643). -/
theorem execDelegate_spec {s : State} {fn : Nat} {f : Fn} (hp : s.pageOn fn = true) (hf : f = s.fn fn) :
    (f.recheck = true → exec (.ringIdleRecheck fn) s = .next
      (s.mFn fn fun f => { f with recheck := false, pend := f.pend || decide (f.cons ≠ f.prod) })) ∧
    (f.held = none → f.body = [] → exec (.admissionResume fn) s = .next s ∧ exec (.delegate fn) s = .next s) ∧
    (f.held = none → ∀ bs rest, f.body = bs :: rest → exec (.delegate fn) s = .next
      (((s.mFn fn fun f => { f with body := rest }).takeManifest fn bs (some f.bodyCtx)).entryDone fn)) := by
  have hresume : exec (.admissionResume fn) s = execAdmissionResume fn s := rfl
  have hdelegate : exec (.delegate fn) s = execDelegate fn s := rfl
  rw [hresume, hdelegate]
  unfold execAdmissionResume execDelegate
  dsimp only
  rw [← hf]
  refine ⟨fun hre => if_pos (by rw [← hf]; simp [hp, hre]), fun hheld hbody => by rw [hheld, hbody]; exact ⟨rfl, rfl⟩,
    fun hheld bs rest hbody => ?_⟩
  rw [hbody]
  dsimp only
  rw [if_neg (by simp [hp, hheld])]

/-- ADMISSION_RESUME of a held Engine manifest (R593, R635, R687). -/
theorem execAdmissionResume_spec {s u : State} {fn : Nat} {c : Cmd} {x : Ctx} (hp : s.pageOn fn = true) (hheld : (s.fn fn).held = some c)
    (hx : s.ctx? c.ctx = some x) (h1 : c.opcode ≠ 1) (h2 : c.opcode ≠ 0x2C) (hu : u = s.mFn fn fun f => { f with held := none }) :
    (x.dead = true → exec (.admissionResume fn) s = .next ((u.mFn fn fun f => { f with deadSkips := f.deadSkips + 1 }).entryDone fn)) ∧
    (x.dead = false → s.storeRoom (fnDie fn) c.tset.length = true → exec (.admissionResume fn) s = .next
      (((u.mStk fun k => { k with nextCid := k.nextCid + 1 }).putEngine s.stk.nextCid c x).entryDone fn)) ∧
    (x.dead = false → s.storeRoom (fnDie fn) c.tset.length = false → exec (.admissionResume fn) s = .next s) := by
  have hexec : exec (.admissionResume fn) s = execAdmissionResume fn s := rfl
  rw [hexec]
  unfold execAdmissionResume
  rw [hheld]
  dsimp only
  rw [if_neg (by simp [hp]), hx]
  dsimp only
  rw [if_neg (by simp [h1, h2]), ← hu]
  exact ⟨fun hd => by rw [if_pos hd], fun hd hr => by rw [if_neg (by simp [hd]), if_pos hr],
    fun hd hr => by rw [if_neg (by simp [hd]), if_neg (by simp [hr])]⟩

/-! ### The entry at CONS -/

/-- MANIFEST_FETCH, TAG_WAIT_REREAD and TAG_STOP of a free ring before the entry is read (R630 to R632). -/
theorem execManifestFetch_spec {s : State} {fn : Nat} (hfree : s.ringFree fn = true) :
    ((s.fn fn).tagWait = false → (s.fn fn).cons = (s.fn fn).prod → exec (.manifestFetch fn) s = .next
      (s.mFn fn fun f => if f.pend then { f with pend := false, recheck := true } else f)) ∧
    ((s.fn fn).tagWait = true → exec (.manifestFetch fn) s = .next s ∧ exec (.tagStop fn) s = .next
      (s.mFn fn fun f => { f with tagWait := false, stopped := true, tagStops := f.tagStops + 1 })) ∧
    ((s.fn fn).tagWait = false → (s.fn fn).cons ≠ (s.fn fn).prod → exec (.manifestFetch fn) s = .next (s.readEntry fn true)) ∧
    ((s.fn fn).tagWait = true → exec (.tagWaitReread fn) s = .next (s.readEntry fn false)) :=
  ⟨fun ht heq => (if_neg (by simp [hfree, ht])).trans (if_pos heq),
    fun ht => ⟨if_pos (by simp [ht]), if_pos (by simp [hfree, ht])⟩,
    fun ht hne => (if_neg (by simp [hfree, ht])).trans (if_neg hne), fun ht => if_pos (by simp [hfree, ht])⟩

/-- What the Stoker does with the entry it reads (R630, R631, R769). -/
theorem State.readEntry_spec (s : State) (fn : Nat) (first : Bool) :
    (s.viewPoisoned noUnit { space := .host, addr := (s.fn fn).entryAddr } 128 = true → s.readEntry fn first =
      (((s.newManifest fn).2.2.raise { code := 0x10D, fn := some fn, cmdId := (s.newManifest fn).1 }).mFn fn fun f =>
        { f with tagWait := false }).entryDone fn) ∧
    (s.viewPoisoned noUnit { space := .host, addr := (s.fn fn).entryAddr } 128 = false →
      (fld (s.hostRead (s.fn fn).entryAddr 128) 0 2 = (s.fn fn).tag →
        s.readEntry fn first = s.takeEntry fn (s.hostRead (s.fn fn).entryAddr 128)) ∧
      (fld (s.hostRead (s.fn fn).entryAddr 128) 0 2 ≠ (s.fn fn).tag → s.readEntry fn first =
        if first then s.mFn fn fun f => { f with tagWait := true, tagWaits := f.tagWaits + 1 } else s)) := by
  unfold State.readEntry
  dsimp only
  exact ⟨fun hbad => by rw [if_pos hbad], fun hok => ⟨fun htag => by rw [if_neg (by simp [hok]), if_pos htag],
    fun htag => by rw [if_neg (by simp [hok]), if_neg htag]⟩⟩

/-- An entry whose tag matches is a manifest, or a Delegate whose body is read once (R634, R643, R645). -/
theorem State.takeEntry_spec {s u : State} {fn : Nat} {bs : List Byte} (hu : u = s.mFn fn fun f => { f with tagWait := false }) :
    (bit (fld bs 6 1) 2 = false → s.takeEntry fn bs = (u.takeManifest fn bs none).entryDone fn) ∧
    (bit (fld bs 6 1) 2 = true → u.delegateBody fn bs = none → s.takeEntry fn bs = (u.refuseBody fn bs (fld bs 24 1 + 1)).entryDone fn) ∧
    (bit (fld bs 6 1) 2 = true → ∀ l, u.delegateBody fn bs = some l → s.takeEntry fn bs =
      u.mFn fn fun f => { f with body := l, bodyCtx := fld bs 4 2 % 4096 }) := by
  unfold State.takeEntry mfAttr
  dsimp only
  rw [← hu]
  exact ⟨fun hb => by rw [if_neg (by simp [hb])], fun hb hnone => by rw [if_pos hb, hnone], fun hb l hl => by rw [if_pos hb, hl]⟩

/-- The clauses on the entry at CONS of a free ring (R628 to R634, R643, R645, R769). -/
theorem ringEntry_spec {s : State} {fn a tag : Nat} {f : Fn} {bs : List Byte} (hfree : s.ringFree fn = true) (hf : f = s.fn fn)
    (ha : a = f.entryAddr) (htag : tag = f.tag) (hbs : bs = s.hostRead a 128) :
    (f.tagWait = false → f.cons = f.prod → exec (.manifestFetch fn) s = .next
      (s.mFn fn fun f => if f.pend then { f with pend := false, recheck := true } else f)) ∧
    (f.tagWait = true → exec (.manifestFetch fn) s = .next s ∧ exec (.tagStop fn) s = .next
      (s.mFn fn fun f => { f with tagWait := false, stopped := true, tagStops := f.tagStops + 1 })) ∧
    (s.viewPoisoned noUnit { space := .host, addr := a } 128 = false →
      (fld bs 0 2 ≠ tag → f.tagWait = false → f.cons ≠ f.prod → exec (.manifestFetch fn) s = .next
        (s.mFn fn fun f => { f with tagWait := true, tagWaits := f.tagWaits + 1 })) ∧
      (fld bs 0 2 ≠ tag → f.tagWait = true → exec (.tagWaitReread fn) s = .next s)) ∧
    (∀ i, (i = .manifestFetch fn ∧ f.tagWait = false ∧ f.cons ≠ f.prod ∨ i = .tagWaitReread fn ∧ f.tagWait = true) →
      ∀ u, u = s.mFn fn (fun f => { f with tagWait := false }) →
      (s.viewPoisoned noUnit { space := .host, addr := a } 128 = true → exec i s = .next ((((s.newManifest fn).2.2.raise
        { code := 0x10D, fn := some fn, cmdId := (s.newManifest fn).1 }).mFn fn fun f => { f with tagWait := false }).entryDone fn)) ∧
      (s.viewPoisoned noUnit { space := .host, addr := a } 128 = false → fld bs 0 2 = tag →
        (bit (fld bs 6 1) 2 = false → exec i s = .next ((u.takeManifest fn bs none).entryDone fn)) ∧
        (bit (fld bs 6 1) 2 = true → u.delegateBody fn bs = none → exec i s = .next ((u.refuseBody fn bs (fld bs 24 1 + 1)).entryDone fn)) ∧
        (bit (fld bs 6 1) 2 = true → ∀ l, u.delegateBody fn bs = some l → exec i s = .next
          (u.mFn fn fun f => { f with body := l, bodyCtx := fld bs 4 2 % 4096 })))) := by
  obtain ⟨hidle, hwait, hfetch, hreread⟩ := execManifestFetch_spec hfree
  subst hf ha htag hbs
  refine ⟨hidle, hwait, fun hok => ⟨fun hne ht hcons => ?_, fun hne ht => ?_⟩, fun i hi u hu => ?_⟩
  · rw [hfetch ht hcons, ((s.readEntry_spec fn true).2 hok).2 hne, if_pos rfl]
  · rw [hreread ht, ((s.readEntry_spec fn false).2 hok).2 hne, if_neg (by decide)]
  · obtain ⟨first, hread⟩ : ∃ first, exec i s = .next (s.readEntry fn first) := by
      rcases hi with ⟨rfl, ht, hcons⟩ | ⟨rfl, ht⟩
      · exact ⟨true, hfetch ht hcons⟩
      · exact ⟨false, hreread ht⟩
    obtain ⟨hpoisoned, hclean⟩ := s.readEntry_spec fn first
    obtain ⟨hmanifest, hrefused, hbody⟩ := State.takeEntry_spec (bs := s.hostRead (s.fn fn).entryAddr 128) hu
    rw [hread]
    refine ⟨fun hbad => by rw [hpoisoned hbad], fun hok htag => ?_⟩
    rw [(hclean hok).1 htag]
    exact ⟨fun hb => by rw [hmanifest hb], fun hb hnone => by rw [hrefused hb hnone], fun hb l hl => by rw [hbody hb l hl]⟩

/-! ### The checks of a manifest -/

/-- A manifest is taken with the next CMD_ID of its ring (R636). -/
theorem State.takeManifest_spec (s : State) (fn : Nat) (bs : List Byte) (body : Option Nat) : ∃ (u : State) (id : BitVec 32),
    s.takeManifest fn bs body = u.checkManifest s.stk.nextCid (cmdOf fn bs body.isSome id) body ∧
    id = BitVec.ofNat 32 (fn * 2 ^ 27 + (s.fn fn).count % 2 ^ 27) ∧ (u.fn fn).count = ((s.fn fn).count + 1) % 2 ^ 27 ∧ u.mem = s.mem := by
  refine ⟨_, _, rfl, rfl, ?_, rfl⟩
  have hself := congrArg Fn.count (s.mFn_self fn fun f => { f with count := (f.count + 1) % 2 ^ 27, fetched := f.fetched + 1 })
  exact hself

/-- The context of a manifest (R646). -/
theorem State.ownedCtx_spec (s : State) (c : Cmd) :
    ((∀ x, s.ctx? c.ctx = some x → x.fn ≠ c.fn) →
      s.ownedCtx c = .error (s.raiseAs 2 { code := 0x103, fn := some c.fn, cmdId := c.cmdId })) ∧
    ∀ x, s.ctx? c.ctx = some x → x.fn = c.fn →
      (x.dead = true → s.ownedCtx c = .error (s.mFn c.fn fun f => { f with deadSkips := f.deadSkips + 1 })) ∧
      (x.dead = false → s.ownedCtx c = .ok x) := by
  unfold State.ownedCtx
  refine ⟨fun hother => ?_, fun x hx hfn => ?_⟩
  · cases hx : s.ctx? c.ctx with
    | none => rfl
    | some x => exact if_pos (hother x hx)
  · rw [hx]
    dsimp only
    rw [if_neg (not_not.2 hfn)]
    exact ⟨fun hd => if_pos hd, fun hd => if_neg (by simp [hd])⟩

/-- The checks of R646 in their order, for a manifest of a context. -/
theorem State.checkManifest_spec {s : State} {cid kind : Nat} {c : Cmd} {body : Option Nat} (hk : kind ≠ 4) (hop : opKind c.opcode = some kind) :
    ((∀ x, s.ctx? c.ctx = some x → x.fn ≠ c.fn) →
      s.checkManifest cid c body = s.raiseAs 2 { code := 0x103, fn := some c.fn, cmdId := c.cmdId }) ∧
    (∀ x, s.ctx? c.ctx = some x → x.fn = c.fn →
      (x.dead = true → s.checkManifest cid c body = s.mFn c.fn fun f => { f with deadSkips := f.deadSkips + 1 }) ∧
      (x.dead = false →
        (headOk c.bytes kind body = false ∨ operandsOk c = false → s.checkManifest cid c body = s.refuse cid c { code := 0x101 }) ∧
        (headOk c.bytes kind body = true → operandsOk c = true →
          (kind ≠ 2 → bit x.classMask c.cls = false → s.checkManifest cid c body = s.refuse cid c { code := 0x107 }) ∧
          (kind = 2 ∨ bit x.classMask c.cls = true →
            (body ≠ none → opPriv c.opcode = true → s.checkManifest cid c body = s.refuse cid c { code := 0x102 }) ∧
            (body = none ∨ opPriv c.opcode = false →
              (kind = 3 → s.checkManifest cid c body = s.admitEngine cid c x) ∧
              (kind ≠ 3 → s.checkManifest cid c body = s.mStk fun k => { k with cmds := mapSet k.cmds cid c })))))) := by
  obtain ⟨hother, howned⟩ := s.ownedCtx_spec c
  unfold State.checkManifest
  rw [hop]
  dsimp only
  rw [if_neg (by simpa using hk)]
  refine ⟨fun h => by rw [hother h], fun x hx hfn => ⟨fun hd => by rw [(howned x hx hfn).1 hd], fun hd => ?_⟩⟩
  rw [(howned x hx hfn).2 hd]
  dsimp only
  refine ⟨fun hbad => ?_, fun hhead hoperands => ?_⟩
  · rw [if_pos]
    rcases hbad with h | h <;> simp [h]
  rw [if_neg (by simp [hhead, hoperands])]
  refine ⟨fun h2 hcls => by rw [if_pos (by simp [h2, hcls])], fun hcls => ?_⟩
  rw [if_neg (by rcases hcls with h | h <;> simp [h])]
  refine ⟨fun hbody hpriv => by rw [if_pos (by simp [Option.isSome_iff_ne_none.2 hbody, hpriv])], fun hplain => ?_⟩
  rw [if_neg (by rcases hplain with h | h <;> simp [h])]
  exact ⟨fun h3 => by rw [if_pos (by rw [h3])], fun h3 => by rw [if_neg (by simpa using h3)]⟩

/-- An Engine manifest is translated, checked for aliases, and admitted or held (R590 to R593, R649). -/
theorem State.admitEngine_spec {s : State} {cid : Nat} {c : Cmd} {x : Ctx} {rs : List Range} (hrs : rs = s.engineRanges c (s.ctxBytes x)) :
    (∀ e, s.trRanges setLimit x rs [] = .error e → s.admitEngine cid c x = s.refuseTr cid c e) ∧
    (∀ set d, s.trRanges setLimit x rs [] = .ok set → d = { c with tset := set } →
      (s.inMeetsOut c.fn set rs rs = true → s.admitEngine cid c x = s.refuse cid c { code := 0x104 }) ∧
      (s.inMeetsOut c.fn set rs rs = false → s.storeRoom (fnDie c.fn) set.length = true → s.admitEngine cid c x = s.putEngine cid d x) ∧
      (s.inMeetsOut c.fn set rs rs = false → s.storeRoom (fnDie c.fn) set.length = false → s.admitEngine cid c x =
        (s.mFn c.fn fun f => { f with held := some d }).mXlt fun y => { y with storeWaits := y.storeWaits + 1 })) := by
  unfold State.admitEngine
  dsimp only
  rw [← hrs]
  refine ⟨fun e he => by rw [he], ?_⟩
  rintro set d hset rfl
  rw [hset]
  dsimp only
  exact ⟨fun ha => by rw [if_pos ha], fun ha hr => by rw [if_neg (by simp [ha]), if_pos hr],
    fun ha hr => by rw [if_neg (by simp [ha]), if_neg (by simp [hr])]⟩

/-- Settles O53: the ring's registers, the entry at CONS, the number of a manifest, and its checks in order. -/
theorem ringsAndManifests : Obligations.RingsAndManifests := by
  unfold Obligations.RingsAndManifests
  refine ⟨fun s fn v f w hp hf hw => ?_, fun s fn a tag f bs hfree hf ha htag hbs => ringEntry_spec hfree hf ha htag hbs,
    State.takeManifest_spec, fun s cid kind c body hk hop => State.checkManifest_spec hk hop,
    fun s cid c x rs hrs => State.admitEngine_spec hrs⟩
  obtain ⟨hoff, hon⟩ := execDoorbell_spec v hp hf hw
  obtain ⟨hout, hin⟩ := execRingEnable_spec v hp hf
  obtain ⟨hrecheck, hidle, hdelegate⟩ := execDelegate_spec hp hf
  refine ⟨hoff, hon, hout, hin, hrecheck, hidle, hdelegate, fun c x u hheld hx h1 h2 hu => ?_⟩
  exact execAdmissionResume_spec hp (hf ▸ hheld) hx h1 h2 hu

end Sys2Proof.Machine
end

section
/-! PROOFS. The row commands of the Serais (R281 to R292, R317). -/
namespace Sys2Proof.Machine

/-! ### The list of a Replace Rows -/

/-- lastPlaces pairs each row with its highest position (R284). -/
theorem mem_lastPlaces (l : List Nat) (n r i : Nat) :
    (r, n + i) ∈ lastPlaces l n ↔ l[i]? = some r ∧ ∀ j, i < j → l[j]? ≠ some r := by
  induction l generalizing n i with
  | nil => simp [lastPlaces]
  | cons x l ih =>
    have hlow : ∀ (l : List Nat) (m : Nat), ∀ p ∈ lastPlaces l m, m ≤ p.2 := by
      intro l
      induction l with
      | nil => intro m p hp; exact absurd hp List.not_mem_nil
      | cons y l ih =>
        intro m p hp
        unfold lastPlaces at hp
        split at hp
        · exact Nat.le_of_succ_le (ih (m + 1) p hp)
        · rcases List.mem_cons.1 hp with rfl | hp
          · exact Nat.le_refl m
          · exact Nat.le_of_succ_le (ih (m + 1) p hp)
    cases i with
    | zero =>
      have hnot : (r, n) ∉ lastPlaces l (n + 1) := fun h => absurd (hlow l (n + 1) _ h) (by simp)
      have hafter : (∀ j, 0 < j → (x :: l)[j]? ≠ some r) ↔ r ∉ l := by
        rw [List.mem_iff_getElem?]
        push Not
        exact ⟨fun h j => by simpa using h (j + 1) (Nat.succ_pos j), fun h j hj => by
          obtain ⟨k, rfl⟩ := Nat.exists_eq_add_of_lt hj
          simpa using h k⟩
      unfold lastPlaces
      rw [hafter]
      by_cases hx : x ∈ l
      · rw [if_pos (by simpa using hx)]
        refine ⟨fun h => absurd h hnot, fun ⟨h0, hr⟩ => ?_⟩
        obtain rfl : x = r := by simpa using h0
        exact absurd hx hr
      · rw [if_neg (by simpa using hx)]
        simp only [Nat.add_zero, List.mem_cons, Prod.mk.injEq, and_true, hnot, or_false, List.getElem?_cons_zero, Option.some.injEq]
        exact ⟨fun h => ⟨h.symm, h ▸ hx⟩, fun h => h.1.symm⟩
    | succ i =>
      have hmem : (r, n + (i + 1)) ∈ lastPlaces (x :: l) n ↔ (r, n + 1 + i) ∈ lastPlaces l (n + 1) := by
        rw [Nat.add_assoc, Nat.add_comm 1 i]
        conv_lhs => unfold lastPlaces
        split
        · rfl
        · simp
      rw [hmem, ih]
      refine and_congr (by simp) ⟨fun h j hj => ?_, fun h j hj => by simpa using h (j + 1) (by omega)⟩
      obtain ⟨k, rfl⟩ : ∃ k, j = k + 1 := ⟨j - 1, by omega⟩
      simpa using h k (by omega)

/-- The entry that Replace Rows stages for a row named at a place of its list (R285). -/
def State.replaceEntry (s : State) (cid : Nat) (c : Cmd) (t : Table) (p : Nat × Nat) : Overlay :=
  let da := c.arg 48 8 + p.2 * t.rowBytes
  let sa := c.arg 56 8 + p.2 * t.stride
  { table := c.arg 32 2, row := p.1, data := s.cmdRead cid c da t.rowBytes, poison := s.cmdPoison cid c da t.rowBytes
    state := if c.arg 56 8 = 0 then [] else s.cmdRead cid c sa t.stride
    stPoison := c.arg 56 8 != 0 && s.cmdPoison cid c sa t.stride
    cid := cid, discardGrad := bit (c.arg 34 1) 0, resetState := bit (c.arg 34 1) 1 }

/-- REPLACE_ROWS (R283 to R285). -/
theorem execReplaceRows_spec {s : State} {cid : Nat} {c : Cmd} (ho : s.orderOk cid c = true) (hc : s.ready? cid 0x0A .admitted = some c) :
    (s.rowsOk cid c false = none → exec (.replaceRows cid) s = .next (s.tearCmd c { code := 0x342, detail := s.detTid (c.arg 32 2) })) ∧
    (∀ t, s.rowsOk cid c false = some t → exec (.replaceRows cid) s = .next
      ((((lastPlaces (s.rowList cid c) 0).map (s.replaceEntry cid c t)).foldl (fun (u : State) o => u.stageRow (t.home o.row) o)
        { s with stk := { s.stk with cmds := mapAdj s.stk.cmds cid fun c => { c with st := .running } } }).stagedAll cid)) := by
  have hexec : exec (.replaceRows cid) s = execReplaceRows cid s := rfl
  rw [hexec]
  unfold execReplaceRows
  rw [hc]
  dsimp only
  rw [if_neg (by simp [ho])]
  exact ⟨fun hbad => by rw [hbad]; rfl, fun t hok => by rw [hok]; rfl⟩

/-- What the entries of a Replace Rows hold (R284, R285). -/
theorem replaceEntries_spec (s : State) (cid : Nat) (c : Cmd) (t : Table) (places : List (Nat × Nat)) :
    (places.map (s.replaceEntry cid c t)).map (·.row) = places.map (·.1) ∧
    ∀ o ∈ places.map (s.replaceEntry cid c t), o.table = c.arg 32 2 ∧ o.cid = cid ∧ o.discardGrad = bit (c.arg 34 1) 0 ∧
      o.resetState = bit (c.arg 34 1) 1 ∧ ∃ i, (o.row, i) ∈ places ∧ o.data = s.cmdRead cid c (c.arg 48 8 + i * t.rowBytes) t.rowBytes ∧
        o.state = (if c.arg 56 8 = 0 then [] else s.cmdRead cid c (c.arg 56 8 + i * t.stride) t.stride) := by
  refine ⟨by rw [List.map_map]; rfl, fun o hmem => ?_⟩
  obtain ⟨p, hp, rfl⟩ := List.mem_map.1 hmem
  exact ⟨rfl, rfl, rfl, rfl, p.2, hp, rfl, rfl⟩

/-! ### Read Rows -/

/-- READ_ROWS once its checks have passed and nothing makes it wait (R289). -/
theorem execReadRows_spec {s : State} {cid : Nat} {c : Cmd} {t : Table} {rows : List Nat} (ho : s.orderOk cid c = true)
    (hc : s.ready? cid 0x0B .admitted = some c) (hok : s.rowsOk cid c true = some t) (hrows : rows = s.rowList cid c)
    (hfree : ∀ r ∈ rows, s.rowBusy (c.arg 32 2) t r = false ∧ s.handingOver (c.arg 32 2) t r = false)
    (hdata : s.cmdConflict cid c (c.arg 48 8) (t.rowBytes * rows.length) = false)
    (hstate : c.arg 56 8 ≠ 0 → s.cmdConflict cid c (c.arg 56 8) (t.stride * rows.length) = false) :
    (∀ pre r post, rows = pre ++ r :: post → (∀ x ∈ pre, s.rowPoisoned (c.arg 32 2) t x = false ∧
        (c.arg 56 8 ≠ 0 → s.statePoisoned (c.arg 32 2) t x = false)) →
      (s.rowPoisoned (c.arg 32 2) t r = true ∨ c.arg 56 8 ≠ 0 ∧ s.statePoisoned (c.arg 32 2) t r = true) →
      exec (.readRows cid) s = .next
        (s.tearCmd c { code := 0x334, detail := detTable (c.arg 32 2) (t.home r) 0xFF (t.shardOf r) r t.version })) ∧
    ((∀ x ∈ rows, s.rowPoisoned (c.arg 32 2) t x = false ∧ (c.arg 56 8 ≠ 0 → s.statePoisoned (c.arg 32 2) t x = false)) →
      ∃ u v : State, exec (.readRows cid) s = .next (v.mCmd cid fun c => { c with st := .finished }) ∧
        u = s.cmdWrite cid c (c.arg 48 8) (rows.flatMap fun r => s.rowNow (c.arg 32 2) t r) ∧
        v = if c.arg 56 8 = 0 then u else u.cmdWrite cid c (c.arg 56 8) (rows.flatMap fun r => u.stateNow (c.arg 32 2) t r)) := by
  have hwait : (rows.any (fun r => s.rowBusy (c.arg 32 2) t r || s.handingOver (c.arg 32 2) t r) ||
      s.cmdConflict cid c (c.arg 48 8) (t.rowBytes * rows.length) ||
      (c.arg 56 8 != 0 && s.cmdConflict cid c (c.arg 56 8) (t.stride * rows.length))) = false := by
    have hany : rows.any (fun r => s.rowBusy (c.arg 32 2) t r || s.handingOver (c.arg 32 2) t r) = false := by
      rw [List.any_eq_false]
      exact fun r hr => by simp [hfree r hr]
    rw [hany, hdata]
    simpa using hstate
  have hclean {x : Nat} (h : s.rowPoisoned (c.arg 32 2) t x = false ∧ (c.arg 56 8 ≠ 0 → s.statePoisoned (c.arg 32 2) t x = false)) :
      (s.rowPoisoned (c.arg 32 2) t x || (c.arg 56 8 != 0 && s.statePoisoned (c.arg 32 2) t x)) = false := by
    rw [h.1]
    simpa using h.2
  have hexec : exec (.readRows cid) s = execReadRows cid s := rfl
  rw [hexec]
  unfold execReadRows
  rw [hc]
  dsimp only
  rw [if_neg (by simp [ho]), hok]
  dsimp only
  rw [← hrows, if_neg (by rw [hwait]; decide)]
  refine ⟨fun pre r post hsplit hpre hbad => ?_, fun hall => ⟨_, _, ?_, rfl, rfl⟩⟩
  · rw [find?_of_first hsplit (fun x hx => hclean (hpre x hx)) (by simpa using hbad)]
  · rw [List.find?_eq_none.2 fun x hx => by rw [hclean (hall x hx)]; decide]
    dsimp only
    by_cases hst : c.arg 56 8 = 0 <;> simp only [bne_iff_ne, ne_eq, hst, not_true, not_false_eq_true, if_true, if_false]

theorem execReadRows_refused {s : State} {cid : Nat} {c : Cmd} (ho : s.orderOk cid c = true) (hc : s.ready? cid 0x0B .admitted = some c)
    (hbad : s.rowsOk cid c true = none) :
    exec (.readRows cid) s = .next (s.tearCmd c { code := 0x342, detail := s.detTid (c.arg 32 2) }) := by
  have hexec : exec (.readRows cid) s = execReadRows cid s := rfl
  rw [hexec]
  unfold execReadRows
  rw [hc]
  dsimp only
  rw [if_neg (by simp [ho]), hbad]
  rfl

/-! ### Update and Read Load Counts -/

/-- UPDATE (R290 to R293). -/
theorem execUpdate_spec {s : State} {cid : Nat} {c : Cmd} (ho : s.orderOk cid c = true) (hc : s.ready? cid 0x09 .admitted = some c) :
    (∀ r, s.lookupFault cid c true = some r → exec (.update cid) s = .next (s.tearCmd c r)) ∧
    (s.lookupFault cid c true = none → exec (.update cid) s = .next (((List.range (lkBags c)).foldl (fun (u : State) b =>
      u.sendBag cid c true b ((s.bagDescs cid c).getD b ⟨0, 0, 0, 0, 0⟩))
      { s with stk := { s.stk with cmds := mapAdj s.stk.cmds cid fun c => { c with st := .running } } }).bagDone cid 0)) := by
  have hlen : (s.bagDescs cid c).length = lkBags c := by simp [State.bagDescs]
  have hexec : exec (.update cid) s = execUpdate cid s := rfl
  rw [hexec, ← hlen]
  unfold execUpdate
  rw [hc]
  dsimp only
  rw [if_neg (by simp [ho])]
  exact ⟨fun r hr => by rw [hr], fun hr => by rw [hr]; rfl⟩

/-- READ_LOAD_COUNTS (R317). -/
theorem execReadLoadCounts_spec {s : State} {cid : Nat} {c : Cmd} (ho : s.orderOk cid c = true) (hc : s.ready? cid 0x10 .admitted = some c) :
    (∀ t, s.usable c (c.arg 32 2) = some t → s.cmdConflict cid c (c.arg 40 8) (32 * t.shards.length) = false →
      exec (.readLoadCounts cid) s = .next ((s.cmdWrite cid c (c.arg 40 8) (t.shards.flatMap fun h => toLe 8 h.refs.toNat ++
        toLe 8 h.fetches.toNat ++ toLe 8 h.applied.toNat ++ toLe 8 (s.rt (c.arg 32 2)).loadTicks.toNat)).mCmd cid fun c =>
          { c with st := .finished })) ∧
    (s.usable c (c.arg 32 2) = none → exec (.readLoadCounts cid) s = .next (s.mCmd cid fun c => { c with st := .finished })) := by
  have hexec : exec (.readLoadCounts cid) s = execReadLoadCounts cid s := rfl
  rw [hexec]
  unfold execReadLoadCounts
  rw [hc]
  dsimp only
  rw [if_neg (by simp [ho])]
  refine ⟨fun t ht hfree => ?_, fun ht => by rw [ht]⟩
  rw [ht]
  dsimp only
  rw [if_neg (by simp [hfree])]

/-! ### Staging -/

/-- A home with room takes a staged row as its next overlay entry, one without makes it wait (R281). -/
theorem State.stageRow_spec (s : State) (q : Nat) (o : Overlay) :
    ((s.serai q).stageWait = [] → s.overlayRoom q o.table = true → s.stageRow q o = s.mSerai q fun u => { u with
      overlay := u.overlay ++ [{ o with order := u.ovSeq }], ovSeq := u.ovSeq + 1 }) ∧
    ((s.serai q).stageWait ≠ [] ∨ s.overlayRoom q o.table = false → (s.stageRow q o).serai q = { s.serai q with
      stageWait := (s.serai q).stageWait ++ [{ cid := o.cid, entry := o }] }) := by
  unfold State.stageRow
  refine ⟨fun hempty hroom => ?_, fun hfull => ?_⟩
  · rw [if_pos (by simp [hempty, hroom])]
    rfl
  · rw [if_neg (by rcases hfull with h | h <;> simp [h])]
    exact s.mSerai_self q fun u => { u with stageWait := u.stageWait ++ [{ cid := o.cid, entry := o }] }

/-- Settles O55: the row commands in the obligation's order, the list of Replace Rows, and the staging of one row. -/
theorem rowCommands : Obligations.RowCommands := by
  unfold Obligations.RowCommands
  refine ⟨fun s cid c ho => ⟨fun hc => (execReplaceRows_spec ho hc).1, fun hc => execReadRows_refused ho hc, fun t hc hok => ?_, ?_,
    fun hc => execUpdate_spec ho hc, fun t hc => (execReadLoadCounts_spec ho hc).1 t, fun hc => (execReadLoadCounts_spec ho hc).2⟩,
    fun l r i => ?_, State.stageRow_spec⟩
  · obtain ⟨hrows, hentries⟩ := replaceEntries_spec s cid c t (lastPlaces (s.rowList cid c) 0)
    exact ⟨_, _, (execReplaceRows_spec ho hc).2 t hok, rfl, hrows, hentries⟩
  · exact fun t rows hc hok hrows hfree hdata hstate => execReadRows_spec ho hc hok hrows hfree hdata hstate
  · simpa using mem_lastPlaces l 0 r i

end Sys2Proof.Machine
end

section
/-! PROOFS. The overlay's write-back and an apply (R280, R281, R287, R296 to R306). -/
namespace Sys2Proof.Machine

/-! ### The oldest entry -/

/-- An entry older than every other of a list stands behind none that is as old. -/
theorem split_at_oldest {l : List Overlay} {o : Overlay} (hmem : o ∈ l) (hold : ∀ x ∈ l, x = o ∨ o.order < x.order) :
    ∃ pre post, l = pre ++ o :: post ∧ (∀ x ∈ pre, o.order < x.order) ∧ ∀ x ∈ post, ¬x.order < o.order := by
  obtain ⟨pre, post, rfl, hnot⟩ := List.eq_append_cons_of_mem hmem
  refine ⟨pre, post, rfl, fun x hx => ?_, fun x hx => ?_⟩
  · exact (hold x (List.mem_append_left _ hx)).resolve_left fun h => hnot (h ▸ hx)
  · rcases hold x (List.mem_append_right _ (List.mem_cons_of_mem _ hx)) with rfl | h
    · exact Nat.lt_irrefl _
    · omega

/-! ### Write-back -/

/-- OVERLAY_WRITEBACK of the oldest VISIBLE entry of a row (R280, R287, R321). -/
theorem execOverlayWriteback_spec {s : State} {q tid row : Nat} {t : Table} {o : Overlay} (hl : s.live = true) (ht : s.table? tid = some t)
    (ho : o ∈ (s.serai q).overlay) (htab : o.table = tid) (hrow : o.row = row) (hst : o.st = .visible)
    (hold : ∀ x ∈ (s.serai q).overlay, x.table = tid → x.row = row → x.st = .visible → x = o ∨ o.order < x.order) :
    (s.handingOver tid t row = true → exec (.overlayWriteback q tid row) s = .next s) ∧
    (s.handingOver tid t row = false → ∃ u v : State, exec (.overlayWriteback q tid row) s = .next
        (v.mSerai q fun x => { x with overlay := x.overlay.erase o }) ∧ u = s.applyRow tid t row o.data o.state o.poison o.stPoison ∧
      (∀ da, t.rowDa (t.shard (t.shardOf row)) (t.localOf row) = some da → t.localOf row < (t.shard (t.shardOf row)).stackRows →
        o.poison = false → v = (u.writeUnit tid t row (da / 64 * 64)).writeUnit tid t row ((da + t.rowBytes - 1) / 64 * 64)) ∧
      (t.rowDa (t.shard (t.shardOf row)) (t.localOf row) = none ∨ (t.shard (t.shardOf row)).stackRows ≤ t.localOf row ∨ o.poison = true →
        v = u)) := by
  have hmem : o ∈ (s.serai q).overlay.filter fun o => o.table == tid && o.row == row && o.st == .visible :=
    List.mem_filter.2 ⟨ho, by simp [htab, hrow, hst]⟩
  obtain ⟨pre, post, hsplit, hpre, hpost⟩ := split_at_oldest hmem fun x hx => by
    obtain ⟨hin, hx⟩ := List.mem_filter.1 hx
    simp only [Bool.and_eq_true, beq_iff_eq] at hx
    exact hold x hin hx.1.1 hx.1.2 hx.2
  have hexec : exec (.overlayWriteback q tid row) s = execOverlayWriteback q tid row s := rfl
  rw [hexec]
  unfold execOverlayWriteback
  dsimp only
  rw [hl, ht, hsplit, foldl_best_eq (lt := fun x b => x.order < b.order) (fun _ => rfl) (fun _ _ => rfl) hpre hpost]
  dsimp only
  refine ⟨fun hh => by rw [if_pos hh], fun hh => ?_⟩
  · rw [if_neg (by simp [hh])]
    refine ⟨_, _, rfl, rfl, fun da hda hstack hp => ?_, fun hno => ?_⟩
    · rw [hda]
      exact if_pos (by simp [hstack, hp])
    · split
      · next da hda =>
        refine if_neg ?_
        rcases hno with h | h | h
        · rw [h] at hda
          exact nomatch hda
        · simp [h]
        · simp [h]
      · rfl

/-- OVERLAY_STAGE_RESUME takes the rows that waited in order while there is room (R281). -/
theorem execOverlayStageResume_spec {s : State} {q : Nat} (hl : s.live = true) :
    ((s.serai q).stageWait = [] → exec (.overlayStageResume q) s = .next s) ∧
    (∀ w rest, (s.serai q).stageWait = w :: rest →
      (s.overlayRoom q w.entry.table = false → exec (.overlayStageResume q) s = .next s) ∧
      (s.overlayRoom q w.entry.table = true → exec (.overlayStageResume q) s = .next
        ((((s.putOverlay q w.entry).mSerai q fun u => { u with stageWait := rest }).stagedAll w.cid).resumeStages q rest.length))) := by
  have hexec : exec (.overlayStageResume q) s = .next (s.resumeStages q (s.serai q).stageWait.length) := if_pos hl
  rw [hexec]
  refine ⟨fun hnone => by rw [hnone]; rfl, fun w rest hw => ?_⟩
  have hstep : s.resumeStages q (s.serai q).stageWait.length = if s.overlayRoom q w.entry.table then
      (((s.putOverlay q w.entry).mSerai q fun u => { u with stageWait := rest }).stagedAll w.cid).resumeStages q rest.length else s := by
    rw [hw, List.length_cons]
    conv_lhs => unfold State.resumeStages
    rw [hw]
  rw [hstep]
  exact ⟨fun hr => by rw [if_neg (by simp [hr])], fun hr => by rw [if_pos hr]⟩

/-! ### An apply -/

/-- SERAI_APPLY of the row's entry in the oldest apply set (R218, R296, R299, R300). -/
theorem execSeraiApply_spec {s u : State} {q tid row : Nat} {t : Table} {m : Merge} {o : Optimiser} (hl : s.live = true)
    (ht : s.table? tid = some t) (ho : t.opt = some o)
    (hm : (s.serai q).applySet.find? (fun m => m.table == tid && m.row == row) = some m) (hh : s.handingOver tid t row = false)
    (hold : ∀ x ∈ (s.serai q).applySet, m.tick ≤ x.tick) (hu : u = s.mSerai q fun x => { x with applySet := x.applySet.erase m }) :
    (t.noPlace row = true → exec (.seraiApply q tid row) s = .next (u.mSeraiCnt q fun k => { k with flashDiscards := k.flashDiscards + 1 })) ∧
    (t.noPlace row = false → (u.rowPoisoned tid t row = true ∨ o.kind ≠ 0 ∧ u.statePoisoned tid t row = true) →
      exec (.seraiApply q tid row) s = .next ((u.mSeraiCnt q fun k => { k with poisonDrops := k.poisonDrops + 1 }).raise
        { code := 0x335, fn := some t.fn, detail := detTable tid q 0xFF (t.shardOf row) row t.version })) ∧
    (t.noPlace row = false → u.rowPoisoned tid t row = false → (o.kind ≠ 0 → u.statePoisoned tid t row = false) → ∀ r,
      r = applyEval t tid row m.version o (u.rowScales tid t row) (u.rowNow tid t row) (if o.kind = 0 then [] else u.stateNow tid t row) m.acc →
      ∃ v : State, exec (.seraiApply q tid row) s =
          .next (v.mTable tid fun x => x.mShard (t.shardOf row) fun h => { h with applied := h.applied + 1 }) ∧
        v = ((u.applyWrite tid t row r.1 r.2.1).addClip tid r.2.2.1 r.2.2.2).mSeraiCnt q fun k => { k with applied := k.applied + 1 }) := by
  obtain ⟨htab, hrow⟩ : m.table = tid ∧ m.row = row := by simpa using List.find?_some hm
  have hnoolder : ((s.serai q).applySet.any fun x => decide (x.tick < m.tick)) = false := by
    rw [List.any_eq_false]
    exact fun x hx => by simpa using hold x hx
  have hexec : exec (.seraiApply q tid row) s = .next (s.applyOne q m) := by
    show execSeraiApply q tid row s = _
    unfold execSeraiApply State.applyOf
    rw [hl, ht, hm]
    exact if_neg (by simp [hh, hnoolder])
  have hut : u.table? m.table = some t := by
    rw [hu, htab]
    exact ht
  rw [hexec]
  unfold State.applyOne
  dsimp only
  rw [← hu, hut]
  dsimp only
  rw [ho]
  dsimp only
  rw [htab, hrow]
  refine ⟨fun hp => by rw [if_pos hp], fun hp hbad => ?_, ?_⟩
  · rw [if_neg (by simp [hp]), if_pos (by simpa using hbad)]
  · rintro hp hclean hstate r rfl
    refine ⟨_, ?_, rfl⟩
    rw [if_neg (by simp [hp]), if_neg (by simpa [hclean] using hstate)]

/-! ### The optimisers' rules -/

/-- What a list of new elements holds at a place (R305). -/
theorem getD_minus {w x : List Nat} {i : Nat} (hw : i < w.length) (hx : i < x.length) :
    ((w.zip x).map fun p => f32Sub p.1 p.2).getD i 0 = f32Sub (w.getD i 0) (x.getD i 0) := by
  simp [List.getD_eq_getElem?_getD, hw, hx]

theorem getD_zip_map {m g : List Nat} {i : Nat} (hm : i < m.length) (hg : i < g.length) (f : Nat → Nat → Nat) :
    ((m.zip g).map fun p => f p.1 p.2).getD i 0 = f (m.getD i 0) (g.getD i 0) := by
  simp [List.getD_eq_getElem?_getD, hm, hg]

theorem getD_map_of_lt {g : List Nat} {i : Nat} (hg : i < g.length) (f : Nat → Nat) : (g.map f).getD i 0 = f (g.getD i 0) := by
  simp [List.getD_eq_getElem?_getD, hg]

/-- R305's rules, one element and one state value at a time, in the order written (R306). -/
theorem ruleEval_spec (r : Rule) (w g m : List Nat) (a i n sq : Nat) (hn : n = w.length) (hg : g.length = n) (hm : m.length = n) (hi : i < n)
    (hsq : sq = g.foldl (fun a x => f32Add a (f32Mul x x)) 0) :
    (ruleEval r 0 w g m a).1.getD i 0 = f32Sub (w.getD i 0) (f32Mul r.lr (g.getD i 0)) ∧
    (∀ m', m' = f32Add (f32Mul r.b1 (m.getD i 0)) (g.getD i 0) → (ruleEval r 1 w g m a).2.1.getD i 0 = m' ∧
      (ruleEval r 1 w g m a).1.getD i 0 = f32Sub (w.getD i 0) (f32Mul r.lr m')) ∧
    (∀ a', a' = f32Add a (f32Div sq (f32Of n 0)) → (ruleEval r 2 w g m a).2.2 = [a'] ∧
      (ruleEval r 2 w g m a).1.getD i 0 = f32Sub (w.getD i 0) (f32Div (f32Mul r.lr (g.getD i 0)) (f32Add (f32Sqrt a') r.eps))) ∧
    (∀ m' v', m' = f32Add (f32Mul r.b1 (m.getD i 0)) (f32Mul (f32Sub f32One r.b1) (g.getD i 0)) →
      v' = f32Add (f32Mul r.b2 a) (f32Div (f32Mul (f32Sub f32One r.b2) sq) (f32Of n 0)) →
      (ruleEval r 3 w g m a).2.1.getD i 0 = m' ∧ (ruleEval r 3 w g m a).2.2 = [v'] ∧
      (ruleEval r 3 w g m a).1.getD i 0 = f32Sub (w.getD i 0) (f32Div (f32Mul r.lr m') (f32Add (f32Sqrt v') r.eps))) := by
  have hwi : i < w.length := hn ▸ hi
  have hgi : i < g.length := hg ▸ hi
  have hmi : i < m.length := hm ▸ hi
  have hmoment (f : Nat × Nat → Nat) : i < ((m.zip g).map f).length := by simp [hmi, hgi]
  subst hn
  refine ⟨?_, ?_, ?_, ?_⟩
  · show ((w.zip (g.map _)).map _).getD i 0 = _
    rw [getD_minus hwi (by simpa using hgi), getD_map_of_lt hgi]
  · rintro m' rfl
    have hfirst := getD_zip_map hmi hgi fun x y => f32Add (f32Mul r.b1 x) y
    refine ⟨hfirst, ?_⟩
    show ((w.zip (List.map _ _)).map _).getD i 0 = _
    rw [getD_minus hwi (by simpa using ⟨hmi, hgi⟩), getD_map_of_lt (hmoment _), hfirst]
  · rintro a' rfl
    rw [hsq]
    refine ⟨rfl, ?_⟩
    show ((w.zip (g.map _)).map _).getD i 0 = _
    rw [getD_minus hwi (by simpa using hgi), getD_map_of_lt hgi]
    rfl
  · rintro m' v' rfl rfl
    have hfirst := getD_zip_map hmi hgi fun x y => f32Add (f32Mul r.b1 x) (f32Mul (f32Sub f32One r.b1) y)
    rw [hsq]
    refine ⟨hfirst, rfl, ?_⟩
    show ((w.zip (List.map _ _)).map _).getD i 0 = _
    rw [getD_minus hwi (by simpa using ⟨hmi, hgi⟩), getD_map_of_lt (hmoment _), hfirst]
    rfl

/-- Settles O56: write-back, resumed staging, an apply, and the rules it follows. -/
theorem overlayAndApply : Obligations.OverlayAndApply := by
  unfold Obligations.OverlayAndApply
  exact ⟨fun s q tid row t o hl ht ho htab hrow hst hold => execOverlayWriteback_spec hl ht ho htab hrow hst hold,
    fun s q hl => execOverlayStageResume_spec hl, fun s u q tid row t m o hl ht hopt hm hh hold hu => execSeraiApply_spec hl ht hopt hm hh hold hu,
    fun r w g m a i n sq hn hg hm hi hsq => ruleEval_spec r w g m a i n sq hn hg hm hi hsq⟩

end Sys2Proof.Machine
end

section
/-! PROOFS. Registrations of tables, optimisers and Recipes, and contexts made and destroyed (R187 to R189, R301, R304, R641, R652 to R666). -/
namespace Sys2Proof.Machine

/-! ### Tables -/

/-- A descriptor of an identifier that counts as registered is refused before anything else of it is read (R187). -/
theorem State.checkTable_of_registered {s : State} {c : Cmd} {x : Ctx} {h : List Byte} {p : Bool} {tid : Nat}
    (hread : s.ctxRead x (c.arg 32 8) 128 = .ok (h, p)) (htid : tid = leNat (h.take 2)) (hreg : s.regTable? tid ≠ none) :
    s.checkTable c x = .ok (tid, .error 0x303) := by
  have hfld : fld h 0 2 = tid := htid.symm
  unfold State.checkTable
  simp only [hread, hfld]
  rw [if_pos (Option.isSome_iff_ne_none.2 hreg)]

/-- REGISTER_TABLE (R187, R188). -/
theorem execRegisterTable_spec {s : State} {cid : Nat} {c : Cmd} {x : Ctx} (hc : s.ctl? cid 0x20 = some (c, x)) :
    (∀ e, s.checkTable c x = .error e → exec (.registerTable cid) s = .next (s.refuseTr cid c e)) ∧
    (∀ tid code, s.checkTable c x = .ok (tid, .error code) → code ≠ 0x715 → exec (.registerTable cid) s = .next
      (s.refuse cid c { code := code, detail := detTable tid 0xFF 0xFF 0 0 0 })) ∧
    (∀ tid t, s.checkTable c x = .ok (tid, .ok t) → exec (.registerTable cid) s = .next
      ((s.mTally fun y => { y with fresh := mapSet y.fresh tid t }).commitCtl cid c)) := by
  have hexec : exec (.registerTable cid) s = execRegisterTable cid s := rfl
  rw [hexec]
  unfold execRegisterTable
  rw [hc]
  refine ⟨fun e he => ?_, fun tid code he hne => ?_, fun tid t he => ?_⟩
  · simp only [he]
  · simp only [he]
    rw [if_neg hne]
  · simp only [he]

/-- DEREGISTER_TABLE (R189). -/
theorem execDeregisterTable_spec {s : State} {cid : Nat} {c : Cmd} {x : Ctx} (hc : s.ctl? cid 0x21 = some (c, x)) :
    (s.fnTable c (c.arg 32 2) = none → exec (.deregisterTable cid) s = .next
      (s.refuse cid c { code := 0x301, detail := s.detTid (c.arg 32 2) })) ∧
    (s.fnTable c (c.arg 32 2) ≠ none → (∃ r ∈ s.stk.recipes, ∃ u ∈ r.2.tables, u.table = c.arg 32 2) →
      exec (.deregisterTable cid) s = .next (s.refuse cid c { code := 0x304, detail := s.detTid (c.arg 32 2) })) ∧
    (s.fnTable c (c.arg 32 2) ≠ none → (∀ r ∈ s.stk.recipes, ∀ u ∈ r.2.tables, u.table ≠ c.arg 32 2) →
      exec (.deregisterTable cid) s = .next ((s.leaveTable (c.arg 32 2)).commitCtl cid c)) := by
  have hexec : exec (.deregisterTable cid) s = execDeregisterTable cid s := rfl
  rw [hexec]
  unfold execDeregisterTable
  rw [hc]
  dsimp only
  refine ⟨fun hnone => ?_, fun hsome hused => ?_, fun hsome hfree => ?_⟩
  · rw [hnone]
  · obtain ⟨t, ht⟩ := Option.ne_none_iff_exists'.1 hsome
    rw [ht]
    dsimp only
    rw [if_pos (by simpa using hused)]
  · obtain ⟨t, ht⟩ := Option.ne_none_iff_exists'.1 hsome
    rw [ht]
    dsimp only
    rw [if_neg (by simpa using hfree)]

/-! ### Optimisers -/

/-- REGISTER_OPTIMISER (R301, R304). -/
theorem execRegisterOptimiser_spec {s : State} {cid : Nat} {c : Cmd} {x : Ctx} (hc : s.ctl? cid 0x22 = some (c, x)) :
    (∀ e, s.checkOpt c x = .error e → exec (.registerOptimiser cid) s = .next (s.refuseTr cid c e)) ∧
    (∀ code, s.checkOpt c x = .ok (.error code) → code ≠ 0x715 → exec (.registerOptimiser cid) s = .next
      (s.refuse cid c { code := code, detail := s.detTid (c.arg 32 2) })) ∧
    (∀ o, s.checkOpt c x = .ok (.ok o) → exec (.registerOptimiser cid) s = .next
      ((s.mReg (c.arg 32 2) fun t => { t with optDue := some o }).commitCtl cid c)) := by
  have hexec : exec (.registerOptimiser cid) s = execRegisterOptimiser cid s := rfl
  rw [hexec]
  unfold execRegisterOptimiser
  rw [hc]
  refine ⟨fun e he => ?_, fun code he hne => ?_, fun o he => ?_⟩
  · simp only [he]
  · simp only [he]
    rw [if_neg hne]
  · simp only [he]

/-! ### Recipes -/

/-- A Recipe that its checks pass is not in effect yet (R656). -/
theorem State.recipeOf_not_effective {s : State} {c : Cmd} {x : Ctx} {bs : List Byte} {r : Recipe} (h : s.recipeOf c x bs = some r) :
    r.effective = false := by
  unfold State.recipeOf at h
  dsimp only at h
  split at h
  · split at h
    · exact absurd h (by simp)
    · split at h
      · obtain rfl := Option.some.inj h
        rfl
      · exact absurd h (by simp)
  · exact absurd h (by simp)

/-- A REGISTER_RECIPE whose operands break R663, or whose slot is taken, is refused (R663, R665). -/
theorem execRegisterRecipe_of_bad {s : State} {cid : Nat} {c : Cmd} {x : Ctx} (hc : s.ctl? cid 0x23 = some (c, x))
    (hbad : zeroExcept c.bytes [(32, 2), (40, 12)] = false ∨ 4096 ≤ c.arg 32 2 ∨ s.recipe? (c.arg 32 2) ≠ none ∨ c.arg 48 4 < 128) :
    exec (.registerRecipe cid) s = .next (s.refuse cid c { code := 0x109 }) := by
  have hexec : exec (.registerRecipe cid) s = execRegisterRecipe cid s := rfl
  rw [hexec]
  unfold execRegisterRecipe
  rw [hc]
  dsimp only
  rw [if_pos]
  simp only [Bool.or_eq_true, Bool.not_eq_true', decide_eq_true_eq, Option.isSome_iff_ne_none]
  tauto

/-- A REGISTER_RECIPE of a sound record stores the Recipe that R665 makes of it, or is refused (R663, R665). -/
theorem execRegisterRecipe_of_record {s : State} {cid : Nat} {c : Cmd} {x : Ctx} {h bs : List Byte} (hc : s.ctl? cid 0x23 = some (c, x))
    (hz : zeroExcept c.bytes [(32, 2), (40, 12)] = true) (hslot : c.arg 32 2 < 4096) (hfree : s.recipe? (c.arg 32 2) = none)
    (hlen : 128 ≤ c.arg 48 4) (hhead : s.ctxRead x (c.arg 40 8) 128 = .ok (h, false)) (hrec : recipeLen h = c.arg 48 4)
    (hbody : s.ctxRead x (c.arg 40 8) (c.arg 48 4) = .ok (bs, false)) :
    (s.recipeOf c x bs = none → exec (.registerRecipe cid) s = .next (s.refuse cid c { code := 0x109 })) ∧
    (∀ r, s.recipeOf c x bs = some r → exec (.registerRecipe cid) s = .next
      (((s.mStk fun k => { k with recipes := mapSet k.recipes (c.arg 32 2) r }).countWalks (fnDie c.fn) x r.held).commitCtl cid c)) := by
  have hexec : exec (.registerRecipe cid) s = execRegisterRecipe cid s := rfl
  rw [hexec]
  unfold execRegisterRecipe
  rw [hc]
  dsimp only
  rw [if_neg (by simp [hz, hfree]; omega), hhead]
  dsimp only
  rw [if_neg (by simp [hrec]), hbody]
  dsimp only
  rw [if_neg Bool.false_ne_true]
  refine ⟨fun hnone => ?_, fun r hr => ?_⟩
  · rw [hnone]
  · rw [hr]

/-- DEREGISTER_RECIPE (R666). -/
theorem execDeregisterRecipe_spec {s : State} {cid : Nat} {c : Cmd} {x : Ctx} (hc : s.ctl? cid 0x24 = some (c, x)) :
    ((s.recipe? (c.arg 32 2)).map (·.ctx) ≠ some c.ctx → exec (.deregisterRecipe cid) s = .next (s.refuse cid c { code := 0x108 })) ∧
    ((s.recipe? (c.arg 32 2)).map (·.ctx) = some c.ctx →
      ((∃ w ∈ s.ldg.wb, w.2.recipe = c.arg 32 2) → exec (.deregisterRecipe cid) s = .next (s.refuse cid c { code := 0x10C })) ∧
      ((∀ w ∈ s.ldg.wb, w.2.recipe ≠ c.arg 32 2) → exec (.deregisterRecipe cid) s = .next ((s.mStk fun k => { k with
        recipes := mapAdj k.recipes (c.arg 32 2) fun r => { r with leaving := true } }).commitCtl cid c))) := by
  have hexec : exec (.deregisterRecipe cid) s = execDeregisterRecipe cid s := rfl
  rw [hexec]
  unfold execDeregisterRecipe
  rw [hc]
  dsimp only
  refine ⟨fun hown => ?_, fun hown => ⟨fun hnamed => ?_, fun hfree => ?_⟩⟩
  · rw [if_pos (bne_iff_ne.2 hown)]
  · rw [if_neg (by simpa using hown), if_pos (by simpa using hnamed)]
  · rw [if_neg (by simpa using hown), if_neg (by simpa using hfree)]

/-! ### Contexts -/

/-- The number that a Create Context takes is free and the lowest that is (R654). -/
theorem State.freeCtx_spec {s : State} {n : Nat} (h : s.freeCtx = some n) : s.ctx? n = none ∧ ∀ k < n, s.ctx? k ≠ none := by
  obtain ⟨hn, -, hlt⟩ := List.find?_range_eq_some.1 h
  exact ⟨Option.isNone_iff_eq_none.1 hn, fun k hk hnone => by simpa [hnone] using hlt k hk⟩

/-- CREATE_CONTEXT that its checks refuse, or that finds no free number (R653). -/
theorem execCreateContext_refused {s : State} {cid : Nat} {c : Cmd} (hc : s.ready? cid 0x26 .admitted = some c)
    (hbad : s.createOk c = false ∨ s.freeCtx = none) :
    exec (.createContext cid) s = .next (s.refuseFn cid c (c.arg 32 2 % 512) 0x10B) := by
  have hexec : exec (.createContext cid) s = execCreateContext cid s := rfl
  rw [hexec]
  unfold execCreateContext
  rw [hc]
  dsimp only
  split
  next n hok hfree => exact absurd hbad (by simp [hok, hfree])
  next => rfl

/-- What a function's registers say once a Function manifest took effect (R652). -/
theorem State.answerFn_fn (s : State) (cid : Nat) (c : Cmd) (slot : Nat) : (s.answerFn cid c slot).fn c.fn =
    { s.fn c.fn with fnCnt := (s.fn c.fn).fnCnt + 1, lastLocal := slot, lastFault := 0 } :=
  State.mFn_self s c.fn fun f => { f with fnCnt := f.fnCnt + 1, lastLocal := slot, lastFault := 0 }

theorem State.answerFn_ctx? (s : State) (cid : Nat) (c : Cmd) (slot k : Nat) : (s.answerFn cid c slot).ctx? k = s.ctx? k := rfl

theorem State.answerFn_cmd?_self (s : State) (cid : Nat) (c : Cmd) (slot : Nat) : (s.answerFn cid c slot).cmd? cid = none :=
  (mapGet_mapErase ..).trans (if_pos rfl)

/-- The part with a new context, and the slot that names it (R654). -/
def State.withCtx (s : State) (n fn slot : Nat) (x : Ctx) : State :=
  (s.mStk fun k => { k with ctxs := mapSet k.ctxs n x }).mFn fn fun f => { f with slots := mapSet f.slots slot { valid := true, ctx := n } }

theorem State.withCtx_ctx? (s : State) (n fn slot k : Nat) (x : Ctx) :
    (s.withCtx n fn slot x).ctx? k = if k = n then some x else s.ctx? k := mapGet_mapSet ..

theorem State.withCtx_fn (s : State) (n fn slot : Nat) (x : Ctx) :
    (s.withCtx n fn slot x).fn fn = { s.fn fn with slots := mapSet (s.fn fn).slots slot { valid := true, ctx := n } } :=
  State.mFn_self (s.mStk fun k => { k with ctxs := mapSet k.ctxs n x }) fn fun f => { f with
    slots := mapSet f.slots slot { valid := true, ctx := n } }

/-- CREATE_CONTEXT that its checks pass (R654). -/
theorem execCreateContext_made {s : State} {cid n : Nat} {c : Cmd} (hc : s.ready? cid 0x26 .admitted = some c)
    (hok : s.createOk c = true) (hfree : s.freeCtx = some n) :
    exec (.createContext cid) s = .next ((s.withCtx n c.fn (c.arg 32 2) (newCtx c)).answerFn cid c (c.arg 32 2)) := by
  have hexec : exec (.createContext cid) s = execCreateContext cid s := rfl
  rw [hexec]
  unfold execCreateContext
  rw [hc]
  simp only [hok, hfree]
  rfl

/-- The part as DESTROY_CONTEXT's first step leaves it: the context is torn down and its Recipes are deregistered (R655, R666). -/
def State.beginDestroy (s : State) (cid ctx : Nat) : State :=
  ((s.teardown ctx).dropRecipes ctx).mStk fun k => { k with
    ctxs := mapAdj k.ctxs ctx fun x => { x with destroying := true }, cmds := mapAdj k.cmds cid fun c => { c with st := .running } }

/-- DESTROY_CONTEXT of a slot that is not valid (R655). -/
theorem execDestroyContext_invalid {s : State} {cid : Nat} {c : Cmd} {l : LocalSlot} (hl : s.live = true) (hc : s.cmd? cid = some c)
    (hop : c.opcode = 0x27) (hslot : l = mapGetD (s.fn c.fn).slots (c.arg 32 2) {}) (hv : l.valid = false) :
    exec (.destroyContext cid) s = .next (s.refuseFn cid c (c.arg 32 2 % 512) 0x10B) := by
  subst hslot
  have hexec : exec (.destroyContext cid) s = execDestroyContext cid s := rfl
  rw [hexec]
  unfold execDestroyContext
  rw [if_neg (by simp [hl]), hc]
  dsimp only
  rw [if_neg (not_not.2 hop), if_pos (by rw [hv]; rfl)]

/-- DESTROY_CONTEXT of a valid slot: once begun, it completes when the context has drained (R655). -/
theorem execDestroyContext_valid {s u : State} {cid : Nat} {c : Cmd} {l : LocalSlot} (hl : s.live = true) (hc : s.cmd? cid = some c)
    (hop : c.opcode = 0x27) (hslot : l = mapGetD (s.fn c.fn).slots (c.arg 32 2) {}) (hv : l.valid = true)
    (hu : u = if c.st == .admitted then s.beginDestroy cid l.ctx else s) :
    (∀ x, u.ctx? l.ctx = some x → u.drained l.ctx = true → exec (.destroyContext cid) s = .next
      ((u.dropCtx l.ctx x).answerFn cid c (c.arg 32 2))) ∧
    (u.drained l.ctx = false → exec (.destroyContext cid) s = .next u) := by
  subst hslot
  have hexec : exec (.destroyContext cid) s = execDestroyContext cid s := rfl
  rw [hexec]
  unfold execDestroyContext
  rw [if_neg (by simp [hl]), hc]
  dsimp only
  rw [if_neg (not_not.2 hop), if_neg (by rw [hv]; exact Bool.false_ne_true)]
  unfold State.beginDestroy at hu
  rw [← hu]
  refine ⟨fun x hx hd => ?_, fun hd => ?_⟩
  · rw [hx]
    dsimp only
    rw [if_pos hd]
  · split
    · rfl
    · rw [if_neg (by rw [hd]; exact Bool.false_ne_true)]

/-- Settles O58, command by command. -/
theorem registrations : Obligations.Registrations := by
  refine ⟨fun s cid c x => ⟨fun hc => ?_, execDeregisterTable_spec, execRegisterOptimiser_spec, fun hc => ?_, execDeregisterRecipe_spec⟩,
    fun s cid c hc => ?_, fun s cid c l hl hc hop hslot => ?_⟩
  · obtain ⟨htr, hbad, hok⟩ := execRegisterTable_spec hc
    exact ⟨htr, hbad, hok, fun h p tid => State.checkTable_of_registered⟩
  · refine ⟨execRegisterRecipe_of_bad hc, fun h bs r hz hslot hfree hlen hhead hrec hbody => ?_⟩
    obtain ⟨hnone, hsome⟩ := execRegisterRecipe_of_record hc hz hslot hfree hlen hhead hrec hbody
    exact ⟨hnone, fun hr => ⟨State.recipeOf_not_effective hr, hsome r hr⟩⟩
  · refine ⟨execCreateContext_refused hc, fun n hok hfree => ?_⟩
    obtain ⟨hnone, hlow⟩ := State.freeCtx_spec hfree
    refine ⟨hnone, hlow, _, execCreateContext_made hc hok hfree, ?_⟩
    rw [State.answerFn_fn, State.withCtx_fn]
    refine ⟨?_, fun k hk => ?_, mapGet_mapSet_self .., rfl, rfl, State.answerFn_cmd?_self ..⟩
    · rw [State.answerFn_ctx?, State.withCtx_ctx?, if_pos rfl]
    · rw [State.answerFn_ctx?, State.withCtx_ctx?, if_neg hk]
  · refine ⟨execDestroyContext_invalid hl hc hop hslot, fun hv =>
      ⟨if c.st == .admitted then s.beginDestroy cid l.ctx else s, fun hst => if_neg (by simpa using hst), fun hst => ?_,
        execDestroyContext_valid hl hc hop hslot hv rfl⟩⟩
    rw [if_pos (by rw [hst]; rfl)]
    rfl

end Sys2Proof.Machine
end

section
/-! PROOFS. What the work of a tick boundary leaves as it is: the device state, TICK_NUM and the tick phase (R45, R838). -/
namespace Sys2Proof.Machine

/-- The device state, TICK_NUM and the tick phase are as before. -/
structure State.TickFrame (s t : State) : Prop where
  dev : t.dev = s.dev
  num : t.tck.num = s.tck.num
  phase : t.tck.phase = s.tck.phase

namespace State.TickFrame

theorem refl (s : State) : s.TickFrame s := ⟨rfl, rfl, rfl⟩

theorem trans {a b c : State} (h : a.TickFrame b) (k : b.TickFrame c) : a.TickFrame c :=
  ⟨k.dev.trans h.dev, k.num.trans h.num, k.phase.trans h.phase⟩

/-- `trans` with the later step first. -/
theorem after {a b c : State} (k : b.TickFrame c) (h : a.TickFrame b) : a.TickFrame c := h.trans k

theorem ite {s a b : State} {c : Prop} [Decidable c] (ha : s.TickFrame a) (hb : s.TickFrame b) : s.TickFrame (if c then a else b) := by
  split <;> assumption

theorem foldl {α : Type} {f : State → α → State} (hf : ∀ (s : State) (x : α), s.TickFrame (f s x)) (l : List α) (s : State) :
    s.TickFrame (l.foldl f s) := by
  induction l generalizing s with
  | nil => exact .refl s
  | cons x l ih => exact (hf s x).trans (ih _)

/-- A change that leaves the device state and the whole tick unit. -/
theorem of_eq {s t : State} (hd : t.dev = s.dev) (ht : t.tck = s.tck) : s.TickFrame t := ⟨hd, by rw [ht], by rw [ht]⟩

/-- A further change that leaves the device state and the whole tick unit. -/
theorem upd {s a t : State} (h : s.TickFrame a) (hd : t.dev = a.dev) (ht : t.tck = a.tck) : s.TickFrame t := h.trans (of_eq hd ht)

theorem of_kill {s t : State} (h : s.KillFrame t) : s.TickFrame t := of_eq (by rw [h.rest]) (by rw [h.rest])

theorem of_merge {s t : State} (h : s.MergeFrame t) : s.TickFrame t := of_eq (by rw [h.rest]) (by rw [h.rest])

theorem of_port {s t : State} (h : s.PortFrame t) : s.TickFrame t := ⟨by rw [h.rest], by rw [h.rest], by rw [h.rest]⟩

theorem raise (s : State) (r : FaultRec) : s.TickFrame (s.raise r) := of_port (.raise s r)

/-! ### Changes of one unit -/

theorem mLdg (s : State) (f : Ledger → Ledger) : s.TickFrame (s.mLdg f) := of_eq rfl rfl

theorem mStk (s : State) (f : Stoker → Stoker) : s.TickFrame (s.mStk f) := of_eq rfl rfl

theorem mFn (s : State) (n : Nat) (f : Fn → Fn) : s.TickFrame (s.mFn n f) := of_eq rfl rfl

theorem mWb (s : State) (i : Nat) (f : Waybill → Waybill) : s.TickFrame (s.mWb i f) := of_eq rfl rfl

theorem mCmd (s : State) (cid : Nat) (f : Cmd → Cmd) : s.TickFrame (s.mCmd cid f) := of_eq rfl rfl

theorem mCvn (s : State) (f : Caravan → Caravan) : s.TickFrame (s.mCvn f) := of_eq rfl rfl

theorem mTally (s : State) (f : Tally → Tally) : s.TickFrame (s.mTally f) := of_eq rfl rfl

theorem mTable (s : State) (t : Nat) (f : Table → Table) : s.TickFrame (s.mTable t f) := of_eq rfl rfl

theorem mRt (s : State) (t : Nat) (f : TableRt → TableRt) : s.TickFrame (s.mRt t f) := of_eq rfl rfl

theorem mSerais (s : State) (f : Serais → Serais) : s.TickFrame (s.mSerais f) := of_eq rfl rfl

theorem mSerai (s : State) (q : Nat) (f : Serai → Serai) : s.TickFrame (s.mSerai q f) := of_eq rfl rfl

theorem mSeraiCnt (s : State) (q : Nat) (f : SeraiCnt → SeraiCnt) : s.TickFrame (s.mSeraiCnt q f) := of_eq rfl rfl

theorem mHearths (s : State) (f : Hearths → Hearths) : s.TickFrame (s.mHearths f) := of_eq rfl rfl

theorem mHearth (s : State) (h : Nat) (f : Hearth → Hearth) : s.TickFrame (s.mHearth h f) := of_eq rfl rfl

theorem mXlt (s : State) (f : Xlt → Xlt) : s.TickFrame (s.mXlt f) := of_eq rfl rfl

theorem mChm (s : State) (f : Chimney → Chimney) : s.TickFrame (s.mChm f) := of_eq rfl rfl

theorem discardUnit (s : State) (u : CUnit) : s.TickFrame (s.discardUnit u) := of_eq rfl rfl

theorem count (s : State) (e n : Nat) (c : Option Nat) (k m : Nat) : s.TickFrame (s.count e n c k m) := of_eq rfl rfl

/-! ### Kills -/

theorem eraseCmd (s : State) (cid : Nat) : s.TickFrame (s.eraseCmd cid) := of_eq rfl rfl

theorem killCmd (s : State) (cid cause : Nat) : s.TickFrame (s.killCmd cid cause) := of_kill (.killCmd s cid cause)

theorem killRun (s : State) (i cause : Nat) : s.TickFrame (s.killRun i cause) := by
  unfold State.killRun
  exact (discardUnit ..).after (foldl (fun s cid => (killCmd s cid cause).trans (eraseCmd ..)) _ s)

theorem pushAnswer (s : State) (a : Answer) : s.TickFrame (s.pushAnswer a) := of_eq rfl rfl

theorem answerWb (s : State) (i : Nat) (w : Waybill) (outcome cause fault : Nat) : s.TickFrame (s.answerWb i w outcome cause fault) := by
  unfold State.answerWb
  exact (pushAnswer ..).after (ite ((mLdg ..).after (mWb ..)) (mWb ..))

theorem fallbackWrite (s : State) (w : Waybill) : s.TickFrame (s.fallbackWrite w) := by
  unfold State.fallbackWrite
  split
  · exact .refl s
  · exact ite (of_merge (.mergeSet ..)) (.refl s)

theorem fallback (s : State) (i : Nat) (w : Waybill) (outcome : Nat) : s.TickFrame (s.fallback i w outcome) := by
  unfold State.fallback
  exact (answerWb ..).after ((fallbackWrite ..).after ((count ..).after (mCvn ..)))

theorem afterKill (s : State) (i t : Nat) : s.TickFrame (s.afterKill i t) := by
  unfold State.afterKill
  split
  · exact .refl s
  · exact TickFrame.after (ite (answerWb ..) (ite ((mCvn ..).after (mWb ..)) (fallback ..))) (mWb ..)

theorem boundaryKillWb (s : State) (i t : Nat) : s.TickFrame (s.boundaryKillWb i t) := by
  unfold State.boundaryKillWb
  exact (afterKill ..).after ((mCvn ..).after (killRun ..))

theorem spanKill (bound : Bool) (s : State) (cid : Nat) : s.TickFrame (State.spanKill bound s cid) := by
  unfold State.spanKill
  split
  · exact .refl s
  · have hkill := (mCmd (s.killCmd cid 3) cid fun x => { x with st := .withdrawn }).after (killCmd ..)
    exact ite (.refl s) (ite ((mCvn ..).after hkill) hkill)

theorem boundaryKills (s : State) (t : Nat) : s.TickFrame (s.boundaryKills t) := by
  unfold State.boundaryKills
  exact (foldl (fun s cid => spanKill true s cid) _ _).after (foldl (fun s i => boundaryKillWb s i t) _ s)

theorem answerCmd (s : State) (cid : Nat) (c : Cmd) (outcome fault : Nat) : s.TickFrame (s.answerCmd cid c outcome fault) :=
  (pushAnswer ..).trans (eraseCmd ..)

theorem expire (s : State) (cid : Nat) : s.TickFrame (s.expire cid) := by
  unfold State.expire
  split
  · exact .refl s
  · exact (mFn ..).after ((answerCmd ..).after (spanKill ..))

theorem abandonReplays (s : State) (t : Nat) : s.TickFrame (s.abandonReplays t) := by
  unfold State.abandonReplays
  exact foldl (fun s p => ite ((boundaryKillWb ..).after (mWb ..)) (answerWb ..)) _ s

theorem answerRequest (s : State) : s.TickFrame s.answerRequest := by
  unfold State.answerRequest
  split
  · exact .refl s
  · refine ite (of_eq rfl rfl) ?_
    rw [State.respond_frame]
    exact of_eq rfl rfl

/-! ### Tables and Recipes -/

theorem dropCaches (s : State) (ctxs : List Nat) (hit : PageTr → Bool) : s.TickFrame (s.dropCaches ctxs hit) := of_eq rfl rfl

theorem deregisterFn (s : State) (f : Nat) : s.TickFrame (s.deregisterFn f) := by
  unfold State.deregisterFn
  exact ite (.refl s) ((mFn ..).after ((mStk ..).after ((mTally ..).after (dropCaches ..))))

theorem recipesStep (s : State) : s.TickFrame s.recipesStep := by
  unfold State.recipesStep
  exact (mStk ..).after (foldl deregisterFn _ s)

theorem writePieces (poisoned : Bool) (ps : List (PA × Nat)) (s : State) (bs : List Byte) : s.TickFrame (s.writePieces poisoned ps bs) := by
  induction ps generalizing s bs with
  | nil => exact .refl s
  | cons p ps ih => exact (of_merge (.writeThrough ..)).trans (ih ..)

theorem tblWriteP (s : State) (t : Table) (da : Nat) (bs : List Byte) (poisoned : Bool) : s.TickFrame (s.tblWriteP t da bs poisoned) := by
  unfold State.tblWriteP
  split
  · exact writePieces ..
  · exact .refl s

theorem spanCopy (s : State) (tid : Nat) (t : Table) (da : Nat) (data : List Byte) (poisoned : Bool) :
    s.TickFrame (s.spanCopy tid t da data poisoned) := by
  unfold State.spanCopy
  exact foldl (fun s m => ite (tblWriteP ..) (.refl s)) _ s

theorem migCopy (s : State) (tid : Nat) (t : Table) (row : Nat) (data st : List Byte) (poisoned stPoisoned : Bool) :
    s.TickFrame (s.migCopy tid t row data st poisoned stPoisoned) := by
  unfold State.migCopy
  split
  · exact .refl s
  · exact ite (.refl s) ((tblWriteP ..).trans (ite (.refl _) (tblWriteP ..)))

theorem applyRow (s : State) (tid : Nat) (t : Table) (row : Nat) (data st : List Byte) (poisoned stPoisoned : Bool) :
    s.TickFrame (s.applyRow tid t row data st poisoned stPoisoned) := by
  unfold State.applyRow
  extract_lets si sh l slot s1 s2 s3
  have h1 : s.TickFrame s1 := by
    cases hslot : slot with
    | none => simp only [s1, hslot]; exact .refl s
    | some p => simp only [s1, hslot]; exact tblWriteP ..
  clear_value s1
  have h2 : s1.TickFrame s2 := by
    cases hda : t.rowDa sh l with
    | none =>
      cases hslot : slot with
      | none => simp only [s2, hda, hslot]; exact mSeraiCnt ..
      | some p => simp only [s2, hda, hslot]; exact mTable ..
    | some da =>
      simp only [s2, hda]
      exact ite (tblWriteP ..) ((spanCopy ..).after (tblWriteP ..))
  clear_value s2
  exact (migCopy ..).after (.after (ite (.refl _) (tblWriteP ..)) (h2.after h1))

theorem dropHold (s : State) (q tid row : Nat) : s.TickFrame (s.dropHold q tid row) := mSerai ..

theorem applyWrite (s : State) (tid : Nat) (t : Table) (row : Nat) (data st : List Byte) : s.TickFrame (s.applyWrite tid t row data st) := by
  unfold State.applyWrite
  extract_lets q s1
  have h1 : s.TickFrame s1 := dropHold ..
  clear_value s1
  split
  · exact (mSerai ..).after h1
  · exact (applyRow ..).after h1

theorem applyOne (s : State) (q : Nat) (m : Merge) : s.TickFrame (s.applyOne q m) := by
  unfold State.applyOne
  extract_lets s1
  have h1 : s.TickFrame s1 := mSerai ..
  clear_value s1
  split
  · exact h1
  · split
    · exact h1
    · exact .after (ite (mSeraiCnt ..) (ite ((raise ..).after (mSeraiCnt ..))
        ((mTable ..).after ((mSeraiCnt ..).after ((mRt ..).after (applyWrite ..)))))) h1

theorem applyPending (q tid row n : Nat) (s : State) : s.TickFrame (s.applyPending q tid row n) := by
  induction n generalizing s with
  | zero => exact .refl s
  | succ n ih =>
    unfold State.applyPending
    split
    · exact .refl s
    · exact (ih _).after (applyOne ..)

theorem putOverlay (s : State) (q : Nat) (o : Overlay) : s.TickFrame (s.putOverlay q o) := mSerai ..

theorem showEntry (s : State) (o : Overlay) : s.TickFrame (s.showEntry o).1 := by
  unfold State.showEntry
  split
  · exact .refl s
  · extract_lets q s1 s2 s3 o'
    have h1 : s.TickFrame s1 := applyPending ..
    clear_value s1
    split
    · exact (mSeraiCnt ..).after h1
    · exact (mRt ..).after ((putOverlay ..).after (.after (ite ((mSerai ..).after (dropHold ..)) (dropHold ..)) h1))

theorem showAll (os : List Overlay) (s : State) : s.TickFrame (s.showAll os).1 := by
  induction os generalizing s with
  | nil => exact .refl s
  | cons o os ih => exact (ih _).after (showEntry s o)

theorem stepVersions (s : State) (tids : List Nat) : s.TickFrame (s.stepVersions tids) := by
  unfold State.stepVersions
  exact foldl (fun _ _ => mTable ..) _ s

theorem recalSwitch (s : State) (tid : Nat) : s.TickFrame (s.recalSwitch tid) := by
  unfold State.recalSwitch
  split
  · exact ite ((mRt ..).after (mTable ..)) (.refl s)
  · exact .refl s

theorem migSwitch (s : State) (tid : Nat) : s.TickFrame (s.migSwitch tid) := by
  unfold State.migSwitch
  split
  · exact ite (.refl s) ((mRt ..).after ((mTable ..).after ((foldl (fun _ _ => putOverlay ..) _ _).after ((mSerai ..).after (mSerai ..)))))
  · exact .refl s

theorem dropOverlay (s : State) (p : Overlay → Bool) : s.TickFrame (s.dropOverlay p) := mSerais ..

theorem formApply (s : State) : s.TickFrame s.formApply.1 := of_eq rfl rfl

theorem seraisBoundary (s : State) : s.TickFrame s.seraisBoundary := by
  unfold State.seraisBoundary
  exact (mTally ..).after ((mSerais ..).after ((foldl (fun s t => (migSwitch ..).after (recalSwitch s t)) _ _).after
    ((stepVersions ..).after ((formApply _).after ((showAll ..).after (dropOverlay ..))))))

theorem spanSwitch (s : State) (tid : Nat) : s.TickFrame (s.spanSwitch tid) := by
  unfold State.spanSwitch
  exact foldl (fun s _ => ite (.refl s) ((mRt ..).after ((mXlt ..).after (mTable ..)))) _ s

theorem clipCheck (s : State) (tid t : Nat) : s.TickFrame (s.clipCheck tid t) := by
  unfold State.clipCheck
  split
  · exact .refl s
  · exact .after (ite (raise ..) (.refl _)) (mRt ..)

theorem tablesBoundary (s : State) : s.TickFrame s.tablesBoundary := by
  unfold State.tablesBoundary
  exact (mTally ..).after (mSerais ..)

theorem tablesStep (s : State) (t : Nat) : s.TickFrame (s.tablesStep t) := by
  unfold State.tablesStep
  exact (foldl (fun s i => clipCheck s i t) _ _).after ((foldl spanSwitch _ _).after
    ((seraisBoundary _).after ((mTally ..).after (tablesBoundary s))))

/-! ### The rest of the boundary -/

theorem rotate (s : State) (q : Nat) : s.TickFrame (s.rotate q) := by
  unfold State.rotate
  extract_lets u due
  refine ite (.refl s) ?_
  split
  · exact .refl s
  · exact (mHearths ..).after (mHearth ..)

theorem levelsStep (s : State) : s.TickFrame s.levelsStep := of_eq rfl rfl

theorem snapshot (s : State) : s.TickFrame s.snapshot := of_eq rfl rfl

theorem traceTick (s : State) (admitted : Nat) (byWindow : Bool) : s.TickFrame (s.traceTick admitted byWindow) := of_eq rfl rfl

theorem beginAssembly (s : State) : s.TickFrame s.beginAssembly := by
  unfold State.beginAssembly
  exact mCvn ..

theorem sendTickFrame (s : State) : s.TickFrame s.sendTickFrame := ite ⟨rfl, rfl, rfl⟩ (.refl s)

/-- What follows the kills of a boundary. -/
theorem boundary (s : State) : (s.startTick.killStep s.startTick.tck.num.toNat).TickFrame s.boundary := by
  unfold State.boundary
  exact (sendTickFrame _).after ((foldl rotate _ _).after ((foldl (fun s p => of_port (.portBoundary s p)) _ _).after ((beginAssembly _).after
    ((traceTick ..).after ((snapshot _).after ((mChm ..).after ((levelsStep _).after ((tablesStep ..).after (recipesStep _)))))))))

end State.TickFrame

/-! ### The boundary -/

/-- A change of device state enters the state that is due, and keeps the tick. -/
theorem State.changeState_spec {s : State} {d : DevState} (h : s.changeDue = some d) (t : Nat) :
    (s.changeState t).dev = d ∧ (s.changeState t).tck.num = s.tck.num ∧ (s.changeState t).tck.phase = s.tck.phase := by
  unfold State.changeState
  rw [h]
  have hkills : s.TickFrame (((if s.dev == .banked then s.abandonReplays t else s).boundaryKills t)) :=
    (TickFrame.boundaryKills ..).after (.ite (.abandonReplays s t) (.refl s))
  dsimp only
  generalize (if s.dev == .banked then s.abandonReplays t else s).boundaryKills t = u at hkills
  have hall := (TickFrame.foldl .expire (u.spanEnded t true) u).after hkills
  generalize (u.spanEnded t true).foldl State.expire u = v at hall
  obtain ⟨hdev, hnum, hphase⟩ := TickFrame.answerRequest (({ v with dev := d } : State).mTck fun k => { k with
    stateTick := k.num, loadPending := if d == .service then k.follower else k.loadPending })
  exact ⟨hdev, hnum.trans hall.num, hphase.trans hall.phase⟩

/-- The kills of a boundary keep the tick; they enter the state that is due, and no other (R838). -/
theorem State.killStep_spec (s : State) (t : Nat) : (s.killStep t).tck.num = s.tck.num ∧ (s.killStep t).tck.phase = s.tck.phase ∧
    (s.changeDue = none → (s.killStep t).dev = s.dev) ∧ ∀ d, s.changeDue = some d → (s.killStep t).dev = d := by
  unfold State.killStep
  cases h : s.changeDue with
  | none =>
    obtain ⟨hdev, hnum, hphase⟩ := TickFrame.boundaryKills s t
    exact ⟨hnum, hphase, fun _ => hdev, fun d hd => absurd hd (by simp)⟩
  | some d =>
    obtain ⟨hdev, hnum, hphase⟩ := State.changeState_spec h t
    exact ⟨hnum, hphase, fun hn => absurd hn (by simp), fun e he => hdev.trans (Option.some.inj he)⟩

/-- TICK_BOUNDARY steps TICK_NUM by one and enters the state that a posted request asks for, and no other (R45, R838). -/
theorem execTickBoundary_spec {s : State} (hl : s.live = true) : ∃ t, exec .tickBoundary s = .next t ∧ t.tck.num = s.tck.num + 1 ∧
    t.tck.phase = 0 ∧ (s.changeDue = none → t.dev = s.dev) ∧ (∀ d, s.changeDue = some d → t.dev = d) := by
  have hexec : exec .tickBoundary s = execTickBoundary s := rfl
  rw [hexec]
  unfold execTickBoundary
  rw [if_pos hl]
  have hdue : s.startTick.changeDue = s.changeDue := rfl
  obtain ⟨hnum, hphase, hstays, henters⟩ := s.startTick.killStep_spec s.startTick.tck.num.toNat
  obtain ⟨bdev, bnum, bphase⟩ := State.TickFrame.boundary s
  rw [hdue] at hstays henters
  exact ⟨_, rfl, bnum.trans hnum, bphase.trans hphase, fun h => bdev.trans (hstays h), fun d hd => bdev.trans (henters d hd)⟩

end Sys2Proof.Machine
end

section
/-! PROOFS. Ticks, caravans, tick frames and the clock level (R45 to R98, R664, R675, R938 to R946). -/
namespace Sys2Proof.Machine

/-! ### Waybills that are killed (R70, R71, R113) -/

/-- A waybill answered other than by commit is ANSWERING, and its answer is the last in answer order (R113). -/
theorem State.answerWb_spec {s : State} {i : Nat} {x : Waybill} (hx : s.wb? i = some x) (w : Waybill) (outcome cause fault : Nat) :
    (s.answerWb i w outcome cause fault).wb? i = some { x with st := .answering, lane := none } ∧
    ∃ a, (s.answerWb i w outcome cause fault).stk.answers = s.stk.answers ++ [a] ∧ a.waybill = some i ∧ a.outcome = outcome := by
  have hwb : (s.mWb i fun x => { x with st := .answering, lane := none }).wb? i = some { x with st := .answering, lane := none } := by
    rw [State.mWb_wb?_self, hx]
    rfl
  unfold State.answerWb
  dsimp only
  split
  · exact ⟨hwb, _, rfl, rfl, rfl⟩
  · exact ⟨hwb, _, rfl, rfl, rfl⟩

/-- Writing a fallback block changes no waybill and no answer (R74). -/
theorem State.fallbackWrite_frame (s : State) (w : Waybill) : s.MergeFrame (s.fallbackWrite w) := by
  unfold State.fallbackWrite
  split
  · exact .refl s
  · exact .ite (.mergeSet ..) (.refl s)

/-- A waybill answered with its fallback is ANSWERING (R74). -/
theorem State.fallback_spec {s : State} {i : Nat} {x : Waybill} (hx : s.wb? i = some x) (w : Waybill) (outcome : Nat) :
    (s.fallback i w outcome).wb? i = some { x with st := .answering, lane := none } ∧
    ∃ a, (s.fallback i w outcome).stk.answers = s.stk.answers ++ [a] ∧ a.waybill = some i ∧ a.outcome = outcome := by
  unfold State.fallback
  dsimp only
  have hframe := State.fallbackWrite_frame ((s.mCvn fun c => { c with fallbacks := c.fallbacks + 1 }).count 0x10 0xFF (some w.ctx) w.cls 1) w
  generalize State.fallbackWrite _ w = u at hframe
  have hldg : u.ldg = s.ldg := by rw [hframe.rest]; rfl
  have hstk : u.stk = s.stk := by rw [hframe.rest]; rfl
  have hu : u.wb? i = some x := by
    unfold State.wb? at hx ⊢
    rw [hldg, hx]
  obtain ⟨hwb, a, hans, hrest⟩ := State.answerWb_spec hu w outcome 6 0
  exact ⟨hwb, a, by rw [hans, hstk], hrest⟩

/-- The waybill as a kill leaves it before it is FILED again or answered (R70). -/
def Waybill.killed (w : Waybill) : Waybill := { w with killCount := w.killCount + 1, lane := none, readmitted := true, mixed := false }

theorem State.mWb_const {s : State} {i : Nat} {w : Waybill} (hw : s.wb? i = some w) (v : Waybill) : (s.mWb i fun _ => v).wb? i = some v := by
  rw [State.mWb_wb?_self, hw]
  rfl

/-- What becomes of a killed waybill (R70, R71). -/
theorem State.afterKill_eq {s : State} {i t limit : Nat} {w : Waybill} (hw : s.wb? i = some w)
    (hlimit : limit = ((s.recipe? w.recipe).map (·.rerun)).getD 0) : s.afterKill i t =
      if w.abandonReq then (s.mWb i fun _ => w.killed).answerWb i w.killed 6 3 0
      else if (t : Int) ≤ w.lastTick ∧ w.killCount + 1 ≤ limit then
        ((s.mWb i fun _ => w.killed).mWb i fun x => { x with st := .filed }).mCvn fun c => { c with readmits := c.readmits + 1 }
      else (s.mWb i fun _ => w.killed).fallback i w.killed (if w.lastTick < (t : Int) then 2 else 3) := by
  subst hlimit
  unfold State.afterKill
  rw [hw]
  rfl

/-- A killed waybill that may run again is FILED again and not answered (R70). -/
theorem State.afterKill_filed {s : State} {i t limit : Nat} {w : Waybill} (hw : s.wb? i = some w)
    (hlimit : limit = ((s.recipe? w.recipe).map (·.rerun)).getD 0) (hab : w.abandonReq = false) (ht : (t : Int) ≤ w.lastTick)
    (hk : w.killCount + 1 ≤ limit) : ∃ v, (s.afterKill i t).wb? i = some v ∧ v.st = .filed ∧ v.killCount = w.killCount + 1 ∧
      v.readmitted = true ∧ v.lane = none ∧ (s.afterKill i t).stk.answers = s.stk.answers := by
  have hwb : ((s.mWb i fun _ => w.killed).mWb i fun x => { x with st := .filed }).wb? i = some { w.killed with st := .filed } := by
    rw [State.mWb_wb?_self, State.mWb_const hw]
    rfl
  rw [State.afterKill_eq hw hlimit, if_neg (by rw [hab]; exact Bool.false_ne_true), if_pos ⟨ht, hk⟩]
  exact ⟨_, hwb, rfl, rfl, rfl, rfl, rfl⟩

/-- A killed waybill that is abandoned, too late, or killed too often is answered by its fallback or as abandoned (R70, R71). -/
theorem State.afterKill_answered {s : State} {i t limit : Nat} {w : Waybill} (hw : s.wb? i = some w)
    (hlimit : limit = ((s.recipe? w.recipe).map (·.rerun)).getD 0)
    (hend : w.abandonReq = true ∨ w.lastTick < (t : Int) ∨ limit < w.killCount + 1) :
    ∃ v a, (s.afterKill i t).wb? i = some v ∧ v.st = .answering ∧ (s.afterKill i t).stk.answers = s.stk.answers ++ [a] ∧
      a.waybill = some i ∧ a.outcome = (if w.abandonReq then 6 else if w.lastTick < (t : Int) then 2 else 3) := by
  have hu := State.mWb_const hw w.killed
  rw [State.afterKill_eq hw hlimit]
  by_cases hab : w.abandonReq = true
  · obtain ⟨hwb, a, hans, hof, hout⟩ := State.answerWb_spec hu w.killed 6 3 0
    rw [if_pos hab, if_pos hab]
    exact ⟨_, a, hwb, rfl, hans, hof, hout⟩
  · obtain ⟨hwb, a, hans, hof, hout⟩ := State.fallback_spec hu w.killed (if w.lastTick < (t : Int) then 2 else 3)
    have hno : ¬((t : Int) ≤ w.lastTick ∧ w.killCount + 1 ≤ limit) := by
      rintro ⟨hle, hk⟩
      rcases hend with h | h | h
      · exact hab h
      · omega
      · omega
    rw [if_neg hab, if_neg hab, if_neg hno]
    exact ⟨_, a, hwb, rfl, hans, hof, hout⟩

/-! ### The close of a caravan (R67, R68, R98, R664) -/

/-- CARAVAN_CLOSE (R67, R68). -/
theorem execCaravanClose_spec {s u : State} (hl : s.live = true) (hheads : s.cvn.heads ≠ []) (hu : u = s.assemble (s.asmLimit + 12)) :
    exec .caravanClose s = .next (u.cvn.snapshot.foldl State.noCapacity (u.cvn.chosen.reverse.foldl State.join (u.mCvn fun v => { v with
      assembling := false, heads := [], chosen := [], snapshot := [], closedByWindow := u.cvn.assembling
      close100 := (if u.cvn.assembling then u.admitNs else (u.cvn.examined + 1) / 2 * 5 / 6) / 100, admittedN := 0 }))) := by
  subst hu
  have hexec : exec .caravanClose s = execCaravanClose s := rfl
  rw [hexec]
  unfold execCaravanClose
  rw [if_neg (by simp [hl, hheads])]

/-- The lane that a waybill takes is one of its Recipe's, free, and the lowest that is (R664). -/
theorem State.freeLane_spec {s : State} {slot n : Nat} {r : Recipe} (h : s.freeLane slot r = some n) : n < r.lanes ∧
    (∀ p ∈ s.ldg.wb, p.2.recipe = slot → p.2.lane ≠ some n) ∧ ∀ k < n, ∃ p ∈ s.ldg.wb, p.2.recipe = slot ∧ p.2.lane = some k := by
  unfold State.freeLane at h
  split at h
  · exact absurd h (by simp)
  · obtain ⟨hn, hmem, hlow⟩ := List.find?_range_eq_some.1 h
    exact ⟨List.mem_range.1 hmem, by simpa using hn, by simpa using hlow⟩

/-- A waybill's commands entering the part change nothing but the Stoker's commands. -/
theorem State.startWb_frame (s : State) (i : Nat) (w : Waybill) (r : Recipe) (hr : s.recipe? w.recipe = some r) :
    (s.startWb i w).ldg = s.ldg ∧ (s.startWb i w).cvn = s.cvn ∧ (s.startWb i w).stk.nextCid = s.stk.nextCid + r.cmds.length := by
  unfold State.startWb
  rw [hr]
  dsimp only
  have hlen : (waybillCmds w r).length = r.cmds.length := by
    unfold waybillCmds
    simp
  rw [← hlen]
  clear hr hlen
  generalize waybillCmds w r = cs
  induction cs generalizing s with
  | nil => exact ⟨rfl, rfl, rfl⟩
  | cons c cs ih =>
    obtain ⟨hldg, hcvn, hnext⟩ := ih (s.mStk fun k => { k with
      cmds := mapSet k.cmds k.nextCid { c with waybill := some i }, nextCid := k.nextCid + 1 })
    exact ⟨hldg, hcvn, hnext.trans (by simp [Nat.add_comm, Nat.add_left_comm])⟩

/-- A FILED waybill that joins a caravan runs on the lane its Recipe has free, with the Recipe's commands (R98, R660, R664). -/
theorem State.join_spec {s : State} {i : Nat} {w : Waybill} {r : Recipe} (hw : s.wb? i = some w) (hr : s.recipe? w.recipe = some r)
    (hst : w.st = .filed) : ∃ v, (s.join i).wb? i = some v ∧ v.st = .running ∧ v.lane = s.freeLane w.recipe r ∧ v.tset = w.tset ∧
      v.stream = w.stream ∧ (s.join i).stk.nextCid = s.stk.nextCid + r.cmds.length ∧ (s.join i).cvn.admittedN = s.cvn.admittedN + 1 := by
  unfold State.join
  rw [hw]
  dsimp -zeta only
  rw [hr]
  dsimp -zeta only
  rw [if_neg (by rw [hst]; exact Bool.false_ne_true)]
  extract_lets ran vers bad v s1 u
  obtain ⟨hldg, hcvn, hnext⟩ := u.startWb_frame i v r hr
  refine ⟨v, ?_, rfl, rfl, rfl, rfl, hnext, congrArg (·.admittedN + 1) hcvn⟩
  show mapGet (u.startWb i v).ldg.wb i = some v
  rw [hldg]
  exact mapGet_mapSet_self ..

/-- A waybill that is not FILED does not join a caravan and is not answered for want of room (R68, R98). -/
theorem State.join_of_not_filed {s : State} {i : Nat} {w : Waybill} (hw : s.wb? i = some w) (hst : w.st ≠ .filed) :
    s.join i = s ∧ s.noCapacity i = s := by
  constructor
  · unfold State.join
    rw [hw]
    dsimp only
    split
    · rfl
    · rw [if_pos (bne_iff_ne.2 hst)]
  · unfold State.noCapacity
    rw [hw]
    dsimp only
    rw [if_neg (by simp [hst])]

/-- A FILED waybill left out of the caravan is answered when this was its last tick (R68). -/
theorem State.noCapacity_of_filed {s : State} {i : Nat} {w : Waybill} (hw : s.wb? i = some w) (hst : w.st = .filed) :
    (w.lastTick = (s.tck.num.toNat : Int) → s.noCapacity i = s.fallback i w 5) ∧
    (w.lastTick ≠ (s.tck.num.toNat : Int) → s.noCapacity i = s) := by
  unfold State.noCapacity
  rw [hw]
  dsimp only
  exact ⟨fun h => if_pos (by simp [hst, h]), fun h => if_neg (by simp [h])⟩

/-! ### The guard band and the ends of spans (R47, R49, R675) -/

/-- A caravan command not dispatched by the guard band is withdrawn (R47). -/
def Cmd.atGuardBand (c : Cmd) : Cmd := if c.waybill.isSome && c.st == .admitted then { c with st := .withdrawn } else c

/-- GUARD_BAND_START (R47). -/
theorem execGuardBandStart_spec {s : State} (hl : s.live = true) : ∃ t, exec .guardBandStart s = .next t ∧
    (∀ cid, t.cmd? cid = (s.cmd? cid).map Cmd.atGuardBand) ∧ t.ldg = s.ldg ∧ t.mem = s.mem ∧ t.hearths = s.hearths := by
  have hexec : exec .guardBandStart s = execGuardBandStart s := rfl
  rw [hexec]
  unfold execGuardBandStart
  rw [if_neg (by rw [hl]; exact Bool.false_ne_true)]
  exact ⟨_, rfl, fun cid => mapGet_map s.stk.cmds Cmd.atGuardBand cid, rfl, rfl, rfl⟩

/-- Killing a command at the end of its span answers nothing (R50). -/
theorem State.spanKill_answers (bound : Bool) (s : State) (cid : Nat) : (State.spanKill bound s cid).stk.answers = s.stk.answers := by
  unfold State.spanKill
  split
  · rfl
  · have hkill : ((s.killCmd cid 3).mCmd cid fun x => { x with st := .withdrawn }).stk.answers = s.stk.answers :=
      congrArg (·.answers) (State.killCmd_stk s cid 3)
    split
    · rfl
    · dsimp only
      split
      · exact hkill
      · exact hkill

/-- A command whose span has ended leaves the part and is answered EXPIRED (R49, R675). -/
theorem State.expire_spec {s : State} {cid : Nat} {c : Cmd} (hc : s.cmd? cid = some c) : (s.expire cid).cmd? cid = none ∧
    ∃ a, (s.expire cid).stk.answers = s.stk.answers ++ [a] ∧ a.outcome = 0xC ∧ a.ctx = c.ctx ∧ a.cmdId = c.cmdId := by
  unfold State.expire
  rw [hc]
  refine ⟨(State.eraseCmd_cmd? _ cid cid).trans (if_pos rfl), cmdAnswer c 0xC 0, ?_, rfl, rfl, rfl⟩
  exact congrArg (· ++ [cmdAnswer c 0xC 0]) (State.spanKill_answers false s cid)

/-- The commands that SPAN_EXPIRY answers (R49). -/
theorem State.mem_spanEnded {s : State} {t cid : Nat} : cid ∈ s.spanEnded t false ↔ ∃ c, (cid, c) ∈ s.stk.cmds ∧ c.waybill = none ∧
    opKind c.opcode = some 3 ∧ c.spanEnd ≠ 0 ∧ c.spanEnd ≤ t := by
  unfold State.spanEnded
  simp [and_assoc]

/-- SPAN_EXPIRY (R49, R675). -/
theorem execSpanExpiry_of_live {s : State} (hl : s.live = true) :
    exec .spanExpiry s = .next ((s.spanEnded s.tck.num.toNat false).foldl State.expire s) := by
  have hexec : exec .spanExpiry s = execSpanExpiry s := rfl
  rw [hexec]
  unfold execSpanExpiry
  rw [if_pos hl]

/-! ### Tick frames and holdover (R78 to R83) -/

/-- A tick frame at a follower of the frame input (R78, R79). -/
theorem execTickFrameReceive_spec {s u : State} (f edge : Nat) (hl : s.live = true) (hsrc : s.tck.source = 1)
    (hu : u = s.mTck fun t => { t with goodRun := 0, missed := t.missed + 1 }) :
    (frameSync f = false → exec (.tickFrameReceive f edge) s = .next u) ∧
    (frameSync f = true → frameCrc f = false → exec (.tickFrameReceive f edge) s = .next (u.mTck fun t => { t with
      crcErrors := min 255 (t.crcErrors + 1) })) ∧
    (frameSync f = true → frameCrc f = true →
      (s.tck.lastEdge = none → exec (.tickFrameReceive f edge) s = .next (s.goodFrame (frameNum f) edge)) ∧
      (∀ l near, s.tck.lastEdge = some l → near = decide (distNat edge (l + (s.tck.missed + 1) * s.periodNs) ≤ 1000) →
        (near = false → exec (.tickFrameReceive f edge) s = .next u) ∧
        (near = true → distNat (edge - l) s.periodNs ≤ s.periodNs / 200 + 1000 →
          exec (.tickFrameReceive f edge) s = .next (s.goodFrame (frameNum f) edge)) ∧
        (near = true → s.periodNs / 200 + 1000 < distNat (edge - l) s.periodNs →
          exec (.tickFrameReceive f edge) s = .next ((u.mTck fun t => { t with periodMismatch := true }).raise { code := 0x244 })))) := by
  subst hu
  have hexec : exec (.tickFrameReceive f edge) s = .next (s.follow (frameSync f) (frameCrc f) (frameNum f) edge) := if_pos hsrc
  rw [hexec]
  unfold State.follow TickUnit.follower
  rw [if_neg (by simp [hl, hsrc])]
  refine ⟨fun hs => ?_, fun hs hc => ?_, fun hs hc => ?_⟩
  · simp only [hs]
    rfl
  · simp only [hs, hc]
    rfl
  · simp only [hs, hc, Bool.not_true, Bool.and_false, Bool.false_eq_true, if_false, Bool.and_true]
    refine ⟨fun hn => ?_, fun l near hsome hnear => ?_⟩
    · simp only [hn]
    · have hpred : s.predicted l = l + (s.tck.missed + 1) * s.periodNs := rfl
      simp only [hsome, hpred, ← hnear]
      refine ⟨fun h => ?_, fun h hd => ?_, fun h hd => ?_⟩
      · simp only [h, Bool.false_and, Bool.false_eq_true, if_false]
        rfl
      · simp only [h, hd, decide_true, Bool.and_true, if_true]
      · rw [if_neg (by simp [Nat.not_le.2 hd]), if_pos h]
        rfl

/-- Taking the tick number of a valid frame leaves the run of valid frames, the lock and the correction. -/
theorem State.takeNum_tck (s : State) (num : Nat) : (s.takeNum num).tck = { s.tck with
    num := (s.takeNum num).tck.num, loadPending := (s.takeNum num).tck.loadPending, numMismatch := (s.takeNum num).tck.numMismatch
    mismatchRun := (s.takeNum num).tck.mismatchRun } := by
  unfold State.takeNum
  split
  · split <;> rfl
  · split
    · dsimp only
      split
      · rfl
      · rw [State.raise_frame]
        rfl
    · rfl

/-- A valid frame: the run of valid frames grows, four of them lock the follower, and a correction is at most T / 200 (R80, R81). -/
theorem State.goodFrame_spec {s t : State} {num edge : Nat} (ht : t = s.goodFrame num edge) : t.tck.goodRun = s.tck.goodRun + 1 ∧
    t.tck.missed = 0 ∧ t.tck.lastEdge = some edge ∧ (t.tck.locked = true ↔ s.tck.locked = true ∨ 4 ≤ s.tck.goodRun + 1) ∧
    t.tck.correction ≤ (s.periodNs / 200 : Nat) ∧ -((s.periodNs / 200 : Nat) : Int) ≤ t.tck.correction := by
  subst ht
  unfold State.goodFrame
  extract_lets k ivs run locked err lim s1 s2
  have hs1 : s1.tck.goodRun = run ∧ s1.tck.missed = 0 ∧ s1.tck.lastEdge = some edge ∧ s1.tck.locked = locked ∧
      s1.tck.correction = if locked then max (-lim) (min lim (-err)) else 0 := ⟨rfl, rfl, rfl, rfl, rfl⟩
  have hlast : (if s2.meanBad ivs then s2.periodBad else s2).tck = { s2.tck with
      periodMismatch := (if s2.meanBad ivs then s2.periodBad else s2).tck.periodMismatch } := by
    split
    · unfold State.periodBad
      rw [State.raise_frame]
      rfl
    · rfl
  have hs2 : s2.tck = _ := State.takeNum_tck s1 num
  have hlim : 0 ≤ lim := Int.natCast_nonneg _
  clear_value s1 s2 err
  obtain ⟨hrun, hmissed, hedge, hlocked, hcorr⟩ := hs1
  rw [hlast, hs2]
  refine ⟨hrun, hmissed, hedge, ?_, ?_, ?_⟩
  · show s1.tck.locked = true ↔ _
    simp [hlocked, locked, run, k]
  · show s1.tck.correction ≤ lim
    rw [hcorr]
    split <;> omega
  · show -lim ≤ s1.tck.correction
    rw [hcorr]
    split <;> omega

/-- HOLDOVER_ENTRY (R82). -/
theorem execHoldoverEntry_spec {s : State} (hl : s.live = true) :
    (s.tck.follower = true → s.tck.holdover = false → exec .holdoverEntry s = .next ((s.mTck fun t => { t with
      holdover := true, sourceLost := true, locked := false, goodRun := 0, missed := 0, lastEdge := none, holdoverTicks := 0
      expiryRaised := false, correction := 0, intervals := [] }).raise { code := 0x240 })) ∧
    (s.tck.follower = false ∨ s.tck.holdover = true → exec .holdoverEntry s = .next s) := by
  have hexec : exec .holdoverEntry s = execHoldoverEntry s := rfl
  rw [hexec]
  unfold execHoldoverEntry
  refine ⟨fun hf hh => if_pos (by simp [hl, hf, hh]), fun h => if_neg ?_⟩
  rcases h with h | h <;> simp [h]

/-- HOLDOVER_EXPIRED (R83). -/
theorem execHoldoverExpired_spec {s : State} (hl : s.live = true) :
    (s.tck.holdover = true → 4096 ≤ s.tck.holdoverTicks → s.tck.expiryRaised = false → exec .holdoverExpired s = .next
      ((s.mTck fun t => { t with holdoverExpired := true, expiryRaised := true }).raise { code := 0x243 })) ∧
    (s.tck.holdover = false ∨ s.tck.holdoverTicks < 4096 ∨ s.tck.expiryRaised = true → exec .holdoverExpired s = .next s) := by
  have hexec : exec .holdoverExpired s = execHoldoverExpired s := rfl
  rw [hexec]
  unfold execHoldoverExpired
  refine ⟨fun hh hticks hr => if_pos (by simp [hl, hh, hticks, hr]), fun h => if_neg ?_⟩
  rcases h with h | h | h <;> simp [h]

/-! ### The clock level (R937 to R946) -/

/-- THROT_IN_ASSERT (R939). -/
theorem execThrotInAssert_spec (s : State) : ∃ t, exec .throtInAssert s = .next t ∧ t.pins = { s.pins with throtInN := false } ∧
    t.power.calmSamples = 0 ∧ (s.live = true → t.power.hlevel = max 4 s.power.hlevel) ∧
    (s.live = false → t.power.hlevel = s.power.hlevel) :=
  ⟨_, rfl, rfl, rfl, fun h => if_pos h, fun h => if_neg fun hon : s.live = true => Bool.false_ne_true (h.symm.trans hon)⟩

/-- A step of the clock level that an event asks for is due at once, and again after its interval (R939). -/
theorem stepDue_iff (last : Option Nat) (interval now : Nat) :
    stepDue last interval now = true ↔ last = none ∨ ∃ a, last = some a ∧ a + interval ≤ now := by
  cases last <;> simp [stepDue]

/-- DIE_TEMP_SAMPLE (R939, R945, R946). -/
theorem execDieTempSample_spec {s u : State} {die : Nat} {temp : Int} (hoff : s.dev ≠ .off) (hdie : die < 2) (hu : u = s.mPower (fun p => { p with
      dieTemp0 := if die = 0 then temp else p.dieTemp0, dieTemp1 := if die = 1 then temp else p.dieTemp1
      hotTick := p.hotTick || decide (85 * 256 ≤ temp), calmSamples := if 95 * 256 ≤ temp then 0 else p.calmSamples })) :
    (115 * 256 ≤ temp → exec (.dieTempSample die temp) s = .next (u.trip.mPins fun p => { p with thermtripN := false })) ∧
    (temp < 115 * 256 →
      (u.power.dieTemp0 < 100 * 256 → u.power.dieTemp1 < 100 * 256 → exec (.dieTempSample die temp) s = .next
        (u.mPower fun p => { p with hotStepAt := none })) ∧
      (100 * 256 ≤ u.power.dieTemp0 ∨ 100 * 256 ≤ u.power.dieTemp1 →
        (s.power.hotStepAt = none ∨ (∃ a, s.power.hotStepAt = some a ∧ a + cyclesPerMs ≤ s.time) → exec (.dieTempSample die temp) s = .next
          (u.stepLevel.mPower fun p => { p with hotStepAt := some s.time })) ∧
        (∀ a, s.power.hotStepAt = some a → s.time < a + cyclesPerMs → exec (.dieTempSample die temp) s = .next u))) := by
  have hat : u.power.hotStepAt = s.power.hotStepAt := by rw [hu]; rfl
  have htime : u.time = s.time := by rw [hu]; rfl
  have hexec : exec (.dieTempSample die temp) s = execDieTempSample die temp s := rfl
  rw [hexec]
  unfold execDieTempSample
  rw [if_neg (by simp [hoff]; omega)]
  dsimp only
  rw [← hu]
  clear hu hexec
  have hcool : u.power.hottest < 100 * 256 ↔ u.power.dieTemp0 < 100 * 256 ∧ u.power.dieTemp1 < 100 * 256 := max_lt_iff
  refine ⟨fun htrip => if_pos htrip, fun htrip => ?_⟩
  rw [if_neg (Int.not_le.2 htrip)]
  refine ⟨fun h0 h1 => if_pos (hcool.2 ⟨h0, h1⟩), fun hhot => ?_⟩
  rw [if_neg (fun h => by have := hcool.1 h; omega), hat, htime]
  refine ⟨fun hdue => if_pos ((stepDue_iff ..).2 hdue), fun a ha hlt => if_neg fun hdue => ?_⟩
  rcases (stepDue_iff ..).1 hdue with h | ⟨b, hb, hle⟩
  · exact absurd (ha.symm.trans h) (by simp)
  · obtain rfl := Option.some.inj (ha.symm.trans hb)
    omega

/-- A step of the level changes the level alone. -/
theorem State.stepLevel_power (s : State) :
    s.stepLevel.power = { s.power with hlevel := if s.live then min 5 (s.power.hlevel + 1) else s.power.hlevel } := by
  unfold State.stepLevel
  cases s.live <;> rfl

theorem State.stepLevel_pins (s : State) : s.stepLevel.pins = s.pins := by
  unfold State.stepLevel
  split <;> rfl

/-- The part as a power sample leaves it before it steps the level (R922, R938). -/
def State.sampled (s : State) (w : Nat) (high : Bool) : State :=
  (s.mPins fun p => { p with throtInN := p.throtInN || high }).mPower fun p => { p with
    powerW := w, recent := (w :: p.recent).take 100, avg100us := meanOf ((w :: p.recent).take 100) 10, tickEnergy := p.tickEnergy + w
    tickSamples := p.tickSamples + 1
    calmSamples := if decide (((w :: p.recent).take 100).sum < 1450 * ((w :: p.recent).take 100).length ∧ p.hottest < 95 * 256) &&
      (s.pins.throtInN || high) then p.calmSamples + 1 else 0 }

/-- POWER_SAMPLE while the part is powered (R922, R939). -/
theorem execPowerSample_of_on {s : State} (w : Nat) (high : Bool) (hoff : s.dev ≠ .off) : exec (.powerSample w high) s =
    if !meanAbove (s.sampled w high).power.recent 10 1600 then .next ((s.sampled w high).mPower fun p => { p with powerStepAt := none })
    else if stepDue s.power.powerStepAt (cyclesPerMs / 10) s.time then
      .next ((s.sampled w high).stepLevel.mPower fun p => { p with powerStepAt := some s.time })
    else .next (s.sampled w high) := by
  have hexec : exec (.powerSample w high) s = execPowerSample w high s := rfl
  rw [hexec]
  unfold execPowerSample
  rw [if_neg (by simp [hoff])]
  rfl

/-- POWER_SAMPLE (R922, R938 to R940). -/
theorem execPowerSample_spec {s : State} {w : Nat} {high : Bool} {l : List Nat} (hoff : s.dev ≠ .off) (hl : l = (w :: s.power.recent).take 10) :
    ∃ t, exec (.powerSample w high) s = .next t ∧ t.power.powerW = w ∧ t.power.tickEnergy = s.power.tickEnergy + w ∧
      t.pins.throtInN = (s.pins.throtInN || high) ∧
      (1600 * l.length < l.sum → s.live = true →
        s.power.powerStepAt = none ∨ (∃ a, s.power.powerStepAt = some a ∧ a + cyclesPerMs / 10 ≤ s.time) →
        t.power.hlevel = min 5 (s.power.hlevel + 1)) ∧
      (l.sum ≤ 1600 * l.length → t.power.hlevel = s.power.hlevel ∧ t.power.powerStepAt = none) := by
  have hten : (s.sampled w high).power.recent.take 10 = l := by
    rw [hl]
    exact (List.take_take ..).trans (by simp)
  have habove : meanAbove (s.sampled w high).power.recent 10 1600 = decide (1600 * l.length < l.sum) := by
    unfold meanAbove
    rw [hten]
  have hpower : (s.sampled w high).power.powerW = w ∧ (s.sampled w high).power.tickEnergy = s.power.tickEnergy + w ∧
      (s.sampled w high).power.hlevel = s.power.hlevel := ⟨rfl, rfl, rfl⟩
  have hpins : (s.sampled w high).pins.throtInN = (s.pins.throtInN || high) := rfl
  have hlive : (s.sampled w high).live = s.live := rfl
  rw [execPowerSample_of_on w high hoff, habove]
  generalize s.sampled w high = u at *
  obtain ⟨hw, henergy, hlevel⟩ := hpower
  by_cases hab : 1600 * l.length < l.sum
  · rw [if_neg (by simp [hab])]
    by_cases hdue : stepDue s.power.powerStepAt (cyclesPerMs / 10) s.time = true
    · rw [if_pos hdue]
      refine ⟨_, rfl, ?_, ?_, ?_, fun _ hon _ => ?_, fun hle => absurd hle (Nat.not_le.2 hab)⟩
      · show u.stepLevel.power.powerW = w
        rw [State.stepLevel_power, hw]
      · show u.stepLevel.power.tickEnergy = _
        rw [State.stepLevel_power, henergy]
      · show u.stepLevel.pins.throtInN = _
        rw [State.stepLevel_pins, hpins]
      · show u.stepLevel.power.hlevel = _
        rw [State.stepLevel_power, hlive, if_pos hon, hlevel]
    · rw [if_neg hdue]
      exact ⟨u, rfl, hw, henergy, hpins, fun _ _ h => absurd ((stepDue_iff ..).2 h) hdue, fun hle => absurd hle (Nat.not_le.2 hab)⟩
  · rw [if_pos (by simp [hab])]
    exact ⟨_, rfl, hw, henergy, hpins, fun h => absurd h hab, fun _ => ⟨hlevel, rfl⟩⟩

/-- The level of the next tick is at least H4 while THROT_IN_N is low, and faster by one at most, after a calm 1 ms with it high (R938, R940). -/
theorem State.nextLevel_spec (s : State) : (s.pins.throtInN = false → 4 ≤ s.nextLevel) ∧ s.power.hlevel ≤ s.nextLevel + 1 ∧
    (s.nextLevel < s.power.hlevel → 100 ≤ s.power.calmSamples ∧ s.pins.throtInN = true) := by
  unfold State.nextLevel
  extract_lets p base calm kept
  have hkept : kept = if calm then s.power.hlevel - 1 else s.power.hlevel := rfl
  have hcalm : calm = true ↔ 100 ≤ s.power.calmSamples ∧ s.pins.throtInN = true := by simp [calm, p]
  clear_value base kept calm
  refine ⟨fun hlow => ?_, ?_, fun hlt => ?_⟩
  · rw [if_neg (by rw [hlow]; exact Bool.false_ne_true)]
    omega
  · split at hkept <;> omega
  · by_contra hno
    rw [if_neg fun h => hno (hcalm.1 h)] at hkept
    omega

/-- Settles O59, row by row. -/
theorem ticksAndPower : Obligations.TicksAndPower := by
  refine ⟨fun s => execTickBoundary_spec, fun s i t limit w hw hlimit => ⟨State.afterKill_filed hw hlimit, State.afterKill_answered hw hlimit⟩,
    fun s u hl hh hu => ⟨_, rfl, execCaravanClose_spec hl hh hu⟩,
    fun s i w r hw hr hst => ⟨State.join_spec hw hr hst, State.noCapacity_of_filed hw hst⟩,
    fun s i w hw hst => State.join_of_not_filed hw hst, fun s slot n r => State.freeLane_spec, fun s => execGuardBandStart_spec,
    fun s => execSpanExpiry_of_live, fun s cid c => State.expire_spec, fun s t cid => State.mem_spanEnded,
    fun s f edge => ⟨fun hsrc => if_neg hsrc, fun hl hsrc u hu => execTickFrameReceive_spec f edge hl hsrc hu⟩,
    fun s t num edge => State.goodFrame_spec, fun s hl => ?_, execThrotInAssert_spec, fun s u die temp hoff hdie hu =>
      execDieTempSample_spec hoff hdie hu, fun s w high l hoff hl => execPowerSample_spec hoff hl, State.nextLevel_spec⟩
  obtain ⟨henter, hstay⟩ := execHoldoverEntry_spec hl
  obtain ⟨hexpire, hnot⟩ := execHoldoverExpired_spec hl
  exact ⟨henter, hstay, hexpire, hnot⟩

end Sys2Proof.Machine
end

section
/-! PROOFS. What every register reads at reset, block by block: each register holds its reset value, and an offset without a register reads 0. -/
namespace Sys2Proof.Machine

/-! ### The blocks of which every register reads 0 (R905) -/

theorem reset_readTck (r : Nat) : State.reset.readTck r = 0 := by unfold State.readTck; split <;> rfl

theorem reset_readCvn (r : Nat) : State.reset.readCvn r = 0 := by unfold State.readCvn; split <;> rfl

theorem reset_readStk (r : Nat) : State.reset.readStk r = 0 := by unfold State.readStk; split <;> rfl

theorem reset_readTly (r : Nat) : State.reset.readTly r = 0 := by
  unfold State.readTly
  extract_lets t
  split <;> rfl

theorem reset_readTrv (r : Nat) : State.reset.readTrv r = 0 := by unfold State.readTrv; split <;> rfl

theorem reset_readSve (r : Nat) : State.reset.readSve r = 0 := by unfold State.readSve; split <;> rfl

theorem reset_readDpt (r : Nat) : State.reset.readDpt r = 0 := by unfold State.readDpt; split <;> rfl

theorem reset_readDmp (r : Nat) : State.reset.readDmp r = 0 := by unfold State.readDmp; split <;> rfl

theorem reset_readXlt (r : Nat) : State.reset.readXlt r = 0 := by unfold State.readXlt; split <;> rfl

theorem reset_readRte (r : Nat) : State.reset.readRte r = 0 := by unfold State.readRte; split <;> rfl

theorem reset_readClr (r : Nat) : State.reset.readClr r = 0 := by unfold State.readClr; split <;> rfl

/-- No counter has a snapshot at reset (R799). -/
theorem reset_snap (n : Nat) : mapGetD State.reset.chm.snap n 0 = 0 := rfl

theorem reset_readChm (r : Nat) : State.reset.readChm r = 0 := by
  unfold State.readChm
  dsimp only
  split
  · rfl
  · split
    · rw [reset_snap]
      split <;> rfl
    · split <;> rfl

theorem reset_readWrd (r : Nat) : State.reset.readWrd 0 r = 0 := by
  unfold State.readWrd
  dsimp only
  split
  · rfl
  · split
    · rfl
    · split <;> rfl

/-! ### The blocks with a register that does not read 0 -/

/-- GLB_ID (R913). -/
theorem reset_readGlb (r : Nat) : State.reset.readGlb 0 r = if r = 0x000 then 0x96400000 else 0 := by
  by_cases h : r = 0x000
  · subst h
    rfl
  · rw [if_neg h]
    unfold State.readGlb
    split
    case h_1 => exact absurd rfl h
    all_goals rfl

/-- LDG_CAP_SIZE (R129). -/
theorem reset_readLdg (r : Nat) : State.reset.readLdg r = if r = 0x028 then 24 else 0 := by
  by_cases h : r = 0x028
  · subst h
    rfl
  · rw [if_neg h]
    unfold State.readLdg
    split
    case h_7 => exact absurd rfl h
    all_goals rfl

/-- SRI_LANES and SRI_ACL_CFG (R267, R328). -/
theorem reset_readSri (r : Nat) : State.reset.readSri r =
    if r = 0x004 then 0xFFFF else if r = 0x148 then 0xA * 2 ^ 24 + 0x400 * 2 ^ 8 + 0x14 * 2 ^ 2 else 0 := by
  by_cases h : r = 0x004
  · subst h
    rfl
  · by_cases k : r = 0x148
    · subst k
      rfl
    · rw [if_neg h, if_neg k]
      unfold State.readSri
      split
      case h_2 => exact absurd rfl h
      case h_21 => exact absurd rfl k
      all_goals rfl

/-- HTH_UNITS (R379). -/
theorem reset_readHth (r : Nat) : State.reset.readHth r = if r = 0x010 then 0x80808080 else 0 := by
  by_cases h : r = 0x010
  · subst h
    rfl
  · rw [if_neg h]
    unfold State.readHth
    split
    case h_5 => exact absurd rfl h
    all_goals rfl

/-- GRT_STATE (R471). -/
theorem reset_readGrt (r : Nat) : State.reset.readGrt r = if r = 0x004 then 0xE4 else 0 := by
  by_cases h : r = 0x004
  · subst h
    rfl
  · rw [if_neg h]
    unfold State.readGrt
    split
    case h_2 => exact absurd rfl h
    all_goals rfl

/-- DRV_STATE (R578). -/
theorem reset_readDrv (r : Nat) : State.reset.readDrv r = if r = 0x000 then 0xFFFF else 0 := by
  by_cases h : r = 0x000
  · subst h
    rfl
  · rw [if_neg h]
    unfold State.readDrv
    split
    case h_1 => exact absurd rfl h
    all_goals rfl

/-- FLT_EMBER (R791). -/
theorem reset_readFlt (r : Nat) : State.reset.readFlt r = if r = 0x024 then 0x00FFFF00 else 0 := by
  by_cases h : r = 0x024
  · subst h
    rfl
  · rw [if_neg h]
    unfold State.readFlt
    split
    case h_7 => exact absurd rfl h
    all_goals rfl

/-- What a register of the control window reads at reset, by block and offset. -/
theorem reset_readBlock (blk r : Nat) : State.reset.readBlock 0 blk r =
    if blk = 0 ∧ r = 0x000 then 0x96400000
    else if blk = 3 ∧ r = 0x028 then 24
    else if blk = 6 ∧ r = 0x004 then 0xFFFF
    else if blk = 6 ∧ r = 0x148 then 0xA * 2 ^ 24 + 0x400 * 2 ^ 8 + 0x14 * 2 ^ 2
    else if blk = 7 ∧ r = 0x010 then 0x80808080
    else if blk = 8 ∧ r = 0x004 then 0xE4
    else if blk = 13 ∧ r = 0x000 then 0xFFFF
    else if blk = 17 ∧ r = 0x024 then 0x00FFFF00
    else 0 := by
  unfold State.readBlock
  split
  case h_21 hno0 _ _ hno3 _ _ hno6 hno7 hno8 _ _ _ _ hno13 _ _ _ hno17 _ _ =>
    simp [show blk ≠ 0 from hno0, show blk ≠ 3 from hno3, show blk ≠ 6 from hno6, show blk ≠ 7 from hno7, show blk ≠ 8 from hno8,
      show blk ≠ 13 from hno13, show blk ≠ 17 from hno17]
  all_goals simp [reset_readGlb, reset_readTck, reset_readCvn, reset_readLdg, reset_readStk, reset_readTly, reset_readSri, reset_readHth,
    reset_readGrt, reset_readTrv, reset_readSve, reset_readDpt, reset_readDmp, reset_readDrv, reset_readXlt, reset_readRte, reset_readClr,
    reset_readFlt, reset_readChm, reset_readWrd]

/-! ### The functions' pages and the BX-3 window -/

theorem reset_fn (fn : Nat) : State.reset.fn fn = {} := rfl

/-- No local slot is valid, counts or holds a fault at reset (R692). -/
theorem reset_slot (n : Nat) : mapGetD ([] : Map LocalSlot) n {} = {} := rfl

theorem reset_log (fn : Nat) : State.reset.log fn = {} := rfl

/-- STK_RING_CFG, FLT_FN_LOG_CFG and HOLDOFF_US (R692, R791). -/
theorem reset_readPage (fn r : Nat) : State.reset.readPage fn r =
    if r = 0x18 then 8 * 2 else if r = 0x3008 then 6 * 2 else if r = 0x3010 then 8 else 0 := by
  unfold State.readPage
  simp only [reset_fn, reset_log, reset_slot]
  by_cases h : r = 0x18
  · subst h
    rfl
  by_cases h' : r = 0x3008
  · subst h'
    rw [if_neg (by decide), if_neg (by decide), if_neg (by decide)]
    rfl
  by_cases h'' : r = 0x3010
  · subst h''
    rw [if_neg (by decide), if_neg (by decide), if_neg (by decide)]
    rfl
  rw [if_neg h, if_neg h', if_neg h'']
  split
  · split <;> rfl
  · split
    · rfl
    · split
      · rfl
      · split
        case h_3 => exact absurd rfl h
        case h_11 => exact absurd rfl h'
        case h_13 => exact absurd rfl h''
        all_goals rfl

/-- BX_ID and BX_MEM_SIZE (R879). -/
theorem reset_readBx (off : Nat) : (State.reset.readBx off).2 = if off = 0x00 then 0x42580321 else if off = 0x28 then 0x2C8 else 0 := by
  by_cases h : off = 0x00
  · subst h
    rfl
  by_cases h' : off = 0x28
  · subst h'
    rfl
  rw [if_neg h, if_neg h']
  unfold State.readBx
  split
  case h_1 => exact absurd rfl h
  case h_2 => rfl
  case h_3 => rfl
  case h_4 =>
    dsimp only
    split
    · rfl
    · split
      case h_8 => exact absurd rfl h'
      all_goals rfl

/-- Settles O3: the blocks, the pages and the window, each at every offset. -/
theorem resetReadsTheResetColumn : Obligations.ResetReadsTheResetColumn :=
  ⟨fun blk _ n _ => reset_readBlock blk (4 * n), fun fn _ n _ => reset_readPage fn (4 * n), fun n _ => reset_readBx (4 * n),
    rfl, rfl, rfl, rfl, rfl, rfl⟩

end Sys2Proof.Machine
end
